-- ==== Sys2Proof/Word.lean ====
section
/-!
DEFINITION. The word types of Itlos (R5, R7, R8): bytes, 64-bit registers, 96-bit instruction words, and the
32-lane masks of a course (R22).
-/

namespace Sys2Proof

/-- One byte of memory (R5). -/
abbrev Byte := BitVec 8

/-- One 64-bit register, address or packet word (R8). -/
abbrev Word := BitVec 64

/-- One instruction word of 96 bits (R70). -/
abbrev IWord := BitVec 96

/-- One bit for each lane of a course, bit n for lane n (R22). -/
abbrev LaneMask := BitVec 32

/-- The number of lanes of a course (R20). -/
abbrev lanes : Nat := 32

end Sys2Proof
end

