-- ==== Sys2Proof/Config.lean ====
section
/-!
DEFINITION. What an implementation fixes and the spec leaves open. Every constant here is opaque: it has no body, so
no proof can learn a value of it, and a statement holds whatever the value is. Each is named in notes/assumptions.
-/

namespace Sys2Proof

/-- A customer format's decoder, by image digest and code: class (0 zero, 1 finite, 2 infinite, else NaN), sign,
significand less one, exponent. The BITSTREAM's meaning is not given (R56). Log entry 6. -/
opaque Config.customDecode : Nat → Nat → Nat × Bool × Nat × Int

/-- Which of several codes of one customer value Round writes, by image digest and lowest such code: the spec names none
(R36, R176). Log entry 106. -/
opaque Config.codePick : Nat → Nat → Nat

/-- The code Round writes for a value of a customer format's value set that no code of the wanted sign has, by digest,
sign and magnitude (R37: the spec names none). Log entry 106. -/
opaque Config.missingCode : Nat → Bool → Nat → Nat → Nat

/-- The code of an irrational result whose enclosure never settled within the model's precision. Log entry 7. -/
opaque Config.unsettledCode : Nat → Int → Nat

/-- The free values: the n-th value the machine takes where the spec fixes none (State.free counts them). Log entry 2. -/
opaque Config.freeNat : Nat → Nat

/-- The hash of the token holder's marks (R306: hashed, the hash not given). Log entry 12. -/
opaque Config.markHash : Nat → Nat

/-- Cycles of a core, of a cluster's launcher and of a sequencer that pass in a step, less one, by agent and step (R6,
R25, R26: the spec relates no two agents' clocks). Log entry 1. -/
opaque Config.coreRate : Nat → Nat → Nat
opaque Config.launcherRate : Nat → Nat → Nat
opaque Config.seqRate : Nat → Nat → Nat

/-- The L2's replacement: the set of a sector, an owner's next replacement state after a use of a way of a set, and the way
that a state gives up (R449 names replacement state and gives no policy). Log entry 111. -/
opaque Config.l2Set : Nat → Nat
opaque Config.replNext : Nat → Nat → Nat → Nat
opaque Config.l2Victim : Nat → Nat → Nat

/-- SM3 of a byte list, as a 256-bit number. The spec names the algorithm and does not define it. Log entry 8. -/
opaque Config.sm3 : List (BitVec 8) → BitVec 256

/-- Whether an SM2 signature of a digest verifies under the key with the given digest. Log entry 8. -/
opaque Config.sm2Verify : BitVec 256 → BitVec 256 → List (BitVec 8) → Bool

/-- How the body of a later GROW or SHRINK is folded into a partition's descriptor digest (R470: folded, the folding not
given). Log entry 8. -/
opaque Config.foldDigest : BitVec 256 → List (BitVec 8) → BitVec 256

/-- Whether the completer of an access outside the device (0 the host, k + 1 peer port k) rejects it, by page and time:
its page tables and address map are not the device's (R392, R460, R464). Log entry 13. -/
opaque Config.completerRejects : Nat → Nat → Nat → Bool

/-- STATE of a READY (false) or REVOKED (true) object in a partition block, which R482 does not code. Log entry 8. -/
opaque Config.objStateCode : Bool → BitVec 8

/-- The bytes of the defect log, whose entries R487 does not lay out: die and whether the kind is UNCORE. Log entry 8. -/
opaque Config.defectBytes : List (Nat × Bool) → List (BitVec 8)

/-- The signature that a named key of the device makes of a digest. Log entry 8. -/
opaque Config.sm2Sign : Nat → BitVec 256 → List (BitVec 8)

/-- SM3 digests of Kralia's keys (format key 0, code key 1, firmware key 2), of the ROM (3) and of the device identity
key (4), and of the certificate chain's bytes. Log entry 8. -/
opaque Config.kraliaDigest : Nat → BitVec 256
opaque Config.certChain : BitVec 256 → List (BitVec 8)

end Sys2Proof
end

