-- ==== Sys2Proof/Syntax.lean ====
section
/-!
DEFINITION. The instructions of Itlos and the steps of the device: one constructor of Instr for each row of
spec/opcode_table.json. The first 138 are the instructions of the opcode map (R85), each with its control fields and
its payload; the others are the steps by which the rest of the device acts, each with the objects it acts on. A group
is named by its handle in State.groups, a launch, an object, a context or a started packet's queue by its handle there, a core by its device
index (R2), a function by its number (0 the PF, 1 to 15 the VFs).
-/

namespace Sys2Proof

/-! ### Fields of the instruction word (R70 to R84)

Each payload format is a structure of its own, one field for each field of the spec's table, under the spec's names.
Machine/Operands.lean gives them their typed reading. -/

/-- Bits [95:75] of an instruction word without its opcode (R70): WAIT, SETF, GNEG and GPRED. -/
structure Ctl where
  wait : BitVec 12
  setf : BitVec 4
  gneg : BitVec 1
  gpred : BitVec 4
  deriving DecidableEq, Repr

/-- RRR, the register format (R77). -/
structure RRR where
  d : BitVec 8
  a : BitVec 8
  b : BitVec 8
  c : BitVec 8
  acls : BitVec 2
  bcls : BitVec 2
  ccls : BitVec 2
  dcls : BitVec 2
  ty : BitVec 4
  tyb : BitVec 4
  rm : BitVec 3
  sat : BitVec 1
  es : BitVec 2
  xl : BitVec 2
  xp : BitVec 4
  mod : BitVec 4
  deriving DecidableEq, Repr

/-- RRI, the immediate format (R78). -/
structure RRI where
  d : BitVec 8
  a : BitVec 8
  dcls : BitVec 2
  acls : BitVec 2
  ty : BitVec 4
  mod : BitVec 8
  imm : BitVec 32
  deriving DecidableEq, Repr

/-- MEM, the memory format (R79). -/
structure MEM where
  d : BitVec 8
  base : BitVec 8
  index : BitVec 8
  space : BitVec 2
  order : BitVec 3
  scope : BitVec 3
  width : BitVec 6
  bcls : BitVec 1
  ixen : BitVec 1
  off : BitVec 24
  deriving DecidableEq, Repr

/-- BR, the branch format (R81). -/
structure BR where
  loff : BitVec 32
  slot : BitVec 3
  y : BitVec 1
  xr : BitVec 8
  xcls : BitVec 1
  rsv : BitVec 19
  deriving DecidableEq, Repr

/-- MAT, the matrix format (R82). -/
structure MAT where
  zd : BitVec 4
  va : BitVec 8
  bcls : BitVec 2
  bidx : BitVec 6
  sla : BitVec 4
  slb : BitVec 4
  pair : BitVec 1
  sp : BitVec 1
  bs : BitVec 1
  reuse : BitVec 1
  sat : BitVec 1
  ssc : BitVec 6
  vx : BitVec 8
  row : BitVec 6
  rm : BitVec 3
  rsv : BitVec 8
  deriving DecidableEq, Repr

/-- ASY, the asynchronous format (R83). -/
structure ASY where
  d : BitVec 8
  a : BitVec 8
  b : BitVec 8
  dcls : BitVec 2
  acls : BitVec 2
  bcls : BitVec 2
  win : BitVec 6
  bar : BitVec 4
  node : BitVec 8
  ccls : BitVec 3
  cnt : BitVec 6
  mod : BitVec 7
  deriving DecidableEq, Repr

/-- SYS, the system format (R84). -/
structure SYS where
  d : BitVec 8
  a : BitVec 8
  dcls : BitVec 2
  acls : BitVec 2
  spr : BitVec 8
  code : BitVec 16
  rsv : BitVec 20
  deriving DecidableEq, Repr

/-! ### Operands of the device's steps -/

/-- Where a placement puts a group: its core and the byte offset of its scratchpad allocation there (R100, R112). -/
structure Place where
  grp : Nat
  core : Nat
  base : Nat
  deriving DecidableEq, Repr

/-- A packet's header and which packet it is: the model's own number of its queue and its index there (R414, R417). -/
structure PktHdr where
  queue : Nat
  index : BitVec 32
  flags : BitVec 8
  tag : BitVec 32
  cpl : Word
  deriving DecidableEq, Repr

/-- The body of a LAUNCH_GRAPH (R418). -/
structure LaunchBody where
  handle : BitVec 16
  node : BitVec 8
  setSize : BitVec 8
  seed : BitVec 32
  entries : Word
  count : BitVec 32
  nb : BitVec 32
  poolVa : Word
  items : Word
  deriving DecidableEq, Repr

/-- The body of a WAIT_MEM (R418). -/
structure WaitBody where
  addr : Word
  value : Word
  mask : Word
  cond : BitVec 8
  wide : Bool
  timeout : BitVec 32
  deriving DecidableEq, Repr

/-- What a host or peer asks of device memory (R188, R459, R464): an atomic names its operation (0 ADD, 1 MIN, 2 MAX,
3 AND, 4 OR, 5 XOR, 6 XCHG, 7 CAS), its type code of R80, and whether the old value goes back. -/
inductive AccKind where
  | read | write
  | atomic (op ty : Nat) (returns : Bool)
  deriving DecidableEq, Repr

/-- An access by the host or an incoming peer access (R188, R464): a little-endian value of size bytes. A write writes
the bits of mask (R191). Bit i of poison: the access's i-th sector is poisoned. -/
structure HostAcc where
  kind : AccKind
  addr : Nat
  size : Nat
  value : Nat
  mask : Nat
  compare : Nat
  poison : Nat
  deriving DecidableEq, Repr

/-- A write to a queue's notify register (R414): the WIDX it carries, and whether it came with the T bit on the function's
bound stream (R468; log entry 20). -/
structure NotifyVal where
  widx : BitVec 32
  tBit : Bool
  deriving DecidableEq, Repr

/-- A command block of the security processor as its bytes lay in host memory (R437). -/
structure CmdBlock where
  bytes : List Byte
  deriving DecidableEq, Repr

/-- Where a soft error strikes (R373, R483). -/
inductive ErrSite where
  | corrected
  | hbm (sector : Nat)
  | scratch (core sector : Nat)
  | vReg (grp course lane reg : Nat)
  | sReg (grp course reg : Nat)
  | pReg (grp course lane reg : Nat)
  /-- A writable special register by its number (R157): %SEED, %BYPLIM, %TRAPPC, %TRAPCAUSE. -/
  | special (grp course lane spr : Nat)
  | reserve (core lane reg : Nat)
  | tile (grp tile : Nat)
  | l1 (core : Nat)
  | icache (core : Nat)
  /-- A 4 KiB page of the package flash, by its offset / 4,096. -/
  | flash (page : Nat)
  deriving DecidableEq, Repr

/-- The instructions and steps of the machine, one constructor for each row of the opcode table. -/
inductive Instr where
  | iadd (k : Ctl) (f : RRR)
  | iaddImm (k : Ctl) (f : RRI)
  | isub (k : Ctl) (f : RRR)
  | isubImm (k : Ctl) (f : RRI)
  | imul (k : Ctl) (f : RRR)
  | imulImm (k : Ctl) (f : RRI)
  | imulh (k : Ctl) (f : RRR)
  | imad (k : Ctl) (f : RRR)
  | ineg (k : Ctl) (f : RRR)
  | iabs (k : Ctl) (f : RRR)
  | imin (k : Ctl) (f : RRR)
  | iminImm (k : Ctl) (f : RRI)
  | imax (k : Ctl) (f : RRR)
  | imaxImm (k : Ctl) (f : RRI)
  | ishl (k : Ctl) (f : RRR)
  | ishr (k : Ctl) (f : RRR)
  | irot (k : Ctl) (f : RRR)
  | and (k : Ctl) (f : RRR)
  | andImm (k : Ctl) (f : RRI)
  | or (k : Ctl) (f : RRR)
  | orImm (k : Ctl) (f : RRI)
  | xor (k : Ctl) (f : RRR)
  | xorImm (k : Ctl) (f : RRI)
  | andn (k : Ctl) (f : RRR)
  | andnImm (k : Ctl) (f : RRI)
  | not (k : Ctl) (f : RRR)
  | bfx (k : Ctl) (f : RRR)
  | bfi (k : Ctl) (f : RRR)
  | brev (k : Ctl) (f : RRR)
  | popc (k : Ctl) (f : RRR)
  | clz (k : Ctl) (f : RRR)
  | ctz (k : Ctl) (f : RRR)
  | icmp (k : Ctl) (f : RRR)
  | icmpImm (k : Ctl) (f : RRI)
  | isel (k : Ctl) (f : RRR)
  | lea (k : Ctl) (f : RRR)
  | leaImm (k : Ctl) (f : RRI)
  | mov (k : Ctl) (f : RRR)
  | movi (k : Ctl) (f : RRI)
  | pset (k : Ctl) (f : RRR)
  | plop (k : Ctl) (f : RRR)
  | shfl (k : Ctl) (f : RRR)
  | qxch (k : Ctl) (f : RRR)
  | vote (k : Ctl) (f : RRR)
  | perm (k : Ctl) (f : RRR)
  | pack (k : Ctl) (f : RRR)
  | unpack (k : Ctl) (f : RRR)
  | movs (k : Ctl) (f : SYS)
  | movss (k : Ctl) (f : SYS)
  | pchk (k : Ctl) (f : RRR)
  | pclr (k : Ctl) (f : RRR)
  | fadd (k : Ctl) (f : RRR)
  | fsub (k : Ctl) (f : RRR)
  | fmul (k : Ctl) (f : RRR)
  | fma (k : Ctl) (f : RRR)
  | fmin (k : Ctl) (f : RRR)
  | fmax (k : Ctl) (f : RRR)
  | fcmp (k : Ctl) (f : RRR)
  | fclass (k : Ctl) (f : RRR)
  | frnd (k : Ctl) (f : RRR)
  | fscale (k : Ctl) (f : RRR)
  | frcp (k : Ctl) (f : RRR)
  | frsq (k : Ctl) (f : RRR)
  | fsqrt (k : Ctl) (f : RRR)
  | fexp2 (k : Ctl) (f : RRR)
  | flog2 (k : Ctl) (f : RRR)
  | fsin (k : Ctl) (f : RRR)
  | fcos (k : Ctl) (f : RRR)
  | ftanh (k : Ctl) (f : RRR)
  | fdiv (k : Ctl) (f : RRR)
  | cvt (k : Ctl) (f : RRR)
  | cvti (k : Ctl) (f : RRR)
  | cvtf (k : Ctl) (f : RRR)
  | bscale (k : Ctl) (f : RRR)
  | fmtq (k : Ctl) (f : RRR)
  | ld (k : Ctl) (f : MEM)
  | st (k : Ctl) (f : MEM)
  | cas (k : Ctl) (f : MEM)
  | fence (k : Ctl) (f : MEM)
  | pref (k : Ctl) (f : MEM)
  | cctl (k : Ctl) (f : MEM)
  | probe (k : Ctl) (f : MEM)
  | mapc (k : Ctl) (f : RRR)
  | atomAdd (k : Ctl) (f : MEM)
  | atomMin (k : Ctl) (f : MEM)
  | atomMax (k : Ctl) (f : MEM)
  | atomAnd (k : Ctl) (f : MEM)
  | atomOr (k : Ctl) (f : MEM)
  | atomXor (k : Ctl) (f : MEM)
  | atomXchg (k : Ctl) (f : MEM)
  | redAdd (k : Ctl) (f : MEM)
  | redMin (k : Ctl) (f : MEM)
  | redMax (k : Ctl) (f : MEM)
  | redAnd (k : Ctl) (f : MEM)
  | redOr (k : Ctl) (f : MEM)
  | redXor (k : Ctl) (f : MEM)
  | wbind (k : Ctl) (f : ASY)
  | wtouch (k : Ctl) (f : ASY)
  | wstat (k : Ctl) (f : ASY)
  | wdrop (k : Ctl) (f : ASY)
  | wflush (k : Ctl) (f : ASY)
  | cntwait (k : Ctl) (f : ASY)
  | binit (k : Ctl) (f : ASY)
  | barr (k : Ctl) (f : ASY)
  | bwait (k : Ctl) (f : ASY)
  | barw (k : Ctl) (f : ASY)
  | bexp (k : Ctl) (f : ASY)
  | binv (k : Ctl) (f : ASY)
  | mma (k : Ctl) (f : MAT)
  | mmaz (k : Ctl) (f : MAT)
  | zld (k : Ctl) (f : MAT)
  | zst (k : Ctl) (f : MAT)
  | zmov (k : Ctl) (f : MAT)
  | zrmax (k : Ctl) (f : MAT)
  | zrscale (k : Ctl) (f : MAT)
  | bra (k : Ctl) (f : BR)
  | brx (k : Ctl) (f : BR)
  | call (k : Ctl) (f : BR)
  | callx (k : Ctl) (f : BR)
  | ret (k : Ctl) (f : BR)
  | exit (k : Ctl) (f : SYS)
  | yield (k : Ctl) (f : SYS)
  | sleep (k : Ctl) (f : SYS)
  | nop (k : Ctl) (f : SYS)
  | regq (k : Ctl) (f : SYS)
  | rres (k : Ctl) (f : ASY)
  | remit (k : Ctl) (f : ASY)
  | rcancel (k : Ctl) (f : ASY)
  | fetch (k : Ctl) (f : ASY)
  | txbegin (k : Ctl) (f : BR)
  | txend (k : Ctl) (f : ASY)
  | txabort (k : Ctl) (f : ASY)
  | txstat (k : Ctl) (f : ASY)
  | trap (k : Ctl) (f : SYS)
  | bkpt (k : Ctl) (f : SYS)
  | hret (k : Ctl) (f : SYS)
  | qpost (k : Ctl) (f : SYS)
  | ckpt (k : Ctl) (f : SYS)
  | issueSelection (core grp course : Nat)
  | lineFill (core grp : Nat) (line : Word)
  | longLatencyComplete (grp course index : Nat)
  | laneReplay (grp course lane : Nat)
  | returnStackFillReturn (grp course lane : Nat)
  | sleepExpire (grp course lane : Nat)
  | handlerEntry (core : Nat)
  | regqGrant (grp role : Nat)
  | windowSectorArrival (grp win sector : Nat)
  | windowSectorFault (grp win sector : Nat)
  | wflushComplete (grp win : Nat)
  | storeAcceptedAtHome (grp course : Nat)
  | matrixEntryStart (core : Nat)
  | matrixEntryRetire (core : Nat)
  | txVerdict (grp course : Nat)
  | recordPublished (launch : Nat)
  | coalescingTimerExpire (launch node key : Nat)
  | rresGrant (launch : Nat)
  | groupPlace (places : List Place)
  | groupPlacementComplete (grp : Nat)
  | groupRetire (grp : Nat)
  | fmtBind (hdr : PktHdr) (slot : BitVec 8) (image : Word)
  | fmtRelease (hdr : PktHdr) (slot : BitVec 8)
  | fmtVerifyComplete (part slot : Nat)
  | fmtSlotEnable (part slot core : Nat)
  | fmtSlotDisable (part slot core : Nat)
  | fmtDrainComplete (part slot : Nat)
  | codePageCheckComplete (obj page : Nat)
  | objectLoadComplete (obj : Nat)
  | objectDrainComplete (obj : Nat)
  | ctxCreate (fn : Nat) (ctxid : BitVec 16)
  | ctxDestroy (fn : Nat) (ctxid : BitVec 16)
  | loadObject (fn : Nat) (ctxid : BitVec 16)
  | unloadObject (fn : Nat) (ctxid : BitVec 16)
  | save (fn : Nat) (ctxid : BitVec 16)
  | restore (fn : Nat) (ctxid : BitVec 16)
  | checkpoint (fn : Nat) (ctxid : BitVec 16)
  | haltArrival (grps : List Nat)
  | saveComplete (grp : Nat)
  | preemptRequest (part : Nat)
  | qCreate (fn : Nat) (qid : BitVec 16)
  | qDestroy (fn : Nat) (qid : BitVec 16)
  | qClear (fn : Nat) (qid : BitVec 16)
  /-- tBit: the write came with the T bit on the function's bound IDE stream (R468). -/
  | notifyWrite (fn : Nat) (qid : BitVec 16) (value : NotifyVal)
  | queueMap (part : Nat)
  | packetStart (queue : Nat)
  | launchGraph (hdr : PktHdr) (body : LaunchBody)
  | copy (hdr : PktHdr) (src dst len : Word)
  | fill (hdr : PktHdr) (dst len pattern : Word)
  | waitMem (hdr : PktHdr) (body : WaitBody)
  | waitMemRetest (queue : Nat)
  | waitMemPoll (queue : Nat)
  | waitMemTimeout (queue : Nat)
  | signalMem (hdr : PktHdr) (addr value : Word) (add : Bool) (wide : Bool)
  | event (hdr : PktHdr) (data : Word)
  | resync (hdr : PktHdr) (buf : Word) (len : BitVec 32)
  | packetComplete (queue : Nat) (index : BitVec 32) (status : BitVec 8)
  | eventRecordWrite (part : Nat)
  | evtHeadWrite (fn : Nat) (value : Word)
  | fnPauseWrite (vf : Nat) (value : Word)
  | functionLevelReset (fn : Nat)
  | weightWrite (part owner : Nat) (value : Byte)
  | prqEntryWrite (fn stage : Nat)
  | prqReply (fn stage : Nat) (value : Word)
  | prqBaseWrite (fn stage : Nat) (value : Word)
  | invContextAll (fn : Nat) (ctxid seq : BitVec 16)
  | invContextRange (fn : Nat) (ctxid : BitVec 16) (pages : BitVec 6) (seq : BitVec 16)
  | invStage2All (fn : Nat) (seq : BitVec 16)
  | invStage2Range (fn : Nat) (pages : BitVec 6) (seq : BitVec 16)
  | invComplete (fn : Nat)
  | atsCompletion (fn : Nat) (addr : Word) (pasid : BitVec 20) (read write : Bool) (translated : Word)
  | prgResponse (fn : Nat) (index : BitVec 9) (code : BitVec 4)
  | atsInvalidateRequest (fn : Nat) (addr : Word) (pages : Nat)
  | hostAccess (part : Nat) (acc : HostAcc)
  | partCreate (fn : Nat) (block : CmdBlock)
  | partDestroy (fn : Nat) (block : CmdBlock)
  | partGrow (fn : Nat) (block : CmdBlock)
  | partShrink (fn : Nat) (block : CmdBlock)
  | shareSet (fn : Nat) (block : CmdBlock)
  | lend (fn : Nat) (block : CmdBlock)
  | recall (fn : Nat) (block : CmdBlock)
  | keyEnroll (fn : Nat) (block : CmdBlock)
  | meterReport (fn : Nat) (block : CmdBlock)
  | meterSeed (fn : Nat) (block : CmdBlock)
  | wayMoveEpoch (slice : Nat)
  | lnkReset (fn port : Nat)
  | partnerDetect (port : Nat) (remote : BitVec 4)
  | trainingComplete (port goodLanes : Nat)
  | trainingTimeout (port : Nat)
  | linkFailure (port : Nat) (lossOfSignal : Bool)
  | flitReceive (port : Nat) (seq ack : BitVec 12) (kind : BitVec 8) (checkOk : Bool)
  | peerRequestReceive (port : Nat) (acc : HostAcc)
  | pcieLinkDown (pair : Nat)
  | dump (fn : Nat) (value : Word)
  | dumpComplete
  | lockInterfaceRequest (vf stream session : Nat)
  | startInterfaceRequest (vf : Nat)
  | stopInterfaceRequest (vf : Nat)
  | getDeviceInterfaceReport (vf : Nat)
  | tdiError (vf : Nat)
  | getCertificate
  | getMeasurements (index : BitVec 8)
  | writeSlot (slotB : Bool)
  | setMarker (slotB : Bool)
  | commitSvn
  | ownerFuse
  | writeConfig
  | boot
  | softError (site : ErrSite)
  | patrolScrub (sector : Nat)
  | katConfirmed (cluster : Nat)
  | registerWrite (fn : Nat) (off : BitVec 20) (value : Word)
  | powerLoss
  | ideKmKeyProg (fn stream : Nat) (key : BitVec 256)
  | securedSpdmSession (session : Nat) (up : Bool)
  deriving DecidableEq, Repr

end Sys2Proof
end

