-- ==== Sys2Proof/Machine/State.lean ====
section
/-!
DEFINITION. The machine's state as plain data (R8, R22, R24): lanes, courses, groups, cores, launches, contexts,
queues, functions, partitions, links, flash and memory, with every reset value the spec states. Fields marked in
notes/assumptions as the model's own: time, free, turn, sel, agenda, rr and the counters nextGroup and nextReq.
-/

namespace Sys2Proof.Machine

/-- The image a bound slot holds: its descriptor without GEN and STATE, the codes its header names, its digest, and whether
it is no vendor image, so that its own BITSTREAM decodes it (R56 to R58). -/
structure Image where
  desc : Word
  canonNan : Nat
  maxFinite : Nat
  digest : Nat
  own : Bool
  deriving DecidableEq, Repr

/-! ### Values with poison, memories (R137, R181, R373) -/

/-- A 64-bit value with its poison bit (R137, R157). -/
structure PWord where
  val : Word
  poison : Bool
  deriving DecidableEq, Repr

/-- A byte memory: the listed cells in canonical form (addresses strictly rising, no byte equal to the zero an unlisted
address reads as), and the poisoned 32-byte sectors, rising (R191, R373). -/
structure Memory where
  cells : List Host.Cell
  poisoned : List Nat
  deriving DecidableEq, Repr

/-- A list of numbers is strictly rising. -/
def risingB : List Nat → Bool
  | [] => true
  | [_] => true
  | a :: b :: l => decide (a < b) && risingB (b :: l)

/-- The cells are strictly rising and hold no zero byte. -/
def Memory.wf (m : Memory) : Bool :=
  risingB (m.cells.map (·.1)) && m.cells.all (fun c => c.2 != 0) && risingB m.poisoned

def Memory.empty : Memory := ⟨[], []⟩

/-- Where a byte lives (R181, R186, R188, R189): device HBM, host memory, a peer's memory behind a port, or one core's
scratchpad. -/
inductive Tgt where
  | hbm
  | host
  | peer (port : Nat)
  | scratch (core : Nat)
  deriving DecidableEq, Repr

/-- A masked write to one 32-byte sector (R191). -/
structure SecWrite where
  tgt : Tgt
  sector : Nat
  data : BitVec 256
  mask : BitVec 256
  poison : Bool
  deriving DecidableEq, Repr

/-! ### Traps and waits (R13, R115, R366) -/

/-- The trap causes of R13. -/
inductive Cause where
  | illegalOpcode | illegalForm | targetAlign | regBound | formatUnavailable | matrixCombo
  | pageFatal | access | misaligned | mixedSizeDebug
  | poisonConsumed | doubleFault | codeIntegrity | featureEmulate | revocableViolation
  | barrierMisuse | windowMisuse | stackLimit | software | breakpoint
  deriving DecidableEq, Repr

/-- A trap raised in a lane and not yet delivered (R367): its cause, the CODE16 of a TRAP or BKPT, and the handler's
entry when an emulation routine is bound (R322). -/
structure PendTrap where
  cause : Cause
  code : BitVec 16
  pc : Word
  routine : Option Word
  deriving DecidableEq, Repr

/-- A FORMAT_UNAVAILABLE that a dropped matrix entry leaves a lane (R286): none, due when the lane is next eligible, or
due once the lane has left the handler of the trap it was restored with. -/
inductive Owed where
  | none | due | afterHandler
  deriving DecidableEq, Repr

/-- An entry that a return-stack fill has read (R114), and the places it comes from: lost if their link is (R466). -/
structure StackFill where
  word : PWord
  via : List Tgt
  deriving DecidableEq, Repr

/-- Why a live lane is not eligible (R115), beyond what its instruction's WAIT and SETF fields say. -/
inductive Hold where
  | none
  /-- Held by recoverable translation faults: the page requests waited on (R221). -/
  | fault (requests : List Nat)
  /-- Held at a fetch from a code page not yet PRESENT (R326). -/
  | code (object page : Nat)
  /-- A return-stack fill outstanding (R114): entry D when the core did not hold it, entry D−8 when the RET reads it,
  the number of the RET's issue, and whether that issue has counted as a backward transfer (R119). -/
  | fill (entry below : Option StackFill) (token : Nat) (counted : Bool)
  /-- SLEEP until the core's count reaches the value (R132). -/
  | sleep (until_ : Nat)
  /-- BWAIT or BARW on a barrier and token (R263, R268). -/
  | barrier (bar : Nat) (token : Bool)
  /-- A load from sectors of a core's scratchpad that have not arrived in a window (R244). -/
  | window (core : Nat) (sectors : List Nat)
  /-- A blocking RRES in the launch's FIFO (R346, R352). -/
  | rres
  /-- A granted RRES that replays with its grant (R352). -/
  | rresGranted (addr : Word) (result : Word)
  /-- TXEND validating (R304). -/
  | txend
  /-- QPOST to a full ring (R432). -/
  | qpost (queue : Nat)
  /-- A REGQ request waits in its role's FIFO (R109). -/
  | regq
  deriving DecidableEq, Repr

/-! ### Transactions (R294 to R302) -/

/-- The transaction states a lane can be seen in; COMMITTED and ABORTED are left at once (R294). -/
inductive TxState where
  | idle | active | validating | irrevocable
  deriving DecidableEq, Repr

/-- A read-log entry: a sector and its 32 bytes as first read (R296). -/
structure RLog where
  sector : Nat
  data : BitVec 256
  deriving DecidableEq, Repr

/-- A lane's transaction state (R294 to R302, R314). -/
structure Tx where
  state : TxState
  beginD : BitVec 10
  nest : BitVec 8
  aborts : BitVec 4
  target : Word
  record : Word
  rlog : List RLog
  wlog : List SecWrite
  deriving DecidableEq, Repr

/-- An open run of record slots a lane holds (R335, R352). -/
structure Run where
  node : Nat
  block : Nat
  slot : Nat
  size : Nat
  deriving DecidableEq, Repr

/-! ### Lanes (R8, R22, R113) -/

/-- One lane: its registers with their poison bits, its control state, its trap, transaction and record state. -/
structure Lane where
  live : Bool
  pc : Word
  depth : BitVec 10
  /-- Return-stack entries the core holds, by index, newest first (R114). -/
  entries : List (Nat × PWord)
  pass : BitVec 16
  v : Vector Word 256
  vP : BitVec 256
  p : BitVec 16
  pP : BitVec 16
  seed : BitVec 32
  seedP : Bool
  inHandler : Bool
  entryD : BitVec 10
  trapPc : PWord
  trapCause : PWord
  pend : Option PendTrap
  /-- The CAUSE of the trap that the lane's last entry to handler mode was for (R371). -/
  handled : BitVec 8
  /-- A dropped matrix entry's FORMAT_UNAVAILABLE (R286). -/
  dropped : Owed
  hold : Hold
  tx : Tx
  recBase : Word
  recDepth : BitVec 8
  runs : List Run
  /-- The dispenser item last fetched in a revocable group, first index and count (R349). -/
  item : Option (Nat × Nat)
  deriving DecidableEq, Repr

/-- A part of an access that lies in one sector: where it is, its first bit in the sector, its bits, and its first bit
in the value. -/
structure Piece where
  tgt : Tgt
  sector : Nat
  lo : Nat
  nbits : Nat
  off : Nat
  deriving DecidableEq, Repr

/-- A register write that a long-latency operation delivers later (R73, R74). -/
inductive RegWrite where
  | v (lane reg : Nat) (x : PWord)
  | p (lane reg : Nat) (x poison : Bool)
  | s (reg : Nat) (x : PWord)
  | reserve (lane reg : Nat) (x : PWord)
  /-- A V or handler-reserve register whose value comes over link ports: lost when one of them fails (R466). -/
  | far (lane reg : Nat) (x : PWord) (reserve : Bool) (from_ : List Tgt)
  /-- A V or handler-reserve register of a load that may be performed until it is written (R195): x is what its places held when
  the load issued, idx the 64-bit part of the access, guard the poison that its guard adds. -/
  | late (lane reg : Nat) (x : PWord) (reserve : Bool) (idx : Nat) (ps : List Piece) (guard : Bool)
  deriving DecidableEq, Repr

/-- A long-latency operation in flight: the flag it joined, its lanes, its results, and the format slots it named (R55,
R73). -/
structure LongOp where
  flag : Option (Fin 12)
  lanes : LaneMask
  writes : List RegWrite
  slots : List Nat
  deriving DecidableEq, Repr

/-- A store in a course's FIFO (R198): the lane, its sector writes, and the item a revocable lane's store carries. -/
structure FifoStore where
  lane : Nat
  writes : List SecWrite
  item : Option (Nat × Nat)
  deriving DecidableEq, Repr

/-- An outstanding engine operation of a counter class, oldest first (R250): its token and whether it has completed. -/
structure EngOp where
  token : Nat
  done : Bool
  deriving DecidableEq, Repr

/-- A TXEND whose verdict is out (R304, R312): the lanes being validated, the lanes of Active and those of them that
count as committed already, the destination as the instruction encodes it, and the lanes whose guard was poisoned. -/
structure TxEnd where
  lanes : LaneMask
  active : LaneMask
  done : LaneMask
  dst : Option (BitVec 2 × BitVec 8)
  guardP : LaneMask
  deriving DecidableEq, Repr

/-- Trap states of a course (R367). -/
inductive TrapState where
  | ordinary | waiting | handler
  deriving DecidableEq, Repr

/-- One course (R22, R113, R250, R367). -/
structure Course where
  lanes : Vector Lane 32
  role : Nat
  s : Vector Word 64
  sP : BitVec 64
  flags : Vector (BitVec 6) 12
  quota : Nat
  bc : BitVec 8
  forced : Bool
  bypLim : BitVec 8
  bypLimP : Bool
  trap : TrapState
  fifo : List FifoStore
  inflight : List LongOp
  /-- Engine counters COPY, MAT, GATH, COLL: the outstanding operations, oldest first (R250). -/
  engines : Vector (List EngOp) 4
  /-- TXENDs whose verdict is out, oldest first (R304). -/
  txends : List TxEnd
  /-- The course ended and its columns returned to the pool (R102). -/
  ended : Bool
  deriving DecidableEq, Repr

/-! ### Windows and barriers (R236, R239, R258) -/

/-- A tensor descriptor (R236). -/
structure Tensor where
  base : Nat
  ext : Vector Nat 4
  stride : Vector Nat 4
  coord : Vector Int 4
  box : Vector Nat 4
  width : Nat
  rank : Nat
  deriving DecidableEq, Repr

inductive WinState where
  | unbound | absent | filling | faulted | present | flushing
  deriving DecidableEq, Repr

/-- A memory sector that a fill has read, with its poison: it reads each once (R206). -/
structure SeenSector where
  tgt : Tgt
  sector : Nat
  data : BitVec 256
  poison : Bool
  deriving DecidableEq, Repr

/-- One window of a group: its region table entry and its state (R239, R252). -/
structure Window where
  state : WinState
  tensor : Tensor
  reg : Nat
  bar : Option Nat
  nb : Bool
  out : Bool
  err : Bool
  /-- Sectors waiting on a page reply, each with its request (R243). -/
  pend : List (Nat × Nat)
  /-- The group and course that own the fill or flush, and its operation token (R241, R250). -/
  owner : Option (Nat × Nat × Nat)
  /-- The lane on whose behalf the fill or flush runs, and the item its held stores carry (R246, R349). -/
  lane : Nat
  /-- What the fill in progress has read of memory (R206). -/
  seen : List SeenSector
  /-- The pages that the flush in progress waits for, each with its request, and those found fatal (R246). -/
  waits : List (Nat × Nat)
  lost : List Nat
  /-- How many held stores of the group precede the flush in issue order (R249, R486). -/
  mark : Nat
  deriving DecidableEq, Repr

/-- A barrier (R258). -/
structure Barrier where
  init : Bool
  expect : BitVec 6
  cp : Bool
  arrMask : BitVec 32
  arrived : BitVec 6
  cpArr : Bool
  pend : Int                            -- within 64 signed bits
  phase : Bool
  /-- Events have fallen on it in this cycle, and its completion test is still to come (R262). -/
  due : Bool
  /-- A barrier instruction has acted on it in this cycle: a byte update that comes now is one of the next cycle. -/
  acted : Bool
  deriving DecidableEq, Repr

/-! ### The matrix queue (R275, R278, R286) -/

/-- A Z tile: 64 rows of 64 32-bit elements, row major, and its poison bit (R275). -/
structure Tile where
  z : Vector (BitVec 32) 4096
  poison : Bool
  deriving DecidableEq, Repr

inductive MatOp where
  | mma | mmaz | zld | zst | zmov | zrmax | zrscale
  deriving DecidableEq, Repr

/-- A matrix queue entry: the instruction's fields, what it read at issue, and its counter or flag share (R278, R286). -/
structure MatEntry where
  op : MatOp
  f : MAT
  grp : Nat
  course : Nat
  mask : LaneMask
  pc : Word
  /-- The A registers VA to VA+7 of each lane, lane by lane (R273). -/
  aRegs : List (List Word)
  /-- The metadata registers of each lane, or the ZRSCALE factor (R281, R293). -/
  mRegs : List (List Word)
  /-- The row-scale S registers (R282). -/
  scales : List Word
  /-- An operand read at issue was poisoned (R284). -/
  poison : Bool
  /-- The .S offset of the scratchpad operand (R274). -/
  src : Nat
  imageA : Option Image
  imageB : Option Image
  genA : BitVec 16
  genB : BitVec 16
  flag : Option (Fin 12)
  token : Nat
  /-- Lanes whose VX names the handler reserve, and lanes whose guard was poisoned (R97, R126). -/
  inRes : LaneMask
  guardP : LaneMask
  /-- When the entry reached the head of its queue (R283). -/
  headAt : Nat
  started : Bool
  /-- What the entry has read of scratchpad since it started, with its poison (R279, R288). -/
  bData : Nat
  bPoison : Bool
  /-- The sectors it has read before its start, at the drop of the window that they lay in (R279). -/
  bHave : List Nat
  deriving DecidableEq, Repr

/-! ### Format slots (R51 to R58) -/

inductive SlotState where
  | empty | loading | verified | bound | draining
  deriving DecidableEq, Repr

/-- A slot replica of one core, or the format manager's own record of a slot (R52, R53, R58). -/
structure Slot where
  state : SlotState
  gen : BitVec 16
  image : Option Image
  deriving DecidableEq, Repr

/-! ### Cores (R20, R24, R25) -/

/-- A line held in a core's instruction cache (R66, R488). -/
structure ILine where
  data : BitVec 512
  poisoned : Bool
  deriving DecidableEq, Repr

structure Core where
  /-- The model's time at the core's last reset (R25). -/
  since : Nat
  /-- The model's time up to which the core's cycles are charged to owners (R454). -/
  charged : Nat
  /-- The L1: sectors of device HBM held, with their bytes (R187). -/
  l1 : List (Nat × BitVec 256)
  /-- The instruction cache by virtual line address and context (R66). -/
  icache : List ((Nat × Nat) × ILine)
  home : Vector Slot 16
  guest : Vector Slot 16
  /-- The partition the core is lent to, when it runs from its guest bank (R52, R451). -/
  lentTo : Option Nat
  /-- The course in handler mode and the handler queue, as (group, course) (R97, R367). -/
  handler : Option (Nat × Nat)
  handlerQ : List (Nat × Nat)
  /-- The handler reserve: V224 to V255 of each lane (R97). -/
  reserve : Vector (Vector Word 32) 32
  reserveP : Vector (BitVec 32) 32
  matQ : List MatEntry
  /-- The groups in PLACING that wait for room in the queue: while there are any, nothing else joins it (R286). -/
  matHold : List Nat
  scratch : Memory
  /-- The valid bit of each 32-byte sector of scratchpad (R240). -/
  valid : BitVec 12288
  /-- The courses the core has served, by their last turns, the oldest turn first (R118). -/
  served : List (Nat × Nat)
  deriving DecidableEq, Repr
/-! ### Groups (R94 to R112, R210, R258, R485) -/

inductive GroupState where
  | pending | placing | resident | saved | discarded | retired
  deriving DecidableEq, Repr

/-- Ordinary, revocable or redundant execution, fixed at first placement (R406). -/
inductive Mode where
  | ordinary | revocable
  /-- One of two copies: which copy, and the group handle of the other (R485). -/
  | redundant (second : Bool) (other : Nat)
  deriving DecidableEq, Repr

/-- Why a group was saved, and so what makes it PENDING again (R399, R406): a command or CKPT (RESTORE), priority
pre-emption (resources free), or drain mode (its end). -/
inductive SavedBy where
  | command | preempt | drain
  deriving DecidableEq, Repr

/-- A held store or deferred reduction at its home (R210, R211, R224). -/
structure Held where
  course : Nat
  lane : Nat
  write : SecWrite
  /-- A deferred reduction: operation, type, byte offset in the sector, operand (R224). -/
  red : Option (Nat × Nat × Nat × Word)
  item : Option (Nat × Nat)
  deriving DecidableEq, Repr

/-- A REGQ request in its role's FIFO (R109). -/
structure RegqReq where
  course : Nat
  quota : Nat
  mask : LaneMask
  deriving DecidableEq, Repr

/-- A group (R98). Its handle is its place in State.groups; %GROUP is ident. -/
structure Group where
  ident : BitVec 32
  launch : Nat
  node : Nat
  state : GroupState
  mode : Mode
  core : Option Nat
  placed : Bool                         -- placed at least once
  courses : List Course
  rolePools : List Nat                  -- POOL of each role, in columns (R109)
  regq : List (List RegqReq)            -- the FIFO of each role
  scratchKiB : Nat
  allocBase : Nat                       -- byte offset of the allocation on its core (R112)
  tiles : List Tile
  windows : List Window
  barriers : List Barrier
  pbase : Nat
  psize : Nat
  dlim : Nat
  setRank : Nat
  setId : Option Nat                    -- the cluster set, by number within the launch (R107)
  setSize : Nat
  extra : Bool                          -- of a PERSISTENT node, outside its co-resident set (R348)
  lastCore : Option Nat                 -- the core of its last placement (R107)
  avoid : Option (Nat × Nat)            -- the clusters of the pair whose signatures differed (R486)
  records : List (Nat × Nat)            -- bound records, block and slot, in order (R342)
  recCount : Nat
  taken : List (Nat × Nat)              -- what a redundant group has fetched, which a mismatch returns (R349, R486)
  held : List Held
  overflow : Bool                       -- discarded for overflow: re-run on owned cores only (R409)
  halting : Bool                        -- a halt has taken effect, the save is in progress (R401)
  release : Bool                        -- committed to host or peer memory: retirement awaits the link ports (R407)
  tag : BitVec 16                       -- the tag of the last checkpoint (R411)
  savedBy : SavedBy
  saveAddr : Nat                        -- IPA of its reserved record (R403)
  saveLen : Nat                         -- its bytes; 0 while nothing is reserved
  digest : BitVec 256                   -- DIGEST the record was saved with (R404)
  savedScratch : Memory                 -- scratchpad bytes of a SAVED group, from offset 0
  savedValid : BitVec 12288
  savedMat : List MatEntry
  savedReserve : Option (Vector (Vector Word 32) 32 × Vector (BitVec 32) 32)
  copied : Nat                          -- records copied so far while PLACING (R342)
  deriving DecidableEq, Repr

/-! ### Code objects, stage graphs and launches (R315 to R355) -/

/-- A kernel descriptor (R317). -/
structure Kernel where
  entry : Word
  scratch : Nat
  ztiles : Nat
  windows : Nat
  barriers : Nat
  coresident : Bool
  dlim : Nat
  psize : Nat
  roles : List (Nat × Nat)              -- courses and regs
  slotReq : List Nat                    -- FORMAT_ID for FS4 to FS15
  deriving DecidableEq, Repr

inductive NodeKind where
  | gather | keyed | persistent | entry
  deriving DecidableEq, Repr

/-- A node declaration (R331). -/
structure Node where
  kernel : Nat
  rsz : Nat
  kind : NodeKind
  dmax : Nat
  rank : Nat
  revocable : Bool
  redundant : Bool
  quantum : Nat
  timer : Nat
  succ : BitVec 256
  deriving DecidableEq, Repr

/-- Code page states (R325). -/
inductive PageState where
  | absent | loading | present | failed
  deriving DecidableEq, Repr

inductive ObjState where
  | loading | ready | revoked | draining | unloaded
  deriving DecidableEq, Repr

/-- A code object of a context (R315 to R329). -/
structure Obj where
  fn : Nat
  ctx : Nat
  handle : Nat
  state : ObjState
  image : Nat                           -- VA of the file image
  textVa : Nat
  textOff : Nat                         -- offset of .itlos.text in the file
  ranges : List (Nat × Nat)             -- the address ranges its segments take (R315)
  pages : List PageState
  askers : List (Nat × Nat)             -- code pages with the owner of the fetch that had each checked (R325, R454)
  digests : List (BitVec 256)
  emulation : Bool
  emul : List (Nat × Word)              -- feature bit and entry of an emulation object (R321)
  features : BitVec 512
  bound : List (Nat × Word × Nat)       -- bound feature, routine, emulation object (R320)
  kernels : List Kernel
  nodes : List Node
  dataDigest : BitVec 256
  manifestDigest : BitVec 256
  revocations : Nat
  /-- The load report: RESERVE and QMAX of each node that may be a root (R336). -/
  report : List (Nat × Nat × Nat)
  deriving DecidableEq, Repr

/-- Record states (R338). -/
inductive RecState where
  | free | reserved | written | emitted | pending | bound | consumed
  deriving DecidableEq, Repr

/-- A granted record slot of a launch's pool and its metadata (R334, R338, R339). -/
structure Record where
  block : Nat
  slot : Nat
  node : Nat
  state : RecState
  depth : Nat
  key : Nat
  age : Nat
  grp : Option Nat                      -- the group that holds its run, or that it is bound to
  ownedOnly : Bool                      -- returned by an overflow: runs on owned cores only (R214, R409)
  avoid : Option (Nat × Nat)            -- returned by a signature mismatch: the clusters of that pair (R486)
  deriving DecidableEq, Repr

/-- A pool block: its node, its first unused slot, and whether it is its node's open block (R335). -/
structure Block where
  node : Nat
  used : Nat
  opened : Bool
  deriving DecidableEq, Repr

/-- A waiting RRES request (R346). -/
structure RresReq where
  grp : Nat
  course : Nat
  lane : Nat
  node : Nat
  count : Nat
  deriving DecidableEq, Repr

/-- A publication in progress: the records of a REMIT whose release is not complete (R353). -/
structure Publication where
  grp : Nat
  records : List (Nat × Nat)
  deriving DecidableEq, Repr

/-- Dispenser items given back (R348, R349): the first index, how many, and whether groups on lent cores may not take them,
for a group that held too much gave them back (R214). -/
structure Returned where
  first : Nat
  count : Nat
  owned : Bool
  deriving DecidableEq, Repr

/-- A graph launch (R334 to R350). -/
structure Launch where
  part : Nat
  fn : Nat
  ctx : Nat
  obj : Nat
  root : Nat
  queue : Nat
  index : BitVec 32                     -- packet index of its LAUNCH_GRAPH
  cluster : Nat                         -- of the launcher that runs it
  seed : BitVec 32
  prio : Nat
  owner : Nat
  cohes : Bool
  setSize : Nat
  poolVa : Nat
  nb : Nat
  metaBytes : Nat                       -- reserved from the partition's memory for record metadata (R334)
  reserve : Nat
  blocks : List (Nat × Block)           -- blocks in use
  records : List Record
  pubs : List Publication
  fifo : List RresReq
  total : Nat                           -- N of the dispenser, or the COUNT of an ENTRY root
  next : Nat
  returns : List Returned
  created : Nat                         -- groups created (R101)
  sets : Nat
  terminated : Bool
  untrusted : Bool
  done : Bool
  deriving DecidableEq, Repr

/-! ### Contexts, queues, functions (R388, R393, R397 to R432) -/

inductive CtxState where
  | created | active | saving | saved | restoring | faulted | destroyed
  deriving DecidableEq, Repr

/-- A context: the supervisor's copy of its descriptor and its state (R397, R400). -/
structure Ctx where
  fn : Nat
  ctxid : Nat
  mixdbg : Bool
  pasid : Option (BitVec 20)
  s1root : Nat
  trapBase : Word
  saveBase : Nat
  saveSize : Nat
  errBase : Nat
  errCount : Nat
  privBase : Nat
  privSize : Nat
  state : CtxState
  ckreq : Bool
  errTail : Nat
  errLost : Nat                         -- losses not yet written to LOST (R398)
  errPend : List (BitVec 256)           -- error records that wait for a page reply
  priv : List (Nat × Nat)               -- private ranges in use: base, bytes
  saves : List (Nat × Nat)              -- save records reserved: IPA, bytes
  saveFault : Bool                      -- a SAVE_FAULT owed to the next command (R402)
  deriving DecidableEq, Repr

inductive QState where
  | unmapped | mapped | blocked | suspended | error | destroyed
  deriving DecidableEq, Repr

/-- A started packet that has not completed (R419). -/
structure Started where
  index : BitVec 32
  hdr : PktHdr
  kind : BitVec 8
  status : Option (BitVec 8)            -- its status, while its completion word waits (R420)
  event : Option Word                   -- DATA of an EVENT packet, whose KIND 1 event follows its word (R427, R428)
  signal : Option Tgt                   -- where a SIGNAL_MEM's atomic has gone (R424, R464)
  deriving DecidableEq, Repr

/-- The unmet WAIT_MEM of a queue (R424). -/
structure Waiting where
  body : WaitBody
  hdr : PktHdr
  place : Option (Tgt × Nat)            -- where its word lies, as last translated
  spent : Nat                           -- sequencer cycles BLOCKED before now
  since : Nat                           -- its sequencer's count at which this stretch of BLOCKED time began
  met : Option (BitVec 8)               -- the status that a test has given
  deriving DecidableEq, Repr

/-- A queue (R412 to R416). -/
structure Queue where
  qid : Nat                             -- its QID; State.queues numbers queues by handle
  fn : Nat
  part : Nat
  ctx : Nat
  prio : Nat
  owner : Nat
  size : Nat                            -- S, in packets
  devq : Bool
  ringVa : Nat
  rptrVa : Nat
  widx : BitVec 32
  ridx : BitVec 32
  state : QState
  before : QState                       -- the state held before SUSPENDED
  thread : Bool
  seq : Nat                             -- the sequencer whose thread it has, or had last (R413, R424)
  waitSince : Nat
  started : List Started
  poisoned : List (BitVec 32)           -- posted packets marked poisoned (R432)
  wait : Option Waiting                 -- the unmet WAIT_MEM it is held at (R424)
  launching : Bool                      -- a LAUNCH_GRAPH is being checked: it has not started yet (R419, R422)
  gen : BitVec 32                       -- its function's GEN at CREATE: a reset leaves its packets no events (R429)
  lastStatus : BitVec 8                 -- of the newest completed packet (R430)
  rptrDue : Option (BitVec 32 × BitVec 8 × BitVec 32)   -- a report that waits: its packet's index, TYPE and TAG (R414)
  deriving DecidableEq, Repr

/-- The status register of a command interface (R399, R413, R436). -/
structure CmdStat where
  id : BitVec 16
  handle : BitVec 16
  busy : Bool
  status : BitVec 8
  op : BitVec 8
  deriving DecidableEq, Repr

/-- One page-request ring and its registers (R388). -/
structure PrqRing where
  base : Word
  tail : BitVec 16
  head : BitVec 16
  err : BitVec 32
  seq : Nat
  deriving DecidableEq, Repr

/-- An outstanding page request (R387, R388). -/
structure PageReq where
  id : Nat                              -- the model's own number for it
  fn : Nat
  stage : Nat
  ctx : Nat
  ea : Nat                              -- the invalid entry: the request key
  addr : Nat
  level : Nat
  need : BitVec 3
  source : Nat
  pasid : BitVec 20
  core : BitVec 16
  tag : Option (BitVec 12)              -- none while it waits for room in the ring
  /-- Carried by PRI and not by the rings (R392): its page request group index. -/
  pri : Option (BitVec 9)
  /-- A PRI Page Request is due: it waits while the function's allocation is used up (R392, R459). -/
  priDue : Bool
  waiters : List Nat                    -- the agents, other than lanes and windows, whose accesses it holds
  payer : Option Nat                    -- the owner of the access that raised it (R454)
  deriving DecidableEq, Repr

/-- A completion cached in the translation cache of a function (R392): host page and PASID, its translation, R and W. -/
structure AtcEntry where
  page : Nat
  pasid : BitVec 20
  target : Nat
  r : Bool
  w : Bool
  deriving DecidableEq, Repr

/-- An invalidation command that is not complete (R393). -/
structure InvCmd where
  kind : Nat
  ctxid : Nat
  addr : Nat
  pages : Nat
  seq : BitVec 16
  deriving DecidableEq, Repr

/-- A cached walk (R384): its context and VA page, the place and permissions of its two leaves, and what an invalidation
of it may name: the bytes of VA under the stage-1 leaf and the IPA ranges under the stage-2 leaves it used. -/
structure TlbEntry where
  ctx : Nat
  page : Nat
  first : Nat                           -- IPA page and stage-1 permissions
  second : Nat                          -- target, port, page and stage-2 permissions
  span1 : Nat × Nat
  spans2 : List (Nat × Nat)
  deriving DecidableEq, Repr

inductive TdiState where
  | configUnlocked | configLocked | run | error
  deriving DecidableEq, Repr

/-- A function: the PF (0) or VF 1 to 15 (R388, R393, R399, R413, R427, R429, R436, R467). -/
structure Fn where
  part : Option Nat
  ctxArg : Word
  ctxStat : CmdStat
  qArg : Word
  qStat : CmdStat
  spArg : Word
  spStat : CmdStat
  spSeqLow : BitVec 32
  prq1 : PrqRing
  prq2 : PrqRing
  invAddr : Word
  invDone : BitVec 16
  invs : List InvCmd                    -- commands written and not complete, oldest first
  evtBase : Word
  evtTail : Word
  evtHead : Word
  evtLost : Word
  pause : Bool
  linkDown : Bool                       -- its PCIe link is down (R466)
  gen : BitVec 32
  msix0Busy : Bool                      -- a vector-0 message not yet followed by an EVT_HEAD write
  msixHeld : BitVec 2                   -- vectors held pending while paused
  msixSent : List Nat                   -- messages signalled, newest first
  bar0 : Word                           -- BAR0 and BAR2 address registers (R468)
  bar2 : Word
  msixTable : List (Nat × BitVec 32)    -- MSI-X table and PBA words written
  ats : Bool
  pasidOn : Bool
  priNext : BitVec 9
  atc : List AtcEntry
  tdi : TdiState
  tdiStream : Option Nat
  tdiSession : Option Nat
  handles : Nat                         -- next object handle
  deriving DecidableEq, Repr

/-! ### Partitions, meters, links, the security processor (R436 to R487) -/

inductive PartState where
  | free | creating | active | destroying
  deriving DecidableEq, Repr

/-- An event waiting for its record write (R427, R428). -/
structure Event where
  stamp : Word
  data : Word
  tag : BitVec 32
  qid : BitVec 16
  kind : BitVec 8
  fn : Nat
  gen : BitVec 32
  lost : Option Nat                     -- a KIND 4 event for a rise of LOST: its port (R461)
  port : Option Nat
  deriving DecidableEq, Repr

/-- A slot packet accepted by the format manager (R54). -/
structure FmtJob where
  slot : Nat
  release : Bool
  image : Nat
  queue : Nat
  index : BitVec 32
  hdr : PktHdr
  acks : List Nat                       -- cores that have not yet acknowledged
  deriving DecidableEq, Repr

/-- A partition (R440, R442). -/
structure Part where
  state : PartState
  hostOwner : Nat
  funcs : List Nat
  engines : List Nat
  s2root : Nat
  seqs : List Nat
  ports : List Nat
  features : BitVec 16
  cores : List Nat
  slices : List Nat
  channels : List Nat
  owners : List Nat
  digest : BitVec 256                   -- descriptor digest with GROW and SHRINK folded in (R470)
  slots : Vector Slot 16                -- the format manager's own record of each slot
  slotJobs : List FmtJob
  formatKeys : List (BitVec 256)
  codeKeys : List (BitVec 256)
  token : Option (Nat × Nat × Nat)      -- holder of the irrevocable token (R306)
  tokenQ : List (Nat × Nat × Nat)
  marks : List Nat
  stamp : Word                          -- the next event stamp
  events : List Event
  weights : List (Nat × Nat)            -- owners whose weight is not 1 (R425)
  deficits : List (Nat × Nat)
  visit : Option Nat                    -- the owner whose visit is open (R425)
  waiting : Option Nat                  -- the group that halts in progress make room for (R426)
  leaving : List Nat                    -- cores that a SHRINK or LEND in progress takes away (R445, R451)
  tlb : List TlbEntry
  deriving DecidableEq, Repr

/-- A meter set (R453). -/
structure Meter where
  coreCycles : Word
  macBusy : Word
  hbmSectors : Word
  linkBytes : Word
  reconf : Word
  saturated : BitVec 5
  deriving DecidableEq, Repr

inductive LinkState where
  | down | training | up | degraded | error
  deriving DecidableEq, Repr

/-- An outgoing flit (R463): its SEQ, the ACK it carries, TYPE and POISON, and the writes among its messages, whose form in
PAYLOAD the spec does not give. -/
structure Flit where
  seq : BitVec 12
  ack : BitVec 12
  kind : BitVec 8
  poison : BitVec 8
  writes : List SecWrite
  /-- Its writes are posted: not the write of an ATOM or CAS, whose answer comes back (R464 to R466). -/
  posted : Bool
  deriving DecidableEq, Repr

/-- A link port (R458 to R466). -/
structure Port where
  state : LinkState
  lost : BitVec 16
  replays : BitVec 16
  remote : BitVec 8
  width : BitVec 4
  attempts : Nat
  sendSeq : BitVec 12
  recvSeq : BitVec 12
  replay : List Flit                    -- sent and not acknowledged, oldest first
  waiting : List Flit                   -- not yet sent: the port trains, or the replay buffer is full (R462, R463)
  tries : Nat                           -- replays of the oldest flit
  deriving DecidableEq, Repr

/-- A slice's ways: floor, ceiling and count of each owner (R447). -/
structure SliceShare where
  slice : Nat
  owners : List (Nat × Nat × Nat × Nat)
  deriving DecidableEq, Repr

/-- A line that an L2 slice holds (R449): a sector of device HBM, the PID of the partition whose data it is, the way it
lies in, and whether it is dirty, with the owner whose write last dirtied it (R454). -/
structure L2Line where
  sector : Nat
  pid : Nat
  way : Nat
  dirty : Bool
  by_ : Option Nat
  deriving DecidableEq, Repr

/-- An L2 slice (R20, R447, R449): its lines, the owner of each of its 16 ways, and each owner's replacement state. -/
structure L2Slice where
  lines : List L2Line
  ways : List (Option Nat)
  repl : List (Nat × Nat)
  deriving DecidableEq, Repr

/-- Flash and fuses (R475 to R480, R487). Markers, slots and the configuration record are the bytes of their regions. -/
structure Flash where
  marker0 : List Byte
  marker1 : List Byte
  slotA : List Byte
  slotB : List Byte
  config : List Byte
  defects : List (Nat × Bool)           -- die and whether the kind is UNCORE
  bad : List Nat                        -- 4 KiB pages, by offset / 4,096, with an uncorrectable error (R483)
  minSvn : BitVec 32
  ownerKey : Option (BitVec 256)
  sku : BitVec 8
  stepping : BitVec 8
  fused : BitVec 4
  deriving DecidableEq, Repr

/-- What the booted firmware left (R18, R458, R471, R478, R483). -/
structure Booted where
  done : Bool                           -- a boot has run since power-on
  recovery : Bool
  slotB : Bool
  svn : BitVec 32
  cfgDefault : Bool
  imageDigest : BitVec 256
  dropped : BitVec 4
  uncoreLive : BitVec 4
  hbmLive : BitVec 8
  peer : BitVec 12
  pcie : BitVec 12
  fwArg : Word
  fwStatus : BitVec 8
  fwJob : Option (Nat × Bool)           -- the firmware command in progress, while BUSY: its OP and SLOT
  ras : BitVec 64
  dumpHost : Word
  dumpAt : Word                         -- ADDR of the dump in progress
  dumpPoisoned : BitVec 32
  dumpStatus : BitVec 8
  dumpBusy : Bool
  dumpLink : Bool                       -- the dump goes out on the secondary link
  dumpDone : Nat                        -- sectors of the image written so far
  deriving DecidableEq, Repr

/-- What goes back over the DOE mailbox (R467, R470, R481). A report's ranges are the index of the BAR, its base and its
pages; msix is the range and page with the MSI-X table and PBA; signed content carries its signature. -/
inductive DoeReply where
  | accepted
  | refused
  | certificate (bytes : List Byte)
  | measurements (blocks : List (Nat × List Byte)) (signature : List Byte)
  | report (ranges : List (Nat × Word × Nat)) (msix : Nat × Nat) (info : List Byte) (signature : List Byte)
  deriving DecidableEq, Repr

/-- A secured SPDM session and an IDE stream key (R459, R467, R469, R481). -/
structure Spdm where
  sessions : List Nat
  ideKeys : List (Nat × Nat × BitVec 256)   -- function, stream, key
  responses : List DoeReply             -- newest first
  deriving DecidableEq, Repr

/-- A completion returned to the host or to a peer for a request of theirs (R459, R464); bit i of poison: its i-th sector
is poisoned. -/
structure Reply where
  unsupported : Bool
  value : Nat
  poison : Nat
  deriving DecidableEq, Repr

/-- A lane behind a fence that releases at SYSTEM scope: its later accesses wait while a link port holds a write (R201, R232).
acquire: the fence acquires too. -/
structure FencedLane where
  grp : Nat
  course : Nat
  lane : Nat
  acquire : Bool
  deriving DecidableEq, Repr

/-- A packet that a QPOST has issued and that its release at SYSTEM scope keeps out of the ring (R432): its group, its queue,
its writes to the ring, and whether it is poisoned. -/
structure PostedPacket where
  grp : Nat
  queue : Nat
  writes : List SecWrite
  poisoned : Bool
  deriving DecidableEq, Repr

/-- A slot chosen for issue (R116, R117): ISSUE_SELECTION fills it and the next step fetches and runs the slot. -/
structure Sel where
  core : Nat
  grp : Nat
  course : Nat
  mask : LaneMask
  pc : Word
  deriving DecidableEq, Repr

/-- Why the machine stops with no next state. -/
inductive Fault where
  /-- Raised by HOST_ACCESS for bytes that lie on no channel of the partition it is made to (R444). Safe: the spec gives
  such an access no effect, and the model allows nothing. -/
  | noSuchAddress
  deriving DecidableEq, Repr

/-- Why the model gives a step no meaning. -/
inductive Refusal where
  /-- Raised by an arm of exec whose meaning is not written. Safe: nothing can be proved of it. -/
  | notModelled (mnemonic : String)
  deriving DecidableEq, Repr

/-- The whole machine. -/
structure State where
  time : Nat                            -- steps taken, the model's own clock
  free : Nat                            -- the model's own counter of free values
  turn : Bool                           -- whether the next step serves the agenda or a selection
  sel : Option Sel
  agenda : List Instr                   -- steps due and stimuli from outside, next first
  rr : Nat                              -- the core served last by the default schedule
  inCycle : List (Nat × Nat)            -- the courses selected since the last completion test of barriers (R262)
  fenced : List FencedLane
  posts : List PostedPacket             -- in the order of issue
  hbm : Memory
  host : Memory
  peers : List (Nat × Memory)           -- memory reached over each peer port
  cores : List (Nat × Core)             -- cores not in their reset state, by device index
  groups : List (Nat × Group)
  records : List (Nat × Group)          -- save records as the device wrote them, with what each saved, newest first (R404)
  nextGroup : Nat
  launches : List (Nat × Launch)
  objects : List (Nat × Obj)
  ctxs : List (Nat × Ctx)
  queues : List (Nat × Queue)           -- by handle, DESTROYED ones included
  fns : Vector Fn 16
  parts : Vector Part 16
  reqs : List PageReq
  nextReq : Nat
  failed : List Nat                     -- the agents whose held access is to meet its fatal result (R389)
  accessRecords : List (Nat × Nat × Nat)   -- sector, offset and width of the last strong access (R194)
  meters : List (Nat × Meter)
  /-- The owner that the accesses of the step in progress are charged to (R454). -/
  payer : Option Nat
  l2 : List (Nat × L2Slice)             -- by slice (R449)
  ports : Vector Port 12
  shares : List SliceShare
  flash : Flash
  boot : Booted
  spSeq : Word
  spJob : Option (Nat × CmdBlock)       -- the accepted command in progress and its function (R438)
  spWait : List (Nat × CmdBlock)        -- commands that wait for it, in the order submitted
  spdm : Spdm
  replies : List Reply                  -- completions sent to the host and to peers, newest first
  deriving DecidableEq, Repr

/-! ### Reset (R19, R25, R30, R51, R99, R294, R397 to R487) -/

/-- A lane before its group's placement gives it values: every register zero and unpoisoned (R99); not live. -/
def Tx.idle : Tx :=
  { state := .idle, beginD := 0, nest := 0, aborts := 0, target := 0, record := 0, rlog := [], wlog := [] }

def Lane.reset : Lane :=
  { live := false, pc := 0, depth := 0, entries := [], pass := 0, v := Vector.replicate 256 0, vP := 0, p := 0, pP := 0,
    seed := 1, seedP := false, inHandler := false, entryD := 0, trapPc := ⟨0, false⟩, trapCause := ⟨0, false⟩,
    pend := none, handled := 0, dropped := .none, hold := .none, tx := Tx.idle, recBase := 0, recDepth := 0, runs := [],
    item := none }

/-- A course at placement (R99, R113): no lane live yet. -/
def Course.reset : Course :=
  { lanes := Vector.replicate 32 Lane.reset, role := 0, s := Vector.replicate 64 0, sP := 0,
    flags := Vector.replicate 12 0, quota := 0, bc := 0, forced := false, bypLim := 16, bypLimP := false,
    trap := .ordinary, fifo := [], inflight := [], engines := Vector.replicate 4 [],
    txends := [], ended := false }

def Tensor.zero : Tensor :=
  { base := 0, ext := Vector.replicate 4 1, stride := Vector.replicate 4 0, coord := Vector.replicate 4 0,
    box := Vector.replicate 4 1, width := 0, rank := 1 }

def Window.unbound : Window :=
  { state := .unbound, tensor := Tensor.zero, reg := 0, bar := none, nb := false, out := false, err := false,
    pend := [], owner := none, lane := 0,
    seen := [], waits := [], lost := [], mark := 0 }

def Barrier.uninit : Barrier :=
  { init := false, expect := 0, cp := false, arrMask := 0, arrived := 0, cpArr := false, pend := 0, phase := false, due := false, acted := false }

def Tile.zero : Tile := { z := Vector.replicate 4096 0, poison := false }

def Slot.empty : Slot := { state := .empty, gen := 0, image := none }

/-- A core after its reset: caches and queues empty, every slot EMPTY until a partition is created (R51, R443). -/
def Core.reset : Core :=
  { since := 0, charged := 0, l1 := [], icache := [], home := Vector.replicate 16 Slot.empty, guest := Vector.replicate 16 Slot.empty,
    lentTo := none, handler := none, handlerQ := [], reserve := Vector.replicate 32 (Vector.replicate 32 0),
    reserveP := Vector.replicate 32 0, matQ := [], matHold := [], scratch := Memory.empty, valid := 0, served := [] }

def CmdStat.reset : CmdStat := { id := 0, handle := 0, busy := false, status := 0, op := 0 }

def PrqRing.reset : PrqRing := { base := 0, tail := 0, head := 0, err := 0, seq := 0 }

def Fn.reset : Fn :=
  { part := none, ctxArg := 0, ctxStat := CmdStat.reset, qArg := 0, qStat := CmdStat.reset, spArg := 0,
    spStat := CmdStat.reset, spSeqLow := 0, prq1 := PrqRing.reset, prq2 := PrqRing.reset, invAddr := 0, invDone := 0,
    invs := [], evtBase := 0, evtTail := 0, evtHead := 0, evtLost := 0, pause := false, linkDown := false, gen := 0, msix0Busy := false,
    msixHeld := 0, msixSent := [], bar0 := 0, bar2 := 0, msixTable := [], ats := false, pasidOn := false, priNext := 0, atc := [],
    tdi := .configUnlocked, tdiStream := none, tdiSession := none, handles := 1 }

def Part.reset : Part :=
  { state := .free, hostOwner := 0, funcs := [], engines := [], s2root := 0, seqs := [], ports := [], features := 0,
    cores := [], slices := [], channels := [], owners := [], digest := 0, slots := Vector.replicate 16 Slot.empty,
    slotJobs := [], formatKeys := [], codeKeys := [], token := none, tokenQ := [], marks := [], stamp := 1, events := [],
    weights := [], deficits := [], visit := none, waiting := none, leaving := [], tlb := [] }

def Port.reset : Port :=
  { state := .down, lost := 0, replays := 0, remote := 0, width := 0, attempts := 0, sendSeq := 0, recvSeq := 0,
    replay := [], waiting := [], tries := 0 }

def L2Slice.reset : L2Slice := { lines := [], ways := List.replicate 16 none, repl := [] }

/-- The flash and fuses as manufactured (log entry 3): both markers invalid, slots empty, no defect, no owner key. -/
def Flash.reset : Flash :=
  { marker0 := [], marker1 := [], slotA := [], slotB := [], config := [], defects := [], bad := [],
    minSvn := 0, ownerKey := none, sku := 1, stepping := 0, fused := 0 }

/-- Before the first boot has run (R477). -/
def Booted.reset : Booted :=
  { done := false, recovery := false, slotB := false, svn := 0, cfgDefault := false, imageDigest := 0, dropped := 0,
    uncoreLive := 0xF, hbmLive := 0xFF, peer := 0, pcie := 0, fwArg := 0, fwStatus := 0, fwJob := none,
    ras := 0, dumpHost := 0, dumpAt := 0, dumpPoisoned := 0, dumpStatus := 0, dumpBusy := false, dumpLink := false, dumpDone := 0 }

/-- The machine right after reset: every partition FREE (R487), no group, context, queue or object, memory with nothing
listed, and the ROM about to choose a firmware slot (R477). -/
def State.reset : State :=
  { time := 0, free := 0, turn := false, sel := none, agenda := [.boot], rr := 0, inCycle := [], fenced := [], posts := [], hbm := Memory.empty,
    host := Memory.empty, peers := [], cores := [], groups := [], records := [], nextGroup := 0, launches := [], objects := [],
    ctxs := [], queues := [], fns := Vector.replicate 16 Fn.reset, parts := Vector.replicate 16 Part.reset, reqs := [],
    nextReq := 0, failed := [], accessRecords := [], meters := [], payer := none, l2 := [],
    ports := Vector.replicate 12 Port.reset, shares := [],
    flash := Flash.reset, boot := Booted.reset, spSeq := 0, spJob := none, spWait := [], spdm := ⟨[], [], []⟩, replies := [] }

end Sys2Proof.Machine
end

