-- ==== Sys2Proof/Machine/Mem.lean ====
section
/-!
DEFINITION. Keyed tables and byte memories: reading and writing bytes, masked sector writes and their poison (R5, R191,
R373), and the machine's memories by target.
-/

namespace Sys2Proof.Machine

/-! ### Keyed tables, keys rising -/

def alGet {α : Type} : List (Nat × α) → Nat → Option α
  | [], _ => none
  | (k', v) :: l, k => if k' = k then some v else alGet l k

def alSet {α : Type} : List (Nat × α) → Nat → α → List (Nat × α)
  | [], k, v => [(k, v)]
  | (k', v') :: l, k, v =>
    if k < k' then (k, v) :: (k', v') :: l
    else if k = k' then (k, v) :: l
    else (k', v') :: alSet l k v

def alDel {α : Type} (l : List (Nat × α)) (k : Nat) : List (Nat × α) := l.filter (fun e => e.1 != k)

/-- Insert a number into a rising list. -/
def setInsert : Nat → List Nat → List Nat
  | x, [] => [x]
  | x, y :: l => if x < y then x :: y :: l else if x = y then y :: l else y :: setInsert x l

/-! ### Bytes -/

/-- What an address reads as: the listed byte, or zero (R443). -/
def cellGet : List Host.Cell → Nat → Byte
  | [], _ => 0
  | (a', b) :: l, a => if a' = a then b else if a < a' then 0 else cellGet l a

/-- Write one byte and keep the canonical form: a zero byte is not listed. -/
def cellSet : List Host.Cell → Nat → Byte → List Host.Cell
  | [], a, b => if b = 0 then [] else [(a, b)]
  | (a', b') :: l, a, b =>
    if a < a' then (if b = 0 then (a', b') :: l else (a, b) :: (a', b') :: l)
    else if a = a' then (if b = 0 then l else (a, b) :: l)
    else (a', b') :: cellSet l a b

def Memory.byte (m : Memory) (a : Nat) : Byte := cellGet m.cells a
def Memory.setByte (m : Memory) (a : Nat) (b : Byte) : Memory := { m with cells := cellSet m.cells a b }

/-- n bytes from address a, little-endian (R5). -/
def Memory.read (m : Memory) (a : Nat) : Nat → Nat
  | 0 => 0
  | n + 1 => (m.byte a).toNat + 256 * m.read (a + 1) n

/-- Store the low n bytes of v at address a, little-endian (R5). -/
def Memory.write (m : Memory) (a : Nat) : Nat → Nat → Memory
  | 0, _ => m
  | n + 1, v => (m.setByte a (BitVec.ofNat 8 v)).write (a + 1) n (v / 256)

/-- The n bytes from address a as a list. -/
def Memory.bytes (m : Memory) (a n : Nat) : List Byte := (List.range n).map (fun i => m.byte (a + i))

def Memory.writeBytes (m : Memory) (a : Nat) : List Byte → Memory
  | [] => m
  | b :: l => (m.setByte a b).writeBytes (a + 1) l

def Memory.isPoisoned (m : Memory) (sector : Nat) : Bool := m.poisoned.contains sector
def Memory.setPoison (m : Memory) (sector : Nat) (p : Bool) : Memory :=
  { m with poisoned := if p then setInsert sector m.poisoned else m.poisoned.filter (· != sector) }

/-- Whether a sector that the n bytes from a touch is poisoned. -/
def Memory.anyPoison (m : Memory) (a n : Nat) : Bool := m.poisoned.any (fun k => decide (a < 32 * k + 32 ∧ 32 * k < a + n))

/-- The 32 bytes of a sector. -/
def Memory.sector (m : Memory) (k : Nat) : BitVec 256 := BitVec.ofNat 256 (m.read (32 * k) 32)

/-- Merge masked bits into old ones. -/
def mergeBits (old data mask : BitVec 256) : BitVec 256 := (old &&& ~~~mask) ||| (data &&& mask)

/-- Byte by byte, write the masked bits of a sector; a byte with no masked bit is not touched. -/
def writeMasked (m : Memory) (a : Nat) : Nat → Nat → Nat → Memory
  | 0, _, _ => m
  | n + 1, data, mask =>
    let k : Byte := BitVec.ofNat 8 mask
    let d : Byte := BitVec.ofNat 8 data
    let m := if k = 0 then m else m.setByte a ((m.byte a &&& ~~~k) ||| (d &&& k))
    writeMasked m (a + 1) n (data / 256) (mask / 256)

/-- Apply a masked write to a sector with its poison rule (R191). -/
def Memory.apply (m : Memory) (w : SecWrite) : Memory :=
  let m' := writeMasked m (32 * w.sector) 32 w.data.toNat w.mask.toNat
  if w.poison then m'.setPoison w.sector true
  else if w.mask = BitVec.allOnes 256 then m'.setPoison w.sector false
  else m'

/-! ### The machine's memories -/

def State.core (s : State) (c : Nat) : Core := (alGet s.cores c).getD Core.reset
def State.setCore (s : State) (c : Nat) (k : Core) : State := { s with cores := alSet s.cores c k }

def State.port (s : State) (p : Nat) : Port := if h : p < 12 then s.ports[p] else Port.reset
def State.updPort (s : State) (p : Nat) (u : Port → Port) : State :=
  if h : p < 12 then { s with ports := s.ports.set p (u s.ports[p]) } else s

/-- The lower port of the primary link (R458). -/
def hostPort (s : State) : Nat := ((List.range 12).find? (fun k => s.boot.pcie.getLsbD k)).getD 0

/-- The writes that a port holds and the far side has not yet taken, oldest first (R462, R463). -/
def Port.writes (p : Port) : List SecWrite := (p.replay ++ p.waiting).flatMap (·.writes)

/-- A memory under writes on their way to it: what an access behind them in the port meets (R188). -/
def Memory.under (m : Memory) (ws : List SecWrite) : Memory := ws.foldl Memory.apply m

/-- The memory behind a target (R181, R186, R188, R189), with what the port that reaches it still holds. -/
def State.mem (s : State) : Tgt → Memory
  | .hbm => s.hbm
  | .host => s.host.under ((s.port (hostPort s)).writes.filter (·.tgt == .host))
  | .peer p => ((alGet s.peers p).getD Memory.empty).under ((s.port p).writes.filter (·.tgt == .peer p))
  | .scratch c => (s.core c).scratch

/-- The memory behind a target as the far side has it. -/
def State.far (s : State) : Tgt → Memory
  | .host => s.host
  | .peer p => (alGet s.peers p).getD Memory.empty
  | t => s.mem t

def State.setMem (s : State) (t : Tgt) (m : Memory) : State :=
  match t with
  | .hbm => { s with hbm := m }
  | .host => { s with host := m }
  | .peer p => { s with peers := alSet s.peers p m }
  | .scratch c => s.setCore c { s.core c with scratch := m }

/-! ### Queues that wait on memory (R424) -/

/-- (M AND MASK) COND (VALUE AND MASK) over the low bits of the width (R424). -/
def waitHolds (b : WaitBody) (m : Nat) : Bool :=
  let k := b.mask.toNat % 2 ^ (if b.wide then 64 else 32)
  let x := m &&& k
  let y := b.value.toNat &&& k
  match b.cond.toNat with
  | 0 => x == y
  | 1 => x != y
  | 2 => decide (y ≤ x)
  | _ => decide (x < y)

/-- What a test of the condition gives: POISON for a poisoned word, OK when it holds. -/
def waitStatus (m : Memory) (pa : Nat) (b : WaitBody) : Option (BitVec 8) :=
  if m.isPoisoned (pa / 32) then some 0x0A
  else if waitHolds b (m.read pa (if b.wide then 8 else 4)) then some 0
  else none

/-- The queue is held at a word of this sector of device memory. -/
def Queue.watches (q : Queue) (sector : Nat) : Bool :=
  match q.wait with
  | some x => x.met.isNone && (match x.place with
    | some (t, pa) => t == .hbm && pa / 32 == sector
    | none => false)
  | none => false

def Queue.test (q : Queue) (m : Memory) : Queue :=
  { q with wait := q.wait.map (fun x => { x with met := match x.place with
    | some (_, pa) => waitStatus m pa x.body
    | none => none }) }

/-- A write to a sector of device memory is serialised: the queues held at a word of it test their condition, and those
tests are due to be seen (R424). -/
def State.noteWaits (s : State) (w : SecWrite) : State :=
  if w.tgt = .hbm ∧ s.queues.any (fun e => e.2.watches w.sector) then
    { s with
      queues := s.queues.map (fun e => if e.2.watches w.sector then (e.1, e.2.test s.hbm) else e)
      agenda := s.agenda ++ (s.queues.filter (fun e => e.2.watches w.sector)).map (fun e => .waitMemRetest e.1) }
  else s

/-! ### Groups, courses and lanes -/

def State.group (s : State) (g : Nat) : Option Group := alGet s.groups g
def State.setGroup (s : State) (g : Nat) (x : Group) : State := { s with groups := alSet s.groups g x }
def State.updGroup (s : State) (g : Nat) (f : Group → Group) : State :=
  match s.group g with
  | some x => s.setGroup g (f x)
  | none => s

def Group.course (g : Group) (c : Nat) : Course := g.courses.getD c Course.reset
def Group.updCourse (g : Group) (c : Nat) (f : Course → Course) : Group :=
  { g with courses := g.courses.modify c f }
def State.updCourse (s : State) (g c : Nat) (f : Course → Course) : State := s.updGroup g (fun x => x.updCourse c f)

def Course.lane (c : Course) (n : Nat) : Lane := if h : n < 32 then c.lanes[n] else Lane.reset
def Course.updLane (c : Course) (n : Nat) (f : Lane → Lane) : Course :=
  if h : n < 32 then { c with lanes := c.lanes.set n (f c.lanes[n]) } else c
/-- Change every lane of a course, each by its number. -/
def Course.mapLanes (c : Course) (f : Nat → Lane → Lane) : Course :=
  { c with lanes := Vector.ofFn (fun i : Fin 32 => f i.val (c.lanes[i.val]'i.isLt)) }
def State.updLane (s : State) (g c n : Nat) (f : Lane → Lane) : State := s.updCourse g c (fun x => x.updLane n f)

def State.launch (s : State) (l : Nat) : Option Launch := alGet s.launches l
def State.setLaunch (s : State) (l : Nat) (x : Launch) : State := { s with launches := alSet s.launches l x }
def State.updLaunch (s : State) (l : Nat) (f : Launch → Launch) : State :=
  match s.launch l with
  | some x => s.setLaunch l (f x)
  | none => s

def State.updCtx (s : State) (i : Nat) (f : Ctx → Ctx) : State :=
  match alGet s.ctxs i with
  | some x => { s with ctxs := alSet s.ctxs i (f x) }
  | none => s
def State.updObj (s : State) (i : Nat) (f : Obj → Obj) : State :=
  match alGet s.objects i with
  | some x => { s with objects := alSet s.objects i (f x) }
  | none => s
def State.updQueue (s : State) (i : Nat) (f : Queue → Queue) : State :=
  match alGet s.queues i with
  | some x => { s with queues := alSet s.queues i (f x) }
  | none => s

/-- The queue of a QID that is not DESTROYED, with its handle (R412). -/
def State.queueOf (s : State) (qid : Nat) : Option (Nat × Queue) :=
  s.queues.find? (fun e => e.2.qid == qid && e.2.state != .destroyed)

def State.fn (s : State) (f : Nat) : Fn := if h : f < 16 then s.fns[f] else Fn.reset
def State.updFn (s : State) (f : Nat) (u : Fn → Fn) : State :=
  if h : f < 16 then { s with fns := s.fns.set f (u s.fns[f]) } else s
def State.part (s : State) (p : Nat) : Part := if h : p < 16 then s.parts[p] else Part.reset
def State.updPart (s : State) (p : Nat) (u : Part → Part) : State :=
  if h : p < 16 then { s with parts := s.parts.set p (u s.parts[p]) } else s
/-- Put a step at the end of the agenda. -/
def State.post (s : State) (i : Instr) : State := { s with agenda := s.agenda ++ [i] }

/-- Post a step unless the agenda has it already. -/
def State.postOnce (s : State) (i : Instr) : State := if s.agenda.contains i then s else s.post i

/-- Put a step at the head of the agenda: it runs next of the agenda. -/
def State.postFirst (s : State) (i : Instr) : State := { s with agenda := i :: s.agenda }

/-- Take the next free value (log entry 2). -/
def State.takeFree (s : State) : Nat × State := (Config.freeNat s.free, { s with free := s.free + 1 })

/-- Cycles of an agent's clock in the first n steps, by its rates (R6, R25): every step some pass, and no two agents' counts
order anything between them. -/
def ticks (rate : Nat → Nat) : Nat → Nat
  | 0 => 0
  | n + 1 => ticks rate n + rate n + 1

/-- A core's cycle count since its last reset (R25). -/
def State.cycle (s : State) (c : Nat) : Nat := ticks (Config.coreRate c) s.time - ticks (Config.coreRate c) (s.core c).since

/-- A launcher's cycle count (R25). -/
def State.launcherCycle (s : State) (cluster : Nat) : Nat := ticks (Config.launcherRate cluster) s.time

/-- A sequencer's cycle count (R25). -/
def State.seqCycle (s : State) (seq : Nat) : Nat := ticks (Config.seqRate seq) s.time

end Sys2Proof.Machine
end

