-- ==== Sys2Proof/Machine/Meters.lean ====
section
/-!
DEFINITION. The usage meters (spec/26_partitions.md, R453 to R456): saturating counters of each owner, and their charges.
HBM_SECTORS is charged where sectors move (Machine/Slices.lean) and LINK_BYTES where ports carry bytes (Machine/Homes.lean).
-/

namespace Sys2Proof.Machine

def Meter.zero : Meter := ⟨0, 0, 0, 0, 0, 0⟩

/-- A counter that would pass 2^64 − 1 stays there (R455); one that has reached it has its SATURATED bit set (R453). -/
def addSat (x : Word) (n : Nat) : Word × Bool :=
  if x.toNat + n + 1 < 2 ^ 64 then (BitVec.ofNat 64 (x.toNat + n), false) else (BitVec.allOnes 64, true)

/-- Counter k of a set: CORE_CYCLES, MAC_BUSY, HBM_SECTORS, LINK_BYTES, RECONF (R453). -/
def Meter.get (m : Meter) (k : Nat) : Word :=
  match k with
  | 0 => m.coreCycles
  | 1 => m.macBusy
  | 2 => m.hbmSectors
  | 3 => m.linkBytes
  | _ => m.reconf

def Meter.put (m : Meter) (k : Nat) (x : Word) : Meter :=
  match k with
  | 0 => { m with coreCycles := x }
  | 1 => { m with macBusy := x }
  | 2 => { m with hbmSectors := x }
  | 3 => { m with linkBytes := x }
  | _ => { m with reconf := x }

def Meter.add (m : Meter) (k n : Nat) : Meter :=
  let r := addSat (m.get k) n
  let m := m.put k r.1
  if r.2 then { m with saturated := m.saturated ||| (1#5 <<< k) } else m

/-- METER_SEED never lowers a counter (R456); one raised to 2^64 − 1 has reached it (R453). -/
def Meter.seed (m : Meter) (k : Nat) (x : Word) : Meter :=
  if m.get k < x then
    let m := m.put k x
    if x = BitVec.allOnes 64 then { m with saturated := m.saturated ||| (1#5 <<< k) } else m
  else m

def State.meter (s : State) (o : Nat) : Meter := (alGet s.meters o).getD Meter.zero
def State.setMeter (s : State) (o : Nat) (m : Meter) : State := { s with meters := alSet s.meters o m }

/-- Charge n to counter k of an owner (R454). -/
def charge (s : State) (o k n : Nat) : State := s.setMeter o ((s.meter o).add k n)

/-- Charge whom the step acts for, when that is an owner. -/
def State.chargePayer (s : State) (k n : Nat) : State :=
  match s.payer with
  | some o => charge s o k n
  | none => s

/-- The owners with a RESIDENT group on a core. -/
def residentOwners (s : State) (core : Nat) : List Nat :=
  ((s.groups.filter (fun e => e.2.core == some core && e.2.state == .resident)).filterMap
    (fun e => (s.launch e.2.launch).map (·.owner))).eraseDups

/-- The core's cycles since they were last charged go to each owner with a RESIDENT group on it (R454). -/
def chargeCore (s : State) (core : Nat) : State :=
  let k := s.core core
  let n := ticks (Config.coreRate core) s.time - ticks (Config.coreRate core) k.charged
  let s := (residentOwners s core).foldl (fun s o => charge s o 0 n) s
  s.setCore core { s.core core with charged := s.time }

/-- Every meter as it reads now: the cores' cycles up to now are charged (R455). -/
def settleMeters (s : State) : State := s.cores.foldl (fun s e => chargeCore s e.1) s

end Sys2Proof.Machine
end

