-- ==== Sys2Proof/Machine/Slices.lean ====
section
/-!
DEFINITION. The L2 slices (spec/26_partitions.md, R444, R447 to R450): the home slice of a sector, way owners, hits and
misses, and what moves between slices and HBM, with its charges (R454). Values live in State.hbm: a slice is coherent, so
a line adds its PID, its way and who dirtied it, and no second copy of its bytes.
-/

namespace Sys2Proof.Machine

/-- The partition that owns the channel of a physical address (R444). -/
def channelPart (s : State) (pa : Nat) : Option Nat :=
  (List.range 16).find? (fun i => (s.part i).state != .free && (s.part i).channels.contains (pa / 0x80000000))

/-- The home slice of a physical address of a partition's memory (R444). -/
def homeSlice (p : Part) (pa : Nat) : Nat := p.slices.getD (pa / 256 % p.slices.length) 0

def State.slice (s : State) (i : Nat) : L2Slice := (alGet s.l2 i).getD L2Slice.reset

/-- PID and way count of each owner of a slice (R447). -/
def wayCounts (s : State) (slice : Nat) : List (Nat × Nat) :=
  ((s.shares.filter (fun e => e.slice == slice)).flatMap (·.owners)).map (fun o => (o.1, o.2.2.2))

/-- Ways that their owners keep: no more than each one's count. -/
def keptWays : List (Nat × Nat) → List (Option Nat) → List (Option Nat)
  | _, [] => []
  | cs, w :: ws =>
    if cs.any (fun c => some c.1 == w && decide (0 < c.2)) then
      w :: keptWays (cs.map (fun c => if some c.1 = w then (c.1, c.2 - 1) else c)) ws
    else none :: keptWays cs ws

/-- Ways without an owner go to those that lack one. -/
def fillWays : List (Option Nat) → List Nat → List (Option Nat)
  | [], _ => []
  | none :: ws, p :: l => some p :: fillWays ws l
  | w :: ws, l => w :: fillWays ws l

/-- The owners of a slice's ways under the counts (R447, R448): only as many ways change owner as the counts ask; which of
an owner's ways moves is the model's choice (log entry 111). -/
def settleWays (cs : List (Nat × Nat)) (ws : List (Option Nat)) : List (Option Nat) :=
  let kept := keptWays cs ws
  fillWays kept (cs.flatMap (fun c => List.replicate (c.2 - (kept.filter (· == some c.1)).length) c.1))

/-- How an access uses a sector: a read, a write of some bits, or a write of all of them. -/
inductive L2Use where
  | read | part | whole
  deriving DecidableEq, Repr

/-- Sets of a slice of 1 MiB with 16 ways of 32 bytes (R20). -/
def l2Sets : Nat := 2048

def L2Slice.touch (x : L2Slice) (owner sector way : Nat) : L2Slice :=
  { x with repl := alSet x.repl owner (Config.replNext ((alGet x.repl owner).getD 0) (Config.l2Set sector % l2Sets) way) }

/-- A line takes a write: it is dirty, and the writer is the one that last dirtied it. -/
def L2Line.use (l : L2Line) (use : L2Use) (payer : Option Nat) : L2Line :=
  if use = .read then l else { l with dirty := true, by_ := payer }

/-- The ways that a partition owns, by number. -/
def L2Slice.waysOf (x : L2Slice) (pid : Nat) : List Nat := (List.range 16).filter (fun i => x.ways.getD i none == some pid)

/-- Two sectors meet in a set. -/
def sameSet (a b : Nat) : Bool := Config.l2Set a % l2Sets == Config.l2Set b % l2Sets

/-- What a slice does with an access: the slice after it, whom each sector that moves between it and HBM is charged to, and
the sectors that left it. A hit is on a line of the sector and the PID, in any way, and only the way owner's replacement
state follows (R449). A partition with no way allocates nothing. -/
def L2Slice.access (x : L2Slice) (pid sector : Nat) (use : L2Use) (payer : Option Nat) :
    L2Slice × List (Option Nat) × List Nat :=
  match x.lines.find? (fun l => l.sector == sector && l.pid == pid) with
  | some l =>
    let x := match x.ways.getD l.way none with
      | some o => x.touch o sector l.way
      | none => x
    ({ x with lines := x.lines.map (fun (m : L2Line) => if m = l then m.use use payer else m) }, [], [])
  | none =>
    let mine := x.waysOf pid
    if mine.isEmpty then (x, [payer], [])
    else
      let way := mine.getD (Config.l2Victim ((alGet x.repl pid).getD 0) (Config.l2Set sector % l2Sets) % mine.length) 0
      let out := x.lines.filter (fun l => l.way == way && sameSet l.sector sector)
      let new : L2Line := ⟨sector, pid, way, false, none⟩
      ({ x.touch pid sector way with lines := new.use use payer :: x.lines.filter (fun l => !out.contains l) },
        (out.filter (·.dirty)).map (·.by_) ++ (if use = .whole then [] else [payer]), out.map (·.sector))

/-- Charge one HBM sector to each owner of a list (R454). -/
def chargeSectors (ms : List (Nat × Meter)) (os : List (Option Nat)) : List (Nat × Meter) :=
  os.foldl (fun ms o => match o with
    | some o => alSet ms o (((alGet ms o).getD Meter.zero).add 2 1)
    | none => ms) ms

/-- A slice as the way counts stand. -/
def settledSlice (s : State) (i : Nat) : L2Slice := { s.slice i with ways := settleWays (wayCounts s i) (s.slice i).ways }

/-- An access to a sector of device HBM at its home slice (R449). A sector that leaves the L2 takes its mixed-size record
with it (R194). -/
def State.l2Access (s : State) (sector : Nat) (use : L2Use) : State :=
  let pid := (channelPart s (32 * sector)).getD 16
  let i := homeSlice (s.part pid) (32 * sector)
  let r := (settledSlice s i).access pid sector use s.payer
  { s with
    l2 := alSet s.l2 i r.1
    meters := chargeSectors s.meters r.2.1
    accessRecords := s.accessRecords.filter (fun a => !r.2.2.contains a.1) }

/-- The home slice writes a sector to HBM and releases its line (R234). -/
def State.l2Evict (s : State) (sector : Nat) : State :=
  let pid := (channelPart s (32 * sector)).getD 16
  let i := homeSlice (s.part pid) (32 * sector)
  let x := s.slice i
  { s with
    l2 := alSet s.l2 i { x with lines := x.lines.filter (fun l => l.sector != sector) }
    meters := chargeSectors s.meters ((x.lines.filter (fun l => l.sector == sector && l.dirty)).map (·.by_))
    accessRecords := s.accessRecords.filter (fun a => a.1 != sector) }

/-- The home slice of a sector holds it (R194). -/
def State.l2Holds (s : State) (sector : Nat) : Bool :=
  let pid := (channelPart s (32 * sector)).getD 16
  (s.slice (homeSlice (s.part pid) (32 * sector))).lines.any (fun l => l.sector == sector && l.pid == pid)

/-- The lines of partitions that p names leave their slices: their data is no one's any more (R446), and their mixed-size
records are lost (R194). -/
def dropPidLines (s : State) (p : Nat → Bool) : State :=
  { s with
    l2 := s.l2.map (fun e => (e.1, { e.2 with lines := e.2.lines.filter (fun l => !p l.pid) }))
    accessRecords := s.accessRecords.filter (fun a => !p ((channelPart s (32 * a.1)).getD 16)) }

/-! ### Whom a step acts for (R454) -/

/-- The owner of a group: the OWNER of the queue of its launch. -/
def groupOwner (s : State) (g : Nat) : Option Nat := ((s.group g).bind (fun x => s.launch x.launch)).map (·.owner)

/-- Run part of a step on behalf of an owner. -/
def State.paid (s : State) (o : Option Nat) (f : State → State) : State := { f { s with payer := o } with payer := s.payer }

end Sys2Proof.Machine
end

