-- ==== Sys2Proof/Machine/Homes.lean ====
section
/-!
DEFINITION. Link ports and accesses at their homes (R187, R188, R191, R461 to R466): what the ports hold, send and lose,
and writes performed where their bytes live.
-/

namespace Sys2Proof.Machine

/-! ### Link ports (R461, R466) -/

/-- STATE of a port as LNK_STAT shows it. -/
def LinkState.code : LinkState → Nat
  | .down => 0 | .training => 1 | .up => 2 | .degraded => 3 | .error => 4

/-- LNK_STAT of a port. -/
def lnkStat (s : State) (k : Nat) : Word :=
  let p := s.port k
  BitVec.ofNat 64 (p.lost.toNat * 2 ^ 48 + p.replays.toNat * 2 ^ 32 + p.remote.toNat * 2 ^ 24 + p.width.toNat * 2 ^ 16 + p.state.code)

/-- The lowest-numbered function of a partition, whose ring takes its KIND 4 and KIND 5 records (R427). -/
def partFn (s : State) (p : Nat) : Nat := ((List.range 16).find? (s.part p).funcs.contains).getD 0

/-- The partition that owns a port. -/
def portOwner (s : State) (k : Nat) : Option Nat :=
  (List.range 16).find? (fun i => (s.part i).state != .free && (s.part i).ports.contains k)

/-- A KIND 4 event of a port: for a rise of LOST none while an earlier one of the port waits to be written; a port that no
partition owns submits none. Its DATA is filled in when the record is written. -/
def linkEvent (s : State) (k : Nat) (lost : Bool) : State :=
  match portOwner s k with
  | none => s
  | some i =>
    if lost && (s.part i).events.any (fun e => e.lost == some k) then s
    else
      let f := partFn s i
      let e : Event := ⟨(s.part i).stamp, 0, 0, 0, 4, f, (s.fn f).gen, if lost then some k else none, some k⟩
      (s.updPart i (fun q => { q with stamp := q.stamp + 1, events := q.events ++ [e] })).post (.eventRecordWrite i)

/-- A port changes STATE, with its event. -/
def setPortState (s : State) (k : Nat) (st : LinkState) : State :=
  if (s.port k).state = st then s else linkEvent (s.updPort k (fun p => { p with state := st })) k false

/-- Sectors of posted writes were dropped at a port: LOST rises and saturates. -/
def addLost (s : State) (k n : Nat) : State :=
  let lost : BitVec 16 := BitVec.ofNat 16 (min 65535 ((s.port k).lost.toNat + n))
  if lost = (s.port k).lost then s else linkEvent (s.updPort k (fun p => { p with lost := lost })) k true

/-- A port takes requests: those to a port in TRAINING wait there (R462). -/
def portCarries (s : State) (k : Nat) : Bool :=
  match (s.port k).state with
  | .down => false
  | .error => false
  | _ => true

/-- Whether the port that reaches a target can take a request now (R466). -/
def linkCarries (s : State) : Tgt → Bool
  | .peer k => portCarries s k
  | .host => s.boot.pcie.getLsbD (hostPort s) && portCarries s (hostPort s)
  | _ => true

/-- The port that reaches a target is in TRAINING. -/
def linkTrains (s : State) : Tgt → Bool
  | .peer k => (s.port k).state == .training
  | .host => (s.port (hostPort s)).state == .training
  | _ => false

/-- The completer beyond a port rejects an access to a page (R392, R464; log entry 13). -/
def rejects (s : State) (t : Tgt) (pa : Nat) : Bool :=
  match t with
  | .host => Config.completerRejects 0 (pa / 4096) s.time
  | .peer k => Config.completerRejects (k + 1) (pa / 4096) s.time
  | _ => false

/-! ### What the links carry (R453, R454, R463) -/

/-- Bytes of payload on a link are charged to whom the step acts for (R454). -/
def linkBytes (s : State) (n : Nat) : State := s.chargePayer 3 n

/-- The bytes a masked write carries. -/
def SecWrite.bytes (w : SecWrite) : Nat :=
  ((List.range 32).filter (fun i => w.mask.toNat / 256 ^ i % 256 != 0)).length

/-- Send what waits in a peer port, as long as its replay buffer of 1,024 flits has room (R463). -/
def Port.pump (p : Port) : List Flit → Port
  | [] => { p with waiting := [] }
  | f :: fs =>
    if p.replay.length < 1024 then
      Port.pump { p with replay := p.replay ++ [{ f with seq := p.sendSeq, ack := p.recvSeq - 1 }], sendSeq := p.sendSeq + 1 } fs
    else { p with waiting := f :: fs }

/-- A port that is UP or DEGRADED sends. -/
def Port.send (p : Port) : Port := if p.state = .up ∨ p.state = .degraded then p.pump p.waiting else p

/-- POISON of a flit: a bit for each of its sectors (R463). -/
def poisonBits (ws : List SecWrite) : BitVec 8 :=
  BitVec.ofNat 8 (((ws.zipIdx).map (fun e => if e.1.poison then 2 ^ e.2 else 0)).sum)

/-- A flit of a TYPE and POISON joins a peer port, with the writes among its messages; each write makes a flit of its own,
for how messages are packed the spec does not say. -/
def sendFlit (s : State) (k kind : Nat) (poison : BitVec 8) (ws : List SecWrite) (posted : Bool := true) : State :=
  s.updPort k (fun p => Port.send { p with waiting := p.waiting ++ [⟨0, 0, BitVec.ofNat 8 kind, poison, ws, posted⟩] })

/-- A write that the far side takes: a peer's rejection is counted in LOST; one by the host leaves no trace (R460, R464). -/
def deliverWrite (s : State) (w : SecWrite) : State :=
  if rejects s w.tgt (32 * w.sector) then
    match w.tgt with
    | .peer k => addLost s k 1
    | _ => s
  else s.setMem w.tgt ((s.far w.tgt).apply w)

/-- A flit is acknowledged: the far side has taken its writes. Whether it takes that of an ATOM or CAS was settled when the
operation issued (R464). -/
def deliverFlit (s : State) (f : Flit) : State :=
  f.writes.foldl (fun s w => if f.posted then deliverWrite s w else s.setMem w.tgt ((s.far w.tgt).apply w)) s

/-- An ATOM or CAS is outstanding in a port: its answer has not come back. -/
def portAtomic (s : State) (t : Tgt) : Bool :=
  match t with
  | .peer k => ((s.port k).replay ++ (s.port k).waiting).any (fun f => !f.posted && !f.writes.isEmpty)
  | _ => false

/-- Some port holds writes that its far side has not taken: a release at SYSTEM scope waits for them (R201). -/
def portsBusy (s : State) : Bool := s.ports.toList.any (fun p => !p.writes.isEmpty)

/-- Reads of n bytes from an address at their home: sectors of device HBM pass through their slice (R449), bytes beyond a
port are charged, and a peer port sends a request (R453, R463). -/
def State.readAt (s : State) (t : Tgt) (a n : Nat) : State :=
  match t with
  | .hbm => if n = 0 then s else (List.range ((a + n - 1) / 32 + 1 - a / 32)).foldl (fun s j => s.l2Access (a / 32 + j) .read) s
  | .host => linkBytes s n
  | .peer k => sendFlit (linkBytes s n) k 1 0 []
  | .scratch _ => s

/-! ### Writes at their homes -/

/-- Perform a masked write at its home, posted or not. One to a port in TRAINING waits there (R462), and one to a peer stays
in the port until it is acknowledged (R463). A posted write that its port cannot send is dropped and counted in LOST (R466). -/
def State.sendWrite (s : State) (posted : Bool) (w : SecWrite) : State :=
  match w.tgt with
  | .peer k =>
    if !linkCarries s w.tgt then (if posted then addLost s k 1 else s)
    else sendFlit (linkBytes s w.bytes) k 1 (poisonBits [w]) [w] posted
  | .host =>
    if !linkCarries s w.tgt then (if posted then addLost s (hostPort s) 1 else s)
    else
      let s := linkBytes s w.bytes
      if linkTrains s w.tgt then
        s.updPort (hostPort s) (fun p => { p with waiting := p.waiting ++ [⟨0, 0, 1, poisonBits [w], [w], posted⟩] })
      else deliverFlit s ⟨0, 0, 1, poisonBits [w], [w], posted⟩
  | .hbm => ((s.setMem w.tgt ((s.mem w.tgt).apply w)).noteWaits w).l2Access w.sector
      (if w.mask = BitVec.allOnes 256 then .whole else .part)
  | .scratch _ => s.setMem w.tgt ((s.mem w.tgt).apply w)

/-- A posted write performed at its home. -/
def State.applyWrite (s : State) (w : SecWrite) : State := s.sendWrite true w

def State.applyWrites (s : State) (ws : List SecWrite) : State := ws.foldl State.applyWrite s

/-- A write performed at its home; the writing core's L1 copy of the bytes follows it (R187). -/
def homeWrite (s : State) (core : Nat) (w : SecWrite) : State :=
  let s := s.applyWrite w
  if w.tgt ≠ .hbm then s
  else
    let k := s.core core
    match alGet k.l1 w.sector with
    | some d =>
      s.setCore core { k with
        l1 := if w.poison then alDel k.l1 w.sector else alSet k.l1 w.sector (mergeBits d w.data w.mask) }
    | none => s

/-- The masked sector writes that store nbits bits of v from bit address bit of a target (R190, R191), lowest sector
first. -/
def secWrites (t : Tgt) (bit nbits v : Nat) (poison : Bool) : List SecWrite :=
  let first := bit / 256
  let last := (bit + nbits - 1) / 256
  if nbits = 0 then []
  else (List.range (last + 1 - first)).map fun j =>
    let k := first + j
    let lo := max bit (256 * k)
    let hi := min (bit + nbits) (256 * (k + 1))
    { tgt := t, sector := k,
      data := BitVec.ofNat 256 (v / 2 ^ (lo - bit) % 2 ^ (hi - lo) * 2 ^ (lo - 256 * k)),
      mask := BitVec.ofNat 256 ((2 ^ (hi - lo) - 1) * 2 ^ (lo - 256 * k)), poison := poison }

/-- A plain little-endian store of n bytes to a target. -/
def State.store (s : State) (t : Tgt) (a n v : Nat) (poison : Bool := false) : State :=
  s.applyWrites (secWrites t (8 * a) (8 * n) v poison)

/-- A plain little-endian read of n bytes from a target. -/
def State.load (s : State) (t : Tgt) (a n : Nat) : Nat := (s.mem t).read a n

end Sys2Proof.Machine
end

