-- ==== Sys2Proof/Machine/Num.lean ====
section
/-!
DEFINITION. Number formats and arithmetic (spec/02_numbers.md, R27 to R45): the exact value domain, Decode of a
code, Round onto a value set, integer rounding, stochastic rounding, and the exact functions of R166 to R171.
Everything here is pure: no machine state.
-/

namespace Sys2Proof.Machine

/-- A member of the canonical internal domain (R27). A finite value is (-1)^neg × m × 2^e with m > 0. -/
inductive Val where
  | zero (neg : Bool)
  | fin (neg : Bool) (m : Nat) (e : Int)
  | inf (neg : Bool)
  | nan
  deriving DecidableEq, Repr

/-- A nonzero magnitude num/den, exact (R166: no intermediate rounding). -/
structure Ratio where
  num : Nat
  den : Nat
  deriving DecidableEq, Repr

/-- 2^k as a ratio, for a possibly negative k. -/
def ratioPow2 (k : Int) : Ratio :=
  if 0 ≤ k then ⟨2 ^ k.toNat, 1⟩ else ⟨1, 2 ^ (-k).toNat⟩

/-- m × 2^e as a ratio. -/
def ratioOf (m : Nat) (e : Int) : Ratio :=
  if 0 ≤ e then ⟨m * 2 ^ e.toNat, 1⟩ else ⟨m, 2 ^ (-e).toNat⟩

def Ratio.le (x y : Ratio) : Bool := x.num * y.den ≤ y.num * x.den
def Ratio.eq (x y : Ratio) : Bool := x.num * y.den == y.num * x.den

/-- The rounding modes of R37 by field value: 0 RNE, 1 RTZ, 2 RUP, 3 RDN, 4 RNA, 5 STOCH. -/
inductive RMode where
  | rne | rtz | rup | rdn | rna | stoch
  deriving DecidableEq, Repr

/-- The mode an RM field names (R37); 6 and 7 are refused at decode. -/
def RMode.ofField (f : BitVec 3) : RMode :=
  match f.toNat with
  | 0 => .rne | 1 => .rtz | 2 => .rup | 3 => .rdn | 4 => .rna | _ => .stoch

/-- How the special codes of a float format are placed (R31, R58). -/
inductive Specials where
  | ieee     -- exponent all ones: infinity when the fraction is zero, NaN otherwise
  | topNan   -- only the code with all non-sign bits set is NaN (E4M3)
  | none     -- every code is finite
  deriving DecidableEq, Repr

/-- What a slot's decoder and encoder compute (R30 to R33); a customer format is known by its image digest only. -/
inductive Codec where
  | float (expBits fracBits : Nat) (bias : Int) (specials : Specials)
  | int (signed : Bool) (width : Nat)
  | e8m0
  | custom (digest : Nat)
  deriving DecidableEq, Repr

/-! ### Descriptors (R58, R59) -/

/-- Bits [hi:lo] of a descriptor or other word, as a number. -/
def bitsNat (w : Nat) (hi lo : Nat) : Nat := (w >>> lo) % 2 ^ (hi + 1 - lo)

def descWidth (d : Word) : Nat := bitsNat d.toNat 6 0
def descSclass (d : Word) : Nat := bitsNat d.toNat 18 16
def descInteger (d : Word) : Bool := d.getLsbD 19
def descSign (d : Word) : Nat := bitsNat d.toNat 21 20
def descNan (d : Word) : Nat := bitsNat d.toNat 23 22
def descInf (d : Word) : Nat := bitsNat d.toNat 25 24
def descZero (d : Word) : Nat := bitsNat d.toNat 27 26
def descDefscale (d : Word) : Nat := bitsNat d.toNat 29 28
def descScale (d : Word) : Bool := d.getLsbD 30
def descMatrix (d : Word) : Bool := d.getLsbD 31
def descFormatId (d : Word) : Nat := bitsNat d.toNat 39 32
def descGen (d : Word) : Nat := bitsNat d.toNat 63 48
def descState (d : Word) : Nat := bitsNat d.toNat 47 45

/-- A descriptor word from its fields, GEN and STATE zero (R58). -/
def mkDesc (id width sclass matrix scale defscale zeros inf nan sign integer : Nat) : Word :=
  BitVec.ofNat 64 (id * 2 ^ 32 + matrix * 2 ^ 31 + scale * 2 ^ 30 + defscale * 2 ^ 28 + zeros * 2 ^ 26 + inf * 2 ^ 24
    + nan * 2 ^ 22 + sign * 2 ^ 20 + integer * 2 ^ 19 + sclass * 2 ^ 16 + width)

/-- The fixed formats and the vendor catalogue (R30 to R33, R59): FORMAT_ID, descriptor, canonical NaN code, code of
the largest positive finite value, codec. -/
def catalogue : List (Nat × Word × Nat × Nat × Codec) :=
  [ (0x01, mkDesc 0x01 64 5 1 0 0 2 1 2 1 0, 0x7FF8000000000000, 0x7FEFFFFFFFFFFFFF, .float 11 52 1023 .ieee),
    (0x02, mkDesc 0x02 32 4 1 0 0 2 1 2 1 0, 0x7FC00000, 0x7F7FFFFF, .float 8 23 127 .ieee),
    (0x03, mkDesc 0x03 16 3 1 0 0 2 1 2 1 0, 0x7E00, 0x7BFF, .float 5 10 15 .ieee),
    (0x04, mkDesc 0x04 16 2 1 0 0 2 1 2 1 0, 0x7FC0, 0x7F7F, .float 8 7 127 .ieee),
    (0x10, mkDesc 0x10 19 3 0 0 0 2 1 2 1 0, 0x3FE00, 0x3FBFF, .float 8 10 127 .ieee),
    (0x14, mkDesc 0x14 8 1 1 0 1 2 1 2 1 0, 0x7E, 0x7B, .float 5 2 15 .ieee),
    (0x15, mkDesc 0x15 8 1 1 1 1 2 0 1 1 0, 0x7F, 0x7E, .float 4 3 7 .topNan),
    (0x16, mkDesc 0x16 6 1 1 0 1 2 0 0 1 0, 0, 0x1F, .float 3 2 3 .none),
    (0x17, mkDesc 0x17 6 1 1 0 1 2 0 0 1 0, 0, 0x1F, .float 2 3 1 .none),
    (0x18, mkDesc 0x18 4 0 1 0 1 2 0 0 1 0, 0, 0x7, .float 2 1 1 .none),
    (0x20, mkDesc 0x20 8 2 1 0 0 1 0 0 2 1, 0, 0x7F, .int true 8),
    (0x21, mkDesc 0x21 8 2 1 0 0 1 0 0 0 1, 0, 0xFF, .int false 8),
    (0x22, mkDesc 0x22 4 1 1 0 0 1 0 0 2 1, 0, 0x7, .int true 4),
    (0x23, mkDesc 0x23 4 1 1 0 0 1 0 0 0 1, 0, 0xF, .int false 4),
    (0x24, mkDesc 0x24 2 0 1 0 0 1 0 0 2 1, 0, 0x1, .int true 2),
    (0x30, mkDesc 0x30 8 0 0 1 0 0 0 1 0 0, 0xFF, 0xFE, .e8m0) ]

/-- The catalogue row of a FORMAT_ID. -/
def catalogueFind (id : Nat) : Option (Nat × Word × Nat × Nat × Codec) := catalogue.find? (·.1 == id)

/-- The image of a catalogue format (digest zero: the fixed slots have none). -/
def catalogueImage (id : Nat) : Image :=
  match catalogueFind id with
  | some (_, d, n, m, _) => ⟨d, n, m, 0, false⟩
  | none => ⟨0, 0, 0, 0, false⟩

/-- What a bound image decodes to: a vendor image that names a catalogue identifier has that format's codec, any other image
its own BITSTREAM (R56, R57; log entry 45). -/
def imageCodec (im : Image) : Codec :=
  match catalogueFind (descFormatId im.desc) with
  | some (_, _, _, _, c) => if im.own then .custom im.digest else c
  | none => .custom im.digest

/-! ### Decode (R11, R27) -/

/-- The magnitude m × 2^e of the float code whose bits below the sign are c. -/
def floatMag (f : Nat) (bias : Int) (c : Nat) : Nat × Int :=
  let ef := c / 2 ^ f
  let fr := c % 2 ^ f
  if ef = 0 then (fr, 1 - bias - f) else (2 ^ f + fr, (ef : Int) - bias - f)

/-- The largest finite magnitude code of a float format. -/
def floatMaxCode (e f : Nat) (sp : Specials) : Nat :=
  match sp with
  | .ieee => (2 ^ e - 1) * 2 ^ f - 1
  | .topNan => 2 ^ (e + f) - 2
  | .none => 2 ^ (e + f) - 1

/-- The value of a two's-complement or unsigned code of width w (R7, R11). -/
def intOfBits (signed : Bool) (w : Nat) (c : Nat) : Int :=
  let c := c % 2 ^ w
  if signed && decide (2 ^ (w - 1) ≤ c) then (c : Int) - 2 ^ w else c

/-- An exact integer as a member of the domain; its zero is +0 (R32). -/
def valOfInt (n : Int) : Val := if n = 0 then .zero false else .fin (n < 0) n.natAbs 0

/-- The significand's width in bits: M without its trailing zeros (R27, R58). -/
def oddPart (m : Nat) : Nat := (List.range m.log2).foldl (fun m _ => if m % 2 = 0 then m / 2 else m) m

def sigWidth : Val → Nat
  | .fin _ m _ => Nat.log2 (oddPart m) + 1
  | _ => 0

/-- The value lies in the domain: 64 significand bits and a 13-bit exponent (R27). -/
def inDomain : Val → Bool
  | .fin s m e =>
    let top := e + (Nat.log2 m : Int)
    decide (sigWidth (.fin s m e) ≤ 64) && decide (-4096 ≤ top) && decide (top ≤ 4095)
  | _ => true

/-- What an opaque customer decoder yields for a code, before any check of it (R56: the bitstream's meaning is not
given). -/
def customRaw (digest code : Nat) : Val :=
  match Config.customDecode digest code with
  | (0, s, _, _) => .zero s
  | (1, s, m, e) => .fin s (m + 1) e
  | (2, s, _, _) => .inf s
  | _ => .nan

/-- The member of the domain that a code of a bound customer format decodes to (R27): what its decoder yields, and a free
member where a code that no check of R57 reached would lie outside (log entry 6). -/
def customVal (digest code : Nat) : Val :=
  match customRaw digest code with
  | .fin s m e => if inDomain (.fin s m e) then .fin s m e else .fin s (2 ^ 63 + m % 2 ^ 63) (e % 8192 - 4096 - 63)
  | v => v

/-- Decode(slot, code) of R11. -/
def decodeCode (c : Codec) (code : Nat) : Val :=
  match c with
  | .float e f bias sp =>
    let mag := code % 2 ^ (e + f)
    let neg := code / 2 ^ (e + f) % 2 == 1
    if mag = 0 then .zero neg
    else if mag ≤ floatMaxCode e f sp then
      let p := floatMag f bias mag
      .fin neg p.1 p.2
    else if sp == .ieee && mag % 2 ^ f == 0 then .inf neg
    else .nan
  | .int signed w => valOfInt (intOfBits signed w code)
  | .e8m0 => if code % 256 = 255 then .nan else .fin false 1 ((code % 256 : Nat) - 127)
  | .custom d => customVal d code

/-! ### Round (R36 to R38, R168) -/

/-- Largest c ≤ acc + 2^bits - 1 with p c, by bits, for a p that holds at acc and then fails from some point on. -/
def searchCode (p : Nat → Bool) : Nat → Nat → Nat
  | 0, acc => acc
  | b + 1, acc => searchCode p b (if p (acc + 2 ^ b) then acc + 2 ^ b else acc)

/-- The choice of R37 and R44 on a magnitude x strictly between candidates a and b (or at or above b): true for b.
t is floor((x-a)/(b-a) × 2^16); r holds the STOCH bits. aEven says whether a counts as the even candidate: a tie looks at
a alone, which decides too where the codes of both candidates, or of neither, have bit 0 clear (log entry 106). -/
def chooseUp (mode : RMode) (neg : Bool) (x a b : Ratio) (aEven : Bool) (r : Nat) : Bool :=
  -- all three over one denominator
  let d := x.den * a.den * b.den
  let xn := x.num * a.den * b.den
  let an := a.num * x.den * b.den
  let bn := b.num * x.den * a.den
  let two := 2 * (xn - an)
  let gap := bn - an
  match mode with
  | .rtz => false
  | .rup => !neg
  | .rdn => neg
  | .rne => if two = gap then !aEven else decide (gap < two)
  | .rna => decide (gap ≤ two)
  | .stoch => decide (2 ^ 16 ≤ (xn - an) * 2 ^ 16 / gap + r) && decide (0 < d)

/-- What Round picks before it is turned into a code. -/
inductive Picked where
  | mag (index : Nat)   -- the finite magnitude of that index
  | overflow
  deriving DecidableEq, Repr

/-- The candidates of R36 over a value set listed by increasing index 0..maxIx: pick one for the magnitude x. -/
def pickMag (magAt : Nat → Ratio) (evenAt : Nat → Bool) (bits maxIx : Nat) (ovf : Ratio) (mode : RMode) (neg : Bool)
    (x : Ratio) (r : Nat) : Picked :=
  if !(magAt 0).le x then .mag 0                               -- a is none: the smallest member (R37)
  else
    let c := searchCode (fun i => decide (i ≤ maxIx) && (magAt i).le x) bits 0
    if (magAt c).eq x then .mag c
    else if c = maxIx then
      (if chooseUp mode neg x (magAt c) ovf (evenAt c) r then .overflow else .mag c)
    else if chooseUp mode neg x (magAt c) (magAt (c + 1)) (evenAt c) r then .mag (c + 1) else .mag c

/-- The two neighbouring integers of R39: the integer magnitude that the mode picks for |x|. -/
def roundMagInt (mode : RMode) (neg : Bool) (x : Ratio) (r : Nat) : Nat :=
  let a := x.num / x.den
  if a * x.den = x.num then a
  else if chooseUp mode neg x ⟨a, 1⟩ ⟨a + 1, 1⟩ (a % 2 == 0) r then a + 1 else a

/-- Fit an integer to a destination of w bits (R39). -/
def fitInt (signed : Bool) (w : Nat) (sat : Bool) (v : Int) : Nat :=
  let lo : Int := if signed then -2 ^ (w - 1) else 0
  let hi : Int := if signed then 2 ^ (w - 1) - 1 else 2 ^ w - 1
  let v := if sat then (if v < lo then lo else if hi < v then hi else v) else v
  (v % 2 ^ w).toNat

/-- An exact signed value that is to be rounded: a domain member with an exact magnitude. -/
inductive Exact where
  | zero (neg : Bool)
  | mag (neg : Bool) (x : Ratio)
  | inf (neg : Bool)
  | nan
  deriving DecidableEq, Repr

/-- A value of the domain as an exact value. -/
def exactOf : Val → Exact
  | .zero s => .zero s
  | .fin s m e => .mag s (ratioOf m e)
  | .inf s => .inf s
  | .nan => .nan

/-- Round to an integer type (R39). -/
def roundToInt (signed : Bool) (w : Nat) (x : Exact) (mode : RMode) (sat : Bool) (r : Nat) : Nat :=
  match x with
  | .nan => 0
  | .zero _ => 0
  | .inf neg => if neg then (if signed then 2 ^ (w - 1) else 0) else (if signed then 2 ^ (w - 1) - 1 else 2 ^ w - 1)
  | .mag neg x =>
    let m : Int := roundMagInt mode neg x r
    fitInt signed w sat (if neg then -m else m)

/-- Two members of the domain are one value, signs of zero told apart (R27). -/
def Val.same (x y : Val) : Bool :=
  match x, y with
  | .zero s, .zero t => s == t
  | .inf s, .inf t => s == t
  | .nan, .nan => true
  | .fin s m e, .fin t n f => s == t && (ratioOf m e).eq (ratioOf n f)
  | _, _ => false

/-- Put a magnitude into a rising list without repeats. -/
def insertMag (x : Ratio) : List Ratio → List Ratio
  | [] => [x]
  | y :: ys => if x.eq y then y :: ys else if x.le y then x :: y :: ys else y :: insertMag x ys

/-- F of R36: the finite magnitudes of a customer format's codes, of either sign, rising; 0 where it has a zero. -/
def customMags (digest width : Nat) : List Ratio :=
  (List.range (2 ^ width)).foldl (fun acc c =>
    match customVal digest c with
    | .zero _ => insertMag ⟨0, 1⟩ acc
    | .fin _ m e => insertMag (ratioOf m e) acc
    | _ => acc) []

/-- The codes of a customer format that decode to a value. -/
def customCodes (digest width : Nat) (v : Val) : List Nat :=
  (List.range (2 ^ width)).filter (fun c => (customVal digest c).same v)

/-- The code Round writes for a value of a customer format, if it has one: MAX_FINITE for the value that names it, else
one of its codes, which one the free value says (log entry 106). -/
def customCode (im : Image) (d : Nat) (v : Val) : Option Nat :=
  match customCodes d (descWidth im.desc) v with
  | [] => none
  | c :: cs =>
    some (if (customVal d im.maxFinite).same v then im.maxFinite
      else (c :: cs).getD (Config.codePick d c % (cs.length + 1)) c)

/-- A magnitude as a member of the domain of the given sign, from the codes of a customer format. -/
def magVal (digest width : Nat) (neg : Bool) (x : Ratio) : Val :=
  match (List.range (2 ^ width)).find? (fun c => match customVal digest c with
    | .fin _ m e => (ratioOf m e).eq x
    | _ => false) with
  | some c => match customVal digest c with
    | .fin _ m e => .fin neg m e
    | v => v
  | none => .zero neg

/-- The code of a nonzero magnitude of F with a sign; a value that no code has takes a free value (log entry 106). -/
def signedCode (im : Image) (d : Nat) (neg : Bool) (x : Ratio) : Nat :=
  (customCode im d (magVal d (descWidth im.desc) neg x)).getD (Config.missingCode d neg x.num x.den % 2 ^ descWidth im.desc)

/-- "Even" of R37 for a magnitude of F: bit 0 of its code, the positive one where there is one; MAX_FINITE for max. A tie
looks at the lower candidate alone (log entry 106). -/
def magEven (im : Image) (d : Nat) (top : Bool) (x : Ratio) : Bool :=
  let w := descWidth im.desc
  let c := if top then im.maxFinite
    else if x.num = 0 then ((customCode im d (.zero false)).orElse (fun _ => customCode im d (.zero true))).getD 0
    else ((customCode im d (magVal d w false x)).orElse (fun _ => customCode im d (magVal d w true x))).getD 0
  c % 2 == 0

/-- Round onto a customer float format's value set (R36 to R38, R168), from its decoder alone. With one finite magnitude
there is no prev of R36, and the overflow point is that magnitude (log entry 106). -/
def roundCustom (im : Image) (d : Nat) (x : Exact) (mode : RMode) (sat : Bool) (r : Nat) : Nat :=
  let w := descWidth im.desc
  let set := customMags d w
  let at' (i : Nat) : Ratio := (set[i]?).getD ⟨0, 1⟩
  let n := set.length
  let smallest : Nat := signedCode im d false (((set.filter (fun p => p.num != 0)).head?).getD ⟨0, 1⟩)
  let zeroCode (neg : Bool) : Nat :=
    ((customCode im d (.zero neg)).orElse (fun _ => customCode im d (.zero (!neg)))).getD smallest
  let hasNan := descNan im.desc != 0
  let maxCode (neg : Bool) : Nat := signedCode im d neg (at' (n - 1))
  let overflow (neg : Bool) : Nat :=
    if sat then maxCode neg
    else match customCode im d (.inf neg) with
      | some c => c
      | none => if hasNan then im.canonNan else maxCode neg
  let nanCode : Nat := if hasNan then im.canonNan else zeroCode false
  let smallestFinite : Nat := if (at' 0).num = 0 then zeroCode false else signedCode im d false (at' 0)
  let unsignedNeg : Nat := if sat || !hasNan then smallestFinite else im.canonNan
  match x with
  | .nan => nanCode
  | .zero neg => zeroCode neg
  | .inf neg => if neg && descSign im.desc == 0 then unsignedNeg else overflow neg
  | .mag neg x =>
    if neg && descSign im.desc == 0 then unsignedNeg
    else
      let mx := at' (n - 1)
      let pv := at' (n - 2)
      let ovf : Ratio := ⟨2 * mx.num * pv.den - pv.num * mx.den, mx.den * pv.den⟩
      match pickMag at' (fun i => magEven im d (i + 1 == n) (at' i)) w (n - 1) ovf mode neg x r with
      | .overflow => overflow neg
      | .mag i => if (at' i).num = 0 then zeroCode neg else signedCode im d neg (at' i)

/-! ### Customer integer slots (R39, R176) -/

/-- An exact value of the domain that is an integer, as an integer. -/
def Val.toInt : Val → Int
  | .fin s n e => (if s then -1 else 1) * (if 0 ≤ e then (n : Int) * 2 ^ e.toNat else (n : Int) / 2 ^ (-e).toNat)
  | _ => 0

/-- The integers that a customer format's finite codes have, each with its code. -/
def customInts (digest width : Nat) : List Int :=
  (List.range (2 ^ width)).filterMap fun c =>
    match customVal digest c with
    | .zero _ => some 0
    | .fin s m e => some (Val.toInt (.fin s m e))
    | _ => none

/-- The code of an integer in a customer format: +0 before −0 for 0; an integer that no code has takes a free value (log
entry 106). -/
def intCode (im : Image) (d : Nat) (v : Int) : Nat :=
  let c := if v = 0 then (customCode im d (.zero false)).orElse (fun _ => customCode im d (.zero true))
    else customCode im d (valOfInt v)
  c.getD (Config.missingCode d (v < 0) v.natAbs 1 % 2 ^ descWidth im.desc)

/-- Round onto a customer slot with INTEGER = 1. That R39 rules its finite values, with the range and the codes of its
decoder, and R28 and R38 the NaNs, infinities and zeros that have codes of their own, is the model's reading (log entry
125). -/
def roundCustomInt (im : Image) (d : Nat) (x : Exact) (mode : RMode) (sat : Bool) (r : Nat) : Nat :=
  let w := descWidth im.desc
  let vs := customInts d w
  let hi := vs.foldl max (vs.headD 0)
  let lo := vs.foldl min (vs.headD 0)
  match x with
  | .nan => if descNan im.desc != 0 then im.canonNan else intCode im d 0
  | .zero neg => (customCode im d (.zero neg)).getD (intCode im d 0)
  | .inf neg =>
    let end_ := intCode im d (if neg then lo else hi)
    if sat then end_ else (customCode im d (.inf neg)).getD end_
  | .mag neg x =>
    let m : Int := roundMagInt mode neg x r
    let v := if neg then -m else m
    if hi < v then (if sat then intCode im d hi else (v % 2 ^ w).toNat)
    else if v < lo then (if sat then intCode im d lo else (v % 2 ^ w).toNat)
    else intCode im d v

/-- Round(slot, value, mode, sat) of R11 for the slot image im, with the STOCH bits r (R36 to R39, R44, R168). -/
def roundTo (im : Image) (x : Exact) (mode : RMode) (sat : Bool) (r : Nat) : Nat :=
  match imageCodec im with
  | .int signed w => roundToInt signed w x mode sat r
  | .custom d => if descInteger im.desc then roundCustomInt im d x mode sat r else roundCustom im d x mode sat r
  | .e8m0 =>
    match x with
    | .nan => 0xFF
    | .zero _ => 0xFF
    | .inf neg => if neg then 0xFF else if sat then 0xFE else 0xFF
    | .mag neg x =>
      if neg then 0xFF
      else match pickMag (fun i => ratioPow2 ((i : Int) - 127)) (· % 2 == 0) 8 254 (ratioPow2 128) mode neg x r with
        | .overflow => if sat then 0xFE else 0xFF
        | .mag i => i
  | .float e f bias sp =>
    let sgn (neg : Bool) : Nat := if neg then 2 ^ (e + f) else 0
    let mx := floatMaxCode e f sp
    let overflow (neg : Bool) : Nat :=
      if sat then sgn neg + mx
      else match sp with
        | .ieee => sgn neg + (mx + 1)
        | .topNan => im.canonNan
        | .none => sgn neg + mx
    match x with
    | .nan => if sp == .none then 0 else im.canonNan
    | .zero neg => sgn neg
    | .inf neg => overflow neg
    | .mag neg x =>
      let at' (i : Nat) : Ratio := let p := floatMag f bias i; ratioOf p.1 p.2
      let m := floatMag f bias mx
      let p := floatMag f bias (mx - 1)
      let ovf : Ratio := ⟨2 * (ratioOf m.1 m.2).num * (ratioOf p.1 p.2).den
          - (ratioOf p.1 p.2).num * (ratioOf m.1 m.2).den, (ratioOf m.1 m.2).den * (ratioOf p.1 p.2).den⟩
      match pickMag at' (· % 2 == 0) (e + f) mx ovf mode neg x r with
      | .overflow => overflow neg
      | .mag i => sgn neg + i

/-! ### Stochastic bits and the LFSR (R41 to R44) -/

/-- One step of the 32-bit Galois LFSR (R41). -/
def lfsrStep (s : BitVec 32) : BitVec 32 :=
  if s.getLsbD 0 then (s >>> 1) ^^^ 0x80200003#32 else s >>> 1

/-- The value %SEED takes when x is written to it (R41). -/
def seedStore (x : Word) : BitVec 32 := if x.setWidth 32 = 0 then 1 else x.setWidth 32

/-- The 16 random bits of sub-element i (R43). -/
def stochBits (seed : BitVec 32) (i : Nat) : Nat := ((seed.rotateRight (7 * i % 32)).setWidth 16).toNat

/-! ### Exact operations (R40, R166) -/

def Val.neg : Val → Val
  | .zero s => .zero (!s)
  | .fin s m e => .fin (!s) m e
  | .inf s => .inf (!s)
  | .nan => .nan

/-- The integer numerators of two finite values over one power of two. -/
def alignTo (e₀ : Int) (s : Bool) (m : Nat) (e : Int) : Int :=
  let v : Int := m * 2 ^ (e - e₀).toNat
  if s then -v else v

/-- Add of R166; rdn says whether the instruction rounds toward minus infinity (R40). -/
def Val.add (rdn : Bool) (x y : Val) : Val :=
  match x, y with
  | .nan, _ => .nan
  | _, .nan => .nan
  | .inf s, .inf t => if s == t then .inf s else .nan
  | .inf s, _ => .inf s
  | _, .inf t => .inf t
  | .zero s, .zero t => if s == t then .zero s else .zero rdn
  | .zero _, y => y
  | x, .zero _ => x
  | .fin s m e, .fin t n f =>
    let e₀ := min e f
    let v := alignTo e₀ s m e + alignTo e₀ t n f
    if v = 0 then .zero rdn else .fin (v < 0) v.natAbs e₀

/-- Mul of R166. -/
def Val.mul (x y : Val) : Val :=
  match x, y with
  | .nan, _ => .nan
  | _, .nan => .nan
  | .inf _, .zero _ => .nan
  | .zero _, .inf _ => .nan
  | .inf s, .inf t => .inf (s ^^ t)
  | .inf s, .fin t _ _ => .inf (s ^^ t)
  | .fin s _ _, .inf t => .inf (s ^^ t)
  | .zero s, .zero t => .zero (s ^^ t)
  | .zero s, .fin t _ _ => .zero (s ^^ t)
  | .fin s _ _, .zero t => .zero (s ^^ t)
  | .fin s m e, .fin t n f => .fin (s ^^ t) (m * n) (e + f)

/-- A power-of-two exponent held within a range past which every format of R27 rounds alike. -/
def clampExp (k : Int) : Int := if k < -20000 then -20000 else if 20000 < k then 20000 else k

/-- Multiplication by 2^k (R169). -/
def Val.scale (x : Val) (k : Int) : Val :=
  match x with
  | .fin s m e => .fin s m (e + clampExp k)
  | v => v

/-- FDIV's exact quotient (R171). -/
def divExact (x y : Val) : Exact :=
  match x, y with
  | .nan, _ => .nan
  | _, .nan => .nan
  | .zero _, .zero _ => .nan
  | .inf _, .inf _ => .nan
  | .inf s, .zero t => .inf (s ^^ t)
  | .inf s, .fin t _ _ => .inf (s ^^ t)
  | .fin s _ _, .zero t => .inf (s ^^ t)
  | .zero s, .fin t _ _ => .zero (s ^^ t)
  | .zero s, .inf t => .zero (s ^^ t)
  | .fin s _ _, .inf t => .zero (s ^^ t)
  | .fin s m e, .fin t n f =>
    let a := ratioOf m e
    let b := ratioOf n f
    .mag (s ^^ t) ⟨a.num * b.den, a.den * b.num⟩

/-- Order of R172: -Inf < negative < -0 < +0 < positive < +Inf; never used on a NaN. -/
def Val.lt (x y : Val) : Bool :=
  let rank : Val → Int := fun
    | .inf true => -3 | .fin true _ _ => -2 | .zero true => -1
    | .zero false => 0 | .fin false _ _ => 1 | .inf false => 2 | .nan => 3
  match x, y with
  | .fin s m e, .fin t n f =>
    if s == t then
      let a := ratioOf m e
      let b := ratioOf n f
      if s then (a.num * b.den) > (b.num * a.den) else (a.num * b.den) < (b.num * a.den)
    else s
  | x, y => rank x < rank y

/-- Equality of values for comparisons, where -0 equals +0 (R173). -/
def Val.eqv (x y : Val) : Bool :=
  match x, y with
  | .zero _, .zero _ => true
  | .inf s, .inf t => s == t
  | .fin s m e, .fin t n f => s == t && (ratioOf m e).eq (ratioOf n f)
  | _, _ => false

/-- The numeric order of R173, with the two zeros equal. -/
def Val.ltNum (x y : Val) : Bool :=
  match x, y with
  | .zero _, .zero _ => false
  | x, y => x.lt y

/-! ### Roots and transcendentals (R171)

A result that is not rational is enclosed between two rationals; the enclosure is sharpened until both ends round to
one code. No formula below is the spec's: the spec says only that the exact value is rounded once. -/

/-- floor of the square root, by bits. -/
def isqrtBits (n : Nat) : Nat → Nat → Nat
  | 0, acc => acc
  | b + 1, acc => isqrtBits n b (let c := acc + 2 ^ b; if c * c ≤ n then c else acc)

def isqrt (n : Nat) : Nat := isqrtBits n (n.log2 / 2 + 1) 0

/-- Σ over k of the series whose next term is term × num / den(k), for at most fuel terms, all at one scale. -/
def seriesSum (next : Nat → Int → Int) : Nat → Nat → Int → Int → Int
  | 0, _, _, acc => acc
  | fuel + 1, k, term, acc =>
    if term = 0 then acc else seriesSum next fuel (k + 1) (next k term) (acc + term)

/-- exp(r/2^q) at scale 2^q, for |r| < 2^(q+3). -/
def expFix (q : Nat) (r : Int) : Int :=
  seriesSum (fun k t => (t * r) / (2 ^ q * (k + 1 : Int))) (2 * q + 64) 0 (2 ^ q) 0

/-- Σ sign^k z^(2k+1)/(2k+1) at scale 2^q: artanh z for sign = 1, arctan z for sign = -1; z = zn/zd. -/
def oddSeries (sign : Int) (q : Nat) (zn zd : Int) : Nat → Nat → Int → Int → Int
  | 0, _, _, acc => acc
  | fuel + 1, k, pow, acc =>
    if pow = 0 then acc
    else oddSeries sign q zn zd fuel (k + 1) (sign * pow * zn * zn / (zd * zd)) (acc + pow / (2 * k + 1 : Int))

def artanhFix (q : Nat) (zn zd : Int) : Int := oddSeries 1 q zn zd (q + 8) 0 (2 ^ q * zn / zd) 0
def arctanFix (q : Nat) (zn zd : Int) : Int := oddSeries (-1) q zn zd (q + 8) 0 (2 ^ q * zn / zd) 0

def ln2Fix (q : Nat) : Int := 2 * artanhFix q 1 3
def piFix (q : Nat) : Int := 16 * arctanFix q 1 5 - 4 * arctanFix q 1 239

/-- sin and cos of r/2^q at scale 2^q by their series. -/
def sinFix (q : Nat) (r : Int) : Int :=
  seriesSum (fun k t => -(t * r * r) / (2 ^ (2 * q) * ((2 * k + 2) * (2 * k + 3) : Int))) (q + 64) 0 r 0
def cosFix (q : Nat) (r : Int) : Int :=
  seriesSum (fun k t => -(t * r * r) / (2 ^ (2 * q) * ((2 * k + 1) * (2 * k + 2) : Int))) (q + 64) 0 (2 ^ q) 0

/-- An enclosure lo ≤ v ≤ hi at scale 2^q. -/
structure Enclosure where
  lo : Int
  hi : Int
  q : Nat
  deriving DecidableEq, Repr

/-- v with a margin of 2^24 units in the last place, more than every truncation of the series above adds up to. -/
def enclose (q : Nat) (v : Int) : Enclosure := ⟨v - 2 ^ 24, v + 2 ^ 24, q⟩

/-- x = (-1)^s m 2^e at scale 2^q, truncated. -/
def fixOf (q : Nat) (s : Bool) (m : Nat) (e : Int) : Int :=
  let v : Int := if 0 ≤ e + q then m * 2 ^ (e + q).toNat else (m : Int) / 2 ^ (-(e + q)).toNat
  if s then -v else v

/-- The functions of R171 that have irrational values. -/
inductive Trans where
  | sqrt | rsqrt | exp2 | log2 | sin | cos | tanh
  deriving DecidableEq, Repr

/-- The enclosure of the function at ±m×2^e with p bits after the point. -/
def encloseTrans (f : Trans) (s : Bool) (m : Nat) (e : Int) (p : Nat) : Enclosure :=
  let top : Int := e + (m.log2 : Int) + 1
  match f with
  | .sqrt =>
    let q := p + 32 + (if top < 0 then (-top).toNat else 0)
    enclose q (isqrt (fixOf (2 * q) false m e).toNat)
  | .rsqrt =>
    -- the floor of the root of 2^(2q) over the exact x, so within one unit of 2^q over the root of x
    let q := p + 32 + (if 0 < top then top.toNat else 0)
    let x := ratioOf m e
    enclose q (isqrt (2 ^ (2 * q) * x.den / max 1 x.num) : Nat)
  | .exp2 =>
    let q := p + 64
    let x := fixOf q s m e
    let k := x / 2 ^ q
    let r := x % 2 ^ q
    let y := expFix q (r * ln2Fix q / 2 ^ q)
    -- 2^k × y: keep y and move the scale
    ⟨y - 2 ^ 24, y + 2 ^ 24, ((q : Int) - clampExp k + 20000).toNat⟩
  | .log2 =>
    let q := p + 64
    let k : Int := e + m.log2
    -- x = 2^k × y, 1 ≤ y < 2
    let num : Int := m
    let den : Int := 2 ^ m.log2
    let l := 2 * artanhFix q (num - den) (num + den)
    enclose q (k * 2 ^ q + l * 2 ^ q / ln2Fix q)
  | .sin =>
    let q := p + 64 + (if 0 < top then top.toNat else 0)
    let tau := 2 * piFix q
    let x := fixOf q s m e
    let r := (x + tau / 2) % tau - tau / 2
    let err : Int := 2 ^ (24 + (if 0 < top then top.toNat else 0) + 8)
    ⟨sinFix q r - err, sinFix q r + err, q⟩
  | .cos =>
    let q := p + 64 + (if 0 < top then top.toNat else 0)
    let tau := 2 * piFix q
    let x := fixOf q s m e
    let r := (x + tau / 2) % tau - tau / 2
    let err : Int := 2 ^ (24 + (if 0 < top then top.toNat else 0) + 8)
    ⟨cosFix q r - err, cosFix q r + err, q⟩
  | .tanh =>
    let q := p + 64
    if 7 < top then
      -- |x| ≥ 2^7: tanh differs from ±1 by less than any step of a value set of R27 can show
      let one : Int := 2 ^ 360
      if s then ⟨-one + 1, -one + 2, 360⟩ else ⟨one - 2, one - 1, 360⟩
    else
      let n := 8
      -- e^(2|x|) by argument halving
      let q' := q + 512
      let x := fixOf q' false m e
      let y := (List.range n).foldl (fun (y : Int) _ => y * y / 2 ^ q') (expFix q' (2 * x / 2 ^ n))
      let v := (y - 2 ^ q') * 2 ^ q / (y + 2 ^ q')
      if s then enclose q (-v) else enclose q v

/-- Round an enclosed irrational once: sharpen until both ends give one code; a value that never settles takes the
free value of Config. -/
def roundEnclosed (im : Image) (f : Trans) (s : Bool) (m : Nat) (e : Int) (mode : RMode) (sat : Bool) (r : Nat) :
    Nat → Nat → Nat
  | 0, _ => Config.unsettledCode m e % 2 ^ descWidth im.desc
  | fuel + 1, p =>
    let i := encloseTrans f s m e p
    let shift : Ratio := ratioPow2 (if f = .exp2 then 20000 else 0)
    let val (v : Int) : Exact := .mag (v < 0) ⟨v.natAbs * shift.num, 2 ^ i.q⟩
    if i.lo = 0 ∨ i.hi = 0 ∨ (i.lo < 0) ≠ (i.hi < 0) then roundEnclosed im f s m e mode sat r fuel (2 * p)
    else
      let a := roundTo im (val i.lo) mode sat r
      let b := roundTo im (val i.hi) mode sat r
      if a = b then a else roundEnclosed im f s m e mode sat r fuel (2 * p)

/-- m × 2^e as an exact square m' × 2^e', when it is one. -/
def exactSqrt (m : Nat) (e : Int) : Option (Nat × Int) :=
  let (m, e) := if e % 2 = 0 then (m, e) else (2 * m, e - 1)
  let k := isqrt m
  if k * k = m then some (k, e / 2) else none

/-- m × 2^e as an integer, when it is one of reasonable size. -/
def exactInt (s : Bool) (m : Nat) (e : Int) : Option Int :=
  let r := ratioOf m (min e 64)
  if r.num % r.den = 0 then some (let n : Int := (r.num / r.den : Nat); if s then -n else n) else none

/-- An odd part and exponent of a power of two: k with m × 2^e = 2^k. -/
def exactLog2 (m : Nat) (e : Int) : Option Int :=
  if m = 2 ^ m.log2 then some (e + m.log2) else none

/-- FRCP's exact value (R171). -/
def rcpExact (x : Val) : Exact :=
  match x with
  | .nan => .nan
  | .zero s => .inf s
  | .inf s => .zero s
  | .fin s m e => let r := ratioOf m e; .mag s ⟨r.den, r.num⟩

/-- One of FSQRT, FRSQ, FEXP2, FLOG2, FSIN, FCOS, FTANH on one element: the exact value rounded once (R171). -/
def transRound (im : Image) (f : Trans) (x : Val) (mode : RMode) (sat : Bool) (r : Nat) : Nat :=
  let ex (v : Exact) : Nat := roundTo im v mode sat r
  let one : Exact := .mag false ⟨1, 1⟩
  match f, x with
  | _, .nan => ex .nan
  | .sqrt, .zero s => ex (.zero s)
  | .sqrt, .inf s => ex (if s then .nan else .inf false)
  | .sqrt, .fin s m e =>
    if s then ex .nan
    else match exactSqrt m e with
      | some (k, g) => ex (exactOf (.fin false k g))
      | none => roundEnclosed im f false m e mode sat r 10 128
  | .rsqrt, .zero s => ex (.inf s)
  | .rsqrt, .inf s => ex (if s then .nan else .zero false)
  | .rsqrt, .fin s m e =>
    if s then ex .nan
    else match exactSqrt m e with
      | some (k, g) => let q := ratioOf k g; ex (.mag false ⟨q.den, q.num⟩)
      | none => roundEnclosed im f false m e mode sat r 10 128
  | .exp2, .zero _ => ex one
  | .exp2, .inf s => ex (if s then .zero false else .inf false)
  | .exp2, .fin s m e =>
    match exactInt s m e with
    | some k => ex (.mag false (ratioPow2 (clampExp k)))
    | none =>
      if 16 < e + (m.log2 : Int) then ex (.mag false (ratioPow2 (if s then -20000 else 20000)))
      else roundEnclosed im f s m e mode sat r 10 128
  | .log2, .zero _ => ex (.inf true)
  | .log2, .inf s => ex (if s then .nan else .inf false)
  | .log2, .fin s m e =>
    if s then ex .nan
    else match exactLog2 m e with
      | some k => ex (exactOf (valOfInt k))
      | none => roundEnclosed im f false m e mode sat r 10 128
  | .sin, .zero s => ex (.zero s)
  | .sin, .inf _ => ex .nan
  | .sin, .fin s m e => roundEnclosed im f s m e mode sat r 10 128
  | .cos, .zero _ => ex one
  | .cos, .inf _ => ex .nan
  | .cos, .fin s m e => roundEnclosed im f s m e mode sat r 10 128
  | .tanh, .zero s => ex (.zero s)
  | .tanh, .inf s => ex (.mag s ⟨1, 1⟩)
  | .tanh, .fin s m e => roundEnclosed im f s m e mode sat r 10 128

end Sys2Proof.Machine
end

