-- ==== Sys2Proof/Machine/Elem.lean ====
section
/-!
DEFINITION. Packed elements and the integer functions of spec/07_integer.md (R135, R141 to R149): pure functions on
64-bit register values. The instructions that use them stand in Machine/Integer.lean and Machine/CrossLane.lean.
-/

namespace Sys2Proof.Machine

/-- The code of element i of width w (R7, R159). -/
def field (x : Word) (w i : Nat) : Nat := x.toNat / 2 ^ (i * w) % 2 ^ w

/-- Elem of R135. -/
def elem (signed : Bool) (w : Nat) (x : Word) (i : Nat) : Int := intOfBits signed w (field x w i)

/-- The word whose element i is f i mod 2^w, for i below n; unused high bits zero (R35). -/
def packN (w n : Nat) (f : Nat → Nat) : Word :=
  BitVec.ofNat 64 ((List.range n).foldl (fun acc i => acc + f i % 2 ^ w * 2 ^ (i * w)) 0)

/-- The word of all floor(64/w) elements (R7). -/
def pack (w : Nat) (f : Nat → Nat) : Word := packN w (64 / w) f

/-- The code of an integer at width w: v mod 2^w (Put of R135). -/
def codeOf (w : Nat) (v : Int) : Nat := (v % 2 ^ w).toNat

/-- Clamp of R135. -/
def clampInt (signed : Bool) (w : Nat) (v : Int) : Int :=
  let lo : Int := if signed then -2 ^ (w - 1) else 0
  let hi : Int := if signed then 2 ^ (w - 1) - 1 else 2 ^ w - 1
  if v < lo then lo else if hi < v then hi else v

/-- An 8-bit immediate sign-extended to w bits and copied into every element (R75). -/
def splat8 (w : Nat) (x : BitVec 8) : Word := pack w (fun _ => codeOf w x.toInt)

/-- A 32-bit immediate as the RRI operand of R139. -/
def splat32 (signed : Bool) (w : Nat) (x : BitVec 32) : Word :=
  if w = 64 then (if signed then x.signExtend 64 else x.setWidth 64) else pack w (fun _ => x.toNat)

/-- Element-wise arithmetic of R141: saturate when asked, then wrap. -/
def arith (signed : Bool) (w : Nat) (sat : Bool) (f : Int → Int → Int → Int) (a b c : Word) : Word :=
  pack w fun i =>
    let v := f (elem signed w a i) (elem signed w b i) (elem signed w c i)
    codeOf w (if sat then clampInt signed w v else v)

/-- The high half of a product (IMULH, R141). -/
def mulHigh (w : Nat) (x y : Int) : Int := x * y / 2 ^ w

/-- ISHL, ISHR and IROT by element (R142). -/
inductive Shift where
  | shl | shr | rot
  deriving DecidableEq, Repr

def shiftElem (op : Shift) (signed : Bool) (w : Nat) (a b : Word) (i : Nat) : Nat :=
  let x := field a w i
  let k := field b w i
  match op with
  | .shl => if k < w then x * 2 ^ k % 2 ^ w else 0
  | .shr => if k < w then codeOf w (intOfBits signed w x / 2 ^ k)
            else codeOf w (if intOfBits signed w x < 0 then -1 else 0)
  | .rot => let m := k % w; (x * 2 ^ m + x / 2 ^ (w - m)) % 2 ^ w

def shiftWord (op : Shift) (signed : Bool) (w : Nat) (a b : Word) : Word := pack w (shiftElem op signed w a b)

/-- The bits of x below w, reversed (BREV, R143). -/
def reverseBits (w x : Nat) : Nat :=
  (List.range w).foldl (fun acc j => acc + (if x.testBit j then 2 ^ (w - 1 - j) else 0)) 0

def popCount (w x : Nat) : Nat := (List.range w).foldl (fun acc j => acc + (if x.testBit j then 1 else 0)) 0
def leadingZeros (w x : Nat) : Nat := if x = 0 then w else w - 1 - x.log2
def trailingZeros (w x : Nat) : Nat := ((List.range w).find? (fun j => x.testBit j)).getD w

/-- BFX by element (R144). -/
def bfxElem (signed : Bool) (w : Nat) (a b c : Word) (i : Nat) : Nat :=
  let pos := field b w i
  let len := field c w i
  if w ≤ pos ∨ len = 0 then 0
  else
    let l := min len (w - pos)
    let f := field a w i / 2 ^ pos % 2 ^ l
    codeOf w (intOfBits signed l f)

/-- BFI by element (R144): old is the destination's element. -/
def bfiElem (w : Nat) (d a b c : Word) (i : Nat) : Nat :=
  let old := field d w i
  let pos := field b w i
  let len := field c w i
  if w ≤ pos ∨ len = 0 then old
  else
    let l := min len (w - pos)
    let low := old % 2 ^ pos
    let high := old / 2 ^ (pos + l) * 2 ^ (pos + l)
    high + field a w i % 2 ^ l * 2 ^ pos + low

/-- The conditions of R145. -/
def icmpHolds (code : Nat) (x y : Int) : Bool :=
  match code with
  | 0 => x == y
  | 1 => x != y
  | 2 => decide (x < y)
  | 3 => decide (x ≤ y)
  | 4 => decide (y < x)
  | _ => decide (y ≤ x)

/-- A mask element: all ones or zero (R145, R173). -/
def maskElem (w : Nat) (b : Bool) : Nat := if b then 2 ^ w - 1 else 0

def icmpWord (signed : Bool) (w code : Nat) (a b : Word) : Word :=
  pack w fun i => maskElem w (icmpHolds code (elem signed w a i) (elem signed w b i))

/-- LEA of R147: y is element 0 of b. -/
def leaWord (signed : Bool) (w scale : Nat) (a b : Word) : Word :=
  a + BitVec.ofInt 64 (elem signed w b 0 * 2 ^ scale)

/-- The sub-operations of SHFL (R152), by TYB. -/
def shflSource (op : Nat) (f0 y : Nat) : Int :=
  match op with
  | 0 => y
  | 1 => (f0 : Int) - y
  | 2 => f0 + y
  | _ => Nat.xor f0 y

end Sys2Proof.Machine
end

