-- ==== Sys2Proof/Machine/Translate.lean ====
section
/-!
DEFINITION. Address translation in two stages (spec/21_pages.md, R379 to R394): table entries, walks, the target and
permission checks, cached walks, host targets, and page requests. A partition's cached leaves are Part.tlb.
-/

namespace Sys2Proof.Machine

/-! ### Entries (R379, R380) -/

def pteV (e : Nat) : Bool := e.testBit 0
def pteLeaf (e : Nat) : Bool := e.testBit 1
def pteR (e : Nat) : Bool := e.testBit 2
def pteW (e : Nat) : Bool := e.testBit 3
def pteX (e : Nat) : Bool := e.testBit 4
def pteContig (e : Nat) : Bool := e.testBit 5
def ptePois (e : Nat) : Bool := e.testBit 6
def pteOa (e : Nat) : Nat := bitsNat e 51 12 * 4096
def pteTgt (e : Nat) : Nat := bitsNat e 59 58
def ptePort (e : Nat) : Nat := bitsNat e 63 60

/-- The address bits below an entry of a level: 2^shift bytes are mapped by it. -/
def levelShift (lv : Nat) : Nat := 48 - 9 * lv

/-- The index of an address in the table of a level (R379). -/
def tableIndex (stage lv x : Nat) : Nat := x / 2 ^ levelShift lv % (if stage = 2 ∧ lv = 0 then 16 else 512)

/-- A valid entry that R380 calls malformed. -/
def pteMalformed (stage lv x e : Nat) : Bool :=
  bitsNat e 57 52 != 0 || bitsNat e 11 7 != 0
    || (if pteLeaf e then lv < 2 else lv == 4)
    || (!pteLeaf e && (ptePort e != 0 || pteTgt e != 0 || ptePois e || pteContig e || pteX e || pteW e || pteR e))
    || (pteLeaf e && decide (pteOa e % 2 ^ levelShift lv ≠ 0))
    || (stage == 1 && (pteTgt e != 0 || ptePort e != 0))
    || pteTgt e == 3 || (pteTgt e != 2 && ptePort e != 0) || (pteTgt e == 2 && decide (11 < ptePort e))
    || (pteContig e && (lv != 4 || !pteLeaf e || bitsNat e 15 12 != bitsNat x 15 12))

/-- How a walk ends (R381). -/
inductive Walk where
  | leaf (entry level : Nat)
  | invalid (stage level ea addr : Nat)
  | poisoned
  | access
  deriving DecidableEq, Repr

/-! ### Walks (R381, R383) -/

/-- The physical place of an address under a leaf: its target, port and address. -/
def leafAddr (e lv x : Nat) : Nat := pteOa e + x % 2 ^ levelShift lv

/-- The stage-2 target check of R383 and R444: HBM inside the device and on an owned channel, or an owned port. -/
def targetOk (p : Part) (e pa : Nat) : Bool :=
  match pteTgt e with
  | 0 => decide (pa < 0x8000000000) && p.channels.contains (pa / 0x80000000)
  | 2 => p.ports.contains (ptePort e)
  | _ => true

/-- The stage-2 walk from a level down (R381): tables lie in device HBM only. -/
def walk2 (s : State) (p : Part) (x : Nat) : List Nat → Nat → Walk
  | [], _ => .poisoned
  | lv :: lvs, t =>
    let ea := t + 8 * tableIndex 2 lv x
    if 0x8000000000 ≤ ea then .poisoned
    else if s.hbm.isPoisoned (ea / 32) then .poisoned
    else
      let e := s.hbm.read ea 8
      if !pteV e then .invalid 2 lv ea (x / 4096 * 4096)
      else if pteMalformed 2 lv x e then .poisoned
      else if !pteLeaf e then walk2 s p x lvs (pteOa e)
      else if ptePois e then .poisoned
      else .leaf e lv

/-- Stage 2 of an address with the target check (R383). -/
def translate2 (s : State) (p : Part) (ipa : Nat) : Walk :=
  match walk2 s p ipa [0, 1, 2, 3, 4] p.s2root with
  | .leaf e lv => if targetOk p e (leafAddr e lv ipa) then .leaf e lv else .poisoned
  | w => w

/-- The stage-1 walk (R381): each table read goes through stage 2 with R, and must lie in HBM. -/
def walk1 (s : State) (p : Part) (va : Nat) : List Nat → Nat → Walk
  | [], _ => .poisoned
  | lv :: lvs, t =>
    let ipa := t + 8 * tableIndex 1 lv va
    match translate2 s p ipa with
    | .leaf e2 lv2 =>
      let ea := leafAddr e2 lv2 ipa
      if !pteR e2 then .access
      else if pteTgt e2 ≠ 0 then .poisoned
      else if s.hbm.isPoisoned (ea / 32) then .poisoned
      else
        let e := s.hbm.read ea 8
        if !pteV e then .invalid 1 lv ea (va / 4096 * 4096)
        else if pteMalformed 1 lv va e then .poisoned
        else if !pteLeaf e then walk1 s p va lvs (pteOa e)
        else if ptePois e then .poisoned
        else .leaf e lv
    | w => w

/-- The entries a stage-2 walk reads. -/
def walkReads2 (s : State) (p : Part) (x : Nat) : List Nat → Nat → List Nat
  | [], _ => []
  | lv :: lvs, t =>
    let ea := t + 8 * tableIndex 2 lv x
    let e := s.hbm.read ea 8
    if 0x8000000000 ≤ ea then []
    else ea :: (if pteV e && !pteLeaf e then walkReads2 s p x lvs (pteOa e) else [])

/-- The entries a stage-1 walk reads, each after those of its stage-2 walk: at most 5 and 30 (R381). -/
def walkReads1 (s : State) (p : Part) (va : Nat) : List Nat → Nat → List Nat
  | [], _ => []
  | lv :: lvs, t =>
    let ipa := t + 8 * tableIndex 1 lv va
    walkReads2 s p ipa [0, 1, 2, 3, 4] p.s2root ++
      match translate2 s p ipa with
      | .leaf e2 lv2 =>
        let ea := leafAddr e2 lv2 ipa
        let e := s.hbm.read ea 8
        if pteTgt e2 ≠ 0 then []
        else ea :: (if pteV e && !pteLeaf e then walkReads1 s p va lvs (pteOa e) else [])
      | _ => []

/-- What an access needs of a page (R383). -/
structure Need where
  r : Bool
  w : Bool
  x : Bool
  deriving DecidableEq, Repr

def Need.read : Need := ⟨true, false, false⟩
def Need.write : Need := ⟨false, true, false⟩
def Need.rw : Need := ⟨true, true, false⟩
def Need.exec : Need := ⟨false, false, true⟩
def Need.bits (n : Need) : BitVec 3 := BitVec.ofBool n.x ++ BitVec.ofBool n.w ++ BitVec.ofBool n.r

/-- What a translation of one page gives (R386): a place with the page's permissions, a recoverable fault on an
entry, or a fatal cause. -/
inductive Trans1 where
  | ok (tgt : Tgt) (pa : Nat) (perm : Need) (leafSize : Nat)
  | fault (stage level ea addr : Nat)
  | fatal (c : Cause)
  deriving DecidableEq, Repr

def tgtOf (e : Nat) : Tgt :=
  match pteTgt e with
  | 0 => .hbm
  | 1 => .host
  | _ => .peer (ptePort e)

/-- The leaf sizes PROBE reports, 0 to 3, a CONTIG leaf counting as 64 KiB (R235, R382). -/
def leafSize (e lv : Nat) : Nat := if lv = 2 then 3 else if lv = 3 then 2 else if pteContig e then 1 else 0

/-- The packed form of a cached leaf's place and permissions. -/
def packLeaf (e page : Nat) : Nat := ((ptePort e * 4 + pteTgt e) * 2 ^ 40 + page) * 8 + bitsNat e 4 2
def unpackTgt (c : Nat) : Nat := c / 2 ^ 43

/-- A walk of both stages from the tables as they stand (R381 to R383), without any cached entry. -/
def walkBoth (s : State) (p : Part) (s1root va : Nat) : Except Walk (Nat × Nat × Nat × Nat × Nat) :=
  match walk1 s p va [0, 1, 2, 3, 4] s1root with
  | .leaf e1 l1 =>
    let ipa := leafAddr e1 l1 va
    match translate2 s p ipa with
    | .leaf e2 l2 => .ok (e1, l1, e2, l2, ipa)
    | w => .error w
  | w => .error w

/-- The PASID that a function's ATS requests carry for a context (R392). -/
def atsPasid (f : Fn) (c : Ctx) : BitVec 20 := if f.pasidOn then c.pasid.getD 0 else 0

/-- Host targets under ATS (R392): a cached completion translates, otherwise the access waits on a request. -/
def hostTarget (f : Fn) (pasid : BitVec 20) (pa : Nat) : Option (Nat × Bool × Bool) :=
  if !f.ats then some (pa, true, true)
  else (f.atc.find? (fun e => e.page == pa / 4096 && e.pasid == pasid)).map (fun e => (e.target * 4096 + pa % 4096, e.r, e.w))

/-- Finish a translation whose two leaves are known: target reachable, then permission (R383, R392, R466). A read that
the completer beyond the port rejects is PAGE_FATAL (R392, R464); an atomic to a peer meets that at its home. -/
def finishTrans (s : State) (f : Fn) (pasid : BitVec 20) (tgt : Tgt) (pa : Nat) (perm need : Need) (size : Nat) : Trans1 :=
  if !linkCarries s tgt then .fatal .pageFatal
  else if (need.r && !perm.r) || (need.w && !perm.w) || (need.x && !perm.x) then .fatal .access
  else match tgt with
    | .host =>
      match hostTarget f pasid pa with
      | some (pa', r, w) =>
        if ((need.r || need.x) && !r) || (need.w && !w) then .fault 3 0 (pa / 4096 * 4096) (pa / 4096 * 4096)
        else if (need.r || need.x) && rejects s tgt pa' then .fatal .pageFatal
        else .ok tgt pa' perm size
      | none => .fault 3 0 (pa / 4096 * 4096) (pa / 4096 * 4096)
    | .peer _ => if (need.r || need.x) && !need.w && rejects s tgt pa then .fatal .pageFatal else .ok tgt pa perm size
    | _ => .ok tgt pa perm size

/-- Translate one address of a context from the tables (R381 to R383); canonical addresses only (R182). -/
def translateWalk (s : State) (c : Ctx) (va : Nat) (need : Need) : Trans1 :=
  let f := s.fn c.fn
  match f.part with
  | none => .fatal .pageFatal
  | some pid =>
    match walkBoth s (s.part pid) c.s1root va with
    | .error .poisoned => .fatal .pageFatal
    | .error .access => .fatal .access
    | .error (.invalid st lv ea a) => .fault st lv ea a
    | .error (.leaf _ _) => .fatal .pageFatal
    | .ok (e1, l1, e2, l2, ipa) =>
      let perm : Need := ⟨pteR e1 && pteR e2, pteW e1 && pteW e2, pteX e1 && pteX e2⟩
      finishTrans s f (atsPasid f c) (tgtOf e2) (leafAddr e2 l2 ipa) perm need (min (leafSize e1 l1) (leafSize e2 l2))

/-- .G addresses: bits [63:57] copy bit 56 (R182). -/
def canonical (va : Nat) : Bool := bitsNat va 63 56 == 0 || bitsNat va 63 56 == 0xFF

/-- The bytes of address under a leaf, a 64 KiB group under a CONTIG leaf (R382). -/
def leafSpan (e lv x : Nat) : Nat × Nat :=
  let n := if pteContig e then 65536 else 2 ^ levelShift lv
  (x / n * n, n)

/-- The IPA ranges under the stage-2 leaves that the table reads of a stage-1 walk used. -/
def tableSpans (s : State) (p : Part) (va : Nat) : List Nat → Nat → List (Nat × Nat)
  | [], _ => []
  | lv :: lvs, t =>
    let ipa := t + 8 * tableIndex 1 lv va
    match translate2 s p ipa with
    | .leaf e2 lv2 =>
      let e := s.hbm.read (leafAddr e2 lv2 ipa) 8
      leafSpan e2 lv2 ipa :: (if pteV e && !pteLeaf e then tableSpans s p va lvs (pteOa e) else [])
    | _ => []

/-- The reads of a walk of both stages pass through their home slices (R381, R454). -/
def walkTraffic (s : State) (p : Part) (s1root va : Nat) : State :=
  let first := walkReads1 s p va [0, 1, 2, 3, 4] s1root
  let last := match walk1 s p va [0, 1, 2, 3, 4] s1root with
    | .leaf e1 l1 => walkReads2 s p (leafAddr e1 l1 va) [0, 1, 2, 3, 4] p.s2root
    | _ => []
  (first ++ last).foldl (fun s ea => s.l2Access (ea / 32) .read) s

/-- A walk that reaches both leaves is cached, at any time (R384). -/
def cacheWalk (s : State) (ctx va : Nat) : State :=
  match alGet s.ctxs ctx with
  | none => s
  | some c =>
    let pid := (s.fn c.fn).part.getD 16
    match walkBoth s (s.part pid) c.s1root va with
    | .ok (e1, l1, e2, l2, ipa) =>
      let entry : TlbEntry := ⟨ctx, va / 4096, ipa / 4096 * 8 + bitsNat e1 4 2, packLeaf e2 (leafAddr e2 l2 ipa / 4096), leafSpan e1 l1 va,
        leafSpan e2 l2 ipa :: tableSpans s (s.part pid) va [0, 1, 2, 3, 4] c.s1root⟩
      s.updPart pid (fun p => { p with tlb := entry :: p.tlb.filter (· != entry) })
    | .error _ => s

/-- A walk that nothing asked for: some page of some context, as the free value says (R384). -/
def speculate (s : State) : State :=
  let (f, s) := s.takeFree
  cacheWalk s (f % 2 ^ 16) (f / 2 ^ 16 % 2 ^ 64)

/-- A walk from the tables: its result; what it read and cached. -/
def freshWalk (s : State) (ctx : Nat) (c : Ctx) (va : Nat) (need : Need) : Trans1 × State :=
  (translateWalk s c va need, walkTraffic (cacheWalk s ctx va) (s.part ((s.fn c.fn).part.getD 16)) c.s1root va)

/-- Translate one address of context number ctx. A page with cached walks may use one of them: the free value decides
(R384). -/
def translate (s : State) (ctx va : Nat) (need : Need) : Trans1 × State :=
  match alGet s.ctxs ctx with
  | none => (.fatal .pageFatal, s)
  | some c =>
    if !canonical va then (.fatal .access, s)
    else
      let f := s.fn c.fn
      let pid := f.part.getD 16
      let page := va / 4096
      match (s.part pid).tlb.filter (fun e => e.ctx == ctx && e.page == page) with
      | e :: es =>
        let (pick, s) := s.takeFree
        if pick % 2 = 1 then
          let (p1, c2) := (((e :: es).getD (pick / 2 % (es.length + 1)) e).first, ((e :: es).getD (pick / 2 % (es.length + 1)) e).second)
          let tgt : Tgt := match unpackTgt c2 % 4 with
            | 0 => .hbm
            | 1 => .host
            | _ => .peer (unpackTgt c2 / 4)
          let perm : Need := ⟨p1.testBit 0 && c2.testBit 0, p1.testBit 1 && c2.testBit 1, p1.testBit 2 && c2.testBit 2⟩
          (finishTrans s f (atsPasid f c) tgt (c2 / 8 % 2 ^ 40 * 4096 + va % 4096) perm need 0, s)
        else freshWalk s ctx c va need
      | [] => freshWalk s ctx c va need

/-! ### Page requests (R387, R388) -/

/-- Who raised a request, for its ring entry (R388). An agent that waits by itself, and not as a held lane or window,
names itself by a number above zero. -/
structure ReqInfo where
  ctx : Nat
  need : Need
  source : Nat
  core : Option Nat
  agent : Nat
  deriving DecidableEq, Repr

/-- The agents that wait by themselves (R386). -/
def packetAgent (queue : Nat) (index : BitVec 32) : Nat := (queue * 2 ^ 32 + index.toNat) * 16 + 1
def ringAgent (queue : Nat) : Nat := queue * 16 + 2
def reportAgent (queue : Nat) : Nat := queue * 16 + 3
def wordAgent (queue : Nat) (index : BitVec 32) : Nat := (queue * 2 ^ 32 + index.toNat) * 16 + 4
def imageAgent (ctx : Nat) : Nat := ctx * 16 + 5
def loadAgent (obj : Nat) : Nat := obj * 16 + 6
def pageAgent (obj page : Nat) : Nat := (obj * 2 ^ 32 + page) * 16 + 7
def errorAgent (ctx : Nat) : Nat := ctx * 16 + 8
def placeAgent (grp : Nat) : Nat := grp * 16 + 9

/-- One more agent waits on a request. -/
def addWaiter (r : PageReq) (agent : Nat) : PageReq :=
  if agent = 0 ∨ r.waiters.contains agent then r else { r with waiters := r.waiters ++ [agent] }

/-- Raise a page request for an invalid entry, or join the outstanding request of its key (R387). A host page under
ATS waits on a translation request of stage 3, which the rings do not carry (R392). -/
def raiseReq (s : State) (i : ReqInfo) (stage level ea addr : Nat) : Nat × State :=
  match alGet s.ctxs i.ctx with
  | none => (0, s)
  | some c =>
    let pasid := if stage = 3 then atsPasid (s.fn c.fn) c else c.pasid.getD 0
    match s.reqs.find? (fun r => r.fn == c.fn && r.stage == stage && r.ea == ea && (stage != 1 || r.ctx == i.ctx)
        && (stage != 3 || r.pasid == pasid)) with
    | some r => (r.id, { s with reqs := s.reqs.map (fun q => if q.id = r.id then addWaiter q i.agent else q) })
    | none =>
      let r : PageReq :=
        { id := s.nextReq, fn := c.fn, stage := stage, ctx := i.ctx, ea := ea, addr := addr, level := level,
          need := i.need.bits, source := i.source, pasid := pasid,
          core := match i.core with
            | some k => BitVec.ofNat 16 k
            | none => 0xFFFF,
          tag := none, pri := none, priDue := false, waiters := if i.agent = 0 then [] else [i.agent], payer := s.payer }
      let s := { s with reqs := s.reqs ++ [r], nextReq := s.nextReq + 1 }
      (r.id, if stage ≤ 2 then s.post (.prqEntryWrite c.fn stage) else s)

/-- What an access of several bytes meets (R386, R387): every place, the requests it waits on, or a fatal cause. -/
inductive TransN where
  | ok (places : List (Tgt × Nat))
  | fault (requests : List Nat)
  | fatal (c : Cause)
  deriving DecidableEq, Repr

/-- The lower of two causes' codes (R14). -/
def causeCode : Cause → Nat
  | .illegalOpcode => 0x01 | .illegalForm => 0x02 | .targetAlign => 0x03 | .regBound => 0x04
  | .formatUnavailable => 0x05 | .matrixCombo => 0x06 | .pageFatal => 0x10 | .access => 0x11 | .misaligned => 0x12
  | .mixedSizeDebug => 0x13 | .poisonConsumed => 0x20 | .doubleFault => 0x21 | .codeIntegrity => 0x22
  | .featureEmulate => 0x23 | .revocableViolation => 0x24 | .barrierMisuse => 0x30 | .windowMisuse => 0x31
  | .stackLimit => 0x32 | .software => 0x40 | .breakpoint => 0x41

/-- The cause with the lowest code (R14). -/
def lowestCause : List Cause → Option Cause
  | [] => none
  | c :: cs => match lowestCause cs with
    | none => some c
    | some d => if causeCode d < causeCode c then some d else some c

def minCause (a b : Cause) : Cause := if causeCode b < causeCode a then b else a

/-- Combine the results for the pages of one access: a fatal result first, the lowest code, then the faults (R386). -/
def TransN.join : TransN → TransN → TransN
  | .fatal a, .fatal b => .fatal (minCause a b)
  | .fatal a, _ => .fatal a
  | _, .fatal b => .fatal b
  | .fault a, .fault b => .fault (a ++ b)
  | .fault a, _ => .fault a
  | _, .fault b => .fault b
  | .ok a, .ok b => .ok (a ++ b)

/-- Translate a list of virtual addresses, each on its own page, raising a request for each recoverable fault unless a
fatal result ends the access (R386, R387). -/
def translateList (s : State) (i : ReqInfo) : List Nat → TransN × State
  | [] => (.ok [], s)
  | va :: vs =>
    let (t, s₀) := translate s i.ctx va i.need
    let (rest, s) := translateList s₀ i vs
    match t with
    | .ok tgt pa _ _ => (TransN.join (.ok [(tgt, pa)]) rest, s)
    | .fatal c => (TransN.join (.fatal c) rest, s₀)
    | .fault st lv ea a =>
      match rest with
      | .fatal c => (.fatal c, s₀)
      | _ =>
        let (id, s) := raiseReq s i st lv ea a
        (TransN.join (.fault [id]) rest, s)

/-- The 8-byte-aligned or smaller pieces of n bytes from va that lie in one page each: (address, bytes). -/
def pagePieces (va n : Nat) : List (Nat × Nat) :=
  if n = 0 then []
  else
    let first := va / 4096
    let last := (va + n - 1) / 4096
    (List.range (last + 1 - first)).map fun j =>
      let lo := max va (4096 * (first + j))
      let hi := min (va + n) (4096 * (first + j + 1))
      (lo % 2 ^ 64, hi - lo)

/-- Translate n bytes from va: one place for each page piece (R386). An agent whose request has a FAIL reply meets its
fatal result here (R389), and one whose request is outstanding waits on it still (R387). -/
def translateRange (s : State) (i : ReqInfo) (va n : Nat) : TransN × State :=
  let pending := s.reqs.filter (fun r => i.agent != 0 && r.waiters.contains i.agent)
  if i.agent ≠ 0 ∧ s.failed.contains i.agent then (.fatal .pageFatal, { s with failed := s.failed.filter (· != i.agent) })
  else if !pending.isEmpty then (.fault (pending.map (·.id)), s)
  else translateList s i ((pagePieces va n).map (·.1))

/-- Write bytes of a context's memory by a device agent: none when a page faults or is fatal. -/
def ctxWrite (s : State) (i : ReqInfo) (va n v : Nat) (poison : Bool := false) : TransN × State :=
  let ps := pagePieces va n
  let (t, s) := translateRange s i va n
  match t with
  | .ok places =>
    let step := (places.zip ps).foldl (fun (acc : State × Nat) e =>
      (acc.1.store e.1.1 e.1.2 e.2.2 (acc.2 % 256 ^ e.2.2) poison, acc.2 / 256 ^ e.2.2)) (s, v)
    (.ok places, step.1)
  | r => (r, s)

/-- Read bytes of a context's memory by a device agent: the value and whether a sector was poisoned. A read through a port in
TRAINING waits there: it comes again (R462, R466). -/
def ctxRead (s : State) (i : ReqInfo) (va n : Nat) : Except TransN (Nat × Bool) × State :=
  let ps := pagePieces va n
  let (t, s) := translateRange s i va n
  match t with
  | .ok places =>
    if places.any (fun e => linkTrains s e.1) then (.error (.fault []), s) else
    let out := (places.zip ps).foldr (fun e (acc : Nat × Bool) =>
      (s.load e.1.1 e.1.2 e.2.2 + 256 ^ e.2.2 * acc.1, acc.2 || (s.mem e.1.1).anyPoison e.1.2 e.2.2)) (0, false)
    (.ok out, (places.zip ps).foldl (fun s e => s.readAt e.1.1 e.1.2 e.2.2) s)
  | r => (.error r, s)

end Sys2Proof.Machine
end

