-- ==== Sys2Proof/Machine/Ops.lean ====
section
/-!
DEFINITION. The named operations the instructions share: program counters, guards, register reads and writes with
poison, the end of lanes and groups, error records, transaction aborts, and TAKING A TRAP (spec/20_traps.md R364 to
R371) with the return from it (R378).
-/

namespace Sys2Proof.Machine

abbrev Out := Host.Outcome State Fault Refusal

/-! ### Program counters (R63, R64) -/

/-- R63: bits [5:0] are one of 0x04, 0x10, 0x1C, 0x28, 0x34, and the address is canonical. -/
def pcValid (pc : Word) : Bool :=
  [0x04, 0x10, 0x1C, 0x28, 0x34].contains (pc.toNat % 64) && canonical pc.toNat

/-- The slot number of a valid PC (R63). -/
def slotOf (pc : Word) : Nat := (pc.toNat % 64 - 4) / 12

/-- The base of the fetch line of a PC (R63). -/
def lineOf (pc : Word) : Word := pc &&& ~~~0x3F#64

/-- The sequential successor (R64): PC + 12, or the next line's base + 4 after slot 4. -/
def pcNext (pc : Word) : Word := if pc.toNat % 64 = 0x34 then pc + 16 else pc + 12

/-- The target of BRA, CALL and TXBEGIN (R81). -/
def branchTarget (pc : Word) (f : BR) : Word :=
  lineOf pc + 64 * f.loff.signExtend 64 + 4 + 12 * f.slot.setWidth 64

/-! ### Masks, guards and lanes -/

def inMask (m : LaneMask) (n : Nat) : Bool := m.getLsbD n
def maskOf (p : Nat → Bool) : LaneMask :=
  BitVec.ofNat 32 ((List.range 32).foldl (fun acc n => acc + (if p n then 2 ^ n else 0)) 0)
def laneList (m : LaneMask) : List Nat := (List.range 32).filter (fun n => inMask m n)

/-- The value of predicate register i of a lane; PT reads true (R8). -/
def Lane.pred (l : Lane) (i : Nat) : Bool := if i = 15 then true else l.p.getLsbD i
def Lane.predP (l : Lane) (i : Nat) : Bool := if i = 15 then false else l.pP.getLsbD i

/-- The guard of a lane (R71). -/
def Lane.guard (l : Lane) (k : Ctl) : Bool := l.pred k.gpred.toNat ^^ (k.gneg == 1)
def Lane.guardP (l : Lane) (k : Ctl) : Bool := l.predP k.gpred.toNat

def Lane.setPred (l : Lane) (i : Nat) (x poison : Bool) : Lane :=
  if i < 15 then
    { l with
      p := (l.p &&& ~~~(1#16 <<< i)) ||| ((if x then 1#16 else 0#16) <<< i)
      pP := (l.pP &&& ~~~(1#16 <<< i)) ||| ((if poison then 1#16 else 0#16) <<< i) }
  else l

def Lane.getV (l : Lane) (i : Nat) : PWord := if h : i < 256 then ⟨l.v[i], l.vP.getLsbD i⟩ else ⟨0, false⟩
def Lane.setV (l : Lane) (i : Nat) (x : PWord) : Lane :=
  if h : i < 256 then
    { l with v := l.v.set i x.val, vP := (l.vP &&& ~~~(1#256 <<< i)) ||| ((if x.poison then 1#256 else 0#256) <<< i) }
  else l

def Course.getS (c : Course) (i : Nat) : PWord := if h : i < 64 then ⟨c.s[i], c.sP.getLsbD i⟩ else ⟨0, false⟩
/-- The write is one of S register i. -/
def RegWrite.isS (i : Nat) : RegWrite → Bool
  | .s r _ => r == i
  | _ => false

/-- The operation's result for S register i has landed. -/
def LongOp.landed (i : Nat) (o : LongOp) : LongOp := { o with writes := o.writes.filter (fun w => !w.isS i) }

/-- The same of a TXEND that waits for its verdict. -/
def TxEnd.landed (i : Nat) (e : TxEnd) : TxEnd :=
  { e with dst := if e.dst = some (1, BitVec.ofNat 8 i) then none else e.dst }

/-- A write to an S register. Writes of different issues land in issue order (R136): one still in flight of an earlier issue
lands before it, and is overwritten. -/
def Course.setS (c : Course) (i : Nat) (x : PWord) : Course :=
  if h : i < 64 then
    { c with
      s := c.s.set i x.val, sP := (c.sP &&& ~~~(1#64 <<< i)) ||| ((if x.poison then 1#64 else 0#64) <<< i)
      inflight := c.inflight.map (LongOp.landed i), txends := c.txends.map (TxEnd.landed i) }
  else c

def Core.getReserve (k : Core) (n i : Nat) : PWord :=
  if h : n < 32 ∧ i < 32 then ⟨(k.reserve[n]'h.1)[i]'h.2, (k.reserveP[n]'h.1).getLsbD i⟩ else ⟨0, false⟩
def Core.setReserve (k : Core) (n i : Nat) (x : PWord) : Core :=
  if h : n < 32 ∧ i < 32 then
    { k with
      reserve := k.reserve.set n ((k.reserve[n]'h.1).set i x.val h.2) h.1
      reserveP := k.reserveP.set n (((k.reserveP[n]'h.1) &&& ~~~(1#32 <<< i)) ||| ((if x.poison then 1#32 else 0#32) <<< i)) h.1 }
  else k

/-- A completion flag (R72). -/
def Course.flag (c : Course) (i : Nat) : BitVec 6 := if h : i < 12 then c.flags[i] else 0
def Course.setFlag (c : Course) (i : Nat) (x : BitVec 6) : Course :=
  if h : i < 12 then { c with flags := c.flags.set i x } else c

/-- Apply one register write to its course; writes to the handler reserve go to the core (R97). -/
def applyReg (s : State) (core grp crs : Nat) (w : RegWrite) : State :=
  match w with
  | .v n r x => s.updLane grp crs n (fun l => l.setV r x)
  | .p n r x p => s.updLane grp crs n (fun l => l.setPred r x p)
  | .s r x => s.updCourse grp crs (fun c => c.setS r x)
  | .reserve n r x => s.setCore core ((s.core core).setReserve n r x)
  | .far n r x res _ =>
    if res then s.setCore core ((s.core core).setReserve n r x) else s.updLane grp crs n (fun l => l.setV r x)
  | .late n r x res _ _ _ =>
    if res then s.setCore core ((s.core core).setReserve n r x) else s.updLane grp crs n (fun l => l.setV r x)

def applyRegs (s : State) (core grp crs : Nat) (ws : List RegWrite) : State :=
  ws.foldl (fun s w => applyReg s core grp crs w) s

/-- A backward transfer raises BC by one, saturating (R119). -/
def bumpBc (c : Course) : Course := { c with bc := if c.bc = 255 then 255 else c.bc + 1 }
def bumpIf (s : State) (g c : Nat) (moved : Bool) : State := if moved then s.updCourse g c bumpBc else s

/-! ### Which context, partition and kernel a group runs under -/

def State.groupCtx (s : State) (g : Group) : Nat := ((s.launch g.launch).map (·.ctx)).getD 0
def State.groupPart (s : State) (g : Group) : Nat := ((s.launch g.launch).map (·.part)).getD 16
def State.groupObj (s : State) (g : Group) : Option Obj :=
  match s.launch g.launch with
  | some l => alGet s.objects l.obj
  | none => none
def State.groupNode (s : State) (g : Group) : Option Node :=
  match s.groupObj g with
  | some o => o.nodes[g.node]?
  | none => none

/-- Lane's request information for a page request (R388). -/
def laneReq (s : State) (g : Group) (need : Need) (source : Nat) : ReqInfo := ⟨s.groupCtx g, need, source, g.core, 0⟩

/-- FREE[role]: the pool less the quotas of the role's courses that have not ended (R109). -/
def roleFree (g : Group) (role : Nat) : Nat :=
  g.rolePools.getD role 0 - ((g.courses.filter (fun c => c.role == role && !c.ended)).map (·.quota)).sum

/-! ### Records of a launch (R335, R338) -/

/-- Free the records p names; a block with no record left is free, and its node's open block no more (R335). -/
def freeRecords (l : Launch) (p : Record → Bool) : Launch :=
  let rs := l.records.filter (fun r => !p r)
  { l with records := rs, blocks := l.blocks.filter (fun b => rs.any (fun r => r.block == b.1)) }

def mapRecords (l : Launch) (p : Record → Bool) (f : Record → Record) : Launch :=
  { l with records := l.records.map (fun r => if p r then f r else r) }

/-- Whether a group is still live for its launch (R98). -/
def Group.alive (g : Group) : Bool :=
  match g.state with
  | .retired => false
  | .discarded => false
  | _ => true

/-- The second of two copies (R485). -/
def Group.second (g : Group) : Bool :=
  match g.mode with
  | .redundant b _ => b
  | _ => false

/-- The other of two copies (R485). -/
def Group.otherCopy (g : Group) : Option Nat :=
  match g.mode with
  | .redundant _ o => some o
  | _ => none

/-- Two groups are members of one cluster set; the copies of a redundant set's members form a set of their own, with the
same ranks (R107, R485). -/
def Group.sameSet (a b : Group) : Bool := a.launch == b.launch && a.setId == b.setId && a.second == b.second

/-- The live groups of a launch, with their handles. -/
def State.launchGroups (s : State) (l : Nat) : List (Nat × Group) :=
  s.groups.filter (fun e => e.2.launch == l && e.2.alive)

/-- The group is one of those that its co-resident launch places in one step (R106): every group of it, or for a PERSISTENT
root those of the root alone, the further ones apart (R348). -/
def coResident (s : State) (g : Group) : Bool :=
  match s.launch g.launch with
  | some l =>
    let persistent := (((alGet s.objects l.obj).bind (fun o => o.nodes[l.root]?)).map (fun n => n.kind == .persistent)).getD false
    l.cohes && !g.extra && (!persistent || g.node == l.root)
  | none => false

/-- The launch is over: entry records copied, no live group, every record FREE, nothing given back (R347, R422). -/
def launchOver (s : State) (i : Nat) (l : Launch) : Bool :=
  !l.done && l.records.isEmpty && l.pubs.isEmpty && l.returns.isEmpty
    && (s.launchGroups i).isEmpty

/-- Report a launch that is over (R420, R422). -/
def launchCheck (s : State) (i : Nat) : State :=
  match s.launch i with
  | some l =>
    if launchOver s i l then
      (s.setLaunch i { l with done := true }).post
        (.packetComplete l.queue l.index (if l.untrusted then 0x09 else if l.terminated then 0x08 else 0x00))
    else s
  | none => s

/-! ### Error records (R371, R398) -/

structure ErrInfo where
  pc : Word
  ident : BitVec 32
  core : Option Nat
  node : Nat
  course : Nat
  lane : Nat
  kind : Nat
  cause : Nat
  first : Nat
  deriving DecidableEq, Repr

/-- The 32 bytes of an error record (R371). -/
def ErrInfo.bits (e : ErrInfo) : BitVec 256 :=
  BitVec.ofNat 256 (e.pc.toNat + e.ident.toNat * 2 ^ 64 + e.core.getD 0xFFFF % 2 ^ 16 * 2 ^ 128 + e.node % 256 * 2 ^ 144
    + e.course % 256 * 2 ^ 152 + e.lane % 256 * 2 ^ 160 + e.kind % 256 * 2 ^ 168 + e.cause % 256 * 2 ^ 176
    + e.first % 256 * 2 ^ 184)

/-- Add a loss to the ring's LOST, with the losses kept meanwhile (R398). -/
def errLose (s : State) (i : Nat) (c : Ctx) (info : ReqInfo) : State :=
  let rd := ctxRead s info (c.errBase + 0x10) 8
  match rd.1 with
  | .ok (lost, _) =>
    let w := ctxWrite rd.2 { info with need := .write } (c.errBase + 0x10) 8 (lost + c.errLost + 1)
    match w.1 with
    | .ok _ => w.2.updCtx i (fun c => { c with errLost := 0 })
    | _ => w.2.updCtx i (fun c => { c with errLost := c.errLost + 1 })
  | .error _ => rd.2.updCtx i (fun c => { c with errLost := c.errLost + 1 })

/-- Write one error record to a context's ring (R398): lost when the ring is full or its page fatal, delayed by a
recoverable fault. A header that cannot be written takes no TAIL, so the record is lost, or delayed, with it. -/
def writeErr (s : State) (i : Nat) (rec : BitVec 256) : State :=
  match alGet s.ctxs i with
  | none => s
  | some c =>
    let info : ReqInfo := ⟨i, .read, 8, none, errorAgent i⟩
    let hd := ctxRead s info (c.errBase + 8) 8
    match hd.1 with
    | .error (.fault _) => hd.2.updCtx i (fun c => { c with errPend := c.errPend ++ [rec] })
    | .error _ => hd.2.updCtx i (fun c => { c with errLost := c.errLost + 1 })
    | .ok (head, _) =>
      match translateRange hd.2 { info with need := .write } c.errBase 8 with
      | (.fault _, s) => s.updCtx i (fun c => { c with errPend := c.errPend ++ [rec] })
      | (.fatal _, s) => s.updCtx i (fun c => { c with errLost := c.errLost + 1 })
      | (.ok places, s) =>
      if c.errCount ≤ c.errTail - head then errLose s i c info
      else
        let w := ctxWrite s { info with need := .write } (c.errBase + 64 + 32 * (c.errTail % max 1 c.errCount)) 32 rec.toNat
        match w.1 with
        | .fault _ => w.2.updCtx i (fun c => { c with errPend := c.errPend ++ [rec] })
        | .fatal _ => errLose w.2 i c info
        | .ok _ =>
          let s := places.foldl (fun s e => s.store e.1 e.2 8 (c.errTail + 1)) w.2
          let s := s.updCtx i (fun c => { c with errTail := c.errTail + 1 })
          if c.errLost = 0 then s
          else
            let rd := ctxRead s info (c.errBase + 0x10) 8
            match rd.1 with
            | .ok (lost, _) =>
              let w := ctxWrite rd.2 { info with need := .write } (c.errBase + 0x10) 8 (lost + c.errLost)
              match w.1 with
              | .ok _ => w.2.updCtx i (fun c => { c with errLost := 0 })
              | _ => w.2
            | .error _ => rd.2

/-- The records delayed by a page fault are tried again (R398). -/
def retryErrs (s : State) (i : Nat) : State :=
  match alGet s.ctxs i with
  | some c => c.errPend.foldl (fun s r => writeErr s i r) (s.updCtx i (fun c => { c with errPend := [] }))
  | none => s

/-! ### The irrevocable token (R306, R307) -/

/-- Release the token if one of the lanes holds it, clear the marks, and drop their queue entries. -/
def dropToken (s : State) (p : Nat) (who : Nat × Nat × Nat → Bool) : State :=
  s.updPart p fun q =>
    let q := { q with tokenQ := q.tokenQ.filter (fun e => !who e) }
    match q.token with
    | some h => if who h then { q with token := none, marks := [] } else q
    | none => q

/-! ### The end of lanes and groups (R102 to R104, R370) -/

/-- Whether the course has a live lane. -/
def Course.anyLive (c : Course) : Bool := (List.range 32).any (fun n => (c.lane n).live)

/-- Close a course whose lanes have all ended; the group may then retire (R102, R103). -/
def courseCheck (s : State) (g c : Nat) : State :=
  match s.group g with
  | some grp =>
    let crs := grp.course c
    if !crs.ended && !crs.anyLive then
      let s := (s.updCourse g c (fun x => { x with ended := true })).post (.regqGrant g crs.role)
      match s.group g with
      | some grp => if grp.courses.all (·.ended) then s.post (.groupRetire g) else s
      | none => s
    else s
  | none => s

/-- A lane of a group that has been ended under it: not live, waiting for nothing, in no transaction. -/
def Lane.gone (l : Lane) : Lane :=
  { l with live := false, pend := none, hold := .none, tx := { l.tx with state := .idle, rlog := [], wlog := [] } }

/-- The stores in a course's FIFO of an ordinary group reach their homes (R198). -/
def drainPlain (s : State) (g : Nat) (grp : Group) (c : Nat) : State :=
  let s := (grp.course c).fifo.foldl (fun s e => e.writes.foldl (fun s w => homeWrite s (grp.core.getD 0) w) s) s
  s.updCourse g c (fun x => { x with fifo := [] })

/-- A lane stops being live (R102): its return stack is discarded and a token it holds is released once its writes have
been accepted at their homes (R306). -/
def endLane (s : State) (g c n : Nat) : State :=
  match s.group g with
  | some grp =>
    let s := if (s.part (s.groupPart grp)).token = some (g, c, n) then
      s.paid (groupOwner s g) (drainPlain · g grp c) else s
    let s := dropToken s (s.groupPart grp) (· == (g, c, n))
    let s := s.updLane g c n (fun l => { l with live := false, entries := [], hold := .none, pend := none, inHandler := false, tx := { l.tx with state := .idle, rlog := [], wlog := [] } })
    courseCheck s g c
  | none => s

/-- A matrix queue after some entries left it: a new head has become the head now (R283). -/
def rehead (now : Nat) (old new : List MatEntry) : List MatEntry :=
  match old, new with
  | o :: _, e :: l => if o = e then e :: l else { e with headAt := now } :: l
  | _, l => l

/-- Take a group off its core: its handler claims, matrix entries and core field. What it frees is looked at again for
the queue of the core and for the groups that wait for one. A fill of its windows that a course of another group owns ends with
it, and that course's counter stays raised (log entry 142). -/
def leaveCore (s : State) (g : Nat) (grp : Group) : State :=
  match grp.core with
  | none => s
  | some k =>
    let s := chargeCore s k
    let core := s.core k
    let held := match core.handler with
      | some (h, _) => h == g
      | none => false
    let s := s.setCore k { core with
      handler := if held then none else core.handler
      handlerQ := core.handlerQ.filter (fun e => e.1 != g)
      matQ := rehead s.time core.matQ (core.matQ.filter (fun e => e.grp != g))
      matHold := core.matHold.filter (· != g)
      served := core.served.filter (fun e => e.1 != g) }
    let s := s.updGroup g (fun x => { x with core := none, regq := x.regq.map (fun _ => []) })
    let s := (s.postOnce (.groupPlace [])).postOnce (.matrixEntryStart k)
    let s := s.postOnce (.matrixEntryStart (Nat.xor k 1))
    if held then s.post (.handlerEntry k) else s

/-- The stores of a restricted group that are never held, those to scratchpads, reach their homes (R210). -/
def drainScratch (s : State) (g : Nat) (grp : Group) (c : Nat) : State :=
  let s := (grp.course c).fifo.foldl (fun s e => e.writes.foldl (fun s w => match w.tgt with
    | .scratch _ => s.applyWrite w
    | _ => s) s) s
  s.updCourse g c (fun x => { x with fifo := [] })

/-- Every store a group has issued and that is not to be held completes at its home (R104, R205), charged to the group's owner
(R454). -/
def drainGroup (s : State) (g : Nat) : State :=
  match s.group g with
  | some grp =>
    s.paid (groupOwner s g) fun s => (List.range grp.courses.length).foldl (fun s c =>
      if grp.mode = .ordinary then drainPlain s g grp c else drainScratch s g grp c) s
  | none => s

/-- Release what the supervisor reserved for a group: its private range and save record (R398, R403). -/
def releaseReserved (s : State) (grp : Group) : State :=
  if grp.saveLen = 0 then s
  else s.updCtx (s.groupCtx grp) fun c => { c with
    priv := if grp.psize = 0 then c.priv else c.priv.filter (fun e => e.1 != grp.pbase)
    saves := c.saves.filter (fun e => e.1 != grp.saveAddr) }

/-- A group of a context that is SAVING has come to an end: the SAVE may be complete (R400). -/
def noteSave (s : State) (g : Nat) (grp : Group) : State :=
  match alGet s.ctxs (s.groupCtx grp) with
  | some c => if c.state = .saving then s.post (.saveComplete g) else s
  | none => s

/-- End one group under R104: stores complete, held stores and records go, the group is RETIRED. -/
def terminateOne (s : State) (g : Nat) : State :=
  match s.group g with
  | some grp =>
    if !grp.alive then s
    else
      let s := drainGroup s g
      let s := dropToken s (s.groupPart grp) (fun e => e.1 == g)
      let s := leaveCore s g grp
      let s := releaseReserved s grp
      let s := s.updGroup g (fun x => { x with
        state := .retired, held := [], halting := false
        courses := x.courses.map (fun c => {
          c.mapLanes (fun _ l => l.gone) with
          ended := true, fifo := [], inflight := [] }) })
      let s := s.updLaunch grp.launch (fun l =>
        -- WRITTEN records finish their release; the others of the group become FREE (R350)
        let l := freeRecords l (fun r => r.grp == some g && r.state != .written)
        { l with terminated := true, fifo := l.fifo.filter (fun q => q.grp != g) })
      launchCheck ((noteSave s g grp).post (.rresGrant grp.launch)) grp.launch
  | none => s

/-- End a group, and with it the other copy of a redundant pair (R104, R485). -/
def terminateGroup (s : State) (g : Nat) : State :=
  match s.group g with
  | some grp =>
    match grp.mode with
    | .redundant _ other => terminateOne (terminateOne s g) other
    | _ => terminateOne s g
  | none => s

/-- The groups that end with a group: itself, and the other copy of a redundant pair (R104, R485). -/
def Group.ending (grp : Group) (g : Nat) : List Nat :=
  match grp.mode with
  | .redundant _ other => [g, other]
  | _ => [g]

/-- Terminate a group, with an error record of each group that ends (R104, R371). The record of the other copy of a pair
names the cause, course and lane of the copy that met it (log entry 108). -/
def terminateWith (s : State) (g kind cause first : Nat) (pc : Word) (course lane : Nat) : State :=
  match s.group g with
  | some grp =>
    let recs := (grp.ending g).filterMap fun h => (s.group h).bind fun x =>
      if x.alive then some (ErrInfo.bits ⟨pc, x.ident, x.core, x.node, course, lane, kind, cause, first⟩) else none
    recs.foldl (fun s r => writeErr s (s.groupCtx grp) r) (terminateGroup s g)
  | none => s

/-! ### Aborting a transaction (R302) -/

/-- The RECORD of an abort as TXSTAT shows it (R314). -/
def abortRecord (code user cause : Nat) (pf : Bool) : Word :=
  BitVec.ofNat 64 (cause % 256 * 2 ^ 24 + user % 256 * 2 ^ 16 + (if pf then 256 else 0) + code % 16)

/-- Abort of R302 for one lane; also whether it is a backward transfer. Code 4 (EXPLICIT) is not counted. -/
def abortLane (s : State) (g c n code user cause : Nat) (pf : Bool) : State × Bool :=
  match s.group g with
  | some grp =>
    let l := (grp.course c).lane n
    let s := s.updLane g c n fun l => { l with
      pc := l.tx.target
      depth := l.tx.beginD
      entries := l.entries.filter (fun e => decide (e.1 ≤ l.tx.beginD.toNat))
      hold := .none
      pend := none
      tx := { l.tx with
        state := .idle, beginD := 0, rlog := [], wlog := [], record := abortRecord code user cause pf
        aborts := if code = 4 then l.tx.aborts else if l.tx.aborts = 15 then 15 else l.tx.aborts + 1 } }
    (s, decide (l.tx.target ≤ l.pc))
  | none => (s, false)

/-- Abort lanes of a course, each with a code and a cause of its own; together they count as one backward transfer (R119). -/
def abortEach (s : State) (g c : Nat) (ns : List Nat) (why : Nat → Nat × Nat) : State :=
  let out := ns.foldl (fun (acc : State × Bool) n =>
    let r := abortLane acc.1 g c n (why n).1 0 (why n).2 false
    (r.1, acc.2 || r.2)) (s, false)
  bumpIf out.1 g c out.2

/-! ### Taking a trap (R303, R364 to R370) -/

/-- %TRAPCAUSE as entry writes it (R366, R368). -/
def trapCauseWord (t : PendTrap) : Word := (t.code.setWidth 64 <<< 8) ||| BitVec.ofNat 64 (causeCode t.cause)

/-- The lane ends without a handler (R370): its trap registers are written and an error record goes to the context. -/
def endTrapped (s : State) (g c n : Nat) (t : PendTrap) (kind : Nat) : State :=
  match s.group g with
  | some grp =>
    let s := s.updLane g c n (fun l => { l with trapPc := ⟨t.pc, false⟩, trapCause := ⟨trapCauseWord t, false⟩ })
    let e : ErrInfo := ⟨t.pc, grp.ident, grp.core, grp.node, c, n, kind, causeCode t.cause, 0⟩
    writeErr (endLane s g c n) (s.groupCtx grp) e.bits
  | none => s

/-- Put a course's trapped lane on the way to the handler (R367): the course waits in the core's handler queue; one that a
halt has reached is saved with its pending lanes (R372). -/
def awaitHandler (s : State) (g c n : Nat) (t : PendTrap) : State :=
  match s.group g with
  | some grp =>
    let k := grp.core.getD 0
    let s := s.updLane g c n (fun l => { l with pend := some t, hold := .none })
    let core := s.core k
    if core.handlerQ.contains (g, c) then s
    else
      let s := s.updCourse g c (fun x => { x with trap := .waiting })
      if grp.halting then s else (s.setCore k { core with handlerQ := core.handlerQ ++ [(g, c)] }).post (.handlerEntry k)
  | none => s

/-- The lane is frozen: its course is in HANDLER and it is not in the handler (R124, R367). -/
def Course.frozen (c : Course) (n : Nat) : Bool := c.trap == .handler && !(c.lane n).inHandler

/-- Take a trap in one lane. No trap is raised in a frozen lane: it is owed until the course leaves HANDLER (R367). Otherwise
an ACTIVE transaction aborts (R303); in handler mode it is a second error (R369);
POISON_CONSUMED and a zero TRAPBASE end the lane (R370); otherwise the lane awaits the handler (R367). The flag says
whether an abort was a backward transfer. -/
def takeTrap (s : State) (g c n : Nat) (t : PendTrap) : State × Bool :=
  match s.group g with
  | some grp =>
    let l := (grp.course c).lane n
    if !grp.alive || !l.live then (s, false)
    else if t.cause = .codeIntegrity then (terminateWith s g 4 0x22 0 t.pc 0xFF 0xFF, false)
    else if (grp.course c).frozen n then (s.updLane g c n (fun l => { l with pend := some t, hold := .none }), false)
    else if l.tx.state = .active then
      abortLane s g c n (if t.cause = .poisonConsumed then 8 else 5) 0 (causeCode t.cause) false
    else if l.inHandler then
      (terminateWith s g 3 0x21 l.handled.toNat t.pc c n, false)
    else if t.cause = .poisonConsumed then (endTrapped s g c n t 1, false)
    else
      let base := ((alGet s.ctxs (s.groupCtx grp)).map (·.trapBase)).getD 0
      if base == 0 && t.routine.isNone then (endTrapped s g c n t 2, false)
      else (awaitHandler s g c n t, false)
  | none => (s, false)

/-- Entry to handler mode for the course at the head of a core's queue (R368). -/
def enterHandler (s : State) (k : Nat) : State :=
  let core := s.core k
  match core.handler, core.handlerQ with
  | none, (g, c) :: rest =>
    match s.group g with
    | some grp =>
      let base := ((alGet s.ctxs (s.groupCtx grp)).map (·.trapBase)).getD 0
      let s := s.setCore k { core with
        handler := some (g, c), handlerQ := rest
        reserve := Vector.replicate 32 (Vector.replicate 32 0), reserveP := Vector.replicate 32 0 }
      s.updCourse g c (fun x => { x.mapLanes (fun _ l =>
          match l.pend with
          | some t => { l with
              inHandler := true, entryD := l.depth, trapPc := ⟨t.pc, false⟩, trapCause := ⟨trapCauseWord t, false⟩
              handled := BitVec.ofNat 8 (causeCode t.cause)
              dropped := if l.dropped = .due then .afterHandler else l.dropped
              pc := t.routine.getD base, pend := none, hold := .none }
          | none => l) with trap := .handler })
    | none => s.setCore k { core with handlerQ := rest }
  | _, _ => s

/-- The handler reserve is released: what the course's operations in flight were to write there is written nowhere (R97,
R368). -/
def Course.dropReserve (c : Course) : Course :=
  { c with inflight := c.inflight.map fun o => { o with writes := o.writes.filter fun w => match w with
      | .reserve _ _ _ => false
      | .far _ _ _ res _ => !res
      | .late _ _ _ res _ _ _ => !res
      | _ => true } }

/-- A ZMOV or ZRMAX of the course writes the columns of its handler lanes nowhere (R97). -/
def MatEntry.dropReserve (g c : Nat) (e : MatEntry) : MatEntry :=
  if e.grp = g ∧ e.course = c ∧ (e.op = .zmov ∨ e.op = .zrmax) then { e with mask := e.mask &&& ~~~e.inRes, inRes := 0 } else e

/-- Take traps in lanes of groups and courses, in order. Of the lanes of one course at one PC that abort, a backward transfer
counts once (R119; log entry 130): counted names those that have. -/
def trapMany : List (Nat × Nat × Nat × PendTrap) → List (Nat × Nat × Word) → State → State
  | [], _, s => s
  | (g, c, n, t) :: ts, counted, s =>
    let r := takeTrap s g c n t
    if r.2 ∧ !counted.contains (g, c, t.pc) then trapMany ts ((g, c, t.pc) :: counted) (bumpIf r.1 g c true)
    else trapMany ts counted r.1

/-- A REGQ of the course waits in its role's FIFO (R109). -/
def regqPending (grp : Group) (c : Nat) : Bool := grp.regq.any (fun q => q.any (fun r => r.course == c))

/-- What frozen lanes met while the course was in HANDLER takes effect (R124, R367): a REGQ that was granted is passed, and the
traps that they owe are taken, each lane standing at the instruction of its trap. -/
def thaw (s : State) (g c : Nat) : State :=
  match s.group g with
  | some grp =>
    let crs := grp.course c
    let s := if regqPending grp c then s
      else s.updCourse g c (fun x => x.mapLanes (fun _ l => if l.hold = .regq then { l with hold := .none, pc := pcNext l.pc } else l))
    let owed := (List.range 32).filterMap (fun n => (crs.lane n).pend.map (fun t => (g, c, n, t)))
    trapMany owed [] (s.updCourse g c (fun x => x.mapLanes (fun _ l => { l with pc := (l.pend.map (·.pc)).getD l.pc, pend := none })))
  | none => s

/-- The course leaves HANDLER when no lane of it is in the handler (R378), and its frozen lanes go on. -/
def leaveHandler (s : State) (g c : Nat) : State :=
  match s.group g with
  | some grp =>
    let crs := grp.course c
    if crs.trap = .handler ∧ (List.range 32).all (fun n => !(crs.lane n).inHandler) then
      let k := grp.core.getD 0
      let s := s.updCourse g c (fun x => { x.dropReserve with trap := .ordinary })
      let core := s.core k
      let s := s.setCore k { core with handler := none, matQ := core.matQ.map (MatEntry.dropReserve g c) }
      (thaw s g c).post (.handlerEntry k)
    else s
  | none => s

/-- Return from the handler in one lane (R378): D restored; the lane resumes at %TRAPPC, or ends when END is set. -/
def returnLane (s : State) (g c n : Nat) : State :=
  match s.group g with
  | some grp =>
    let l := (grp.course c).lane n
    let s := s.updLane g c n (fun l => { l with
      depth := l.entryD, inHandler := false
      dropped := if l.dropped = .afterHandler then .due else l.dropped
      entries := l.entries.filter (fun e => decide (e.1 ≤ l.entryD.toNat)) })
    if l.trapCause.val.getLsbD 63 then endLane s g c n
    else s.updLane g c n (fun l => { l with pc := l.trapPc.val })
  | none => s

end Sys2Proof.Machine
end

