-- ==== Sys2Proof/Machine/Flags.lean ====
section
/-!
DEFINITION. What an issue leaves outstanding: the completion flags C0 to C11 (R72, R73), the long-latency operations
that lower them (R74), and the engine counters COPY, MAT, GATH and COLL (R250, R257).
-/

namespace Sys2Proof.Machine

/-- The flag a SETF field names; none for 0xF (R70). -/
def setfFlag (setf : BitVec 4) : Option (Fin 12) := if h : setf.toNat < 12 then some ⟨setf.toNat, h⟩ else none

/-- Raise a flag by one (R73). A flag at 63 cannot be raised: its issue waits (R115). -/
def Course.raiseFlag (c : Course) : Option (Fin 12) → Course
  | some i => c.setFlag i.val (c.flag i.val + 1)
  | none => c

/-- Lower a flag by one (R73). -/
def Course.lowerFlag (c : Course) : Option (Fin 12) → Course
  | some i => c.setFlag i.val (c.flag i.val - 1)
  | none => c

/-- Every flag a WAIT field names reads zero (R72). -/
def Course.flagsClear (c : Course) (wait : BitVec 12) : Bool :=
  (List.range 12).all (fun i => !wait.getLsbD i || c.flag i == 0)

/-- Issue a long-latency operation: its flag rises by one and its results come later, in an order that the spec leaves
open (R73, R74). -/
def startLong (s : State) (g c : Nat) (op : LongOp) : State :=
  let (i, s) := s.takeFree
  (s.updCourse g c (fun x => { x.raiseFlag op.flag with inflight := x.inflight ++ [op] })).post
    (.longLatencyComplete g c i)

/-- The operations in flight once results of number i are written: those before it have landed theirs for the same S
registers, and those after it have not (R136). -/
def landBefore (i : Nat) (ws : List RegWrite) (ops : List LongOp) : List LongOp :=
  let rs := ws.filterMap (fun w => match w with
    | .s r _ => some r
    | _ => none)
  if rs.isEmpty then ops else (ops.zipIdx).map (fun e => if e.2 < i then rs.foldl (fun o r => o.landed r) e.1 else e.1)

/-- The results in flight for an S register land now: one more write of it is on its way (R136). -/
def Course.landS (c : Course) (i : Nat) : Course :=
  let xs := (c.inflight.flatMap (·.writes)).filterMap (fun w => match w with
    | .s r x => if r = i then some x else none
    | _ => none)
  match xs.getLast? with
  | some x => c.setS i x
  | none => c

/-- Deliver an operation in flight: its results are written and its flag falls (R73, R74). -/
def finishLong (s : State) (g c i : Nat) : State :=
  match s.group g with
  | none => s
  | some grp =>
    match (grp.course c).inflight[i]? with
    | none => s
    | some op =>
      let s := applyRegs s (grp.core.getD 0) g c op.writes
      s.updCourse g c (fun x => { x.lowerFlag op.flag with
        inflight := (landBefore i op.writes (grp.course c).inflight).eraseIdx i })

/-- A result of the operation waits: its port is in TRAINING (R462, R466), or holds an ATOM or CAS that has not been answered
(R464). -/
def LongOp.waits (s : State) (op : LongOp) : Bool :=
  op.writes.any (fun w => match w with
    | .far _ _ _ _ ts => ts.any (fun t => linkTrains s t || portAtomic s t)
    | _ => false)

/-- The results that come over a port are lost: zero and poisoned (R466). -/
def RegWrite.lose (t : Tgt) : RegWrite → RegWrite
  | .far n r x res ts => if ts.contains t then (if res then .reserve n r ⟨0, true⟩ else .v n r ⟨0, true⟩) else .far n r x res ts
  | w => w

/-- The lane a register result belongs to: an S result, that of the lowest lane. -/
def LongOp.writeLane (op : LongOp) (w : RegWrite) : Option Nat :=
  match w with
  | .v n _ _ => some n
  | .p n _ _ _ => some n
  | .reserve n _ _ => some n
  | .far n _ _ _ _ => some n
  | .late n _ _ _ _ _ _ => some n
  | .s _ _ => (List.range 32).find? op.lanes.getLsbD

/-- The result whose turn decides when result j is written: XP is written with the other result of its lane (R151). -/
def LongOp.batch (op : LongOp) (j : Nat) (w : RegWrite) : Nat :=
  match w with
  | .p _ _ _ _ => (op.writes.findIdx? (fun v => op.writeLane v == op.writeLane w)).getD j
  | _ => j

/-- Deliver every operation in flight of a course, oldest first. -/
def finishAll (s : State) (g c : Nat) : State :=
  match s.group g with
  | none => s
  | some grp => (grp.course c).inflight.foldl (fun s _ => finishLong s g c 0) s

/-! ### Engine counters (R250) -/

/-- COPY 0, MAT 1, GATH 2, COLL 3. -/
def Course.counter (c : Course) (cls : Nat) : Nat := if h : cls < 4 then (c.engines[cls]).length else 0

/-- An engine operation is issued: the counter rises by one. -/
def Course.engineStart (c : Course) (cls token : Nat) : Course :=
  if h : cls < 4 then { c with engines := c.engines.set cls (c.engines[cls] ++ [⟨token, false⟩]) } else c

/-- The operations left once the completed ones at the front have gone: the counter falls in issue order. -/
def engineRetire : List EngOp → List EngOp
  | [] => []
  | o :: l => if o.done then engineRetire l else o :: l

/-- An engine operation completes. -/
def Course.engineDone (c : Course) (cls token : Nat) : Course :=
  if h : cls < 4 then
    let ops := (c.engines[cls]).map (fun o => if o.token = token then { o with done := true } else o)
    { c with engines := c.engines.set cls (engineRetire ops) }
  else c

/-- A new number of the model's own, the next of State.nextReq. -/
def State.newToken (s : State) : Nat × State := (s.nextReq, { s with nextReq := s.nextReq + 1 })

end Sys2Proof.Machine
end

