-- ==== Sys2Proof/Machine/Operands.lean ====
section
/-!
DEFINITION. What an issue reads (R75 to R84, R97, R135): a view of the issuing course, its operands by class, its
destinations, and the register and feature checks that precede an instruction's own rules (R95, R322).
-/

namespace Sys2Proof.Machine

/-- An issue as it stands when the instruction issues: the selection, the group, the course and the core, the feature
bits of the partition, and the emulation routines bound for the object (R319, R320). -/
structure View where
  sel : Sel
  grp : Group
  crs : Course
  core : Core
  feats : BitVec 16
  bound : List (Nat × Word × Nat)

/-- The view of the slot chosen for issue; none when none is chosen. -/
def State.view (s : State) : Option View :=
  match s.sel with
  | none => none
  | some x =>
    match s.group x.grp with
    | none => none
    | some g => some ⟨x, g, g.course x.course, s.core x.core, (s.part (s.groupPart g)).features,
        ((s.groupObj g).map (·.bound)).getD []⟩

/-- A source operand (R75). -/
inductive Opd where
  | v (i : Nat)
  | s (i : Nat)
  | p (i : Nat)
  | imm (x : BitVec 8)
  deriving DecidableEq, Repr

/-- A destination operand (R75). -/
inductive Dst where
  | v (i : Nat)
  | s (i : Nat)
  | p (i : Nat)
  deriving DecidableEq, Repr

def opdOf (cls : BitVec 2) (i : BitVec 8) : Opd :=
  match cls.toNat with
  | 0 => .v i.toNat
  | 1 => .s i.toNat
  | 2 => .p i.toNat
  | _ => .imm i

def dstOf (cls : BitVec 2) (i : BitVec 8) : Dst :=
  match cls.toNat with
  | 0 => .v i.toNat
  | 1 => .s i.toNat
  | _ => .p i.toNat

/-- The V registers an operand names. -/
def Opd.vregs : Opd → List Nat
  | .v i => [i]
  | _ => []

def Dst.vregs : Dst → List Nat
  | .v i => [i]
  | _ => []

/-- A destination read as a source (BFI, MOVI.HI). -/
def Dst.asOpd : Dst → Opd
  | .v i => .v i
  | .s i => .s i
  | .p i => .p i

/-! ### Reading -/

/-- In handler mode V224 to V255 of a handler lane name the core's reserve (R97). -/
def View.reserved (x : View) (n i : Nat) : Bool := (x.crs.lane n).inHandler && decide (224 ≤ i ∧ i < 256)

/-- A V register of a lane (R97). -/
def View.vreg (x : View) (n i : Nat) : PWord :=
  if x.reserved n i then x.core.getReserve n (i - 224) else (x.crs.lane n).getV i

/-- A predicate as a value: 0 or 1 (R148). -/
def predWord (b p : Bool) : PWord := ⟨if b then 1 else 0, p⟩

/-- The value of an operand in a lane; an immediate fills elements of w bits (R75). -/
def View.opd (x : View) (w n : Nat) : Opd → PWord
  | .v i => x.vreg n i
  | .s i => x.crs.getS i
  | .p i => predWord ((x.crs.lane n).pred i) ((x.crs.lane n).predP i)
  | .imm b => ⟨splat8 w b, false⟩

/-- The lanes of the issue group whose guard is true (R71, R117). -/
def View.active (x : View) (k : Ctl) : LaneMask := maskOf fun n => inMask x.sel.mask n && (x.crs.lane n).guard k

/-- A register index within the quota, or in the reserve in handler mode (R95, R97). -/
def View.vOk (x : View) (n i : Nat) : Bool := decide (i < x.crs.quota) || x.reserved n i

/-! ### Writing -/

/-- The write of a V register of a lane (R97). -/
def View.putV (x : View) (n i : Nat) (v : PWord) : RegWrite :=
  if x.reserved n i then .reserve n (i - 224) v else .v n i v

/-- The lowest lane of a mask. -/
def lowLane (m : LaneMask) : Option Nat := (laneList m).head?

/-- The writes of a result: by lane to V and P, from the lowest lane to S (R136); a poisoned guard poisons its lane's
result (R126). -/
def View.result (x : View) (k : Ctl) (ok : LaneMask) (d : Dst) (val : Nat → PWord) : List RegWrite :=
  let v (n : Nat) : PWord := ⟨(val n).val, (val n).poison || (x.crs.lane n).guardP k⟩
  match d with
  | .v i => (laneList ok).map fun n => x.putV n i (v n)
  | .p i => (laneList ok).map fun n => .p n i ((v n).val != 0) (v n).poison
  | .s i => match lowLane ok with
    | some n => [.s i (v n)]
    | none => []

/-- n more operations would raise the issuing course's counter of a class past 255: the issue waits (R250). -/
def View.counterFull (x : View) (cls n : Nat) : Bool := decide (0 < n) && decide (255 < x.crs.counter cls + n)

/-! ### Features (R319 to R322) -/

/-- The lowest feature of a list that the partition lacks. -/
def View.lacking (x : View) (fs : List Nat) : Option Nat := fs.find? (fun b => !x.feats.getLsbD b)

/-- The emulation routine bound for a feature. -/
def View.routine (x : View) (f : Nat) : Option Word := (x.bound.find? (fun e => e.1 == f)).map (fun e => e.2.1)

end Sys2Proof.Machine
end

