-- ==== Sys2Proof/Machine/Issue.lean ====
section
/-!
DEFINITION. How an instruction issues (R14, R87, R126, R136, R322, R364): the causes of each lane of Active, the
effect in the lanes that have none, the advance of the group, and the traps of the others.
-/

namespace Sys2Proof.Machine

/-- What an instruction asks before its effect: its features, the V registers it names, its own causes by lane, whether
it rounds with STOCH, and the format slots it names. -/
structure Shape where
  feats : List Nat
  vregs : List Nat
  causes : Nat → List Cause
  stoch : Bool
  slots : List Nat

/-- The shape of an instruction that raises no cause of its own. -/
def Shape.plain (feats vregs : List Nat) : Shape := ⟨feats, vregs, fun _ => [], false, []⟩

/-- The cause a lane of Active reports (R14): a masked feature alone (R322), else the lowest code of the quota check
and the instruction's own causes. -/
def View.laneCause (x : View) (sh : Shape) (n : Nat) : Option Cause :=
  if (x.lacking sh.feats).isSome then some .featureEmulate
  else lowestCause ((if sh.vregs.all (x.vOk n) then [] else [.regBound]) ++ sh.causes n)

/-- The lanes of a mask that report no cause. -/
def View.clear (x : View) (sh : Shape) (m : LaneMask) : LaneMask :=
  maskOf fun n => inMask m n && (x.laneCause sh n).isNone

/-- A trap at the issue's PC; an emulation routine bound for the missing feature is its entry (R320, R322). -/
def View.trap (x : View) (fs : List Nat) (c : Cause) : PendTrap :=
  ⟨c, 0, x.sel.pc, if c = .featureEmulate then (x.lacking fs).bind x.routine else none⟩

/-- Take the traps of an issue, lane by lane; also whether an abort has sent a lane back (R119, R303). -/
def takeTraps (s : State) (x : Sel) (ts : List (Nat × PendTrap)) : State × Bool :=
  ts.foldl (fun (acc : State × Bool) e =>
    let r := takeTrap acc.1 x.grp x.course e.1 e.2
    (r.1, acc.2 || r.2)) (s, false)

/-- Take the traps of an issue; a backward transfer counts once (R119). -/
def raiseTraps (s : State) (x : Sel) (ts : List (Nat × PendTrap)) : State :=
  bumpIf (takeTraps s x ts).1 x.grp x.course (takeTraps s x ts).2

/-- The traps of the lanes of a mask that report a cause. -/
def View.traps (x : View) (sh : Shape) (m : LaneMask) : List (Nat × PendTrap) :=
  (laneList m).filterMap fun n => (x.laneCause sh n).map fun c => (n, x.trap sh.feats c)

/-- Every lane of a mask goes to the sequential successor (R64, R126). -/
def advance (s : State) (x : Sel) (m : LaneMask) : State :=
  s.updCourse x.grp x.course (fun c => c.mapLanes (fun n l => if inMask m n then { l with pc := pcNext x.pc } else l))

/-- One LFSR step in each lane of a mask (R45). -/
def stepSeeds (s : State) (x : Sel) (m : LaneMask) : State :=
  s.updCourse x.grp x.course (fun c => c.mapLanes (fun n l => if inMask m n then { l with seed := lfsrStep l.seed } else l))

/-- The issue is over: no slot is chosen. -/
def State.deselect (s : State) : State := { s with sel := none }

/-- The results of an issue: written now, or when the long-latency operation completes (R73, R74). An issue whose
Active set is empty joins no flag; one that no lane has passed the checks of holds no format slot (R55). -/
def deliver (s : State) (x : View) (k : Ctl) (long : Bool) (act ok : LaneMask) (ws : List RegWrite)
    (slots : List Nat) : State :=
  if long then
    if act = 0 then s else startLong s x.sel.grp x.sel.course ⟨setfFlag k.setf, ok, ws, if ok = 0 then [] else slots⟩
  else applyRegs s x.sel.core x.sel.grp x.sel.course ws

/-- The whole of an issue (R126, R364): the effect in the lanes of Active that report no cause, one LFSR step where
it rounds with STOCH, the advance of every lane that does not trap, and the traps of the others. -/
def finishEffect (s : State) (x : View) (k : Ctl) (sh : Shape) (eff : LaneMask → State → State) : State :=
  let act := x.active k
  let ok := x.clear sh act
  let bad := act &&& ~~~ok
  let s := eff ok s
  let s := if sh.stoch then stepSeeds s x.sel ok else s
  let s := advance s x.sel (x.sel.mask &&& ~~~bad)
  (raiseTraps s x.sel (x.traps sh bad)).deselect

/-- An issue that computes register results. -/
def finishCompute (s : State) (x : View) (k : Ctl) (long : Bool) (sh : Shape) (body : LaneMask → List RegWrite) : State :=
  finishEffect s x k sh (fun ok s => deliver s x k long (x.active k) ok (body ok) sh.slots)

/-- Run a meaning on the slot chosen for issue; without one an instruction has no effect. -/
def State.issue (s : State) (body : View → State) : Out :=
  match s.view with
  | some x => .next (body x)
  | none => .next s

/-- An instruction that computes register results from what it reads at issue. -/
def compute (k : Ctl) (long : Bool) (sh : View → Shape) (body : View → LaneMask → List RegWrite) (s : State) : Out :=
  s.issue fun x => finishCompute s x k long (sh x) (body x)

/-- Results from operand words, with the operands' poison (R135 to R137). -/
def View.fromWords (x : View) (k : Ctl) (w : Nat) (d : Dst) (srcs : List Opd) (val : Nat → List Word → Word)
    (ok : LaneMask) : List RegWrite :=
  x.result k ok d fun n =>
    let ps := srcs.map (x.opd w n)
    ⟨val n (ps.map (·.val)), ps.any (·.poison)⟩

end Sys2Proof.Machine
end

