-- ==== Sys2Proof/Machine/Integer.lean ====
section
/-!
DEFINITION. The integer, logic and predicate instructions (spec/07_integer.md, R135 to R149).
-/

namespace Sys2Proof.Machine

/-- The element width of an ES code (R135). -/
def widthOf (es : BitVec 2) : Nat := 8 * 2 ^ es.toNat

/-- TY 0 is signed (R77). -/
def tySigned (ty : BitVec 4) : Bool := ty == 0

/-- The sources of an RRR instruction: its first one, two or three operands. -/
def rrrSrcs (f : RRR) (arity : Nat) : List Opd :=
  [opdOf f.acls f.a, opdOf f.bcls f.b, opdOf f.ccls f.c].take arity

/-- An RRR instruction of this chapter: val sees the lane and its operand words, sources first (R135 to R138). -/
def intRRR (k : Ctl) (f : RRR) (arity : Nat) (old : Bool) (val : Nat → List Word → Word) (s : State) : Out :=
  let d := dstOf f.dcls f.d
  let srcs := rrrSrcs f arity ++ (if old then [d.asOpd] else [])
  compute k false (fun _ => Shape.plain [] (d.vregs ++ (rrrSrcs f arity).flatMap (·.vregs)))
    (fun x => x.fromWords k (widthOf f.es) d srcs val) s

/-- An RRI instruction: a from the A field, b the immediate (R139). -/
def intRRI (k : Ctl) (f : RRI) (val : Word → Word → Word) (s : State) : Out :=
  let d := dstOf f.dcls f.d
  let a := opdOf f.acls f.a
  let w := widthOf (f.mod.extractLsb' 0 2)
  compute k false (fun _ => Shape.plain [] (d.vregs ++ a.vregs))
    (fun x => x.fromWords k w d [a] (fun _ ws => val (ws.getD 0 0) (splat32 (tySigned f.ty) w f.imm))) s

/-- Fields of the RRI MOD byte (R139). -/
def rriWidth (f : RRI) : Nat := widthOf (f.mod.extractLsb' 0 2)
def rriSat (f : RRI) : Bool := f.mod.getLsbD 2
def rriSub (f : RRI) : Nat := (f.mod.extractLsb' 3 4).toNat

/-- The arithmetic of R141 on RRR operands. -/
def arithRRR (k : Ctl) (f : RRR) (arity : Nat) (g : Int → Int → Int → Int) (s : State) : Out :=
  intRRR k f arity false
    (fun _ ws => arith (tySigned f.ty) (widthOf f.es) (f.sat == 1) g (ws.getD 0 0) (ws.getD 1 0) (ws.getD 2 0)) s

/-- The arithmetic of R141 with an immediate. -/
def arithRRI (k : Ctl) (f : RRI) (g : Int → Int → Int → Int) (s : State) : Out :=
  intRRI k f (fun a b => arith (tySigned f.ty) (rriWidth f) (rriSat f) g a b 0) s

def execIadd (k : Ctl) (f : RRR) (s : State) : Out := arithRRR k f 2 (fun x y _ => x + y) s
def execIaddImm (k : Ctl) (f : RRI) (s : State) : Out := arithRRI k f (fun x y _ => x + y) s
def execIsub (k : Ctl) (f : RRR) (s : State) : Out := arithRRR k f 2 (fun x y _ => x - y) s
def execIsubImm (k : Ctl) (f : RRI) (s : State) : Out := arithRRI k f (fun x y _ => x - y) s
def execImul (k : Ctl) (f : RRR) (s : State) : Out := arithRRR k f 2 (fun x y _ => x * y) s
def execImulImm (k : Ctl) (f : RRI) (s : State) : Out := arithRRI k f (fun x y _ => x * y) s
def execImulh (k : Ctl) (f : RRR) (s : State) : Out := arithRRR k f 2 (fun x y _ => mulHigh (widthOf f.es) x y) s
def execImad (k : Ctl) (f : RRR) (s : State) : Out := arithRRR k f 3 (fun x y z => x * y + z) s
def execIneg (k : Ctl) (f : RRR) (s : State) : Out := arithRRR k f 1 (fun x _ _ => -x) s
def execIabs (k : Ctl) (f : RRR) (s : State) : Out := arithRRR k f 1 (fun x _ _ => (x.natAbs : Int)) s
def execImin (k : Ctl) (f : RRR) (s : State) : Out := arithRRR k f 2 (fun x y _ => min x y) s
def execIminImm (k : Ctl) (f : RRI) (s : State) : Out := arithRRI k f (fun x y _ => min x y) s
def execImax (k : Ctl) (f : RRR) (s : State) : Out := arithRRR k f 2 (fun x y _ => max x y) s
def execImaxImm (k : Ctl) (f : RRI) (s : State) : Out := arithRRI k f (fun x y _ => max x y) s

/-- R142. -/
def shiftRRR (k : Ctl) (f : RRR) (op : Shift) (s : State) : Out :=
  intRRR k f 2 false (fun _ ws => shiftWord op (tySigned f.ty) (widthOf f.es) (ws.getD 0 0) (ws.getD 1 0)) s

def execIshl (k : Ctl) (f : RRR) (s : State) : Out := shiftRRR k f .shl s
def execIshr (k : Ctl) (f : RRR) (s : State) : Out := shiftRRR k f .shr s
def execIrot (k : Ctl) (f : RRR) (s : State) : Out := shiftRRR k f .rot s

/-- The two-operand logic of R143, on whole words: elements do not interact. -/
def logicRRR (k : Ctl) (f : RRR) (g : Word → Word → Word) (s : State) : Out :=
  intRRR k f 2 false (fun _ ws => g (ws.getD 0 0) (ws.getD 1 0)) s

def execAnd (k : Ctl) (f : RRR) (s : State) : Out := logicRRR k f (fun x y => x &&& y) s
def execAndImm (k : Ctl) (f : RRI) (s : State) : Out := intRRI k f (fun x y => x &&& y) s
def execOr (k : Ctl) (f : RRR) (s : State) : Out := logicRRR k f (fun x y => x ||| y) s
def execOrImm (k : Ctl) (f : RRI) (s : State) : Out := intRRI k f (fun x y => x ||| y) s
def execXor (k : Ctl) (f : RRR) (s : State) : Out := logicRRR k f (fun x y => x ^^^ y) s
def execXorImm (k : Ctl) (f : RRI) (s : State) : Out := intRRI k f (fun x y => x ^^^ y) s
def execAndn (k : Ctl) (f : RRR) (s : State) : Out := logicRRR k f (fun x y => x &&& ~~~y) s
def execAndnImm (k : Ctl) (f : RRI) (s : State) : Out := intRRI k f (fun x y => x &&& ~~~y) s
def execNot (k : Ctl) (f : RRR) (s : State) : Out := intRRR k f 1 false (fun _ ws => ~~~(ws.getD 0 0)) s

/-- The one-operand functions of R143, element by element on codes. -/
def countRRR (k : Ctl) (f : RRR) (g : Nat → Nat → Nat) (s : State) : Out :=
  let w := widthOf f.es
  intRRR k f 1 false (fun _ ws => pack w (fun i => g w (field (ws.getD 0 0) w i))) s

def execBrev (k : Ctl) (f : RRR) (s : State) : Out := countRRR k f reverseBits s
def execPopc (k : Ctl) (f : RRR) (s : State) : Out := countRRR k f popCount s
def execClz (k : Ctl) (f : RRR) (s : State) : Out := countRRR k f leadingZeros s
def execCtz (k : Ctl) (f : RRR) (s : State) : Out := countRRR k f trailingZeros s

/-- R144. -/
def execBfx (k : Ctl) (f : RRR) (s : State) : Out :=
  let w := widthOf f.es
  intRRR k f 3 false (fun _ ws => pack w (bfxElem (tySigned f.ty) w (ws.getD 0 0) (ws.getD 1 0) (ws.getD 2 0))) s

/-- R144: the destination is read too, as the fourth word. -/
def execBfi (k : Ctl) (f : RRR) (s : State) : Out :=
  let w := widthOf f.es
  intRRR k f 3 true (fun _ ws => pack w (bfiElem w (ws.getD 3 0) (ws.getD 0 0) (ws.getD 1 0) (ws.getD 2 0))) s

/-- R145: a mask by element, or for a P destination the outcome on element 0. -/
def icmpResult (signed : Bool) (w code : Nat) (toP : Bool) (a b : Word) : Word :=
  if toP then (if icmpHolds code (elem signed w a 0) (elem signed w b 0) then 1 else 0) else icmpWord signed w code a b

def execIcmp (k : Ctl) (f : RRR) (s : State) : Out :=
  intRRR k f 2 false
    (fun _ ws => icmpResult (tySigned f.ty) (widthOf f.es) f.tyb.toNat (f.dcls == 2) (ws.getD 0 0) (ws.getD 1 0)) s

def execIcmpImm (k : Ctl) (f : RRI) (s : State) : Out :=
  intRRI k f (fun a b => icmpResult (tySigned f.ty) (rriWidth f) (rriSub f) (f.dcls == 2) a b) s

/-- R146: by lane on a predicate, otherwise by element. -/
def execIsel (k : Ctl) (f : RRR) (s : State) : Out :=
  let w := widthOf f.es
  intRRR k f 3 false (fun _ ws =>
    let a := ws.getD 0 0
    let b := ws.getD 1 0
    let c := ws.getD 2 0
    if f.ccls = 2 then (if c = 0 then b else a)
    else pack w (fun i => if field c w i = 0 then field b w i else field a w i)) s

/-- R147. -/
def execLea (k : Ctl) (f : RRR) (s : State) : Out :=
  intRRR k f 2 false (fun _ ws => leaWord (tySigned f.ty) (widthOf f.es) f.tyb.toNat (ws.getD 0 0) (ws.getD 1 0)) s

def execLeaImm (k : Ctl) (f : RRI) (s : State) : Out :=
  intRRI k f (fun a b => leaWord (tySigned f.ty) (rriWidth f) (rriSub f) a b) s

/-- R148. -/
def execMov (k : Ctl) (f : RRR) (s : State) : Out := intRRR k f 1 false (fun _ ws => ws.getD 0 0) s

/-- R148: MOVI, MOVI.N32 and MOVI.HI, the last reading its destination. -/
def execMovi (k : Ctl) (f : RRI) (s : State) : Out :=
  let d := dstOf f.dcls f.d
  let hi := f.mod == 1
  compute k false (fun _ => Shape.plain [] d.vregs)
    (fun x => x.fromWords k 64 d (if hi then [d.asOpd] else []) (fun _ ws =>
      if hi then (f.imm.setWidth 64 <<< 32) ||| ((ws.getD 0 0) &&& 0xFFFFFFFF#64)
      else if f.ty = 1 then f.imm.setWidth 64 else f.imm.signExtend 64)) s

/-- R149: PSET.BIT and PSET.LANE. -/
def execPset (k : Ctl) (f : RRR) (s : State) : Out :=
  intRRR k f (if f.tyb = 0 then 2 else 1) false (fun n ws =>
    let i := if f.tyb = 0 then (ws.getD 1 0).toNat % 64 else n
    if (ws.getD 0 0).getLsbD i then 1 else 0) s

/-- R149: PLOP by its table of eight bits. -/
def execPlop (k : Ctl) (f : RRR) (s : State) : Out :=
  intRRR k f 3 false (fun _ ws =>
    let i := 4 * (ws.getD 0 0).toNat + 2 * (ws.getD 1 0).toNat + (ws.getD 2 0).toNat
    if (f.tyb ++ f.mod).getLsbD i then 1 else 0) s

end Sys2Proof.Machine
end

