-- ==== Sys2Proof/Machine/CrossLane.lean ====
section
/-!
DEFINITION. The cross-lane instructions (spec/07_integer.md, R150 to R156): every operand is read at issue, and the
results come with the completion of a long-latency operation.
-/

namespace Sys2Proof.Machine

/-- A result gathered from other lanes: its bits, its poison, and whether some part came from an invalid source. -/
structure Gather where
  val : Nat
  poison : Bool
  bad : Bool
  deriving DecidableEq, Repr

/-- A part at a bit offset from a source lane, if it is valid; otherwise zero and marked (R150). -/
def gatherPart (x : View) (a : Nat) (ok : LaneMask) (acc : Gather) (off : Nat) (src : Option (Nat × (Word → Nat))) : Gather :=
  match src with
  | some (m, g) =>
    if decide (m < 32) && inMask ok m then
      let p := x.vreg m a
      ⟨acc.val + g p.val * 2 ^ off, acc.poison || p.poison, acc.bad⟩
    else { acc with bad := true }
  | none => { acc with bad := true }

/-- The features, registers and results of a cross-lane instruction that writes Vd and, when marked, XP (R150), which takes no poison but its guard's (R126). -/
def crossLane (k : Ctl) (f : RRR) (parts : View → LaneMask → Nat → Gather) (s : State) : Out :=
  let d := dstOf f.dcls f.d
  compute k true (fun _ => Shape.plain [1] (d.vregs ++ [f.a.toNat] ++ (opdOf f.bcls f.b).vregs))
    (fun x ok =>
      let r := parts x ok
      x.result k ok d (fun n => ⟨BitVec.ofNat 64 (r n).val, (r n).poison⟩)
        ++ (if f.xl = 1 then (laneList ok).map (fun n => .p n f.xp.toNat (r n).bad ((x.crs.lane n).guardP k)) else [])) s

/-- R152. -/
def execShfl (k : Ctl) (f : RRR) (s : State) : Out :=
  let w := widthOf f.es
  let n := 64 / w
  crossLane k f (fun x ok lane =>
    let b := x.opd w lane (opdOf f.bcls f.b)
    (List.range n).foldl (fun acc i =>
      let t := shflSource f.tyb.toNat (lane * n + i) (field b.val w i)
      gatherPart x f.a.toNat ok acc (i * w)
        (if 0 ≤ t ∧ t < 32 * n then some (t.toNat / n, fun v => field v w (t.toNat % n)) else none))
      ⟨0, b.poison, false⟩) s

/-- R153: the pattern byte is held raw in B. -/
def execQxch (k : Ctl) (f : RRR) (s : State) : Out :=
  let d := dstOf f.dcls f.d
  compute k true (fun _ => Shape.plain [1] (d.vregs ++ [f.a.toNat]))
    (fun x ok =>
      let r (n : Nat) : Gather := gatherPart x f.a.toNat ok ⟨0, false, false⟩ 0
        (some (n / 4 * 4 + f.b.toNat / 4 ^ (n % 4) % 4, fun v => v.toNat))
      x.result k ok d (fun n => ⟨BitVec.ofNat 64 (r n).val, (r n).poison⟩)
        ++ (if f.xl = 1 then (laneList ok).map (fun n => .p n f.xp.toNat (r n).bad ((x.crs.lane n).guardP k)) else [])) s

/-- R154: any predicate or guard of Active that is poisoned poisons Sd. -/
def execVote (k : Ctl) (f : RRR) (s : State) : Out :=
  compute k true (fun _ => Shape.plain [1] [])
    (fun x ok =>
      let p (n : Nat) : Bool := (x.crs.lane n).pred f.a.toNat
      let ls := laneList ok
      let v : Word := match f.tyb.toNat with
        | 0 => if ls.any p then 1 else 0
        | 1 => if ls.all p then 1 else 0
        | _ => (maskOf (fun n => inMask ok n && p n)).setWidth 64
      x.result k ok (dstOf f.dcls f.d) (fun _ =>
        ⟨v, ls.any (fun n => (x.crs.lane n).predP f.a.toNat || (x.crs.lane n).guardP k)⟩)) s

/-- R155. -/
def execPerm (k : Ctl) (f : RRR) (s : State) : Out :=
  crossLane k f (fun x ok lane =>
    let b := x.opd 64 lane (opdOf f.bcls f.b)
    (List.range 8).foldl (fun acc i =>
      let ix := field b.val 8 i
      if ix.testBit 7 then acc
      else
        let j := ix % 32
        gatherPart x f.a.toNat ok acc (8 * i) (some (lane / 4 * 4 + j / 8, fun v => field v 8 (j % 8))))
      ⟨0, b.poison, false⟩) s

/-- R156: PACK. -/
def execPack (k : Ctl) (f : RRR) (s : State) : Out :=
  let w := widthOf f.es
  let signed := tySigned f.ty
  crossLane k f (fun x ok lane =>
    let b := x.opd 64 lane (opdOf f.bcls f.b)
    (List.range (64 / w)).foldl (fun acc i =>
      gatherPart x f.a.toNat ok acc (i * w) (some (b.val.toNat + i, fun v =>
        let n : Int := if signed then v.toInt else v.toNat
        codeOf w (if f.sat = 1 then clampInt signed w n else n))))
      ⟨0, b.poison, false⟩) s

/-- R156: UNPACK. -/
def execUnpack (k : Ctl) (f : RRR) (s : State) : Out :=
  let w := widthOf f.es
  crossLane k f (fun x ok lane =>
    let b := x.opd 64 lane (opdOf f.bcls f.b)
    let t := b.val.toNat
    let n := 64 / w
    gatherPart x f.a.toNat ok ⟨0, b.poison, false⟩ 0
      (some (t / n, fun v => codeOf 64 (elem (tySigned f.ty) w v (t % n))))) s

end Sys2Proof.Machine
end

