-- ==== Sys2Proof/Machine/Special.lean ====
section
/-!
DEFINITION. MOVS, MOVSS, PCHK and PCLR: special registers and poison (R76, R122, R157, R158, R295, R319, R343, R366).
-/

namespace Sys2Proof.Machine

/-- %TXSTATE of a lane (R295); queued says whether it holds an entry in the token queue. -/
def txStateWord (t : Tx) (queued : Bool) : Word :=
  let st := match t.state with
    | .idle => 0
    | .irrevocable => 2
    | _ => 1
  BitVec.ofNat 64 (t.beginD.toNat * 2 ^ 32 + t.nest.toNat * 2 ^ 24 + t.wlog.length % 32 * 2 ^ 16
    + t.rlog.length % 64 * 2 ^ 10 + (if queued then 512 else 0) + t.aborts.toNat * 16 + st)

/-- A special register as MOVS reads it (R76, R157): its value in a lane, with its poison. -/
def readSpr (s : State) (x : View) (n : Nat) (spr : Nat) : PWord :=
  let l := x.crs.lane n
  let plain (v : Nat) : PWord := ⟨BitVec.ofNat 64 v, false⟩
  match spr with
  | 0x00 => plain n
  | 0x01 => plain x.sel.course
  | 0x02 => plain x.grp.ident.toNat
  | 0x03 => plain x.sel.core
  | 0x04 => plain (x.sel.core / 192)
  | 0x05 => plain x.grp.setRank
  | 0x06 => ⟨l.recBase, false⟩
  | 0x07 => plain l.recDepth.toNat
  | 0x08 => plain x.grp.recCount
  | 0x09 => ⟨l.seed.setWidth 64, l.seedP⟩
  | 0x0A => ⟨x.crs.bypLim.setWidth 64, x.crs.bypLimP⟩
  | 0x0B => plain (s.cycle x.sel.core)
  | 0x0C => l.trapPc
  | 0x0D => l.trapCause
  | 0x0E => ⟨txStateWord l.tx ((s.part (s.groupPart x.grp)).tokenQ.contains (x.sel.grp, x.sel.course, n)), false⟩
  | 0x10 => plain x.feats.toNat
  | _ => plain 0

def execMovs (k : Ctl) (f : SYS) (s : State) : Out :=
  let d := dstOf f.dcls f.d
  compute k false (fun _ => Shape.plain [] d.vregs)
    (fun x ok => x.result k ok d (fun n => readSpr s x n f.spr.toNat)) s

/-- The value %TRAPCAUSE takes: END, CODE and CAUSE (R366). -/
def trapCauseStore (v : Word) : Word := v &&& 0x8000000000FFFFFF#64

/-- A lane's special register written by MOVSS (R41, R157, R366). -/
def writeLaneSpr (l : Lane) (spr : Nat) (v : PWord) : Lane :=
  match spr with
  | 0x09 => { l with seed := seedStore v.val, seedP := v.poison }
  | 0x0C => { l with trapPc := v }
  | 0x0D => { l with trapCause := ⟨trapCauseStore v.val, v.poison⟩ }
  | _ => l

/-- The limit MOVSS stores in %BYPLIM (R122). -/
def bypLimStore (v : Word) : BitVec 8 := if v = 0 then 1 else if 255#64 < v then 255 else v.setWidth 8

def execMovss (k : Ctl) (f : SYS) (s : State) : Out :=
  let a := opdOf f.acls f.a
  let spr := f.spr.toNat
  s.issue fun x =>
    let sh : Shape := ⟨[], a.vregs,
      fun n => if (spr = 0x0C ∨ spr = 0x0D) ∧ !(x.crs.lane n).inHandler then [.illegalForm] else [], false, []⟩
    let v (n : Nat) : PWord := let p := x.opd 64 n a; ⟨p.val, p.poison || (x.crs.lane n).guardP k⟩
    finishEffect s x k sh fun ok s =>
      if spr = 0x0A then
        match lowLane ok with
        | some n => s.updCourse x.sel.grp x.sel.course (fun c =>
            { c with bypLim := bypLimStore (v n).val, bypLimP := (v n).poison })
        | none => s
      else s.updCourse x.sel.grp x.sel.course (fun c =>
        c.mapLanes (fun n l => if inMask ok n then writeLaneSpr l spr (v n) else l))

def execPchk (k : Ctl) (f : RRR) (s : State) : Out :=
  let a := opdOf f.acls f.a
  compute k false (fun _ => Shape.plain [] a.vregs)
    (fun x ok => x.result k ok (dstOf f.dcls f.d) (fun n => ⟨if (x.opd 64 n a).poison then 1 else 0, false⟩)) s

def execPclr (k : Ctl) (f : RRR) (s : State) : Out :=
  let a := opdOf f.acls f.a
  let d := dstOf f.dcls f.d
  compute k false (fun _ => Shape.plain [] (d.vregs ++ a.vregs))
    (fun x ok => x.result k ok d (fun n => ⟨(x.opd 64 n a).val, false⟩)) s

end Sys2Proof.Machine
end

