-- ==== Sys2Proof/Machine/Float.lean ====
section
/-!
DEFINITION. The floating-point instructions (spec/08_float.md, R159 to R174): each element is decoded through the slot
its instruction names, computed exactly, and rounded once.
-/

namespace Sys2Proof.Machine

/-! ### Slots as an issue sees them (R52, R58, R61) -/

/-- The bank in use on a core: the guest bank while it is lent (R52). -/
def Core.bank (c : Core) : Vector Slot 16 := if c.lentTo.isSome then c.guest else c.home
def Core.slot (c : Core) (i : Nat) : Slot := if h : i < 16 then c.bank[i] else Slot.empty

/-- The image of a BOUND slot (R61). -/
def Core.slotImage (c : Core) (i : Nat) : Option Image :=
  match (c.slot i).state with
  | .bound => (c.slot i).image
  | _ => none

def slotStateCode : SlotState → Nat
  | .empty => 0 | .loading => 1 | .verified => 2 | .bound => 3 | .draining => 4

/-- The descriptor that FMTQ reads (R58): an EMPTY slot shows GEN only. -/
def slotWordOf (t : Slot) : Word :=
  let d : Word := match t.state, t.image with
    | .empty, _ => 0
    | _, some im => im.desc
    | _, none => 0
  d ||| BitVec.ofNat 64 (slotStateCode t.state * 2 ^ 45 + t.gen.toNat * 2 ^ 48)

/-- A fixed slot: BOUND with GEN 0 (R51). -/
def fixedSlot (id : Nat) : Slot := ⟨.bound, 0, some (catalogueImage id)⟩

/-- The slots of a partition at its creation (R51). -/
def freshSlots : Vector Slot 16 :=
  Vector.ofFn fun i => if i.val < 4 then fixedSlot (i.val + 1) else Slot.empty

/-! ### Elements (R159) -/

/-- The image an instruction works with; its checks have seen that the slot is BOUND. -/
def View.image (x : View) (slot : Nat) : Image := (x.core.slotImage slot).getD (catalogueImage 0)

/-- Val of R159. -/
def valOf (im : Image) (code : Nat) : Val := decodeCode (imageCodec im) code

/-- What an instruction rounds with. -/
structure RoundMode where
  mode : RMode
  sat : Bool
  bits : Nat

def RoundMode.enc (m : RoundMode) (im : Image) (v : Exact) : Nat := roundTo im v m.mode m.sat m.bits

/-- The rounding of element i in a lane (R37, R43). -/
def View.rounding (x : View) (f : RRR) (n i : Nat) : RoundMode :=
  ⟨RMode.ofField f.rm, f.sat == 1, stochBits (x.crs.lane n).seed i⟩

/-- The shape of a float instruction on the given slots (R160 to R162). -/
def floatShape (x : View) (f : RRR) (feat : Nat) (vregs : List Nat) (slots : List Nat) (need : Bool) : Shape :=
  ⟨[feat], vregs,
    fun _ => if slots.all (fun i => (x.core.slotImage i).isSome) && need then [] else [.formatUnavailable], f.rm == 5, slots⟩

/-- Under STOCH a poisoned %SEED poisons the result (R162). -/
def stochPoison (x : View) (f : RRR) (n : Nat) (v : PWord) : PWord :=
  ⟨v.val, v.poison || (f.rm == 5 && (x.crs.lane n).seedP)⟩

/-- A float instruction whose result elements are g of the source elements' codes (R159, R167). -/
def floatRRR (k : Ctl) (f : RRR) (feat : Nat) (long : Bool) (arity : Nat) (g : Image → RoundMode → List Nat → Nat)
    (s : State) : Out :=
  let d := dstOf f.dcls f.d
  let srcs := rrrSrcs f arity
  compute k long (fun x => floatShape x f feat (d.vregs ++ srcs.flatMap (·.vregs)) [f.ty.toNat] true)
    (fun x ok =>
      let im := x.image f.ty.toNat
      let w := descWidth im.desc
      x.result k ok d fun n =>
        let ps := srcs.map (x.opd w n)
        stochPoison x f n
          ⟨pack w (fun i => g im (x.rounding f n i) (ps.map (fun p => field p.val w i))), ps.any (·.poison)⟩) s

/-- The value of a source element. -/
def srcVal (im : Image) (cs : List Nat) (j : Nat) : Val := valOf im (cs.getD j 0)

/-- An arithmetic instruction of R167, with one rounding. -/
def floatArith (k : Ctl) (f : RRR) (arity : Nat) (g : Bool → Val → Val → Val → Val) (s : State) : Out :=
  floatRRR k f 2 false arity
    (fun im m cs => m.enc im (exactOf (g (m.mode == .rdn) (srcVal im cs 0) (srcVal im cs 1) (srcVal im cs 2)))) s

def execFadd (k : Ctl) (f : RRR) (s : State) : Out := floatArith k f 2 (fun rdn x y _ => x.add rdn y) s
def execFsub (k : Ctl) (f : RRR) (s : State) : Out := floatArith k f 2 (fun rdn x y _ => x.add rdn y.neg) s
def execFmul (k : Ctl) (f : RRR) (s : State) : Out := floatArith k f 2 (fun _ x y _ => x.mul y) s
def execFma (k : Ctl) (f : RRR) (s : State) : Out := floatArith k f 3 (fun rdn x y z => (x.mul y).add rdn z) s

/-- FMIN (greater = false) and FMAX on codes (R172). -/
def minMaxCode (im : Image) (greater prop : Bool) (a b : Nat) : Nat :=
  let x := valOf im a
  let y := valOf im b
  let nan := roundTo im .nan .rne false 0
  match x == .nan, y == .nan with
  | true, true => nan
  | true, false => if prop then nan else b
  | false, true => if prop then nan else a
  | false, false => if greater then (if x.lt y then b else a) else (if y.lt x then b else a)

def execFmin (k : Ctl) (f : RRR) (s : State) : Out :=
  floatRRR k f 2 false 2 (fun im _ cs => minMaxCode im false (f.mod == 1) (cs.getD 0 0) (cs.getD 1 0)) s
def execFmax (k : Ctl) (f : RRR) (s : State) : Out :=
  floatRRR k f 2 false 2 (fun im _ cs => minMaxCode im true (f.mod == 1) (cs.getD 0 0) (cs.getD 1 0)) s

/-- The conditions of R173. -/
def fcmpHolds (code : Nat) (x y : Val) : Bool :=
  let un := x == .nan || y == .nan
  match code with
  | 0 => !un && x.eqv y
  | 1 => un || !x.eqv y
  | 2 => !un && x.ltNum y
  | 3 => !un && (x.ltNum y || x.eqv y)
  | 4 => !un && y.ltNum x
  | 5 => !un && (y.ltNum x || x.eqv y)
  | 6 => un
  | _ => !un

/-- The class bits of an element (R174). -/
def classBits (im : Image) (code : Nat) : Nat :=
  (match valOf im code with
    | .nan => 1
    | .inf true => 2
    | .fin true _ _ => 4
    | .zero true => 8
    | .zero false => 16
    | .fin false _ _ => 32
    | .inf false => 64)
  + (match imageCodec im with
    | .float e f _ _ => let c := code % 2 ^ (e + f); if c / 2 ^ f = 0 ∧ c % 2 ^ f ≠ 0 then 128 else 0
    | _ => 0)

/-- A test on elements: a mask by element, or for a P destination the outcome on element 0 (R173, R174). -/
def floatTest (k : Ctl) (f : RRR) (srcs : List Opd) (test : Image → Nat → List Word → Nat → Bool) (s : State) : Out :=
  let d := dstOf f.dcls f.d
  compute k false (fun x => floatShape x f 2 (d.vregs ++ srcs.flatMap (·.vregs)) [f.ty.toNat] true)
    (fun x ok =>
      let im := x.image f.ty.toNat
      let w := descWidth im.desc
      x.fromWords k w d srcs (fun _ ws =>
        if f.dcls = 2 then (if test im w ws 0 then 1 else 0) else pack w (fun i => maskElem w (test im w ws i))) ok) s

def execFcmp (k : Ctl) (f : RRR) (s : State) : Out :=
  floatTest k f (rrrSrcs f 2) (fun im w ws i =>
    fcmpHolds f.tyb.toNat (valOf im (field (ws.getD 0 0) w i)) (valOf im (field (ws.getD 1 0) w i))) s

/-- The mask of FCLASS is B raw, or bits [7:0] of b (R174). -/
def execFclass (k : Ctl) (f : RRR) (s : State) : Out :=
  floatTest k f (rrrSrcs f 2) (fun im w ws i =>
    let mask := if f.bcls = 3 then f.b.toNat else (ws.getD 1 0).toNat % 256
    Nat.land (classBits im (field (ws.getD 0 0) w i)) mask != 0) s

/-- FRND on an element (R170). -/
def roundIntegral (im : Image) (m : RoundMode) (code : Nat) : Nat :=
  let put (v : Exact) : Nat := roundTo im v .rne false 0
  match valOf im code with
  | .nan => put .nan
  | .inf s => put (.inf s)
  | .zero s => put (.zero s)
  | .fin s n e =>
    let v := roundMagInt m.mode s (ratioOf n e) m.bits
    put (if v = 0 then .zero s else .mag s ⟨v, 1⟩)

def execFrnd (k : Ctl) (f : RRR) (s : State) : Out :=
  floatRRR k f 2 false 1 (fun im m cs => roundIntegral im m (cs.getD 0 0)) s

/-- R169: the count is the element of b, sign-extended. -/
def execFscale (k : Ctl) (f : RRR) (s : State) : Out :=
  floatRRR k f 2 false 2 (fun im m cs =>
    m.enc im (exactOf ((srcVal im cs 0).scale (intOfBits true (descWidth im.desc) (cs.getD 1 0))))) s

/-- R171. -/
def execFrcp (k : Ctl) (f : RRR) (s : State) : Out :=
  floatRRR k f 3 true 1 (fun im m cs => m.enc im (rcpExact (srcVal im cs 0))) s
def floatTrans (k : Ctl) (f : RRR) (t : Trans) (s : State) : Out :=
  floatRRR k f 3 true 1 (fun im m cs => transRound im t (srcVal im cs 0) m.mode m.sat m.bits) s
def execFrsq (k : Ctl) (f : RRR) (s : State) : Out := floatTrans k f .rsqrt s
def execFsqrt (k : Ctl) (f : RRR) (s : State) : Out := floatTrans k f .sqrt s
def execFexp2 (k : Ctl) (f : RRR) (s : State) : Out := floatTrans k f .exp2 s
def execFlog2 (k : Ctl) (f : RRR) (s : State) : Out := floatTrans k f .log2 s
def execFsin (k : Ctl) (f : RRR) (s : State) : Out := floatTrans k f .sin s
def execFcos (k : Ctl) (f : RRR) (s : State) : Out := floatTrans k f .cos s
def execFtanh (k : Ctl) (f : RRR) (s : State) : Out := floatTrans k f .tanh s
def execFdiv (k : Ctl) (f : RRR) (s : State) : Out :=
  floatRRR k f 3 true 2 (fun im m cs => m.enc im (divExact (srcVal im cs 0) (srcVal im cs 1))) s

end Sys2Proof.Machine
end

