-- ==== Sys2Proof/Machine/Convert.lean ====
section
/-!
DEFINITION. CVT, CVTI, CVTF, BSCALE and FMTQ (spec/08_float.md, R175 to R180).
-/

namespace Sys2Proof.Machine

/-- Whether a part is legal for ns source and nd destination elements (R175). -/
def partOk (ns nd p : Nat) : Bool :=
  if nd < ns then decide (p * nd < ns) else if ns < nd then decide (p * ns < nd) else p == 0

/-- The destination of a conversion: el i j is the code written to destination element i from source element j (R175). -/
def convertWord (wd ns nd p : Nat) (old : Word) (el : Nat → Nat → Nat) : Word :=
  packN wd nd fun i =>
    if nd < ns then (if i + p * nd < ns then el i (i + p * nd) else 0)
    else if ns < nd then (if p * ns ≤ i ∧ i < p * ns + ns then el i (i - p * ns) else field old wd i)
    else el i i

/-- A conversion from ws-bit to wd-bit elements, both known at issue (R175): more names further sources, whose words
el sees after the source's own. -/
def convert (k : Ctl) (f : RRR) (more : List Opd) (slots : List Nat) (need : View → Bool) (ws wd : View → Nat)
    (el : View → Nat → Nat → List Word → Nat → Nat) (s : State) : Out :=
  let d := dstOf f.dcls f.d
  let srcs := opdOf f.acls f.a :: more
  let p := f.mod.toNat
  compute k false
    (fun x => floatShape x f 4 (d.vregs ++ srcs.flatMap (·.vregs)) slots
      (need x && partOk (64 / ws x) (64 / wd x) p))
    (fun x ok =>
      let ns := 64 / ws x
      let nd := 64 / wd x
      x.result k ok d fun n =>
        let ps := srcs.map (x.opd (ws x) n)
        let old := x.opd 64 n d.asOpd
        stochPoison x f n
          ⟨convertWord (wd x) ns nd p old.val (fun i j => el x n i (ps.map (·.val)) j),
            ps.any (·.poison) || (decide (ns < nd) && old.poison)⟩) s

def View.slotWidth (x : View) (slot : Nat) : Nat := descWidth (x.image slot).desc

/-- Integer type codes (R164): whether signed, and the width. -/
def intTypeSigned (c : BitVec 4) : Bool := decide (c.toNat < 4)
def intTypeWidth (c : BitVec 4) : Nat := 8 * 2 ^ (c.toNat % 4)

/-- R176. -/
def execCvt (k : Ctl) (f : RRR) (s : State) : Out :=
  convert k f [] [f.ty.toNat, f.tyb.toNat] (fun _ => true) (fun x => x.slotWidth f.tyb.toNat) (fun x => x.slotWidth f.ty.toNat)
    (fun x n i ws j =>
      let src := x.image f.tyb.toNat
      (x.rounding f n i).enc (x.image f.ty.toNat) (exactOf (valOf src (field (ws.getD 0 0) (descWidth src.desc) j)))) s

/-- R177. -/
def execCvti (k : Ctl) (f : RRR) (s : State) : Out :=
  convert k f [] [f.ty.toNat] (fun _ => true) (fun _ => intTypeWidth f.tyb) (fun x => x.slotWidth f.ty.toNat)
    (fun x n i ws j => (x.rounding f n i).enc (x.image f.ty.toNat)
      (exactOf (valOfInt (elem (intTypeSigned f.tyb) (intTypeWidth f.tyb) (ws.getD 0 0) j)))) s

/-- R178. -/
def execCvtf (k : Ctl) (f : RRR) (s : State) : Out :=
  convert k f [] [f.tyb.toNat] (fun _ => true) (fun x => x.slotWidth f.tyb.toNat) (fun _ => intTypeWidth f.ty)
    (fun x n i ws j =>
      let src := x.image f.tyb.toNat
      let m := x.rounding f n i
      roundToInt (intTypeSigned f.ty) (intTypeWidth f.ty)
        (exactOf (valOf src (field (ws.getD 0 0) (descWidth src.desc) j))) m.mode m.sat m.bits) s

/-- The value of a block scale code: E8M0 (c = 0) or E4M3 (R46, R179). -/
def scaleVal (c code : Nat) : Val :=
  if c = 0 then decodeCode .e8m0 code else decodeCode (.float 4 3 7 .topNan) code

/-- R179: the scale is B raw, or bits [7:0] of b. -/
def execBscale (k : Ctl) (f : RRR) (s : State) : Out :=
  convert k f [opdOf f.bcls f.b] [f.ty.toNat, f.tyb.toNat] (fun x => decide (x.slotWidth f.tyb.toNat ≤ 8))
    (fun x => x.slotWidth f.tyb.toNat) (fun x => x.slotWidth f.ty.toNat)
    (fun x n i ws j =>
      let src := x.image f.tyb.toNat
      let sc := if f.bcls = 3 then f.b.toNat else (ws.getD 1 0).toNat % 256
      (x.rounding f n i).enc (x.image f.ty.toNat)
        (exactOf ((valOf src (field (ws.getD 0 0) (descWidth src.desc) j)).mul (scaleVal f.c.toNat sc)))) s

/-- R180. -/
def execFmtq (k : Ctl) (f : RRR) (s : State) : Out :=
  let d := dstOf f.dcls f.d
  compute k true (fun _ => Shape.plain [4] d.vregs)
    (fun x ok => x.result k ok d (fun _ => ⟨slotWordOf (x.core.slot f.tyb.toNat), false⟩)) s

end Sys2Proof.Machine
end

