-- ==== Sys2Proof/Machine/Discard.lean ====
section
/-!
DEFINITION. Held entries of a revocable or redundant group (R210, R211): what they count, and what ends a group without
effect: the discard of a group (R98, R349, R350, R408) and the overflow of its held stores (R214).
-/

namespace Sys2Proof.Machine

/-- The sectors that held entries count: each written sector once, each deferred reduction one more (R214, R407). -/
def heldSectors (hs : List Held) : Nat :=
  ((hs.filter (·.red.isNone)).map (fun h => (h.write.tgt, h.write.sector))).eraseDups.length
    + (hs.filter (·.red.isSome)).length

/-- 4 MiB in sectors (R210). -/
def heldLimit : Nat := 131072

/-- The items a group has fetched and not closed (R349): its lanes' last ones, and for a redundant group all it has taken, for
nothing of it commits before its retirement (R486). -/
def Group.openItems (g : Group) : List (Nat × Nat) :=
  g.taken ++ (g.courses.flatMap (fun c => (List.range 32).filterMap (fun n => (c.lane n).item))).eraseDups

/-- What a discard gives back to the launch: consumed and bound records keep their ages and return to PENDING, held
records and open runs become FREE, open items go to the tail of the return list (R349, R350). owned marks records and items
that may run only on owned cores (R214). -/
def giveBack (g : Nat) (items : List (Nat × Nat)) (owned : Bool) (l : Launch) : Launch :=
  let l := freeRecords l (fun r => r.grp == some g && r.state != .bound && r.state != .consumed)
  let l := mapRecords l (fun r => r.grp == some g)
    (fun r => { r with state := .pending, grp := none, ownedOnly := r.ownedOnly || owned })
  { l with fifo := l.fifo.filter (fun q => q.grp != g), pubs := l.pubs.filter (fun p => p.grp != g),
           returns := l.returns ++ items.map (fun i => ⟨i.1, i.2, owned⟩) }

/-- Discard a group (R98): nothing of it is performed that was held, and its work returns to its launch. -/
def discardGroup (s : State) (g : Nat) (owned : Bool) : State :=
  match s.group g with
  | none => s
  | some grp =>
    if !grp.alive then s
    else
      let s := dropToken s (s.groupPart grp) (fun e => e.1 == g)
      let s := leaveCore s g grp
      let s := releaseReserved s grp
      let s := s.updGroup g (fun x => { x with
        state := .discarded, held := [], halting := false, overflow := owned
        courses := x.courses.map (fun c => {
          c.mapLanes (fun _ l => l.gone) with
          ended := true, fifo := [], inflight := [] }) })
      let s := s.updLaunch grp.launch (giveBack g grp.openItems owned)
      launchCheck ((noteSave s g grp).post (.rresGrant grp.launch)) grp.launch

/-- The held stores of a group would exceed its limit (R214): a revocable group is discarded and runs again on owned
cores, a redundant pair is terminated with an error record. -/
def overflowGroup (s : State) (g : Nat) : State :=
  match s.group g with
  | none => s
  | some grp =>
    match grp.mode with
    | .redundant _ _ => terminateWith s g 5 0 0 0 0xFF 0xFF
    | _ => discardGroup s g true

/-- Hold one more entry of a group, in the order of arrival at its home (R210, R211). -/
def holdEntry (s : State) (g : Nat) (h : Held) : State :=
  match s.group g with
  | none => s
  | some grp =>
    if !grp.alive then s
    else if heldLimit < heldSectors (grp.held ++ [h]) then overflowGroup s g
    else s.setGroup g { grp with held := grp.held ++ [h] }

end Sys2Proof.Machine
end

