-- ==== Sys2Proof/Machine/Access.lean ====
section
/-!
DEFINITION. Memory accesses of a lane (spec/09_memory_model.md, spec/10_memory_instructions.md): the bits an access
covers (R218), its space checks (R181 to R185), its places after translation (R220), what a load of a sector returns
(R187, R197, R212), and stores on their way through the course's FIFO to their homes (R198, R210, R211).
-/

namespace Sys2Proof.Machine

/-! ### The bits an access covers (R80, R218, R219) -/

/-- An access: its space (0 .G, 1 .S, 2 .C, 3 .P), its byte address, its first bit modulo 2^67, its bits and its
alignment in bytes. -/
structure Access where
  space : Nat
  ea : Nat
  bit : Nat
  nbits : Nat
  align : Nat
  deriving DecidableEq, Repr

/-- The element width of a packed width code 0x21 to 0x3F (R80). -/
def packedWidth (code : Nat) : Option Nat := if 0x21 ≤ code then some (code - 0x1F) else none

/-- How many V registers an access of a width code moves (R80). -/
def widthRegs (code : Nat) : Nat := if code = 4 then 2 else if code = 5 then 4 else 1

def baseOpd (f : MEM) : Opd := if f.bcls = 1 then .s f.base.toNat else .v f.base.toNat

/-- The access of LD, ST, PREF and PROBE in a lane (R218). -/
def View.memAccess (x : View) (f : MEM) (n : Nat) : Access :=
  let base := (x.opd 64 n (baseOpd f)).val + f.off.signExtend 64
  let index : Word := if f.ixen = 1 then (x.vreg n f.index.toNat).val else 0
  match packedWidth f.width.toNat with
  | some w =>
    let b := (8 * base.toNat + index.toNat * w) % 2 ^ 67
    ⟨f.space.toNat, b / 8, b, 64 / w * w, 1⟩
  | none =>
    let a := (base + index).toNat
    ⟨f.space.toNat, a, 8 * a, 8 * 2 ^ f.width.toNat, 2 ^ f.width.toNat⟩

/-- The width in bits of an atomic type (R80, R218): I32 N32 I64 N64 F32 F16 B16 F64. -/
def atomBits (ty : Nat) : Nat :=
  match ty with
  | 0 => 32 | 1 => 32 | 4 => 32 | 5 => 16 | 6 => 16 | _ => 64

/-- The access of ATOM, RED and CAS in a lane (R218): INDEX is no part of the address. -/
def View.atomAccess (x : View) (f : MEM) (n : Nat) : Access :=
  let a := ((x.opd 64 n (baseOpd f)).val + f.off.signExtend 64).toNat
  let w := atomBits f.width.toNat
  ⟨f.space.toNat, a, 8 * a, w, w / 8⟩

/-- The address registers of a lane are poisoned (R220). -/
def View.addrPoison (x : View) (f : MEM) (indexed : Bool) (n : Nat) : Bool :=
  (x.opd 64 n (baseOpd f)).poison || (indexed && f.ixen == 1 && (x.vreg n f.index.toNat).poison)

/-! ### Space checks (R181 to R185) -/

/-- Members of the issuing group's cluster set, itself included (R107, R184). -/
def State.setMembers (s : State) (g : Nat) (grp : Group) : List Group :=
  match grp.setId with
  | none => [grp]
  | some _ => (s.groups.filter (fun e => e.1 == g || (e.2.sameSet grp && e.2.alive))).map (·.2)

/-- A byte of .C space that the group may reach (R184): on a core of its cluster that its partition owns. A core that it has
only borrowed stays in the lender's CORES (R451) and is not owned. -/
def clusterByteOk (s : State) (x : View) (b : Nat) : Bool :=
  let core := x.sel.core / 192 * 192 + b / 2 ^ 20 % 256
  let off := b % 2 ^ 20
  decide (b < 2 ^ 28) && decide (b / 2 ^ 20 % 256 < 192)
    && (s.part (s.groupPart x.grp)).cores.contains core
    && (s.setMembers x.sel.grp x.grp).any (fun h =>
      h.core == some core && decide (h.allocBase ≤ off) && decide (off < h.allocBase + 1024 * h.scratchKiB))

/-- The checks of R182 to R185 on every byte of an access. -/
def spaceOk (s : State) (x : View) (a : Access) : Bool :=
  let first := a.bit / 8
  let last := (a.bit + a.nbits - 1) / 8
  match a.space with
  | 0 => canonical (first % 2 ^ 64) && canonical (last % 2 ^ 64)
  | 1 => decide (last < 1024 * x.grp.scratchKiB)
  | 2 => (List.range (last + 1 - first)).all (fun i => clusterByteOk s x (first + i))
  | _ => decide (last < x.grp.psize)

/-- A .C access outside the issuing group's own allocation (R210). -/
def outsideOwn (x : View) (a : Access) : Bool :=
  let first := a.bit / 8
  let last := (a.bit + a.nbits - 1) / 8
  a.space == 2 && !(first / 2 ^ 20 == x.sel.core % 192 && decide (x.grp.allocBase ≤ first % 2 ^ 20)
    && decide (last % 2 ^ 20 < x.grp.allocBase + 1024 * x.grp.scratchKiB))

/-! ### Pieces (R185, R220) -/

/-- Cut n bits from bit address b at the multiples of unit: (address, bits, offset in the value). -/
def cutBits (unit b n : Nat) : List (Nat × Nat × Nat) :=
  if n = 0 then []
  else (List.range ((b + n - 1) / unit + 1 - b / unit)).map fun j =>
    let lo := max b (unit * (b / unit + j))
    let hi := min (b + n) (unit * (b / unit + j + 1))
    (lo, hi - lo, lo - b)

/-- The virtual byte address of a .P offset of a lane (R185). -/
def privVa (g : Group) (course lane off : Nat) : Nat :=
  (g.pbase + off / 8 * 8 * (32 * g.courses.length) + (course * 32 + lane) * 8 + off % 8) % 2 ^ 64

/-- The parts of a translated access: (virtual byte address, bit in the byte, bits, offset in the value). -/
def virtParts (g : Group) (course lane : Nat) (a : Access) : List (Nat × Nat × Nat × Nat) :=
  if a.space = 0 then
    (cutBits 256 a.bit a.nbits).map fun e => (e.1 / 8 % 2 ^ 64, e.1 % 8, e.2.1, e.2.2)
  else
    (cutBits 64 a.bit a.nbits).map fun e => (privVa g course lane (e.1 / 8), e.1 % 8, e.2.1, e.2.2)

/-- The distinct pages of a list of addresses, in order of first use. -/
def pagesOf : List Nat → List Nat
  | [] => []
  | v :: vs => let p := v / 4096 * 4096; p :: (pagesOf vs).filter (· != p)

/-- How an access resolves (R220, R221). -/
inductive Resolved where
  | ok (ps : List Piece)
  | held (requests : List Nat)
  | bad (c : Cause)
  deriving DecidableEq, Repr

/-- The piece at a physical byte address. -/
def pieceAt (t : Tgt) (pa bit nbits off : Nat) : Piece := ⟨t, pa / 32, pa % 32 * 8 + bit, nbits, off⟩

/-- Resolve an access of a lane of a group: translation of every page for .G and .P, a fixed place for .S and .C. -/
def resolve (s : State) (g : Group) (core course lane : Nat) (a : Access) (need : Need) (source : Nat) : Resolved × State :=
  match a.space with
  | 1 => (.ok ((cutBits 256 (8 * g.allocBase + a.bit) a.nbits).map fun e =>
      pieceAt (.scratch core) (e.1 / 8) (e.1 % 8) e.2.1 e.2.2), s)
  | 2 => (.ok ((cutBits 256 a.bit a.nbits).map fun e =>
      pieceAt (.scratch (core / 192 * 192 + e.1 / 2 ^ 23 % 256)) (e.1 / 8 % 2 ^ 20) (e.1 % 8) e.2.1 e.2.2), s)
  | _ =>
    let vs := virtParts g course lane a
    let pages := pagesOf (vs.map (·.1))
    match translateList s (laneReq s g need source) pages with
    | (.ok places, s) =>
      let look (va : Nat) : Tgt × Nat := ((pages.zip places).find? (fun e => e.1 == va / 4096 * 4096)).elim (.hbm, 0) (·.2)
      (.ok (vs.map fun e => let p := look e.1; pieceAt p.1 (p.2 + e.1 % 4096) e.2.1 e.2.2.1 e.2.2.2), s)
    | (.fault rs, s) => (.held rs, s)
    | (.fatal c, s) => (.bad c, s)

/-! ### Bits of sectors -/

/-- The mask of n bits from lo in a sector. -/
def bitMask (lo n : Nat) : BitVec 256 := BitVec.ofNat 256 ((2 ^ n - 1) * 2 ^ lo)

/-- The masked write of a piece of a value. -/
def Piece.write (p : Piece) (v : Nat) (poison : Bool) : SecWrite :=
  ⟨p.tgt, p.sector, BitVec.ofNat 256 (v / 2 ^ p.off % 2 ^ p.nbits * 2 ^ p.lo), bitMask p.lo p.nbits, poison⟩

/-- The bits of a piece in its sector, at their place in the value. -/
def Piece.read (p : Piece) (d : BitVec 256) : Nat := d.toNat / 2 ^ p.lo % 2 ^ p.nbits * 2 ^ p.off

/-- A sector as read, with its poison. -/
structure SecView where
  data : BitVec 256
  poison : Bool
  deriving DecidableEq, Repr

/-- A write laid over a sector as read (R191, R197). -/
def SecView.over (v : SecView) (t : Tgt) (k : Nat) (w : SecWrite) : SecView :=
  if w.tgt = t ∧ w.sector = k then
    ⟨mergeBits v.data w.data w.mask,
      if w.poison then true else if w.mask = BitVec.allOnes 256 then false else v.poison⟩
  else v

/-- The sector at its home. -/
def homeSector (s : State) (t : Tgt) (k : Nat) : SecView := ⟨(s.mem t).sector k, (s.mem t).isPoisoned k⟩

/-- The lane's own stores still in its course's FIFO, laid over a sector (R197). -/
def fifoOver (c : Course) (lane : Nat) (t : Tgt) (k : Nat) (v : SecView) : SecView :=
  c.fifo.foldl (fun v e => if e.lane = lane then e.writes.foldl (fun v w => v.over t k w) v else v) v

/-- A group's held stores, laid over a sector (R212); deferred reductions are not performed yet. -/
def heldOver (g : Group) (t : Tgt) (k : Nat) (v : SecView) : SecView :=
  g.held.foldl (fun v h => if h.red.isNone then v.over t k h.write else v) v

/-- The group holds its .G and .P stores (R210). -/
def Group.holds (g : Group) : Bool := g.mode != .ordinary

/-- The sectors an L1 of 128 KiB holds (R20). -/
def l1Sectors : Nat := 4096

/-- Put a sector into a core's L1, which keeps its sectors by address; a full one gives up another, which the free value
names (R20). -/
def l1Insert (s : State) (core k : Nat) (d : BitVec 256) : State :=
  let c := s.core core
  if (alGet c.l1 k).isSome || decide (c.l1.length < l1Sectors) then s.setCore core { c with l1 := alSet c.l1 k d }
  else
    let (i, s) := s.takeFree
    s.setCore core { c with l1 := alSet (c.l1.eraseIdx (i % c.l1.length)) k d }

/-- What a home has of a sector replaces the core's L1 copy, when it is clean data of device HBM (R187, R373). -/
def keepL1 (s : State) (core k : Nat) : State :=
  let c := s.core core
  if s.hbm.isPoisoned k then s.setCore core { c with l1 := alDel c.l1 k }
  else l1Insert s core k (s.hbm.sector k)

/-- A sector read at its home goes into the core's L1 (R187, R373). -/
def fillL1 (s : State) (core k : Nat) : State := keepL1 (s.l2Access k .read) core k

/-- What a load of a sector by a lane returns (R187, R188, R197, R201, R212). A load that may use the L1 returns the
core's copy or reads the home, as the free value decides (log entry 10); what is read at the home goes into the L1 when
it is clean data of device HBM. A group that holds its stores reads either under them. -/
def loadSector (s : State) (x : View) (lane : Nat) (weak : Bool) (t : Tgt) (k : Nat) : SecView × State :=
  let g := (s.group x.sel.grp).getD x.grp
  let own (v : SecView) : SecView := fifoOver (g.course x.sel.course) lane t k (if g.holds then heldOver g t k v else v)
  let home := homeSector s t k
  if t ≠ .hbm then (own home, s)
  else
    match alGet (s.core x.sel.core).l1 k with
    | some d =>
      if weak then
        let (bit, s) := s.takeFree
        if bit % 2 = 1 then (own ⟨d, false⟩, s) else (own home, fillL1 s x.sel.core k)
      else (own home, fillL1 s x.sel.core k)
    | none => (own home, fillL1 s x.sel.core k)

/-- A piece beyond a link port is a read that the port carries (R453, R463). -/
def readFar (s : State) (p : Piece) : State :=
  match p.tgt with
  | .hbm => s
  | _ => s.readAt p.tgt (32 * p.sector + p.lo / 8) ((p.lo % 8 + p.nbits + 7) / 8)

/-- The value of an access, with the poison of each piece (offset and bits): every piece read in turn. -/
def loadPieces (s : State) (x : View) (lane : Nat) (weak : Bool) :
    List Piece → (Nat × List (Nat × Nat × Bool)) × State
  | [] => ((0, []), s)
  | p :: ps =>
    let (v, s) := loadSector (readFar s p) x lane weak p.tgt p.sector
    let ((rest, pois), s) := loadPieces s x lane weak ps
    ((p.read v.data + rest, (p.off, p.nbits, v.poison) :: pois), s)

/-- Whether a register of a loaded value, 64 bits from 64·r, receives poison (R225). -/
def regPoison (pois : List (Nat × Nat × Bool)) (r : Nat) : Bool :=
  pois.any (fun e => e.2.2 && decide (e.1 < 64 * r + 64) && decide (64 * r < e.1 + e.2.1))

/-- Invalidate a core's L1 (R187). -/
def clearL1 (s : State) (core : Nat) : State := s.setCore core { s.core core with l1 := [] }

/-- An acquire at CLUSTER scope or wider clears the L1 (R187, R201); narrower ones need nothing more here. -/
def acquireAt (s : State) (core scope : Nat) : State := if 2 ≤ scope then clearL1 s core else s

/-! ### Stores to their homes (R187, R191, R198, R210) -/

/-- A store accepted at its home: performed, or held for its group's commit (R198, R210, R211). .S stores and .C stores
are never held. -/
def acceptStore (s : State) (g c : Nat) (e : FifoStore) : State :=
  match s.group g with
  | none => s
  | some grp =>
    s.paid (groupOwner s g) fun s => e.writes.foldl (fun s w =>
      match w.tgt, grp.holds with
      | .scratch _, _ => s.applyWrite w
      | _, true => holdEntry s g ⟨c, e.lane, w, none, e.item⟩
      | _, false => homeWrite s (grp.core.getD 0) w) s

/-- The store at the head of a course's FIFO leaves it (R198) and is at its home, in one step: stores of one course reach
every other agent in issue order, which R201 permits and does not ask for of weak ones (log entry 112). -/
def acceptOne (s : State) (g c : Nat) : State :=
  match s.group g with
  | none => s
  | some grp =>
    match (grp.course c).fifo with
    | [] => s
    | e :: rest => acceptStore (s.updCourse g c (fun x => { x with fifo := rest })) g c e

/-- Every store in a course's FIFO leaves it, oldest first. -/
def drainCourse (s : State) (g c : Nat) : State :=
  match s.group g with
  | none => s
  | some grp => (grp.course c).fifo.foldl (fun s _ => acceptOne s g c) s

/-- A course's FIFO holds a store to a sector. -/
def Course.stores (c : Course) (t : Tgt) (k : Nat) : Bool :=
  c.fifo.any (fun e => e.writes.any (fun w => w.tgt == t && w.sector == k))

/-- Every course of a group drains its FIFO. -/
def drainAll (s : State) (g : Nat) : State :=
  match s.group g with
  | none => s
  | some grp => (List.range grp.courses.length).foldl (fun s c => drainCourse s g c) s

/-- A lane's store enters its course's FIFO (R198), with the item a revocable lane's store carries (R349). -/
def pushStore (s : State) (g c n : Nat) (ws : List SecWrite) : State :=
  (s.updCourse g c (fun x => { x with fifo := x.fifo ++ [⟨n, ws, (x.lane n).item⟩] })).post (.storeAcceptedAtHome g c)

/-- The token holder's accesses mark their sectors (R306): its loads, stores, atomics, spills and fills; what engines and windows
access for it sets no mark (log entry 145). -/
def markSectors (s : State) (part : Nat) (who : Nat × Nat × Nat) (ps : List Piece) : State :=
  s.updPart part fun p =>
    if p.token = some who then
      { p with marks := (ps.filter (fun q => q.tgt == .hbm)).foldl (fun m q => setInsert q.sector m) p.marks }
    else p

/-- A result that comes over link ports says so: it is lost if a port fails before it is delivered (R466). -/
def RegWrite.over (ps : List Piece) (w : RegWrite) : RegWrite :=
  let ts := ((ps.map (·.tgt)).filter (fun t => match t with
    | .host => true
    | .peer _ => true
    | _ => false)).eraseDups
  if ts.isEmpty then w
  else match w with
    | .v n r x => .far n r x false ts
    | .reserve n r x => .far n r x true ts
    | w => w

/-! ### Atomic operations (R227 to R229) -/

inductive AtomOp where
  | add | min | max | and | or | xor | xchg | cas
  deriving DecidableEq, Repr

/-- The built-in format of a float type (R227): FORMAT_ID of R59. -/
def atomFormat (ty : Nat) : Option Nat :=
  match ty with
  | 4 => some 0x02 | 5 => some 0x03 | 6 => some 0x04 | 7 => some 0x01
  | _ => none

/-- The new value of R228 at the type's width; y is the swap value of a CAS. -/
def atomNew (op : AtomOp) (ty old x y : Nat) : Nat :=
  let w := atomBits ty
  let signed := ty == 0 || ty == 2
  let less (a b : Nat) : Bool := decide (intOfBits signed w a < intOfBits signed w b)
  match op with
  | .add =>
    match atomFormat ty with
    | some id =>
      let im := catalogueImage id
      roundTo im (exactOf ((valOf im old).add false (valOf im x))) .rne false 0
    | none => (old + x) % 2 ^ w
  | .min => if less x old then x else old
  | .max => if less old x then x else old
  | .and => Nat.land old x
  | .or => Nat.lor old x
  | .xor => Nat.xor old x
  | .xchg => x
  | .cas => if old = x then y else old

/-- An operation as a deferred reduction records it (R224). -/
def AtomOp.code : AtomOp → Nat
  | .add => 0 | .min => 1 | .max => 2 | .and => 3 | .or => 4 | .xor => 5 | .xchg => 6 | .cas => 7
def AtomOp.ofCode : Nat → AtomOp
  | 0 => .add | 1 => .min | 2 => .max | 3 => .and | 4 => .or | 5 => .xor | 6 => .xchg | _ => .cas

/-- Whether PCIe AtomicOps carry the operation to host memory (R228). -/
def hostAtomOk (op : AtomOp) (ty : Nat) : Bool :=
  match op with
  | .add => decide (ty < 4)
  | .xchg | .cas => atomBits ty == 32 || atomBits ty == 64
  | _ => false

/-- Perform an atomic at its home (R228): the old value and its sector's poison. The issuing core's L1 drops its copy.
xp and yp are the operands' poison; one that returns its value is no posted write. -/
def atomAt (s : State) (core : Nat) (op : AtomOp) (ty : Nat) (p : Piece) (x y : Nat) (xp yp returns : Bool) :
    (Nat × Bool) × State :=
  let v := homeSector s p.tgt p.sector
  let old := v.data.toNat / 2 ^ p.lo % 2 ^ p.nbits
  let new := atomNew op ty old x y
  let poison := v.poison || (if op = .cas then yp else xp)
  let s := s.readAt p.tgt (32 * p.sector + p.lo / 8) (p.nbits / 8)
  let s := if op = .cas ∧ old ≠ x then s
    else s.sendWrite (!returns) ⟨p.tgt, p.sector, BitVec.ofNat 256 (new % 2 ^ p.nbits * 2 ^ p.lo), bitMask p.lo p.nbits, poison⟩
  let s := match p.tgt with
    | .hbm => s.setCore core { s.core core with l1 := alDel (s.core core).l1 p.sector }
    | _ => s
  ((old, v.poison), s)

end Sys2Proof.Machine
end

