-- ==== Sys2Proof/Machine/Region.lean ====
section
/-!
DEFINITION. What a memory access shares with windows and with transactions: window regions and their valid bits (R237,
R240), first touches (R241), loads and writes meeting a window (R244, R245), and the read and write logs of an ACTIVE
transaction (R296 to R298, R306).
-/

namespace Sys2Proof.Machine

/-! ### Window regions (R237, R240) -/

def vget (v : Vector Nat 4) (i : Nat) : Nat := if h : i < 4 then v[i] else 0

/-- Row size RB and window size WSIZE in bytes (R237). -/
def Tensor.rowBytes (t : Tensor) : Nat := 32 * ((vget t.box 0 * t.width + 255) / 256)
def Tensor.bytes (t : Tensor) : Nat := t.rowBytes * vget t.box 1 * vget t.box 2 * vget t.box 3

def Window.isBound (w : Window) : Bool := w.state != .unbound

/-- The number of the window's sectors (R237). -/
def Window.sectors (w : Window) : Nat := w.tensor.bytes / 32

/-- The sector of the core's scratchpad that holds sector 0 of a window. -/
def Group.winFirst (g : Group) (w : Window) : Nat := (g.allocBase + w.reg) / 32

def Group.window (g : Group) (i : Nat) : Window := g.windows.getD i Window.unbound
def State.updWindow (s : State) (g i : Nat) (f : Window → Window) : State :=
  s.updGroup g (fun x => { x with windows := x.windows.modify i f })

/-- The valid bit of a sector of a core's scratchpad (R240). -/
def Core.sectorValid (c : Core) (k : Nat) : Bool := c.valid.getLsbD k

/-- Set or clear n valid bits from sector k. -/
def setValid (s : State) (core k n : Nat) (v : Bool) : State :=
  let m : BitVec 12288 := BitVec.ofNat 12288 ((2 ^ n - 1) * 2 ^ k)
  s.setCore core { s.core core with valid := if v then (s.core core).valid ||| m else (s.core core).valid &&& ~~~m }

/-- The bound window whose region holds a sector of a core's scratchpad: its group, index and window. -/
def windowAt (s : State) (core k : Nat) : Option (Nat × Nat × Window) :=
  s.groups.findSome? fun e =>
    if e.2.core = some core ∧ e.2.state = .resident then
      (List.range e.2.windows.length).findSome? fun i =>
        let w := e.2.window i
        if w.isBound ∧ e.2.winFirst w ≤ k ∧ k < e.2.winFirst w + w.sectors then some (e.1, i, w) else none
    else none

/-- The scratchpad sectors of an access, each with its core. -/
def scratchSectors (ps : List Piece) : List (Nat × Nat) :=
  ps.filterMap fun p => match p.tgt with
    | .scratch c => some (c, p.sector)
    | _ => none

/-- The sectors of bound windows whose valid bit is clear (R244). -/
def missingSectors (s : State) (ss : List (Nat × Nat)) : List (Nat × Nat) :=
  ss.filter fun e => (windowAt s e.1 e.2).isSome && !(s.core e.1).sectorValid e.2

/-- A write that R245 refuses: a missing sector of a bound window, or any byte of a FLUSHING one. -/
def windowRefuses (s : State) (ss : List (Nat × Nat)) : Bool :=
  ss.any fun e => match windowAt s e.1 e.2 with
    | some (_, _, w) => w.state == .flushing || !(s.core e.1).sectorValid e.2
    | none => false

/-! ### Holds that end (R115, R221, R244) -/

/-- Packets of a queue that have issued and are not in its ring. -/
def State.postedTo (s : State) (q : Nat) : Nat := (s.posts.filter (fun p => p.queue == q)).length

/-- A packet may be posted to the ring: WIDX − RIDX, the packets on their way counted, is not the ring's size (R432). -/
def Queue.room (u : Queue) (posted : Nat) : Bool := (u.widx - u.ridx).toNat + posted != u.size

/-- A held lane whose reason is over: a page request it waits on has its reply (R389), no sector it needs is still being filled, the
code page it fetches from has left LOADING (R326), or the ring it posts to has room (R432). -/
def holdOver (s : State) (h : Hold) : Bool :=
  match h with
  | .fault rs => rs.isEmpty || rs.any (fun r => !s.reqs.any (fun q => q.id == r))
  | .window core ks => (missingSectors s (ks.map (fun k => (core, k)))).all (fun e =>
      match windowAt s e.1 e.2 with
      | some (_, _, w) => w.state == .absent
      | none => true)
  | .code o k => match alGet s.objects o with
    | some b => match b.pages.getD k .failed with
      | .absent => false
      | .loading => false
      | _ => true
    | none => true
  | .qpost q => match alGet s.queues q with
    | some u => u.room (s.postedTo q)
    | none => true
  | _ => false

/-- Post the replay of every lane of a group whose hold is over. -/
def wakeGroup (s : State) (g : Nat) : State :=
  match s.group g with
  | none => s
  | some grp =>
    (List.range grp.courses.length).foldl (fun s c =>
      (List.range 32).foldl (fun s n =>
        let l := (grp.course c).lane n
        if l.live && l.hold != .none && holdOver s l.hold then s.post (.laneReplay g c n) else s) s) s

def wakeAll (s : State) : State :=
  s.groups.foldl (fun s e => if e.2.state = .resident then wakeGroup s e.1 else s) s

/-! ### The logs of an ACTIVE transaction (R296 to R298) -/

/-- An abort that an instruction raises: its code, the USER of a TXABORT, the trap cause it reports and PF (R301,
R302). -/
structure AbortInfo where
  code : Nat
  user : Nat
  cause : Nat
  pf : Bool
  deriving DecidableEq, Repr

/-- The write-log bits of a sector. -/
def Tx.wlogAt (t : Tx) (k : Nat) : Option SecWrite := t.wlog.find? (fun w => w.sector == k)
def Tx.rlogAt (t : Tx) (k : Nat) : Option RLog := t.rlog.find? (fun r => r.sector == k)

/-- The sectors of an access that need a new read-log entry (R296). -/
def Tx.newReads (t : Tx) (ps : List Piece) : List Nat :=
  (ps.filterMap fun p =>
    let covered := match t.wlogAt p.sector with
      | some w => bitMask p.lo p.nbits &&& ~~~w.mask == 0
      | none => false
    if covered || (t.rlogAt p.sector).isSome then none else some p.sector).eraseDups

/-- The sectors of an access that need a new write-log entry (R297). -/
def Tx.newWrites (t : Tx) (ps : List Piece) : List Nat :=
  (ps.filterMap fun p => if (t.wlogAt p.sector).isSome then none else some p.sector).eraseDups

/-- A sector as an ACTIVE lane sees it: the write log over the read log (R296). -/
def Tx.sector (t : Tx) (k : Nat) : BitVec 256 :=
  let r := ((t.rlogAt k).map (·.data)).getD 0
  match t.wlogAt k with
  | some w => mergeBits r w.data w.mask
  | none => r

/-- Merge a write into the write log (R297). -/
def Tx.logWrite (t : Tx) (w : SecWrite) : Tx :=
  if (t.wlogAt w.sector).isSome then
    { t with wlog := t.wlog.map (fun e => if e.sector = w.sector
        then { e with data := mergeBits e.data w.data w.mask, mask := e.mask ||| w.mask } else e) }
  else { t with wlog := t.wlog ++ [w] }

/-- A sector is marked: the marks are hashed, and how is not said (R306). -/
def Part.marked (p : Part) (sector : Nat) : Bool := p.marks.any (fun m => m == sector || Config.markHash m == Config.markHash sector)

/-- Another lane holds the token and one of the sectors is marked (R306). -/
def meetsMark (s : State) (part : Nat) (who : Nat × Nat × Nat) (sectors : List Nat) : Bool :=
  match (s.part part).token with
  | some h => h != who && sectors.any (s.part part).marked
  | none => false

/-- The sectors a logged read adds to the read log, as they are at their homes under the lane's own earlier stores
(R296). -/
def txViews (s : State) (x : View) (n : Nat) (ps : List Piece) : List (Nat × SecView) :=
  let c := ((s.group x.sel.grp).getD x.grp).course x.sel.course
  ((c.lane n).tx.newReads ps).map (fun k => (k, fifoOver c n .hbm k (homeSector s .hbm k)))

/-- A logged access of an ACTIVE lane: the lane's logs with the reads it needs, or its abort, first of POISON,
IRREVOCABLE_HELD, READ_OVERFLOW and WRITE_OVERFLOW (R296 to R298, R302). dataPoison: it logs poisoned data. -/
def txAccess (s : State) (x : View) (n : Nat) (ps : List Piece) (reads writes dataPoison : Bool) : Except AbortInfo Tx :=
  let g := (s.group x.sel.grp).getD x.grp
  let c := g.course x.sel.course
  let t := (c.lane n).tx
  let views := if reads then txViews s x n ps else []
  if ps.any (fun p => p.tgt != .hbm) then .error ⟨5, 0, 0x11, false⟩
  else if views.any (fun v => v.2.poison) || dataPoison then .error ⟨8, 0, 0, false⟩
  else if meetsMark s (s.groupPart g) (x.sel.grp, x.sel.course, n) (ps.map (·.sector)) then .error ⟨9, 0, 0, false⟩
  else if 32 < t.rlog.length + views.length then .error ⟨2, 0, 0, false⟩
  else if writes && decide (16 < t.wlog.length + (t.newWrites ps).length) then .error ⟨3, 0, 0, false⟩
  else .ok { t with rlog := t.rlog ++ views.map (fun v => ⟨v.1, v.2.data⟩) }

/-- The sectors that a logged read has read at their homes go into the L1 (R187, R296). -/
def txFill (s : State) (x : View) (n : Nat) (ps : List Piece) : State :=
  (txViews s x n ps).foldl (fun s v => fillL1 s x.sel.core v.1) s

/-- The value an ACTIVE lane reads (R296). -/
def txValue (t : Tx) (ps : List Piece) : Nat := (ps.map (fun p => p.read (t.sector p.sector))).sum

/-- The new read-log entries of an access as strong reads of whole sectors (R194, R296). -/
def txReads (s : State) (x : View) (n : Nat) (ps : List Piece) : List Piece :=
  if ps.all (·.tgt == .hbm) then (txViews s x n ps).map (fun v => ⟨.hbm, v.1, 0, 256, 0⟩) else []

/-! ### The mixed-size debug bit (R194) -/

/-- The mixed-size debug bit of a group's context (R194, R397). -/
def groupMixDebug (s : State) (g : Group) : Bool := ((alGet s.ctxs (s.groupCtx g)).map (·.mixdbg)).getD false
def mixDebug (s : State) (x : View) : Bool := groupMixDebug s x.grp

/-- A piece overlaps a record of another offset or width (R194). -/
def mixClash (p : Piece) (r : Nat × Nat × Nat) : Bool :=
  r.1 == p.sector && (r.2.1 != p.lo || r.2.2 != p.nbits) && decide (p.lo < r.2.1 + r.2.2) && decide (r.2.1 < p.lo + p.nbits)

/-- The record of a strong access to a sector (R194): each piece of an access is one, a .W128 or .W256 access whole (log
entry 113). -/
def mixRecord (s : State) (p : Piece) : State :=
  { s with accessRecords := (p.sector, p.lo, p.nbits) :: s.accessRecords.filter (fun r => r.1 != p.sector) }

/-- A strong access to device memory meets a record of another offset or width. A record is there as long as its sector is
in its slice. -/
def mixMeets (s : State) (ps : List Piece) : Bool :=
  ps.any (fun p => p.tgt == .hbm && s.l2Holds p.sector && s.accessRecords.any (mixClash p))

/-- The mixed-size check of a strong access (R194): whether it passes, and the records after it, which follow only an access
that is performed. -/
def mixCheck (s : State) (x : View) (strong : Bool) (ps : List Piece) : Bool × State :=
  if strong && mixDebug s x then
    if mixMeets s ps then (false, s) else (true, (ps.filter (fun p => p.tgt == .hbm)).foldl mixRecord s)
  else (true, s)

/-! ### Sectors of a tensor (R238, R239) -/

/-- The coordinate of tile index i in dimension d, when it is in range (R238). -/
def Tensor.inRange (t : Tensor) (d i : Nat) : Option Nat :=
  if h : d < 4 then
    let c := t.coord[d] + (i : Int)
    if 0 ≤ c ∧ c < (vget t.ext d : Int) then some c.toNat else none
  else none

/-- The tile indices of dimension 0 that are in range: from the first to the end (R238). -/
def Tensor.span0 (t : Tensor) : Nat × Nat :=
  let c := t.coord[0]
  ((max 0 (-c)).toNat, (max 0 (min (vget t.box 0 : Int) ((vget t.ext 0 : Int) - c))).toNat)

/-- The tensor bits of a window sector: the first bit of the sector that has one, how many, and the tensor bit address
(R237, R238). They are consecutive, since a sector lies in one row. -/
def Tensor.sectorBits (t : Tensor) (k : Nat) : Option (Nat × Nat × Nat) :=
  let rb := t.rowBytes
  let row := 32 * k / rb
  let o := 8 * (32 * k % rb)
  let i1 := row % vget t.box 1
  let i2 := row / vget t.box 1 % vget t.box 2
  let i3 := row / (vget t.box 1 * vget t.box 2)
  match t.inRange 1 i1, t.inRange 2 i2, t.inRange 3 i3 with
  | some c1, some c2, some c3 =>
    let lo := max o (t.span0.1 * t.width)
    let hi := min (o + 256) (t.span0.2 * t.width)
    if lo < hi then
      let start := 8 * (t.base + c1 * vget t.stride 1 + c2 * vget t.stride 2 + c3 * vget t.stride 3)
      some (lo - o, hi - lo, ((start : Int) + t.coord[0] * (t.width : Int) + (lo : Int)).toNat)
    else none
  | _, _, _ => none

/-- The parts of a sector's tensor bits: (virtual byte address, bit in the byte, bits, offset). -/
def tensorParts (bit n : Nat) : List (Nat × Nat × Nat × Nat) :=
  (cutBits 256 bit n).map fun e => (e.1 / 8 % 2 ^ 64, e.1 % 8, e.2.1, e.2.2)

/-- Translate the tensor bits of a window's sector on behalf of its group (R243). -/
def sectorPlaces (s : State) (g : Group) (bit n : Nat) (need : Need) : Resolved × State :=
  let vs := tensorParts bit n
  let pages := pagesOf (vs.map (·.1))
  if !vs.all (fun v => canonical v.1) then (.bad .access, s)
  else match translateList s (laneReq s g need 2) pages with
    | (.ok places, s) =>
      let look (va : Nat) : Tgt × Nat := ((pages.zip places).find? (fun e => e.1 == va / 4096 * 4096)).elim (.hbm, 0) (·.2)
      (.ok (vs.map fun e => let p := look e.1; pieceAt p.1 (p.2 + e.1 % 4096) e.2.1 e.2.2.1 e.2.2.2), s)
    | (.fault rs, s) => (.held rs, s)
    | (.fatal c, s) => (.bad c, s)

/-- The sectors of memory that the engine reads or writes for a window, as far as they translate: each read is one of a whole
sector, and a write is of the tensor's bits (R206, R209, R246). -/
def enginePieces (s : State) (g : Group) (w : Window) (need : Need) : List Piece :=
  (List.range w.sectors).flatMap fun k => match w.tensor.sectorBits k with
    | none => []
    | some (_, n, bit) => match (sectorPlaces s g bit n need).1 with
      | .ok ps => if need.w then ps else ps.map (fun p => { p with lo := 0, nbits := 256, off := 0 })
      | _ => []

/-- An engine's strong accesses clash with a record under the mixed-size debug bit: the instruction that would start it traps
in its issuing lanes, before the engine has done anything (R194, R206, log entry 113). -/
def engineClash (s : State) (g : Group) (w : Window) (need : Need) : Bool :=
  groupMixDebug s g && mixMeets s (enginePieces s g w need)

/-- The fill of an ABSENT window would clash. -/
def fillClash (s : State) (g i : Nat) : Bool :=
  match s.group g with
  | some grp => (grp.window i).state == .absent && engineClash s grp (grp.window i) .read
  | none => false

/-! ### The engine's reads (R206, R209, R242) -/

/-- The group of the lane that touched a window, whose access the fill's reads are (R209). -/
def toucher (s : State) (w : Window) : Option Group := w.owner.bind (fun o => s.group o.1)

/-- A memory sector as a fill reads it: what it has read of it already, else the home bytes under the held stores of the
touching lane's group (R206, R209, R212, R242). -/
def seenSector (s : State) (g : Option Group) (seen : List SeenSector) (p : Piece) : SeenSector :=
  match seen.find? (fun e => e.tgt == p.tgt && e.sector == p.sector) with
  | some e => e
  | none =>
    let home := homeSector s p.tgt p.sector
    let v := match g with
      | some g => if g.holds then heldOver g p.tgt p.sector home else home
      | none => home
    ⟨p.tgt, p.sector, v.data, v.poison⟩

/-- What a fill reads of a window sector's places, and the sectors it has read once it has. -/
def fillRead (s : State) (g : Option Group) (seen : List SeenSector) (off : Nat) (ps : List Piece) :
    (BitVec 256 × Bool) × List SeenSector :=
  let views := ps.map fun p => (p, seenSector s g seen p)
  ((BitVec.ofNat 256 ((views.map (fun v => v.1.read v.2.data)).sum * 2 ^ off), views.any (fun v => v.2.poison)),
    (views.map (·.2)).foldl (fun l e => if l.contains e then l else e :: l) seen)

/-- An engine's access to a sector is strong (R206): under the mixed-size debug bit of its context it is recorded. It was
checked where the engine was started (log entry 113). -/
def engineRecord (s : State) (g : Group) (p : Piece) : State :=
  if groupMixDebug s g && p.tgt == .hbm then mixRecord s p else s

/-- Sectors that a fill reads for the first time pass through their homes. -/
def engineReads (s : State) (g : Group) (es : List SeenSector) : State :=
  es.foldl (fun s e => engineRecord (s.readAt e.tgt (32 * e.sector) 32) g ⟨e.tgt, e.sector, 0, 256, 0⟩) s

/-- The places of a window's sector have been read for its fill. -/
def readSeen (s : State) (g i : Nat) (ps : List Piece) : State :=
  match s.group g with
  | none => s
  | some grp =>
    let w := grp.window i
    let r := fillRead s (toucher s w) w.seen 0 ps
    (engineReads s grp (r.2.filter (fun e => !w.seen.contains e))).updWindow g i (fun w => { w with seen := r.2 })

/-- Under the mixed-size debug bit a fill reads at its touch what translates then and no link holds, so that the check of the
touch is that of the reads (R194, R209; log entry 113). -/
def readAtTouch (s : State) (g i : Nat) : State :=
  match s.group g with
  | none => s
  | some grp =>
    if !groupMixDebug s grp then s
    else (List.range (grp.window i).sectors).foldl (fun s k => match (grp.window i).tensor.sectorBits k with
      | none => s
      | some (_, n, bit) => match sectorPlaces s grp bit n .read with
        | (.ok ps, t) => if ps.any (fun p => linkTrains t p.tgt) then s else readSeen t g i ps
        | _ => s) s

/-! ### First touches (R241) -/

/-- The loads in flight of some lanes were performed when they issued: something orders them before what comes now. -/
def RegWrite.fixed (m : LaneMask) : RegWrite → RegWrite
  | .late n r x res idx ps guard =>
    if inMask m n then (if res then .reserve n r x else .v n r x) else .late n r x res idx ps guard
  | w => w

def Course.fixLoads (c : Course) (m : LaneMask) : Course :=
  { c with inflight := c.inflight.map (fun o => { o with writes := o.writes.map (RegWrite.fixed m) }) }

/-- Start the fill of a window, on behalf of a course and lane: its course's earlier stores have left the FIFO and the lane's
loads in flight have been performed, and every sector will arrive (R206, R241, R250). -/
def startFill (s : State) (g i : Nat) (own : Nat × Nat) (lane : Nat) : State :=
  match s.group g with
  | none => s
  | some grp =>
    let s := (drainCourse s own.1 own.2).updCourse own.1 own.2 (·.fixLoads (maskOf (· == lane)))
    let (t, s) := s.newToken
    let s := s.updCourse own.1 own.2 (fun c => c.engineStart 2 t)
    let s := s.updWindow g i (fun w => { w with state := .filling, owner := some (own.1, own.2, t), lane := lane, seen := [] })
    let s := readAtTouch s g i
    (List.range (grp.window i).sectors).foldl (fun s k => s.post (.windowSectorArrival g i k)) s

/-- The ABSENT windows that an access touches, in order (R241). -/
def touched (s : State) (ss : List (Nat × Nat)) : List (Nat × Nat) :=
  (ss.filterMap fun e => match windowAt s e.1 e.2 with
    | some (g, i, w) => if w.state = .absent then some (g, i) else none
    | none => none).eraseDups

def touchAll (s : State) (ws : List (Nat × Nat)) (own : Nat × Nat) (lane : Nat) : State :=
  ws.foldl (fun s w => startFill s w.1 w.2 own lane) s

/-! ### Running a memory instruction lane by lane (R220 to R222) -/

/-- What a memory instruction comes to in one lane. -/
inductive LaneOut where
  | done (ws : List RegWrite)
  | trap (c : Cause)
  | hold (h : Hold)
  | abort (a : AbortInfo)

/-- What an issue has gathered: register writes, and the lanes that trap, are held or abort. -/
structure Gathered where
  ws : List RegWrite
  ok : List Nat
  traps : List (Nat × PendTrap)
  holds : List (Nat × Hold)
  aborts : List (Nat × AbortInfo)

def Gathered.empty : Gathered := ⟨[], [], [], [], []⟩

def Gathered.add (a : Gathered) (x : View) (n : Nat) : LaneOut → Gathered
  | .done ws => { a with ws := a.ws ++ ws, ok := a.ok ++ [n] }
  | .trap c => { a with traps := a.traps ++ [(n, x.trap [] c)] }
  | .hold h => { a with holds := a.holds ++ [(n, h)] }
  | .abort i => { a with aborts := a.aborts ++ [(n, i)] }

/-- The lanes of a list in ascending order, each on the state the one before left (R222). -/
def runLanes (x : View) (body : State → Nat → LaneOut × State) : List Nat → State × Gathered → State × Gathered
  | [], a => a
  | n :: ns, (s, a) =>
    let (o, s) := body s n
    runLanes x body ns (s, a.add x n o)

/-- Hold lanes where they stand (R115). -/
def holdLanes (s : State) (x : Sel) (hs : List (Nat × Hold)) : State :=
  hs.foldl (fun s e => s.updLane x.grp x.course e.1 (fun l => { l with hold := e.2 })) s

/-- Abort lanes (R302); also whether one has been sent back (R119). -/
def abortLanes (s : State) (x : Sel) (as : List (Nat × AbortInfo)) : State × Bool :=
  as.foldl (fun (acc : State × Bool) e =>
    let r := abortLane acc.1 x.grp x.course e.1 e.2.code e.2.user e.2.cause e.2.pf
    (r.1, acc.2 || r.2)) (s, false)

/-- An issue counts as a backward transfer: moved says so, or an abort of it sends a lane back (R119). -/
def backward (s : State) (x : Sel) (moved : Bool) (as : List (Nat × AbortInfo)) (ts : List (Nat × PendTrap)) : Bool :=
  let a := abortLanes s x as
  moved || a.2 || (takeTraps a.1 x ts).2

/-- The lanes that abort and the lanes that trap at an issue; the issue counts once as a backward transfer when moved
says so or an abort sends a lane back (R119). -/
def settleLanes (s : State) (x : Sel) (moved : Bool) (as : List (Nat × AbortInfo)) (ts : List (Nat × PendTrap)) : State :=
  let a := abortLanes s x as
  let t := takeTraps a.1 x ts
  (bumpIf t.1 x.grp x.course (moved || a.2 || t.2)).deselect

/-- The whole of an issue that acts lane by lane: the lanes that report no cause act in ascending order; those that
complete deliver their results and advance, the others trap, are held or abort (R73, R220, R221). -/
def finishLanes (s : State) (x : View) (k : Ctl) (long : Bool) (sh : Shape) (body : State → Nat → LaneOut × State) : State :=
  let act := x.active k
  let ok := x.clear sh act
  let bad := act &&& ~~~ok
  let (s, a) := runLanes x body (laneList ok) (s, Gathered.empty)
  let good := maskOf (fun n => a.ok.contains n)
  let s := deliver s x k long act good a.ws sh.slots
  let s := if sh.stoch then stepSeeds s x.sel good else s
  let s := advance s x.sel (x.sel.mask &&& ~~~act ||| good)
  let s := holdLanes s x.sel a.holds
  settleLanes s x.sel false a.aborts (x.traps sh bad ++ a.traps)

end Sys2Proof.Machine
end

