-- ==== Sys2Proof/Machine/Memory.lean ====
section
/-!
DEFINITION. LD, ST, FENCE, PREF, CCTL, PROBE and MAPC (spec/10_memory_instructions.md, R216 to R226, R232 to R235; R112),
and the steps by which a store leaves its course's FIFO (R198) and a held lane replays (R221). Loads are performed when
they issue (log entry 11).
-/

namespace Sys2Proof.Machine

/-! ### What every access shares -/

/-- A lane's state as it stands while the issue is being performed. -/
def State.laneAt (s : State) (x : View) (n : Nat) : Lane := (((s.group x.sel.grp).getD x.grp).course x.sel.course).lane n

/-- The lane's transaction is ACTIVE (R294). -/
def laneActive (s : State) (x : View) (n : Nat) : Bool := (s.laneAt x n).tx.state == .active

/-- The causes of R220 that precede translation, but for the group's mode. -/
def accessCauses (s : State) (x : View) (a : Access) (poison : Bool) : List Cause :=
  (if a.ea % a.align = 0 then [] else [.misaligned]) ++ (if spaceOk s x a then [] else [.access])
    ++ (if poison then [.poisonConsumed] else [])

/-- Perform an access at its translated places: a recoverable fault holds the lane, or aborts an ACTIVE transaction with
its request raised (R220, R221, R303). -/
def placed (s : State) (x : View) (n : Nat) (a : Access) (need : Need) (act : State → List Piece → LaneOut × State) :
    LaneOut × State :=
  let active := laneActive s x n
  match resolve s x.grp x.sel.core x.sel.course n a need (if active then 3 else 0) with
  | (.bad c, s) => (.trap c, s)
  | (.held rs, s) => (if active then .abort ⟨5, 0, 0, true⟩ else .hold (.fault rs), s)
  | (.ok ps, s) => act s ps

/-- Spaces .G and .P: translated, logged by transactions and held by restricted groups (R181, R210, R224). -/
def Access.global (a : Access) : Bool := a.space == 0 || a.space == 3

/-- The new transaction logs of a lane. -/
def setTx (s : State) (x : View) (n : Nat) (t : Tx) : State :=
  s.updLane x.sel.grp x.sel.course n (fun l => { l with tx := t })

/-! ### LD (R225) -/

/-- The registers a loaded value fills, with their poison (R225). -/
def loadResult (x : View) (k : Ctl) (n d regs value : Nat) (pois : List (Nat × Nat × Bool)) : List RegWrite :=
  (List.range regs).map fun r => x.putV n (d + r)
    ⟨BitVec.ofNat 64 (value / 2 ^ (64 * r)), regPoison pois r || (x.crs.lane n).guardP k⟩

/-- The lanes of a window that a load needs and that are missing hold it (R244). -/
def windowHold (miss : List (Nat × Nat)) : Option Hold :=
  match miss with
  | [] => none
  | (c, _) :: _ => some (.window c (miss.map (·.2)))

/-- A packed access to more than one sector: an element that crosses is read as one, so both sectors are read at their
homes at once and never from an L1 (R191, R192). -/
def crosses (f : MEM) (ps : List Piece) : Bool := (packedWidth f.width.toNat).isSome && decide (1 < ps.length)

/-- A load that may be performed as late as its results are written (R74, R195): weak or .RLX, of an ordinary group's lane outside
transactions, of device HBM alone and not packed, whose elements are read as one (R192; log entry 11). -/
def lateLoad (s : State) (x : View) (n : Nat) (f : MEM) (ps : List Piece) : Bool :=
  decide (f.order.toNat < 2) && !x.grp.holds && (s.laneAt x n).tx.state == .idle && (packedWidth f.width.toNat).isNone
    && ps.all (·.tgt == .hbm)

/-- The result for the 64-bit part idx of such a load. -/
def RegWrite.asLate (ps : List Piece) (guard : Bool) (idx : Nat) : RegWrite → RegWrite
  | .v n r x => .late n r x false idx ps guard
  | .reserve n r x => .late n r x true idx ps guard
  | w => w

/-- The results of a load as it issues: those that come over link ports, and those that are performed late, say so. -/
def ldWrites (s : State) (x : View) (k : Ctl) (n : Nat) (f : MEM) (ps : List Piece) (r : Nat × List (Nat × Nat × Bool)) :
    List RegWrite :=
  let ws := loadResult x k n f.d.toNat (widthRegs f.width.toNat) r.1 r.2
  if lateLoad s x n f ps then (ws.zipIdx).map (fun e => e.1.asLate ps ((x.crs.lane n).guardP k) e.2) else ws.map (RegWrite.over ps)

/-- A load of a lane at its places. -/
def loadAt (k : Ctl) (f : MEM) (x : View) (n : Nat) (a : Access) (s : State) (ps : List Piece) : LaneOut × State :=
  let ss := scratchSectors ps
  if (touched s ss).any (fun w => fillClash s w.1 w.2) then (.trap .mixedSizeDebug, s)
  else
  let s := touchAll s (touched s ss) (x.sel.grp, x.sel.course) n
  match windowHold (missingSectors s ss) with
  | some h => (.hold h, s)
  | none =>
    let regs := widthRegs f.width.toNat
    if laneActive s x n && a.global then
      match mixCheck s x true (txReads s x n ps) with
      | (false, s) => (.trap .mixedSizeDebug, s)
      | (true, u) =>
        match txAccess s x n ps true false false with
        | .error e => (.abort e, s)
        | .ok t => (.done (loadResult x k n f.d.toNat regs (txValue t ps) []), setTx (txFill u x n ps) x n t)
    else
      match mixCheck s x (f.order != 0 && !laneActive s x n) ps with
      | (false, s) => (.trap .mixedSizeDebug, s)
      | (true, s) =>
        let (r, s) := loadPieces s x n ((f.order == 0 || decide (f.scope.toNat < 2)) && !crosses f ps) ps
        let s := markSectors s (s.groupPart x.grp) (x.sel.grp, x.sel.course, n) ps
        let s := if f.order = 2 && !laneActive s x n then acquireAt s x.sel.core f.scope.toNat else s
        (.done (ldWrites s x k n f ps r), s)

def ldShape (s : State) (x : View) (f : MEM) : Shape :=
  ⟨[0], (List.range (widthRegs f.width.toNat)).map (f.d.toNat + ·) ++ (baseOpd f).vregs
      ++ (if f.ixen = 1 then [f.index.toNat] else []),
    fun n => accessCauses s x (x.memAccess f n) (x.addrPoison f true n), false, []⟩

/-- The windows that an LD would touch first, over its lanes that report no cause (R241). -/
def ldTouches (s : State) (x : View) (k : Ctl) (f : MEM) : List (Nat × Nat) :=
  if f.space = 1 ∨ f.space = 2 then
    ((laneList (x.clear (ldShape s x f) (x.active k))).flatMap fun n =>
      match (resolve s x.grp x.sel.core x.sel.course n (x.memAccess f n) .read 0).1 with
      | .ok ps => touched s (scratchSectors ps)
      | _ => []).eraseDups
  else []

/-- The first touches of an LD would raise GATH past 255: its issue waits (R250). -/
def ldWaits (s : State) (x : View) (k : Ctl) (f : MEM) : Bool := x.counterFull 2 (ldTouches s x k f).length

def execLd (k : Ctl) (f : MEM) (s : State) : Out :=
  s.issue fun x =>
    if ldWaits s x k f then s.deselect
    else finishLanes s x k true (ldShape s x f)
      (fun s n => placed s x n (x.memAccess f n) .read (loadAt k f x n (x.memAccess f n)))

/-! ### ST (R226) -/

/-- The stored value of a lane and the poison of its registers (R226). -/
def storeData (x : View) (k : Ctl) (f : MEM) (n : Nat) : Nat × List Bool :=
  let rs := (List.range (widthRegs f.width.toNat)).map (fun r => x.vreg n (f.d.toNat + r))
  ((rs.zipIdx).foldl (fun acc e => acc + e.1.val.toNat * 2 ^ (64 * e.2)) 0,
    rs.map (fun r => r.poison || (x.crs.lane n).guardP k))

/-- A piece takes bits of a poisoned register. -/
def piecePoison (ps : List Bool) (p : Piece) : Bool :=
  (ps.zipIdx).any (fun e => e.1 && decide (p.off < 64 * e.2 + 64) && decide (64 * e.2 < p.off + p.nbits))

/-- A store of a lane at its places. -/
def storeAt (k : Ctl) (f : MEM) (x : View) (n : Nat) (a : Access) (s : State) (ps : List Piece) : LaneOut × State :=
  let (v, pois) := storeData x k f n
  let ws := ps.map (fun p => p.write v (piecePoison pois p))
  if windowRefuses s (scratchSectors ps) then (.trap .windowMisuse, s)
  else if laneActive s x n && a.global then
    match txAccess s x n ps false true (ws.any (·.poison)) with
    | .error e => (.abort e, s)
    | .ok t => (.done [], setTx s x n (ws.foldl Tx.logWrite t))
  else if ws.any (fun w => w.poison && (w.tgt == .host || match w.tgt with | .peer _ => true | _ => false)) then
    (.trap .poisonConsumed, s)
  else
    let strong := f.order != 0 && !laneActive s x n
    match mixCheck s x strong ps with
    | (false, s) => (.trap .mixedSizeDebug, s)
    | (true, s) =>
      let s := markSectors s (s.groupPart x.grp) (x.sel.grp, x.sel.course, n) ps
      let s := pushStore s x.sel.grp x.sel.course n ws
      (.done [], if strong && mixDebug s x then drainCourse s x.sel.grp x.sel.course else s)

/-- A revocable group may not store outside its own allocation by .C (R210, R224). -/
def modeCause (x : View) (a : Access) : List Cause :=
  if x.grp.mode = .revocable ∧ outsideOwn x a then [.revocableViolation] else []

def stShape (s : State) (x : View) (f : MEM) : Shape :=
  ⟨[0], (List.range (widthRegs f.width.toNat)).map (f.d.toNat + ·) ++ (baseOpd f).vregs
      ++ (if f.ixen = 1 then [f.index.toNat] else []),
    fun n => accessCauses s x (x.memAccess f n) (x.addrPoison f true n) ++ modeCause x (x.memAccess f n), false, []⟩

/-- The access is a release at SYSTEM scope by a lane outside a transaction, and its instruction is not masked. -/
def systemRelease (s : State) (x : View) (k : Ctl) (f : MEM) (feats : List Nat) : Bool :=
  (x.lacking feats).isNone && (f.order == 3 || f.order == 4) && f.scope == 4 && (laneList (x.active k)).any (fun n => !laneActive s x n)

/-- A release at SYSTEM scope by a lane outside a transaction drains the course's FIFO and then waits while a link port
holds a write that its far side has not taken (R201, R462). -/
def systemWait (s : State) (x : View) (k : Ctl) (f : MEM) (feats : List Nat) : Option State :=
  if systemRelease s x k f feats then
    let t := drainCourse s x.sel.grp x.sel.course
    if portsBusy t then some t.deselect else none
  else none

def execSt (k : Ctl) (f : MEM) (s : State) : Out :=
  s.issue fun x => (systemWait s x k f [0]).getD <| finishLanes s x k false (stShape s x f)
    (fun s n => placed s x n (x.memAccess f n) .write (storeAt k f x n (x.memAccess f n)))

/-! ### FENCE, PREF, CCTL, PROBE (R232 to R235) -/

/-- A fence's effect (R199 to R201, R232): a release drains the course's FIFO, at every scope, so that the lane's next write,
an atomic too, carries its earlier stores (log entry 131); an acquire at CLUSTER scope or wider clears the L1. A release at
SYSTEM scope holds the later accesses of its lanes while a link port holds a write, and no other instruction. -/
def fenceAt (s : State) (x : View) (ns : List Nat) (order scope : Nat) : State :=
  let s := if order = 3 ∨ order = 4 then drainCourse s x.sel.grp x.sel.course else s
  let s := if order = 3 then s else acquireAt s x.sel.core scope
  if (order = 3 ∨ order = 4) ∧ scope = 4 ∧ portsBusy s then
    { s with fenced := s.fenced ++ ns.map (fun n => ⟨x.sel.grp, x.sel.course, n, order == 4⟩) }
  else s

/-- The fences at SYSTEM scope that wait are over once no link port holds a write: those that acquire too clear their core's
L1, so that the accesses they held read what their homes have now (R187, R201). -/
def settleFences (s : State) : State :=
  if s.fenced.isEmpty || portsBusy s then s
  else (s.fenced.filter (·.acquire)).foldl (fun s e => match (s.group e.grp).bind (·.core) with
    | some c => clearL1 s c
    | none => s) { s with fenced := [] }

/-- A posted packet is in its ring (R414, R432), unless the queue is DESTROYED. -/
def enterRing (s : State) (p : PostedPacket) : State :=
  match alGet s.queues p.queue with
  | none => s
  | some u =>
    if u.state = .destroyed then s
    else
      let s := (s.paid (groupOwner s p.grp) (·.applyWrites p.writes)).updQueue p.queue (fun u => { u with
        widx := u.widx + 1, waitSince := if u.widx = u.ridx then s.time else u.waitSince
        poisoned := if p.poisoned then u.poisoned ++ [u.widx] else u.poisoned })
      s.post (.queueMap u.part)

/-- The packets on their way enter their rings, once no link port holds a write (R201, R432). -/
def flushPosts (s : State) : State :=
  if portsBusy s then s else s.posts.foldl enterRing { s with posts := [] }

/-- One of the lanes given stands behind such a fence: its access waits. -/
def fenceWaits (s : State) (x : View) (m : LaneMask) : Bool :=
  portsBusy s && (laneList m).any (fun n =>
    s.fenced.any (fun e => e.grp == x.sel.grp && e.course == x.sel.course && e.lane == n))

/-- FENCE (R232): the lanes in an ACTIVE transaction take no part (R298). -/
def execFence (k : Ctl) (f : MEM) (s : State) : Out :=
  s.issue fun x => finishEffect s x k (Shape.plain [0] []) fun ok s =>
    let ns := (laneList ok).filter (fun n => (x.crs.lane n).tx.state != .active)
    if ns.isEmpty then s else fenceAt s x ns f.order.toNat f.scope.toNat

/-- The places of a range of a lane, without a fault or a request: the parts that translate (R233, R235), and the state that
their walks leave (R454). -/
def quietPlaces (s : State) (x : View) (n : Nat) (a : Access) (need : Need) : List (Tgt × Nat) × State :=
  (virtParts x.grp x.sel.course n a).foldl (fun acc e =>
    let r := translate acc.2 (acc.2.groupCtx x.grp) e.1 need
    (match r.1 with
      | .ok t pa _ _ => acc.1 ++ [(t, pa)]
      | _ => acc.1, r.2)) ([], s)

/-- PREF brings sectors into the L1 or into their home slices; it is dropped where the address fails a check or does not
translate (R233). -/
def prefLane (f : MEM) (x : View) (s : State) (n : Nat) : State :=
  let a := x.memAccess f n
  if (accessCauses s x a (x.addrPoison f true n)).isEmpty then
    let (ps, s) := quietPlaces s x n a .read
    if ps.length = (virtParts x.grp x.sel.course n a).length ∧ ps.all (fun p => p.1 == .hbm) then
      ps.foldl (fun s p => if f.d = 0 then fillL1 s x.sel.core (p.2 / 32) else s.l2Access (p.2 / 32) .read) s
    else s
  else s

def execPref (k : Ctl) (f : MEM) (s : State) : Out :=
  s.issue fun x =>
    finishEffect s x k (Shape.plain [0] ((baseOpd f).vregs ++ (if f.ixen = 1 then [f.index.toNat] else [])))
      fun ok s => (laneList ok).foldl (prefLane f x) s

/-- The one byte that CCTL names in a lane. -/
def cctlAccess (x : View) (f : MEM) (n : Nat) : Access :=
  let a := ((x.opd 64 n (baseOpd f)).val + f.off.signExtend 64).toNat
  ⟨f.space.toNat, a, 8 * a, 8, 1⟩

/-- CCTL in a lane (R234), after the course's earlier stores to the sector. EA is translated as a load would be, so that a page
that lacks R does not translate (log entry 132). -/
def cctlLane (f : MEM) (x : View) (s : State) (n : Nat) : State :=
  if f.d = 1 then clearL1 s x.sel.core
  else
    let (ps, s) := if spaceOk s x (cctlAccess x f n) then quietPlaces s x n (cctlAccess x f n) .read else ([], s)
    match ps.head? with
    | none => if f.d = 2 then s else clearL1 s x.sel.core
    | some (.hbm, pa) =>
      let s := if (((s.group x.sel.grp).getD x.grp).course x.sel.course).stores .hbm (pa / 32) then
        drainCourse s x.sel.grp x.sel.course else s
      if f.d = 2 then s.l2Evict (pa / 32)
      else s.setCore x.sel.core { s.core x.sel.core with l1 := alDel (s.core x.sel.core).l1 (pa / 32) }
    | some _ => s

def execCctl (k : Ctl) (f : MEM) (s : State) : Out :=
  s.issue fun x => finishEffect s x k (Shape.plain [0] (if f.d = 1 then [] else (baseOpd f).vregs))
    fun ok s => (laneList ok).foldl (cctlLane f x) s

/-- The result code of a walk that does not translate (R235). -/
def probeWalk (s : State) (c : Ctx) (ctx : Nat) : Walk → Nat
  | .invalid st _ ea _ =>
    if s.reqs.any (fun r => r.fn == c.fn && r.stage == st && r.ea == ea && (st != 1 || r.ctx == ctx)) then 4
    else if st = 1 then 2 else 3
  | .poisoned => 5
  | .access => 6
  | .leaf _ _ => 5

/-- PROBE of a virtual address, and of the addresses its access would touch (R235). -/
def probeWord (s : State) (ctx va : Nat) (touch : List Nat) : Nat :=
  match alGet s.ctxs ctx with
  | none => 5 * 2 ^ 60
  | some c =>
    if !canonical va then 2 ^ 60
    else
      match walkBoth s (s.part ((s.fn c.fn).part.getD 16)) c.s1root va with
      | .error w => probeWalk s c ctx w * 2 ^ 60
      | .ok (e1, l1, e2, l2, ipa) =>
        let leaf := min (leafSize e1 l1) (leafSize e2 l2)
        let page := 2 ^ ([12, 16, 21, 30].getD leaf 12)
        let flag (b : Bool) (i : Nat) : Nat := if b then 2 ^ i else 0
        leaf * 2 ^ 58 + bitsNat (leafAddr e2 l2 ipa) 51 12 * 2 ^ 12 + flag (touch.any (fun v => v / page != va / page)) 4
          + flag (pteTgt e2 != 0) 3 + flag (pteX e1 && pteX e2) 2 + flag (pteW e1 && pteW e2) 1 + flag (pteR e1 && pteR e2) 0

/-- PROBE in a lane (R235): outside .P, or the walk of its first byte. -/
def probeLane (s : State) (x : View) (n : Nat) (a : Access) : Nat :=
  let first := a.bit / 8
  let last := (a.bit + a.nbits - 1) / 8
  if a.space = 3 then
    if x.grp.psize ≤ first then 2 ^ 60
    else
      let va (o : Nat) : Nat := privVa x.grp x.sel.course n o
      probeWord s (s.groupCtx x.grp) (va first) ((List.range (last + 1 - first)).map (fun i => va (first + i)))
  else probeWord s (s.groupCtx x.grp) (first % 2 ^ 64) [last % 2 ^ 64]

/-- The walk of a PROBE in a lane passes through its home slices (R454). -/
def probeTraffic (x : View) (f : MEM) (s : State) (n : Nat) : State :=
  let a := x.memAccess f n
  let first := a.bit / 8
  let va := if a.space = 3 then privVa x.grp x.sel.course n first else first % 2 ^ 64
  match alGet s.ctxs (s.groupCtx x.grp) with
  | some c => if (a.space = 3 ∧ x.grp.psize ≤ first) ∨ !canonical va then s
    else walkTraffic s (s.part ((s.fn c.fn).part.getD 16)) c.s1root va
  | none => s

def execProbe (k : Ctl) (f : MEM) (s : State) : Out :=
  s.issue fun x =>
    finishEffect s x k
      (Shape.plain [0] ([f.d.toNat] ++ (baseOpd f).vregs ++ (if f.ixen = 1 then [f.index.toNat] else [])))
      fun ok t => deliver ((laneList ok).foldl (probeTraffic x f) t) x k true (x.active k) ok (x.result k ok (.v f.d.toNat)
        (fun n => ⟨BitVec.ofNat 64 (probeLane s x n (x.memAccess f n)), x.addrPoison f true n⟩)) []

/-! ### MAPC (R112) -/

/-- MAPC's value for a rank; a member that is no longer on a core has none stated, and the free value stands (R112). -/
def mapcValue (s : State) (x : View) (op rank free : Nat) : Nat :=
  let all1 := 2 ^ 64 - 1
  if op = 2 then x.grp.setSize
  else if x.grp.setSize ≤ rank then all1
  else
    match (s.setMembers x.sel.grp x.grp).find? (fun m => m.setRank == rank || x.grp.setId.isNone) with
    | some m => match m.core with
      | some c => if op = 0 then c % 192 * 2 ^ 20 + m.allocBase else c
      | none => free
    | none => free

def execMapc (k : Ctl) (f : RRR) (s : State) : Out :=
  s.issue fun x =>
    let a := opdOf f.acls f.a
    let d := dstOf f.dcls f.d
    let size := f.tyb = 2
    finishCompute { s with free := s.free + 32 } x k false
      (Shape.plain [0] (d.vregs ++ (if size then [] else a.vregs)))
      (fun ok => x.result k ok d fun n =>
        let r := x.opd 64 n a
        ⟨BitVec.ofNat 64 (mapcValue s x f.tyb.toNat r.val.toNat (Config.freeNat (s.free + n))), !size && r.poison⟩)

/-! ### Results of operations in flight (R73, R74, R195) -/

/-- What the places of a load hold now for a lane: their homes, under its stores still in the FIFO (R197, R201). -/
def lateWord (s : State) (g c n idx : Nat) (ps : List Piece) (guard : Bool) : PWord :=
  let crs := ((s.group g).map (·.course c)).getD Course.reset
  let view (p : Piece) : SecView := fifoOver crs n p.tgt p.sector (homeSector s p.tgt p.sector)
  ⟨BitVec.ofNat 64 ((ps.map (fun p => p.read (view p).data)).sum / 2 ^ (64 * idx)),
    regPoison (ps.map (fun p => (p.off, p.nbits, (view p).poison))) idx || guard⟩

/-- A result as it is written: a load that may be performed late is performed now, or was when it issued, as the free value
says. -/
def RegWrite.perform (s : State) (g c : Nat) (now : Bool) : RegWrite → RegWrite
  | .late n r x res idx ps guard =>
    let x := if now then lateWord s g c n idx ps guard else x
    if res then .reserve n r x else .v n r x
  | w => w

/-- A load that is performed late has read its homes, and the L1 keeps what it read, so that no later load of the lane reads
an older copy (R187, R197). -/
def RegWrite.refill (s : State) (core : Nat) (now : Bool) : RegWrite → State
  | .late _ _ _ _ _ ps _ => if now then ps.foldl (fun s p => keepL1 s core p.sector) s else s
  | _ => s

/-- The sectors that the loads in flight of a lane may still read. -/
def Course.lateSectors (c : Course) (n : Nat) : List Nat :=
  (c.inflight.flatMap (·.writes)).flatMap fun w => match w with
    | .late m _ _ _ _ ps _ => if m = n then ps.map (·.sector) else []
    | _ => []

/-- An operation in flight goes on (R74): its first result and whichever others the free value names are written; the
last of them lowers its flag. -/
def stepLong (s : State) (g c i : Nat) : State :=
  match s.group g with
  | none => s
  | some grp =>
    match (grp.course c).inflight[i]? with
    | none => s
    | some op =>
      if op.waits s then s.post (.longLatencyComplete g c i) else
      let (bits, s) := s.takeFree
      let (fresh, s) := s.takeFree
      let go (e : RegWrite × Nat) : Bool := let b := op.batch e.2 e.1; b == 0 || bits.testBit b
      let s := (op.writes.zipIdx).foldl (fun s e => e.1.refill s (grp.core.getD 0) (go e && fresh.testBit e.2)) s
      let now := ((op.writes.zipIdx).filter go).map (fun e => e.1.perform s g c (fresh.testBit e.2))
      let rest := (op.writes.zipIdx).filter (fun e => !go e)
      if rest.isEmpty then finishLong (s.updCourse g c (fun x => { x with inflight := x.inflight.set i { op with writes := now } })) g c i
      else
        let s := applyRegs s (grp.core.getD 0) g c now
        (s.updCourse g c (fun x => { x with
          inflight := (landBefore i now (grp.course c).inflight).modify i (fun o => { o with writes := rest.map (·.1) }) })).post
          (.longLatencyComplete g c i)

/-! ### Stores leaving, lanes replaying -/

/-- The oldest store of a course leaves its FIFO and is accepted at its home (R198). -/
def execStoreAcceptedAtHome (grp course : Nat) (s : State) : Out := .next (acceptOne s grp course)

/-- A held lane whose reason is over becomes eligible, and issues its instruction anew (R116, R221, R244). One reason that is
over releases every lane of the course that it held. -/
def execLaneReplay (grp course lane : Nat) (s : State) : Out :=
  match s.group grp with
  | some g =>
    if holdOver s ((g.course course).lane lane).hold then
      .next (s.updCourse grp course (fun c => c.mapLanes (fun _ l => if holdOver s l.hold then { l with hold := .none } else l)))
    else .next s
  | none => .next s

end Sys2Proof.Machine
end

