-- ==== Sys2Proof/Machine/Atomics.lean ====
section
/-!
DEFINITION. ATOM, RED and CAS (R203, R218 to R222, R224, R227 to R231, R298): each lane's read-modify-write is performed
at its home when it issues, in ascending lane order.
-/

namespace Sys2Proof.Machine

/-- An atomic instruction: whether it returns the old value, and its operation. -/
structure AtomKind where
  op : AtomOp
  returns : Bool

/-- The operands of a lane at the type's width: x, and the swap value of a CAS, with their poison (R227, R228). -/
structure AtomArgs where
  x : Nat
  y : Nat
  xp : Bool
  yp : Bool

def atomArgs (k : Ctl) (kind : AtomKind) (f : MEM) (v : View) (n : Nat) : AtomArgs :=
  let w := atomBits f.width.toNat
  let b := v.vreg n f.index.toNat
  let c : PWord := if kind.op = .cas then v.vreg n (f.index.toNat + 1) else ⟨0, false⟩
  let gp := (v.crs.lane n).guardP k
  ⟨b.val.toNat % 2 ^ w, c.val.toNat % 2 ^ w, b.poison || gp, c.poison || gp⟩

/-- The result register: the old value, sign-extended for I32 only (R228). -/
def atomResult (kind : AtomKind) (f : MEM) (v : View) (k : Ctl) (n : Nat) (old : Nat) (poison : Bool) : List RegWrite :=
  if kind.returns then
    [v.putV n f.d.toNat ⟨BitVec.ofInt 64 (intOfBits (f.width == 0) (atomBits f.width.toNat) old), poison || (v.crs.lane n).guardP k⟩]
  else []

/-- An atomic of an ACTIVE lane: a logged read, then a logged write of the new value (R298); a CAS that fails logs its
read only. -/
def atomLogged (k : Ctl) (kind : AtomKind) (f : MEM) (v : View) (n : Nat) (s : State) (p : Piece) : LaneOut × State :=
  let a := atomArgs k kind f v n
  let t := (s.laneAt v n).tx
  let seen : Tx := { t with rlog := t.rlog ++ (txViews s v n [p]).map (fun e => ⟨e.1, e.2.data⟩) }
  let old := (seen.sector p.sector).toNat / 2 ^ p.lo % 2 ^ p.nbits
  let writes := kind.op != .cas || old == a.x
  match mixCheck s v true (txReads s v n [p]) with
  | (false, s) => (.trap .mixedSizeDebug, s)
  | (true, u) =>
    match txAccess s v n [p] true writes (writes && (if kind.op = .cas then a.yp else a.xp)) with
    | .error e => (.abort e, s)
    | .ok t =>
      let new := atomNew kind.op f.width.toNat old a.x a.y
      (.done (atomResult kind f v k n old false),
        setTx (txFill u v n [p]) v n (if writes then t.logWrite (p.write new false) else t))

/-- The store FIFO is drained before an atomic that is a release, or whose sector it holds (R197, R201). In an ACTIVE
transaction ORDER has no effect (R224). -/
def atomDrain (s : State) (v : View) (n : Nat) (f : MEM) (p : Piece) : State :=
  if (3 ≤ f.order.toNat ∧ laneActive s v n = false) ∨ (((s.group v.sel.grp).getD v.grp).course v.sel.course).stores p.tgt p.sector then
    drainCourse s v.sel.grp v.sel.course
  else s

/-- An atomic at its place (R220, R228); a reduction of a revocable group is held (R224). -/
def atomLane (k : Ctl) (kind : AtomKind) (f : MEM) (v : View) (n : Nat) (a : Access) (s : State) (ps : List Piece) :
    LaneOut × State :=
  match ps with
  | [] => (.done [], s)
  | p :: _ =>
    let g := atomArgs k kind f v n
    let outside := p.tgt == .host || match p.tgt with | .peer _ => true | _ => false
    if windowRefuses s (scratchSectors ps) then (.trap .windowMisuse, s)
    else if laneActive s v n && a.global then atomLogged k kind f v n s p
    else if p.tgt = .host ∧ !hostAtomOk kind.op f.width.toNat then (.trap .access, s)
    else if outside && (g.xp || g.yp) then (.trap .poisonConsumed, s)
    else if kind.returns && rejects s p.tgt (32 * p.sector) then (.trap .pageFatal, s)
    else
      match mixCheck s v (!laneActive s v n) ps with
      | (false, s) => (.trap .mixedSizeDebug, s)
      | (true, s) =>
        if v.grp.mode = .revocable ∧ a.global then
          let s := drainCourse s v.sel.grp v.sel.course
          (.done [], holdEntry s v.sel.grp ⟨v.sel.course, n, p.write g.x g.xp,
            some (kind.op.code, f.width.toNat, p.lo / 8, BitVec.ofNat 64 g.x), (v.crs.lane n).item⟩)
        else
          let s := atomDrain s v n f p
          let (old, s) := atomAt s v.sel.core kind.op f.width.toNat p g.x g.y g.xp g.yp kind.returns
          let s := markSectors s (s.groupPart v.grp) (v.sel.grp, v.sel.course, n) ps
          let s := if (f.order = 2 ∨ f.order = 4) ∧ laneActive s v n = false then acquireAt s v.sel.core f.scope.toNat else s
          (.done ((atomResult kind f v k n old.1 old.2).map (RegWrite.over ps)), s)

/-- What restricted groups refuse (R224): ATOM and CAS everywhere; RED in a redundant group, and by .C outside its own
allocation in a revocable one. -/
def atomMode (kind : AtomKind) (v : View) (a : Access) : List Cause :=
  match v.grp.mode with
  | .ordinary => []
  | .revocable => if kind.returns then [.revocableViolation] else modeCause v a
  | .redundant _ _ => [.revocableViolation]

def atomShape (kind : AtomKind) (f : MEM) (s : State) (v : View) : Shape :=
  ⟨[5], (if kind.returns then [f.d.toNat] else []) ++ (baseOpd f).vregs ++ [f.index.toNat]
      ++ (if kind.op = .cas then [f.index.toNat + 1] else []),
    fun n => accessCauses s v (v.atomAccess f n) (v.addrPoison f false n) ++ atomMode kind v (v.atomAccess f n), false, []⟩

/-- ATOM, CAS (long, with a result) and RED (neither). -/
def atomExec (kind : AtomKind) (k : Ctl) (f : MEM) (s : State) : Out :=
  s.issue fun v => (systemWait s v k f [5]).getD <| finishLanes s v k kind.returns (atomShape kind f s v)
    (fun s n => placed s v n (v.atomAccess f n) .rw (atomLane k kind f v n (v.atomAccess f n)))

def execCas (k : Ctl) (f : MEM) (s : State) : Out := atomExec ⟨.cas, true⟩ k f s
def execAtomAdd (k : Ctl) (f : MEM) (s : State) : Out := atomExec ⟨.add, true⟩ k f s
def execAtomMin (k : Ctl) (f : MEM) (s : State) : Out := atomExec ⟨.min, true⟩ k f s
def execAtomMax (k : Ctl) (f : MEM) (s : State) : Out := atomExec ⟨.max, true⟩ k f s
def execAtomAnd (k : Ctl) (f : MEM) (s : State) : Out := atomExec ⟨.and, true⟩ k f s
def execAtomOr (k : Ctl) (f : MEM) (s : State) : Out := atomExec ⟨.or, true⟩ k f s
def execAtomXor (k : Ctl) (f : MEM) (s : State) : Out := atomExec ⟨.xor, true⟩ k f s
def execAtomXchg (k : Ctl) (f : MEM) (s : State) : Out := atomExec ⟨.xchg, true⟩ k f s
def execRedAdd (k : Ctl) (f : MEM) (s : State) : Out := atomExec ⟨.add, false⟩ k f s
def execRedMin (k : Ctl) (f : MEM) (s : State) : Out := atomExec ⟨.min, false⟩ k f s
def execRedMax (k : Ctl) (f : MEM) (s : State) : Out := atomExec ⟨.max, false⟩ k f s
def execRedAnd (k : Ctl) (f : MEM) (s : State) : Out := atomExec ⟨.and, false⟩ k f s
def execRedOr (k : Ctl) (f : MEM) (s : State) : Out := atomExec ⟨.or, false⟩ k f s
def execRedXor (k : Ctl) (f : MEM) (s : State) : Out := atomExec ⟨.xor, false⟩ k f s

end Sys2Proof.Machine
end

