-- ==== Sys2Proof/Machine/Barriers.lean ====
section
/-!
DEFINITION. Barriers (spec/12_barriers.md, R258 to R272): arrivals, byte updates, the completion of a phase and the
release of its waiters, and the six instructions.
-/

namespace Sys2Proof.Machine

def Group.barrier (g : Group) (i : Nat) : Barrier := g.barriers.getD i Barrier.uninit
def State.updBarrier (s : State) (g i : Nat) (f : Barrier → Barrier) : State :=
  s.updGroup g (fun x => { x with barriers := x.barriers.modify i f })

/-- The phase is complete (R260). -/
def Barrier.complete (b : Barrier) : Bool :=
  b.init && b.arrived == b.expect && (!b.cp || b.cpArr) && decide (b.pend = 0)

/-- What completion leaves (R260): the phase inverted, the arrivals cleared. -/
def Barrier.nextPhase (b : Barrier) : Barrier :=
  { b with phase := !b.phase, arrMask := 0, arrived := 0, cpArr := false }

/-- A lane waiting on a barrier with a token other than its phase is released (R263). -/
def releaseLane (bar : Nat) (phase : Bool) (l : Lane) : Lane :=
  match l.hold with
  | .barrier b t => if b = bar ∧ t ≠ phase then { l with hold := .none } else l
  | _ => l

/-- The completion test of R260 and the release of the waiters it ends (R262, R263). -/
def barrierTest (s : State) (g i : Nat) : State :=
  match s.group g with
  | none => s
  | some grp =>
    let b := grp.barrier i
    if b.complete then
      (s.updBarrier g i Barrier.nextPhase).updGroup g (fun x =>
        { x with courses := x.courses.map (fun c => c.mapLanes (fun _ l => releaseLane i (!b.phase) l)) })
    else s

/-- A barrier instruction has acted: the test comes once, after the events of the cycle (R262). -/
def testDue (s : State) (g i : Nat) : State := s.updBarrier g i (fun b => { b with due := true, acted := true })

/-- Every barrier of a group on which events have fallen is tested, once (R262). -/
def settleGroup (s : State) (g : Nat) (grp : Group) : State :=
  (List.range grp.barriers.length).foldl (fun s i =>
    if (grp.barrier i).due then barrierTest (s.updBarrier g i (fun b => { b with due := false, acted := false })) g i else s) s

/-- The end of a cycle: the barriers of the groups on cores are tested; nothing updates those of a saved group (R262, R272). -/
def settleBarriers (s : State) : State :=
  s.groups.foldl (fun s e => if e.2.state = .resident then settleGroup s e.1 e.2 else s) s

/-- The next cycle begins, with no course selected in it (log entry 114). -/
def endCycle (s : State) : State := { settleBarriers s with inCycle := [] }

/-- Thirty-two bytes arrive for a barrier: counted in its 64-bit balance when it is ACTIVE (R10, R242, R259). The byte updates
of a cycle come before its instructions, so that one that finds an instruction before it belongs to the next cycle (R262). -/
def countSector (s : State) (g i : Nat) : State :=
  let s := if ((s.group g).map (fun x => (x.barrier i).acted)).getD false then endCycle s else s
  s.updBarrier g i (fun b => if b.init then { b with pend := (b.pend - 32).bmod (2 ^ 64), due := true } else b)

/-- A course's arrival (R261): a second one in a phase counts for nothing. -/
def Barrier.arrive (b : Barrier) (course : Nat) : Barrier :=
  if b.arrMask.getLsbD course then b
  else { b with arrMask := b.arrMask ||| (1#32 <<< course), arrived := b.arrived + 1 }

/-- The arrival breaches R261: a new course, and every expected one has arrived. -/
def Barrier.overfull (b : Barrier) (course : Nat) : Bool := !b.arrMask.getLsbD course && b.arrived == b.expect

/-- A barrier beyond the allocation, or in UNINIT, traps BARRIER_MISUSE (R259, R265); so does breach. Instructions
illegal in handler mode say so by handler (R267 to R269). -/
def barrierShape (x : View) (f : ASY) (vregs : List Nat) (handler needInit breach : Bool) : Shape :=
  let b := f.bar.toNat
  ⟨[7], vregs, fun n =>
    (if handler && (x.crs.lane n).inHandler then [.illegalForm] else [])
      ++ (if decide (x.grp.barriers.length ≤ b) || (needInit && !(x.grp.barrier b).init) || breach then [.barrierMisuse] else []),
    false, []⟩

/-- The value of the A operand for the whole issue (R265: uniform where it decides a trap). -/
def uniformOpd (x : View) (f : ASY) (ok : LaneMask) : Word :=
  (x.opd 64 ((lowLane ok).getD 0) (opdOf f.acls f.a)).val

def execBinit (k : Ctl) (f : ASY) (s : State) : Out :=
  s.issue fun x =>
    let n := (uniformOpd x f (x.active k)).toNat
    let bad := (x.grp.barrier f.bar.toNat).init || decide (n < 1) || decide (32 < n) || decide (x.grp.courses.length < n)
    finishEffect s x k (barrierShape x f [] false false bad) fun ok s =>
      if ok = 0 then s
      else testDue (s.updBarrier x.sel.grp f.bar.toNat (fun _ =>
        { Barrier.uninit with init := true, expect := BitVec.ofNat 6 n, cp := f.mod.getLsbD 0 })) x.sel.grp f.bar.toNat

/-- The arrival of a course, a release at GROUP scope: its earlier stores have left its FIFO (R208, R261). -/
def arriveAt (s : State) (x : View) (bar : Nat) : State :=
  (drainCourse s x.sel.grp x.sel.course).updBarrier x.sel.grp bar (fun b => b.arrive x.sel.course)

def execBarr (k : Ctl) (f : ASY) (s : State) : Out :=
  s.issue fun x =>
    let i := f.bar.toNat
    let b := x.grp.barrier i
    let d := dstOf f.dcls f.d
    let token := f.mod.getLsbD 0
    finishEffect s x k (barrierShape x f (if token then d.vregs else []) true true (b.overfull x.sel.course)) fun ok s =>
      if ok = 0 then s
      else
        let s := if token then applyRegs s x.sel.core x.sel.grp x.sel.course
            (x.result k ok d (fun _ => ⟨if b.phase then 1 else 0, false⟩)) else s
        testDue (arriveAt s x i) x.sel.grp i

/-- Lanes of a mask wait on a barrier, each with its token, unless the phase already differs (R263, R268). -/
def waitLanes (s : State) (x : View) (bar : Nat) (phase : Bool) (m : LaneMask) (token : Nat → Bool) : State :=
  s.updCourse x.sel.grp x.sel.course (fun c => c.mapLanes (fun n l =>
    if inMask m n && token n == phase then { l with hold := .barrier bar (token n) } else l))

def execBwait (k : Ctl) (f : ASY) (s : State) : Out :=
  s.issue fun x =>
    let a := opdOf f.acls f.a
    finishEffect s x k (barrierShape x f a.vregs true true false) fun ok s =>
      waitLanes s x f.bar.toNat (x.grp.barrier f.bar.toNat).phase ok (fun n => (x.opd 64 n a).val.getLsbD 0)

def execBarw (k : Ctl) (f : ASY) (s : State) : Out :=
  s.issue fun x =>
    let i := f.bar.toNat
    let b := x.grp.barrier i
    finishEffect s x k (barrierShape x f [] true true (b.overfull x.sel.course)) fun ok s =>
      if ok = 0 then s
      else testDue (waitLanes (arriveAt s x i) x i b.phase ok (fun _ => b.phase)) x.sel.grp i

/-- The byte balance after a BEXP, when it stays within 64 signed bits (R270). -/
def expected (b : Barrier) (v : Word) : Option Int :=
  let p := b.pend + v.toInt
  if -2 ^ 63 ≤ p ∧ p ≤ 2 ^ 63 - 1 then some p else none

def execBexp (k : Ctl) (f : ASY) (s : State) : Out :=
  s.issue fun x =>
    let i := f.bar.toNat
    let p := expected (x.grp.barrier i) (uniformOpd x f (x.active k))
    finishEffect s x k (barrierShape x f [] false true p.isNone) fun ok s =>
      if ok = 0 then s
      else testDue (s.updBarrier x.sel.grp i (fun b => { b with pend := p.getD 0, cpArr := true })) x.sel.grp i

/-- The slot before a PC (R64). -/
def pcPrev (pc : Word) : Word := if pc.toNat % 64 = 0x04 then pc - 16 else pc - 12

/-- The lanes of a group that wait on a barrier, with the PC of their BWAIT or BARW (R268, R271). -/
def barrierWaiters (g : Group) (bar : Nat) : List (Nat × Nat × Word) :=
  (List.range g.courses.length).flatMap fun c => (List.range 32).filterMap fun n =>
    let l := (g.course c).lane n
    match l.hold with
    | .barrier b _ => if l.live ∧ b = bar then some (c, n, pcPrev l.pc) else none
    | _ => none

/-- R271: the waiting lanes trap at the instruction they wait in. One that a HANDLER course freezes keeps its PC, and owes the
trap (R124). -/
def trapWaiters (s : State) (g : Nat) (ws : List (Nat × Nat × Word)) : State :=
  trapMany (ws.map fun w => (g, w.1, w.2.1, ⟨.barrierMisuse, 0, w.2.2, none⟩)) []
    (ws.foldl (fun s w => s.updCourse g w.1 (fun c =>
      if c.frozen w.2.1 then c else c.updLane w.2.1 (fun l => { l with pc := w.2.2, hold := .none }))) s)

def execBinv (k : Ctl) (f : ASY) (s : State) : Out :=
  s.issue fun x =>
    let i := f.bar.toNat
    finishEffect s x k (barrierShape x f [] false true false) fun ok s =>
      if ok = 0 then s
      else trapWaiters (testDue (s.updBarrier x.sel.grp i (fun _ => Barrier.uninit)) x.sel.grp i) x.sel.grp (barrierWaiters x.grp i)

end Sys2Proof.Machine
end

