-- ==== Sys2Proof/Decode.lean ====
section
/-!
DEFINITION. The decoder and the encoder of the 96-bit instruction words (spec/04_encoding.md, R70 to R87), with the
field checks that each instruction's owner chapter adds (R86). Decoding is total: every word is an instruction or a
decode fault by name.
-/

namespace Sys2Proof

/-- The RRR fields of a payload (R77). -/
def rdRRR (p : BitVec 64) : RRR where
  d := p.extractLsb' 56 8
  a := p.extractLsb' 48 8
  b := p.extractLsb' 40 8
  c := p.extractLsb' 32 8
  acls := p.extractLsb' 30 2
  bcls := p.extractLsb' 28 2
  ccls := p.extractLsb' 26 2
  dcls := p.extractLsb' 24 2
  ty := p.extractLsb' 20 4
  tyb := p.extractLsb' 16 4
  rm := p.extractLsb' 13 3
  sat := p.extractLsb' 12 1
  es := p.extractLsb' 10 2
  xl := p.extractLsb' 8 2
  xp := p.extractLsb' 4 4
  mod := p.extractLsb' 0 4

/-- The payload of RRR fields (R77). -/
def wrRRR (f : RRR) : BitVec 64 :=
  f.d ++ f.a ++ f.b ++ f.c ++ f.acls ++ f.bcls ++ f.ccls ++ f.dcls ++ f.ty ++ f.tyb ++ f.rm ++ f.sat ++ f.es ++ f.xl ++ f.xp ++ f.mod

/-- The RRI fields of a payload (R78). -/
def rdRRI (p : BitVec 64) : RRI where
  d := p.extractLsb' 56 8
  a := p.extractLsb' 48 8
  dcls := p.extractLsb' 46 2
  acls := p.extractLsb' 44 2
  ty := p.extractLsb' 40 4
  mod := p.extractLsb' 32 8
  imm := p.extractLsb' 0 32

/-- The payload of RRI fields (R78). -/
def wrRRI (f : RRI) : BitVec 64 :=
  f.d ++ f.a ++ f.dcls ++ f.acls ++ f.ty ++ f.mod ++ f.imm

/-- The MEM fields of a payload (R79). -/
def rdMEM (p : BitVec 64) : MEM where
  d := p.extractLsb' 56 8
  base := p.extractLsb' 48 8
  index := p.extractLsb' 40 8
  space := p.extractLsb' 38 2
  order := p.extractLsb' 35 3
  scope := p.extractLsb' 32 3
  width := p.extractLsb' 26 6
  bcls := p.extractLsb' 25 1
  ixen := p.extractLsb' 24 1
  off := p.extractLsb' 0 24

/-- The payload of MEM fields (R79). -/
def wrMEM (f : MEM) : BitVec 64 :=
  f.d ++ f.base ++ f.index ++ f.space ++ f.order ++ f.scope ++ f.width ++ f.bcls ++ f.ixen ++ f.off

/-- The BR fields of a payload (R81). -/
def rdBR (p : BitVec 64) : BR where
  loff := p.extractLsb' 32 32
  slot := p.extractLsb' 29 3
  y := p.extractLsb' 28 1
  xr := p.extractLsb' 20 8
  xcls := p.extractLsb' 19 1
  rsv := p.extractLsb' 0 19

/-- The payload of BR fields (R81). -/
def wrBR (f : BR) : BitVec 64 :=
  f.loff ++ f.slot ++ f.y ++ f.xr ++ f.xcls ++ f.rsv

/-- The MAT fields of a payload (R82). -/
def rdMAT (p : BitVec 64) : MAT where
  zd := p.extractLsb' 60 4
  va := p.extractLsb' 52 8
  bcls := p.extractLsb' 50 2
  bidx := p.extractLsb' 44 6
  sla := p.extractLsb' 40 4
  slb := p.extractLsb' 36 4
  pair := p.extractLsb' 35 1
  sp := p.extractLsb' 34 1
  bs := p.extractLsb' 33 1
  reuse := p.extractLsb' 32 1
  sat := p.extractLsb' 31 1
  ssc := p.extractLsb' 25 6
  vx := p.extractLsb' 17 8
  row := p.extractLsb' 11 6
  rm := p.extractLsb' 8 3
  rsv := p.extractLsb' 0 8

/-- The payload of MAT fields (R82). -/
def wrMAT (f : MAT) : BitVec 64 :=
  f.zd ++ f.va ++ f.bcls ++ f.bidx ++ f.sla ++ f.slb ++ f.pair ++ f.sp ++ f.bs ++ f.reuse ++ f.sat ++ f.ssc ++ f.vx ++ f.row ++ f.rm ++ f.rsv

/-- The ASY fields of a payload (R83). -/
def rdASY (p : BitVec 64) : ASY where
  d := p.extractLsb' 56 8
  a := p.extractLsb' 48 8
  b := p.extractLsb' 40 8
  dcls := p.extractLsb' 38 2
  acls := p.extractLsb' 36 2
  bcls := p.extractLsb' 34 2
  win := p.extractLsb' 28 6
  bar := p.extractLsb' 24 4
  node := p.extractLsb' 16 8
  ccls := p.extractLsb' 13 3
  cnt := p.extractLsb' 7 6
  mod := p.extractLsb' 0 7

/-- The payload of ASY fields (R83). -/
def wrASY (f : ASY) : BitVec 64 :=
  f.d ++ f.a ++ f.b ++ f.dcls ++ f.acls ++ f.bcls ++ f.win ++ f.bar ++ f.node ++ f.ccls ++ f.cnt ++ f.mod

/-- The SYS fields of a payload (R84). -/
def rdSYS (p : BitVec 64) : SYS where
  d := p.extractLsb' 56 8
  a := p.extractLsb' 48 8
  dcls := p.extractLsb' 46 2
  acls := p.extractLsb' 44 2
  spr := p.extractLsb' 36 8
  code := p.extractLsb' 20 16
  rsv := p.extractLsb' 0 20

/-- The payload of SYS fields (R84). -/
def wrSYS (f : SYS) : BitVec 64 :=
  f.d ++ f.a ++ f.dcls ++ f.acls ++ f.spr ++ f.code ++ f.rsv

/-- The WAIT, SETF, GNEG and GPRED fields of a word (R70). -/
def rdCtl (w : IWord) : Ctl where
  wait := w.extractLsb' 84 12
  setf := w.extractLsb' 80 4
  gneg := w.extractLsb' 79 1
  gpred := w.extractLsb' 75 4

/-- The whole word from its parts (R70). -/
def wrWord (k : Ctl) (opcode : BitVec 11) (payload : BitVec 64) : IWord :=
  k.wait ++ k.setf ++ k.gneg ++ k.gpred ++ opcode ++ payload


/-- The instruction an opcode names, its payload read in the format of R85; none where R85 lists no such opcode. -/
def ofOpcode (opcode : BitVec 11) (k : Ctl) (p : BitVec 64) : Option Instr :=
  match opcode.toNat with
  | 0x000 => some (.iadd k (rdRRR p))
  | 0x080 => some (.iaddImm k (rdRRI p))
  | 0x001 => some (.isub k (rdRRR p))
  | 0x081 => some (.isubImm k (rdRRI p))
  | 0x002 => some (.imul k (rdRRR p))
  | 0x082 => some (.imulImm k (rdRRI p))
  | 0x003 => some (.imulh k (rdRRR p))
  | 0x004 => some (.imad k (rdRRR p))
  | 0x005 => some (.ineg k (rdRRR p))
  | 0x006 => some (.iabs k (rdRRR p))
  | 0x007 => some (.imin k (rdRRR p))
  | 0x087 => some (.iminImm k (rdRRI p))
  | 0x008 => some (.imax k (rdRRR p))
  | 0x088 => some (.imaxImm k (rdRRI p))
  | 0x009 => some (.ishl k (rdRRR p))
  | 0x00a => some (.ishr k (rdRRR p))
  | 0x00b => some (.irot k (rdRRR p))
  | 0x00c => some (.and k (rdRRR p))
  | 0x08c => some (.andImm k (rdRRI p))
  | 0x00d => some (.or k (rdRRR p))
  | 0x08d => some (.orImm k (rdRRI p))
  | 0x00e => some (.xor k (rdRRR p))
  | 0x08e => some (.xorImm k (rdRRI p))
  | 0x00f => some (.andn k (rdRRR p))
  | 0x08f => some (.andnImm k (rdRRI p))
  | 0x010 => some (.not k (rdRRR p))
  | 0x011 => some (.bfx k (rdRRR p))
  | 0x012 => some (.bfi k (rdRRR p))
  | 0x013 => some (.brev k (rdRRR p))
  | 0x014 => some (.popc k (rdRRR p))
  | 0x015 => some (.clz k (rdRRR p))
  | 0x016 => some (.ctz k (rdRRR p))
  | 0x017 => some (.icmp k (rdRRR p))
  | 0x097 => some (.icmpImm k (rdRRI p))
  | 0x018 => some (.isel k (rdRRR p))
  | 0x019 => some (.lea k (rdRRR p))
  | 0x099 => some (.leaImm k (rdRRI p))
  | 0x01a => some (.mov k (rdRRR p))
  | 0x09a => some (.movi k (rdRRI p))
  | 0x01b => some (.pset k (rdRRR p))
  | 0x01c => some (.plop k (rdRRR p))
  | 0x030 => some (.shfl k (rdRRR p))
  | 0x031 => some (.qxch k (rdRRR p))
  | 0x032 => some (.vote k (rdRRR p))
  | 0x033 => some (.perm k (rdRRR p))
  | 0x034 => some (.pack k (rdRRR p))
  | 0x035 => some (.unpack k (rdRRR p))
  | 0x040 => some (.movs k (rdSYS p))
  | 0x041 => some (.movss k (rdSYS p))
  | 0x042 => some (.pchk k (rdRRR p))
  | 0x043 => some (.pclr k (rdRRR p))
  | 0x100 => some (.fadd k (rdRRR p))
  | 0x101 => some (.fsub k (rdRRR p))
  | 0x102 => some (.fmul k (rdRRR p))
  | 0x103 => some (.fma k (rdRRR p))
  | 0x104 => some (.fmin k (rdRRR p))
  | 0x105 => some (.fmax k (rdRRR p))
  | 0x106 => some (.fcmp k (rdRRR p))
  | 0x107 => some (.fclass k (rdRRR p))
  | 0x108 => some (.frnd k (rdRRR p))
  | 0x109 => some (.fscale k (rdRRR p))
  | 0x110 => some (.frcp k (rdRRR p))
  | 0x111 => some (.frsq k (rdRRR p))
  | 0x112 => some (.fsqrt k (rdRRR p))
  | 0x113 => some (.fexp2 k (rdRRR p))
  | 0x114 => some (.flog2 k (rdRRR p))
  | 0x115 => some (.fsin k (rdRRR p))
  | 0x116 => some (.fcos k (rdRRR p))
  | 0x117 => some (.ftanh k (rdRRR p))
  | 0x118 => some (.fdiv k (rdRRR p))
  | 0x120 => some (.cvt k (rdRRR p))
  | 0x121 => some (.cvti k (rdRRR p))
  | 0x122 => some (.cvtf k (rdRRR p))
  | 0x123 => some (.bscale k (rdRRR p))
  | 0x124 => some (.fmtq k (rdRRR p))
  | 0x200 => some (.ld k (rdMEM p))
  | 0x201 => some (.st k (rdMEM p))
  | 0x202 => some (.cas k (rdMEM p))
  | 0x203 => some (.fence k (rdMEM p))
  | 0x204 => some (.pref k (rdMEM p))
  | 0x205 => some (.cctl k (rdMEM p))
  | 0x206 => some (.probe k (rdMEM p))
  | 0x207 => some (.mapc k (rdRRR p))
  | 0x210 => some (.atomAdd k (rdMEM p))
  | 0x211 => some (.atomMin k (rdMEM p))
  | 0x212 => some (.atomMax k (rdMEM p))
  | 0x213 => some (.atomAnd k (rdMEM p))
  | 0x214 => some (.atomOr k (rdMEM p))
  | 0x215 => some (.atomXor k (rdMEM p))
  | 0x216 => some (.atomXchg k (rdMEM p))
  | 0x220 => some (.redAdd k (rdMEM p))
  | 0x221 => some (.redMin k (rdMEM p))
  | 0x222 => some (.redMax k (rdMEM p))
  | 0x223 => some (.redAnd k (rdMEM p))
  | 0x224 => some (.redOr k (rdMEM p))
  | 0x225 => some (.redXor k (rdMEM p))
  | 0x300 => some (.wbind k (rdASY p))
  | 0x301 => some (.wtouch k (rdASY p))
  | 0x302 => some (.wstat k (rdASY p))
  | 0x303 => some (.wdrop k (rdASY p))
  | 0x304 => some (.wflush k (rdASY p))
  | 0x305 => some (.cntwait k (rdASY p))
  | 0x340 => some (.binit k (rdASY p))
  | 0x341 => some (.barr k (rdASY p))
  | 0x342 => some (.bwait k (rdASY p))
  | 0x343 => some (.barw k (rdASY p))
  | 0x344 => some (.bexp k (rdASY p))
  | 0x345 => some (.binv k (rdASY p))
  | 0x380 => some (.mma k (rdMAT p))
  | 0x381 => some (.mmaz k (rdMAT p))
  | 0x382 => some (.zld k (rdMAT p))
  | 0x383 => some (.zst k (rdMAT p))
  | 0x384 => some (.zmov k (rdMAT p))
  | 0x385 => some (.zrmax k (rdMAT p))
  | 0x386 => some (.zrscale k (rdMAT p))
  | 0x400 => some (.bra k (rdBR p))
  | 0x401 => some (.brx k (rdBR p))
  | 0x402 => some (.call k (rdBR p))
  | 0x403 => some (.callx k (rdBR p))
  | 0x404 => some (.ret k (rdBR p))
  | 0x405 => some (.exit k (rdSYS p))
  | 0x406 => some (.yield k (rdSYS p))
  | 0x407 => some (.sleep k (rdSYS p))
  | 0x408 => some (.nop k (rdSYS p))
  | 0x409 => some (.regq k (rdSYS p))
  | 0x480 => some (.rres k (rdASY p))
  | 0x481 => some (.remit k (rdASY p))
  | 0x482 => some (.rcancel k (rdASY p))
  | 0x483 => some (.fetch k (rdASY p))
  | 0x500 => some (.txbegin k (rdBR p))
  | 0x501 => some (.txend k (rdASY p))
  | 0x502 => some (.txabort k (rdASY p))
  | 0x503 => some (.txstat k (rdASY p))
  | 0x540 => some (.trap k (rdSYS p))
  | 0x541 => some (.bkpt k (rdSYS p))
  | 0x542 => some (.hret k (rdSYS p))
  | 0x543 => some (.qpost k (rdSYS p))
  | 0x544 => some (.ckpt k (rdSYS p))
  | _ => none

/-- The opcode, control fields and payload of an instruction of R85; none for a step that has no encoding. -/
def parts (i : Instr) : Option (Ctl × BitVec 11 × BitVec 64) :=
  match i with
  | .iadd k f => some (k, 0x000, wrRRR f)
  | .iaddImm k f => some (k, 0x080, wrRRI f)
  | .isub k f => some (k, 0x001, wrRRR f)
  | .isubImm k f => some (k, 0x081, wrRRI f)
  | .imul k f => some (k, 0x002, wrRRR f)
  | .imulImm k f => some (k, 0x082, wrRRI f)
  | .imulh k f => some (k, 0x003, wrRRR f)
  | .imad k f => some (k, 0x004, wrRRR f)
  | .ineg k f => some (k, 0x005, wrRRR f)
  | .iabs k f => some (k, 0x006, wrRRR f)
  | .imin k f => some (k, 0x007, wrRRR f)
  | .iminImm k f => some (k, 0x087, wrRRI f)
  | .imax k f => some (k, 0x008, wrRRR f)
  | .imaxImm k f => some (k, 0x088, wrRRI f)
  | .ishl k f => some (k, 0x009, wrRRR f)
  | .ishr k f => some (k, 0x00a, wrRRR f)
  | .irot k f => some (k, 0x00b, wrRRR f)
  | .and k f => some (k, 0x00c, wrRRR f)
  | .andImm k f => some (k, 0x08c, wrRRI f)
  | .or k f => some (k, 0x00d, wrRRR f)
  | .orImm k f => some (k, 0x08d, wrRRI f)
  | .xor k f => some (k, 0x00e, wrRRR f)
  | .xorImm k f => some (k, 0x08e, wrRRI f)
  | .andn k f => some (k, 0x00f, wrRRR f)
  | .andnImm k f => some (k, 0x08f, wrRRI f)
  | .not k f => some (k, 0x010, wrRRR f)
  | .bfx k f => some (k, 0x011, wrRRR f)
  | .bfi k f => some (k, 0x012, wrRRR f)
  | .brev k f => some (k, 0x013, wrRRR f)
  | .popc k f => some (k, 0x014, wrRRR f)
  | .clz k f => some (k, 0x015, wrRRR f)
  | .ctz k f => some (k, 0x016, wrRRR f)
  | .icmp k f => some (k, 0x017, wrRRR f)
  | .icmpImm k f => some (k, 0x097, wrRRI f)
  | .isel k f => some (k, 0x018, wrRRR f)
  | .lea k f => some (k, 0x019, wrRRR f)
  | .leaImm k f => some (k, 0x099, wrRRI f)
  | .mov k f => some (k, 0x01a, wrRRR f)
  | .movi k f => some (k, 0x09a, wrRRI f)
  | .pset k f => some (k, 0x01b, wrRRR f)
  | .plop k f => some (k, 0x01c, wrRRR f)
  | .shfl k f => some (k, 0x030, wrRRR f)
  | .qxch k f => some (k, 0x031, wrRRR f)
  | .vote k f => some (k, 0x032, wrRRR f)
  | .perm k f => some (k, 0x033, wrRRR f)
  | .pack k f => some (k, 0x034, wrRRR f)
  | .unpack k f => some (k, 0x035, wrRRR f)
  | .movs k f => some (k, 0x040, wrSYS f)
  | .movss k f => some (k, 0x041, wrSYS f)
  | .pchk k f => some (k, 0x042, wrRRR f)
  | .pclr k f => some (k, 0x043, wrRRR f)
  | .fadd k f => some (k, 0x100, wrRRR f)
  | .fsub k f => some (k, 0x101, wrRRR f)
  | .fmul k f => some (k, 0x102, wrRRR f)
  | .fma k f => some (k, 0x103, wrRRR f)
  | .fmin k f => some (k, 0x104, wrRRR f)
  | .fmax k f => some (k, 0x105, wrRRR f)
  | .fcmp k f => some (k, 0x106, wrRRR f)
  | .fclass k f => some (k, 0x107, wrRRR f)
  | .frnd k f => some (k, 0x108, wrRRR f)
  | .fscale k f => some (k, 0x109, wrRRR f)
  | .frcp k f => some (k, 0x110, wrRRR f)
  | .frsq k f => some (k, 0x111, wrRRR f)
  | .fsqrt k f => some (k, 0x112, wrRRR f)
  | .fexp2 k f => some (k, 0x113, wrRRR f)
  | .flog2 k f => some (k, 0x114, wrRRR f)
  | .fsin k f => some (k, 0x115, wrRRR f)
  | .fcos k f => some (k, 0x116, wrRRR f)
  | .ftanh k f => some (k, 0x117, wrRRR f)
  | .fdiv k f => some (k, 0x118, wrRRR f)
  | .cvt k f => some (k, 0x120, wrRRR f)
  | .cvti k f => some (k, 0x121, wrRRR f)
  | .cvtf k f => some (k, 0x122, wrRRR f)
  | .bscale k f => some (k, 0x123, wrRRR f)
  | .fmtq k f => some (k, 0x124, wrRRR f)
  | .ld k f => some (k, 0x200, wrMEM f)
  | .st k f => some (k, 0x201, wrMEM f)
  | .cas k f => some (k, 0x202, wrMEM f)
  | .fence k f => some (k, 0x203, wrMEM f)
  | .pref k f => some (k, 0x204, wrMEM f)
  | .cctl k f => some (k, 0x205, wrMEM f)
  | .probe k f => some (k, 0x206, wrMEM f)
  | .mapc k f => some (k, 0x207, wrRRR f)
  | .atomAdd k f => some (k, 0x210, wrMEM f)
  | .atomMin k f => some (k, 0x211, wrMEM f)
  | .atomMax k f => some (k, 0x212, wrMEM f)
  | .atomAnd k f => some (k, 0x213, wrMEM f)
  | .atomOr k f => some (k, 0x214, wrMEM f)
  | .atomXor k f => some (k, 0x215, wrMEM f)
  | .atomXchg k f => some (k, 0x216, wrMEM f)
  | .redAdd k f => some (k, 0x220, wrMEM f)
  | .redMin k f => some (k, 0x221, wrMEM f)
  | .redMax k f => some (k, 0x222, wrMEM f)
  | .redAnd k f => some (k, 0x223, wrMEM f)
  | .redOr k f => some (k, 0x224, wrMEM f)
  | .redXor k f => some (k, 0x225, wrMEM f)
  | .wbind k f => some (k, 0x300, wrASY f)
  | .wtouch k f => some (k, 0x301, wrASY f)
  | .wstat k f => some (k, 0x302, wrASY f)
  | .wdrop k f => some (k, 0x303, wrASY f)
  | .wflush k f => some (k, 0x304, wrASY f)
  | .cntwait k f => some (k, 0x305, wrASY f)
  | .binit k f => some (k, 0x340, wrASY f)
  | .barr k f => some (k, 0x341, wrASY f)
  | .bwait k f => some (k, 0x342, wrASY f)
  | .barw k f => some (k, 0x343, wrASY f)
  | .bexp k f => some (k, 0x344, wrASY f)
  | .binv k f => some (k, 0x345, wrASY f)
  | .mma k f => some (k, 0x380, wrMAT f)
  | .mmaz k f => some (k, 0x381, wrMAT f)
  | .zld k f => some (k, 0x382, wrMAT f)
  | .zst k f => some (k, 0x383, wrMAT f)
  | .zmov k f => some (k, 0x384, wrMAT f)
  | .zrmax k f => some (k, 0x385, wrMAT f)
  | .zrscale k f => some (k, 0x386, wrMAT f)
  | .bra k f => some (k, 0x400, wrBR f)
  | .brx k f => some (k, 0x401, wrBR f)
  | .call k f => some (k, 0x402, wrBR f)
  | .callx k f => some (k, 0x403, wrBR f)
  | .ret k f => some (k, 0x404, wrBR f)
  | .exit k f => some (k, 0x405, wrSYS f)
  | .yield k f => some (k, 0x406, wrSYS f)
  | .sleep k f => some (k, 0x407, wrSYS f)
  | .nop k f => some (k, 0x408, wrSYS f)
  | .regq k f => some (k, 0x409, wrSYS f)
  | .rres k f => some (k, 0x480, wrASY f)
  | .remit k f => some (k, 0x481, wrASY f)
  | .rcancel k f => some (k, 0x482, wrASY f)
  | .fetch k f => some (k, 0x483, wrASY f)
  | .txbegin k f => some (k, 0x500, wrBR f)
  | .txend k f => some (k, 0x501, wrASY f)
  | .txabort k f => some (k, 0x502, wrASY f)
  | .txstat k f => some (k, 0x503, wrASY f)
  | .trap k f => some (k, 0x540, wrSYS f)
  | .bkpt k f => some (k, 0x541, wrSYS f)
  | .hret k f => some (k, 0x542, wrSYS f)
  | .qpost k f => some (k, 0x543, wrSYS f)
  | .ckpt k f => some (k, 0x544, wrSYS f)
  | _ => none

/-! ### Which field values an opcode admits (R73, R75, R86 and the owner chapters)

A mask of classes or codes is written as a number whose bit k admits the value k. -/

/-- Bit k of a mask of admitted values. -/
def admits (mask k : Nat) : Bool := mask.testBit k

/-- An operand field of class cls and index idx under a mask of admitted classes (R75): 1 V, 2 S, 4 P, 8 IMM8;
mask 0 is an unused operand, whose field and class must be zero. -/
def opd (mask : Nat) (cls : BitVec 2) (idx : BitVec 8) : Bool :=
  if mask = 0 then cls = 0 && idx = 0
  else admits mask cls.toNat && (cls != 1 || idx.toNat < 64) && (cls != 2 || idx.toNat < 16)

/-- The RRR fields (R77, R138, R161): masks for d, a, b, c, TY, TYB, ES and MOD; whether RM, SAT and XL may be used. -/
def rrrOk (d a b c ty tyb : Nat) (rm sat : Bool) (es : Nat) (xl : Bool) (mod : Nat) (f : RRR) : Bool :=
  opd d f.dcls f.d && f.dcls != 3 && opd a f.acls f.a && opd b f.bcls f.b && opd c f.ccls f.c
    && admits ty f.ty.toNat && admits tyb f.tyb.toNat
    && (if rm then decide (f.rm.toNat < 6) else f.rm == 0) && (sat || f.sat == 0) && admits es f.es.toNat
    && (if xl && f.xl == 1 then f.xp != 15 else f.xl == 0 && f.xp == 0) && admits mod f.mod.toNat

/-- The RRI fields of R139: masks for d, a, SUB and ES, and whether SAT may be used. -/
def rriOk (d a sub : Nat) (sat : Bool) (es : Nat) (f : RRI) : Bool :=
  opd d f.dcls f.d && opd a f.acls f.a && f.ty.toNat < 2 && !f.mod.getLsbD 7
    && admits sub (f.mod.toNat / 8 % 16) && (sat || !f.mod.getLsbD 2) && admits es (f.mod.toNat % 4)

/-- BASE and BCLS (R217). -/
def baseOk (f : MEM) : Bool := f.bcls = 0 || f.base.toNat < 64
/-- INDEX where IXEN enables an index register (R217). -/
def indexOk (f : MEM) : Bool := f.ixen = 1 || f.index = 0
/-- The width codes of LD, ST, PREF and PROBE (R80): the last data register must not pass V255. -/
def widthOk (f : MEM) : Bool :=
  f.width.toNat < 4 || (f.width = 4 && f.d.toNat < 255) || (f.width = 5 && f.d.toNat < 253) || 0x21 ≤ f.width.toNat
/-- ORDER and SCOPE (R79, R217): a weak access has SCOPE 0. -/
def orderOk (f : MEM) (orders : List Nat) : Bool :=
  orders.contains f.order.toNat && f.scope.toNat < 5 && (f.order != 0 || f.scope = 0)
def memOk (f : MEM) (orders : List Nat) : Bool := baseOk f && indexOk f && orderOk f orders
def atomOk (f : MEM) (orders : List Nat) : Bool := baseOk f && orderOk f orders

/-- The special register codes that can be read (R76). -/
def sprRead (c : BitVec 8) : Bool := c.toNat ≤ 0x0E || (0x10 ≤ c.toNat && c.toNat ≤ 0x17)
/-- The special register codes that can be written in some mode (R76). -/
def sprWrite (c : BitVec 8) : Bool := c.toNat = 9 || c.toNat = 10 || c.toNat = 12 || c.toNat = 13

/-- Whether the payload fields of an instruction are ones its owner chapter defines (R86). -/
def payloadOk (i : Instr) : Bool :=
  match i with
  | .iadd _ f => rrrOk 0x3 0xb 0xb 0x0 0x3 0x1 false true 0xf false 0x1 f
  | .iaddImm _ f => rriOk 0x3 0x3 0x1 true 0xf f
  | .isub _ f => rrrOk 0x3 0xb 0xb 0x0 0x3 0x1 false true 0xf false 0x1 f
  | .isubImm _ f => rriOk 0x3 0x3 0x1 true 0xf f
  | .imul _ f => rrrOk 0x3 0xb 0xb 0x0 0x3 0x1 false true 0xf false 0x1 f
  | .imulImm _ f => rriOk 0x3 0x3 0x1 true 0xf f
  | .imulh _ f => rrrOk 0x3 0xb 0xb 0x0 0x3 0x1 false false 0xf false 0x1 f
  | .imad _ f => rrrOk 0x3 0xb 0xb 0xb 0x3 0x1 false true 0xf false 0x1 f
  | .ineg _ f => rrrOk 0x3 0xb 0x0 0x0 0x1 0x1 false true 0xf false 0x1 f
  | .iabs _ f => rrrOk 0x3 0xb 0x0 0x0 0x1 0x1 false true 0xf false 0x1 f
  | .imin _ f => rrrOk 0x3 0xb 0xb 0x0 0x3 0x1 false false 0xf false 0x1 f
  | .iminImm _ f => rriOk 0x3 0x3 0x1 false 0xf f
  | .imax _ f => rrrOk 0x3 0xb 0xb 0x0 0x3 0x1 false false 0xf false 0x1 f
  | .imaxImm _ f => rriOk 0x3 0x3 0x1 false 0xf f
  | .ishl _ f => rrrOk 0x3 0xb 0xb 0x0 0x3 0x1 false false 0xf false 0x1 f
  | .ishr _ f => rrrOk 0x3 0xb 0xb 0x0 0x3 0x1 false false 0xf false 0x1 f
  | .irot _ f => rrrOk 0x3 0xb 0xb 0x0 0x3 0x1 false false 0xf false 0x1 f
  | .and _ f => rrrOk 0x3 0xb 0xb 0x0 0x3 0x1 false false 0xf false 0x1 f
  | .andImm _ f => rriOk 0x3 0x3 0x1 false 0xf f
  | .or _ f => rrrOk 0x3 0xb 0xb 0x0 0x3 0x1 false false 0xf false 0x1 f
  | .orImm _ f => rriOk 0x3 0x3 0x1 false 0xf f
  | .xor _ f => rrrOk 0x3 0xb 0xb 0x0 0x3 0x1 false false 0xf false 0x1 f
  | .xorImm _ f => rriOk 0x3 0x3 0x1 false 0xf f
  | .andn _ f => rrrOk 0x3 0xb 0xb 0x0 0x3 0x1 false false 0xf false 0x1 f
  | .andnImm _ f => rriOk 0x3 0x3 0x1 false 0xf f
  | .not _ f => rrrOk 0x3 0xb 0x0 0x0 0x3 0x1 false false 0xf false 0x1 f
  | .bfx _ f => rrrOk 0x3 0xb 0xb 0xb 0x3 0x1 false false 0xf false 0x1 f
  | .bfi _ f => rrrOk 0x3 0xb 0xb 0xb 0x3 0x1 false false 0xf false 0x1 f
  | .brev _ f => rrrOk 0x3 0xb 0x0 0x0 0x3 0x1 false false 0xf false 0x1 f
  | .popc _ f => rrrOk 0x3 0xb 0x0 0x0 0x3 0x1 false false 0xf false 0x1 f
  | .clz _ f => rrrOk 0x3 0xb 0x0 0x0 0x3 0x1 false false 0xf false 0x1 f
  | .ctz _ f => rrrOk 0x3 0xb 0x0 0x0 0x3 0x1 false false 0xf false 0x1 f
  | .icmp _ f => rrrOk 0x7 0xb 0xb 0x0 0x3 0x3f false false 0xf false 0x1 f
  | .icmpImm _ f => rriOk 0x7 0x3 0x3f false 0xf f
  | .isel _ f => rrrOk 0x3 0xb 0xb 0x7 0x3 0x1 false false 0xf false 0x1 f
  | .lea _ f => rrrOk 0x3 0x3 0xb 0x0 0x3 0xffff false false 0xc false 0x1 f
  | .leaImm _ f => rriOk 0x3 0x3 0xffff false 0xc f
  | .mov _ f => rrrOk 0x7 0xf 0x0 0x0 0x1 0x1 false false 0x8 false 0x1 f
  | .movi _ f => opd 0x3 f.dcls f.d && opd 0x0 f.acls f.a && f.ty.toNat < 2 && f.mod.toNat < 2 && !(f.ty = 1 && f.mod = 1)
  | .pset _ f => if f.tyb = 0 then rrrOk 0x4 0x3 0xb 0x0 0x1 0x1 false false 0x8 false 0x1 f
      else rrrOk 0x4 0x3 0x0 0x0 0x1 0x2 false false 0x8 false 0x1 f
  | .plop _ f => rrrOk 0x4 0x4 0x4 0x4 0x1 0xffff false false 0x8 false 0xffff f
  | .shfl _ f => rrrOk 0x1 0x1 0xb 0x0 0x1 0xf false false 0xf true 0x1 f
  | .qxch _ f => rrrOk 0x1 0x1 0x8 0x0 0x1 0x1 false false 0x8 true 0x1 f
  | .vote _ f => rrrOk 0x2 0x4 0x0 0x0 0x1 0x7 false false 0x8 false 0x1 f
  | .perm _ f => rrrOk 0x1 0x1 0x3 0x0 0x1 0x1 false false 0x8 true 0x1 f
  | .pack _ f => rrrOk 0x1 0x1 0xb 0x0 0x3 0x1 false true 0x7 true 0x1 f
  | .unpack _ f => rrrOk 0x1 0x1 0xb 0x0 0x3 0x1 false false 0x7 true 0x1 f
  | .movs _ f => f.a = 0 && f.acls = 0 && f.code = 0 && f.rsv = 0 && opd 0x3 f.dcls f.d && sprRead f.spr
  | .movss _ f => f.d = 0 && f.dcls = 0 && f.code = 0 && f.rsv = 0 && opd 0xb f.acls f.a && sprWrite f.spr
  | .pchk _ f => rrrOk 0x4 0x7 0x0 0x0 0x1 0x1 false false 0x8 false 0x1 f
  | .pclr _ f => rrrOk 0x7 0x7 0x0 0x0 0x1 0x1 false false 0x8 false 0x1 f && f.dcls = f.acls
  | .fadd _ f => rrrOk 0x3 0xb 0xb 0x0 0xffff 0x1 true true 0x1 false 0x1 f
  | .fsub _ f => rrrOk 0x3 0xb 0xb 0x0 0xffff 0x1 true true 0x1 false 0x1 f
  | .fmul _ f => rrrOk 0x3 0xb 0xb 0x0 0xffff 0x1 true true 0x1 false 0x1 f
  | .fma _ f => rrrOk 0x3 0xb 0xb 0xb 0xffff 0x1 true true 0x1 false 0x1 f
  | .fmin _ f => rrrOk 0x3 0xb 0xb 0x0 0xffff 0x1 false false 0x1 false 0x3 f
  | .fmax _ f => rrrOk 0x3 0xb 0xb 0x0 0xffff 0x1 false false 0x1 false 0x3 f
  | .fcmp _ f => rrrOk 0x7 0xb 0xb 0x0 0xffff 0xff false false 0x1 false 0x1 f
  | .fclass _ f => rrrOk 0x7 0xb 0xb 0x0 0xffff 0x1 false false 0x1 false 0x1 f
  | .frnd _ f => rrrOk 0x3 0xb 0x0 0x0 0xffff 0x1 true false 0x1 false 0x1 f
  | .fscale _ f => rrrOk 0x3 0xb 0xb 0x0 0xffff 0x1 true true 0x1 false 0x1 f
  | .frcp _ f => rrrOk 0x3 0xb 0x0 0x0 0xffff 0x1 true true 0x1 false 0x1 f
  | .frsq _ f => rrrOk 0x3 0xb 0x0 0x0 0xffff 0x1 true true 0x1 false 0x1 f
  | .fsqrt _ f => rrrOk 0x3 0xb 0x0 0x0 0xffff 0x1 true true 0x1 false 0x1 f
  | .fexp2 _ f => rrrOk 0x3 0xb 0x0 0x0 0xffff 0x1 true true 0x1 false 0x1 f
  | .flog2 _ f => rrrOk 0x3 0xb 0x0 0x0 0xffff 0x1 true true 0x1 false 0x1 f
  | .fsin _ f => rrrOk 0x3 0xb 0x0 0x0 0xffff 0x1 true true 0x1 false 0x1 f
  | .fcos _ f => rrrOk 0x3 0xb 0x0 0x0 0xffff 0x1 true true 0x1 false 0x1 f
  | .ftanh _ f => rrrOk 0x3 0xb 0x0 0x0 0xffff 0x1 true true 0x1 false 0x1 f
  | .fdiv _ f => rrrOk 0x3 0xb 0xb 0x0 0xffff 0x1 true true 0x1 false 0x1 f
  | .cvt _ f => rrrOk 0x3 0xb 0x0 0x0 0xffff 0xffff true true 0x1 false 0xffff f
  | .cvti _ f => rrrOk 0x3 0xb 0x0 0x0 0xffff 0xff true true 0x1 false 0xffff f
  | .cvtf _ f => rrrOk 0x3 0xb 0x0 0x0 0xff 0xffff true true 0x1 false 0xffff f
  | .bscale _ f => (rrrOk 0x3 0xb 0xb 0x8 0xffff 0xffff true true 0x1 false 0xffff f) && f.c.toNat < 2
  | .fmtq _ f => rrrOk 0x3 0x0 0x0 0x0 0x1 0xffff false false 0x1 false 0x1 f
  | .ld _ f => memOk f [0, 1, 2] && widthOk f
  | .st _ f => memOk f [0, 1, 3] && widthOk f
  | .cas _ f => atomOk f [1, 2, 3, 4] && f.width.toNat < 8 && f.index != 255
  | .fence _ f => f.d = 0 && f.base = 0 && f.index = 0 && f.space = 0 && [2, 3, 4].contains f.order.toNat && f.scope.toNat < 5
      && f.width = 0 && f.bcls = 0 && f.ixen = 0 && f.off = 0
  | .pref _ f => f.d.toNat < 2 && baseOk f && indexOk f && (f.space = 0 || f.space = 3) && f.order = 0 && f.scope = 0 && widthOk { f with d := 0 }
  | .cctl _ f => f.index = 0 && f.ixen = 0 && f.order = 0 && f.scope = 0 && f.width = 0
      && (if f.d = 1 then f.base = 0 && f.bcls = 0 && f.space = 0 && f.off = 0
          else (f.d = 0 || f.d = 2) && baseOk f && (f.space = 0 || f.space = 3))
  | .probe _ f => baseOk f && indexOk f && (f.space = 0 || f.space = 3) && f.order = 0 && f.scope = 0 && widthOk f
  | .mapc _ f => if f.tyb = 2 then rrrOk 0x3 0x0 0x0 0x0 0x1 0x4 false false 0x1 false 0x1 f
      else rrrOk 0x3 0xb 0x0 0x0 0x1 0x3 false false 0x1 false 0x1 f
  | .atomAdd _ f => atomOk f [1, 2, 3, 4] && f.width.toNat < 8
  | .atomMin _ f => atomOk f [1, 2, 3, 4] && f.width.toNat < 4
  | .atomMax _ f => atomOk f [1, 2, 3, 4] && f.width.toNat < 4
  | .atomAnd _ f => atomOk f [1, 2, 3, 4] && f.width.toNat < 4
  | .atomOr _ f => atomOk f [1, 2, 3, 4] && f.width.toNat < 4
  | .atomXor _ f => atomOk f [1, 2, 3, 4] && f.width.toNat < 4
  | .atomXchg _ f => atomOk f [1, 2, 3, 4] && f.width.toNat < 8
  | .redAdd _ f => atomOk f [1, 3] && f.d = 0 && f.width.toNat < 8
  | .redMin _ f => atomOk f [1, 3] && f.d = 0 && f.width.toNat < 4
  | .redMax _ f => atomOk f [1, 3] && f.d = 0 && f.width.toNat < 4
  | .redAnd _ f => atomOk f [1, 3] && f.d = 0 && f.width.toNat < 4
  | .redOr _ f => atomOk f [1, 3] && f.d = 0 && f.width.toNat < 4
  | .redXor _ f => atomOk f [1, 3] && f.d = 0 && f.width.toNat < 4
  | .wbind _ f => f.d = 0 && f.dcls = 0 && f.node = 0 && f.ccls = 0 && f.cnt = 0 && f.acls = 1 && f.bcls = 1 && f.a.toNat < 64 && f.b.toNat < 64
      && f.mod.toNat < 3 && (f.mod = 0 || f.bar = 0)
  | .wtouch _ f => f.d = 0 && f.a = 0 && f.b = 0 && f.dcls = 0 && f.acls = 0 && f.bcls = 0 && f.bar = 0 && f.node = 0 && f.ccls = 0 && f.cnt = 0 && f.mod = 0 && true
  | .wstat _ f => f.a = 0 && f.b = 0 && f.acls = 0 && f.bcls = 0 && f.bar = 0 && f.node = 0 && f.ccls = 0 && f.cnt = 0 && f.mod = 0 && opd 0x3 f.dcls f.d
  | .wdrop _ f => f.d = 0 && f.a = 0 && f.b = 0 && f.dcls = 0 && f.acls = 0 && f.bcls = 0 && f.bar = 0 && f.node = 0 && f.ccls = 0 && f.cnt = 0 && f.mod = 0 && true
  | .wflush _ f => f.d = 0 && f.a = 0 && f.b = 0 && f.dcls = 0 && f.acls = 0 && f.bcls = 0 && f.bar = 0 && f.node = 0 && f.ccls = 0 && f.cnt = 0 && f.mod = 0 && true
  | .cntwait _ f => f.d = 0 && f.a = 0 && f.b = 0 && f.dcls = 0 && f.acls = 0 && f.bcls = 0 && f.win = 0 && f.bar = 0 && f.node = 0 && f.mod = 0 && f.ccls.toNat < 4
  | .binit _ f => f.d = 0 && f.b = 0 && f.dcls = 0 && f.bcls = 0 && f.win = 0 && f.node = 0 && f.ccls = 0 && f.cnt = 0 && opd 0xa f.acls f.a && f.mod.toNat < 2
  | .barr _ f => f.a = 0 && f.b = 0 && f.acls = 0 && f.bcls = 0 && f.win = 0 && f.node = 0 && f.ccls = 0 && f.cnt = 0 && (if f.mod = 0 then f.d = 0 && f.dcls = 0 else f.mod = 1 && opd 0x3 f.dcls f.d)
  | .bwait _ f => f.d = 0 && f.b = 0 && f.dcls = 0 && f.bcls = 0 && f.win = 0 && f.node = 0 && f.ccls = 0 && f.cnt = 0 && f.mod = 0 && opd 0xb f.acls f.a
  | .barw _ f => f.d = 0 && f.a = 0 && f.b = 0 && f.dcls = 0 && f.acls = 0 && f.bcls = 0 && f.win = 0 && f.node = 0 && f.ccls = 0 && f.cnt = 0 && f.mod = 0 && true
  | .bexp _ f => f.d = 0 && f.b = 0 && f.dcls = 0 && f.bcls = 0 && f.win = 0 && f.node = 0 && f.ccls = 0 && f.cnt = 0 && f.mod = 0 && opd 0xa f.acls f.a
  | .binv _ f => f.d = 0 && f.a = 0 && f.b = 0 && f.dcls = 0 && f.acls = 0 && f.bcls = 0 && f.win = 0 && f.node = 0 && f.ccls = 0 && f.cnt = 0 && f.mod = 0 && true
  | .mma _ f => f.row = 0 && f.rm = 0 && f.rsv = 0 && f.va.toNat ≤ 248 && f.bcls.toNat < 2
      && (f.sp = 1 || f.vx = 0) && (f.bs = 1 || f.ssc = 0)
  | .mmaz _ f => f.row = 0 && f.rm = 0 && f.rsv = 0 && f.va.toNat ≤ 248 && f.bcls.toNat < 2
      && (f.sp = 1 || f.vx = 0) && (f.bs = 1 || f.ssc = 0)
  | .zld _ f => f.va = 0 && f.sla = 0 && f.slb = 0 && f.pair = 0 && f.sp = 0 && f.bs = 0 && f.reuse = 0 && f.sat = 0 && f.ssc = 0 && f.vx = 0 && f.row = 0 && f.rm = 0 && f.rsv = 0 && f.bcls.toNat < 2
  | .zst _ f => f.va = 0 && f.slb = 0 && f.pair = 0 && f.sp = 0 && f.bs = 0 && f.reuse = 0 && f.ssc = 0 && f.vx = 0 && f.row = 0 && f.rsv = 0 && f.bcls.toNat < 2 && f.rm.toNat < 5
  | .zmov _ f => f.va = 0 && f.bcls = 0 && f.bidx = 0 && f.sla = 0 && f.slb = 0 && f.pair = 0 && f.sp = 0 && f.bs = 0 && f.reuse = 0 && f.sat = 0 && f.ssc = 0 && f.rm = 0 && f.rsv = 0
  | .zrmax _ f => f.va = 0 && f.bcls = 0 && f.bidx = 0 && f.sla = 0 && f.slb = 0 && f.pair = 0 && f.sp = 0 && f.bs = 0 && f.reuse = 0 && f.sat = 0 && f.ssc = 0 && f.row = 0 && f.rm = 0 && f.rsv = 0
  | .zrscale _ f => f.va = 0 && f.bcls = 0 && f.bidx = 0 && f.sla = 0 && f.slb = 0 && f.pair = 0 && f.sp = 0 && f.bs = 0 && f.reuse = 0 && f.ssc = 0 && f.row = 0 && f.rm = 0 && f.rsv = 0
  | .bra _ f => f.slot.toNat < 5 && f.xr = 0 && f.xcls = 0 && f.rsv = 0
  | .brx _ f => f.loff = 0 && f.slot = 0 && f.y = 0 && f.rsv = 0 && (f.xcls = 0 || f.xr.toNat < 64)
  | .call _ f => f.slot.toNat < 5 && f.y = 0 && f.xr = 0 && f.xcls = 0 && f.rsv = 0
  | .callx _ f => f.loff = 0 && f.slot = 0 && f.y = 0 && f.rsv = 0 && (f.xcls = 0 || f.xr.toNat < 64)
  | .ret _ f => f.loff = 0 && f.slot = 0 && f.y = 0 && f.xr = 0 && f.xcls = 0 && f.rsv = 0
  | .exit _ f => f.d = 0 && f.a = 0 && f.dcls = 0 && f.acls = 0 && f.spr = 0 && f.code = 0 && f.rsv = 0
  | .yield _ f => f.d = 0 && f.a = 0 && f.dcls = 0 && f.acls = 0 && f.spr = 0 && f.code = 0 && f.rsv = 0
  | .sleep _ f => f.d = 0 && f.dcls = 0 && f.spr = 0 && f.rsv = 0 && (if f.code.getLsbD 15 then opd 0x3 f.acls f.a && f.code = 0x8000#16 else f.a = 0 && f.acls = 0)
  | .nop _ f => f.d = 0 && f.a = 0 && f.dcls = 0 && f.acls = 0 && f.spr = 0 && f.code = 0 && f.rsv = 0
  | .regq _ f => f.d = 0 && f.a = 0 && f.dcls = 0 && f.acls = 0 && f.spr = 0 && f.rsv = 0 && f.code.toNat % 8 = 0 && f.code != 0 && f.code.toNat ≤ 256
  | .rres _ f => f.b = 0 && f.bcls = 0 && f.win = 0 && f.bar = 0 && f.ccls = 0 && f.cnt = 0 && f.dcls = 0 && f.d != 255 && opd 0xb f.acls f.a && f.mod.toNat < 2
  | .remit _ f => f.d = 0 && f.dcls = 0 && f.win = 0 && f.bar = 0 && f.ccls = 0 && f.cnt = 0 && opd 0xb f.acls f.a && f.mod.toNat < 2
      && (if f.mod = 1 then opd 0xb f.bcls f.b else f.b = 0 && f.bcls = 0)
  | .rcancel _ f => f.d = 0 && f.a = 0 && f.b = 0 && f.dcls = 0 && f.acls = 0 && f.bcls = 0 && f.win = 0 && f.bar = 0 && f.ccls = 0 && f.cnt = 0 && f.mod = 0 && true
  | .fetch _ f => f.b = 0 && f.bcls = 0 && f.win = 0 && f.bar = 0 && f.node = 0 && f.ccls = 0 && f.cnt = 0 && f.mod = 0 && (if f.dcls = 0 then f.a = 0 && f.acls = 0 else f.dcls = 1 && f.d.toNat < 63 && opd 0xa f.acls f.a)
  | .txbegin _ f => f.slot.toNat < 5 && f.y = 0 && f.xr = 0 && f.xcls = 0 && f.rsv = 0
  | .txend _ f => f.a = 0 && f.b = 0 && f.acls = 0 && f.bcls = 0 && f.win = 0 && f.bar = 0 && f.node = 0 && f.ccls = 0 && f.cnt = 0 && (if f.mod = 0 then f.d = 0 && f.dcls = 0 else f.mod = 1 && opd 0x6 f.dcls f.d)
  | .txabort _ f => f.d = 0 && f.b = 0 && f.dcls = 0 && f.bcls = 0 && f.win = 0 && f.bar = 0 && f.node = 0 && f.ccls = 0 && f.cnt = 0 && f.mod = 0 && opd 0xb f.acls f.a
  | .txstat _ f => f.a = 0 && f.b = 0 && f.acls = 0 && f.bcls = 0 && f.win = 0 && f.bar = 0 && f.node = 0 && f.ccls = 0 && f.cnt = 0 && f.mod = 0 && opd 0x3 f.dcls f.d
  | .trap _ f => f.d = 0 && f.a = 0 && f.dcls = 0 && f.acls = 0 && f.spr = 0 && f.rsv = 0
  | .bkpt _ f => f.d = 0 && f.a = 0 && f.dcls = 0 && f.acls = 0 && f.spr = 0 && f.rsv = 0
  | .hret _ f => f.d = 0 && f.a = 0 && f.dcls = 0 && f.acls = 0 && f.spr = 0 && f.code = 0 && f.rsv = 0
  | .qpost _ f => f.d = 0 && f.dcls = 0 && f.spr = 0 && f.rsv = 0 && f.acls = 0
  | .ckpt _ f => f.a = 0 && f.acls = 0 && f.spr = 0 && f.rsv = 0 && opd 0x3 f.dcls f.d
  | _ => true

/-- Opcodes that accept a SETF other than 0xF (R85, column Long). -/
def isLong (i : Instr) : Bool :=
  match i with
  | .shfl _ _ | .qxch _ _ | .vote _ _ | .perm _ _ | .pack _ _ | .unpack _ _
  | .frcp _ _ | .frsq _ _ | .fsqrt _ _ | .fexp2 _ _ | .flog2 _ _ | .fsin _ _
  | .fcos _ _ | .ftanh _ _ | .fdiv _ _ | .fmtq _ _ | .ld _ _ | .cas _ _
  | .probe _ _ | .atomAdd _ _ | .atomMin _ _ | .atomMax _ _ | .atomAnd _ _ | .atomOr _ _
  | .atomXor _ _ | .atomXchg _ _ | .zmov _ _ | .zrmax _ _ | .rres _ _ | .fetch _ _ => true
  | _ => false

/-- SETF: 0xF, or a flag 0 to 11 on a long opcode (R73). -/
def setfOk (i : Instr) (k : Ctl) : Bool := k.setf = 15 || (isLong i && k.setf.toNat < 12)

/-- Whether an instruction is one that R86 lets issue: its SETF and its payload fields are defined. A step that has no
encoding has no fields to break. -/
def formOk (i : Instr) : Bool :=
  match parts i with
  | some (k, _, _) => setfOk i k && payloadOk i
  | none => true

/-- The branches of R71, for which the guard is the condition and Active is the whole issue group (R87). -/
def isBranch (i : Instr) : Bool :=
  match i with
  | .bra _ _ | .brx _ _ | .call _ _ | .callx _ _ | .ret _ _ | .txbegin _ _ => true
  | _ => false

/-- A decode fault (R86): the control fields that decide Active (R87), and whether the opcode is a branch of R71. -/
inductive DecodeFault where
  | illegalOpcode (k : Ctl)
  | illegalForm (k : Ctl) (branch : Bool)
  deriving DecidableEq, Repr

/-- Decode a word (R70, R85, R86). -/
def decode (w : IWord) : Except DecodeFault Instr :=
  let k := rdCtl w
  match ofOpcode (w.extractLsb' 64 11) k (w.extractLsb' 0 64) with
  | none => .error (.illegalOpcode k)
  | some i => if formOk i then .ok i else .error (.illegalForm k (isBranch i))

/-- The word of an instruction; none for a step that has no encoding (R70). -/
def encode (i : Instr) : Option IWord :=
  match parts i with
  | some (k, op, p) => some (wrWord k op p)
  | none => none

/-- The instruction the decoder reads from a word of nbits bits, numbered as the opcode table numbers them. -/
def decodeTableWord (nbits w : Nat) : Option Instr :=
  match decode (BitVec.ofNat 96 (w % 2 ^ min nbits 96)) with
  | .ok i => some i
  | .error _ => none

end Sys2Proof
end

