-- ==== Sys2Proof/Machine/Fetch.lean ====
section
/-!
DEFINITION. What the next step runs: the slot chosen for issue, read from the instruction cache and decoded (R63 to
R70, R86, R87), or the next step of the agenda, or a selection (R118); and the placing of an instruction where the next
step fetches it.
-/

namespace Sys2Proof.Machine

/-- The line of a context in a core's instruction cache (R66). -/
def Core.line (c : Core) (base : Word) (ctx : Nat) : Option ILine :=
  (c.icache.find? (fun e => e.1.1 == base.toNat && e.1.2 == ctx)).map (·.2)

/-- The lines an instruction cache of 64 KiB holds (R20). -/
def icacheLines : Nat := 1024

/-- A line leaves a core's instruction cache (R373, R488). -/
def dropLine (s : State) (core : Nat) (base : Word) (ctx : Nat) : State :=
  s.setCore core { s.core core with
    icache := (s.core core).icache.filter (fun e => !(e.1.1 == base.toNat && e.1.2 == ctx)) }

/-- The line word: the first four bytes of the line (R65). -/
def lineWord (l : ILine) : BitVec 32 := l.data.extractLsb' 0 32

/-- The reserved field [23:9] of the line word (R65, R69). -/
def lineReserved (l : ILine) : Bool := (lineWord l).extractLsb' 9 15 != 0

/-- The TARGETS bit of a slot (R65, R67). -/
def lineTarget (l : ILine) (slot : Nat) : Bool := decide (slot < 5) && (lineWord l).getLsbD slot

/-- The 96-bit word of a slot, in the slot's twelve bytes (R63, R70). -/
def slotWord (l : ILine) (slot : Nat) : IWord := l.data.extractLsb' (32 + 96 * slot) 96

/-- The XOR of bytes 0 to 2 and 4 to 63 of a line (R66). -/
def lineCheck (d : BitVec 512) : BitVec 8 :=
  (List.range 64).foldl (fun acc i => if i = 3 then acc else acc ^^^ d.extractLsb' (8 * i) 8) 0

/-- Whether CHECK fits the line (R66). -/
def lineOk (d : BitVec 512) : Bool := lineCheck d == d.extractLsb' 24 8

/-- A decode fault of a slot, with the reserved line-word field counted (R69, R86): the lower code wins (R14). -/
def slotDecode (l : ILine) (slot : Nat) : Except (Cause × Ctl × Bool) Instr :=
  match decode (slotWord l slot) with
  | .error (.illegalOpcode k) => .error (.illegalOpcode, k, false)
  | .error (.illegalForm k b) => .error (.illegalForm, k, b)
  | .ok i => if lineReserved l then .error (.illegalForm, rdCtl (slotWord l slot), isBranch i) else .ok i

/-- A trap of one cause in the lanes of a mask, the issue group's other lanes advancing (R66, R87). -/
def trapLanes (s : State) (x : Sel) (bad : LaneMask) (t : PendTrap) : State :=
  (raiseTraps (advance s x (x.mask &&& ~~~bad)) x ((laneList bad).map fun n => (n, t))).deselect

/-- What a step does: run an instruction in a state, or nothing more. -/
inductive Up where
  | run (i : Instr) (s : State)
  | done (s : State)

/-- The slot chosen for issue. A PAIR bit of the line (R68) never makes the core issue slots k and k+1 together: each is a
selection of its own (log entry 137). -/
def fetchUp (s : State) (x : View) : Up :=
  match x.core.line (lineOf x.sel.pc) (s.groupCtx x.grp) with
  | none => .done (s.deselect.postOnce (.lineFill x.sel.core x.sel.grp (lineOf x.sel.pc)))
  | some l =>
    if l.poisoned then
      .done (trapLanes (dropLine s x.sel.core (lineOf x.sel.pc) (s.groupCtx x.grp)) x.sel x.sel.mask
        ⟨.poisonConsumed, 0, x.sel.pc, none⟩)
    else
      match slotDecode l (slotOf x.sel.pc) with
      | .ok i => .run i s
      | .error (c, k, branch) =>
        .done (trapLanes s x.sel (if branch then x.sel.mask else x.active k) ⟨c, 0, x.sel.pc, none⟩)

/-- The courses that a core may serve, as (core, group, course): those of groups that are on a core. -/
def State.candidates (s : State) : List (Nat × Nat × Nat) :=
  s.groups.flatMap fun e =>
    match e.2.state, e.2.core with
    | .resident, some k => (List.range e.2.courses.length).filterMap fun c =>
        if (e.2.course c).ended then none else some (k, e.1, c)
    | _, _ => []

/-- HOSTOWNER of a partition. -/
def hostOwnerOf (s : State) (p : Option Nat) : Option Nat := p.map (fun i => (s.part i).hostOwner)

/-- The owner of a launch, and of a queue. -/
def payerOfLaunch (s : State) (l : Nat) : Option Nat := (s.launch l).map (·.owner)
def payerOfQueue (s : State) (q : Nat) : Option Nat := (alGet s.queues q).map (·.owner)

/-- Whom the accesses of a step of the agenda are charged to (R454): a group's and a launch's to the owner of the launch's
queue, a packet's to that of its queue, those of the host and of peers to HOSTOWNER. The spec names no owner for the
others (log entry 111). -/
def payerOf (s : State) : Instr → Option Nat
  | .windowSectorArrival g _ _ => groupOwner s g
  | .windowSectorFault g _ _ => groupOwner s g
  | .wflushComplete g _ => groupOwner s g
  | .returnStackFillReturn g _ _ => groupOwner s g
  | .lineFill _ g _ => groupOwner s g
  | .codePageCheckComplete o k => (alGet s.objects o).bind (fun b => alGet b.askers k)
  | .longLatencyComplete g _ _ => groupOwner s g
  | .txVerdict g _ => groupOwner s g
  | .groupPlacementComplete g => groupOwner s g
  | .groupRetire g => groupOwner s g
  | .saveComplete g => groupOwner s g
  | .recordPublished l => payerOfLaunch s l
  | .coalescingTimerExpire l _ _ => payerOfLaunch s l
  | .rresGrant l => payerOfLaunch s l
  | .packetStart q => payerOfQueue s q
  | .waitMemRetest q => payerOfQueue s q
  | .waitMemPoll q => payerOfQueue s q
  | .packetComplete q _ _ => payerOfQueue s q
  | .launchGraph h _ => payerOfQueue s h.queue
  | .copy h _ _ _ => payerOfQueue s h.queue
  | .fill h _ _ _ => payerOfQueue s h.queue
  | .waitMem h _ => payerOfQueue s h.queue
  | .signalMem h _ _ _ _ => payerOfQueue s h.queue
  | .resync h _ _ => payerOfQueue s h.queue
  | .fmtVerifyComplete p k => ((s.part p).slotJobs.find? (·.slot == k)).bind (fun j => payerOfQueue s j.queue)
  | .hostAccess p _ => hostOwnerOf s (some p)
  | .peerRequestReceive k _ => hostOwnerOf s (portOwner s k)
  | .dumpComplete => hostOwnerOf s (s.fn 0).part
  | _ => none

/-- A write of the host to a register of a function: the function and the bytes it carries. -/
def hostWrite : Instr → Option (Nat × Nat)
  | .ctxCreate fn _ => some (fn, 8)
  | .ctxDestroy fn _ => some (fn, 8)
  | .loadObject fn _ => some (fn, 8)
  | .unloadObject fn _ => some (fn, 8)
  | .save fn _ => some (fn, 8)
  | .restore fn _ => some (fn, 8)
  | .checkpoint fn _ => some (fn, 8)
  | .qCreate fn _ => some (fn, 8)
  | .qDestroy fn _ => some (fn, 8)
  | .qClear fn _ => some (fn, 8)
  | .notifyWrite fn _ _ => some (fn, 8)
  | .evtHeadWrite fn _ => some (fn, 8)
  | .fnPauseWrite _ _ => some (0, 8)
  | .weightWrite _ _ _ => some (0, 1)
  | .prqReply fn _ _ => some (fn, 8)
  | .prqBaseWrite fn _ _ => some (fn, 8)
  | .invContextAll fn _ _ => some (fn, 8)
  | .invContextRange fn _ _ _ => some (fn, 8)
  | .invStage2All fn _ => some (fn, 8)
  | .invStage2Range fn _ _ => some (fn, 8)
  | .lnkReset fn _ => some (fn, 8)
  | .dump fn _ => some (fn, 8)
  | .registerWrite fn _ _ => some (fn, 8)
  | _ => none

/-- The bytes of such a write crossed the host's link: its partition's HOSTOWNER is charged (R454; log entry 111). -/
def chargeHostWrite (s : State) (i : Instr) : State :=
  match hostWrite i with
  | some (fn, n) => s.paid (hostOwnerOf s (s.fn fn).part) (linkBytes · n)
  | none => s

/-- The agenda's head. -/
def agendaUp (s : State) : Up :=
  match s.agenda with
  | i :: rest => .run i { chargeHostWrite s i with agenda := rest, turn := true, payer := payerOf s i }
  | [] => .done s

/-- A course is about to be selected. One cycle selects a course once, and courses of a core one after the other, so that the
cycle ends where this one has had its selection; else the free value says whether it ends here (R262, log entry 114). -/
def joinCycle (s : State) (g c : Nat) : State :=
  let (f, s) := s.takeFree
  let s := if s.inCycle.contains (g, c) || f % 2 == 1 then endCycle s else s
  { s with inCycle := (g, c) :: s.inCycle }

/-- The next course in turn (R118). Releases that waited may be over (R201, R432), and a walk may be cached that nothing asked
for (R384). -/
def selectUp (s : State) : Up :=
  let s := flushPosts (settleFences (speculate s))
  let cs := s.candidates
  match cs[s.rr % cs.length]? with
  | some (k, g, c) => .run (.issueSelection k g c) { joinCycle s g c with rr := s.rr + 1, turn := false, payer := groupOwner s g }
  | none => agendaUp (endCycle s)

/-- What the next step does: one step of the model's clock, then the chosen slot, or the agenda and the courses by
turns (log entry 1). -/
def nextUp (s : State) : Up :=
  let s := { s with time := s.time + 1 }
  match s.view with
  | some x => fetchUp { s with payer := groupOwner s x.sel.grp } x
  | none =>
    let s := s.deselect
    if s.turn || s.agenda.isEmpty then selectUp s else agendaUp s

/-! ### Placing an instruction where the next step fetches it -/

/-- The line base and PC that placeWord uses. -/
def fetchBase : Word := 0x00100000#64

/-- A line whose slot 0 holds a word and whose slot 0 is a branch target. -/
def wordLine (w : IWord) : ILine := ⟨w.setWidth 512 <<< 32 ||| 1#512, false⟩

def placeLane : Lane := { Lane.reset with live := true, pc := fetchBase + 4 }

/-- A course of 32 live lanes with the whole quota. -/
def placeCourse : Course := { Course.reset with lanes := Vector.replicate 32 placeLane, quota := 256 }

/-- A group on core 0 whose only course stands at the placed instruction, with what a group may hold (log entry 9). -/
def placeGroup : Group :=
  { ident := 0, launch := 0, node := 0, state := .resident, mode := .ordinary, core := some 0, placed := true,
    courses := [placeCourse], rolePools := [256], regq := [[]], scratchKiB := 64, allocBase := 0,
    tiles := List.replicate 2 Tile.zero, windows := List.replicate 4 Window.unbound,
    barriers := List.replicate 4 Barrier.uninit, pbase := 0, psize := 0, dlim := 1023, setRank := 0, setId := none,
    setSize := 1, extra := false, lastCore := some 0, avoid := none, records := [], recCount := 0, taken := [], held := [], overflow := false, halting := false, release := false, tag := 0,
    savedBy := .command, saveAddr := 0, saveLen := 0, digest := 0, savedScratch := Memory.empty, savedValid := 0,
    savedMat := [], savedReserve := none, copied := 0 }

/-- A core at reset with its fixed format slots bound (R30, R51) and one line held. -/
def placeCore (w : IWord) : Core := { Core.reset with home := freshSlots, icache := [((fetchBase.toNat, 0), wordLine w)] }

/-- A state whose next step issues a word in every lane of a course on core 0 (log entry 9). -/
def placeWord (s : State) (w : IWord) : State :=
  { s with
    sel := some ⟨0, 0, 0, BitVec.allOnes 32, fetchBase + 4⟩
    cores := alSet s.cores 0 (placeCore w)
    groups := alSet s.groups 0 placeGroup
    parts := s.parts.set 0 { Part.reset with state := .active, features := 0xFFFF, cores := [0] }
    launches := alSet s.launches 0
      { part := 0, fn := 0, ctx := 0, obj := 0, root := 0, queue := 0, index := 0, cluster := 0, seed := 0, prio := 0,
        owner := 0, cohes := false, setSize := 1, poolVa := 0, nb := 0, metaBytes := 0, reserve := 0, blocks := [], records := [],
        pubs := [], fifo := [], total := 0, next := 0, returns := [], created := 1, sets := 0,
        terminated := false, untrusted := false, done := false } }

end Sys2Proof.Machine
end

