-- ==== Sys2Proof/Machine/Code.lean ====
section
/-!
DEFINITION. Fetching a code line (R66, R325, R326, R383): the code page it lies in, its translation with X, and the line
as the instruction cache takes it.
-/

namespace Sys2Proof.Machine

/-- The object of a context whose text holds an address, and the code page (R325). -/
def textAt (s : State) (ctx va : Nat) : Option (Nat × Obj × Nat) :=
  s.objects.findSome? fun e =>
    if e.2.ctx = ctx ∧ e.2.state ≠ .unloaded ∧ e.2.textVa ≤ va ∧ va < e.2.textVa + 65536 * e.2.pages.length
    then some (e.1, e.2, (va - e.2.textVa) / 65536) else none

/-- What a fetch comes to: the place of the line, a hold, or a cause. -/
inductive FetchRes where
  | place (t : Tgt) (pa : Nat)
  | hold (h : Hold)
  | bad (c : Cause)

/-- The translation of a fetch (R383): it needs X. -/
def fetchTranslate (s : State) (g : Group) (line : Nat) : FetchRes × State :=
  match translateList s (laneReq s g .exec 1) [line] with
  | (.ok ((t, pa) :: _), s) => (.place t pa, s)
  | (.ok [], s) => (.bad .pageFatal, s)
  | (.fault rs, s) => (.hold (.fault rs), s)
  | (.fatal c, s) => (.bad c, s)

/-- A fetch for a group (R325, R326, R328): the first one from an ABSENT page starts its check, a page being loaded
holds the lane, and a FAILED one gives ACCESS. -/
def fetchPlace (s : State) (g : Group) (line : Nat) : FetchRes × State :=
  match textAt s (s.groupCtx g) line with
  | some (o, obj, k) =>
    match obj.pages.getD k .absent with
    | .absent => (.hold (.code o k),
        (s.updObj o (fun b => { b with
          pages := b.pages.set k .loading
          askers := s.payer.elim (alDel b.askers k) (alSet b.askers k) })).post (.codePageCheckComplete o k))
    | .loading => (.hold (.code o k), s)
    | .failed => (.bad .access, s)
    | .present => fetchTranslate s g line
  | none => fetchTranslate s g line

/-- The line as it stands in memory; a poisoned sector or a failed CHECK makes it poisoned code (R66). The second read
of a line that fails its check finds the same bytes. -/
def readLine (s : State) (t : Tgt) (pa : Nat) : ILine :=
  let d := BitVec.ofNat 512 ((s.mem t).read pa 64)
  ⟨d, (s.mem t).anyPoison pa 64 || !lineOk d⟩

/-- Put a line into a core's instruction cache (R66); a full one gives up its oldest line (log entry 109). -/
def keepLine (s : State) (core : Nat) (base : Word) (ctx : Nat) (l : ILine) : State :=
  let s := dropLine s core base ctx
  s.setCore core { s.core core with icache := (((base.toNat, ctx), l) :: (s.core core).icache).take icacheLines }

/-- The TARGETS mark of a branch target (R67), from the line as the core holds it or fetches it. The mark of a poisoned
line is read as it stands: the branch goes on, and its lanes meet the poison when they issue there (log entry 35). -/
inductive Mark where
  | mark (b : Bool)
  | hold (h : Hold)
  | bad (c : Cause)

def targetMark (s : State) (x : View) (t : Word) : Mark × State :=
  let ctx := s.groupCtx x.grp
  match (s.core x.sel.core).line (lineOf t) ctx with
  | some l => (.mark (lineTarget l (slotOf t)), s)
  | none =>
    match fetchPlace s x.grp (lineOf t).toNat with
    | (.place tg pa, s) =>
      -- a line beyond a port in TRAINING is waited for at the branch (R462)
      if linkTrains s tg then (.hold .none, s) else
      let l := readLine s tg pa
      let s := s.readAt tg pa 64
      (.mark (lineTarget l (slotOf t)), if l.poisoned then s else keepLine s x.sel.core (lineOf t) ctx l)
    | (.hold h, s) => (.hold h, s)
    | (.bad c, s) => (.bad c, s)

end Sys2Proof.Machine
end

