-- ==== Sys2Proof/Machine/Windows.lean ====
section
/-!
DEFINITION. Windows (spec/11_windows.md, R236 to R257): the tensor descriptor, the fill and the flush sector by sector,
the counters, and the six instructions.
-/

namespace Sys2Proof.Machine

/-! ### The descriptor (R236, R237) -/

/-- A tensor from the 128 bytes of a descriptor, when they keep R236 and R237. -/
def tensorOf (d : Nat) : Option Tensor :=
  let at32 (o : Nat) : Nat := bitsNat d (8 * o + 31) (8 * o)
  let base := bitsNat d 63 0
  let ext : Vector Nat 4 := Vector.ofFn fun i : Fin 4 => at32 (0x08 + 4 * i.val)
  let stride : Vector Nat 4 := Vector.ofFn fun i : Fin 4 =>
    if i.val = 0 then 0 else bitsNat d (8 * (0x10 + 8 * i.val) + 63) (8 * (0x10 + 8 * i.val))
  let coord : Vector Int 4 := Vector.ofFn fun i : Fin 4 => intOfBits true 32 (at32 (0x30 + 4 * i.val))
  let box : Vector Nat 4 := Vector.ofFn fun i : Fin 4 => bitsNat d (8 * (0x40 + 2 * i.val) + 15) (8 * (0x40 + 2 * i.val))
  let width := bitsNat d (8 * 0x48 + 7) (8 * 0x48)
  let rank := bitsNat d (8 * 0x49 + 7) (8 * 0x49)
  let t : Tensor := ⟨base, ext, stride, coord, box, width, rank⟩
  if canonical base ∧ base % 32 = 0 ∧ 1 ≤ rank ∧ rank ≤ 4 ∧ ((2 ≤ width ∧ width ≤ 32) ∨ width = 64)
      ∧ d / 2 ^ (8 * 0x4A) % 2 ^ (8 * 54) = 0
      ∧ (List.range 4).all (fun i => decide (1 ≤ vget ext i) && decide (1 ≤ vget box i)
          && decide (vget stride i % 32 = 0) && decide (vget stride i < 2 ^ 48)
          && (decide (i < rank) || (vget ext i == 1 && vget box i == 1 && vget stride i == 0 && at32 (0x30 + 4 * i) == 0)))
      ∧ t.bytes ≤ 65536 then some t
  else none

/-! ### Sectors of a fill (R239 to R243, R247) -/

/-- The valid bits of a window that are set. -/
def validCount (s : State) (g : Group) (w : Window) : Nat :=
  match g.core with
  | none => 0
  | some c => ((List.range w.sectors).filter (fun k => (s.core c).sectorValid (g.winFirst w + k))).length

/-- The state of a filling window recomputed (R239, R247 order 4): PRESENT when every sector is valid, which completes
its GATH operation, else FAULTED while a sector waits on a reply. -/
def settleWindow (s : State) (g i : Nat) : State :=
  match s.group g with
  | none => s
  | some grp =>
    let w := grp.window i
    if w.state = .filling ∨ w.state = .faulted then
      if validCount s grp w = w.sectors then
        let s := s.updWindow g i (fun w => { w with state := .present, owner := none, pend := [], seen := [] })
        match w.owner with
        | some (og, oc, t) => s.updCourse og oc (fun c => c.engineDone 2 t)
        | none => s
      else s.updWindow g i (fun w => { w with state := if w.pend.isEmpty then .filling else .faulted })
    else s

/-- A sector arrives with its bytes and poison (R242): written, valid, and counted unless the window is .NB. The window's
state is recomputed in the step that follows the cycle's instructions (R247 order 4). -/
def arriveSector (s : State) (g i k : Nat) (data : BitVec 256) (poison err : Bool) : State :=
  match s.group g with
  | none => s
  | some grp =>
    match grp.core with
    | none => s
    | some c =>
      let w := grp.window i
      let sec := grp.winFirst w + k
      let s := s.applyWrite ⟨.scratch c, sec, data, BitVec.allOnes 256, poison⟩
      let s := setValid s c sec 1 true
      let s := s.updWindow g i (fun w => { w with pend := w.pend.filter (fun e => e.1 != k), err := w.err || err })
      let s := match w.bar with
        | some b => countSector s g b
        | none => s
      (wakeAll s).postFirst (.windowSectorArrival g i k)

/-- The window's sector is still to come: the group is on a core and the valid bit is clear. -/
def sectorMissing (s : State) (grp : Group) (w : Window) (k : Nat) : Bool :=
  (grp.state == .resident || grp.state == .placing) && !grp.halting && (w.state == .filling || w.state == .faulted) && decide (k < w.sectors)
    && match grp.core with
      | some c => !(s.core c).sectorValid (grp.winFirst w + k)
      | none => false

/-- WINDOW_SECTOR_ARRIVAL: the engine reads one missing sector and it arrives (R242); a fatal translation arrives as
poisoned zeros; a recoverable one becomes a WINDOW_SECTOR_FAULT. Of a sector that has arrived the window's state is
recomputed (R247). A read through a port in TRAINING waits there (R462). -/
def execWindowSectorArrival (grp win sector : Nat) (s : State) : Out :=
  match s.group grp with
  | none => .next s
  | some g =>
    let w := g.window win
    if sectorMissing s g w sector && !w.pend.any (fun e => e.1 == sector) then
      match w.tensor.sectorBits sector with
      | none => .next (arriveSector s grp win sector 0 false false)
      | some (off, n, bit) =>
        match sectorPlaces s g bit n .read with
        | (.ok ps, t) =>
          if ps.any (fun p => linkTrains t p.tgt) then .next (t.post (.windowSectorArrival grp win sector)) else
          let r := (fillRead t (toucher t w) w.seen off ps).1
          .next (arriveSector (readSeen t grp win ps) grp win sector r.1 r.2 false)
        | (.bad _, t) => .next (arriveSector t grp win sector 0 true true)
        | (.held _, _) => .next (s.postFirst (.windowSectorFault grp win sector))
    else .next (wakeAll (settleWindow s grp win))

/-- WINDOW_SECTOR_FAULT: a missing sector meets a recoverable fault and waits on its request (R243). -/
def execWindowSectorFault (grp win sector : Nat) (s : State) : Out :=
  match s.group grp with
  | none => .next s
  | some g =>
    let w := g.window win
    if sectorMissing s g w sector && !w.pend.any (fun e => e.1 == sector) then
      match w.tensor.sectorBits sector with
      | none => .next s
      | some (_, n, bit) =>
        match sectorPlaces s g bit n .read with
        | (.held rs, t) => .next (settleWindow (t.updWindow grp win (fun w => { w with pend := w.pend ++ rs.map (fun r => (sector, r)) })) grp win)
        | _ => .next (s.postFirst (.windowSectorArrival grp win sector))
    else .next s

/-! ### Flushes (R246, R249) -/

/-- The write of a window's tensor bits, as (tensor bit address, piece, bits, poison). -/
structure FlushWrite where
  addr : Nat
  piece : Piece
  value : Nat
  poison : Bool

/-- A page of a flush: its place, none where its translation is fatal, or the requests it waits on (R246). -/
def flushPage (s : State) (g : Group) (w : Window) (v : Nat) : Except (List Nat) (Option (Tgt × Nat)) × State :=
  if w.lost.contains v || !canonical v then (.ok none, s)
  else match translateList s (laneReq s g .write 2) [v] with
    | (.ok places, s) => (.ok places.head?, s)
    | (.fault rs, s) => (.error rs, s)
    | (.fatal _, s) => (.ok none, s)

/-- The pages of a list, one after the other. -/
def flushPages (g : Group) (w : Window) : List Nat → State →
    List (Nat × Except (List Nat) (Option (Tgt × Nat))) × State
  | [], s => ([], s)
  | v :: vs, s =>
    let (r, s) := flushPage s g w v
    let (rs, s) := flushPages g w vs s
    ((v, r) :: rs, s)

/-- What flushing comes to: the writes, the sectors that wait with their requests, the pages that wait with theirs, and
whether a page was fatal. -/
structure Flushing where
  writes : List FlushWrite
  pend : List (Nat × Nat)
  waits : List (Nat × Nat)
  err : Bool

def Flushing.none : Flushing := ⟨[], [], [], false⟩

/-- One sector of a flush (R246): what lies on a fatal page stays unwritten; the sector waits while a page of it does. Of an
element across two pages the bits on the one that is not fatal are written, the model's choice (log entry 141). -/
def flushSector (s : State) (g : Group) (w : Window) (k : Nat) : Flushing × State :=
  match w.tensor.sectorBits k, g.core with
  | some (off, n, bit), some c =>
    let m := s.mem (.scratch c)
    let sec := g.winFirst w + k
    let vs := tensorParts bit n
    let (rs, s) := flushPages g w (pagesOf (vs.map (·.1))) s
    let waits := rs.flatMap fun r => match r.2 with
      | .error ids => ids.map (fun i => (r.1, i))
      | .ok _ => []
    let fatal := rs.any fun r => match r.2 with
      | .ok (some _) => false
      | .ok none => true
      | .error _ => false
    if !waits.isEmpty then (⟨[], waits.map (fun e => (k, e.2)), waits, false⟩, s)
    else
      let ws := vs.filterMap fun e => match rs.find? (fun r => r.1 == e.1 / 4096 * 4096) with
        | some (_, .ok (some (t, pa))) =>
          let p := pieceAt t (pa + e.1 % 4096) e.2.1 e.2.2.1 e.2.2.2
          some ⟨bit + p.off, p, (m.sector sec).toNat / 2 ^ off % 2 ^ n, m.isPoisoned sec⟩
        | _ => none
      (⟨ws, [], [], fatal⟩, s)
  | _, _ => (Flushing.none, s)

/-- Flush the given sectors (R246). -/
def flushSectors (g : Group) (w : Window) : List Nat → State → Flushing × State
  | [], s => (Flushing.none, s)
  | k :: ks, s =>
    let (a, s) := flushSector s g w k
    let (b, s) := flushSectors g w ks s
    (⟨a.writes ++ b.writes, a.pend ++ b.pend, a.waits ++ b.waits, a.err || b.err⟩, s)

/-- Insert a write by ascending tensor address (R249). -/
def insertFlush (x : FlushWrite) : List FlushWrite → List FlushWrite
  | [] => [x]
  | y :: l => if x.addr ≤ y.addr then x :: y :: l else y :: insertFlush x l

/-- A flush's write accepted at its home, or held in a revocable group (R246, R249). -/
def flushWrite (g course lane : Nat) (s : State) (f : FlushWrite) : State :=
  match s.group g with
  | none => s
  | some grp =>
    let w := f.piece.write f.value f.poison
    if grp.holds then holdEntry s g ⟨course, lane, w, none, ((grp.course course).lane lane).item⟩
    else homeWrite (engineRecord s grp f.piece) (grp.core.getD 0) w

/-- The whole of a flush in a redundant copy joins its lane's store stream at the WFLUSH's place in issue order, and
moves the places of the flushes issued after it (R249, R486). -/
def holdFlush (s : State) (g win course lane token : Nat) (ws : List FlushWrite) : State :=
  match s.group g with
  | none => s
  | some grp =>
    let at_ := (grp.window win).mark
    let hs : List Held := ws.map fun f => ⟨course, lane, f.piece.write f.value f.poison, none, none⟩
    let held := grp.held.take at_ ++ hs ++ grp.held.drop at_
    if heldLimit < heldSectors held then overflowGroup s g
    else s.setGroup g { grp with
      held := held
      windows := grp.windows.map fun w => match w.state, w.owner with
        | .flushing, some (_, _, t) => if token < t then { w with mark := w.mark + hs.length } else w
        | _, _ => w }

/-- Whether a sector of a flush still waits on a reply. -/
def flushWaits (s : State) (e : Nat × Nat) : Bool := s.reqs.any (fun q => q.id == e.2)

/-- A flush is complete: the COPY counter falls and the window is PRESENT again (R246). -/
def endFlush (s : State) (grp win og oc token : Nat) : State :=
  (s.updWindow grp win (fun w => { w with state := .present, owner := none, pend := [], waits := [], lost := [] })).updCourse
    og oc (fun c => c.engineDone 0 token)

/-- WFLUSH_COMPLETE: the sectors whose pages have had a reply are walked again and, where no page of theirs waits, written
back; when no sector is left, the flush is complete (R246). A redundant copy's flush is written whole, in ascending
tensor address, once no sector waits (R249). -/
def flushStep (s : State) (grp win : Nat) : State :=
  match s.group grp with
  | none => s
  | some g =>
    let w := g.window win
    match w.state, w.owner with
    | .flushing, some (og, oc, t) =>
      let whole := match g.mode with
        | .redundant _ _ => true
        | _ => false
      let ready := if whole then List.range w.sectors else ((w.pend.filter (fun e => !flushWaits s e)).map (·.1)).eraseDups
      let still := w.pend.filter (fun e => !ready.contains e.1)
      let (r, s) := flushSectors g w ready s
      let left := still ++ r.pend
      let ws := r.writes.foldr insertFlush []
      let s := if !whole then ws.foldl (flushWrite grp oc w.lane) s
        else if left.isEmpty then holdFlush s grp win oc w.lane t ws else s
      let s := s.updWindow grp win (fun w => { w with pend := left, waits := w.waits ++ r.waits, err := w.err || r.err })
      if left.isEmpty then endFlush s grp win og oc t else s
    | _, _ => s

def execWflushComplete (grp win : Nat) (s : State) : Out := .next (flushStep s grp win)

/-! ### The instructions (R251 to R257) -/

/-- A window beyond the allocation, or other misuse, traps WINDOW_MISUSE (R95, R251). -/
def windowShape (x : View) (f : ASY) (vregs : List Nat) (more : List Cause) : Shape :=
  ⟨[6], vregs, fun _ => (if x.grp.windows.length ≤ f.win.toNat then [.windowMisuse] else []) ++ more, false, []⟩

/-- The operands of a WBIND and what R252 finds of them. -/
structure Binding where
  a : PWord
  b : PWord
  inside : Bool
  poison : Bool
  tensor : Option Tensor

def wbindRead (s : State) (x : View) (f : ASY) : Binding :=
  let a := x.crs.getS f.a.toNat
  let b := x.crs.getS f.b.toNat
  let at_ := a.val.toNat
  let inside := decide (at_ + 128 ≤ 1024 * x.grp.scratchKiB)
  let m := s.mem (.scratch x.sel.core)
  ⟨a, b, inside, a.poison || b.poison || (inside && m.anyPoison (x.grp.allocBase + at_) 128),
    if inside ∧ at_ % 128 = 0 then tensorOf (m.read (x.grp.allocBase + at_) 128) else none⟩

/-- The region of a binding is aligned, inside the allocation, and clear of the group's other windows (R237, R252). -/
def regionOk (g : Group) (n : Nat) (t : Tensor) (reg : Nat) : Bool :=
  decide (reg % 32 = 0) && decide (reg + t.bytes ≤ 1024 * g.scratchKiB)
    && (List.range g.windows.length).all (fun i =>
      let w := g.window i
      i == n || !w.isBound || decide (reg + t.bytes ≤ w.reg) || decide (w.reg + w.tensor.bytes ≤ reg))

/-- The barrier that a counted WBIND names is beyond the allocation (R252). -/
def wbindBadBar (x : View) (f : ASY) : Bool := f.mod.extractLsb' 0 2 == 0 && decide (x.grp.barriers.length ≤ f.bar.toNat)

/-- The scratchpad sectors a WBIND reads: those of a descriptor that it gets as far as reading, no other cause being known
(R241, R252). -/
def wbindSectors (s : State) (x : View) (f : ASY) : List (Nat × Nat) :=
  let r := wbindRead s x f
  let at_ := r.a.val.toNat
  let st := (x.grp.window f.win.toNat).state
  if r.a.poison || r.b.poison || !r.inside || decide (at_ % 128 ≠ 0) || decide (x.grp.windows.length ≤ f.win.toNat) || wbindBadBar x f
      || st == .filling || st == .faulted || st == .flushing then []
  else (List.range 4).map (fun i => (x.sel.core, (x.grp.allocBase + at_) / 32 + i))

/-- The read of the descriptor would start a fill that clashes (R194, R241). -/
def wbindClash (s : State) (x : View) (f : ASY) : Bool := (touched s (wbindSectors s x f)).any (fun w => fillClash s w.1 w.2)

def wbindCauses (s : State) (x : View) (f : ASY) : List Cause :=
  let r := wbindRead s x f
  let st := (x.grp.window f.win.toNat).state
  (if wbindBadBar x f then [.barrierMisuse] else [])
    ++ (if wbindClash s x f then [.mixedSizeDebug] else [])
    ++ (if r.poison then [.poisonConsumed]
      else if st = .filling ∨ st = .faulted ∨ st = .flushing then [.windowMisuse]
      else match r.tensor with
        | some t => if regionOk x.grp f.win.toNat t r.b.val.toNat then [] else [.windowMisuse]
        | none => [.windowMisuse])

/-- Unbind a window: its valid bits are cleared, its region's bytes stay (R252, R255). -/
def unbind (s : State) (x : View) (g : Group) (i : Nat) : State :=
  let w := g.window i
  (if w.isBound then setValid s x.sel.core (g.winFirst w) w.sectors false else s).updWindow x.sel.grp i
    (fun _ => Window.unbound)

def bindWindow (s : State) (x : View) (f : ASY) : State :=
  let r := wbindRead s x f
  let i := f.win.toNat
  let t := r.tensor.getD Tensor.zero
  let out := f.mod.getLsbD 0
  let nb := f.mod.getLsbD 1
  let w : Window := { Window.unbound with
    state := if out then .present else .absent, tensor := t, reg := r.b.val.toNat, nb := nb, out := out,
    bar := if out || nb then none else some f.bar.toNat }
  let s := (unbind s x x.grp i).updWindow x.sel.grp i (fun _ => w)
  wakeAll (setValid s x.sel.core (x.grp.winFirst w) w.sectors out)

/-- A WBIND whose read of its descriptor would raise GATH past 255 waits, as an LD does (R250). -/
def wbindWaits (s : State) (x : View) (k : Ctl) (f : ASY) : Bool :=
  (x.lacking [6]).isNone && x.active k != 0 && x.counterFull 2 (touched s (wbindSectors s x f)).length

/-- WBIND (R252). It reads its descriptor as a .S load of the issuing lanes: a sector that has not arrived in a window
holds them, and the first touch of an ABSENT window starts its fill (R241, R244). -/
def execWbind (k : Ctl) (f : ASY) (s : State) : Out :=
  s.issue fun x =>
    let act := x.active k
    let s := if act = 0 then s else drainCourse s x.sel.grp x.sel.course
    let ss := if act = 0 ∨ (x.lacking [6]).isSome then [] else wbindSectors s x f
    if x.counterFull 2 (touched s ss).length then s.deselect
    else if !(missingSectors s ss).isEmpty && !wbindClash s x f then
      let s := touchAll s (touched s ss) (x.sel.grp, x.sel.course) ((lowLane act).getD 0)
      let h : Hold := .window x.sel.core ((missingSectors s ss).map (·.2))
      ((holdLanes s x.sel ((laneList act).map (fun n => (n, h)))).updCourse x.sel.grp x.sel.course (fun c =>
        c.mapLanes (fun n l => if inMask x.sel.mask n && !inMask act n then { l with pc := pcNext x.sel.pc } else l))).deselect
    else
    finishEffect s x k (windowShape x f [] (wbindCauses s x f)) fun ok s => if ok = 0 then s else bindWindow s x f

def wtouchShape (s : State) (x : View) (f : ASY) : Shape :=
  windowShape x f [] ((if (x.grp.window f.win.toNat).isBound then [] else [.windowMisuse])
    ++ (if fillClash s x.sel.grp f.win.toNat then [.mixedSizeDebug] else []))

/-- A WTOUCH that would raise GATH past 255 waits (R250). -/
def wtouchWaits (s : State) (x : View) (k : Ctl) (f : ASY) : Bool :=
  x.clear (wtouchShape s x f) (x.active k) != 0 && (x.grp.window f.win.toNat).state == .absent && x.counterFull 2 1

def execWtouch (k : Ctl) (f : ASY) (s : State) : Out :=
  s.issue fun x =>
    let w := x.grp.window f.win.toNat
    if wtouchWaits s x k f then s.deselect
    else finishEffect s x k (wtouchShape s x f) fun ok s =>
      if ok ≠ 0 ∧ w.state = .absent then
        startFill s x.sel.grp f.win.toNat (x.sel.grp, x.sel.course) ((lowLane ok).getD 0)
      else s

/-- STATE codes of R254. -/
def winStateCode : WinState → Nat
  | .unbound => 0 | .absent => 1 | .filling => 2 | .present => 3 | .faulted => 4 | .flushing => 5

/-- WSTAT's word (R254); an UNBOUND window reads zero. -/
def wstatWord (s : State) (g : Group) (w : Window) : Nat :=
  if w.isBound then
    winStateCode w.state * 2 ^ 61 + (if w.err then 2 ^ 60 else 0) + (if w.nb then 2 ^ 59 else 0)
      + (if w.out then 2 ^ 58 else 0) + (w.bar.getD 0) % 16 * 2 ^ 54
      + ((w.pend.filter (flushWaits s)).map (·.1)).eraseDups.length % 4096 * 2 ^ 40
      + validCount s g w % 4096 * 2 ^ 28 + w.sectors % 4096 * 2 ^ 16 + w.reg / 32 % 16384
  else 0

def execWstat (k : Ctl) (f : ASY) (s : State) : Out :=
  let d := dstOf f.dcls f.d
  s.issue fun x =>
    finishCompute s x k false (windowShape x f d.vregs [])
      (fun ok => x.result k ok d (fun _ => ⟨BitVec.ofNat 64 (wstatWord s x.grp (x.grp.window f.win.toNat)), false⟩))

/-- A window holds a poisoned sector. -/
def windowPoison (s : State) (x : View) (w : Window) : Bool :=
  (s.mem (.scratch x.sel.core)).anyPoison (x.grp.allocBase + w.reg) w.tensor.bytes

/-- R256: the flush starts; every sector is to be written. Under the mixed-size debug bit what translates is written at once,
since the lane does not pass its strong stores before (R194; log entry 113). -/
def startFlush (s : State) (x : View) (i lane : Nat) : State :=
  let (t, s) := (drainCourse s x.sel.grp x.sel.course).newToken
  let s := s.updCourse x.sel.grp x.sel.course (fun c => c.engineStart 0 t)
  let s := (s.updWindow x.sel.grp i (fun w => { w with
    state := .flushing, owner := some (x.sel.grp, x.sel.course, t), lane := lane
    pend := (List.range w.sectors).map (fun k => (k, t)), waits := [], lost := []
    mark := ((s.group x.sel.grp).map (fun g => g.held.length)).getD 0 })).post (.wflushComplete x.sel.grp i)
  if groupMixDebug s x.grp then flushStep s x.sel.grp i else s

/-- What WFLUSH finds of the page of BASE when the window holds poison (R256): nothing, a hold, or a cause. -/
def flushCheck (s : State) (x : View) (w : Window) : Option (Except Hold Cause) × State :=
  if windowPoison s x w then
    match translateList s (laneReq s x.grp .write 0) [w.tensor.base] with
    | (.ok ((t, _) :: _), s) => (if t = .hbm then none else some (.ok .poisonConsumed), s)
    | (.ok [], s) => (none, s)
    | (.fault rs, s) => (some (.error (.fault rs)), s)
    | (.fatal c, s) => (some (.ok c), s)
  else (none, s)

def wflushShape (x : View) (f : ASY) : Shape :=
  let w := x.grp.window f.win.toNat
  windowShape x f [] (if w.state = .present then [] else [.windowMisuse])

/-- A WFLUSH that would raise COPY past 255 waits (R250). -/
def wflushWaits (x : View) (k : Ctl) (f : ASY) : Bool := x.clear (wflushShape x f) (x.active k) != 0 && x.counterFull 0 1

/-- The cause that a WFLUSH has beyond its shape, or a hold: the page of BASE comes before the mixed-size check, as the codes
of their causes do, and that before POISON_CONSUMED (R14, R194, R256). -/
def flushStop (s : State) (x : View) (w : Window) : Option (Except Hold Cause) × State :=
  let r := flushCheck s x w
  let clash := engineClash s x.grp w .write
  match r.1 with
  | some (.error h) => (some (.error h), r.2)
  | some (.ok c) => (some (.ok (if clash then minCause c .mixedSizeDebug else c)), r.2)
  | none => (if clash then some (.ok .mixedSizeDebug) else none, r.2)

def execWflush (k : Ctl) (f : ASY) (s : State) : Out :=
  s.issue fun x =>
    let i := f.win.toNat
    let w := x.grp.window i
    let sh := wflushShape x f
    if x.clear sh (x.active k) = 0 then finishEffect s x k sh (fun _ s => s)
    else if wflushWaits x k f then s.deselect
    else
      match flushStop (drainCourse s x.sel.grp x.sel.course) x w with
      | (some (.error h), s) => finishLanes s x k false sh (fun s _ => (.hold h, s))
      | (some (.ok c), s) => finishLanes s x k false sh (fun s _ => (.trap c, s))
      | (none, s) => finishEffect s x k sh fun ok s => startFlush s x i ((lowLane ok).getD 0)

/-- CNTWAIT completes when the counter is at most n, an acquire at GROUP scope (R207, R257); the wait is the selector's. -/
def cntwaitWaits (x : View) (k : Ctl) (f : ASY) : Bool :=
  (x.lacking [6]).isNone && x.active k != 0 && decide (f.cnt.toNat < x.crs.counter f.ccls.toNat)

def execCntwait (k : Ctl) (f : ASY) (s : State) : Out :=
  s.issue fun x =>
    if cntwaitWaits x k f then s.deselect
    else finishEffect s x k (Shape.plain [6] []) fun _ s => s

end Sys2Proof.Machine
end

