-- ==== Sys2Proof/Machine/Matrix.lean ====
section
/-!
DEFINITION. The matrix engine (spec/13_matrix.md, R273 to R293; R47 to R50): issue into the core's queue, the start of
the head entry, its retirement, and the seven instructions.
-/

namespace Sys2Proof.Machine

/-! ### Shapes (R273, R274) -/

/-- Elements in a row of A: K of R273. -/
def matK (dA : Word) : Nat := 4 * (64 / descWidth dA)
/-- Logical row length: KL of R273. -/
def matKL (dA : Word) (sp : Bool) : Nat := if sp then 2 * matK dA else matK dA
def matNb (dA : Word) (sp : Bool) : Nat := matKL dA sp / 32
/-- Column size CS of B. -/
def matCS (dA dB : Word) (sp : Bool) : Nat := 32 * ((matKL dA sp * descWidth dB + 255) / 256)
def matCols (f : MAT) : Nat := if f.pair = 1 then 128 else 64
/-- The B operand's size BSZ. -/
def matBSZ (dA dB : Word) (f : MAT) : Nat :=
  let sp := f.sp == 1
  matCols f * matCS dA dB sp + (if f.bs = 1 then matCols f * matNb dA sp else 0)

/-- Width group g of R276. -/
def widthGroup (w : Nat) : Nat := if w ≤ 8 then 1 else if w ≤ 16 then 2 else if w ≤ 32 then 3 else 4

/-- The member of the issuing group's cluster set on the follower core (R283). -/
def State.follower (s : State) (g : Nat) : Option (Nat × Group) :=
  match s.group g with
  | none => none
  | some grp =>
    match grp.setId, grp.core with
    | some _, some c => s.groups.find? (fun e => e.1 != g && e.2.sameSet grp && e.2.core == some (Nat.xor c 1) && e.2.alive)
    | _, _ => none

/-- Conditions 1 to 7 of R276. -/
def matLegal (s : State) (g : Nat) (dA dB : Word) (f : MAT) : Bool :=
  let wA := descWidth dA
  let ga := widthGroup wA
  descMatrix dA && descMatrix dB && descInteger dA == descInteger dB && (!descInteger dA || ga == 1)
    && ga == widthGroup (descWidth dB)
    && (ga != 4 || (f.zd.toNat % 2 == 0 && f.sp == 0 && f.bs == 0))
    && (f.sp == 0 || ((wA == 2 || wA == 4 || wA == 8 || wA == 16) && decide (descSclass dA ≤ 2)
        && decide (descSclass dB ≤ 2) && decide (f.vx.toNat + matK dA / 16 - 1 ≤ 255)))
    && (f.bs == 0 || (ga == 1 && !descInteger dA && (wA == 2 || wA == 4 || wA == 8) && descDefscale dA != 0
        && descDefscale dB != 0 && decide (f.ssc.toNat + 8 * matNb dA (f.sp == 1) - 1 ≤ 63)))
    && (f.pair == 0 || match s.follower g with
        | some (_, h) => decide (f.zd.toNat + (if ga = 4 then 1 else 0) < h.tiles.length)
        | none => false)

/-! ### Where the scratchpad operand lies (R274, R287) -/

/-- The .S offset of the operand: the window's region or S[BIDX]. -/
def matSrc (x : View) (f : MAT) : Nat :=
  if f.bcls = 0 then (x.grp.window f.bidx.toNat).reg else (x.crs.getS f.bidx.toNat).val.toNat

/-- The causes of a scratchpad operand of the given size (R287): a window's binding and shape, or a range's bounds,
alignment and overlap with windows. -/
def srcCauses (x : View) (f : MAT) (size : Nat) (shape : Window → Bool) (state : Window → Bool) : List Cause :=
  if f.bcls = 0 then
    let w := x.grp.window f.bidx.toNat
    if x.grp.windows.length ≤ f.bidx.toNat ∨ !w.isBound then [.windowMisuse]
    else (if shape w && decide (size ≤ w.tensor.bytes) then [] else [.matrixCombo]) ++ (if state w then [] else [.windowMisuse])
  else
    let o := matSrc x f
    (if o + size ≤ 1024 * x.grp.scratchKiB then [] else [.access]) ++ (if o % 32 = 0 then [] else [.misaligned])
      ++ (if x.grp.windows.any (fun w => w.isBound && decide (o < w.reg + w.tensor.bytes) && decide (w.reg < o + size)) then [.windowMisuse] else [])

/-- The matrix queue of the issuing core is full: the issue waits (R278). -/
def View.matFull (x : View) : Bool := !x.core.matHold.isEmpty || decide (8 ≤ x.core.matQ.length)

/-! ### Issue (R278, R280) -/

/-- The entry an issue makes: what it reads of registers, of the lanes in Active. -/
def matEntry (s : State) (x : View) (k : Ctl) (op : MatOp) (f : MAT) (ok : LaneMask) (token : Nat) : MatEntry :=
  let t := x.core.slot f.sla.toNat
  let u := x.core.slot f.slb.toNat
  let mma := op = .mma ∨ op = .mmaz
  let dA := (x.image f.sla.toNat).desc
  let read (n i : Nat) : PWord := if inMask ok n then x.vreg n i else ⟨0, false⟩
  let aIx := if mma then (List.range 8).map (f.va.toNat + ·) else []
  let mIx := if mma ∧ f.sp = 1 then (List.range (matK dA / 16)).map (f.vx.toNat + ·)
    else if op = .zrscale then [f.vx.toNat] else []
  let sIx := if mma ∧ f.bs = 1 then (List.range (8 * matNb dA (f.sp == 1))).map (f.ssc.toNat + ·) else []
  { op := op, f := f, grp := x.sel.grp, course := x.sel.course, mask := ok, pc := x.sel.pc
    aRegs := (List.range 32).map (fun n => aIx.map (fun i => (read n i).val))
    mRegs := (List.range 32).map (fun n => mIx.map (fun i => (read n i).val))
    scales := sIx.map (fun i => (x.crs.getS i).val)
    poison := (laneList ok).any (fun n => (aIx ++ mIx).any (fun i => (x.vreg n i).poison))
      || sIx.any (fun i => (x.crs.getS i).poison)
    src := matSrc x f, imageA := x.core.slotImage f.sla.toNat, imageB := x.core.slotImage f.slb.toNat
    genA := t.gen, genB := u.gen
    flag := if op = .zmov ∨ op = .zrmax then setfFlag k.setf else none
    token := token, inRes := maskOf (fun n => x.reserved n f.vx.toNat), guardP := maskOf (fun n => inMask ok n && (x.crs.lane n).guardP k)
    headAt := s.time, started := false, bData := 0, bPoison := false, bHave := [] }

/-- Twice the array cycles of an MMA per K (R277): 4 / r of the larger SCLASS. -/
def sclassCycles (c : Nat) : Nat := [1, 2, 4, 16, 64, 256].getD c 256

/-- The array cycles of an MMA or MMAZ (R277), 2K / r. -/
def matCycles (a b : Image) : Nat := matK a.desc * sclassCycles (max (descSclass a.desc) (descSclass b.desc)) / 2

/-- MAC_BUSY: the array cycles of an MMA go to the group's owner, twice under .PAIR (R454). -/
def chargeMac (s : State) (x : View) (e : MatEntry) : State :=
  match e.op, e.imageA, e.imageB with
  | .mma, some a, some b => charge s (((s.launch x.grp.launch).map (·.owner)).getD 0) 1 (matCycles a b * (1 + e.f.pair.toNat))
  | .mmaz, some a, some b => charge s (((s.launch x.grp.launch).map (·.owner)).getD 0) 1 (matCycles a b * (1 + e.f.pair.toNat))
  | _, _, _ => s

/-- The instruction joins the queue: its course's FIFO drains where it is an engine operation, its counter or flag
rises (R206, R278, R280). -/
def matJoin (s : State) (x : View) (k : Ctl) (op : MatOp) (f : MAT) (ok : LaneMask) : State :=
  let counted := op != .zmov && op != .zrmax
  let s := if counted && op != .zrscale then drainCourse s x.sel.grp x.sel.course else s
  let (t, s) := s.newToken
  let e := matEntry s x k op f ok t
  let s := s.updCourse x.sel.grp x.sel.course (fun c => if counted then c.engineStart 1 t else c.raiseFlag e.flag)
  let s := chargeMac s x e
  let core := s.core x.sel.core
  (s.setCore x.sel.core { core with matQ := core.matQ ++ [e] }).post (.matrixEntryStart x.sel.core)

/-- The checks of MMA and MMAZ (R276, R287). -/
def mmaShape (f : MAT) (s : State) (x : View) : Shape :=
  let a := x.core.slotImage f.sla.toNat
  let b := x.core.slotImage f.slb.toNat
  let meta_ : List Nat := if f.sp = 1 then
      match a with
      | some im => f.vx.toNat :: (List.range (matK im.desc / 16)).map (f.vx.toNat + ·)
      | none => [f.vx.toNat]
    else []
  ⟨[8] ++ (if f.sp = 1 then [9] else []) ++ (if f.pair = 1 then [10] else []) ++ (if f.bs = 1 then [11] else []),
    (List.range 8).map (f.va.toNat + ·) ++ meta_,
    fun _ =>
      (if x.grp.tiles.length ≤ f.zd.toNat then [.regBound] else [])
      ++ match a, b with
        | some ia, some ib =>
          let wide := descWidth ia.desc = 64 ∧ descWidth ib.desc = 64
          (if wide ∧ x.grp.tiles.length ≤ f.zd.toNat + 1 then [.regBound] else [])
            ++ (if matLegal s x.sel.grp ia.desc ib.desc f then [] else [.matrixCombo])
            ++ srcCauses x f (matBSZ ia.desc ib.desc f)
                (fun w => w.tensor.width == descWidth ib.desc && w.tensor.rowBytes == matCS ia.desc ib.desc (f.sp == 1))
                (fun _ => true)
            ++ (if f.bcls = 0 ∧ fillClash s x.sel.grp f.bidx.toNat then [.mixedSizeDebug] else [])
        | _, _ => [.formatUnavailable],
    false, []⟩

/-- The checks of an instruction on a tile alone (R287). -/
def tileShape (vregs : List Nat) (f : MAT) (x : View) (more : List Cause) : Shape :=
  ⟨[8], vregs, fun _ => (if x.grp.tiles.length ≤ f.zd.toNat then [.regBound] else []) ++ more, false, []⟩

/-- Row size RS of a ZST (R290). -/
def zstRow (d : Word) : Nat := 32 * ((64 * descWidth d + 255) / 256)

/-- The checks of each matrix instruction. -/
def matShape (op : MatOp) (f : MAT) (s : State) (x : View) : Shape :=
  match op with
  | .mma => mmaShape f s x
  | .mmaz => mmaShape f s x
  | .zld => tileShape [] f x (srcCauses x f 16384 (fun w => w.tensor.width == 32) (fun w => w.state != .absent))
  | .zst => tileShape [] f x (match x.core.slotImage f.sla.toNat with
    | none => [.formatUnavailable]
    | some im => srcCauses x f (64 * zstRow im.desc)
        (fun w => w.tensor.width == descWidth im.desc && w.tensor.rowBytes == zstRow im.desc) (fun w => w.state == .present))
  | _ => tileShape [f.vx.toNat] f x []

/-- An MMA or MMAZ whose B window is ABSENT starts its fill (R241). -/
def matTouches (op : MatOp) (f : MAT) (x : View) : Bool :=
  (op == .mma || op == .mmaz) && f.bcls == 0 && (x.grp.window f.bidx.toNat).state == .absent

/-- A matrix instruction waits for room in the queue and in its counters (R250, R278). -/
def matWaits (op : MatOp) (s : State) (x : View) (k : Ctl) (f : MAT) : Bool :=
  x.clear (matShape op f s x) (x.active k) != 0
    && (x.matFull || ((op != .zmov && op != .zrmax) && x.counterFull 1 1) || (matTouches op f x && x.counterFull 2 1))

/-- A matrix instruction joins the queue when it need not wait. -/
def matExec (op : MatOp) (k : Ctl) (f : MAT) (s : State) : Out :=
  s.issue fun x =>
    if matWaits op s x k f then s.deselect
    else finishEffect s x k (matShape op f s x) fun ok s =>
      if ok = 0 then s
      else
        let s := if matTouches op f x then startFill s x.sel.grp f.bidx.toNat (x.sel.grp, x.sel.course) ((lowLane ok).getD 0)
          else s
        matJoin s x k op f ok

def execMma (k : Ctl) (f : MAT) (s : State) : Out := matExec .mma k f s
def execMmaz (k : Ctl) (f : MAT) (s : State) : Out := matExec .mmaz k f s
def execZld (k : Ctl) (f : MAT) (s : State) : Out := matExec .zld k f s
def execZst (k : Ctl) (f : MAT) (s : State) : Out := matExec .zst k f s
def execZmov (k : Ctl) (f : MAT) (s : State) : Out := matExec .zmov k f s
def execZrmax (k : Ctl) (f : MAT) (s : State) : Out := matExec .zrmax k f s
def execZrscale (k : Ctl) (f : MAT) (s : State) : Out := matExec .zrscale k f s

/-! ### Start (R279, R283) -/

/-- The scratchpad bytes an entry reads when it starts: those of B, or of a ZLD's source. -/
def MatEntry.reads (e : MatEntry) : Nat :=
  match e.op, e.imageA, e.imageB with
  | .mma, some a, some b => matBSZ a.desc b.desc e.f
  | .mmaz, some a, some b => matBSZ a.desc b.desc e.f
  | .zld, _, _ => 16384
  | _, _, _ => 0

def MatEntry.paired (e : MatEntry) : Bool := (e.op == .mma || e.op == .mmaz) && e.f.pair == 1

/-- The scratchpad address of an entry's operand on its core. -/
def matAddr (s : State) (e : MatEntry) : Nat := ((s.group e.grp).map (·.allocBase)).getD 0 + e.src

/-- The scratchpad sectors that the entry has yet to read. -/
def MatEntry.unread (s : State) (e : MatEntry) : List Nat :=
  let a := matAddr s e
  if e.reads = 0 then []
  else ((List.range ((a + e.reads + 31) / 32 - a / 32)).map (a / 32 + ·)).filter (fun k => !e.bHave.contains k)

/-- A sector that the entry has yet to read lies in a bound window and has not arrived (R279). -/
def matMissing (s : State) (core : Nat) (e : MatEntry) : Bool :=
  !(missingSectors s ((e.unread s).map (fun k => (core, k)))).isEmpty

/-- The neighbour's array bars a start (R283): it is taken by a pair the neighbour leads, or such a pair waits at its
head and came there first; a pair of this core also waits for the neighbour's entry in progress. -/
def pairBlocks (s : State) (core : Nat) (e : MatEntry) : Bool :=
  match (s.core (Nat.xor core 1)).matQ with
  | [] => false
  | h :: _ =>
    (h.started && (h.paired || e.paired))
      || (h.paired && (!e.paired || decide (h.headAt < e.headAt)
          || (h.headAt == e.headAt && decide (Nat.xor core 1 < core))))

/-- An entry with the bytes it reads of some sectors of scratchpad, and their poison. -/
def matTake (s : State) (core : Nat) (e : MatEntry) (ks : List Nat) : MatEntry :=
  let m := s.mem (.scratch core)
  let a := matAddr s e
  { e with
    bData := (List.range e.reads).foldr (fun j acc =>
      (if ks.contains ((a + j) / 32) then (m.byte (a + j)).toNat else e.bData / 256 ^ j % 256) + 256 * acc) 0
    bPoison := e.bPoison || ks.any m.isPoisoned
    bHave := e.bHave ++ ks }

/-- An entry with the scratchpad bytes it reads when it starts: all of them, but for those it has read before (R279, R288). -/
def matRead (s : State) (core : Nat) (e : MatEntry) : MatEntry :=
  let m := s.mem (.scratch core)
  let a := matAddr s e
  if e.bHave.isEmpty then { e with bData := m.read a e.reads, bPoison := decide (0 < e.reads) && m.anyPoison a e.reads }
  else matTake s core e (e.unread s)

/-- MATRIX_ENTRY_START: the head entry starts when the array is free and its bytes are there, and reads them (R279,
R288); until then it is tried again. -/
def execMatrixEntryStart (core : Nat) (s : State) : Out :=
  match (s.core core).matQ with
  | [] => .next s
  | e :: rest =>
    if e.started then .next s
    else if matMissing s core e || pairBlocks s core e then .next (s.post (.matrixEntryStart core))
    else
      let e := { matRead s core e with started := true }
      .next ((s.setCore core { s.core core with matQ := e :: rest }).post (.matrixEntryRetire core))

/-! ### Results (R281, R282, R288 to R293) -/

/-- n bits of B from bit b. -/
def MatEntry.bBits (e : MatEntry) (b n : Nat) : Nat := e.bData / 2 ^ b % 2 ^ n

/-- Element k' of row i of A, scaled (R273, R282). pos is its logical position. -/
def MatEntry.aVal (e : MatEntry) (a : Image) (i k' pos : Nat) : Val :=
  let w := descWidth a.desc
  let n := 64 / w
  let v := valOf a (field (((e.aRegs.getD (i % 32) []).getD (4 * (i / 32) + k' / n) 0)) w (k' % n))
  if e.f.bs = 1 then
    let t := pos / 32 * 64 + i
    (scaleVal (descDefscale a.desc - 1) (((e.scales.getD (t / 8) 0).toNat) / 2 ^ (8 * (t % 8)) % 256)).mul v
  else v

/-- Element k of column j of B, scaled (R274, R282). -/
def MatEntry.bVal (e : MatEntry) (a b : Image) (k j : Nat) : Val :=
  let w := descWidth b.desc
  let cs := matCS a.desc b.desc (e.f.sp == 1)
  let v := valOf b (e.bBits (8 * (j * cs) + k * w) w)
  if e.f.bs = 1 then
    let n := matCols e.f
    (scaleVal (descDefscale b.desc - 1) (e.bBits (8 * (n * cs + k / 32 * n + j)) 8)).mul v
  else v

/-- The logical position of a kept element (R281). -/
def MatEntry.pos (e : MatEntry) (a : Image) (i k' : Nat) : Nat :=
  if e.f.sp = 1 then
    let k := matK a.desc
    let bit := i / 32 * (2 * k) + 2 * k'
    4 * (k' / 2) + (((e.mRegs.getD (i % 32) []).getD (bit / 64) 0).toNat / 2 ^ (bit % 64) % 4)
  else k'

/-- The terms of element (i, j), j a column of B (R47, R281). -/
def MatEntry.terms (e : MatEntry) (a b : Image) (i j : Nat) : List Val :=
  (List.range (matK a.desc)).map fun k' =>
    let p := e.pos a i k'
    (e.aVal a i k' p).mul (e.bVal a b p j)

/-- The exact sum of values (R40, R47, R48). -/
def sumVals : List Val → Val
  | [] => .zero false
  | v :: vs => vs.foldl (fun acc x => acc.add false x) v

/-- A new accumulator code from the old one, if it counts, and the terms (R47 to R49). Special values among the terms of
an integer format resolve by R48 before R39. -/
def accumulate (acc : Nat) (sat : Bool) (old : Option Nat) (terms : List Val) : Nat :=
  if acc = 0 then
    let vs := match old with
      | some c => valOfInt (intOfBits true 32 c) :: terms
      | none => terms
    roundToInt true 32 (exactOf (sumVals vs)) .rne sat 0
  else
    let im := catalogueImage acc
    let vs := match old with
      | some c => valOf im c :: terms
      | none => terms
    roundTo im (exactOf (sumVals vs)) .rne sat 0

/-- The guard of a lane of an entry was poisoned: its poison joins every result of the entry (R126, R375). -/
def MatEntry.guardPoison (e : MatEntry) : Bool := e.guardP != 0

/-- Accumulator format of an entry: 0 I32, else the FORMAT_ID of F32 or F64 (R276). -/
def accFormat (a : Image) : Nat := if descInteger a.desc then 0 else if widthGroup (descWidth a.desc) = 4 then 1 else 2

def Tile.get (t : Tile) (i j : Nat) : Nat := if h : 64 * i + j < 4096 then (t.z[64 * i + j]).toNat else 0
def Tile.build (f : Nat → Nat → Nat) (poison : Bool) : Tile :=
  ⟨Vector.ofFn (fun q : Fin 4096 => BitVec.ofNat 32 (f (q.val / 64) (q.val % 64))), poison⟩
def Group.tile (g : Group) (i : Nat) : Tile := g.tiles.getD i Tile.zero
def State.setTile (s : State) (g i : Nat) (t : Tile) : State :=
  s.updGroup g (fun x => { x with tiles := x.tiles.set i t })

/-- Row i's lane was in Active (R288). -/
def MatEntry.act (e : MatEntry) (i : Nat) : Bool := inMask e.mask (i % 32)

/-- MMA or MMAZ on one group's tile, from the columns of B that start at col (R288, R284). Of the poison that the tiles had,
that of the group's own tile joins the result alone (log entry 126). -/
def mmaTile (s : State) (e : MatEntry) (a b : Image) (g col : Nat) : State :=
  match s.group g with
  | none => s
  | some grp =>
    let zd := e.f.zd.toNat
    let acc := accFormat a
    let keep := e.op = .mma
    let lo := grp.tile zd
    let hi := grp.tile (zd + 1)
    let sat := e.f.sat == 1
    let new (i j : Nat) : Nat :=
      let old := if acc = 1 then lo.get i j + 2 ^ 32 * hi.get i j else lo.get i j
      if e.act i then accumulate acc sat (if keep then some old else none) (e.terms a b i (j + col))
      else if keep then old else 0
    let p := e.poison || e.bPoison || e.guardPoison || (keep && (lo.poison || (acc == 1 && hi.poison)))
    let s := s.setTile g zd (Tile.build (fun i j => new i j % 2 ^ 32) p)
    if acc = 1 then s.setTile g (zd + 1) (Tile.build (fun i j => new i j / 2 ^ 32) p) else s

/-- What a ZST stores of an element (R290). -/
def zstCode (e : MatEntry) (im : Image) (c : Nat) : Nat :=
  if e.f.sla = 1 then c
  else roundTo im (exactOf (valOf (catalogueImage 2) c)) (RMode.ofField e.f.rm) (e.f.sat == 1) 0

/-- A ZST's bytes as one number: the rows in the layout of R290, padding zero. -/
def zstValue (e : MatEntry) (im : Image) (t : Tile) : Nat :=
  let w := descWidth im.desc
  (List.range 64).foldl (fun acc i =>
    acc + 2 ^ (8 * zstRow im.desc * i)
      * (List.range 64).foldl (fun r j => r + zstCode e im (t.get i j) % 2 ^ w * 2 ^ (j * w)) 0) 0

/-- The code of a row's maximum (R292). -/
def rowMax (t : Tile) (i : Nat) : Nat :=
  (List.range 64).foldl (fun m j => minMaxCode (catalogueImage 2) true false m (t.get i j)) (t.get i 0)

/-- The register results of ZMOV and ZRMAX in the lanes of Active (R284, R291, R292). -/
def matWrites (e : MatEntry) (t : Tile) (val : Nat → Nat) : List RegWrite :=
  (laneList e.mask).map fun n =>
    let x : PWord := ⟨BitVec.ofNat 64 (val n), t.poison || inMask e.guardP n⟩
    if inMask e.inRes n then .reserve n (e.f.vx.toNat - 224) x else .v n e.f.vx.toNat x

/-- ZRSCALE on its tile (R293). -/
def zrscaleTile (e : MatEntry) (t : Tile) : Tile :=
  let im := catalogueImage 2
  Tile.build (fun i j =>
    if e.act i then
      let fct := field ((e.mRegs.getD (i % 32) []).getD 0 0) 32 (i / 32)
      roundTo im (exactOf ((valOf im (t.get i j)).mul (valOf im fct))) .rne (e.f.sat == 1) 0
    else t.get i j) (t.poison || e.poison || e.guardPoison)

/-- The result of an entry, written whole (R279); a paired one's second tile is that of the member then on the follower
core, or none when that member is gone (R283; log entry 127). -/
def matResult (s : State) (core : Nat) (e : MatEntry) : State :=
  match s.group e.grp with
  | none => s
  | some grp =>
    let zd := e.f.zd.toNat
    let t := grp.tile zd
    match e.op, e.imageA, e.imageB with
    | .zld, _, _ => s.setTile e.grp zd (Tile.build (fun i j => e.bBits (8 * (256 * i + 4 * j)) 32) (e.bPoison || e.guardPoison))
    | .zst, some im, _ =>
      s.applyWrites (secWrites (.scratch core) (8 * matAddr s e) (8 * (64 * zstRow im.desc)) (zstValue e im t) (t.poison || e.guardPoison))
    | .zmov, _, _ =>
      applyRegs s core e.grp e.course (matWrites e t (fun n =>
        t.get e.f.row.toNat (2 * n) + 2 ^ 32 * t.get e.f.row.toNat (2 * n + 1)))
    | .zrmax, _, _ => applyRegs s core e.grp e.course (matWrites e t (fun n => rowMax t n + 2 ^ 32 * rowMax t (n + 32)))
    | .zrscale, _, _ => s.setTile e.grp zd (zrscaleTile e t)
    | _, some a, some b =>
      let s := mmaTile s e a b e.grp 0
      if e.paired then
        match s.follower e.grp with
        | some (h, _) => mmaTile s e a b h 64
        | none => s
      else s
    | _, _, _ => s

/-- An entry's counter or flag share falls (R278). -/
def matRelease (s : State) (e : MatEntry) : State :=
  s.updCourse e.grp e.course (fun c =>
    if e.op = .zmov ∨ e.op = .zrmax then c.lowerFlag e.flag else c.engineDone 1 e.token)

/-- MATRIX_ENTRY_RETIRE: the entry in progress writes its result and leaves the queue (R279). -/
def execMatrixEntryRetire (core : Nat) (s : State) : Out :=
  match (s.core core).matQ with
  | [] => .next s
  | e :: rest =>
    if e.started then
      let s := matRelease (matResult s core e) e
      let rest := match rest with
        | h :: tl => { h with headAt := s.time } :: tl
        | [] => []
      let s := s.setCore core { s.core core with matQ := rest }
      .next ((s.post (.matrixEntryStart core)).post (.matrixEntryStart (Nat.xor core 1)))
    else .next s

/-! ### WDROP (R255, R279) -/

/-- The head entry of a core's queue that waits on sectors of a window, whether or not it names the window, reads all that it
is to read in the window's region when the window is dropped, the sectors that have arrived as well (R279). An entry behind the
head waits for no sector yet (log entry 124). -/
def readAtDrop (s : State) (core g i : Nat) : State :=
  match (s.core core).matQ with
  | [] => s
  | e :: rest =>
    let ks := ((e.unread s).map (fun k => (core, k))).filter (fun k =>
      ((windowAt s k.1 k.2).map (fun w => (w.1, w.2.1))) == some (g, i))
    if e.started || (missingSectors s ks).isEmpty then s
    else s.setCore core { s.core core with matQ := matTake s core e (ks.map (·.2)) :: rest }

/-- R255: the window is unbound, an outstanding fill completes, the lanes it held replay, and a matrix entry that waits on
it reads its region as plain scratchpad. -/
def dropWindow (s : State) (x : View) (i : Nat) : State :=
  let w := x.grp.window i
  let s := unbind (readAtDrop s x.sel.core x.sel.grp i) x x.grp i
  let s := match w.owner with
    | some (og, oc, t) => s.updCourse og oc (fun c => c.engineDone 2 t)
    | none => s
  wakeAll s

def execWdrop (k : Ctl) (f : ASY) (s : State) : Out :=
  s.issue fun x =>
    let w := x.grp.window f.win.toNat
    finishEffect s x k (windowShape x f [] (if w.isBound ∧ w.state ≠ .flushing then [] else [.windowMisuse]))
      fun ok s => if ok = 0 then s else dropWindow s x f.win.toNat

end Sys2Proof.Machine
end

