-- ==== Sys2Proof/Machine/Held.lean ====
section
/-!
DEFINITION. The commit of held entries (R211, R213, R224, R349) and the signature of a redundant copy (R486).
-/

namespace Sys2Proof.Machine

/-- A held entry becomes visible: a store is written at its home, a deferred reduction is performed there (R213, R224). -/
def commitEntry (core : Nat) (s : State) (h : Held) : State :=
  match h.red with
  | none => homeWrite s core h.write
  | some (op, ty, off, v) =>
    (atomAt s core (AtomOp.ofCode op) ty ⟨h.write.tgt, h.write.sector, 8 * off, atomBits ty, 0⟩ v.toNat 0 h.write.poison
      false false).2

/-- Commit the held entries of a group that p selects, in the order they were held. -/
def commitHeld (s : State) (g : Nat) (p : Held → Bool) : State :=
  match s.group g with
  | none => s
  | some grp =>
    let s := s.setGroup g { grp with held := grp.held.filter (fun h => !p h) }
    s.paid (groupOwner s g) ((grp.held.filter p).foldl (commitEntry (grp.core.getD 0)))

/-! ### Signatures (R486) -/

/-- One byte of CRC-64, polynomial 0x42F0E1EBA9EA3693, most significant bit first. -/
def crcByte (crc : Word) (b : Byte) : Word :=
  (List.range 8).foldl (fun (c : Word) _ => if c.getLsbD 63 then (c <<< 1) ^^^ 0x42F0E1EBA9EA3693#64 else c <<< 1)
    (crc ^^^ (b.setWidth 64 <<< 56))

/-- The low n bytes of a number, least significant first. -/
def bytesOf : Nat → Nat → List Byte
  | 0, _ => []
  | n + 1, v => BitVec.ofNat 8 v :: bytesOf n (v / 256)

/-- Little-endian fields one after another: each a value and its bytes. -/
def packFields : List (Nat × Nat) → Nat
  | [] => 0
  | (v, n) :: fs => v % 256 ^ n + 256 ^ n * packFields fs

/-- What a held store contributes: its sector address, its mask and its data with unwritten bits zero (R486). -/
def Held.stream (h : Held) : List Byte :=
  bytesOf 8 (32 * h.write.sector) ++ bytesOf 32 h.write.mask.toNat ++ bytesOf 32 (h.write.data &&& h.write.mask).toNat

/-- A lane's value: the CRC of its held stores in issue order. -/
def laneCrc (hs : List Held) (course lane : Nat) : Word :=
  (hs.filter (fun h => h.course == course && h.lane == lane)).foldl (fun c h => h.stream.foldl crcByte c) 0

/-- A copy's signature: the XOR of its lanes' values. -/
def Group.signature (g : Group) : Word :=
  (List.range g.courses.length).foldl (fun acc c =>
    (List.range 32).foldl (fun acc n => acc ^^^ laneCrc g.held c n) acc) 0

end Sys2Proof.Machine
end

