-- ==== Sys2Proof/Machine/Launcher.lean ====
section
/-!
DEFINITION. The launcher of a graph launch (spec/16_stage_graphs.md, R334 to R348): the record pool and its runs, drain
mode, the grant of waiting RRES requests, seals, the triggers that create groups, and the creation of a group (R98, R99,
R101, R398, R403).
-/

namespace Sys2Proof.Machine

/-! ### Sorting and ranges -/

/-- Insert before the first entry that is not ahead of x. -/
def insertBy {α : Type} (le : α → α → Bool) (x : α) : List α → List α
  | [] => [x]
  | y :: l => if le x y then x :: y :: l else y :: insertBy le x l

/-- A stable sort. -/
def sortBy {α : Type} (le : α → α → Bool) : List α → List α
  | [] => []
  | x :: l => insertBy le x (sortBy le l)

/-- len bytes from a lie in [base, base + size) and meet no range in use. -/
def rangeFree (used : List (Nat × Nat)) (base size a len : Nat) : Bool :=
  decide (base ≤ a ∧ a + len ≤ base + size) && used.all (fun u => decide (a + len ≤ u.1 ∨ u.1 + u.2 ≤ a))

/-- A free range of len bytes at a multiple of align from base: where the free value points if that is free, else the
first that follows the base or a range in use. The spec does not say which range is taken. -/
def pickRange (used : List (Nat × Nat)) (base size align len free : Nat) : Option Nat :=
  let up (a : Nat) : Nat := base + (a - base + align - 1) / align * align
  ((base + align * (free % ((size - len) / align + 1))) :: base :: used.map (fun u => up (u.1 + u.2))).find?
    (fun a => rangeFree used base size a len)

/-! ### The graph of a launch -/

def State.launchObj (s : State) (l : Launch) : Option Obj := alGet s.objects l.obj
def Obj.node (o : Obj) (t : Nat) : Option Node := o.nodes[t]?
def Obj.rank (o : Obj) (t : Nat) : Nat := ((o.node t).map (·.rank)).getD 0
def Obj.succ (o : Obj) (u t : Nat) : Bool := ((o.node u).map (·.succ.getLsbD t)).getD false
def Obj.rsz (o : Obj) (t : Nat) : Nat := ((o.node t).map (·.rsz)).getD 16
/-- CAP(t) of R335. -/
def Obj.cap (o : Obj) (t : Nat) : Nat := 1024 / max 1 (o.rsz t)
def Obj.nodeList (o : Obj) : List Nat := List.range o.nodes.length

/-- The nodes reached from a set in at most n more edges. -/
def Obj.reach (o : Obj) : Nat → List Nat → List Nat
  | 0, xs => xs
  | n + 1, xs => o.reach n (xs ++ o.nodeList.filter (fun t => !xs.contains t && xs.any (fun u => o.succ u t)))

/-- There is a path of one or more edges from u to t (R341). -/
def Obj.leads (o : Obj) (u t : Nat) : Bool :=
  (o.reach o.nodes.length (o.nodeList.filter (fun v => o.succ u v))).contains t

/-- The lanes of a kernel's group: 32 times its courses. -/
def Kernel.lanes (k : Kernel) : Nat := 32 * (k.roles.map (·.1)).sum

/-! ### What a root needs (R336) -/

/-- The nodes reached from a root, the root included. -/
def Obj.reached (o : Obj) (r : Nat) : List Nat := o.reach o.nodes.length [r]

def Obj.kernel (o : Obj) (t : Nat) : Option Kernel := (o.node t).bind (fun n => o.kernels[n.kernel]?)

/-- m(t) of R336. -/
def Obj.copies (o : Obj) (t : Nat) : Nat := if ((o.node t).map (·.redundant)).getD false then 2 else 1

/-- RESERVE(r) of R336. -/
def Obj.reserveOf (o : Obj) (r : Nat) : Nat :=
  ((o.reached r).map (fun t =>
    o.copies t * ((o.kernel t).map Kernel.lanes).getD 0 * ((o.nodeList.filter (o.succ t)).length))).foldl max 1

/-- QMAX(r) of R336. -/
def Obj.qmaxOf (o : Obj) (r : Nat) : Nat :=
  ((o.reached r).map (fun t => match o.node t with
    | some n => if n.kind = .persistent then 0 else o.copies t * n.quantum
    | none => 0)).foldl max 0

/-- MINPOOL of R336 for a launch with e entry records. -/
def Obj.minPool (o : Obj) (r e : Nat) : Nat := (e + o.cap r - 1) / max 1 (o.cap r) + o.reserveOf r + o.qmaxOf r

/-- The load report: the root, RESERVE and QMAX of each node that may be a root (R336, R337). -/
def Obj.loadReport (o : Obj) : List (Nat × Nat × Nat) :=
  (o.nodeList.filter (fun t => ((o.node t).map (fun n => n.kind == .entry || n.kind == .persistent)).getD false)).map
    (fun r => (r, o.reserveOf r, o.qmaxOf r))

/-- The pending records of a node, oldest first (R340); those of one age in the order of the launch's list, which is that of their
grant (log entry 149). -/
def Launch.pending (l : Launch) (t : Nat) : List Record :=
  sortBy (fun a b => decide (a.age ≤ b.age)) (l.records.filter (fun r => r.node == t && r.state == .pending))

/-! ### Runs (R335) -/

/-- The lowest-indexed free block. -/
def Launch.freshBlock (l : Launch) : Option Nat := (List.range l.nb).find? (fun k => !l.blocks.any (fun b => b.1 == k))
def Launch.freeBlocks (l : Launch) : Nat := l.nb - l.blocks.length

/-- The open block of a node that still has room for a run of n. -/
def Launch.openFits (l : Launch) (o : Obj) (t n : Nat) : Option (Nat × Block) :=
  l.blocks.find? (fun b => b.2.node == t && b.2.opened && decide (b.2.used + n ≤ o.cap t))

/-- Grant a run of n slots of node t: in the open block, or at the start of a fresh one. -/
def Launch.takeRun (l : Launch) (o : Obj) (t n : Nat) (rec : Nat → Nat → Record) : Option (Run × Launch) :=
  match l.openFits o t n with
  | some (k, b) =>
    some (⟨t, k, b.used, n⟩, { l with
      blocks := alSet l.blocks k { b with used := b.used + n }
      records := l.records ++ (List.range n).map (fun i => rec k (b.used + i)) })
  | none =>
    match l.freshBlock with
    | some k =>
      let bs := l.blocks.map (fun b => if b.2.node = t then (b.1, { b.2 with opened := false }) else b)
      some (⟨t, k, 0, n⟩, { l with
        blocks := alSet bs k { node := t, used := n, opened := true }
        records := l.records ++ (List.range n).map (fun i => rec k i) })
    | none => none

/-- The address of a record (R335). -/
def recordVa (l : Launch) (o : Obj) (t block slot : Nat) : Nat := (l.poolVa + 1024 * block + slot * o.rsz t) % 2 ^ 64

/-! ### Drain mode (R345) -/

def Launch.draining (l : Launch) : Bool := decide (l.freeBlocks ≤ l.reserve)

/-- The greatest of a list, or none. -/
def maxOf : List Nat → Option Nat
  | [] => none
  | x :: l => some (l.foldl max x)

/-- The drain rank: of the nodes with pending records, else of those with a live group. -/
def drainRank (s : State) (li : Nat) (l : Launch) (o : Obj) : Option Nat :=
  match maxOf ((o.nodeList.filter (fun t => !(l.pending t).isEmpty)).map o.rank) with
  | some r => some r
  | none => maxOf ((s.launchGroups li).map (fun e => o.rank e.2.node))

/-- Whether a run of n of node t may be granted to a group of node own, in a cycle of drain mode or not, with its drain
rank (R345). -/
def grantableIn (drain : Bool) (rank : Option Nat) (l : Launch) (o : Obj) (own t n : Nat) : Bool :=
  (l.openFits o t n).isSome ||
    (l.freshBlock.isSome && (!drain || match rank with
      | some r => decide (r ≤ o.rank own)
      | none => true))

/-- Drain mode and its rank as a launcher cycle decides them (order 4 of R344). -/
def drainMode (s : State) (li : Nat) : Bool × Option Nat :=
  match s.launch li with
  | some l => (l.draining, (s.launchObj l).bind (fun o => drainRank s li l o))
  | none => (false, none)

/-! ### RRES requests (R346) -/

/-- The priority of a request: the node rank of its group, then its creation count. -/
def requestKey (s : State) (o : Obj) (q : RresReq) : Nat × Nat :=
  match s.group q.grp with
  | some g => (o.rank g.node, g.ident.toNat % 2 ^ 24)
  | none => (0, 0)

/-- The first key comes before the second, or is the same. -/
def keyFirst (a b : Nat × Nat) : Bool := decide (b.1 < a.1) || (a.1 == b.1 && decide (a.2 ≤ b.2))

/-- A new record of an open run (R338). -/
def reservedRecord (g t block slot : Nat) : Record :=
  { block := block, slot := slot, node := t, state := .reserved, depth := 0, key := 0, age := 0, grp := some g, ownedOnly := false,
    avoid := none }

/-- Give a lane its run (R352): what it reads, and the lane with the run open. -/
def giveRun (s : State) (li : Nat) (g c n t size : Nat) : Option (Word × State) :=
  match s.launch li with
  | none => none
  | some l =>
    match s.launchObj l with
    | none => none
    | some o =>
      match l.takeRun o t size (reservedRecord g t) with
      | none => none
      | some (r, l) =>
        some (BitVec.ofNat 64 (recordVa l o t r.block r.slot),
          (s.setLaunch li l).updLane g c n (fun x => { x with runs := x.runs ++ [r] }))

/-- The result word of a grant (R352). -/
def rresResult (st g : Nat) : Word := BitVec.ofNat 64 (st * 256 + g)

/-- Grant the waiting requests in the order of R346, until one cannot be granted; drain mode is as decided before them
(R344). -/
def grantRequests (li : Nat) (drain : Bool) (rank : Option Nat) : List RresReq → State → State
  | [], s => s
  | q :: qs, s =>
    match s.launch li with
    | none => s
    | some l =>
      match s.launchObj l, s.group q.grp with
      | some o, some g =>
        if grantableIn drain rank l o g.node q.node q.count then
          match giveRun s li q.grp q.course q.lane q.node q.count with
          | some (a, s) =>
            grantRequests li drain rank qs ((s.updLaunch li (fun l => { l with fifo := l.fifo.filter (· != q) })).updLane q.grp q.course q.lane
              (fun x => if x.hold = .rres then { x with hold := .rresGranted a (rresResult 0 q.count) } else x))
          | none => s
        else s
      | _, _ => s

def grantWaiting (s : State) (li : Nat) (drain : Bool) (rank : Option Nat) : State :=
  match s.launch li with
  | none => s
  | some l =>
    match s.launchObj l with
    | none => s
    | some o => grantRequests li drain rank (sortBy (fun a b => keyFirst (requestKey s o a) (requestKey s o b)) l.fifo) s

/-! ### Reservations of a group (R398, R403) -/

/-- RSV of R403 for a group of a kernel. -/
def reserveSize (k : Kernel) : Nat :=
  let courses := (k.roles.map (·.1)).sum
  let pool := (k.roles.map (fun r => r.1 * r.2)).sum
  256 + 640 * courses + 128 * 32 * courses + 256 * pool + 4 * pool + 1024 * k.scratch + 4 * k.scratch + 16384 * k.ztiles
    + 96 * k.windows + 32 * k.barriers + 37376 + 8192

/-- Reserve a group's private range and save record; nothing while either does not fit (R398, R403). pbase is the range
of the other copy of a redundant pair. -/
def reserveFor (s : State) (h : Nat) (pbase : Option Nat) : State :=
  match s.group h with
  | none => s
  | some g =>
    if g.saveLen ≠ 0 then s
    else
      match alGet s.ctxs (s.groupCtx g), (s.groupObj g).bind (fun o => (o.node g.node).bind (fun n => o.kernels[n.kernel]?)) with
      | some c, some k =>
        let plen := g.psize * 32 * g.courses.length
        let (f1, s) := s.takeFree
        let (f2, s) := s.takeFree
        let pb := match pbase with
          | some b => some b
          | none => if plen = 0 then some c.privBase else pickRange c.priv c.privBase c.privSize 64 plen f1
        match pb, pickRange c.saves c.saveBase c.saveSize 32 (reserveSize k) f2 with
        | some pb, some sb =>
          (s.updCtx (s.groupCtx g) (fun c => { c with
            priv := if plen = 0 ∨ pbase.isSome then c.priv else c.priv ++ [(pb, plen)]
            saves := c.saves ++ [(sb, reserveSize k)] })).setGroup h
              { g with pbase := pb, saveAddr := sb, saveLen := reserveSize k }
        | _, _ => s
      | _, _ => s

/-! ### The deficits of the placement arbiter (R425) -/

/-- The deficits of owners with no waiting group are zero. -/
def resetDeficits (s : State) (p : Nat) : State :=
  let waiting := (s.groups.filter (fun e => e.2.state == .pending && s.groupPart e.2 == p)).filterMap
    (fun e => (s.launch e.2.launch).map (·.owner))
  s.updPart p (fun q => { q with deficits := q.deficits.filter (fun d => waiting.contains d.1) })

/-- A saved group waits for placement again: an owner for which none waited starts from no deficit. -/
def waitAgain (s : State) (h : Nat) : State :=
  match s.group h with
  | some g => (resetDeficits s (s.groupPart g)).updGroup h (fun g => { g with state := .pending })
  | none => s

/-! ### Creating a group (R98, R99, R340, R343) -/

/-- The %SEED of a lane at group launch (R42). -/
def launchSeed (seed ident : BitVec 32) (course lane : Nat) : BitVec 32 :=
  let x := seed ^^^ BitVec.ofNat 32 (((ident.toNat * 32 + course) * 32 + lane) * 0x9E3779B9)
  if x = 0 then 1 else x

/-- The courses of a new group (R95, R99): each lane's PC, seed, record and liveness. -/
def newCourses (k : Kernel) (seed ident : BitVec 32) (persistent : Bool) (rsz : Nat) (recs : List Record) : List Course :=
  let roles := (k.roles.zipIdx).flatMap (fun r => List.replicate r.1.1 (r.2, r.1.2))
  (roles.zipIdx).map fun e =>
    let c := Course.reset.mapLanes fun n l =>
      let i := 32 * e.2 + n
      { l with
        live := persistent || decide (i < recs.length)
        pc := k.entry
        seed := launchSeed seed ident e.2 n
        recBase := if persistent then BitVec.allOnes 64
          else if i < recs.length then BitVec.ofNat 64 (i * rsz) else BitVec.allOnes 64
        recDepth := if persistent then 0 else BitVec.ofNat 8 ((recs[i]?.map (·.depth)).getD 0) }
    { c with role := e.1.1, quota := e.1.2, ended := !c.anyLive }

/-- A new group in PENDING, or in SAVED when its context is SAVING or SAVED (R401). -/
def newGroup (s : State) (li : Nat) (l : Launch) (o : Obj) (t : Nat) (nd : Node) (k : Kernel) (recs : List Record)
    (mode : Mode) (set : Option Nat) (setSize rank : Nat) (extra : Bool) : Group :=
  let ident : BitVec 32 := BitVec.ofNat 32 (l.cluster * 2 ^ 24 + l.created % 2 ^ 24)
  let persistent := nd.kind == .persistent
  let quiet : Bool := match alGet s.ctxs l.ctx with
    | some c => c.state == .saving || c.state == .saved
    | none => false
  { ident := ident, launch := li, node := t, state := if quiet then .saved else .pending, mode := mode, core := none,
    placed := false, courses := newCourses k l.seed ident persistent (o.rsz t) recs,
    rolePools := k.roles.map (fun r => r.1 * r.2), regq := k.roles.map (fun _ => []), scratchKiB := k.scratch,
    allocBase := 0, tiles := List.replicate k.ztiles Tile.zero, windows := List.replicate k.windows Window.unbound,
    barriers := List.replicate k.barriers Barrier.uninit, pbase := 0, psize := k.psize, dlim := k.dlim, setRank := rank,
    setId := set, setSize := setSize, extra := extra, lastCore := none, avoid := (recs.findSome? (·.avoid)),
    records := recs.map (fun r => (r.block, r.slot)),
    recCount := if persistent then l.total else recs.length, taken := [], held := [], overflow := recs.any (·.ownedOnly),
    halting := false, release := false, tag := 0, savedBy := .command, saveAddr := 0, saveLen := 0, digest := 0,
    savedScratch := Memory.empty, savedValid := 0, savedMat := [], savedReserve := none, copied := 0 }

/-- The cluster set of the next group of an ENTRY root (R108): its number and size. -/
def entrySet (l : Launch) (nd : Node) (t : Nat) : Option Nat × Nat :=
  let groups := (l.total + nd.quantum - 1) / max 1 nd.quantum
  if nd.kind = .entry ∧ t = l.root ∧ 2 ≤ l.setSize ∧ l.created < groups then
    (some (l.created / l.setSize), min l.setSize (groups - l.created / l.setSize * l.setSize))
  else (none, 1)

/-- Create a group of node t with the records bound to it; a redundant node's group is two copies (R340, R485). -/
def createGroup (s : State) (li t : Nat) (recs : List Record) (set : Option (Option Nat × Nat × Nat) := none)
    (extra : Bool := false) : State :=
  match s.launch li with
  | none => s
  | some l =>
    match s.launchObj l with
    | none => s
    | some o =>
      match o.node t with
      | none => s
      | some nd =>
        match o.kernels[nd.kernel]? with
        | none => s
        | some k =>
          let s := resetDeficits s l.part
          let h := s.nextGroup
          let (sid, ssz, rank) := set.getD ((entrySet l nd t).1, (entrySet l nd t).2, 0)
          let make (m : Mode) : Group := newGroup s li l o t nd k recs m sid ssz rank extra
          let bind (l : Launch) : Launch := { mapRecords l (fun r => recs.any (fun q => q.block == r.block && q.slot == r.slot))
            (fun r => { r with state := .bound, grp := some h }) with created := l.created + 1 }
          let s := if nd.redundant then
              let s := (s.setGroup h (make (.redundant false (h + 1)))).setGroup (h + 1) (make (.redundant true h))
              let s := reserveFor { s with nextGroup := h + 2 } h none
              reserveFor s (h + 1) ((s.group h).bind (fun g => if g.saveLen = 0 then none else some g.pbase))
            else reserveFor { (s.setGroup h (make .ordinary)) with nextGroup := h + 1 } h none
          (s.updLaunch li bind).postOnce (.groupPlace [])

/-! ### Seals and triggers (R340, R341) -/

/-- Node t is sealed (R341). -/
def sealed (s : State) (li : Nat) (l : Launch) (o : Obj) (t : Nat) : Bool :=
  o.nodeList.all fun u =>
    !o.leads u t || (!(s.launchGroups li).any (fun e => e.2.node == u) && (u == t || (l.pending u).isEmpty))

/-- The bins of a node (R340): by key for a KEYED node. -/
def binsOf (nd : Node) (ps : List Record) : List (List Record) :=
  if nd.kind = .keyed then ((List.range 64).map (fun k => ps.filter (fun r => r.key == k))).filter (fun b => !b.isEmpty)
  else [ps]

/-- The records that a trigger of R340 binds from a bin. -/
def triggered (nd : Node) (now : Nat) (drain : Option Bool) (isSealed : Bool) (bin : List Record) : Option (List Record) :=
  match bin with
  | [] => none
  | first :: _ =>
    let some_ := some (bin.take nd.quantum)
    match drain with
    | some chosen => if chosen then some_ else none
    | none =>
      if nd.quantum ≤ bin.length then some_
      else if nd.timer ≠ 0 ∧ first.age + nd.timer ≤ now then some_
      else if isSealed then some_
      else none

/-- One group at most for a node: of the bins that trigger together, the one with the oldest record (R340), the lowest key of those
whose oldest records have one age (log entry 149). -/
def triggerNode (li : Nat) (drain : Bool) (rank : Option Nat) (s : State) (t : Nat) : State :=
  match s.launch li with
  | none => s
  | some l =>
    match s.launchObj l with
    | none => s
    | some o =>
      match o.node t with
      | none => s
      | some nd =>
        let now := s.launcherCycle l.cluster
        let chosen := if drain then some (rank == some nd.rank) else none
        let ready := (binsOf nd (l.pending t)).filterMap (triggered nd now chosen (sealed s li l o t))
        match sortBy (fun a b => decide (((a.head?).map (·.age)).getD 0 ≤ ((b.head?).map (·.age)).getD 0)) ready with
        | recs :: _ => createGroup s li t recs
        | [] => s

/-- A bin with pending records and a timer has its timer running (R340). -/
def startTimers (li : Nat) (s : State) : State :=
  match s.launch li with
  | none => s
  | some l =>
    match s.launchObj l with
    | none => s
    | some o => o.nodeList.foldl (fun s t =>
        match o.node t with
        | some nd =>
          if nd.timer = 0 then s
          else (binsOf nd (l.pending t)).foldl (fun s b => match b with
            | r :: _ => s.postOnce (.coalescingTimerExpire li t (if nd.kind = .keyed then r.key else 0))
            | [] => s) s
        | none => s) s

/-- The further group of a PERSISTENT root (R348): on a core of the partition's own, and in no set (R108). -/
def furtherGroup (s : State) (li root : Nat) (avoid : Option (Nat × Nat)) : State :=
  let mark (g : Group) : Group := { g with overflow := true, avoid := avoid }
  ((createGroup s li root [] (some (none, 1, 0)) true).updGroup s.nextGroup mark).updGroup (s.nextGroup + 1) mark

/-- The items of a PERSISTENT node that came back, with no group of the node live: one further group takes them (R348). -/
def replacePersistent (li : Nat) (s : State) : State :=
  match s.launch li with
  | none => s
  | some l =>
    if l.returns.isEmpty || (s.launchGroups li).any (fun e => e.2.node == l.root) then s
    else furtherGroup s li l.root none

/-- The groups that drain mode saved become PENDING once it has ended (R347, R406). -/
def resumeDrained (li : Nat) (s : State) : State :=
  match s.launch li with
  | none => s
  | some l =>
    if l.draining || ((alGet s.ctxs l.ctx).map (·.state)) != some .active then s
    else
      let hs := ((s.launchGroups li).filter (fun e => e.2.state == .saved && e.2.savedBy == .drain)).map (·.1)
      if hs.isEmpty then s
      else (hs.foldl waitAgain s).postOnce (.groupPlace [])

/-- Order 6 of R344: seals and triggers, by the drain mode of the cycle, the nodes that trigger together in the order of their
indices (log entry 149); and the groups that other rules bring. -/
def launcherTriggers (s : State) (li : Nat) (drain : Bool) (rank : Option Nat) : State :=
  match (s.launch li).bind s.launchObj with
  | none => s
  | some o =>
    let nodes := o.nodeList.filter (fun t => ((o.node t).map (fun n => n.kind != .persistent)).getD false)
    replacePersistent li (nodes.foldl (triggerNode li drain rank) s)

/-- One pass of the launcher over a launch (R344, orders 4 to 6): drain mode, requests, seals and triggers. A launch
whose pass granted a run or created a group is looked at again, for the next cycle's drain mode is another. -/
def launcherPass (s : State) (li : Nat) : State :=
  match s.launch li with
  | none => s
  | some l =>
    if l.done then s
    else
      let (drain, rank) := drainMode s li
      let t := launcherTriggers (grantWaiting s li drain rank) li drain rank
      let t := resumeDrained li (startTimers li t)
      let moved := decide (((t.launch li).map (fun m => (m.created, m.fifo.length, m.draining))) ≠ some (l.created, l.fifo.length, l.draining))
      if moved then t.postOnce (.rresGrant li) else launchCheck t li

end Sys2Proof.Machine
end

