-- ==== Sys2Proof/Machine/Retire.lean ====
section
/-!
DEFINITION. Retirement of a group (spec/05_groups.md R103, spec/16_stage_graphs.md R344, R350), with the commit of a
revocable group (R213, R407) and the signature compare of a redundant pair (R486).
-/

namespace Sys2Proof.Machine

/-- No operation of the group is in flight (R103): long-latency results, engine operations, matrix entries, verdicts,
windows being filled or flushed for it, publications, REGQ grants, and packets of its QPOSTs that are not in their rings yet
(R432). -/
def quiet (s : State) (h : Nat) (g : Group) : Bool :=
  g.courses.all (fun c => c.ended && c.inflight.isEmpty && c.txends.isEmpty && (List.range 4).all (fun k => c.counter k == 0))
    && !((s.launch g.launch).map (fun l => l.pubs.any (fun p => p.grp == h))).getD false
    && !s.cores.any (fun k => k.2.matQ.any (fun e => e.grp == h)) && !s.posts.any (fun p => p.grp == h)

/-- What a group's retirement gives the launcher (R344 order 1, R350): consumed records and open runs become FREE, held
records of the given groups become PENDING with this cycle as their age. -/
def retireRecords (now : Nat) (publish drop : List Nat) (l : Launch) : Launch :=
  let l := freeRecords l (fun r => match r.grp with
    | some h => (publish.contains h && r.state != .emitted) || drop.contains h
    | none => false)
  mapRecords l (fun r => match r.grp with
      | some h => publish.contains h && r.state == .emitted
      | none => false)
    (fun r => { r with state := .pending, grp := none, age := now })

/-- The group is RETIRED and its core resources are free. -/
def finishGroup (s : State) (h : Nat) (g : Group) : State :=
  let s := dropToken s (s.groupPart g) (fun e => e.1 == h)
  let s := leaveCore s h g
  let s := releaseReserved s g
  noteSave (s.updGroup h (fun x => { x with state := .retired, held := [], halting := false })) h g

/-- The launch's account of a retirement (order 1 of R344). -/
def reportRetire (s : State) (li : Nat) (publish drop : List Nat) : State :=
  s.updLaunch li (fun l => retireRecords (s.launcherCycle l.cluster) publish drop l)

/-- Orders 4 to 6 of R344 for a launch, and a look at the groups that wait for a core. -/
def lookAgain (s : State) (li : Nat) : State := (launcherPass s li).postOnce (.groupPlace [])

/-- A retirement, with the launcher's work that follows it. -/
def afterRetire (s : State) (li : Nat) (publish drop : List Nat) : State := lookAgain (reportRetire s li publish drop) li

/-- One more signature mismatch in RAS_STAT, saturating (R483, R486). -/
def countMismatch (s : State) : State :=
  let n := s.boot.ras.extractLsb' 48 16
  let n' : BitVec 16 := if n = 0xFFFF then n else n + 1
  { s with boot := { s.boot with ras := n' ++ s.boot.ras.extractLsb' 0 48 } }

/-- The records bound to a group remember the clusters of the pair whose signatures differed (R486). -/
def markAvoid (s : State) (h : Nat) (g o : Group) : State :=
  s.updLaunch g.launch (fun l => mapRecords l (fun r => r.grp == some h)
    (fun r => { r with avoid := some (g.core.getD 0 / 192, o.core.getD 0 / 192) }))

/-- A PERSISTENT root's pair runs again as a further group of it, on a new pair of clusters (R348, R486); what its copies had
taken goes back to the dispenser with their discard. -/
def rerunPersistent (s : State) (g o : Group) : State :=
  if ((s.groupNode g).map (·.kind)) = some .persistent then
    furtherGroup s g.launch g.node (some (g.core.getD 0 / 192, o.core.getD 0 / 192))
  else s

/-- A redundant pair retires: equal signatures commit the first copy and drop the second, unequal ones discard both. -/
def retirePair (s : State) (first second : Nat) (a b : Group) : State :=
  if a.signature = b.signature then
    let s := commitHeld s first (fun _ => true)
    let s := finishGroup (finishGroup s first a) second b
    reportRetire s a.launch [first] [second]
  else
    let s := rerunPersistent (markAvoid (countMismatch s) first a b) a b
    discardGroup (discardGroup s first false) second false

/-- A held entry targets host or peer memory. -/
def Held.far (h : Held) : Bool :=
  match h.write.tgt with
  | .host => true
  | .peer _ => true
  | _ => false

/-- A revocable group retires: its held entries commit; when some target host or peer memory, its retirement is a release at
SYSTEM scope, and it stays until the link ports have acknowledged their writes (R213, R407). -/
def retireRevocable (s : State) (h : Nat) (g : Group) : State :=
  let s := commitHeld s h (fun _ => true)
  if (g.release || g.held.any Held.far) && portsBusy s then
    (s.updGroup h (fun x => { x with held := [], release := true })).postOnce (.groupRetire h)
  else reportRetire (finishGroup s h g) g.launch [h] []

/-- A group that satisfies R103 retires; none when it does not. -/
def retireNow (s : State) (h : Nat) : Option State :=
  match s.group h with
  | none => none
  | some g =>
    if g.state ≠ .resident ∨ g.halting ∨ !quiet s h g then none
    else
      let s := drainAll s h
      match s.group h with
      | none => none
      | some g =>
        if !g.alive then some s
        else
          match g.mode with
          | .ordinary => some (reportRetire (finishGroup s h g) g.launch [h] [])
          | .revocable => some (retireRevocable s h g)
          | .redundant second other =>
            match s.group other with
            | none => none
            | some o =>
              if o.state ≠ .resident ∨ o.halting ∨ !quiet s other o then none
              else
                let s := drainAll s other
                match s.group h, s.group other with
                | some g, some o =>
                  if !g.alive then some s
                  else some (if second then retirePair s other h o g else retirePair s h other g o)
                | _, _ => none

/-- Every launch of a context is over: its records, items and requests are dropped, and it completes once its groups have
ended (R327, R399, R400). -/
def endLaunch (s : State) (li : Nat) : State :=
  launchCheck (s.updLaunch li (fun l => { l with
    records := [], blocks := [], pubs := [], returns := [], fifo := [], terminated := true })) li

/-- A group whose courses have all ended retires once nothing of it is in flight; until then the step comes round
again (R103). -/
def execGroupRetire (grp : Nat) (s : State) : Out :=
  match s.group grp with
  | none => .next s
  | some g =>
    if g.state ≠ .resident ∨ g.halting ∨ !g.courses.all (·.ended) then .next s
    else
      match retireNow s grp with
      | some t => .next (lookAgain t g.launch)
      | none => .next (s.postOnce (.groupRetire grp))

end Sys2Proof.Machine
end

