-- ==== Sys2Proof/Machine/Control.lean ====
section
/-!
DEFINITION. BRA, BRX, CALL, CALLX, RET, EXIT, YIELD, SLEEP, NOP and REGQ (spec/06_courses.md, R127 to R133; R109 to
R111), the return stack (R114), and the steps RETURN_STACK_FILL_RETURN, SLEEP_EXPIRE and REGQ_GRANT.
-/

namespace Sys2Proof.Machine

/-! ### The end of a holder's transaction (R125, R306) -/

/-- A holder's transaction ends as committed: its writes are accepted at their homes and the token is released. -/
def commitHolder (s : State) (g c n : Nat) : State :=
  let s := drainCourse s g c
  match s.group g with
  | some grp =>
    (dropToken s (s.groupPart grp) (· == (g, c, n))).updLane g c n (fun l =>
      { l with tx := { l.tx with state := .idle, beginD := 0, nest := 0, aborts := 0 } })
  | none => s

/-! ### What a branch comes to in a lane (R128) -/

/-- The outcome of a branch in a lane: it is not taken, it goes to a target, or as for any instruction. A lane that
waits for a return-stack fill stays at the branch. -/
inductive Turn where
  | fall
  | go (t : Word)
  | wait (entry below : Option StackFill)
  | trap (c : Cause)
  | hold (h : Hold)
  | abort (a : AbortInfo)

/-- What a branch issue has gathered. -/
structure Turns where
  taken : Bool
  moved : Bool
  waits : List Nat
  traps : List (Nat × PendTrap)
  aborts : List (Nat × AbortInfo)

/-- Apply one lane's outcome. -/
def Turns.add (a : Turns) (x : View) (token n : Nat) (s : State) : Turn → State × Turns
  | .fall => (s.updLane x.sel.grp x.sel.course n (fun l => { l with pc := pcNext x.sel.pc }), a)
  | .go t => (s.updLane x.sel.grp x.sel.course n (fun l => { l with pc := t }),
      { a with taken := true, moved := a.moved || decide (t ≤ x.sel.pc) })
  | .wait e b =>
    ((s.updLane x.sel.grp x.sel.course n (fun l => { l with hold := .fill e b token false })).post
      (.returnStackFillReturn x.sel.grp x.sel.course n), { a with waits := a.waits ++ [n] })
  | .trap c => (s, { a with traps := a.traps ++ [(n, x.trap [] c)] })
  | .hold h => (s.updLane x.sel.grp x.sel.course n (fun l => { l with hold := h }), a)
  | .abort i => (s, { a with aborts := a.aborts ++ [(n, i)] })

/-- The lanes of the group in ascending order, each on the state the one before left. -/
def runTurns (x : View) (token : Nat) (body : State → Nat → Turn × State) : List Nat → State × Turns → State × Turns
  | [], a => a
  | n :: ns, (s, a) =>
    let (o, s) := body s n
    runTurns x token body ns (a.add x token n s o)

/-- The lanes that wait for a fill learn that their issue has counted (R119). -/
def countFills (s : State) (g c token : Nat) : State :=
  s.updCourse g c (fun x => x.mapLanes (fun _ l => match l.hold with
    | .fill e b t k => if t = token then { l with hold := .fill e b t true } else { l with hold := .fill e b t k }
    | _ => l))

/-- A branch whose feature the partition lacks (R322): the lanes whose guard is false fall through, the others trap. -/
def maskedBranch (s : State) (x : View) (k : Ctl) (feats : List Nat) : State :=
  let act := x.active k
  (raiseTraps (advance s x.sel (x.sel.mask &&& ~~~act)) x.sel
    ((laneList act).map fun n => (n, x.trap feats .featureEmulate))).deselect

/-- The whole of a branch issue (R128): every lane of the group acts. A poisoned guard is consumed and nothing else is
evaluated; a false guard falls through; a register beyond the quota is one cause among the branch's own. The lanes that
wait for a fill learn whether the issue has counted as a backward transfer (R119). -/
def finishBranch (s : State) (x : View) (k : Ctl) (feats vregs : List Nat)
    (body : State → Nat → List Cause → Turn × State) :
    State × Bool :=
  let (token, s) := s.newToken
  if (x.lacking feats).isSome then
    (maskedBranch s x k feats, false)
  else
  let lane (s : State) (n : Nat) : Turn × State :=
    if (x.crs.lane n).guardP k then (.trap .poisonConsumed, s)
    else if !(x.crs.lane n).guard k then (.fall, s)
    else body s n (if vregs.all (x.vOk n) then [] else [.regBound])
  let (s, a) := runTurns x token lane (laneList x.sel.mask) (s, ⟨false, false, [], [], []⟩)
  let u := settleLanes s x.sel a.moved a.aborts a.traps
  (if backward s x.sel a.moved a.aborts a.traps then countFills u x.sel.grp x.sel.course token else u, a.taken)

/-- A taken branch goes to a target once its causes are known: the lowest code traps (R14). -/
def goOr (s : State) (t : Option Word) (causes : List Cause) (act : State → Word → Turn × State) : Turn × State :=
  match lowestCause causes, t with
  | some c, _ => (.trap c, s)
  | none, some t => act s t
  | none, none => (.fall, s)

/-- The checks of a target that must carry its mark (R63, R67), joined to the causes found so far; a fetch of its line
word that meets a fault holds the lane. -/
def branchTo (s : State) (x : View) (t : Word) (causes : List Cause) (act : State → Word → Turn × State) : Turn × State :=
  if !pcValid t then goOr s (some t) (.targetAlign :: causes) act
  else
    match targetMark s x t with
    | (.mark b, s) => goOr s (some t) (if b then causes else .targetAlign :: causes) act
    | (.bad c, s) => goOr s (some t) (c :: causes) act
    | (.hold h, s) => (.hold h, s)

/-! ### The return stack (R114) -/

/-- An entry the core holds for a lane. -/
def Lane.entry (l : Lane) (i : Nat) : Option PWord := alGet l.entries i

/-- The .P access of entry i of a return stack (R114). -/
def stackAccess (i : Nat) : Access := ⟨3, 8 * (i - 1), 64 * (i - 1), 64, 8⟩

/-- What a fill comes to: the entry read, a lane-held fault, or a cause. -/
inductive Filled where
  | entry (e : StackFill)
  | held (h : Hold)
  | bad (c : Cause)

/-- A fill reads entry i as a weak 64-bit load of the lane (R114); it is never logged (R298). -/
def fillEntry (s : State) (x : View) (n i : Nat) : Filled × State :=
  let a := stackAccess i
  if !spaceOk s x a then (.bad .access, s)
  else
    match resolve s x.grp x.sel.core x.sel.course n a .read 0 with
    | (.bad c, s) => (.bad c, s)
    | (.held rs, s) => (.held (.fault rs), s)
    | (.ok ps, s) =>
      let (r, s) := loadPieces s x n true ps
      (.entry ⟨⟨BitVec.ofNat 64 r.1, regPoison r.2 0⟩, (ps.map (·.tgt)).eraseDups⟩, markSectors s (s.groupPart x.grp) (x.sel.grp, x.sel.course, n) ps)

/-- A spill writes entry i as a weak 64-bit store of the lane (R114); it is never logged (R298), and in an ACTIVE lane it goes on
where the page lies outside device HBM too, as a fill does (log entry 143). -/
def spillEntry (s : State) (x : View) (n i : Nat) (e : PWord) (act : State → Turn × State) : Turn × State :=
  let a := stackAccess i
  if !spaceOk s x a then (.trap .access, s)
  else
    match resolve s x.grp x.sel.core x.sel.course n a .write 0 with
    | (.bad c, s) => (.trap c, s)
    | (.held rs, s) => (.hold (.fault rs), s)
    | (.ok ps, s) =>
      let s := markSectors s (s.groupPart x.grp) (x.sel.grp, x.sel.course, n) ps
      act (pushStore s x.sel.grp x.sel.course n (ps.map (fun p => p.write e.val.toNat e.poison)))

/-- A lane pushes a return address: D rises by one, and entry D−7 leaves the core first when D is 8 or more (R114). -/
def pushReturn (s : State) (x : View) (n : Nat) (ret t : Word) : Turn × State :=
  let l := s.laneAt x n
  let d := l.depth.toNat
  let push (s : State) : State := s.updLane x.sel.grp x.sel.course n (fun l =>
    { l with depth := l.depth + 1, entries := (d + 1, ⟨ret, false⟩) :: l.entries.filter (fun e => decide (d < e.1 + 7)) })
  match if 8 ≤ d then l.entry (d - 7) else none with
  | some e => spillEntry s x n (d - 7) e (fun s => (.go t, push s))
  | none => (.go t, push s)

/-- A lane pops its return stack: D falls by one, and entry D−8 comes to the core (R114). -/
def popReturn (s : State) (g c n : Nat) (below : Option PWord) : State :=
  s.updLane g c n (fun l =>
    let d := l.depth.toNat
    let es := l.entries.filter (fun e => decide (e.1 < d))
    { l with
      depth := l.depth - 1
      entries := match below with
        | some b => es ++ [(d - 8, b)]
        | none => es })

/-- The transaction of R125 that a RET at depth d would leave: it ends as committed in a holder. -/
def retTx (s : State) (g c n d : Nat) (l : Lane) : State :=
  if l.tx.state = .irrevocable ∧ l.tx.beginD.toNat = d then commitHolder s g c n else s

/-- The causes of a return entry (R128). -/
def entryCauses (e : PWord) : List Cause :=
  (if e.poison then [.poisonConsumed] else []) ++ (if pcValid e.val then [] else [.targetAlign])

/-- A RET whose fills have been read: a fault holds the lane; else the lowest of its causes traps (R14), and without one
it waits for the fills that it has made, or returns. -/
def retGo (x : View) (s : State) (n d : Nat) (l : Lane) (causes : List Cause) (top : PWord)
    (made below : Option StackFill) : Turn × State :=
  match lowestCause causes with
  | some c => (.trap c, s)
  | none =>
    match made, below with
    | none, none => (.go top.val, popReturn (retTx s x.sel.grp x.sel.course n d l) x.sel.grp x.sel.course n none)
    | _, _ => (.wait made below, s)

/-- The fill of entry D−8, which a RET at a depth of 9 or more makes when the core does not hold it (R114). -/
def fillBelow (s : State) (x : View) (n d : Nat) (l : Lane) : Option (Filled × State) :=
  if 9 ≤ d ∧ (l.entry (d - 8)).isNone then some (fillEntry s x n (d - 8)) else none

/-- A RET of a lane whose entry D is known, top; made is that entry when a fill has just read it. A lane whose known
causes trap makes no page request for the fill below. -/
def retBelow (x : View) (s : State) (n d : Nat) (l : Lane) (top : PWord) (made : Option StackFill) : Turn × State :=
  let known := if made.isNone then entryCauses top else []
  match fillBelow s x n d l with
  | none => retGo x s n d l known top made none
  | some (.bad c, t) => retGo x t n d l (c :: entryCauses top) top made none
  | some (.held h, t) => if known.isEmpty then (.hold h, t) else retGo x s n d l known top made none
  | some (.entry b, t) => retGo x (if known.isEmpty then t else s) n d l known top made (some b)

/-- RET in a lane: the entries it reads from memory, then the return itself, which waits when an entry was read. The
order between NESTING and the RET's own causes is the model's: D = 0 first, then NESTING, then the causes of its entries
(R125, log entry 110). -/
def retLane (x : View) (s : State) (n : Nat) (causes : List Cause) : Turn × State :=
  let l := s.laneAt x n
  let d := l.depth.toNat
  if d = 0 then (.trap ((lowestCause (.stackLimit :: causes)).getD .stackLimit), s)
  else if l.tx.state = .active ∧ l.tx.beginD.toNat = d then (.abort ⟨7, 0, 0, false⟩, s)
  else
    match l.entry d with
    | some e => retBelow x s n d l e none
    | none =>
      match fillEntry s x n d with
      | (.bad c, t) => (.trap c, t)
      | (.held h, t) => (.hold h, t)
      | (.entry e, t) => retBelow x t n d l e.word (some e)

/-! ### The instructions -/

/-- The forced pick of a taken BRA.Y and of YIELD (R121). -/
def setForced (s : State) (x : View) (b : Bool) : State :=
  if b then s.updCourse x.sel.grp x.sel.course (fun c => { c with forced := true }) else s

def execBra (k : Ctl) (f : BR) (s : State) : Out :=
  s.issue fun x =>
    let r := finishBranch s x k [0] [] (fun s _ cs => branchTo s x (branchTarget x.sel.pc f) cs (fun s t => (.go t, s)))
    setForced r.1 x (f.y == 1 && r.2)

/-- The register operand of BRX and CALLX (R127). -/
def targetOpd (f : BR) : Opd := if f.xcls = 1 then .s f.xr.toNat else .v f.xr.toNat

/-- The causes of a register target and of a call at the limit (R128). -/
def targetCauses (p : PWord) : List Cause := if p.poison then [.poisonConsumed] else []

def callCauses (x : View) (n : Nat) : List Cause := if (x.crs.lane n).depth.toNat = x.grp.dlim then [.stackLimit] else []

def execBrx (k : Ctl) (f : BR) (s : State) : Out :=
  s.issue fun x =>
    (finishBranch s x k [0] (targetOpd f).vregs (fun s n cs =>
      let t := x.opd 64 n (targetOpd f)
      branchTo s x t.val (targetCauses t ++ cs) (fun s t => (.go t, s)))).1

def execCall (k : Ctl) (f : BR) (s : State) : Out :=
  s.issue fun x =>
    (finishBranch s x k [0] [] (fun s n cs =>
      branchTo s x (branchTarget x.sel.pc f) (callCauses x n ++ cs) (fun s t => pushReturn s x n (pcNext x.sel.pc) t))).1

def execCallx (k : Ctl) (f : BR) (s : State) : Out :=
  s.issue fun x =>
    (finishBranch s x k [0] (targetOpd f).vregs (fun s n cs =>
      let t := x.opd 64 n (targetOpd f)
      branchTo s x t.val (targetCauses t ++ callCauses x n ++ cs) (fun s t => pushReturn s x n (pcNext x.sel.pc) t))).1

def execRet (k : Ctl) (_f : BR) (s : State) : Out :=
  s.issue fun x => (finishBranch s x k [0] [] (retLane x)).1

/-- EXIT in a lane (R125, R130). -/
def exitLane (x : View) (s : State) (n : Nat) : LaneOut × State :=
  match (s.laneAt x n).tx.state with
  | .active => (.abort ⟨7, 0, 0, false⟩, s)
  | .irrevocable => (.done [], endLane (commitHolder s x.sel.grp x.sel.course n) x.sel.grp x.sel.course n)
  | _ => (.done [], endLane s x.sel.grp x.sel.course n)

/-- An instruction that is illegal in handler mode (R369). -/
def noHandler (x : View) (feats vregs : List Nat) : Shape :=
  ⟨feats, vregs, fun n => if (x.crs.lane n).inHandler then [.illegalForm] else [], false, []⟩

def execExit (k : Ctl) (_f : SYS) (s : State) : Out :=
  s.issue fun x => finishLanes s x k false (noHandler x [0] []) (exitLane x)

def execYield (k : Ctl) (_f : SYS) (s : State) : Out :=
  s.issue fun x => finishEffect s x k (Shape.plain [0] []) fun ok s => setForced s x (ok != 0)

/-- The operand of the register form of SLEEP (R132). -/
def sleepOpd (f : SYS) : Opd := opdOf f.acls f.a

/-- The cycles of a SLEEP in a lane (R132). -/
def sleepCount (x : View) (f : SYS) (n : Nat) : Nat :=
  if f.code.getLsbD 15 then min (x.opd 64 n (sleepOpd f)).val.toNat 1048575 else f.code.toNat

/-- A lane sleeps until its core's count has gone n further (R132). -/
def sleepLane (f : SYS) (x : View) (s : State) (n : Nat) : State :=
  if sleepCount x f n = 0 then s
  else
    (s.updLane x.sel.grp x.sel.course n (fun l => { l with hold := .sleep (s.cycle x.sel.core + sleepCount x f n) })).post
      (.sleepExpire x.sel.grp x.sel.course n)

def execSleep (k : Ctl) (f : SYS) (s : State) : Out :=
  s.issue fun x =>
    finishEffect s x k (Shape.plain [0] (if f.code.getLsbD 15 then (sleepOpd f).vregs else []))
      fun ok s => (laneList ok).foldl (sleepLane f x) s

def execNop (k : Ctl) (_f : SYS) (s : State) : Out :=
  s.issue fun x => finishEffect s x k (Shape.plain [0] []) fun _ s => s

/-! ### REGQ (R109 to R111) -/

/-- The largest quota that the issuing course could ever be granted (R109). -/
def quotaMax (x : View) : Nat :=
  let others := ((x.grp.courses.zipIdx).filter (fun e => e.1.role == x.crs.role && !e.1.ended && e.2 != x.sel.course)).length
  x.grp.rolePools.getD x.crs.role 0 - 8 * others

def regqShape (x : View) (q : Nat) : Shape :=
  ⟨[0], [], fun n => (if (x.crs.lane n).inHandler then [.illegalForm] else []) ++ (if quotaMax x < q then [.regBound] else []),
    false, []⟩

/-- The flags a REGQ waits for, and the earlier request of its course (R109, R110). -/
def regqWaits (x : View) (k : Ctl) : Bool :=
  x.active k != 0 && (!x.crs.flagsClear 0xFFF || regqPending x.grp x.sel.course)

/-- The request of an issue group joins its role's FIFO and its lanes wait (R109). -/
def enqueueRegq (s : State) (x : View) (q : Nat) : State :=
  let s := s.updGroup x.sel.grp (fun g => { g with regq := g.regq.modify x.crs.role (· ++ [⟨x.sel.course, q, x.sel.mask⟩]) })
  let s := s.updCourse x.sel.grp x.sel.course (fun c => c.mapLanes (fun n l =>
    if inMask x.sel.mask n then { l with hold := .regq } else l))
  (s.post (.regqGrant x.sel.grp x.crs.role)).deselect

def execRegq (k : Ctl) (f : SYS) (s : State) : Out :=
  s.issue fun x =>
    let q := f.code.toNat
    let act := x.active k
    if regqWaits x k then s.deselect
    else if x.clear (regqShape x q) act ≠ 0 ∧ x.crs.quota < q then enqueueRegq s x q
    else
      finishEffect s x k (regqShape x q) fun ok s =>
        if ok = 0 then s
        else (s.updCourse x.sel.grp x.sel.course (fun c => { c with quota := q })).post (.regqGrant x.sel.grp x.crs.role)

/-- A granted course: its new columns read zero, its quota rises, and the waiting lanes go on (R109), frozen ones when the
course leaves HANDLER (R124). -/
def grantCourse (r : RegqReq) (c : Course) : Course :=
  { c.mapLanes (fun n l =>
      let l := (List.range (r.quota - c.quota)).foldl (fun l i => l.setV (c.quota + i) ⟨0, false⟩) l
      if inMask r.mask n ∧ l.hold = .regq ∧ c.trap ≠ .handler then { l with hold := .none, pc := pcNext l.pc } else l) with
    quota := r.quota }

/-- The head of a role's FIFO is granted while the pool holds its columns, then its followers (R110, R111). -/
def grantRole (s : State) (g role : Nat) : List RegqReq → State
  | [] => s
  | r :: rest =>
    match s.group g with
    | some grp =>
      if r.quota ≤ (grp.course r.course).quota + roleFree grp role then
        grantRole ((s.updGroup g (fun x => { x with regq := x.regq.set role rest })).updCourse g r.course (grantCourse r))
          g role rest
      else s
    | none => s

def execRegqGrant (grp role : Nat) (s : State) : Out :=
  match s.group grp with
  | some g => .next (grantRole s grp role (g.regq.getD role []))
  | none => .next s

/-! ### Fills that return, sleeps that end -/

/-- The fill of a lane has returned (R114): the entry read is checked now, and the RET takes effect; its issue counts
once as a backward transfer (R119). -/
def fillReturned (s : State) (g c n : Nat) (l : Lane) (e below : Option StackFill) (token : Nat) (counted : Bool) : State :=
  let d := l.depth.toNat
  let s := s.updLane g c n (fun l => { l with hold := .none })
  let top := (e.map (·.word)).orElse (fun _ => l.entry d)
  match top with
  | none => s
  | some t =>
    match lowestCause (entryCauses t) with
    | some cause =>
      let r := takeTrap s g c n ⟨cause, 0, l.pc, none⟩
      if r.2 && !counted then countFills (r.1.updCourse g c bumpBc) g c token else r.1
    | none =>
      let s := popReturn (retTx s g c n d l) g c n (below.map (·.word))
      let s := s.updLane g c n (fun l => { l with pc := t.val })
      if t.val ≤ l.pc ∧ !counted then countFills (s.updCourse g c bumpBc) g c token else s

/-- A fill still waits for a port in TRAINING (R462, R466). -/
def fillTrains (s : State) (e below : Option StackFill) : Bool :=
  (e.toList ++ below.toList).any (fun f => f.via.any (linkTrains s))

/-- The fill of a lane comes back; one whose link trains, or whose lane is frozen (R124), comes round again. -/
def execReturnStackFillReturn (grp course lane : Nat) (s : State) : Out :=
  match s.group grp with
  | some g =>
    let l := (g.course course).lane lane
    match l.hold with
    | .fill e b t k =>
      .next (if fillTrains s e b || (g.course course).frozen lane then s.post (.returnStackFillReturn grp course lane) else fillReturned s grp course lane l e b t k)
    | _ => .next s
  | none => .next s

/-- The core's count has reached the end of a sleep. -/
def Hold.slept (h : Hold) (cycle : Nat) : Bool :=
  match h with
  | .sleep t => decide (t ≤ cycle)
  | _ => false

/-- A sleeping lane is eligible again once its core has counted the cycles, and with it every lane of its course whose
count has expired; until then the step comes round again. -/
def execSleepExpire (grp course lane : Nat) (s : State) : Out :=
  match s.group grp with
  | some g =>
    match ((g.course course).lane lane).hold with
    | .sleep t =>
      let now := s.cycle (g.core.getD 0)
      if t ≤ now then
        .next (s.updCourse grp course (fun c => c.mapLanes (fun _ l => if l.hold.slept now then { l with hold := .none } else l)))
      else .next (s.post (.sleepExpire grp course lane))
    | _ => .next s
  | none => .next s

end Sys2Proof.Machine
end

