-- ==== Sys2Proof/Machine/System.lean ====
section
/-!
DEFINITION. QPOST (spec/24_queues.md, R431, R432) and CKPT (spec/23_contexts.md, R410, R411), and the groups that a halt
takes together (R106, R107, R485).
-/

namespace Sys2Proof.Machine

/-! ### QPOST -/

/-- The causes of a QPOST in a lane (R432). -/
def qpostCauses (s : State) (x : View) (q off : Nat) : List Cause :=
  let ok := match s.queueOf q with
    | some (_, u) => u.ctx == s.groupCtx x.grp && u.devq
    | none => false
  (if off % 64 = 0 then [] else [.misaligned])
    ++ (if decide (off + 63 < 1024 * x.grp.scratchKiB) && ok then [] else [.access])
    ++ (if x.grp.mode = .ordinary then [] else [.revocableViolation])

/-- A packet is posted: its place in the ring is found through the queue's context, and its bytes are taken (R414, R432). It
enters the ring after a release at SYSTEM scope, for which the lane does not wait. -/
def postPacket (s : State) (x : View) (q : Nat) (u : Queue) (p : PWord) : LaneOut × State :=
  let s := drainCourse s x.sel.grp x.sel.course
  let scr := (s.core x.sel.core).scratch
  let base := x.grp.allocBase + p.val.toNat
  let bad := p.poison || scr.anyPoison base 64
  match translateRange s (laneReq s x.grp .write 0) (u.ringVa + 64 * ((u.widx.toNat + s.postedTo q) % max 1 u.size)) 64 with
  | (.fault rs, s) => (.hold (.fault rs), s)
  | (.fatal c, s) => (.trap c, s)
  | (.ok places, s) =>
    let ws := places.flatMap (fun e => secWrites e.1 (8 * e.2) 512 (scr.read base 64) bad)
    (.done [], { s with posts := s.posts ++ [⟨x.sel.grp, q, ws, bad⟩] })

/-- QPOST in a lane. -/
def qpostLane (x : View) (k : Ctl) (f : SYS) (s : State) (n : Nat) : LaneOut × State :=
  let q := f.code.toNat
  let a := x.opd 64 n (.v f.a.toNat)
  if laneActive s x n then (.abort ⟨5, 0, 0, false⟩, s)
  else
    match lowestCause (qpostCauses s x q a.val.toNat), s.queueOf q with
    | some c, _ => (.trap c, s)
    | none, some (h, u) =>
      if u.room (s.postedTo h) then postPacket s x h u ⟨a.val, a.poison || (x.crs.lane n).guardP k⟩ else (.hold (.qpost h), s)
    | none, none => (.trap .access, s)

def execQpost (k : Ctl) (f : SYS) (s : State) : Out :=
  s.issue fun x => flushPosts (finishLanes s x k false (Shape.plain [14] [f.a.toNat]) (qpostLane x k f))

/-! ### CKPT -/

/-- The groups halted, saved and restored together with a group: its co-resident launch, its cluster set or its other
copy (R106, R107, R485). -/
def haltUnit (s : State) (h : Nat) : List Nat :=
  match s.group h with
  | none => []
  | some g =>
    let all := s.launchGroups g.launch
    if g.extra then (match g.mode with
      | .redundant _ other => [h, other]
      | _ => [h])
    else if coResident s g then (all.filter (fun e => coResident s e.2)).map (·.1)
    else if g.setId.isSome then (all.filter (fun e => e.2.setId == g.setId)).map (·.1)
    else match g.mode with
      | .redundant _ other => [h, other]
      | _ => [h]

/-- Name groups for a halt (R401), with what makes them PENDING again. -/
def requestHalt (s : State) (hs : List Nat) (why : SavedBy) : State :=
  (hs.foldl (fun s h => s.updGroup h (fun g => { g with savedBy := why })) s).postFirst (.haltArrival hs)

/-- CKPT in a lane: an ACTIVE transaction aborts (R298). -/
def ckptLane (x : View) (k : Ctl) (f : SYS) (d : Word) (s : State) (n : Nat) : LaneOut × State :=
  if laneActive s x n then (.abort ⟨5, 0, 0, false⟩, s)
  else if f.dcls = 0 then (.done [x.putV n f.d.toNat ⟨d, (x.crs.lane n).guardP k⟩], s)
  else (.done [], s)

def execCkpt (k : Ctl) (f : SYS) (s : State) : Out :=
  s.issue fun x =>
    let sh := Shape.plain [15] (dstOf f.dcls f.d).vregs
    let lead := (laneList (x.clear sh (x.active k))).find? (fun n => !laneActive s x n)
    let ckreq := ((alGet s.ctxs (s.groupCtx x.grp)).map (·.ckreq)).getD false
    let yes := ckreq && x.grp.mode == .ordinary && x.crs.trap != .handler
    let d : Word := if yes then 1 else 0
    let s := finishLanes s x k false sh (ckptLane x k f d)
    match lead with
    | none => s
    | some n =>
      let s := if f.dcls = 0 then s
        else s.updCourse x.sel.grp x.sel.course (fun c => c.setS f.d.toNat ⟨d, (x.crs.lane n).guardP k⟩)
      if yes then
        requestHalt (s.updGroup x.sel.grp (fun g => { g with tag := f.code })) (haltUnit s x.sel.grp) .command
      else s

end Sys2Proof.Machine
end

