-- ==== Sys2Proof/Machine/Tx.lean ====
section
/-!
DEFINITION. TXBEGIN, TXEND, TXABORT and TXSTAT (spec/14_transactions.md, R310 to R314), the irrevocable token's grant
(R307), and the step TX_VERDICT: validation and commit (R304, R305).
-/

namespace Sys2Proof.Machine

/-! ### TXBEGIN (R307, R311) -/

/-- The token is free, and the queue is empty or the lane holds its head entry (R307). -/
def grantable (p : Part) (who : Nat × Nat × Nat) : Bool := p.token.isNone && (p.tokenQ.isEmpty || p.tokenQ.head? == some who)

/-- A transaction begins in an IDLE lane: as holder when it may take the token, otherwise ACTIVE, joining the token's
queue when it has aborted often enough (R307, R311). -/
def beginTx (s : State) (x : View) (n : Nat) (t : Word) : State :=
  let l := s.laneAt x n
  let who := (x.sel.grp, x.sel.course, n)
  let pid := s.groupPart x.grp
  let start (st : TxState) (s : State) : State := setTx s x n
    { l.tx with state := st, beginD := l.depth, nest := 0, target := t, rlog := [], wlog := [] }
  if 4 ≤ l.tx.aborts ∧ grantable (s.part pid) who then
    start .irrevocable (s.updPart pid (fun p => { p with token := some who, tokenQ := p.tokenQ.filter (· != who) }))
  else if 4 ≤ l.tx.aborts ∧ !(s.part pid).tokenQ.contains who then
    start .active (s.updPart pid (fun p => { p with tokenQ := p.tokenQ ++ [who] }))
  else start .active s

/-- TXBEGIN in a lane whose guard is true (R309, R311). That a lane whose guard is false falls through in handler mode too is
the model's choice (log entry 144). -/
def txbeginLane (x : View) (f : BR) (s : State) (n : Nat) (causes : List Cause) : Turn × State :=
  let l := s.laneAt x n
  if l.inHandler then (.trap .illegalForm, s)
  else if x.grp.mode ≠ .ordinary then (.trap .revocableViolation, s)
  else
    branchTo s x (branchTarget x.sel.pc f) causes fun s t =>
      match l.tx.state with
      | .active => (.abort ⟨7, 0, 0, false⟩, s)
      | .irrevocable =>
        if l.tx.nest = 255 then (.trap .stackLimit, s)
        else (.fall, setTx s x n { l.tx with nest := l.tx.nest + 1 })
      | _ => (.fall, beginTx s x n t)

def execTxbegin (k : Ctl) (f : BR) (s : State) : Out :=
  s.issue fun x => (finishBranch s x k [12] [] (txbeginLane x f)).1

/-! ### TXEND (R304, R312) -/

/-- A holder's TXEND: it steps out of one nesting level or commits, an .AR access at DEVICE scope either way (R213,
R312). -/
def holderEnd (s : State) (core g c n : Nat) : State :=
  let l := (((s.group g).map (·.course c)).getD Course.reset).lane n
  let s := if l.tx.nest = 0 then commitHolder s g c n
    else (drainCourse s g c).updLane g c n (fun l => { l with tx := { l.tx with nest := l.tx.nest - 1 } })
  clearL1 s core

/-- TXEND in a lane of an issue without ACTIVE lanes: a holder's takes effect, an IDLE lane's is nothing (R312). -/
def txendLane (x : View) (s : State) (n : Nat) : LaneOut × State :=
  match (s.laneAt x n).tx.state with
  | .irrevocable => (.done [], holderEnd s x.sel.core x.sel.grp x.sel.course n)
  | _ => (.done [], s)

/-- What a P destination is in a lane that advances at the issue: its value is known, and a later instruction always reads it
(R74, R312; log entry 121). -/
def txendPred (x : View) (k : Ctl) (f : ASY) (n : Nat) (b : Bool) : List RegWrite :=
  if f.mod.getLsbD 0 ∧ f.dcls = 2 then [.p n f.d.toNat b ((x.crs.lane n).guardP k)] else []

/-- TXEND in a lane of an issue with ACTIVE lanes: those are VALIDATING, a holder that would commit waits for its turn among
them (R305), and an IDLE lane or a holder inside a nested transaction advances (R115, R312). -/
def txendWait (k : Ctl) (f : ASY) (x : View) (s : State) (n : Nat) : LaneOut × State :=
  let l := s.laneAt x n
  match l.tx.state with
  | .active => (.hold .txend, setTx s x n { l.tx with state := .validating })
  | .irrevocable =>
    if l.tx.nest = 0 then (.hold .txend, s)
    else (.done (txendPred x k f n true), holderEnd s x.sel.core x.sel.grp x.sel.course n)
  | _ => (.done (txendPred x k f n false), s)

/-- The destination of a TXEND once every lane has its verdict (R312). -/
def txendWrites (e : TxEnd) : List RegWrite :=
  match e.dst with
  | some (cls, d) =>
    if cls = 2 then (laneList e.active).map fun n => .p n d.toNat (inMask e.done n) (inMask e.guardP n)
    else if e.active = 0 then []
    else [.s d.toNat ⟨e.done.setWidth 64, e.guardP != 0⟩]
  | none => []

/-- The lanes of a mask whose transaction state p accepts. -/
def txLanes (x : View) (m : LaneMask) (p : TxState → Bool) : LaneMask := maskOf fun n => inMask m n && p (x.crs.lane n).tx.state

/-- The lanes that wait for the verdict of an issue with ACTIVE lanes. -/
def txWaiting (x : View) (act : LaneMask) : LaneMask :=
  maskOf fun n => inMask act n && ((x.crs.lane n).tx.state == .active
    || ((x.crs.lane n).tx.state == .irrevocable && (x.crs.lane n).tx.nest == 0))

/-- The S destination of a TXEND: what is in flight for it lands first (R136). -/
def Course.landDst (c : Course) : Option (BitVec 2 × BitVec 8) → Course
  | some (cls, d) => if cls = 1 then c.landS d.toNat else c
  | none => c

def execTxend (k : Ctl) (f : ASY) (s : State) : Out :=
  s.issue fun x =>
    let sh := Shape.plain [12] []
    let act := x.clear sh (x.active k)
    let lanes := txLanes x act (· == .active)
    let e : TxEnd :=
      { lanes := lanes, active := if lanes = 0 then act else txWaiting x act,
        done := txLanes x (if lanes = 0 then act else act &&& ~~~txWaiting x act) (· == .irrevocable),
        dst := if f.mod.getLsbD 0 then some (f.dcls, f.d) else none,
        guardP := maskOf fun n => inMask act n && (x.crs.lane n).guardP k }
    if lanes = 0 then
      applyRegs (finishLanes s x k false sh (txendLane x)) x.sel.core x.sel.grp x.sel.course (txendWrites e)
    else ((finishLanes s x k false sh (txendWait k f x)).updCourse x.sel.grp x.sel.course (fun c =>
        let c := c.landDst e.dst
        { c with txends := c.txends ++ [e] })).post
      (.txVerdict x.sel.grp x.sel.course)

/-! ### The verdict (R304, R305) -/

/-- The sectors a lane has logged. -/
def Tx.sectors (t : Tx) : List Nat := t.rlog.map (·.sector) ++ t.wlog.map (·.sector)

/-- A validation of another issue, of a live lane, holds one of the sectors (R305). -/
def contended (s : State) (g c : Nat) (mask : LaneMask) (ks : List Nat) : Bool :=
  s.groups.any fun e => e.2.alive && (List.range e.2.courses.length).any fun i => (List.range 32).any fun n =>
    let t := ((e.2.course i).lane n).tx
    ((e.2.course i).lane n).live && t.state == .validating && !(e.1 == g && i == c && inMask mask n) && t.sectors.any ks.contains

/-- The abort code of a lane's validation, or none when it may commit (R304). Where the spec allows a CONFLICT with no
value changed, the free value decides. -/
def verdictOf (s : State) (g c n : Nat) (mask : LaneMask) (part : Nat) (t : Tx) : Option Nat × State :=
  let s := t.rlog.foldl (fun s r => s.l2Access r.sector .read) s
  if meetsMark s part (g, c, n) t.sectors then (some 9, s)
  else if t.rlog.any (fun r => s.hbm.sector r.sector != r.data) then (some 1, s)
  else if contended s g c mask t.sectors then
    let (bit, s) := s.takeFree
    (if bit % 2 = 1 then some 1 else none, s)
  else (none, s)

/-- A lane commits (R304): its write set becomes visible as one event, and its queue entry goes. -/
def commitTx (s : State) (core g c n part : Nat) (t : Tx) : State :=
  let s := t.wlog.foldl (fun s w => homeWrite s core w) s
  (s.updPart part (fun p => { p with tokenQ := p.tokenQ.filter (· != (g, c, n)) })).updLane g c n (fun l =>
    { l with
      pc := pcNext l.pc, hold := .none
      tx := { l.tx with state := .idle, beginD := 0, rlog := [], wlog := [], aborts := 0 } })

/-- A lane that TXEND has not validated goes on. -/
def txGoesOn (s : State) (g c n : Nat) : State := s.updLane g c n (fun l => { l with pc := pcNext l.pc, hold := .none })

/-- The lanes of one TXEND in ascending order (R305): those that commit or are holders, and the aborts of the others. -/
def verdicts (core g c part : Nat) (mask : LaneMask) : List Nat → State × LaneMask × List (Nat × AbortInfo) →
    State × LaneMask × List (Nat × AbortInfo)
  | [], a => a
  | n :: ns, (s, ok, as) =>
    let l := (((s.group g).map (·.course c)).getD Course.reset).lane n
    if l.live && l.tx.state == .validating then
      match verdictOf s g c n mask part l.tx with
      | (some code, s) => verdicts core g c part mask ns (s, ok, as ++ [(n, ⟨code, 0, 0, false⟩)])
      | (none, s) => verdicts core g c part mask ns (commitTx s core g c n part l.tx, ok ||| (1#32 <<< n), as)
    else if l.live && l.hold == .txend then
      if l.tx.state == .irrevocable then
        verdicts core g c part mask ns (txGoesOn (holderEnd s core g c n) g c n, ok ||| (1#32 <<< n), as)
      else verdicts core g c part mask ns (txGoesOn s g c n, ok, as)
    else verdicts core g c part mask ns (s, ok, as)

/-- The destination of a TXEND is written with its verdict; what later issues write lands after it (R136). -/
def verdictWrites (s : State) (core g c : Nat) (e : TxEnd) : State :=
  match s.group g with
  | none => s
  | some grp => (applyRegs s core g c (txendWrites e)).updCourse g c (fun x => { x with
      inflight := (grp.course c).inflight, txends := (grp.course c).txends })

/-- The oldest TXEND of a course gets its verdict, once the course's earlier stores are at their homes. A course in HANDLER is
frozen, and the verdict waits for its end, unless a halt waits for the verdict (R124, R309; log entry 129). -/
def execTxVerdict (grp course : Nat) (s : State) : Out :=
  match s.group grp with
  | none => .next s
  | some g =>
    match (g.course course).txends with
    | [] => .next s
    | e :: rest =>
      if (g.course course).trap = .handler ∧ !g.halting then .next (s.post (.txVerdict grp course)) else
      let core := g.core.getD 0
      let s := drainCourse (s.updCourse grp course (fun c => { c with txends := rest })) grp course
      let (s, ok, as) := verdicts core grp course (s.groupPart g) e.lanes (laneList e.active) (s, 0, [])
      let s := if (ok ||| e.done) = 0 then s else clearL1 s core
      let s := verdictWrites s core grp course { e with done := e.done ||| ok }
      let out := as.foldl (fun (acc : State × Bool) a =>
        let r := abortLane acc.1 grp course a.1 a.2.code 0 0 false
        (r.1, acc.2 || r.2)) (s, false)
      .next (bumpIf out.1 grp course out.2)

/-! ### TXABORT and TXSTAT (R313, R314) -/

def execTxabort (k : Ctl) (f : ASY) (s : State) : Out :=
  s.issue fun x =>
    let a := opdOf f.acls f.a
    finishLanes s x k false (Shape.plain [12] a.vregs) fun s n =>
      if laneActive s x n then (.abort ⟨4, (x.opd 64 n a).val.toNat % 256, 0, false⟩, s) else (.done [], s)

def execTxstat (k : Ctl) (f : ASY) (s : State) : Out :=
  s.issue fun x =>
    let d := dstOf f.dcls f.d
    finishCompute s x k false (Shape.plain [12] d.vregs) fun ok =>
      x.result k ok d (fun n => ⟨(x.crs.lane n).tx.record, false⟩)

end Sys2Proof.Machine
end

