-- ==== Sys2Proof/Machine/Halt.lean ====
section
/-!
DEFINITION. Halting and saving groups (spec/23_contexts.md, R401 to R404; R134, R205, R248, R272, R286, R309, R372):
HALT_ARRIVAL, SAVE_COMPLETE with the save record, and the SAVE_FAULT of a context.
-/

namespace Sys2Proof.Machine

/-! ### The state of a context -/

/-- STATE as CTX_STATUS shows it (R399). -/
def CtxState.code : CtxState → BitVec 8
  | .created => 0 | .active => 1 | .saving => 2 | .saved => 3 | .restoring => 4 | .faulted => 5 | .destroyed => 6

/-- A context changes state. -/
def setCtxState (s : State) (i : Nat) (st : CtxState) : State := s.updCtx i (fun c => { c with state := st })

/-- The command in progress of a context's function ends with a status, if it names this context (R399). -/
def endCtxCommand (s : State) (i : Nat) (status : BitVec 8) : State :=
  match alGet s.ctxs i with
  | none => s
  | some c => s.updFn c.fn (fun f =>
      if f.ctxStat.busy ∧ f.ctxStat.id.toNat = c.ctxid
      then { f with ctxStat := { f.ctxStat with busy := false, status := status } } else f)

/-- The live groups of a context, with their handles. -/
def State.ctxGroups (s : State) (i : Nat) : List (Nat × Group) := s.groups.filter (fun e => e.2.alive && s.groupCtx e.2 == i)

/-- A SAVE is complete once every group of its context is SAVED (R399, R400). -/
def saveCheck (s : State) (i : Nat) : State :=
  match alGet s.ctxs i with
  | some c =>
    if c.state = .saving ∧ (s.ctxGroups i).all (fun e => e.2.state == .saved)
    then endCtxCommand (setCtxState s i .saved) i 0 else s
  | none => s

/-! ### SAVE_FAULT (R402, R404) -/

/-- Terminate one group of a faulted context with its error record (R371). -/
def faultGroup (s : State) (kind : Nat) (h : Nat) : State :=
  match s.group h with
  | none => s
  | some g =>
    if !g.alive then s
    else
      let e : ErrInfo := ⟨0, g.ident, g.core, g.node, 0xFF, 0xFF, kind, 0, 0⟩
      let ctx := s.groupCtx g
      writeErr (terminateOne s h) ctx e.bits

/-- A save area that fails ends its group with KIND 6, every other group of the context with KIND 7, and the context is
FAULTED with SAVE_FAULT for the command in progress or the next one. -/
def faultContext (s : State) (i h : Nat) : State :=
  let others := ((s.ctxGroups i).map (·.1)).filter (· != h)
  let s := setCtxState s i .faulted
  let s := others.foldl (fun s o => faultGroup s 7 o) (faultGroup s 6 h)
  let s := ((s.launches.filter (fun l => l.2.ctx == i && !l.2.done)).map (·.1)).foldl endLaunch s
  match alGet s.ctxs i with
  | none => s
  | some c =>
    let f := s.fn c.fn
    if f.ctxStat.busy ∧ f.ctxStat.id.toNat = c.ctxid then endCtxCommand s i 4
    else s.updCtx i (fun c => { c with saveFault := true })

/-! ### The record (R403, R404) -/

/-- The bytes of a matrix descriptor (R286). -/
def descriptorSize (e : MatEntry) : Nat :=
  match e.op with
  | .mma => 64 + 2048 + 256 * ((e.mRegs.map (·.length)).foldl max 0) + 8 * e.scales.length
  | .mmaz => 64 + 2048 + 256 * ((e.mRegs.map (·.length)).foldl max 0) + 8 * e.scales.length
  | .zrscale => 64 + 256
  | _ => 64

/-- SIZE of a group's record (R404). -/
def recordSize (g : Group) : Nat :=
  let n := g.courses.length
  let q := ((g.courses.filter (fun c => !c.ended)).map (·.quota)).sum
  256 + 640 * n + 128 * 32 * n + 256 * q + 4 * q + 1024 * g.scratchKiB + 4 * g.scratchKiB + 16384 * g.tiles.length
    + 96 * g.windows.length + 32 * g.barriers.length + (g.savedMat.map descriptorSize).sum
    + (if g.courses.any (fun c => c.trap == .handler) then 8192 else 0)

/-- The places of n bytes of the save area from an IPA: device HBM with R and W at stage 2, or none (R397). -/
def savePlaces (s : State) (p : Part) (ipa n : Nat) : Option (List (Nat × Nat)) :=
  (pagePieces ipa n).foldr (fun e acc =>
    match acc, translate2 s p e.1 with
    | some l, .leaf en lv => if pteTgt en = 0 ∧ pteR en ∧ pteW en then some ((leafAddr en lv e.1, e.2) :: l) else none
    | _, _ => none) (some [])

/-- The walks of those pages pass through their home slices (R454). -/
def saveWalks (s : State) (p : Part) (ipa n : Nat) : State :=
  ((pagePieces ipa n).flatMap (fun e => walkReads2 s p e.1 [0, 1, 2, 3, 4] p.s2root)).foldl
    (fun s ea => s.l2Access (ea / 32) .read) s

/-- Write n bytes of the save area. -/
def saveWrite (s : State) (p : Part) (ipa n v : Nat) : Option State :=
  (savePlaces s p ipa n).map fun ps =>
    (ps.foldl (fun (acc : State × Nat) e => (acc.1.store .hbm e.1 e.2 (acc.2 % 256 ^ e.2), acc.2 / 256 ^ e.2))
      (saveWalks s p ipa n, v)).1

/-- Read n bytes of the save area, each sector at its home slice. -/
def saveRead (s : State) (p : Part) (ipa n : Nat) : Option Nat × State :=
  let t := saveWalks s p ipa n
  match savePlaces s p ipa n with
  | some ps => (some (ps.foldr (fun e acc => s.load .hbm e.1 e.2 + 256 ^ e.2 * acc) 0),
      ps.foldl (fun s e => s.readAt .hbm e.1 e.2) t)
  | none => (none, t)

/-- DIGEST of a record: SM3 over it with DIGEST taken as zero (R404). -/
def recordDigest (size v : Nat) : Nat :=
  (Config.sm3 (bytesOf size (v - v / 2 ^ 128 % 2 ^ 256 * 2 ^ 128))).toNat

/-- The courses whose columns a record holds, with the columns before each: those with a quota still (R404). -/
def recordCourses (g : Group) : List (Nat × Nat × Nat) :=
  ((g.courses.zipIdx).foldl (fun (acc : List (Nat × Nat × Nat) × Nat) e =>
    if e.1.ended then acc else (acc.1 ++ [(e.2, e.1.quota, acc.2)], acc.2 + e.1.quota)) ([], 0)).1

/-- Where the sections of a record begin: V registers, V poison, scratchpad, valid bits, Z tiles, and what follows them. -/
structure RecordMap where
  v : Nat
  vPoison : Nat
  scratch : Nat
  valid : Nat
  tiles : Nat
  rest : Nat

def recordMap (g : Group) : RecordMap :=
  let n := g.courses.length
  let q := ((g.courses.filter (fun c => !c.ended)).map (·.quota)).sum
  let v := 256 + 640 * n + 128 * 32 * n
  let sc := v + 260 * q
  ⟨v, v + 256 * q, sc, sc + 1024 * g.scratchKiB, sc + 1028 * g.scratchKiB, sc + 1028 * g.scratchKiB + 16384 * g.tiles.length⟩

/-- A course block's named fields, in the order of R404, from S0 on; the device fills the rest. -/
def courseBlock (c : Course) : Nat :=
  packFields (c.s.toList.map (fun x => (x.toNat, 8)) ++ [(c.sP.toNat, 8)] ++ c.flags.toList.map (fun x => (x.toNat, 1))
    ++ c.engines.toList.map (fun l => (l.length, 1)) ++ [(c.bc.toNat, 1), (if c.forced then 1 else 0, 1), (c.bypLim.toNat, 1), (c.quota, 2)])

/-- A lane block's named fields, in the order of R404, from PC on; the device fills the rest. -/
def laneBlock (l : Lane) : Nat :=
  packFields [(l.pc.toNat, 8), (l.depth.toNat, 2), (l.pass.toNat, 2), (l.seed.toNat, 4), (l.p.toNat, 2), (l.pP.toNat, 2)]

/-- One column of a course: 32 lanes of 8 bytes, and its poison, a bit per lane. -/
def columnValue (c : Course) (r : Nat) : Nat :=
  packFields ((List.range 32).map (fun n => (if h : r < 256 then ((c.lane n).v[r]).toNat else 0, 8)))
def columnPoison (c : Course) (r : Nat) : Nat :=
  ((List.range 32).map (fun n => if (c.lane n).vP.getLsbD r then 2 ^ n else 0)).sum

/-- A tile: 64 rows of 64 elements of 4 bytes (R275). -/
def tileValue (t : Tile) : Nat := packFields (t.z.toList.map (fun x => (x.toNat, 4)))

/-- The columns of the courses, in order. -/
def recordColumns (g : Group) (f : Course → Nat → Nat) (n : Nat) : List (Nat × Nat) :=
  (recordCourses g).flatMap fun e => (List.range e.2.1).map fun r => (f (g.course e.1) r, n)

/-- A group's record (R404) without its DIGEST: the sections in order. What only the device interprets, in the header,
behind the named fields of a block and from the windows on, are bits of one free value (log entry 21). -/
def recordValue (g : Group) (x : Nat) : Nat :=
  let m := recordMap g
  let block (o n used v : Nat) : Nat × Nat := (v + 256 ^ used * (x / 256 ^ (o + used) % 256 ^ (n - used)), n)
  let nc := g.courses.length
  packFields
    ([block 0 256 48 (packFields [(recordSize g, 8), (g.ident.toNat, 8)])]
      ++ (g.courses.zipIdx).map (fun e => block (256 + 640 * e.2) 640 541 (courseBlock e.1))
      ++ (g.courses.zipIdx).flatMap (fun e => (List.range 32).map (fun n =>
        block (256 + 640 * nc + 128 * (32 * e.2 + n)) 128 20 (laneBlock (e.1.lane n))))
      ++ recordColumns g columnValue 256 ++ recordColumns g columnPoison 4
      ++ [(g.savedScratch.read 0 (1024 * g.scratchKiB), 1024 * g.scratchKiB), (g.savedValid.toNat, 4 * g.scratchKiB)]
      ++ g.tiles.map (fun t => (tileValue t, 16384))
      ++ [block m.rest (recordSize g - m.rest) 0 0])

/-- Write a group's record with its DIGEST. What the record says of the group, in the device's own form, is remembered beside
its bytes (log entry 21). -/
def writeRecord (s : State) (g : Group) : Option State :=
  let size := recordSize g
  let (x, s) := s.takeFree
  let v := recordValue g x
  let v := v + recordDigest size v * 2 ^ 128
  (saveWrite s (s.part (s.groupPart g)) g.saveAddr size v).map fun s => { s with records := (v, g) :: s.records }

/-- A record as it is read (R404), of the SIZE that it names: none when its pages fail R397, when that is no size of a record
in the group's reserved range (log entry 21), or when its digest does not match. -/
def checkRecord (s : State) (g : Group) : Option Nat × State :=
  let p := s.part (s.groupPart g)
  let size := (saveRead s p g.saveAddr 8).1.getD 0
  let (r, s) := saveRead s p g.saveAddr (if 256 ≤ size ∧ size ≤ g.saveLen then size else 8)
  (r.bind fun v => if 256 ≤ size ∧ size ≤ g.saveLen ∧ v / 2 ^ 128 % 2 ^ 256 = recordDigest size v then some v else none, s)

/-- n bytes of a record at an offset. -/
def recordField (v o n : Nat) : Nat := v / 256 ^ o % 256 ^ n

/-- A lane's registers from a record, for a course whose first column is col. -/
def recordLane (m : RecordMap) (v col quota n : Nat) (l : Lane) : Lane :=
  { l with
    v := Vector.ofFn (fun i : Fin 256 =>
      if i.val < quota then BitVec.ofNat 64 (recordField v (m.v + 256 * (col + i.val) + 8 * n) 8) else l.v[i.val]'i.isLt)
    vP := BitVec.ofFnLE (fun i : Fin 256 =>
      if i.val < quota then (recordField v (m.vPoison + 4 * (col + i.val)) 4).testBit n else l.vP.getLsbD i.val) }

/-- A lane as a record has it; its open runs and its item are the launch's. -/
def Lane.fromRecord (l r : Lane) : Lane := { r with runs := l.runs, item := l.item }

/-- A course as a record has it (R404). -/
def Course.fromRecord (c r : Course) : Course := r.mapLanes (fun n l => (c.lane n).fromRecord l)

/-- A group as a record that the device wrote has it (R404, R406): every section, and the tag of R411. -/
def Group.fromRecord (g r : Group) : Group :=
  { g with
    courses := (r.courses.zipIdx).map (fun e => (g.course e.2).fromRecord e.1)
    tiles := r.tiles, windows := r.windows, barriers := r.barriers, tag := r.tag, savedScratch := r.savedScratch
    savedValid := r.savedValid, savedMat := r.savedMat, savedReserve := r.savedReserve }

/-- The group that a record of the device's own says (R404), the newest such record first. -/
def recordOf (s : State) (g : Group) (v : Nat) : Option Group :=
  (s.records.find? (fun e => e.1 == v && e.2.ident == g.ident)).map (·.2)

/-- What a restore takes from a record that the device did not write as it stands, its digest right: S and V registers with
their poison, scratchpad, valid bits and tiles. The places of the rest are the device's own, and the group keeps what it had
(log entry 21). -/
def loadNamed (g : Group) (v : Nat) : Group :=
  let m := recordMap g
  { g with
    courses := (g.courses.zipIdx).map (fun e =>
      let c := { e.1 with
        s := Vector.ofFn (fun i : Fin 64 => BitVec.ofNat 64 (recordField v (256 + 640 * e.2 + 8 * i.val) 8))
        sP := BitVec.ofNat 64 (recordField v (256 + 640 * e.2 + 512) 8) }
      match (recordCourses g).find? (fun r => r.1 == e.2) with
      | some r => c.mapLanes (recordLane m v r.2.2 r.2.1)
      | none => c)
    savedScratch := { g.savedScratch with
      cells := (Memory.empty.write 0 (1024 * g.scratchKiB) (recordField v m.scratch (1024 * g.scratchKiB))).cells }
    savedValid := BitVec.ofNat 12288 (recordField v m.valid (4 * g.scratchKiB))
    tiles := (g.tiles.zipIdx).map (fun e => { e.1 with
      z := Vector.ofFn (fun i : Fin 4096 => BitVec.ofNat 32 (recordField v (m.tiles + 16384 * e.2 + 4 * i.val) 4)) }) }

/-- What a restore takes from the record (R406). -/
def loadRecord (s : State) (g : Group) (v : Nat) : Group :=
  match recordOf s g v with
  | some r => g.fromRecord r
  | none => loadNamed g v

/-! ### The halt (R401) -/

/-- A lane at the halt: waits on barriers, verdicts and grants stay; every other hold ends, the lane standing at its
instruction (R110, R114, R132, R223, R350, R391). -/
def haltLane (l : Lane) : Lane :=
  match l.hold with
  | .barrier b t => { l with hold := .barrier b t }
  | .txend => { l with hold := .txend }
  | .rresGranted a r => { l with hold := .rresGranted a r }
  | _ => { l with hold := .none }

/-- What aborts an ACTIVE lane at a halt, code and cause: PREEMPTED (R309), or the trap that a frozen lane owes (R303). -/
def haltCode (l : Lane) : Nat × Nat :=
  match l.pend with
  | some t => (if t.cause = .poisonConsumed then 8 else 5, causeCode t.cause)
  | none => (6, 0)

/-- The ACTIVE transactions of a course abort (R303, R309). -/
def haltAborts (s : State) (h c : Nat) (crs : Course) : State :=
  let ns := (List.range 32).filter (fun n => (crs.lane n).live && (crs.lane n).tx.state == .active)
  abortEach s h c ns (fun n => haltCode (crs.lane n))

/-- A ZLD or ZST of the group that runs at the head of the core's queue completes (R286). -/
def haltHead (s : State) (h core : Nat) : State :=
  match (s.core core).matQ with
  | [] => s
  | e :: rest =>
    if e.grp = h ∧ e.started ∧ (e.op = MatOp.zld ∨ e.op = MatOp.zst) then
      let s := matRelease (matResult s core e) e
      s.setCore core { s.core core with matQ := rest }
    else s

/-- The matrix entries of a halted group (R286): a ZLD or ZST in progress completes, every other entry is taken back to
be saved. -/
def haltMatrix (s : State) (h core : Nat) : State :=
  let old := (s.core core).matQ
  let s := haltHead s h core
  let q : List MatEntry := (s.core core).matQ
  let mine : List MatEntry := (q.filter (fun (e : MatEntry) => e.grp == h)).map
    (fun (e : MatEntry) => { e with started := false, bData := 0, bPoison := false, bHave := [] })
  let rest := rehead s.time old (q.filter (fun (e : MatEntry) => e.grp != h))
  let s := (s.setCore core { s.core core with matQ := rest }).updGroup h (fun g => { g with savedMat := mine })
  (s.post (.matrixEntryStart core)).post (.matrixEntryStart (Nat.xor core 1))

/-- A RESIDENT group halts at instruction boundaries, and its save begins. Its trapped courses leave the handler queue:
they enter it again after the restore (R372). -/
def haltResident (s : State) (h : Nat) (g : Group) : State :=
  let s := s.updGroup h (fun g => { g with halting := true, regq := g.regq.map (fun _ => []) })
  let s := (g.courses.zipIdx).foldl (fun s e => haltAborts s h e.2 e.1) s
  let s := s.updGroup h (fun g => { g with courses := g.courses.map (fun c => c.mapLanes (fun _ l => haltLane l)) })
  let s := (s.updLaunch g.launch (fun l => { l with fifo := l.fifo.filter (fun q => q.grp != h) })).postOnce (.rresGrant g.launch)
  let s := match g.core with
    | some k =>
      let s := haltMatrix s h k
      s.setCore k { s.core k with handlerQ := (s.core k).handlerQ.filter (fun e => e.1 != h) }
    | none => s
  s.post (.saveComplete h)

/-- The context of a group is being saved. -/
def ctxSaving (s : State) (g : Group) : Bool := ((alGet s.ctxs (s.groupCtx g)).map (·.state == .saving)).getD false

/-- One named group (R401): a group not on a core becomes SAVED under SAVE, a placement is abandoned, a group that can
retire now retires, and any other halts. A first placement that is abandoned is none: it fixes no mode (R100, R406; log
entry 116), but the members of a cluster set were placed together, and keep their core and offset in it (R107). -/
def haltGroup (s : State) (h : Nat) : State :=
  match s.group h with
  | none => s
  | some g =>
    match g.state with
    | .pending => if ctxSaving s g then s.updGroup h (fun g => { g with state := .saved }) else s
    | .placing =>
      let next_ : GroupState := if g.placed ∨ ctxSaving s g then .saved else .pending
      let mode : Mode := if !g.placed ∧ g.mode = .revocable then .ordinary else g.mode
      let last := if g.setId.isSome then g.core.or g.lastCore else g.lastCore
      ((leaveCore s h g).updGroup h (fun g => { g with
        state := next_, copied := 0, mode := mode, lastCore := last })).postOnce (.groupPlace [])
    | .resident =>
      if g.halting then s
      else
        match retireNow s h with
        | some s => lookAgain s g.launch
        | none => haltResident s h g
    | _ => s

/-- The contexts of named groups. -/
def haltCtxs (s : State) (hs : List Nat) : List Nat := (hs.filterMap (fun h => (s.group h).map s.groupCtx)).eraseDups

/-- A halt request reaches the cores of the groups it names (R401), each with the groups halted together with it. -/
def execHaltArrival (grps : List Nat) (s : State) : Out :=
  let hs := ((grps.flatMap (haltUnit s)).eraseDups)
  let ctxs := haltCtxs s hs
  .next (ctxs.foldl saveCheck (hs.foldl haltGroup s))

/-! ### The completed save (R402) -/

/-- What the save waits for: verdicts, publications and flushes in progress (R205, R248, R309, R350), results that a link
port holds back (R462, R466), and packets that are not in their rings yet (R432). -/
def saveReady (s : State) (h : Nat) (g : Group) : Bool :=
  g.courses.all (fun c => c.txends.isEmpty && !c.inflight.any (LongOp.waits s)) && !s.posts.any (fun p => p.grp == h)
    && !((s.launch g.launch).map (fun l => l.pubs.any (fun p => p.grp == h))).getD false
    && g.windows.all (fun w => w.state != .flushing)

/-- The scratchpad bytes and valid bits of an allocation, and the handler reserve of a course in HANDLER, leave the core
with the group (R248, R372, R404). -/
def takeCoreState (s : State) (h : Nat) (g : Group) : State :=
  match g.core with
  | none => s
  | some k =>
    let core := s.core k
    let n := 1024 * g.scratchKiB
    let m := core.scratch
    let cells := (m.cells.filter (fun c => decide (g.allocBase ≤ c.1 ∧ c.1 < g.allocBase + n))).map (fun c => (c.1 - g.allocBase, c.2))
    let pois := (m.poisoned.filter (fun p => decide (g.allocBase / 32 ≤ p ∧ p < (g.allocBase + n) / 32))).map (· - g.allocBase / 32)
    let valid : BitVec 12288 := BitVec.ofNat 12288 (core.valid.toNat / 2 ^ (g.allocBase / 32) % 2 ^ (n / 32))
    s.updGroup h (fun g => { g with
      savedScratch := ⟨cells, pois⟩, savedValid := valid
      savedReserve := if core.handler.map (·.1) = some h then some (core.reserve, core.reserveP) else none
      windows := g.windows.map (fun w => { w with pend := [], seen := [] }) })

/-- The token queue entries of a saved group's lanes go; a token it holds stays (R307, R309). -/
def leaveQueue (s : State) (h : Nat) (g : Group) : State :=
  s.updPart (s.groupPart g) (fun p => { p with tokenQ := p.tokenQ.filter (fun e => e.1 != h) })

/-- The save of a halted group completes: everything it issued is performed, the phases that its last arrivals complete are
complete (R262, R272), its record is written, and it is SAVED. -/
def completeSave (s : State) (h : Nat) : State :=
  match s.group h with
  | none => s
  | some g =>
    let s := (List.range g.courses.length).foldl (fun s c => finishAll s h c) (drainAll s h)
    match s.group h with
    | none => s
    | some g =>
      if !g.alive then s
      else
        let ctx := s.groupCtx g
        let s := settleGroup s h g
        let g := (s.group h).getD g
        let s := leaveQueue (takeCoreState s h g) h g
        match writeRecord s ((s.group h).getD g) with
        | none => faultContext s ctx h
        | some s =>
          let s := leaveCore s h ((s.group h).getD g)
          let s := s.updGroup h (fun g => { g with state := .saved, halting := false })
          (saveCheck s ctx).postOnce (.groupPlace [])

def execSaveComplete (grp : Nat) (s : State) : Out :=
  match s.group grp with
  | none => .next s
  | some g =>
    if g.state = .resident ∧ g.halting then
      if saveReady s grp g then .next (completeSave s grp) else .next (s.post (.saveComplete grp))
    else .next (saveCheck s (s.groupCtx g))

end Sys2Proof.Machine
end

