-- ==== Sys2Proof/Machine/Place.lean ====
section
/-!
DEFINITION. Placement (spec/05_groups.md, R96 to R100, R106 to R108; spec/24_queues.md, R425, R426): what fits a core,
which groups go together, the arbiter's order, and the steps GROUP_PLACE and PREEMPT_REQUEST. Where the spec leaves the
choice of core or offset to the launcher, GROUP_PLACE with no place chooses by free values, and GROUP_PLACE with places
takes any choice that the rules allow.
-/

namespace Sys2Proof.Machine

/-! ### Occupancy (R96, R97) -/

/-- What a group or a core holds of each resource of R96. -/
structure Use where
  columns : Nat
  courses : Nat
  kib : Nat
  tiles : Nat
  windows : Nat
  barriers : Nat

def Use.zero : Use := ⟨0, 0, 0, 0, 0, 0⟩
def Use.add (a b : Use) : Use :=
  ⟨a.columns + b.columns, a.courses + b.courses, a.kib + b.kib, a.tiles + b.tiles, a.windows + b.windows, a.barriers + b.barriers⟩

/-- The limits of R96. -/
def Use.ok (u : Use) : Bool :=
  decide (u.columns ≤ 2016 ∧ u.courses ≤ 64 ∧ u.kib ≤ 384 ∧ u.tiles ≤ 16 ∧ u.windows ≤ 256 ∧ u.barriers ≤ 64)

def Group.use (g : Group) : Use :=
  ⟨g.rolePools.sum, g.courses.length, g.scratchKiB, g.tiles.length, g.windows.length, g.barriers.length⟩

/-- What a kernel's group takes. -/
def Kernel.use (k : Kernel) : Use :=
  ⟨(k.roles.map (fun r => r.1 * r.2)).sum, (k.roles.map (·.1)).sum, k.scratch, k.ztiles, k.windows, k.barriers⟩

/-- The groups resident or being placed on a core, with their handles. -/
def State.coreGroups (s : State) (k : Nat) : List (Nat × Group) := s.groups.filter (fun e => e.2.core == some k)

def coreUse (s : State) (k : Nat) : Use := ((s.coreGroups k).map (·.2.use)).foldl Use.add Use.zero

/-- The scratchpad ranges in use on a core. -/
def usedRanges (s : State) (k : Nat) : List (Nat × Nat) :=
  ((s.coreGroups k).filter (fun e => e.2.scratchKiB != 0)).map (fun e => (e.2.allocBase, 1024 * e.2.scratchKiB))

/-- A course of the group is in HANDLER: it needs a core with none (R372). -/
def Group.handlerCourse (g : Group) : Option Nat := (g.courses.zipIdx.find? (fun e => e.1.trap == .handler)).map (·.2)

/-- The offset at which a group's allocation fits a core, at a wanted offset or where the free value leads (R96); that of an
empty allocation too lies below 393,216 (R112). -/
def fitsAt (s : State) (k : Nat) (g : Group) (want : Option Nat) (free : Nat) : Option Nat :=
  if !((coreUse s k).add g.use).ok || (g.handlerCourse.isSome && (s.core k).handler.isSome) then none
  else
    match want with
    | some b => if b % 1024 = 0 ∧ b < 393216 ∧ rangeFree (usedRanges s k) 0 393216 b (1024 * g.scratchKiB) then some b else none
    | none => (pickRange (usedRanges s k) 0 393216 1024 (1024 * g.scratchKiB) free).map (min 392192)

/-! ### The cores a group may go to (R100, R348, R406, R409) -/

/-- The cores a partition owns, has not lent and is not about to give away. -/
def ownCores (s : State) (p : Nat) : List Nat := (s.part p).cores.filter (fun k => (s.core k).lentTo.isNone && !(s.part p).leaving.contains k)
/-- The cores lent to a partition. -/
def lentCores (s : State) (p : Nat) : List Nat := (s.cores.filter (fun e => e.2.lentTo == some p)).map (·.1)
/-- Those of them that are not being recalled. -/
def borrowedCores (s : State) (p : Nat) : List Nat := (lentCores s p).filter (fun k => !(s.part p).leaving.contains k)

/-- The group's launch has a PERSISTENT root: its groups go one to a core. -/
def onePerCore (s : State) (g : Group) : Bool :=
  match s.groupNode g with
  | some n => n.kind == .persistent
  | none => false

/-- The kinds of core that a group may be placed on: owned, lent. -/
def coreKinds (s : State) (g : Group) : Bool × Bool :=
  let rev := ((s.groupNode g).map (·.revocable)).getD false
  match g.mode with
  | .redundant _ _ => (true, false)
  | .revocable => (true, true)
  | .ordinary =>
    if g.placed || g.overflow || !rev then (true, false)
    else if onePerCore s g then (!g.extra, g.extra)
    else (true, true)

/-- The cores a group may be placed on, in ascending order of kind and index. -/
def candidateCores (s : State) (g : Group) : List Nat :=
  let p := s.groupPart g
  let (own, lent) := coreKinds s g
  let ks := (if own then ownCores s p else []) ++ (if lent then borrowedCores s p else [])
  if onePerCore s g then ks.filter (fun k => !(s.coreGroups k).any (fun e => e.2.launch == g.launch && e.2.node == g.node)) else ks

/-! ### Groups that are placed in one step (R106, R107, R108, R485) -/

/-- The records of a root that are not yet bound: more groups of the launch are to come. -/
def rootPending (l : Launch) : Bool := !(l.pending l.root).isEmpty

def GroupState.isPending (st : GroupState) : Bool := st == .pending

/-- The unit that a PENDING group leads, when it may be placed now: its co-resident launch, its cluster set, its pair,
or itself. -/
def unitOf (s : State) (h : Nat) (g : Group) : Option (List Nat) :=
  match s.launch g.launch with
  | none => none
  | some l =>
    let all := s.launchGroups g.launch
    let whole (ms : List (Nat × Group)) : Option (List Nat) :=
      if (ms.head?.map (·.1)) = some h ∧ ms.all (fun e => e.2.saveLen != 0) then some (ms.map (·.1)) else none
    if l.done || !g.state.isPending then none
    else if coResident s g then
      let ms := all.filter (fun e => coResident s e.2)
      if ms.any (fun e => e.2.state == .saved || e.2.state == .placing) || rootPending l then none
      else whole (ms.filter (fun e => e.2.state.isPending))
    else if g.setId.isSome then
      let ms := all.filter (fun e => e.2.setId == g.setId)
      let n := if g.mode == .ordinary || g.mode == .revocable then g.setSize else 2 * g.setSize
      if ms.all (fun e => e.2.state.isPending) ∧ (ms.any (fun e => e.2.lastCore.isSome) ∨ ms.length = n) then whole ms else none
    else
      match g.mode with
      | .redundant false other =>
        match s.group other with
        | some o => if o.state.isPending then whole [(h, g), (other, o)] else none
        | none => none
      | .redundant true _ => none
      | _ => whole [(h, g)]

/-- The units of a partition that may be placed now. -/
def pendingUnits (s : State) (p : Nat) : List (List Nat) :=
  s.groups.filterMap fun e => if s.groupPart e.2 = p then unitOf s e.1 e.2 else none

/-- The parts of a unit: its sets and pairs whole, and its single groups. -/
def clumps (s : State) : List Nat → List (List Nat)
  | [] => []
  | h :: hs =>
    let rest := clumps s hs
    match s.group h with
    | none => rest
    | some g =>
      let join (same : Nat → Bool) : List (List Nat) :=
        match rest.find? (fun c => c.any same) with
        | some c => (h :: c) :: rest.filter (· != c)
        | none => [h] :: rest
      match g.setId, g.mode with
      | some _, _ => join (fun o => ((s.group o).map g.sameSet).getD false)
      | none, .redundant _ other => join (· == other)
      | none, _ => [h] :: rest

/-! ### Reserving (R98, R100, R372) -/

/-- Reserve a place: the group is PLACING on its core, which a course of it in HANDLER claims. A group first placed on a lent core runs in revocable mode; a first
placement that a halt abandons fixes nothing (haltGroup, log entry 116). -/
def placeOn (s : State) (pl : Place) : State :=
  match s.group pl.grp with
  | none => s
  | some g =>
    let lent := (s.core pl.core).lentTo.isSome
    let s := match g.handlerCourse with
      | some c => s.setCore pl.core { s.core pl.core with handler := some (pl.grp, c) }
      | none => s
    s.updGroup pl.grp fun g => { g with
      core := some pl.core, state := .placing, allocBase := pl.base, copied := 0
      mode := if g.placed then g.mode else if lent && g.mode == .ordinary then .revocable else g.mode }

/-! ### The launcher's choice

A choice that a free value leads is tried first; then one that finds places whenever there are any, for R106 lets a launch
wait no longer. The groups of a unit are alike, so that filling the fullest places first is enough. -/

/-- A list started elsewhere. -/
def rotated (l : List Nat) (n : Nat) : List Nat := l.drop (n % max 1 l.length) ++ l.take (n % max 1 l.length)

/-- A place for one group: where the free value leads, else packed, on a lent core before one of the partition's own, which
other groups may need. -/
def chooseSingle (s : State) (h : Nat) (free : Option Nat) : Option (List Place) :=
  match s.group h with
  | none => none
  | some g =>
    let ks := match free with
      | some f => rotated (candidateCores s g) f
      | none => (candidateCores s g).reverse
    ks.findSome? fun k => (fitsAt s k g none (free.getD 0 / 1024)).map (fun b => [⟨h, k, b⟩])

/-- How many ranges of len bytes are free beside those in use, n at most. -/
def rangesLeft (len : Nat) : Nat → List (Nat × Nat) → Nat
  | 0, _ => 0
  | n + 1, used =>
    match pickRange used 0 393216 1024 len 0 with
    | some b => 1 + rangesLeft len n ((b, len) :: used)
    | none => 0

/-- How many more groups like this one a core takes (R96). -/
def roomLeft (s : State) (k : Nat) (g : Group) : Nat :=
  let n := ((List.range 65).filter (fun n => ((List.range n).foldl (fun u _ => u.add g.use) (coreUse s k)).ok)).foldl max 0
  if onePerCore s g then min 1 n
  else if g.scratchKiB = 0 then n
  else rangesLeft (1024 * g.scratchKiB) n (usedRanges s k)

/-- How many sets of n groups like this one a cluster takes, each on distinct cores. -/
def clusterRoom (s : State) (g : Group) (n cl : Nat) : Nat :=
  let rooms := ((candidateCores s g).filter (fun k => k / 192 == cl)).map (fun k => roomLeft s k g)
  ((List.range (rooms.sum / max 1 n + 1)).filter (fun f => decide (n * f ≤ (rooms.map (min f)).sum))).foldl max 0

/-- The clusters in the order in which they are tried: where a free value leads, or the one with the most room first. -/
def clusterOrder (s : State) (g : Group) (n : Nat) : Option Nat → List Nat
  | some free => rotated [0, 1, 2, 3] free
  | none => sortBy (fun a b => decide (clusterRoom s g n b ≤ clusterRoom s g n a)) [0, 1, 2, 3]

/-- A member of the group's set has been placed: its members keep their cores within the cluster and their offsets (R107). -/
def setPlaced (s : State) (g : Group) : Bool := g.setId.isSome && s.groups.any (fun e => e.2.sameSet g && e.2.placed)

/-- The group's set takes one of the runs of R108: a PERSISTENT root's, not placed yet. -/
def runSet (s : State) (g : Group) : Bool := g.setId.isSome && onePerCore s g && !setPlaced s g

/-- The owned cores as R108 divides them: in each cluster in ascending order, in runs of n. -/
def coreRuns (cores : List Nat) (n : Nat) : List (List Nat) :=
  [0, 1, 2, 3].flatMap fun cl =>
    let mine := sortBy (fun a b => decide (a ≤ b)) (cores.filter (fun k => k / 192 == cl))
    (List.range mine.length).filterMap fun i =>
      if i % max 1 n = 0 then some ((mine.drop i).take (max 1 n)) else none

/-- The runs of the group's partition, for the set size of its launch. -/
def groupRuns (s : State) (g : Group) : List (List Nat) :=
  coreRuns (ownCores s (s.groupPart g)) (((s.launch g.launch).map (·.setSize)).getD 0)

/-- The places of a restored set in a cluster: the same cores within it and the same offsets (R107). -/
def restoreSetIn (s : State) (hs : List Nat) (cl : Nat) : Option (List Place) :=
  hs.mapM fun h => (s.group h).bind fun g =>
    let k := 192 * cl + g.lastCore.getD 0 % 192
    if (candidateCores s g).contains k then (fitsAt s k g (some g.allocBase) 0).map (fun b => ⟨h, k, b⟩) else none

/-- The places of a PERSISTENT root's set in a cluster whose first placement a halt ended while others of the launch stayed
(R108): on each of the runs of the cluster that takes it, the shortest first. -/
def runSetsIn (s : State) (hs : List Nat) (cl free : Nat) (g : Group) : List (List Place) :=
  let runs := (groupRuns s g).filter (fun r => r.headD 0 / 192 == cl && decide (hs.length ≤ r.length))
  (sortBy (fun (a b : List Nat) => decide (a.length ≤ b.length)) runs).filterMap fun r => (hs.zip r).mapM fun e =>
    if (candidateCores s g).contains e.2 then (fitsAt s e.2 g none free).map (fun b => (⟨e.1, e.2, b⟩ : Place)) else none

/-- The places of a new set in a cluster: distinct cores, those with the most room left, so that the sets placed with it find
theirs (R106); members in creation order on cores in ascending order. -/
def newSetIn (s : State) (hs : List Nat) (cl free : Nat) : Option (List Place) :=
  match hs.head?.bind s.group with
  | none => none
  | some g =>
    let ks := (candidateCores s g).filterMap fun k =>
      if k / 192 = cl then (fitsAt s k g none free).map (fun b => (k, b)) else none
    let ks := sortBy (fun a b => decide (roomLeft s b.1 g ≤ roomLeft s a.1 g)) (sortBy (fun a b => decide (a.1 ≤ b.1)) ks)
    let ks := sortBy (fun a b => decide (a.1 ≤ b.1)) (ks.take hs.length)
    if ks.length < hs.length then none else some ((hs.zip ks).map (fun e => ⟨e.1, e.2.1, e.2.2⟩))

/-- A pair of clusters that R486 bars: that of the signature mismatch, where the partition has another. -/
def barred (s : State) (g : Group) (a b : Nat) : Bool :=
  match g.avoid with
  | some (x, y) =>
    ((a == x && b == y) || (a == y && b == x)) && decide (3 ≤ ((ownCores s (s.groupPart g)).map (· / 192)).eraseDups.length)
  | none => false

/-- The other copy of a group has a core, in this cluster or barred with it (R485, R486). -/
def twinBars (s : State) (g : Group) (cl : Nat) : Bool :=
  match g.mode with
  | .redundant _ o => match (s.group o).bind (·.core) with
    | some k => k / 192 == cl || barred s g (k / 192) cl
    | none => false
  | _ => false

/-- The places that a set may take in one cluster, the first the one to take when nothing else is placed with it. -/
def setOptions (s : State) (hs : List Nat) (free : Option Nat) (cl : Nat) : List (List Place) :=
  match hs.head?.bind s.group with
  | none => []
  | some g =>
    if twinBars s g cl then []
    else if setPlaced s g then (restoreSetIn s hs cl).toList
    else if onePerCore s g then runSetsIn s hs cl (free.getD 0 / 1024) g
    else (newSetIn s hs cl (free.getD 0 / 1024)).toList

/-- The places of a set in one cluster. -/
def chooseSetIn (s : State) (hs : List Nat) (free : Option Nat) (cl : Nat) : Option (List Place) := (setOptions s hs free cl).head?

/-- A place for the group in one cluster. -/
def chooseIn (s : State) (h : Nat) (free : Option Nat) (cl : Nat) : Option Place :=
  (s.group h).bind fun g => (rotated ((candidateCores s g).filter (fun k => k / 192 == cl)) (free.getD 0 / 7)).findSome?
    fun k => if twinBars s g cl then none else (fitsAt s k g none (free.getD 0 / 1024)).map (fun b => ⟨h, k, b⟩)

/-- Two copies on cores of two clusters (R485). -/
def choosePair (s : State) (h o : Nat) (free : Option Nat) : Option (List Place) :=
  match s.group h with
  | none => none
  | some g =>
    let cls := clusterOrder s g 1 free
    cls.findSome? fun a => (chooseIn s h free a).bind fun p =>
      cls.findSome? fun b => (chooseIn (placeOn s p) o free b).map (fun q => [p, q])

/-- The clump is a cluster set, or a set's copy. -/
def isSet (s : State) (c : List Nat) : Bool := ((c.head?.bind s.group).bind (·.setId)).isSome

def chooseClump (s : State) (free : Option Nat) : List Nat → Option (List Place)
  | [] => some []
  | h :: hs =>
    match s.group h with
    | none => none
    | some g =>
      if g.setId.isSome then (clusterOrder s g (h :: hs).length free).findSome? (chooseSetIn s (h :: hs) free)
      else match hs with
        | [o] => choosePair s h o free
        | _ => chooseSingle s h free

/-- The clumps one after another, each with the earlier ones in place. -/
def chooseClumps (free : Option Nat) : List (List Nat) → State → Option (List Place)
  | [], _ => some []
  | c :: cs, s =>
    match chooseClump s free c with
    | none => none
    | some ps => (chooseClumps free cs (ps.foldl placeOn s)).map (fun qs => ps ++ qs)

/-- The same with every choice of cluster for every set, as restored sets need, whose cores are given. -/
def searchClumps : List (List Nat) → State → Option (List Place)
  | [], _ => some []
  | c :: cs, s =>
    let on (ps : Option (List Place)) : Option (List Place) :=
      ps.bind fun ps => (searchClumps cs (ps.foldl placeOn s)).map (fun qs => ps ++ qs)
    if isSet s c then (([0, 1, 2, 3] : List Nat).flatMap (setOptions s c none)).findSome? (fun ps => on (some ps))
    else on (chooseClump s none c)

/-- Sets in given clusters. -/
def setsAt : List (List Nat × Nat) → State → Option (List Place)
  | [], _ => some []
  | e :: es, s => (chooseSetIn s e.1 none e.2).bind fun ps => (setsAt es (ps.foldl placeOn s)).map (fun qs => ps ++ qs)

/-- The short last set, or its two copies, at every choice of clusters, and the whole sets after it. -/
def shortFirst (s : State) (cs : List (List Nat)) : Option (List Place) :=
  let n := (cs.map List.length).foldl max 0
  let short := cs.filter (fun c => decide (c.length < n))
  if short.isEmpty then none
  else ([0, 1, 2, 3].flatMap (fun a => [0, 1, 2, 3].map (fun b => [a, b]))).findSome? fun cls =>
    (setsAt (short.zip cls) s).bind fun ps =>
      (chooseClumps none (cs.filter (fun c => decide (c.length = n))) (ps.foldl placeOn s)).map (fun qs => ps ++ qs)

/-- The clumps that need more of a core before the others: those with a course in HANDLER, then those bound to the
partition's own cores. -/
def needRank (s : State) (c : List Nat) : Nat :=
  let gs := c.filterMap s.group
  (if gs.any (fun g => g.handlerCourse.isSome) then 0 else 2) + (if gs.any (fun g => !(coreKinds s g).2) then 0 else 1)

/-- Places for clumps, found whenever there are any. -/
def packClumps (s : State) (cs : List (List Nat)) : Option (List Place) :=
  let cs := sortBy (fun a b => decide (needRank s a ≤ needRank s b)) cs
  if cs.any (fun c => c.any (fun h => ((s.group h).map (fun g => g.placed || setPlaced s g)).getD false)) then searchClumps cs s
  else (chooseClumps none cs s).or (if cs.any (isSet s) then shortFirst s cs else none)

/-! ### The first placement of a PERSISTENT node (R108, R348) -/

/-- The unit is a PERSISTENT node's groups at their first placement: each on a core of its own that the partition owns. -/
def firstPersistent (s : State) (u : List Nat) : Bool :=
  u.all fun h => match s.group h with
    | some g => onePerCore s g && !g.extra && !g.placed
    | none => false

/-- The runs of the unit's partition. -/
def unitRuns (s : State) (u : List Nat) : List (List Nat) := ((u.head?.bind s.group).map (groupRuns s)).getD []

/-- The cluster of a run. -/
def runCluster (r : List Nat) : Nat := r.headD 0 / 192

/-- A clump's copies one after another: a set's members, or a group, for each copy. -/
def copiesOf (s : State) (c : List Nat) : List (List Nat) :=
  if isSet s c then [c] else c.map (fun h => [h])

/-- Runs for sets, or cores for groups, one after another, of those left: a run of just its length before a longer one; a
copy in another cluster than the copy before it, and the cluster with the most runs left first, so that every copy finds
its own. -/
def takeRuns (s : State) : List (List Nat) → List (List Nat) → List (Nat × Nat) → Option (List (Nat × Nat))
  | [], _, got => some got
  | c :: cs, runs, got =>
    let other : Option Nat := (c.head?.bind s.group).bind Group.otherCopy
    let twin : Option Nat := (got.find? (fun e => some e.1 == other)).map (fun e => e.2 / 192)
    let open_ := runs.filter (fun r => decide (c.length ≤ r.length) && some (runCluster r) != twin)
    let like (r : List Nat) : Nat := (runs.filter (fun q => q.length == r.length && runCluster q == runCluster r)).length
    let key (r : List Nat) : Nat := 512 * r.length + (if other.isSome then 256 - like r else 0)
    match sortBy (fun a b => decide (key a ≤ key b)) open_ with
    | r :: _ => takeRuns s cs (runs.filter (· != r)) (got ++ c.zip r)
    | [] => none

def choosePersistent (s : State) (u : List Nat) (free : Nat) : Option (List Place) :=
  match takeRuns s ((clumps s u).flatMap (copiesOf s)) (unitRuns s u) [] with
  | none => none
  | some cs =>
    u.mapM fun h => (cs.find? (fun e => e.1 == h)).bind fun e =>
      (s.group h).bind fun g => (fitsAt s e.2 g none free).map (fun b => ⟨h, e.2, b⟩)

/-- Places for a whole unit, or none: where the free value leads, else where places are found if there are any (R106). -/
def choose (s : State) (u : List Nat) (free : Nat) : Option (List Place) :=
  if firstPersistent s u then (choosePersistent s u free).or (choosePersistent s u 0)
  else (chooseClumps (some free) (clumps s u) s).or (packClumps s (clumps s u))

/-! ### A choice given -/

/-- Sequentially, every place is on a core the group may go to and fits there. -/
def placesFit : List Place → State → Bool
  | [], _ => true
  | pl :: ps, s =>
    match s.group pl.grp with
    | none => false
    | some g => (candidateCores s g).contains pl.core && (fitsAt s pl.core g (some pl.base) 0).isSome && placesFit ps (placeOn s pl)

/-- The rules of sets, pairs and PERSISTENT nodes hold of the places of a clump; the cores of a PERSISTENT root's set at its
first placement are one of the runs of R108. -/
def clumpOk (s : State) (ps : List Place) : Bool :=
  match ps with
  | [] => true
  | p :: rest =>
    match s.group p.grp with
    | none => false
    | some g =>
      if g.setId.isSome then
        rest.all (fun q => q.core / 192 == p.core / 192) && (ps.map (·.core)).eraseDups.length == ps.length
          && ps.all (fun q => match s.group q.grp with
            | some m => !setPlaced s m || (q.core % 192 == m.lastCore.getD 0 % 192 && q.base == m.allocBase)
            | none => false)
          && (!runSet s g
            || (groupRuns s g).any (fun r => r.take ps.length == sortBy (fun (a b : Nat) => decide (a ≤ b)) (ps.map (·.core))))
      else
        match g.mode, rest with
        | .redundant _ _, [q] => p.core / 192 != q.core / 192 && !barred s g (p.core / 192) (q.core / 192)
        | _, _ => true

/-- Ranks of a set at its first placement: ascending within-cluster core index (R107). -/
def rankSet (s : State) (ps : List Place) : State :=
  if ps.any (fun q => ((s.group q.grp).map (setPlaced s)).getD true) then s
  else
    let sorted := sortBy (fun (a b : Place) => decide (a.core ≤ b.core)) ps
    (sorted.zipIdx).foldl (fun s e => s.updGroup e.1.grp (fun g => { g with setRank := e.2 })) s

/-- The sets of a unit with their ranks. -/
def rankUnit (s : State) (u : List Nat) (ps : List Place) : State :=
  ((clumps s u).filter (isSet s)).foldl (fun s c => rankSet s (ps.filter (fun q => c.contains q.grp))) s

/-- The copies of a set's member have one rank (R485). -/
def ranksEqual (s : State) (u : List Nat) : Bool :=
  u.all fun h => match s.group h with
    | some g => g.otherCopy.all (fun o => ((s.group o).map (·.setRank)) == some g.setRank)
    | none => false

/-- Given places are ones the launcher may choose for the unit. -/
def placesOk (s : State) (u : List Nat) (ps : List Place) : Bool :=
  ps.map (·.grp) == u && placesFit ps s
    && (clumps s u).all (fun c => clumpOk s (ps.filter (fun q => c.contains q.grp)))
    && ps.all (fun q => !((s.group q.grp).map (fun g => twinBars (ps.foldl placeOn s) g (q.core / 192))).getD false)
    && ranksEqual (rankUnit s u ps) u
    && (!firstPersistent s u || ((ps.map (·.core)).eraseDups.length == ps.length
        && ps.all (fun q => (unitRuns s u).any (fun r => r.contains q.core))))

/-! ### Performing a placement -/

/-- Every place of a unit is reserved in one step, and each group's initialisation or restore begins; an owner for which no
group waits any more has no deficit (R425). -/
def performPlaces (s : State) (u : List Nat) (ps : List Place) : State :=
  let s := ps.foldl placeOn (rankUnit s u ps)
  let s := match u.head?.bind s.group with
    | some g => resetDeficits s (s.groupPart g)
    | none => s
  u.foldl (fun s h => s.post (.groupPlacementComplete h)) s

/-! ### The arbiter (R425) -/

def unitPrio (s : State) (u : List Nat) : Nat := (((u.head?.bind s.group).bind (fun g => s.launch g.launch)).map (·.prio)).getD 0
def unitOwner (s : State) (u : List Nat) : Nat := (((u.head?.bind s.group).bind (fun g => s.launch g.launch)).map (·.owner)).getD 0
def unitLaunch (s : State) (u : List Nat) : Nat := ((u.head?.bind s.group).map (·.launch)).getD 0

/-- The cost of a unit: that of each of its groups (R425). -/
def unitCost (s : State) (u : List Nat) : Nat :=
  (u.map fun h => max 1 ((((s.group h).map (·.rolePools.sum)).getD 0 + 63) / 64)).sum

/-- A partition's weight of an owner (R425). -/
def Part.weight (p : Part) (o : Nat) : Nat := (alGet p.weights o).getD 1

/-- The owner to visit after one, cyclically ascending. -/
def nextOwner (os : List Nat) (last : Option Nat) : Option Nat :=
  let os := sortBy (fun a b => decide (a ≤ b)) os
  match last with
  | some v => (os.find? (fun o => decide (v < o))).or os.head?
  | none => os.head?

/-- What the arbiter does next: nothing, move its visit, or place a unit. -/
inductive Arb where
  | idle
  | visit (s : State)
  | place (u : List Nat) (ps : List Place) (s : State)

/-- One move of the arbiter among the units that resources could take (R425, R426): the highest priority first; while
halts make room for a group, no other of its priority or lower; then deficit round robin over owners. -/
def arbitrate (s : State) (p free : Nat) : Arb :=
  let fit : List (List Nat × List Place) := (pendingUnits s p).filterMap (fun u => (choose s u free).map (fun ps => (u, ps)))
  let q := s.part p
  let fit : List (List Nat × List Place) := match q.waiting with
    | some w => fit.filter (fun e => e.1.contains w || decide (((s.group w).bind (fun g => s.launch g.launch)).elim 0 (·.prio) < unitPrio s e.1))
    | none => fit
  let top := fit.foldl (fun m e => max m (unitPrio s e.1)) 0
  let fit := fit.filter (fun e => unitPrio s e.1 == top)
  let owners := (fit.map (fun e => unitOwner s e.1)).eraseDups
  let best (o : Nat) : Option (List Nat × List Place) :=
    (sortBy (fun (a b : List Nat × List Place) => decide (unitLaunch s a.1 ≤ unitLaunch s b.1))
      (fit.filter (fun e => unitOwner s e.1 == o))).head?
  let deficit (o : Nat) : Nat := (alGet q.deficits o).getD 0
  let open_ := match q.visit with
    | some o => match best o with
      | some e => if unitCost s e.1 ≤ deficit o then some (o, e) else none
      | none => none
    | none => none
  match open_ with
  | some (o, e) =>
    .place e.1 e.2 (s.updPart p (fun q => { q with deficits := alSet q.deficits o (deficit o - unitCost s e.1) }))
  | none =>
    match nextOwner owners q.visit with
    | some o => .visit (s.updPart p (fun q => { q with visit := some o, deficits := alSet q.deficits o (deficit o + q.weight o) }))
    | none => .idle

/-! ### Groups that other rules bring to placement -/

/-- The group that halts make room for is placed, saved or gone: nothing waits (R426). -/
def settleWaiting (s : State) (p : Nat) : State :=
  match (s.part p).waiting with
  | some w => if ((s.group w).map (·.state.isPending)).getD false then s else s.updPart p (fun q => { q with waiting := none })
  | none => s

/-- The context of a group runs. -/
def ctxActive (s : State) (g : Group) : Bool := ((alGet s.ctxs (s.groupCtx g)).map (·.state == .active)).getD false

/-- Once nothing waits, the groups saved by priority pre-emption are PENDING again (R406, R426). -/
def requeuePreempted (s : State) (p : Nat) : State :=
  if (s.part p).waiting.isSome then s
  else s.groups.foldl (fun s e =>
    if e.2.state = .saved ∧ e.2.savedBy = .preempt ∧ s.groupPart e.2 = p ∧ ctxActive s e.2
    then waitAgain s e.1 else s) s

/-- The reservations that did not fit at creation are tried again (R398, R403). -/
def retryReserve (s : State) : State :=
  s.groups.foldl (fun s e =>
    if e.2.saveLen = 0 ∧ e.2.alive then
      reserveFor s e.1 (match e.2.mode with
        | .redundant true other => (s.group other).bind (fun g => if g.saveLen = 0 then none else some g.pbase)
        | _ => none)
    else s) s

/-- A revocable PERSISTENT node has one group on each core lent to the partition while the dispenser has items (R348). -/
def lentExtras (s : State) (li : Nat) (l : Launch) : State :=
  match (s.launchObj l).bind (fun o => o.node l.root) with
  | some n =>
    let gs := s.launchGroups li
    let items := decide (l.next ≤ l.total - 1 ∧ l.total ≠ 0) || l.returns.any (fun r => !r.owned)
    if n.kind = .persistent ∧ n.revocable ∧ !l.done ∧ items ∧ !gs.any (fun e => e.2.extra && e.2.state.isPending && !e.2.overflow) then
      if (borrowedCores s l.part).any (fun k => !(s.coreGroups k).any (fun e => e.2.launch == li && e.2.node == l.root)) then
        createGroup s li l.root [] (some (none, 1, 0)) true
      else s
    else s
  | none => s

/-! ### PREEMPT_REQUEST (R426) -/

/-- The priority of a group. -/
def groupPrio (s : State) (g : Group) : Nat := ((s.launch g.launch).map (·.prio)).getD 0

/-- The groups on a core that may be halted for a group of a priority: lowest priority first, most recently created
first. -/
def victimsOn (s : State) (k prio : Nat) : List (Nat × Group) :=
  sortBy (fun a b => decide (groupPrio s a.2 < groupPrio s b.2) || (groupPrio s a.2 == groupPrio s b.2 && decide (b.1 ≤ a.1)))
    ((s.coreGroups k).filter (fun e => e.2.state == .resident && !e.2.halting && decide (groupPrio s e.2 < prio)))

/-- Groups as if they had left their cores. -/
def without (s : State) (hs : List Nat) : State :=
  hs.foldl (fun s h => match s.group h with
    | some g => s.setCore (g.core.getD 0) (let k := s.core (g.core.getD 0)
        { k with handler := if k.handler.map (·.1) = some h then none else k.handler }) |>.updGroup h (fun g => { g with core := none })
    | none => s) s

/-- The groups named on a core until the group fits: each with its whole unit. -/
def roomOn (k : Nat) (g : Group) (want : Option Nat) : List (Nat × Group) → List Nat → State → Option (List Nat)
  | vs, named, s =>
    if (fitsAt s k g want 0).isSome then some named
    else
      match vs with
      | [] => none
      | v :: rest =>
        if named.contains v.1 then roomOn k g want rest named s
        else
          let more := (haltUnit s v.1).filter (fun h => !named.contains h)
          roomOn k g want rest (named ++ more) (without s more)

/-- The order of R426 among cores: the lowest highest priority, the fewest groups, the lowest index. -/
def roomKey (s : State) (k : Nat) (hs : List Nat) : Nat :=
  ((hs.foldl (fun m h => max m (((s.group h).map (groupPrio s)).getD 0 + 1)) 0) * 2 ^ 32 + hs.length) * 2 ^ 16 + k

/-- The best of the given cores for one group: the core and the groups named on it. -/
def bestRoom (s : State) (prio : Nat) (g : Group) (ks : List (Nat × Option Nat)) : Option (Nat × List Nat) :=
  (sortBy (fun (a b : Nat × List Nat) => decide (roomKey s a.1 a.2 ≤ roomKey s b.1 b.2))
    (ks.filterMap (fun k => (roomOn k.1 g k.2 (victimsOn s k.1 prio) [] s).map (fun hs => (k.1, hs))))).head?

/-- Room for the members of a clump one after another, on cores that keep its rules. -/
def roomFor (prio : Nat) (ok : State → List Nat → Nat → Group → List (Nat × Option Nat)) :
    List Nat → List Nat → State → Option (List Nat × State)
  | [], _, s => some ([], s)
  | h :: hs, used, s =>
    match s.group h with
    | none => none
    | some g =>
      match bestRoom s prio g (ok s used h g) with
      | none => none
      | some (k, named) =>
        let want := ((ok s used h g).find? (fun e => e.1 == k)).bind (·.2)
        let s := without s named
        match fitsAt s k g want 0 with
        | none => none
        | some b =>
          match roomFor prio ok hs (used ++ [k]) (placeOn s ⟨h, k, b⟩) with
          | some (more, s) => some (named ++ more, s)
          | none => none

/-- The cores open to a member of a clump, given those its earlier members took. -/
def openCores (cl : Option Nat) (s : State) (used : List Nat) (_h : Nat) (g : Group) : List (Nat × Option Nat) :=
  let ks := candidateCores s g
  if g.setId.isSome then
    (ks.filter (fun k => some (k / 192) == cl && !twinBars s g (k / 192) && !used.contains k
      && (!(setPlaced s g || (runSet s g && g.lastCore.isSome)) || k % 192 == g.lastCore.getD 0 % 192))).map
      (fun k => (k, if setPlaced s g then some g.allocBase else none))
  else
    match g.mode with
    | .redundant _ _ => (ks.filter (fun k => used.all (fun u => u / 192 != k / 192 && !barred s g (u / 192) (k / 192)))).map (fun k => (k, none))
    | _ => ks.map (fun k => (k, none))

/-- Room for a clump: a cluster set tries each cluster. -/
def roomClump (s : State) (prio : Nat) (c : List Nat) : Option (List Nat × State) :=
  if isSet s c then
    let rs := [0, 1, 2, 3].filterMap (fun cl => roomFor prio (openCores (some cl)) c [] s)
    (sortBy (fun (a b : List Nat × State) => decide (roomKey s 0 a.1 ≤ roomKey s 0 b.1)) rs).head?
  else roomFor prio (openCores none) c [] s

/-- The groups to halt for a whole unit. -/
def roomUnit (prio : Nat) : List (List Nat) → State → Option (List Nat)
  | [], _ => some []
  | c :: cs, s =>
    match roomClump s prio c with
    | none => none
    | some (hs, s) => (roomUnit prio cs s).map (fun more => hs ++ more)

/-- A halt of a group of the partition is in progress. -/
def haltsOpen (s : State) (p : Nat) : Bool :=
  s.groups.any (fun e => e.2.halting && s.groupPart e.2 == p)
    || s.agenda.any (fun i => match i with
      | .haltArrival hs => hs.any (fun h => ((s.group h).map s.groupPart) == some p)
      | _ => false)

/-- The most urgent unit that fits nowhere and for which halts would make room, with the groups to halt. -/
def preemptChoice (s : State) (p : Nat) : Option (Nat × List Nat) :=
  let us := (pendingUnits s p).filter (fun u => (choose s u 0).isNone)
  let us := sortBy (fun a b => decide (unitPrio s b ≤ unitPrio s a)) us
  us.findSome? fun u =>
    if unitPrio s u = 0 then none
    else match roomUnit (unitPrio s u) (clumps s u) s with
      | some hs => if hs.isEmpty then none else u.head?.map (fun h => (h, hs.eraseDups))
      | none => none

/-- PREEMPT_REQUEST: the front end names groups for halt (R426). Halts already in progress are awaited first. -/
def execPreemptRequest (part : Nat) (s : State) : Out :=
  if haltsOpen s part then .next s
  else
    match preemptChoice s part with
    | some (h, hs) => .next (requestHalt (s.updPart part (fun q => { q with waiting := some h })) hs .preempt)
    | none => .next s

/-! ### Drain mode's saves (R347) -/

/-- Every live lane of the group is held at a blocking RRES. -/
def allAtRres (g : Group) : Bool :=
  g.courses.any (·.anyLive)
    && g.courses.all (fun c => (List.range 32).all (fun n => !(c.lane n).live || (c.lane n).hold == .rres))

/-- A launcher in drain mode that cannot place a group of the drain rank asks for the save of a group of the launch
whose every live lane waits at RRES, the one created last; never for a co-resident one. While there is none
it looks again. -/
def drainSave (s : State) (li : Nat) (l : Launch) : State :=
  match s.launchObj l with
  | none => s
  | some o =>
    let gs := s.launchGroups li
    let rank := drainRank s li l o
    if !l.draining || gs.any (fun e => e.2.halting) || haltsOpen s l.part then s
    else if gs.any (fun e => e.2.state.isPending && some (o.rank e.2.node) == rank
        && match unitOf s e.1 e.2 with
          | some u => (choose s u 0).isNone
          | none => false) then
      match (sortBy (fun (a b : Nat × Group) => decide (b.2.ident.toNat % 2 ^ 24 ≤ a.2.ident.toNat % 2 ^ 24))
          (gs.filter (fun e => e.2.state == .resident && allAtRres e.2 && !coResident s e.2))).head? with
      | some e => requestHalt s (haltUnit s e.1) .drain
      | none => s.postOnce (.groupPlace [])
    else s

/-! ### GROUP_PLACE -/

/-- A pass over one partition: one move of its arbiter, or the requests that make room. -/
def placePass (free : Nat) (s : State) (p : Nat) : State :=
  let s := resetDeficits (requeuePreempted (settleWaiting s p) p) p
  match arbitrate s p free with
  | .place u ps s => (performPlaces s u ps).postOnce (.groupPlace [])
  | .visit s => s.postOnce (.groupPlace [])
  | .idle =>
    if haltsOpen s p || (preemptChoice s p).isNone then s else s.postOnce (.preemptRequest p)

/-- The launcher's own choice: each partition with groups in PENDING or saved for one gets a pass. -/
def placeAll (s : State) : State :=
  let s := (List.range 16).foldl resetDeficits (retryReserve s)
  let s := s.launches.foldl (fun s e => lentExtras s e.1 e.2) s
  let (f, s) := s.takeFree
  let parts := ((s.groups.filter (fun e => e.2.state.isPending || e.2.state == .saved)).map (fun e => s.groupPart e.2)).eraseDups
  let s := parts.foldl (placePass f) s
  s.launches.foldl (fun s e => if e.2.done then s else drainSave s e.1 e.2) s

/-- GROUP_PLACE: with no place, the launcher's own choice; with places, that choice, when the arbiter's turn has come to
its unit and the rules allow it. -/
def execGroupPlace (places : List Place) (s : State) : Out :=
  match places with
  | [] => .next (placeAll s)
  | pl :: _ =>
    match s.group pl.grp with
    | none => .next s
    | some g =>
      match arbitrate s (s.groupPart g) 0 with
      | .place u _ t =>
        if placesOk s u places then .next (performPlaces t u places) else .next (s.postOnce (.groupPlace []))
      | .visit t => .next (t.postFirst (.groupPlace places))
      | .idle => .next s

end Sys2Proof.Machine
end

