-- ==== Sys2Proof/Machine/Placed.lean ====
section
/-!
DEFINITION. GROUP_PLACEMENT_COMPLETE: the end of PLACING, at a first placement (R99, R342) and at a restore (R248, R286,
R372, R404, R406).
-/

namespace Sys2Proof.Machine

/-! ### The allocation (R99) -/

/-- Drop the bytes and poison of n bytes from a. -/
def Memory.clear (m : Memory) (a n : Nat) : Memory :=
  { cells := m.cells.filter (fun c => decide (c.1 < a ∨ a + n ≤ c.1))
    poisoned := m.poisoned.filter (fun k => decide (k < a / 32 ∨ (a + n) / 32 ≤ k)) }

/-- A group's scratchpad allocation reads as zero, and none of its valid bits is set (R99, R240). -/
def clearAlloc (s : State) (k base n : Nat) : State :=
  let s := s.setCore k { s.core k with scratch := (s.core k).scratch.clear base n }
  setValid s k (base / 32) (n / 32) false

/-! ### Records (R342) -/

/-- Copy one record to the record window in 16-byte units: none when a page must be waited for; a fatal page leaves
the whole record's bytes zero and poisoned (R386; a record lies in one page). -/
def copyUnits (info : ReqInfo) (k : Nat) : List (Nat × Nat) → State → Bool × State
  | [], s => (true, s)
  | (va, dst) :: us, s =>
    match ctxRead s info va 16 with
    | (.ok (v, p), s) => copyUnits info k us (s.store (.scratch k) dst 16 v p)
    | (.error (.fault _), s) => (false, s)
    | (.error _, s) => (true, ((va, dst) :: us).foldl (fun s u => s.store (.scratch k) u.2 16 0 true) s)

/-- Copy the records from the first not yet copied; false when one waits. -/
def copyRecords (h k base rsz : Nat) (info : ReqInfo) (va : Nat × Nat → Nat) : List (Nat × (Nat × Nat)) → State → Bool × State
  | [], s => (true, s)
  | (i, r) :: rs, s =>
    match copyUnits info k ((List.range (rsz / 16)).map (fun u => (va r + 16 * u, base + i * rsz + 16 * u))) s with
    | (true, s) => copyRecords h k base rsz info va rs (s.updGroup h (fun g => { g with copied := i + 1 }))
    | (false, s) => (false, s)

/-! ### The end of PLACING -/

/-- The group is RESIDENT: an acquire at DEVICE scope, and a look at the courses that have already ended (R102, R205). -/
def becomeResident (s : State) (h k : Nat) : State :=
  let s := chargeCore s k
  let s := clearL1 s k
  let s := s.updGroup h (fun g => { g with state := .resident, placed := true, lastCore := some k, copied := 0 })
  match s.group h with
  | some g => if g.courses.all (·.ended) then s.post (.groupRetire h) else s
  | none => s

/-- A first placement: the allocation cleared, the records copied and CONSUMED (R99, R338, R342). -/
def firstPlacement (s : State) (h k : Nat) (g : Group) : State :=
  let s := if g.copied = 0 then clearAlloc s k g.allocBase (1024 * g.scratchKiB) else s
  match s.launch g.launch with
  | none => s
  | some l =>
    match s.launchObj l with
    | none => s
    | some o =>
      let va (r : Nat × Nat) : Nat := recordVa l o g.node r.1 r.2
      let todo := ((g.records.zipIdx).map (fun e => (e.2, e.1))).drop g.copied
      match copyRecords h k g.allocBase (o.rsz g.node) ⟨s.groupCtx g, .read, 4, none, placeAgent h⟩ va todo s with
      | (false, s) => s.post (.groupPlacementComplete h)
      | (true, s) =>
        let s := s.updLaunch g.launch (fun l => mapRecords l (fun r => r.grp == some h && r.state == .bound)
          (fun r => { r with state := .consumed }))
        becomeResident s h k

/-! ### Restore (R406) -/

/-- A saved entry may re-enter: every slot it names is BOUND with the GEN it was issued with (R61, R286). -/
def entryFits (c : Core) (e : MatEntry) : Bool :=
  let ok (i : BitVec 4) (gen : BitVec 16) : Bool := (c.slot i.toNat).state == .bound && (c.slot i.toNat).gen == gen
  ok e.f.sla e.genA && ok e.f.slb e.genB

/-- A dropped entry: its counter or flag share falls, and the live lanes of its mask owe a trap (R286). -/
def dropEntry (s : State) (e : MatEntry) : State :=
  (matRelease s e).updCourse e.grp e.course (fun c =>
    c.mapLanes (fun n l => if inMask e.mask n && l.live then { l with dropped := .due } else l))

/-- The saved scratchpad bytes, poison and valid bits come back (R248, R404). -/
def restoreScratch (s : State) (k : Nat) (g : Group) : State :=
  let s := clearAlloc s k g.allocBase (1024 * g.scratchKiB)
  let m := g.savedScratch.cells.foldl (fun (m : Memory) c => m.setByte (g.allocBase + c.1) c.2) (s.core k).scratch
  let m := g.savedScratch.poisoned.foldl (fun (m : Memory) p => m.setPoison (g.allocBase / 32 + p) true) m
  s.setCore k { s.core k with scratch := m, valid := (s.core k).valid ||| (g.savedValid <<< (g.allocBase / 32)) }

/-- A window saved FILLING or FAULTED reads its missing sectors at once (R248). -/
def resumeWindow (s : State) (h i : Nat) : State :=
  match s.group h with
  | none => s
  | some g =>
    let w := g.window i
    if w.state = .filling ∨ w.state = .faulted then
      let s := s.updWindow h i (fun w => { w with state := .filling, pend := [] })
      ((List.range w.sectors).filter (fun j => match g.core with
        | some c => !(s.core c).sectorValid (g.winFirst w + j)
        | none => false)).foldl (fun s j => s.post (.windowSectorArrival h i j)) s
    else s

/-- Courses saved WAITING enter the handler queue of the new core as new traps (R372). -/
def requeueWaiting (s : State) (h k : Nat) (g : Group) : State :=
  (g.courses.zipIdx).foldl (fun s e =>
    if e.1.trap = .waiting then
      (s.setCore k { s.core k with handlerQ := (s.core k).handlerQ ++ [(h, e.2)] }).post (.handlerEntry k)
    else s) s

/-- The matrix descriptors re-enter the queue together (R286). -/
def enterMatrix (s : State) (h k : Nat) (keep drop : List MatEntry) : State :=
  let s := drop.foldl dropEntry s
  let core := s.core k
  let q := core.matQ ++ keep.map (fun (e : MatEntry) => { e with headAt := s.time })
  let s := s.setCore k { core with matQ := q, matHold := core.matHold.filter (· != h) }
  if keep.isEmpty then s else (s.postOnce (.matrixEntryStart k)).postOnce (.matrixEntryStart (Nat.xor k 1))

/-- The core's handler reserve and the course that holds it are what the record says (R372, R404); a claim of the group's that
the record does not bear out ends. -/
def restoreHandler (s : State) (h k : Nat) (g : Group) : State :=
  let core := s.core k
  match g.handlerCourse with
  | some c =>
    let r := g.savedReserve.getD (core.reserve, core.reserveP)
    s.setCore k { core with handler := some (h, c), reserve := r.1, reserveP := r.2 }
  | none =>
    if core.handler.map (·.1) = some h then (s.setCore k { core with handler := none }).post (.handlerEntry k) else s

/-- The group of a record has a course in HANDLER, and another group's course is in HANDLER on the core: it waits (R372). -/
def handlerTaken (c : Core) (h : Nat) (g : Group) : Bool := g.handlerCourse.isSome && (c.handler.map (·.1)).any (· != h)

/-- A restore: the record checked, the descriptors entered when there is room for all that are to enter
(R286; log entry 128), and the group's state back on the core. -/
def restorePlacement (s : State) (h k : Nat) (g : Group) : State :=
  match checkRecord s g with
  | (none, s) => faultContext s (s.groupCtx g) h
  | (some v, s) =>
    let g := loadRecord s g v
    let keep := g.savedMat.filter (entryFits (s.core k))
    let drop := g.savedMat.filter (fun e => !entryFits (s.core k) e)
    if handlerTaken (s.core k) h g then s.post (.groupPlacementComplete h)
    else if 8 < (s.core k).matQ.length + keep.length then
      (s.setCore k { s.core k with matHold := (s.core k).matHold.filter (· != h) ++ [h] }).post (.groupPlacementComplete h)
    else
      let s := restoreHandler (restoreScratch s k g) h k g
      let s := s.updGroup h (fun _ => { g with
        savedScratch := Memory.empty, savedValid := 0, savedMat := [], savedReserve := none })
      let s := enterMatrix s h k keep drop
      let s := (List.range g.windows.length).foldl (fun s i => resumeWindow s h i) s
      becomeResident (requeueWaiting s h k g) h k

def execGroupPlacementComplete (grp : Nat) (s : State) : Out :=
  match s.group grp with
  | none => .next s
  | some g =>
    match g.state, g.core with
    | .placing, some k => .next (if g.placed then restorePlacement s grp k g else firstPlacement s grp k g)
    | _, _ => .next s

end Sys2Proof.Machine
end

