-- ==== Sys2Proof/Machine/Formats.lean ====
section
/-!
DEFINITION. The format manager (spec/03_format_slots.md, R51 to R62): the slot packets of a partition one at a time, the
checks of an image, and the steps FMT_BIND, FMT_RELEASE, FMT_VERIFY_COMPLETE, FMT_SLOT_ENABLE, FMT_SLOT_DISABLE and
FMT_DRAIN_COMPLETE.
-/

namespace Sys2Proof.Machine

/-! ### Replicas (R51, R52) -/

/-- The cores whose replicas the manager writes: those the partition owns and those lent to it. -/
def slotCores (s : State) (p : Nat) : List Nat := ((s.part p).cores ++ lentCores s p).eraseDups

def vecSlot (v : Vector Slot 16) (i : Nat) : Slot := if h : i < 16 then v[i] else Slot.empty
def vecSetSlot (v : Vector Slot 16) (i : Nat) (t : Slot) : Vector Slot 16 := if h : i < 16 then v.set i t else v

/-- Write a partition's replica of a slot in one core: the guest bank of a core lent to it, else the home bank. -/
def setReplica (s : State) (p slot k : Nat) (f : Slot → Slot) : State :=
  let c := s.core k
  if c.lentTo = some p then s.setCore k { c with guest := vecSetSlot c.guest slot (f (vecSlot c.guest slot)) }
  else if (s.part p).cores.contains k then s.setCore k { c with home := vecSetSlot c.home slot (f (vecSlot c.home slot)) }
  else s

/-- The manager's own record of a slot. -/
def Part.slot (p : Part) (i : Nat) : Slot := vecSlot p.slots i
def setManagerSlot (s : State) (p i : Nat) (t : Slot) : State := s.updPart p (fun q => { q with slots := vecSetSlot q.slots i t })

/-- The manager's record and every replica take one state and image; GEN stays (R53, R58). -/
def setSlotAll (s : State) (p i : Nat) (st : SlotState) (im : Option Image) : State :=
  let s := setManagerSlot s p i { (s.part p).slot i with state := st, image := im }
  (slotCores s p).foldl (fun s k => setReplica s p i k (fun t => { t with state := st, image := im })) s

/-! ### The checks of an image (R56, R57) -/

def imgMagic (h : Nat) : Nat := bitsNat h 31 0
def imgLen (h : Nat) : Nat := bitsNat h 63 32
def imgDesc (h : Nat) : Word := BitVec.ofNat 64 (bitsNat h 127 64)
def imgCanon (h : Nat) : Nat := bitsNat h 191 128
def imgMax (h : Nat) : Nat := bitsNat h 255 192
def imgSigner (h : Nat) : BitVec 256 := BitVec.ofNat 256 (bitsNat h 511 256)

/-- The header check of R56 over the first bytes of an image. -/
def imgHeaderOk (h : Nat) : Bool :=
  decide (imgMagic h = 0x4D46584B ∧ imgLen h % 4096 = 0 ∧ 8192 ≤ imgLen h ∧ imgLen h ≤ 524288)
    && bitsNat h 2047 512 == 0
    && bitsNat h (64 + 63) (64 + 40) / 2 ^ 5 == 0 && bitsNat h (64 + 44) (64 + 40) == 0 && bitsNat h (64 + 15) (64 + 7) == 0
    && descGen (imgDesc h) == 0 && descState (imgDesc h) == 0

def Val.isNan : Val → Bool
  | .nan => true
  | _ => false
def Val.isInf : Val → Bool
  | .inf _ => true
  | _ => false
def Val.isZero (neg : Bool) : Val → Bool
  | .zero s => s == neg
  | _ => false

/-- The magnitude of a positive finite value. -/
def posMag : Val → Option Ratio
  | .fin false m e => some (ratioOf m e)
  | _ => none

/-- The code of MAX_FINITE decodes to the largest positive finite value of the codes. -/
def maxFiniteOk (dec : Nat → Val) (codes : List Nat) (mx : Nat) : Bool :=
  match posMag (dec mx) with
  | some x => codes.all (fun c => match posMag (dec c) with
    | some y => y.le x
    | none => true)
  | none => false

/-- The codes that the INF and NAN fields name, for an exponent field of eb bits above f fraction bits (R58). -/
def namedSpecial (d : Word) (w eb : Nat) (c : Nat) : Bool × Bool :=
  let signBits := if descSign d = 1 then 1 else 0
  let body := w - signBits
  let mag := c % 2 ^ body
  let f := body - eb
  let top := mag / 2 ^ f == 2 ^ eb - 1
  let frac := mag % 2 ^ f
  (descInf d == 1 && top && frac == 0,
    (descNan d == 1 && mag == 2 ^ body - 1) || (descNan d == 2 && top && frac != 0))

/-- The zeros that the field ZERO names, the code of each and whether it is −0. That a format that is not one of R30's has
them at the codes that R31 gives those, −0 with SIGN = 1 alone, is the model's choice (R57, R58; log entry 139). -/
def namedZeros (d : Word) (w : Nat) : List (Nat × Bool) :=
  (if 1 ≤ descZero d then [(0, false)] else []) ++ (if descZero d = 2 ∧ descSign d = 1 then [(2 ^ (w - 1), true)] else [])

/-- The special codes match the fields ZERO, INF and NAN, for some split of exponent and fraction: the image does not
say where its exponent lies. -/
def specialsOk (d : Word) (w : Nat) (dec : Nat → Val) (codes : List Nat) : Bool :=
  (List.range w).any (fun eb => codes.all (fun c =>
    let n := namedSpecial d w eb c
    (dec c).isInf == n.1 && (dec c).isNan == n.2))
  && (codes.any (fun c => (dec c).isZero false) == decide (1 ≤ descZero d))
  && (codes.any (fun c => (dec c).isZero true) == decide (2 ≤ descZero d))

/-- The check of a format wider than 16 bits (R57): the codes that ZERO, INF and NAN name decode as named, for some split
of exponent and fraction, and no other code is looked at. -/
def namedOk (d : Word) (w : Nat) (dec : Nat → Val) (codes : List Nat) : Bool :=
  (List.range w).any (fun eb => codes.all (fun c =>
    let n := namedSpecial d w eb c
    (!n.1 || (dec c).isInf) && (!n.2 || (dec c).isNan)))
  && (namedZeros d w).all (fun z => (dec z.1).isZero z.2)

/-- SCLASS covers s significand bits. -/
def sclassCovers (d : Word) (s : Nat) : Bool := decide (s ≤ 2 * 2 ^ descSclass d) && decide (descSclass d ≤ 5)

/-- CANON_NAN decodes as its name says (R57), and is zero beside NAN = 0 (R56). -/
def canonOk (d : Word) (dec : Nat → Val) (canon : Nat) : Bool :=
  if descNan d = 0 then canon == 0 else decide (canon < 2 ^ descWidth d) && (dec canon).isNan

/-- The checks of R57 on what an image's own BITSTREAM yields, of a width that WIDTH allows. -/
def codesOk (d : Word) (canon mx digest : Nat) : Bool :=
  let w := descWidth d
  let dec := customRaw digest
  let codes := List.range (2 ^ w)
  (!descScale d || decide (w ≤ 8))
    && decide (descZero d ≤ 2 ∧ descInf d ≤ 1 ∧ descNan d ≤ 2 ∧ descSign d ≤ 2 ∧ descDefscale d ≤ 2)
    && codes.all (fun c => sclassCovers d (sigWidth (dec c)))
    && canonOk d dec canon
    && decide (mx < 2 ^ w) && maxFiniteOk dec codes mx && inDomain (dec mx)
    && (if w ≤ 16 then codes.all (fun c => inDomain (dec c)) && specialsOk d w dec codes else namedOk d w dec codes)

/-- The descriptor and domain checks of R57. An image that names a catalogue identifier has its descriptor; a vendor one then
decodes as the catalogue says, by construction, and the codes of any other image are decoded and checked. DOMAIN is also the
model's status for two defects that R57 does not list: a nonzero CANON_NAN beside NAN = 0 (R56) and a field that holds a code
R58 calls not used (log entry 107). -/
def imgDomainOk (d : Word) (canon mx digest : Nat) (vendor : Bool) : Bool :=
  match catalogueFind (descFormatId d) with
  | some (_, d', _, m, c) =>
    d == d' && (if vendor then canonOk d (decodeCode c) canon && mx == m else codesOk d canon mx digest)
  | none => decide (descFormatId d = 0xFF ∧ 2 ≤ descWidth d ∧ descWidth d ≤ 32) && codesOk d canon mx digest

/-- A checked image. The canonical NaN of a vendor catalogue image is that of R30 (R28; log entry 45). -/
def imageOf (d : Word) (canon mx digest : Nat) (vendor : Bool) : Image :=
  match catalogueFind (descFormatId d) with
  | some (_, _, n, _, _) => ⟨d, if vendor then n else canon, mx, digest, !vendor⟩
  | none => ⟨d, canon, mx, digest, !vendor⟩

/-! ### The image as it is fetched (R54) -/

/-- How far the checks of an image have come: it waits for a page; a status of R54; or it passes. The header's
descriptor shows from the moment it has been checked (R58). -/
inductive ImgCheck where
  | wait (shown : Option Word)
  | status (code : Nat)
  | pass (im : Image)

/-- The little-endian bytes of a number, without the checks of their length. -/
def imgDigest (v len : Nat) : Nat := (Config.sm3 (bytesOf (len - 64) v)).toNat

def checkImage (s : State) (ctx va : Nat) (p : Part) : ImgCheck × State :=
  let info : ReqInfo := ⟨ctx, .read, 7, none, imageAgent ctx⟩
  match ctxRead s info va 4096 with
  | (.error (.fault _), s) => (.wait none, s)
  | (.error _, s) => (.status 7, s)
  | (.ok (h, _), s) =>
    if !imgHeaderOk h then (.status 3, s)
    else if !(imgSigner h == Config.kraliaDigest 0 || p.formatKeys.contains (imgSigner h)) then (.status 6, s)
    else
      let len := imgLen h
      match ctxRead s info va len with
      | (.error (.fault _), s) => (.wait (some (imgDesc h)), s)
      | (.error _, s) => (.status 7, s)
      | (.ok (v, _), s) =>
        let dig := imgDigest v len
        let vendor := imgSigner h == Config.kraliaDigest 0
        if !Config.sm2Verify (imgSigner h) (BitVec.ofNat 256 dig) (bytesOf 64 (v / 256 ^ (len - 64))) then (.status 4, s)
        else if !imgDomainOk (imgDesc h) (imgCanon h) (imgMax h) dig vendor then (.status 5, s)
        else (.pass (imageOf (imgDesc h) (imgCanon h) (imgMax h) dig vendor), s)

/-- The digest of an image that a bound slot is compared with (R54): none while it waits; IMAGE_FAULT where a fetch meets a
fatal translation (R421), and SLOT_BUSY where its header says no length to read (log entry 41). -/
def sameImage (s : State) (ctx va : Nat) : Option (Except Nat Nat) × State :=
  let info : ReqInfo := ⟨ctx, .read, 7, none, imageAgent ctx⟩
  match ctxRead s info va 4096 with
  | (.error (.fault _), s) => (none, s)
  | (.error _, s) => (some (.error 7), s)
  | (.ok (h, _), s) =>
    if !imgHeaderOk h then (some (.error 1), s)
    else match ctxRead s info va (imgLen h) with
      | (.error (.fault _), s) => (none, s)
      | (.error _, s) => (some (.error 7), s)
      | (.ok (v, _), s) => (some (.ok (imgDigest v (imgLen h))), s)

/-! ### Jobs, one at a time (R54) -/

def queueCtx (s : State) (q : Nat) : Nat := ((alGet s.queues q).map (·.ctx)).getD 0
def queueOwner (s : State) (q : Nat) : Nat := ((alGet s.queues q).map (·.owner)).getD 0

/-- The job at the head ends with a code of R54: its packet completes. -/
def endJob (s : State) (p : Nat) (code : Nat) : State :=
  match (s.part p).slotJobs with
  | [] => s
  | j :: rest =>
    (s.updPart p (fun q => { q with slotJobs := rest })).post
      (.packetComplete j.queue j.index (if code = 0 then 0 else BitVec.ofNat 8 (0x10 + code)))

def setJobAcks (s : State) (p : Nat) (ks : List Nat) : State :=
  s.updPart p (fun q => { q with slotJobs := match q.slotJobs with
    | j :: rest => { j with acks := ks } :: rest
    | [] => [] })

/-- Begin the job at the head of the manager's list; a job that ends at once lets the next begin. The manager accepts a
packet when its turn comes: an FMT_BIND that waits behind another job leaves its slot EMPTY until then, and LOADING from then
on (R54, R58; log entry 115). -/
def startJobs (p : Nat) : Nat → State → State
  | 0, s => s
  | n + 1, s =>
    match (s.part p).slotJobs with
    | [] => s
    | j :: _ =>
      let t := (s.part p).slot j.slot
      if j.slot < 4 then startJobs p n (endJob s p 2)
      else if j.release then
        if t.state = .bound then
          let ks := slotCores s p
          let s := setJobAcks (setManagerSlot s p j.slot { t with state := .draining }) p ks
          (ks.foldl (fun s k => s.post (.fmtSlotDisable p j.slot k)) s).post (.fmtDrainComplete p j.slot)
        else startJobs p n (endJob s p 1)
      else if t.state = .empty then (setSlotAll s p j.slot .loading none).post (.fmtVerifyComplete p j.slot)
      else if t.state = .bound then s.post (.fmtVerifyComplete p j.slot)
      else startJobs p n (endJob s p 1)

def nextJobs (s : State) (p : Nat) : State := startJobs p (s.part p).slotJobs.length s

/-- A slot packet reaches the manager; it waits its turn behind those that came before it. -/
def acceptJob (s : State) (hdr : PktHdr) (slot image : Nat) (release : Bool) : State :=
  match alGet s.queues hdr.queue with
  | none => s
  | some q =>
    let idle := (s.part q.part).slotJobs.isEmpty
    let s := s.updPart q.part (fun p => { p with
      slotJobs := p.slotJobs ++ [⟨slot, release, image, hdr.queue, hdr.index, hdr, []⟩] })
    if idle then nextJobs s q.part else s

def execFmtBind (hdr : PktHdr) (slot : BitVec 8) (image : Word) (s : State) : Out :=
  .next (acceptJob s hdr slot.toNat image.toNat false)

def execFmtRelease (hdr : PktHdr) (slot : BitVec 8) (s : State) : Out := .next (acceptJob s hdr slot.toNat 0 true)

/-! ### Binding (R53, R57, R62) -/

/-- Every core has acknowledged the enable: the slot is BOUND, GEN rises, and one reconfiguration is charged. -/
def finishBind (s : State) (p : Nat) (j : FmtJob) : State :=
  let t := (s.part p).slot j.slot
  let s := setManagerSlot s p j.slot { t with state := .bound, gen := t.gen + 1 }
  nextJobs (endJob (charge s (queueOwner s j.queue) 4 1) p 0) p

/-- The checks have passed: VERIFIED in every replica, and the enables go out. -/
def passImage (s : State) (p : Nat) (j : FmtJob) (im : Image) : State :=
  let s := setSlotAll s p j.slot .verified (some im)
  let ks := slotCores s p
  if ks.isEmpty then finishBind s p j
  else ks.foldl (fun s k => s.post (.fmtSlotEnable p j.slot k)) (setJobAcks s p ks)

/-- The packet of a job is no longer in progress: its queue lost it with its function's interface (R469). -/
def jobGone (s : State) (j : FmtJob) : Bool :=
  !((alGet s.queues j.queue).map (fun q => q.started.any (fun e => e.index == j.index))).getD false

/-- FMT_VERIFY_COMPLETE: the image has been fetched and checked (R54, R56, R57). A job whose packet is gone fetches nothing
more, and its slot is EMPTY again (R469). -/
def execFmtVerifyComplete (part slot : Nat) (s : State) : Out :=
  match (s.part part).slotJobs with
  | [] => .next s
  | j :: _ =>
    let t := (s.part part).slot slot
    if j.slot ≠ slot ∨ j.release then .next s
    else if jobGone s j then
      .next (nextJobs (endJob (if t.state = .loading then setSlotAll s part slot .empty none else s) part 7) part)
    else if t.state = .bound then
      match sameImage s (queueCtx s j.queue) j.image with
      | (none, s) => .next (s.post (.fmtVerifyComplete part slot))
      | (some (.error c), s) => .next (nextJobs (endJob s part c) part)
      | (some (.ok d), s) => .next (nextJobs (endJob s part (if t.image.map (·.digest) = some d then 0 else 1)) part)
    else if t.state = .loading then
      match checkImage s (queueCtx s j.queue) j.image (s.part part) with
      | (.wait none, s) => .next (s.post (.fmtVerifyComplete part slot))
      | (.wait (some d), s) => .next ((setSlotAll s part slot .loading (some ⟨d, 0, 0, 0, false⟩)).post (.fmtVerifyComplete part slot))
      | (.status c, s) => .next (nextJobs (endJob (setSlotAll s part slot .empty none) part c) part)
      | (.pass im, s) => .next (passImage s part j im)
    else .next s

/-- A core no longer has a message of the job outstanding. -/
def ackCore (s : State) (p k : Nat) : State :=
  match (s.part p).slotJobs with
  | [] => s
  | j :: _ =>
    if j.acks.contains k then
      let left := j.acks.filter (· != k)
      let s := setJobAcks s p left
      if left.isEmpty ∧ !j.release ∧ ((s.part p).slot j.slot).state = .verified then finishBind s p j else s
    else s

/-- FMT_SLOT_ENABLE: the enable reaches one core (R62). -/
def execFmtSlotEnable (part slot core : Nat) (s : State) : Out :=
  match (s.part part).slotJobs with
  | [] => .next s
  | j :: _ =>
    if j.slot = slot ∧ !j.release ∧ j.acks.contains core then
      .next (ackCore (setReplica s part slot core (fun t => { t with state := .bound, gen := t.gen + 1 })) part core)
    else .next s

/-! ### Releasing (R55, R62) -/

/-- FMT_SLOT_DISABLE: the disable reaches one core. -/
def execFmtSlotDisable (part slot core : Nat) (s : State) : Out :=
  match (s.part part).slotJobs with
  | [] => .next s
  | j :: _ =>
    if j.slot = slot ∧ j.release ∧ j.acks.contains core then
      .next (ackCore (setReplica s part slot core (fun t => { t with state := .draining })) part core)
    else .next s

/-- An operation that passed the check of R61 is in flight on a core of the manager's: a long-latency result or a matrix
entry that names the slot. -/
def slotBusy (s : State) (p slot : Nat) : Bool :=
  s.groups.any (fun e => s.groupPart e.2 == p && e.2.core.isSome
      && e.2.courses.any (fun c => c.inflight.any (fun o => o.slots.contains slot)))
    || (slotCores s p).any (fun k => (s.core k).matQ.any (fun e =>
      (e.f.sla.toNat == slot || e.f.slb.toNat == slot) && (((s.group e.grp).map s.groupPart) == some p)))

/-- FMT_DRAIN_COMPLETE: no operation on the slot remains in flight, and it is EMPTY (R53, R55). -/
def execFmtDrainComplete (part slot : Nat) (s : State) : Out :=
  match (s.part part).slotJobs with
  | [] => .next s
  | j :: _ =>
    if j.slot = slot ∧ j.release ∧ ((s.part part).slot slot).state = .draining then
      if !j.acks.isEmpty ∨ slotBusy s part slot then .next (s.post (.fmtDrainComplete part slot))
      else .next (nextJobs (endJob (setSlotAll s part slot .empty none) part 0) part)
    else .next s

end Sys2Proof.Machine
end

