-- ==== Sys2Proof/Machine/Objects.lean ====
section
/-!
DEFINITION. Code objects (spec/15_kernels.md, R315 to R330; R331, R333 of spec/16_stage_graphs.md): the file as the loader
reads it, its checks in the order of R330, and the steps OBJECT_LOAD_COMPLETE, CODE_PAGE_CHECK_COMPLETE with the
revocation of R327, and OBJECT_DRAIN_COMPLETE.
-/

namespace Sys2Proof.Machine

/-! ### Reading the file (R330, R386) -/

/-- Reads of the file in order: the values, or whether one waits for a page (true) or is fatal (false). Poison of the file's
bytes is not looked at (log entry 148). -/
def readMany (info : ReqInfo) (base : Nat) : List (Nat × Nat) → State → Except Bool (List Nat) × State
  | [], s => (.ok [], s)
  | (off, n) :: rs, s =>
    match ctxRead s info ((base + off) % 2 ^ 64) n with
    | (.error (.fault _), s) => (.error true, s)
    | (.error _, s) => (.error false, s)
    | (.ok (v, _), s) =>
      match readMany info base rs s with
      | (.ok vs, s) => (.ok (v :: vs), s)
      | r => r

/-- n bytes from byte o of a little-endian value. -/
def fieldAt (v o n : Nat) : Nat := v / 256 ^ o % 256 ^ n

/-- A program header (ELF64). -/
structure Phdr where
  type : Nat
  flags : Nat
  offset : Nat
  vaddr : Nat
  filesz : Nat
  memsz : Nat

/-- A section header (ELF64). -/
structure Shdr where
  name : Nat
  type : Nat
  addr : Nat
  offset : Nat
  size : Nat

def phdrOf (v i : Nat) : Phdr :=
  let o := 56 * i
  ⟨fieldAt v o 4, fieldAt v (o + 4) 4, fieldAt v (o + 8) 8, fieldAt v (o + 16) 8, fieldAt v (o + 32) 8, fieldAt v (o + 40) 8⟩

def shdrOf (v i : Nat) : Shdr :=
  let o := 64 * i
  ⟨fieldAt v o 4, fieldAt v (o + 4) 4, fieldAt v (o + 16) 8, fieldAt v (o + 24) 8, fieldAt v (o + 32) 8⟩

/-- The loader's view of a file: its header, its header tables, and its section names. -/
structure ElfFile where
  hdr : Nat
  phs : List Phdr
  shs : List Shdr
  phRaw : Nat
  names : Nat
  namesLen : Nat

/-- The bytes of a name and its terminator. -/
def nameBytes (n : String) : List Nat := n.toList.map Char.toNat ++ [0]

/-- A section bears a name. -/
def ElfFile.named (f : ElfFile) (sh : Shdr) (n : String) : Bool :=
  let bs := nameBytes n
  decide (sh.name + bs.length ≤ f.namesLen) && (bs.zipIdx).all (fun e => fieldAt f.names (sh.name + e.2) 1 == e.1)

/-- The section of a recognised name: of two that bear it, the first in the order of the section headers (log entry 147). -/
def ElfFile.section (f : ElfFile) (n : String) : Option Shdr := f.shs.find? (fun sh => f.named sh n)

/-- The contents of a section in the file: a section of type NOBITS has none. -/
def Shdr.contents (sh : Shdr) : Nat × Nat := (sh.offset, if sh.type = 8 then 0 else sh.size)

/-- The ELF header, the header tables and the section names (R330 step 1). -/
def readElf (s : State) (info : ReqInfo) (base : Nat) : Except Bool ElfFile × State :=
  match readMany info base [(0, 64)] s with
  | (.ok [h], s) =>
    let pn := fieldAt h 56 2
    let sn := fieldAt h 60 2
    match readMany info base [(fieldAt h 32 8, 56 * pn), (fieldAt h 40 8, 64 * sn)] s with
    | (.ok [p, t], s) =>
      let shs := (List.range sn).map (shdrOf t)
      let str := (shs[fieldAt h 62 2]?.map Shdr.contents).getD (0, 0)
      match readMany info base [str] s with
      | (.ok [n], s) => (.ok ⟨h, (List.range pn).map (phdrOf p), shs, p, n, str.2⟩, s)
      | (.error w, s) => (.error w, s)
      | (_, s) => (.error false, s)
    | (.error w, s) => (.error w, s)
    | (_, s) => (.error false, s)
  | (.error w, s) => (.error w, s)
  | (_, s) => (.error false, s)

/-! ### R315, R316 -/

/-- The ELF header fields of R315. -/
def elfHeaderOk (h : Nat) : Bool :=
  fieldAt h 0 4 == 0x464C457F && fieldAt h 4 1 == 2 && fieldAt h 5 1 == 1 && fieldAt h 6 1 == 1 && fieldAt h 7 1 == 0xC7
    && fieldAt h 16 2 == 2 && fieldAt h 18 2 == 0x4B43 && fieldAt h 20 4 == 1 && fieldAt h 24 8 == 0
    && decide (fieldAt h 48 4 < 2) && fieldAt h 54 2 == 56 && fieldAt h 58 2 == 64

/-- e_flags bit 0: EMULATION. -/
def elfEmulation (h : Nat) : Bool := (fieldAt h 48 4).testBit 0

/-- A segment covers a section's addresses with the given permissions (4 R, 2 W, 1 X). -/
def covered (f : ElfFile) (sh : Shdr) (perm : Nat) : Bool :=
  f.phs.any fun p => p.type == 1 && decide (p.vaddr ≤ sh.addr) && decide (sh.addr + sh.size ≤ p.vaddr + p.memsz)
    && p.flags % 8 &&& perm == perm

/-- The address ranges of the PT_LOAD segments. -/
def ElfFile.ranges (f : ElfFile) : List (Nat × Nat) := (f.phs.filter (·.type == 1)).map (fun p => (p.vaddr, p.memsz))

/-- Two ranges share an address. -/
def rangesMeet (a b : Nat × Nat) : Bool := decide (a.1 < b.1 + b.2 ∧ b.1 < a.1 + a.2)

/-- The sections of R316 and the free address ranges of R315; others are the ranges of the context's other objects. Ranges of the
object itself that meet are refused too (log entry 146). -/
def elfSectionsOk (f : ElfFile) (others : List (Nat × Nat)) : Bool :=
  let sized (n : String) (unit lo hi : Nat) : Bool := match f.section n with
    | some sh => sh.size % unit == 0 && decide (lo ≤ sh.size / unit) && decide (sh.size / unit ≤ hi)
    | none => true
  let writable (n : String) : Bool := match f.section n with
    | some sh => sh.size == 0 || covered f sh 6
    | none => true
  f.shs.all (fun sh => sh.type != 4 && sh.type != 9)
    && (match f.section ".itlos.text" with
      | some t => t.addr % 65536 == 0 && t.size % 65536 == 0 && decide (1 ≤ t.size / 65536) && decide (t.size / 65536 ≤ 4096)
          && canonical t.addr && t.type != 8
          && f.phs.any (fun p => p.type == 1 && p.vaddr == t.addr && p.offset == t.offset && p.filesz == t.size
            && p.memsz == t.size && p.flags % 8 &&& 5 == 5)
      | none => false)
    && writable ".itlos.data" && writable ".itlos.bss"
    && sized ".itlos.features" 64 1 1 && sized ".itlos.kernels" 128 1 256
    && (f.section ".itlos.emul").isSome == elfEmulation f.hdr
    && (f.section ".itlos.manifest").isSome
    && f.ranges.all (fun r => decide (r.1 + r.2 ≤ 2 ^ 64) && canonical r.1 && (r.2 == 0 || canonical (r.1 + r.2 - 1))
      && others.all (fun o => !rangesMeet r o))
    && (f.ranges.zipIdx).all (fun a => (f.ranges.zipIdx).all (fun b => a.2 == b.2 || !rangesMeet a.1 b.1))

/-! ### The manifest (R323, R324) -/

/-- Sections whose contents DATA_DIGEST leaves out. -/
def digestSkips (f : ElfFile) (sh : Shdr) : Bool :=
  [".itlos.text", ".itlos.manifest", ".itlos.bss", ".symtab", ".strtab"].any (f.named sh)

/-- What DATA_DIGEST covers, as ranges of the file in order. -/
def digestRanges (f : ElfFile) : List (Nat × Nat) :=
  [(0, 64), (fieldAt f.hdr 32 8, 56 * f.phs.length)] ++ (f.shs.filter (fun sh => !digestSkips f sh)).map Shdr.contents

/-- The bytes of values of given lengths, one after another. -/
def joinBytes : List (Nat × Nat) → List Nat → List Byte
  | r :: rs, v :: vs => bytesOf r.2 v ++ joinBytes rs vs
  | _, _ => []

/-- Steps 1 to 4 of R324, as the status of R330. m is the manifest of len bytes. -/
def manifestStatus (p : Part) (f : ElfFile) (m len : Nat) (data : List Byte) : Nat :=
  match f.section ".itlos.text" with
  | none => 1
  | some t =>
    let pages := t.size / 65536
    let signer : BitVec 256 := BitVec.ofNat 256 (fieldAt m 0x10 32)
    if fieldAt m 0 4 ≠ 0x4E4D584B ∨ fieldAt m 4 4 ≠ pages ∨ fieldAt m 8 8 ≠ t.addr ∨ fieldAt m 0x50 48 ≠ 0
        ∨ len ≠ 0x80 + 32 * pages + 64 then 1
    else if !(signer == Config.kraliaDigest 1 || p.codeKeys.contains signer) then 3
    else if !Config.sm2Verify signer (Config.sm3 (bytesOf (0x80 + 32 * pages) m)) (bytesOf 64 (m / 256 ^ (0x80 + 32 * pages))) then 4
    else if (Config.sm3 data).toNat ≠ fieldAt m 0x30 32 then 5
    else 0

/-! ### Kernels, emulation entries, graph (R317, R318, R321, R331, R333) -/

/-- A kernel descriptor, when it keeps R317 and R318. -/
def kernelOf (v textVa textLen : Nat) : Option Kernel :=
  let entry := fieldAt v 0 8
  let roles := (List.range 4).map (fun i => fieldAt v (0x18 + 4 * i) 4)
  let used := roles.takeWhile (fun r => r % 256 != 0)
  let k : Kernel :=
    { entry := BitVec.ofNat 64 entry, scratch := fieldAt v 0x0C 2, ztiles := fieldAt v 0x0E 1, windows := fieldAt v 0x0F 1
      barriers := fieldAt v 0x10 1, coresident := (fieldAt v 0x11 1).testBit 0, dlim := fieldAt v 0x12 2
      psize := fieldAt v 0x14 4, roles := used.map (fun r => (r % 256, r / 65536))
      slotReq := (List.range 12).map (fun i => fieldAt v (0x28 + i) 1) }
  if pcValid k.entry ∧ textVa ≤ entry ∧ entry < textVa + textLen ∧ k.scratch ≤ 384 ∧ k.ztiles ≤ 16 ∧ k.windows ≤ 64
      ∧ k.barriers ≤ 16 ∧ fieldAt v 0x11 1 < 2 ∧ k.dlim ≤ 1023 ∧ k.psize % 64 = 0 ∧ k.psize ≤ 65536
      ∧ fieldAt v 0x34 76 = 0 ∧ 1 ≤ used.length ∧ (roles.drop used.length).all (· % 65536 == 0)
      ∧ used.all (fun r => r % 256 ≤ 32 && r / 256 % 256 == 0 && r / 65536 % 8 == 0 && 8 ≤ r / 65536 && r / 65536 ≤ 256)
      ∧ (k.roles.map (·.1)).sum ≤ 32 ∧ k.use.ok ∧ 8 * (k.dlim - 8) ≤ k.psize
  then some k else none

/-- An emulation entry: its feature bit and routine, when it keeps R321. -/
def emulOf (v textVa textLen : Nat) : Option (Nat × Word) :=
  let f := fieldAt v 0 2
  let a := fieldAt v 8 8
  if 1 ≤ f ∧ f ≤ 15 ∧ fieldAt v 2 6 = 0 ∧ pcValid (BitVec.ofNat 64 a) ∧ textVa ≤ a ∧ a < textVa + textLen
  then some (f, BitVec.ofNat 64 a) else none

def nodeKindOf (n : Nat) : NodeKind :=
  match n with
  | 0 => .gather
  | 1 => .keyed
  | 2 => .persistent
  | _ => .entry

/-- A node declaration as it stands. -/
def nodeOf (v : Nat) : Node :=
  { kernel := fieldAt v 0 2, rsz := fieldAt v 2 2, kind := nodeKindOf (fieldAt v 4 1), dmax := fieldAt v 5 1
    rank := fieldAt v 6 1, revocable := (fieldAt v 7 1).testBit 0, redundant := (fieldAt v 7 1).testBit 1
    quantum := fieldAt v 8 2, timer := fieldAt v 0x0C 4, succ := BitVec.ofNat 256 (fieldAt v 0x10 32) }

/-- The rules of R331 for one entry. -/
def nodeFieldsOk (v : Nat) (kernels : Nat) : Bool :=
  let n := nodeOf v
  decide (n.kernel < kernels ∧ 16 ≤ n.rsz ∧ n.rsz ≤ 1024 ∧ n.rsz % 16 = 0 ∧ fieldAt v 4 1 ≤ 3 ∧ 1 ≤ n.dmax
      ∧ fieldAt v 7 1 < 4 ∧ 1 ≤ n.quantum ∧ n.quantum ≤ 1024 ∧ fieldAt v 0x0A 2 = 0 ∧ n.timer ≤ 16777215 ∧ fieldAt v 0x30 16 = 0)
    && (n.kind != .persistent || (n.quantum == 1 && n.timer == 0))

/-- The rules of R333 for node i of a graph. -/
def nodeGraphOk (ns : List Node) (ks : List Kernel) (i : Nat) (n : Node) : Bool :=
  let k := ks.getD n.kernel ⟨0, 0, 0, 0, 0, false, 0, 0, [], []⟩
  (List.range 256).all (fun t => !n.succ.getLsbD t || match ns[t]? with
    | some m => m.kind != .entry && m.kind != .persistent
        && (if t = i then n.kind == .gather || n.kind == .keyed else decide (n.rank < m.rank))
    | none => false)
  && (n.kind == .persistent || (decide (n.quantum ≤ k.lanes) && decide ((n.quantum * n.rsz + 1023) / 1024 ≤ k.scratch)))
  && (!k.coresident || n.kind == .persistent || (n.kind == .entry && n.succ == 0))

/-! ### The load (R329, R330) -/

/-- Values of n entries of a section. -/
def entriesOf (v size n : Nat) : List Nat := (List.range n).map (fun i => fieldAt v (size * i) size)

/-- The bits a partition lacks of those an object requires (R319). -/
def lackingBits (p : Part) (features : BitVec 512) : List Nat :=
  (List.range 512).filter (fun f => features.getLsbD f && (16 ≤ f || !(p.features.getLsbD f)))

/-- The emulation object that a bit is bound to: of those loaded into the context that list it, the first (R320). -/
def emulFor (s : State) (ctx f : Nat) : Option (Nat × Word × Nat) :=
  s.objects.findSome? fun e =>
    if e.2.ctx = ctx ∧ e.2.state = .ready ∧ e.2.emulation then
      (e.2.emul.find? (fun x => x.1 == f)).map (fun x => (f, x.2, e.1))
    else none

/-- A section holds whole entries of a size, lo to hi of them; a file without the section does too. -/
def wholeEntries (f : ElfFile) (n : String) (size lo hi : Nat) : Bool :=
  match f.section n with
  | some sh => sh.contents.2 % size == 0 && decide (lo ≤ sh.contents.2 / size) && decide (sh.contents.2 / size ≤ hi)
  | none => true

/-- Steps 3 to 5 of R330: the object with its contents, or a status. emulOk and graphOk: the entries of .itlos.emul and
.itlos.graph are whole, and of the latter 1 to 256 (R321, R331). -/
def contentStatus (s : State) (p : Part) (o : Obj) (emulation kralia emulOk graphOk : Bool) (textLen : Nat) (features : BitVec 512)
    (kerns emuls nodes : List Nat) : Except Nat Obj :=
  let ks := kerns.map (fun v => kernelOf v o.textVa textLen)
  let es := emuls.map (fun v => emulOf v o.textVa textLen)
  let ns := nodes.map nodeOf
  let lack := lackingBits p features
  if !emulOk || ks.any (·.isNone) || es.any (·.isNone) || ns.any (fun n => n.revocable && n.redundant)
      || (emulation && (!kralia || !kerns.isEmpty || !lack.isEmpty)) then .error 2
  else
    let kernels := ks.filterMap id
    if !(graphOk && nodes.all (fun v => nodeFieldsOk v kernels.length) && (ns.zipIdx).all (fun e => nodeGraphOk ns kernels e.2 e.1)) then .error 8
    else if lack.any (16 ≤ ·) then .error 6
    else
      let bound := lack.map (emulFor s o.ctx)
      if bound.any (·.isNone) then .error 7
      else .ok { o with
        emulation := emulation, emul := es.filterMap id, features := features, bound := bound.filterMap id,
        kernels := kernels, nodes := ns }

/-- How the load of an object ends now: it waits, it has a status, or it is as checked with what is to be written. -/
inductive LoadRes where
  | wait
  | status (code : Nat)
  | pass (o : Obj) (writes : List (Nat × Nat × Nat))

/-- The writes of a load: the contents of .itlos.data and zeros for .itlos.bss. -/
def loadWrites (f : ElfFile) (data : Nat) : List (Nat × Nat × Nat) :=
  (match f.section ".itlos.data" with
    | some sh => [(sh.addr, sh.size, data)]
    | none => [])
  ++ (match f.section ".itlos.bss" with
    | some sh => [(sh.addr, sh.size, 0)]
    | none => [])

/-- The checks of R330 in their order. -/
def loadCheck (s : State) (h : Nat) (o : Obj) (p : Part) : LoadRes × State :=
  let info : ReqInfo := ⟨o.ctx, .read, 8, none, loadAgent h⟩
  match readElf s info o.image with
  | (.error true, s) => (.wait, s)
  | (.error false, s) => (.status 9, s)
  | (.ok f, s) =>
    let others := (s.objects.filter (fun e => e.2.ctx == o.ctx && e.2.state != .unloaded)).flatMap (·.2.ranges)
    if !elfHeaderOk f.hdr || !elfSectionsOk f others then (.status 1, s)
    else
      let at_ (n : String) : Nat × Nat := ((f.section n).map Shdr.contents).getD (0, 0)
      let man := at_ ".itlos.manifest"
      let digs := digestRanges f
      match readMany info o.image (man :: digs) s with
      | (.error true, s) => (.wait, s)
      | (.ok (m :: vs), s) =>
        let st := manifestStatus p f m man.2 (joinBytes digs vs)
        if st ≠ 0 then (.status st, s)
        else
          let t := (f.section ".itlos.text").getD ⟨0, 0, 0, 0, 0⟩
          let kr := at_ ".itlos.kernels"
          let er := at_ ".itlos.emul"
          let nr := at_ ".itlos.graph"
          match readMany info o.image [at_ ".itlos.features", kr, er, nr, at_ ".itlos.data"] s with
          | (.error true, s) => (.wait, s)
          | (.ok [fv, kv, ev, nv, dv], s) =>
            let o := { o with
              textVa := t.addr, textOff := t.offset, ranges := f.ranges
              pages := List.replicate (t.size / 65536) .absent
              askers := []
              digests := (entriesOf (m / 256 ^ 0x80) 32 (t.size / 65536)).map (BitVec.ofNat 256)
              dataDigest := BitVec.ofNat 256 (fieldAt m 0x30 32), manifestDigest := Config.sm3 (bytesOf man.2 m) }
            let kralia := BitVec.ofNat 256 (fieldAt m 0x10 32) == Config.kraliaDigest 1
            match contentStatus s p o (elfEmulation f.hdr) kralia (wholeEntries f ".itlos.emul" 16 0 (2 ^ 64))
                (wholeEntries f ".itlos.graph" 64 1 256) t.size (BitVec.ofNat 512 fv) (entriesOf kv 128 (kr.2 / 128))
                (entriesOf ev 16 (er.2 / 16)) (entriesOf nv 64 (nr.2 / 64)) with
            | .error c => (.status c, s)
            | .ok o => (.pass { o with report := o.loadReport } (loadWrites f dv), s)
          | (_, s) => (.status 9, s)
      | (_, s) => (.status 9, s)

/-- The writes of a load: whether one waits (some true) or is fatal (some false). -/
def writeMany (info : ReqInfo) : List (Nat × Nat × Nat) → State → Option Bool × State
  | [], s => (none, s)
  | (va, n, v) :: ws, s =>
    match ctxWrite s info va n v with
    | (.fault _, s) => (some true, s)
    | (.fatal _, s) => (some false, s)
    | (.ok _, s) => writeMany info ws s

/-- The LOAD_OBJECT command ends with 0x10 + a status of R330, and the object is READY or UNLOADED. -/
def endLoad (s : State) (h : Nat) (o : Obj) (code : Nat) : State :=
  endCtxCommand (s.updObj h (fun _ => { o with state := if code = 0 then .ready else .unloaded })) o.ctx (BitVec.ofNat 8 (0x10 + code))

/-- OBJECT_LOAD_COMPLETE: the object is checked and its data written; while a page is awaited the step comes round
again. A fatal translation of a write of .itlos.data or .itlos.bss gives IMAGE_FAULT too (log entry 134). -/
def execObjectLoadComplete (obj : Nat) (s : State) : Out :=
  match alGet s.objects obj with
  | none => .next s
  | some o =>
    if o.state ≠ .loading then .next s
    else
      match loadCheck s obj o (s.part ((s.fn o.fn).part.getD 16)) with
      | (.wait, s) => .next (s.post (.objectLoadComplete obj))
      | (.status c, s) => .next (endLoad s obj o c)
      | (.pass o' ws, s) =>
        match writeMany ⟨o.ctx, .write, 8, none, loadAgent obj⟩ ws s with
        | (some true, s) => .next (s.post (.objectLoadComplete obj))
        | (some false, s) => .next (endLoad s obj o 9)
        | (none, s) => .next (endLoad s obj o' 0)

/-! ### Revocation (R327, R328) -/

/-- The error record of CODE_INTEGRITY: its PC is the failed page's address, which names the object and the page. -/
def integrityRecord (s : State) (h : Nat) (pc : Word) : State :=
  match s.group h with
  | none => s
  | some g => if g.alive then terminateWith s h 4 0x22 0 pc 0xFF 0xFF else s

/-- One launch of a revoked object: a group that can retire does, every other live group is terminated, each with an error
record, and the launch is over and untrusted; a launch that has no group left by then has the one record (R327, R328). -/
def revokeLaunch (pc : Word) (s : State) (li : Nat) : State :=
  match s.launch li with
  | none => s
  | some l =>
    if l.done then s
    else
      let hs := (s.launchGroups li).map (·.1)
      let s := s.updLaunch li (fun l => { l with untrusted := true })
      let s := hs.foldl (fun s h => match retireNow s h with
        | some t => t
        | none => s) s
      let left := (s.launchGroups li).map (·.1)
      let s := left.foldl (fun s h => integrityRecord s h pc) s
      let s := if left.isEmpty then
          writeErr s l.ctx (ErrInfo.bits ⟨pc, 0, none, l.root, 0xFF, 0xFF, 4, 0x22, 0⟩)
        else s
      endLaunch s li

/-- Revoke one object (R327). -/
def revokeOne (pc : Word) (s : State) (h : Nat) : State :=
  match alGet s.objects h with
  | none => s
  | some o =>
    let s := s.updObj h (fun o => { o with
      state := if o.state = .ready then .revoked else o.state, revocations := o.revocations + 1 })
    ((s.launches.filter (fun e => e.2.obj == h && e.2.ctx == o.ctx)).map (·.1)).foldl (revokeLaunch pc) s

/-- A failed page revokes its object and every object bound to it. -/
def revoke (s : State) (h page : Nat) : State :=
  match alGet s.objects h with
  | none => s
  | some o =>
    let pc := BitVec.ofNat 64 (o.textVa + 65536 * page)
    let bound := (s.objects.filter (fun e => e.1 != h && e.2.state != .unloaded && e.2.bound.any (fun b => b.2.2 == h))).map (·.1)
    (h :: bound).foldl (revokeOne pc) s

/-! ### Code pages (R325) -/

def setPage (s : State) (h page : Nat) (st : PageState) : State :=
  s.updObj h (fun o => { o with pages := o.pages.set page st })

/-- How the check of a page stands: a page of memory is awaited, it fails, or its digest matches. -/
inductive PageCheck where
  | wait
  | failed
  | good
  deriving DecidableEq, Repr

/-- The check of a page (R325): it is copied from the file image to its text address, and its digest decides. It fails too
where the image read meets a fatal translation, or the text address does (log entry 133); poison of the image's bytes is not
looked at (log entry 148). -/
def checkPage (s : State) (obj page : Nat) (o : Obj) : PageCheck × State :=
  match ctxRead s ⟨o.ctx, .read, 8, none, pageAgent obj page⟩ ((o.image + o.textOff + 65536 * page) % 2 ^ 64) 65536 with
  | (.error (.fault _), s) => (.wait, s)
  | (.error _, s) => (.failed, s)
  | (.ok (v, _), s) =>
    match ctxWrite s ⟨o.ctx, .exec, 8, none, pageAgent obj page⟩ (o.textVa + 65536 * page) 65536 v with
    | (.fault _, s) => (.wait, s)
    | (.fatal _, s) => (.failed, s)
    | (.ok _, s) => (if Config.sm3 (bytesOf 65536 v) = o.digests.getD page 0 then .good else .failed, s)

/-- The other pages being checked that fail too, of those given. -/
def failingPages (obj : Nat) (o : Obj) : List Nat → State → List Nat × State
  | [], s => ([], s)
  | k :: ks, s =>
    let c := checkPage s obj k o
    let r := failingPages obj o ks c.2
    if c.1 = .failed then (k :: r.1, r.2) else r

/-- A page fails: the others being checked fail together with it, or not, as the free value says; the object is revoked
once, and the lowest of them is named (R327, R328; log entry 117). -/
def failPages (s : State) (obj page : Nat) (o : Obj) : State :=
  let (f, s) := s.takeFree
  let others := (List.range o.pages.length).filter (fun k => k != page && o.pages.getD k .absent == .loading)
  let (more, s) := if f % 2 = 1 then failingPages obj o others s else ([], s)
  let s := (page :: more).foldl (fun s k => setPage s obj k .failed) s
  wakeAll (revoke s obj (more.foldl min page))

/-- CODE_PAGE_CHECK_COMPLETE: the page is copied from the file image to its text address and its digest decides. -/
def execCodePageCheckComplete (obj page : Nat) (s : State) : Out :=
  match alGet s.objects obj with
  | none => .next s
  | some o =>
    if o.pages.getD page .absent ≠ .loading ∨ o.state = .unloaded then .next s
    else
      match checkPage s obj page o with
      | (.wait, s) => .next (s.post (.codePageCheckComplete obj page))
      | (.failed, s) => .next (failPages s obj page o)
      | (.good, s) => .next (wakeAll (setPage s obj page .present))

/-! ### The end of an object (R329, R488) -/

/-- No group of the object's launches is left, and no other object binds it. -/
def drained (s : State) (h : Nat) : Bool :=
  !s.groups.any (fun e => e.2.alive && ((s.launch e.2.launch).map (·.obj)) == some h)
    && !s.objects.any (fun e => e.1 != h && e.2.state != .unloaded && e.2.bound.any (fun b => b.2.2 == h))

/-- The object's lines leave the instruction cache of every core. -/
def dropLines (s : State) (o : Obj) : State :=
  { s with cores := s.cores.map (fun e => (e.1, { e.2 with
      icache := e.2.icache.filter (fun l => !(l.1.2 == o.ctx && decide (o.textVa ≤ l.1.1 ∧ l.1.1 < o.textVa + 65536 * o.pages.length))) })) }

/-- The object is UNLOADED: its text, data and bindings are released, and lanes held at a page of it that was being checked
fetch again (R326). -/
def unloadNow (s : State) (h : Nat) : State :=
  match alGet s.objects h with
  | none => s
  | some o => wakeAll ((dropLines s o).updObj h (fun o => { o with state := .unloaded, bound := [], ranges := [], pages := [] }))

def execObjectDrainComplete (obj : Nat) (s : State) : Out :=
  match alGet s.objects obj with
  | none => .next s
  | some o =>
    if o.state ≠ .draining then .next s
    else if drained s obj then .next (unloadNow s obj)
    else .next (s.post (.objectDrainComplete obj))

end Sys2Proof.Machine
end

