-- ==== Sys2Proof/Machine/Events.lean ====
section
/-!
DEFINITION. Events and interrupts (spec/24_queues.md, R427 to R429): an event's stamp at its submission, EVENT_RECORD_WRITE
and EVT_HEAD_WRITE, and MSI-X messages with their pause.
-/

namespace Sys2Proof.Machine

/-- A function takes MMIO requests: not while its TDI is in ERROR (R469), and in RECOVERY only what REGISTER_WRITE lets
through (R477). -/
def takesMmio (s : State) (fn : Nat) : Bool := (s.fn fn).tdi != .error && !s.boot.recovery

/-! ### MSI-X messages (R427, R429) -/

/-- A vector's message: sent, or held pending while the function is paused; a TDI in ERROR sends none (R469). -/
def signalVector (s : State) (fn v : Nat) : State :=
  s.updFn fn fun f =>
    if f.tdi = .error then f
    else if f.pause then { f with msixHeld := f.msixHeld ||| (1#2 <<< v) }
    else { f with msixSent := v :: f.msixSent, msix0Busy := f.msix0Busy || v == 0 }

/-- Vector 0 after TAIL advances, unless an earlier message waits for a write of EVT_HEAD. -/
def signalEvent (s : State) (fn : Nat) : State := if (s.fn fn).msix0Busy then s else signalVector s fn 0

/-- The messages held while paused are signalled once each. -/
def releaseHeld (s : State) (fn : Nat) : State :=
  let held := (s.fn fn).msixHeld
  let s := s.updFn fn (fun f => { f with msixHeld := 0 })
  let s := if held.getLsbD 0 then signalVector s fn 0 else s
  if held.getLsbD 1 then signalVector s fn 1 else s

/-! ### Events -/

/-- The partition's arbiter stamps an event; its record write is due (R427, R428). -/
def submitEvent (s : State) (p fn : Nat) (kind : BitVec 8) (data : Word) (tag : BitVec 32) (qid : BitVec 16) : State :=
  let e : Event := ⟨(s.part p).stamp, data, tag, qid, kind, fn, (s.fn fn).gen, none, none⟩
  (s.updPart p (fun q => { q with stamp := q.stamp + 1, events := q.events ++ [e] })).post (.eventRecordWrite p)

/-- A KIND 4 or KIND 5 event. -/
def partEvent (s : State) (p : Nat) (kind : BitVec 8) (data : Word) : State := submitEvent s p (partFn s p) kind data 0 0

/-! ### Records -/

/-- An event's DATA as its record is written: a link event shows the port's LNK_STAT then. -/
def Event.filled (s : State) (e : Event) : Event :=
  match e.port with
  | some k => { e with data := lnkStat s k }
  | none => e

/-- The 32 bytes of an event record (R427). -/
def Event.bits (e : Event) : Nat :=
  e.stamp.toNat + e.data.toNat * 2 ^ 64 + e.tag.toNat * 2 ^ 128 + e.qid.toNat * 2 ^ 160 + e.kind.toNat * 2 ^ 176
    + e.gen.toNat * 2 ^ 192

/-- Records in an event ring: 64 × 2^s, or none while EVT_BASE has no address. -/
def Fn.evtSize (f : Fn) : Option Nat :=
  if f.evtBase.toNat / 4096 = 0 then none else some (64 * 2 ^ (f.evtBase.toNat % 8))

/-- EVENT_RECORD_WRITE: the oldest event of a partition is written to its function's ring, or dropped: of an older
generation, or of a VF whose TDI is in ERROR, without a trace (R469), for want of room with a count in EVT_LOST. It waits for the link to the host. -/
def execEventRecordWrite (part : Nat) (s : State) : Out :=
  match (s.part part).events with
  | [] => .next s
  | e :: rest =>
    let s₀ := s
    let s := s.updPart part (fun q => { q with events := rest })
    let f := s.fn e.fn
    if e.gen ≠ f.gen ∨ f.tdi = .error then .next s
    else
      match f.evtSize with
      | none => .next (s.updFn e.fn (fun f => { f with evtLost := f.evtLost + 1 }))
      | some n =>
        if !linkCarries s .host || linkTrains s .host then .next (s₀.post (.eventRecordWrite part))
        else if n ≤ (f.evtTail - f.evtHead).toNat then .next (s.updFn e.fn (fun f => { f with evtLost := f.evtLost + 1 }))
        else
          let s := s.store .host (f.evtBase.toNat / 4096 * 4096 + 32 * (f.evtTail.toNat % n)) 32 (e.filled s).bits
          .next (signalEvent (s.updFn e.fn (fun f => { f with evtTail := f.evtTail + 1 })) e.fn)

/-- EVT_HEAD_WRITE: software has read records, and vector 0 may be signalled again (R427). -/
def execEvtHeadWrite (fn : Nat) (value : Word) (s : State) : Out :=
  if !takesMmio s fn then .next s
  else .next (s.updFn fn (fun f => { f with evtHead := value, msix0Busy := false }))

/-! ### The states of a queue (R415, R416) -/

/-- What holds a queue SUSPENDED: its context SAVING or SAVED, its function paused, or its link down (R415, R466). -/
def mustSuspend (s : State) (q : Queue) : Bool :=
  (s.fn q.fn).pause || (s.fn q.fn).linkDown || match alGet s.ctxs q.ctx with
    | some c => c.state == .saving || c.state == .saved
    | none => false

/-- The time BLOCKED is counted up to now, or from now (R424: SUSPENDED time does not count). -/
def Queue.stopClock (q : Queue) (now : Nat) : Queue :=
  if q.state = .blocked then { q with wait := q.wait.map (fun x => { x with spent := x.spent + (now - x.since) }) } else q
def Queue.startClock (q : Queue) (now : Nat) : Queue := { q with wait := q.wait.map (fun x => { x with since := now }) }

/-- A queue is SUSPENDED where the rules hold it so, and remembers the state it had. -/
def suspendQueue (s : State) (h : Nat) : State :=
  match alGet s.queues h with
  | none => s
  | some q =>
    if mustSuspend s q ∧ (q.state = .unmapped ∨ q.state = .mapped ∨ q.state = .blocked) then
      s.updQueue h (fun q => { q.stopClock (s.seqCycle q.seq) with before := q.state, state := .suspended })
    else s

/-- A queue that nothing holds any more returns to its state; an unmet WAIT_MEM is tested again. -/
def resumeQueue (s : State) (h : Nat) : State :=
  match alGet s.queues h with
  | none => s
  | some q =>
    if q.state = .suspended ∧ !mustSuspend s q then
      let s := (s.updQueue h (fun q => { q.startClock (s.seqCycle q.seq) with state := q.before, waitSince := s.time })).post (.queueMap q.part)
      match q.before with
      | .mapped => s.post (.packetStart h)
      | .blocked => s.post (.waitMemRetest h)
      | _ => s
    else s

/-- The handles of the queues that keep a predicate. -/
def queuesWhere (s : State) (p : Queue → Bool) : List Nat := (s.queues.filter (fun e => e.2.state != .destroyed && p e.2)).map (·.1)

/-- The queue takes no further packet; started packets run on (R413). -/
def destroyQueue (s : State) (h : Nat) : State :=
  match alGet s.queues h with
  | none => s
  | some q =>
    (s.updQueue h (fun q => { q with state := .destroyed, thread := false, launching := false, rptrDue := none })).post (.queueMap q.part)

/-- A completion word (R420). -/
def cplWord (index : BitVec 32) (type status : BitVec 8) : Word :=
  (index.setWidth 64 <<< 32) ||| (type.setWidth 64 <<< 16) ||| (status.setWidth 64 <<< 8)

/-- An event of a queue's packet; none once a reset has destroyed the queue, or its partition is being destroyed (R427,
R429, R446). -/
def queueEvent (s : State) (q : Queue) (kind : BitVec 8) (data : Word) (tag : BitVec 32) : State :=
  if q.gen = (s.fn q.fn).gen ∧ (s.part q.part).state ≠ .destroying then submitEvent s q.part q.fn kind data tag (BitVec.ofNat 16 q.qid) else s

/-- A queue enters ERROR with its error event (R414, R420); a DESTROYED one does not. -/
def failQueue (s : State) (h : Nat) (data : Word) (tag : BitVec 32) : State :=
  match alGet s.queues h with
  | none => s
  | some q =>
    if q.state = .destroyed then s
    else
      let s := s.updQueue h (fun q => { q with state := .error, thread := false, launching := false })
      (queueEvent s q 3 data tag).post (.queueMap q.part)

end Sys2Proof.Machine
end

