-- ==== Sys2Proof/Machine/Contexts.lean ====
section
/-!
DEFINITION. The context commands (spec/23_contexts.md, R397, R399, R400): CTX_CREATE, CTX_DESTROY, LOAD_OBJECT,
UNLOAD_OBJECT, SAVE, RESTORE and CHECKPOINT, each the step of a write of CTX_CMD with its OP.
-/

namespace Sys2Proof.Machine

/-! ### Commands -/

/-- The context a CTXID names in a function: the one not DESTROYED, else the last one destroyed (R399). -/
def findCtx (s : State) (fn id : Nat) : Option (Nat × Ctx) :=
  let cs := s.ctxs.filter (fun e => e.2.fn == fn && e.2.ctxid == id)
  (cs.find? (fun e => e.2.state != .destroyed)).or cs.getLast?

/-- A function belongs to an ACTIVE partition, and no SHRINK is taking it away: its commands are taken (R436, R442, R445). -/
def fnActive (s : State) (fn : Nat) : Bool :=
  match (s.fn fn).part with
  | some p => (s.part p).state == .active && (s.part p).funcs.contains fn
  | none => false

/-- CTX_STATUS shows a new command, in progress. -/
def beginCtx (s : State) (fn : Nat) (id : BitVec 16) (op : BitVec 8) : State :=
  s.updFn fn (fun f => { f with ctxStat := ⟨id, 0, true, 0, op⟩ })

/-- The command ends with a status. -/
def endCtx (s : State) (fn : Nat) (status : BitVec 8) : State :=
  s.updFn fn (fun f => { f with ctxStat := { f.ctxStat with busy := false, status := status } })

/-- The command ends well; a SAVE_FAULT owed to it is reported instead (R402). -/
def endCtxOk (s : State) (fn i : Nat) : State :=
  match alGet s.ctxs i with
  | some c =>
    if c.saveFault then endCtx (s.updCtx i (fun c => { c with saveFault := false })) fn 4 else endCtx s fn 0
  | none => endCtx s fn 0

/-- A command on an existing context: dropped while BUSY; NO_CONTEXT; BAD_STATE where the table does not allow it; else
its effect, which ends the command (R399, R436). -/
def ctxCommand (s : State) (fn : Nat) (id : BitVec 16) (op : BitVec 8) (legal : List CtxState)
    (effect : State → Nat → Ctx → State) : Out :=
  if (s.fn fn).ctxStat.busy || !takesMmio s fn then .next s
  else
    let s := beginCtx s fn id op
    if !fnActive s fn then .next (endCtx s fn 3)
    else
      match findCtx s fn id.toNat with
      | none => .next (endCtx s fn 2)
      | some (i, c) =>
        if legal.contains c.state then .next (effect s i c)
        else if c.saveFault then .next (endCtx (s.updCtx i (fun c => { c with saveFault := false })) fn 4)
        else .next (endCtx s fn 3)

/-! ### CREATE (R397) -/

/-- The descriptor's fields keep R397, apart from its CTXID. -/
def ctxDescOk (d : Nat) : Bool :=
  let flags := fieldAt d 2 2
  let pasid := fieldAt d 4 4
  let tb := fieldAt d 0x10 8
  let count := fieldAt d 0x30 4
  decide (1 ≤ fieldAt d 0 2 ∧ flags < 4 ∧ pasid < 2 ^ 20 ∧ (flags.testBit 1 ∨ pasid = 0) ∧ fieldAt d 8 8 % 4096 = 0
      ∧ (tb = 0 ∨ pcValid (BitVec.ofNat 64 tb)) ∧ fieldAt d 0x18 8 % 65536 = 0 ∧ fieldAt d 0x20 8 % 65536 = 0
      ∧ 65536 ≤ fieldAt d 0x20 8 ∧ fieldAt d 0x20 8 ≤ 64 * 2 ^ 30 ∧ fieldAt d 0x28 8 % 4096 = 0
      ∧ fieldAt d 0x34 4 = 0 ∧ fieldAt d 0x38 8 % 65536 = 0 ∧ fieldAt d 0x40 8 % 65536 = 0 ∧ fieldAt d 0x48 56 = 0)
    && (List.range 10).any (fun j => count == 128 * 2 ^ j)

/-- Every 4 KiB page of the save area lies in device HBM with R and W at stage 2 (R397). -/
def saveAreaOk (s : State) (p : Part) (base size : Nat) : Bool :=
  (List.range (size / 4096)).all (fun k => (savePlaces s p (base + 4096 * k) 4096).isSome)

/-- The supervisor's copy of a descriptor. -/
def ctxOf (fn d : Nat) : Ctx :=
  { fn := fn, ctxid := fieldAt d 0 2, mixdbg := (fieldAt d 2 2).testBit 0
    pasid := if (fieldAt d 2 2).testBit 1 then some (BitVec.ofNat 20 (fieldAt d 4 4)) else none
    s1root := fieldAt d 8 8, trapBase := BitVec.ofNat 64 (fieldAt d 0x10 8), saveBase := fieldAt d 0x18 8
    saveSize := fieldAt d 0x20 8, errBase := fieldAt d 0x28 8, errCount := fieldAt d 0x30 4
    privBase := fieldAt d 0x38 8, privSize := fieldAt d 0x40 8, state := .created, ckreq := false, errTail := 0
    errLost := 0, errPend := [], priv := [], saves := [], saveFault := false }

/-- CTX_CREATE: the descriptor is read by untranslated DMA from CTX_ARG. Its CTXID is compared first, then CTX_EXISTS,
then the other rules of R397. -/
def execCtxCreate (fn : Nat) (ctxid : BitVec 16) (s : State) : Out :=
  let f := s.fn fn
  if f.ctxStat.busy || !takesMmio s fn then .next s
  else
    let s := beginCtx s fn ctxid 1
    let a := f.ctxArg.toNat
    let d := s.host.read a 128
    if !fnActive s fn then .next (endCtx s fn 3)
    else if a % 128 ≠ 0 ∨ fieldAt d 0 2 ≠ ctxid.toNat then .next (endCtx s fn 1)
    else if ((findCtx s fn ctxid.toNat).map (·.2.state != .destroyed)).getD false then .next (endCtx s fn 5)
    else if !ctxDescOk d || !saveAreaOk s (s.part (f.part.getD 16)) (fieldAt d 0x18 8) (fieldAt d 0x20 8) then .next (endCtx s fn 1)
    else
      let s := { s with ctxs := alSet s.ctxs s.nextReq (ctxOf fn d), nextReq := s.nextReq + 1 }
      .next (endCtx s fn 0)

/-! ### DESTROY (R399, R400) -/

/-- Everything of a context ends: its queues, its groups without error records, its launches, its objects and its cached
translations. -/
def destroyCtx (s : State) (i : Nat) : State :=
  match alGet s.ctxs i with
  | none => s
  | some c =>
    let s := (queuesWhere s (fun q => q.ctx == i)).foldl destroyQueue s
    let s := ((s.ctxGroups i).map (·.1)).foldl terminateOne s
    let s := ((s.launches.filter (fun l => l.2.ctx == i && !l.2.done)).map (·.1)).foldl endLaunch s
    let s := ((s.objects.filter (fun o => o.2.ctx == i)).map (·.1)).foldl unloadNow s
    let s := s.updPart ((s.fn c.fn).part.getD 16) (fun p => { p with tlb := p.tlb.filter (fun e => e.ctx != i) })
    (setCtxState s i .destroyed).updCtx i (fun c => { c with errPend := [], priv := [], saves := [] })

/-! ### A TDI's ERROR (R469) -/

/-- The contexts of a function that are not DESTROYED. -/
def ctxsOf (s : State) (fn : Nat) : List Nat :=
  (s.ctxs.filter (fun e => e.2.fn == fn && e.2.state != .destroyed)).map (·.1)

/-- A VF's TDI enters ERROR: its queues enter ERROR with no event and nothing of them goes on, its contexts are destroyed,
and it issues no further DMA. -/
def enterTdiError (s : State) (vf : Nat) : State :=
  let stop (q : Queue) : Queue :=
    { q with state := .error, thread := false, started := [], wait := none, launching := false, rptrDue := none }
  let s := s.updFn vf (fun f => { f with tdi := .error })
  let s := (queuesWhere s (fun q => q.fn == vf)).foldl (fun s h => s.updQueue h stop) s
  (ctxsOf s vf).foldl destroyCtx s

/-- The interface of a VF is locked: what R468 lists is frozen. -/
def tdiLocked (s : State) (vf : Nat) : Bool := (s.fn vf).tdi == .configLocked || (s.fn vf).tdi == .run

/-- A request to a BAR reaches a function: not one in ERROR, and a locked one only with the T bit (R468, R469). -/
def mmioReaches (s : State) (fn : Nat) (tBit : Bool) : Bool := takesMmio s fn && (!tdiLocked s fn || tBit)

/-- A write that would change a frozen item moves a locked TDI to ERROR; else it takes its effect. -/
def frozenWrite (s : State) (vf : Nat) (changes : Bool) (effect : State → State) : State :=
  if tdiLocked s vf && changes then enterTdiError s vf else effect s

def execCtxDestroy (fn : Nat) (ctxid : BitVec 16) (s : State) : Out :=
  ctxCommand s fn ctxid 2 [.created, .active, .saving, .saved, .restoring, .faulted] fun s i _ => endCtxOk (destroyCtx s i) fn i

/-! ### Objects (R329, R399) -/

/-- LOAD_OBJECT registers the object whose image lies at CTX_ARG; the command ends with the load. -/
def execLoadObject (fn : Nat) (ctxid : BitVec 16) (s : State) : Out :=
  ctxCommand s fn ctxid 3 [.created, .active] fun s i _ =>
    let f := s.fn fn
    let o : Obj :=
      { fn := fn, ctx := i, handle := f.handles % 65536, state := .loading, image := f.ctxArg.toNat, textVa := 0, textOff := 0
        ranges := [], pages := [], askers := [], digests := [], emulation := false, emul := [], features := 0, bound := [], kernels := []
        nodes := [], report := [], dataDigest := 0, manifestDigest := 0, revocations := 0 }
    let h := s.nextReq
    let s := { s with objects := alSet s.objects h o, nextReq := h + 1 }
    let s := s.updFn fn (fun f => { f with
      handles := f.handles + 1
      ctxStat := { f.ctxStat with handle := BitVec.ofNat 16 o.handle } })
    s.post (.objectLoadComplete h)

/-- The object of a context that a handle names, UNLOADED ones left out (R399). -/
def findObj (s : State) (ctx handle : Nat) : Option (Nat × Obj) :=
  s.objects.find? (fun o => o.2.ctx == ctx && o.2.handle == handle && o.2.state != .unloaded)

/-- UNLOAD_OBJECT starts DRAINING. -/
def execUnloadObject (fn : Nat) (ctxid : BitVec 16) (s : State) : Out :=
  ctxCommand s fn ctxid 4 [.created, .active, .saved] fun s i _ =>
    match findObj s i (s.fn fn).ctxArg.toNat with
    | none => endCtx s fn 7
    | some (h, o) =>
      if o.state = .draining then endCtxOk s fn i
      else (endCtxOk (s.updObj h (fun o => { o with state := .draining })) fn i).post (.objectDrainComplete h)

/-! ### SAVE, RESTORE, CHECKPOINT (R399, R400, R401, R411) -/

/-- SAVE suspends the queues and names every group that is not SAVED; the command ends at SAVED or SAVE_FAULT. -/
def execSave (fn : Nat) (ctxid : BitVec 16) (s : State) : Out :=
  ctxCommand s fn ctxid 5 [.active] fun s i _ =>
    let s := setCtxState s i .saving
    let s := (queuesWhere s (fun q => q.ctx == i)).foldl suspendQueue s
    let hs := ((s.ctxGroups i).filter (fun e => e.2.state != .saved)).map (·.1)
    saveCheck (if hs.isEmpty then s else requestHalt s hs .command) i

/-- The groups saved by SAVE or by CKPT become PENDING. -/
def wakeSaved (s : State) (i : Nat) : State :=
  (s.ctxGroups i).foldl (fun s e =>
    if e.2.state = .saved ∧ e.2.savedBy = .command then waitAgain s e.1 else s) s

/-- RESTORE: in SAVED the context passes through RESTORING to ACTIVE and its queues resume; in ACTIVE only the groups
that CKPT saved are concerned. -/
def execRestore (fn : Nat) (ctxid : BitVec 16) (s : State) : Out :=
  ctxCommand s fn ctxid 6 [.active, .saved] fun s i c =>
    let s := wakeSaved (s.updCtx i (fun c => { c with ckreq := false })) i
    let s := if c.state = .saved then
        let s := setCtxState (setCtxState s i .restoring) i .active
        (queuesWhere s (fun q => q.ctx == i)).foldl resumeQueue s
      else s
    let s := (s.launches.filter (fun l => l.2.ctx == i && !l.2.done)).foldl (fun s l => s.postOnce (.rresGrant l.1)) s
    endCtxOk (s.postOnce (.groupPlace [])) fn i

/-- CHECKPOINT sets CKREQ. -/
def execCheckpoint (fn : Nat) (ctxid : BitVec 16) (s : State) : Out :=
  ctxCommand s fn ctxid 7 [.active] fun s i _ => endCtxOk (s.updCtx i (fun c => { c with ckreq := true })) fn i

end Sys2Proof.Machine
end

