-- ==== Sys2Proof/Machine/Queues.lean ====
section
/-!
DEFINITION. Queues (spec/24_queues.md, R412 to R421): Q_CREATE, Q_DESTROY, Q_CLEAR, NOTIFY_WRITE, QUEUE_MAP,
PACKET_START with the checks of a packet, and PACKET_COMPLETE.
-/

namespace Sys2Proof.Machine

/-! ### Queue commands (R412, R413) -/

/-- STATE as Q_STATUS shows it. -/
def QState.code : QState → BitVec 8
  | .unmapped => 0 | .mapped => 1 | .blocked => 2 | .suspended => 3 | .error => 4 | .destroyed => 5

/-- The queue a QID names in a function: the one not DESTROYED, else the last one destroyed. -/
def findQueue (s : State) (fn qid : Nat) : Option (Nat × Queue) :=
  let qs := s.queues.filter (fun e => e.2.fn == fn && e.2.qid == qid)
  (qs.find? (fun e => e.2.state != .destroyed)).or qs.getLast?

/-- Q_STATUS shows a new command, in progress. -/
def beginQ (s : State) (fn : Nat) (qid : BitVec 16) (op : BitVec 8) : State :=
  s.updFn fn (fun f => { f with qStat := ⟨qid, 0, true, 0, op⟩ })

/-- The command ends with a status. -/
def endQ (s : State) (fn : Nat) (status : BitVec 8) : State :=
  s.updFn fn (fun f => { f with qStat := { f.qStat with busy := false, status := status } })

/-- The descriptor's fields keep R412, apart from its QID. -/
def queueDescOk (s : State) (fn d : Nat) : Bool :=
  let ctx := findCtx s fn (fieldAt d 2 2)
  decide (fieldAt d 4 1 ≤ 7 ∧ fieldAt d 6 1 ≤ 10 ∧ fieldAt d 7 1 ≤ 1 ∧ fieldAt d 8 8 % 4096 = 0 ∧ fieldAt d 0x10 8 % 8 = 0
      ∧ fieldAt d 0x18 40 = 0)
    && (ctx.map (fun c => c.2.state != .destroyed)).getD false
    && (s.part ((s.fn fn).part.getD 16)).owners.contains (fieldAt d 5 1)
    && decide ((queuesWhere s (fun q => q.fn == fn)).length < 4096)

/-- A queue as its descriptor gives it (R412, R414). -/
def queueOfDesc (s : State) (fn d : Nat) : Queue :=
  { qid := fieldAt d 0 2, fn := fn, part := (s.fn fn).part.getD 16, ctx := ((findCtx s fn (fieldAt d 2 2)).map (·.1)).getD 0
    prio := fieldAt d 4 1, owner := fieldAt d 5 1, size := 64 * 2 ^ fieldAt d 6 1, devq := (fieldAt d 7 1).testBit 0
    ringVa := fieldAt d 8 8, rptrVa := fieldAt d 0x10 8, widx := 0, ridx := 0, state := .unmapped, before := .unmapped
    thread := false, seq := 0, waitSince := s.time, started := [], poisoned := [], wait := none, launching := false
    gen := (s.fn fn).gen, lastStatus := 0, rptrDue := none }

/-- Q_CREATE: the descriptor is read by untranslated DMA from Q_ARG. Its QID is compared before Q_EXISTS is decided. -/
def execQCreate (fn : Nat) (qid : BitVec 16) (s : State) : Out :=
  let f := s.fn fn
  if f.qStat.busy || !takesMmio s fn then .next s
  else
    let s := beginQ s fn qid 1
    let a := f.qArg.toNat
    let d := s.host.read a 64
    if !fnActive s fn then .next (endQ s fn 3)
    else if a % 64 ≠ 0 ∨ fieldAt d 0 2 ≠ qid.toNat then .next (endQ s fn 1)
    else if (s.queueOf qid.toNat).isSome then .next (endQ s fn 5)
    else if !queueDescOk s fn d then .next (endQ s fn 1)
    else
      let h := s.nextReq
      let s := { s with queues := alSet s.queues h (queueOfDesc s fn d), nextReq := h + 1 }
      .next (endQ (suspendQueue s h) fn 0)

/-- A command on an existing queue: dropped while BUSY, NO_QUEUE, BAD_STATE, else its effect. -/
def queueCommand (s : State) (fn : Nat) (qid : BitVec 16) (op : BitVec 8) (legal : QState → Bool)
    (effect : State → Nat → Queue → State) : Out :=
  if (s.fn fn).qStat.busy || !takesMmio s fn then .next s
  else
    let s := beginQ s fn qid op
    if !fnActive s fn then .next (endQ s fn 3)
    else
      match findQueue s fn qid.toNat with
      | none => .next (endQ s fn 2)
      | some (h, q) => .next (if legal q.state then endQ (effect s h q) fn 0 else endQ s fn 3)

def execQDestroy (fn : Nat) (qid : BitVec 16) (s : State) : Out :=
  queueCommand s fn qid 2 (fun st => st != .destroyed) fun s h _ => destroyQueue s h

/-! ### Threads (R416) -/

/-- The sequencers of a partition with a free thread, of 32 each. -/
def freeSeqs (s : State) (p : Nat) : List Nat :=
  (s.part p).seqs.filter (fun k => decide ((queuesWhere s (fun q => q.part == p && q.thread && q.seq == k)).length < 32))

def threadFree (s : State) (p : Nat) : Bool := !(freeSeqs s p).isEmpty

/-- A BLOCKED queue gives up its thread and keeps its monitor. -/
def freeThread (s : State) (p : Nat) : State :=
  if threadFree s p then s
  else match queuesWhere s (fun q => q.part == p && q.thread && q.state == .blocked) with
    | h :: _ => s.updQueue h (fun q => { q with thread := false })
    | [] => s

/-- Assign a thread to a queue, when there is one; of several sequencers the free value says which (R416 does not). -/
def mapQueue (s : State) (h : Nat) : State :=
  match alGet s.queues h with
  | none => s
  | some q =>
    let s := freeThread s q.part
    let ks := freeSeqs s q.part
    if ks.isEmpty then s
    else
      let (f, s) := if ks.length = 1 then (0, s) else s.takeFree
      (s.updQueue h (fun q => { q with state := .mapped, thread := true, seq := ks.getD (f % ks.length) 0 })).post (.packetStart h)

/-- The queues that wait for a thread: the higher PRIO first, then the longest waiting. -/
def threadQueue (s : State) (p : Nat) : List Nat :=
  (sortBy (fun (a b : Nat × Queue) => decide (b.2.prio < a.2.prio) || (a.2.prio == b.2.prio && decide (a.2.waitSince ≤ b.2.waitSince)))
    (s.queues.filter (fun e => e.2.part == p && e.2.state == .unmapped && e.2.widx != e.2.ridx))).map (·.1)

/-- The queues with nothing to read are unmapped. -/
def unmapIdle (s : State) (p : Nat) : State :=
  (queuesWhere s (fun q => q.part == p && q.state == .mapped && q.widx == q.ridx)).foldl (fun s h =>
    s.updQueue h (fun q => { q with state := .unmapped, thread := false })) s

/-- A queue that keeps its thread looks at the packets that came since it last did (R415, R419). -/
def lookMapped (s : State) (p : Nat) : State :=
  (queuesWhere s (fun q => q.part == p && q.state == .mapped && q.thread && q.widx != q.ridx)).foldl
    (fun s h => s.postOnce (.packetStart h)) s

def execQueueMap (part : Nat) (s : State) : Out :=
  let s := lookMapped (unmapIdle s part) part
  .next ((threadQueue s part).foldl mapQueue s)

/-- Q_CLEAR: an ERROR queue takes packets again at RIDX (R413, R415). -/
def execQClear (fn : Nat) (qid : BitVec 16) (s : State) : Out :=
  queueCommand s fn qid 3 (fun st => st == .error) fun s h q =>
    let s := s.updQueue h (fun q => { q with state := .unmapped, waitSince := s.time })
    suspendQueue (if q.widx = q.ridx then s else mapQueue s h) h

/-! ### Notify registers (R414) -/

/-- NOTIFY_WRITE: the host advances WIDX; dropped where the write does not reach the function (R468, R469), and for a queue
of another function or a DEVQ; a value past the ring is BAD_NOTIFY. -/
def execNotifyWrite (fn : Nat) (qid : BitVec 16) (value : NotifyVal) (s : State) : Out :=
  match s.queueOf qid.toNat with
  | none => .next s
  | some (h, q) =>
    if q.fn ≠ fn ∨ q.devq ∨ !mmioReaches s fn value.tBit then .next s
    else if q.size < (value.widx - q.ridx).toNat then
      .next (if q.state = .error then s else failQueue s h (cplWord q.ridx 0 0x0C) 0)
    else
      .next ((s.updQueue h (fun q => { q with
        widx := value.widx, waitSince := if q.widx = q.ridx then s.time else q.waitSince })).post (.queueMap q.part))

/-! ### Reading and checking a packet (R414, R417, R418, R421) -/

/-- The body bytes outside the listed fields are zero. -/
def bodyRest (v : Nat) (fs : List (Nat × Nat)) : Bool :=
  (List.range 48).all (fun i => fs.any (fun f => decide (f.1 ≤ i + 16 ∧ i + 16 < f.1 + f.2)) || fieldAt v (i + 16) 1 == 0)

/-- The body fields of a TYPE: offset and size (R418); none for a reserved TYPE. -/
def bodyFields : Nat → Option (List (Nat × Nat))
  | 1 => some [(0x10, 2), (0x12, 1), (0x13, 1), (0x14, 4), (0x18, 8), (0x20, 4), (0x24, 4), (0x28, 8), (0x30, 8)]
  | 2 => some [(0x10, 8), (0x18, 8), (0x20, 8)]
  | 3 => some [(0x10, 8), (0x18, 8), (0x20, 8)]
  | 4 => some [(0x10, 8), (0x18, 8), (0x20, 8), (0x28, 1), (0x29, 1), (0x2C, 4)]
  | 5 => some [(0x10, 8), (0x18, 8), (0x20, 1), (0x21, 1)]
  | 6 => some [(0x10, 8)]
  | 7 => some [(0x10, 1), (0x18, 8)]
  | 8 => some [(0x10, 1)]
  | 9 => some [(0x10, 8), (0x18, 4)]
  | _ => none

/-- An ADDR that is aligned to its width and canonical. -/
def waitAddrOk (addr width : Nat) : Bool := addr % (if width = 3 then 8 else 4) == 0 && canonical addr

/-- A LEN of COPY or FILL. -/
def lenOk (n : Nat) : Bool := decide (1 ≤ n ∧ n ≤ 2 ^ 40)

/-- The checks of R421 that depend on TYPE, with step 1 of R422 for a LAUNCH_GRAPH. -/
def bodyOk (v : Nat) : Bool :=
  match fieldAt v 0 1 with
  | 1 => decide (fieldAt v 0x13 1 ≠ 1 ∧ fieldAt v 0x13 1 ≤ 192 ∧ fieldAt v 0x36 2 = 0)
  | 2 => lenOk (fieldAt v 0x20 8)
  | 3 => lenOk (fieldAt v 0x18 8)
  | 4 => decide (fieldAt v 0x28 1 ≤ 3 ∧ (fieldAt v 0x29 1 = 2 ∨ fieldAt v 0x29 1 = 3)) && waitAddrOk (fieldAt v 0x10 8) (fieldAt v 0x29 1)
  | 5 => decide (fieldAt v 0x20 1 ≤ 1 ∧ (fieldAt v 0x21 1 = 2 ∨ fieldAt v 0x21 1 = 3)) && waitAddrOk (fieldAt v 0x10 8) (fieldAt v 0x21 1)
  | 7 => decide (fieldAt v 0x10 1 ≤ 15)
  | 8 => decide (fieldAt v 0x10 1 ≤ 15)
  | 9 => decide (fieldAt v 0x10 8 % 32 = 0)
  | _ => true

/-- Every check of R421 on the 64 bytes of a packet. -/
def packetOk (v : Nat) : Bool :=
  match bodyFields (fieldAt v 0 1) with
  | none => false
  | some fs =>
    decide (fieldAt v 1 1 / 8 = 0 ∧ ((fieldAt v 1 1).testBit 2 → fieldAt v 0 1 = 1) ∧ fieldAt v 2 2 = 0 ∧ fieldAt v 8 8 % 8 = 0)
      && bodyRest v fs && bodyOk v

/-- The header of a packet (R417). -/
def hdrOf (queue : Nat) (index : BitVec 32) (v : Nat) : PktHdr :=
  ⟨queue, index, BitVec.ofNat 8 (fieldAt v 1 1), BitVec.ofNat 32 (fieldAt v 4 4), BitVec.ofNat 64 (fieldAt v 8 8)⟩

def word8 (v o : Nat) : Word := BitVec.ofNat 64 (fieldAt v o 8)

/-- The body of a LAUNCH_GRAPH (R418). -/
def launchBodyOf (v : Nat) : LaunchBody :=
  { handle := BitVec.ofNat 16 (fieldAt v 0x10 2), node := BitVec.ofNat 8 (fieldAt v 0x12 1)
    setSize := BitVec.ofNat 8 (fieldAt v 0x13 1), seed := BitVec.ofNat 32 (fieldAt v 0x14 4), entries := word8 v 0x18
    count := BitVec.ofNat 32 (fieldAt v 0x20 4), nb := BitVec.ofNat 32 (fieldAt v 0x24 4), poolVa := word8 v 0x28
    items := word8 v 0x30 }

/-- The body of a WAIT_MEM (R418). -/
def waitBodyOf (v : Nat) : WaitBody :=
  { addr := word8 v 0x10, value := word8 v 0x18, mask := word8 v 0x20, cond := BitVec.ofNat 8 (fieldAt v 0x28 1)
    wide := fieldAt v 0x29 1 == 3, timeout := BitVec.ofNat 32 (fieldAt v 0x2C 4) }

/-- The step by which a packet that has started acts (R418). -/
def packetStep (h : PktHdr) (v : Nat) : Instr :=
  match fieldAt v 0 1 with
  | 1 => .launchGraph h (launchBodyOf v)
  | 2 => .copy h (word8 v 0x10) (word8 v 0x18) (word8 v 0x20)
  | 3 => .fill h (word8 v 0x10) (word8 v 0x18) (word8 v 0x20)
  | 4 => .waitMem h (waitBodyOf v)
  | 5 => .signalMem h (word8 v 0x10) (word8 v 0x18) (fieldAt v 0x20 1 == 1) (fieldAt v 0x21 1 == 3)
  | 6 => .event h (word8 v 0x10)
  | 7 => .fmtBind h (BitVec.ofNat 8 (fieldAt v 0x10 1)) (word8 v 0x18)
  | 8 => .fmtRelease h (BitVec.ofNat 8 (fieldAt v 0x10 1))
  | _ => .resync h (word8 v 0x10) (BitVec.ofNat 32 (fieldAt v 0x18 4))

/-! ### Starting packets (R414, R419) -/

/-- The access of a sequencer thread to its queue's context. -/
def seqReq (q : Queue) (need : Need) (agent : Nat) : ReqInfo := ⟨q.ctx, need, 6, none, agent⟩

/-- RIDX is reported to RPTR_VA as it stands (R414): a recoverable fault delays the report, a fatal one fails the queue. -/
def reportRidx (s : State) (h : Nat) (of_ : BitVec 32 × BitVec 8 × BitVec 32) : State :=
  match alGet s.queues h with
  | none => s
  | some q =>
    if q.rptrVa = 0 then s
    else
      let r := ctxWrite s (seqReq q .write (reportAgent h)) q.rptrVa 4 q.ridx.toNat
      match r.1 with
      | .fault _ => (r.2.updQueue h (fun q => { q with rptrDue := q.rptrDue.or (some of_) })).postOnce (.packetStart h)
      | .fatal _ => failQueue (r.2.updQueue h (fun q => { q with rptrDue := none })) h (cplWord of_.1 of_.2.1 6) of_.2.2
      | .ok _ => r.2.updQueue h (fun q => { q with rptrDue := none })

/-- A report that waits is tried again. -/
def retryReport (s : State) (h : Nat) : State :=
  match (alGet s.queues h).bind (·.rptrDue) with
  | some d => reportRidx s h d
  | none => s

/-- A packet starts: RIDX passes it, it is in progress, and RIDX is reported. -/
def startPacket (s : State) (h : Nat) (hdr : PktHdr) (kind : BitVec 8) (status : Option (BitVec 8)) : State :=
  let s := s.updQueue h (fun q => { q with
    ridx := q.ridx + 1, started := q.started ++ [⟨hdr.index, hdr, kind, status, none, none⟩], launching := false
    poisoned := q.poisoned.filter (· != hdr.index) })
  let due := ((alGet s.queues h).bind (·.rptrDue)).getD (hdr.index, kind, hdr.tag)
  let s := reportRidx s h due
  if ((alGet s.queues h).map (·.devq)).getD false then wakeAll s else s

/-- A refused packet completes at once (R421). -/
def refusePacket (s : State) (h : Nat) (hdr : PktHdr) (kind status : BitVec 8) : State :=
  (startPacket s h hdr kind (some status)).postFirst (.packetComplete h hdr.index status)

/-- A status that fails the queue (R420). -/
def failing (status : BitVec 8) : Bool := status != 0 && status != 0x0B

/-- A later packet may be reached: the queue has not failed, and no WAIT_MEM, FMT_BIND, FMT_RELEASE or RESYNC is
incomplete (R419, R420). -/
def Queue.reaches (q : Queue) : Bool :=
  q.started.all (fun e => !(e.status.map failing).getD false && !(e.kind == 4 || e.kind == 7 || e.kind == 8 || e.kind == 9))

/-- The thread takes the packet it has read. -/
def takePacket (s : State) (h : Nat) (q : Queue) (v : Nat) (poison : Bool) : State :=
  let hdr := hdrOf h q.ridx v
  let kind : BitVec 8 := BitVec.ofNat 8 (fieldAt v 0 1)
  if poison || q.poisoned.contains q.ridx then refusePacket s h hdr kind 0x0A
  else if !packetOk v then refusePacket s h hdr kind 1
  else if (hdr.flags.getLsbD 0 || decide (4 ≤ kind.toNat)) && !q.started.isEmpty then s
  else if kind = 1 then (s.updQueue h (fun q => { q with launching := true })).post (packetStep hdr v)
  else ((startPacket s h hdr kind none).post (packetStep hdr v)).post (.packetStart h)

/-- PACKET_START: the thread of a MAPPED queue reads the packet at RIDX, checks it and starts it. -/
def execPacketStart (queue : Nat) (s : State) : Out :=
  let s := retryReport s queue
  match alGet s.queues queue with
  | none => .next s
  | some q =>
    if q.state ≠ .mapped ∨ !q.thread ∨ q.launching ∨ !q.reaches then .next s
    else if q.widx = q.ridx then .next (s.postOnce (.queueMap q.part))
    else
      let r := ctxRead s (seqReq q .read (ringAgent queue)) ((q.ringVa + 64 * (q.ridx.toNat % max 1 q.size)) % 2 ^ 64) 64
      match r.1 with
      | .error (.fault _) => .next (r.2.postOnce (.packetStart queue))
      | .error _ => .next (failQueue r.2 queue (cplWord q.ridx 0 6) 0)
      | .ok (v, p) => .next (takePacket r.2 queue q v p)

/-- The packet of a header has started and not completed. -/
def inProgress (s : State) (hdr : PktHdr) : Bool :=
  ((alGet s.queues hdr.queue).map (fun q => q.started.any (fun e => e.index == hdr.index))).getD false

/-! ### Completion (R420) -/

/-- The completion after its word: the packet leaves the queue, an EVENT packet's own event and the one that its flags ask
for are submitted (R428), and a failing status or word
fails the queue. -/
def finishPacket (s : State) (h : Nat) (e : Started) (status : BitVec 8) (fatal : Bool) : State :=
  let s := s.updQueue h (fun q => { q with started := q.started.filter (fun x => x.index != e.index), lastStatus := status })
  let word := cplWord e.index e.kind status
  let s := match alGet s.queues h, e.event with
    | some q, some d => queueEvent s q 1 d e.hdr.tag
    | _, _ => s
  let s := match alGet s.queues h with
    | some q => if e.hdr.flags.getLsbD 1 then queueEvent s q 2 word e.hdr.tag else s
    | none => s
  let s := if failing status then failQueue s h (if e.hdr.cpl.toNat % 8 = 0 then word else 0) e.hdr.tag
    else if fatal then failQueue s h (cplWord e.index e.kind 6) e.hdr.tag
    else s
  (s.postOnce (.packetStart h)).postOnce (.queueMap (((alGet s.queues h).map (·.part)).getD 16))

/-- PACKET_COMPLETE: the completion word, then the event, then ERROR (R420). The word is preceded by a release at SYSTEM scope:
it waits while a link port holds a write that its far side has not taken (R201, R465). -/
def execPacketComplete (queue : Nat) (index : BitVec 32) (status : BitVec 8) (s : State) : Out :=
  match alGet s.queues queue with
  | none => .next s
  | some q =>
    match q.started.find? (fun e => e.index == index) with
    | none => .next s
    | some e =>
      let va := e.hdr.cpl.toNat
      let again (s : State) : State := (s.updQueue queue (fun q => { q with
        started := q.started.map (fun x => if x.index = index then { x with status := some status } else x) })).post
          (.packetComplete queue index status)
      if va = 0 ∨ va % 8 ≠ 0 then .next (finishPacket s queue e status false)
      else if portsBusy s then .next (again s)
      else
        let r := ctxWrite s (seqReq q .write (wordAgent queue index)) va 8 (cplWord index e.kind status).toNat
        match r.1 with
        | .fault _ => .next (again r.2)
        | .fatal _ => .next (finishPacket r.2 queue e status true)
        | .ok _ => .next (finishPacket r.2 queue e status false)

end Sys2Proof.Machine
end

