-- ==== Sys2Proof/Machine/Packets.lean ====
section
/-!
DEFINITION. What packets do (spec/24_queues.md, R422 to R430; R106, R107, R318, R334 to R337, R348, R485): LAUNCH_GRAPH,
COPY, FILL, WAIT_MEM with its retests, poll and timeout, SIGNAL_MEM, EVENT and RESYNC; and FN_PAUSE_WRITE,
FUNCTION_LEVEL_RESET and WEIGHT_WRITE.
-/

namespace Sys2Proof.Machine

/-! ### LAUNCH_GRAPH: the checks (R422) -/

/-- Step 2 of R422: the object, when it, the context and the root allow the launch. -/
def launchObject (s : State) (q : Queue) (b : LaunchBody) : Option (Nat × Obj × Node) :=
  match findObj s q.ctx b.handle.toNat with
  | none => none
  | some (h, o) =>
    match o.node b.node.toNat with
    | none => none
    | some n =>
      let ctxOk : Bool := match alGet s.ctxs q.ctx with
        | some c => c.state != .faulted && c.state != .destroyed
        | none => false
      let root := n.kind == .entry || n.kind == .persistent
      let sets := b.setSize == 0 || n.kind == .persistent || n.succ == 0
      if o.state == .ready && ctxOk && root && sets then some (h, o, n) else none

/-- Step 3: every slot that a reachable kernel names is BOUND with its FORMAT_ID in the manager's record (R318). -/
def slotsMatch (p : Part) (o : Obj) (r : Nat) : Bool :=
  (o.reached r).all fun t =>
    (((o.kernel t).map (·.slotReq)).getD []).zipIdx.all fun e =>
      e.1 == 0 || ((p.slot (4 + e.2)).state == .bound
        && ((p.slot (4 + e.2)).image.map (fun im => descFormatId im.desc)) == some e.1)

/-- Step 4: the pool and the counts of entries and items (R334, R337). -/
def poolOk (o : Obj) (n : Node) (b : LaunchBody) : Bool :=
  let entry := n.kind == .entry
  b.poolVa.toNat % 4096 == 0 && canonical b.poolVa.toNat
    && decide (o.minPool b.node.toNat (if entry then b.count.toNat else 0) ≤ b.nb.toNat)
    && (if entry then b.count != 0 && b.items == 0 else b.count == 0 && b.entries == 0 && b.items != 0)

/-- How many groups of a kernel an empty core takes (R96). -/
def Kernel.perCore (k : Kernel) : Nat :=
  ((List.range 65).filter (fun n => ((List.range n).foldl (fun u _ => u.add k.use) Use.zero).ok)).foldl max 0

/-- The partition's cores in each cluster. -/
def clusterSizes (p : Part) : List Nat := [0, 1, 2, 3].map (fun cl => (p.cores.filter (fun k => k / 192 == cl)).length)

/-- Sets of n that m empty cores of a cluster take beside others of r groups in all, each core taking c groups: no more
than the cores are wide, and no more than there is room for. -/
def setsIn (n m c r : Nat) : Nat := if m < n then 0 else (m * c - r) / max 1 n

/-- f sets, or f pairs of sets in different clusters, find room in clusters that take so many sets each. -/
def setsFit (pairs : Bool) (caps : List Nat) (f : Nat) : Bool :=
  if pairs then decide (2 * f ≤ (caps.map (min f)).sum) else decide (f ≤ caps.sum)

/-- Sets of n, f of them, and a last one of r (none when r = 0), fit empty clusters of so many cores (R106 to R108): the
short set has a cluster of its choice, a redundant one two. -/
def allFit (pairs : Bool) (ms : List Nat) (c n f r : Nat) : Bool :=
  let cap (short : List Nat) (i m : Nat) : Nat := setsIn n m c (if short.contains i then r else 0)
  let caps (short : List Nat) : List Nat := (ms.zipIdx).map (fun e => cap short e.2 e.1)
  let homes := (ms.zipIdx.filter (fun e => decide (r ≤ e.1 ∧ r ≤ e.1 * c))).map (·.2)
  if r = 0 then setsFit pairs (caps []) f
  else if pairs then homes.any (fun i => homes.any (fun j => decide (i < j) && setsFit true (caps [i, j]) f))
  else homes.any (fun i => setsFit false (caps [i]) f)

/-- The runs of a PERSISTENT root's cores pair off, each with one of its length in another cluster, so that the two copies of
every group, or set, find cores (R348, R485; log entry 25). -/
def runsPair (cores : List Nat) (n : Nat) : Bool :=
  let runs := coreRuns cores n
  (runs.map List.length).all fun len =>
    let counts := [0, 1, 2, 3].map (fun cl => (runs.filter (fun r => r.length == len && runCluster r == cl)).length)
    counts.sum % 2 == 0 && counts.all (fun c => decide (2 * c ≤ counts.sum))

/-- Step 5: the co-resident launch, each cluster set and the redundant nodes fit the partition's cores when every one is
empty (R106, R107, R485). A launch of neither kind is never refused here: it waits. -/
def launchFits (p : Part) (o : Obj) (n : Node) (k : Kernel) (b : LaunchBody) (coresident : Bool) : Bool :=
  let ms := clusterSizes p
  let c := k.perCore
  let groups := (b.count.toNat + n.quantum - 1) / max 1 n.quantum
  let size := min b.setSize.toNat groups
  let pairsOk := (o.reached b.node.toNat).all (fun t => o.copies t == 1) || decide (2 ≤ (ms.filter (fun m => decide (0 < m))).length)
  if n.kind = .persistent then decide (0 < p.cores.length) && pairsOk && (!n.redundant || runsPair p.cores b.setSize.toNat)
  else
    pairsOk &&
      if coresident then
        (if 2 ≤ size then allFit n.redundant ms c size (groups / size) (groups % size) else setsFit n.redundant (ms.map (· * c)) groups)
      else decide (size < 2) || allFit n.redundant ms c size 1 0

/-! ### LAUNCH_GRAPH: acceptance (R337, R348) -/

/-- Copy an entry record into the pool in 16-byte units, each with its poison: none when a page must be waited for, else
whether it was fatal. -/
def copyEntry (info : ReqInfo) (src dst : Nat) : List Nat → State → Option Bool × State
  | [], s => (some false, s)
  | u :: us, s =>
    match ctxRead s info ((src + 16 * u) % 2 ^ 64) 16 with
    | (.error (.fault _), s) => (none, s)
    | (.error _, s) => (some true, s)
    | (.ok (v, p), s) =>
      match ctxWrite s { info with need := .write } (dst + 16 * u) 16 v p with
      | (.fault _, s) => (none, s)
      | (.fatal _, s) => (some true, s)
      | (.ok _, s) => copyEntry info src dst us s

/-- Copy the entry records, in source order, each into its slot. -/
def copyEntries (info : ReqInfo) (src rsz : Nat) : List Nat → State → Option Bool × State
  | [], s => (some false, s)
  | dst :: ds, s =>
    match copyEntry info src dst (List.range (rsz / 16)) s with
    | (some false, s) => copyEntries info (src + rsz) rsz ds s
    | r => r

/-- The runs of the entry records: each PENDING with depth 0, key 0 and the acceptance cycle as its age. -/
def entryRuns (o : Obj) (t now : Nat) : Nat → Launch → Launch
  | 0, l => l
  | n + 1, l =>
    match l.takeRun o t 1 (fun b j => ⟨b, j, t, .pending, 0, 0, now, none, false, none⟩) with
    | some (_, l) => entryRuns o t now n l
    | none => l

/-- The launch as its packet gives it, before its records. -/
def newLaunch (q : Queue) (hdr : PktHdr) (b : LaunchBody) (obj : Nat) (o : Obj) (n : Node) (cluster : Nat)
    (cohes : Bool) : Launch :=
  { part := q.part, fn := q.fn, ctx := q.ctx, obj := obj, root := b.node.toNat, queue := hdr.queue, index := hdr.index
    cluster := cluster, seed := b.seed, prio := q.prio, owner := q.owner, cohes := cohes, setSize := b.setSize.toNat
    poolVa := b.poolVa.toNat, nb := b.nb.toNat, metaBytes := 256 * b.nb.toNat, reserve := o.reserveOf b.node.toNat, blocks := [], records := [], pubs := []
    fifo := [], total := (if n.kind = .entry then b.count.toNat else b.items.toNat), next := 0, returns := [], created := 0
    sets := 0, terminated := false, untrusted := false, done := false }

/-- The groups of a PERSISTENT root (R108, R348): one for each owned core, or one for each two where every group is two
copies (R485; log entry 25). For each, in order, its set, the set's size and the rank in it. -/
def persistentSets (cores : List Nat) (n : Nat) (pairs : Bool) : List (Option Nat × Nat × Nat) :=
  let runs := coreRuns cores n
  let lens := (runs.map List.length).eraseDups
  let runs := if pairs then lens.flatMap (fun len => List.replicate ((runs.filter (fun r => r.length == len)).length / 2) len)
    else runs.map List.length
  (runs.zipIdx).flatMap fun e => (List.range e.1).map fun i => if n < 2 then (none, 1, 0) else (some e.2, e.1, i)

/-- The groups of an accepted launch: those for the cores that the partition owns, lent ones included (R348, R451), of a
PERSISTENT root, else what the launcher's triggers make. -/
def firstGroups (s : State) (li : Nat) (l : Launch) (n : Node) : State :=
  if n.kind = .persistent then
    (persistentSets (s.part l.part).cores l.setSize n.redundant).foldl (fun s e => createGroup s li l.root [] (some e)) s
  else launcherPass s li

/-- Where a launch packet that has been refused leaves its queue. -/
def refuseLaunch (s : State) (hdr : PktHdr) (status : BitVec 8) : State := refusePacket s hdr.queue hdr 1 status

/-- The clusters that have a launcher with cores of the partition. -/
def partClusters (p : Part) : List Nat := ([0, 1, 2, 3] : List Nat).filter (fun cl => p.cores.any (fun k => k / 192 == cl))

/-- Acceptance: the entry records are copied, the packet starts, the context is ACTIVE, and the launcher begins. -/
def acceptLaunch (s : State) (q : Queue) (hdr : PktHdr) (b : LaunchBody) (obj : Nat) (o : Obj) (n : Node) (cohes : Bool) : State :=
  let (f, s) := s.takeFree
  let cls := partClusters (s.part q.part)
  let cluster := cls.getD (f % max 1 cls.length) 0
  let t := b.node.toNat
  let l0 := newLaunch q hdr b obj o n cluster cohes
  let l := entryRuns o t (s.launcherCycle cluster) b.count.toNat l0
  match copyEntries ⟨q.ctx, .read, 4, none, packetAgent hdr.queue hdr.index⟩ b.entries.toNat (o.rsz t) (l.records.map (fun r => recordVa l o t r.block r.slot)) s with
  | (none, s) => s.post (.launchGraph hdr b)
  | (some true, s) => refuseLaunch s hdr 6
  | (some false, s) =>
    let s := startPacket s hdr.queue hdr 1 none
    let s := if ((alGet s.ctxs q.ctx).map (·.state)) = some .created then setCtxState s q.ctx .active else s
    let li := s.nextReq
    let s := { (s.setLaunch li l) with nextReq := li + 1 }
    (firstGroups s li l n).post (.packetStart hdr.queue)

/-- LAUNCH_GRAPH: the checks of R422 in order; the first failure completes the packet with its status. A queue that has
left MAPPED meanwhile reads the packet again later. -/
def execLaunchGraph (hdr : PktHdr) (body : LaunchBody) (s : State) : Out :=
  match alGet s.queues hdr.queue with
  | none => .next s
  | some q =>
    if !q.launching then .next s
    else if q.state ≠ .mapped then .next (s.updQueue hdr.queue (fun q => { q with launching := false }))
    else
      match launchObject s q body with
      | none => .next (refuseLaunch s hdr 2)
      | some (h, o, n) =>
        if !slotsMatch (s.part q.part) o body.node.toNat then .next (refuseLaunch s hdr 3)
        else if !poolOk o n body then .next (refuseLaunch s hdr 4)
        else
          match o.kernel body.node.toNat with
          | none => .next (refuseLaunch s hdr 2)
          | some k =>
            let cohes := hdr.flags.getLsbD 2 || k.coresident || n.kind == .persistent
            if !launchFits (s.part q.part) o n k body cohes then .next (refuseLaunch s hdr 5)
            else .next (acceptLaunch s q hdr body h o n cohes)

/-! ### COPY and FILL (R423) -/

/-- The bulk copy engine's access to the context of a packet's queue. -/
def bulkReq (s : State) (hdr : PktHdr) (need : Need) : ReqInfo := ⟨queueCtx s hdr.queue, need, 5, none, packetAgent hdr.queue hdr.index⟩

/-- The partition of a packet's queue owns a bulk copy engine; without one a COPY or FILL waits for it (R423, R441; log
entry 79). -/
def hasEngine (s : State) (hdr : PktHdr) : Bool :=
  ((alGet s.queues hdr.queue).map (fun q => !(s.part q.part).engines.isEmpty)).getD false

/-- Bytes from an address to the end of its sector, and from its sector's start to it, the byte at it included. -/
def toEnd (a : Nat) : Nat := 32 - a % 32
def fromStart (a : Nat) : Nat := a % 32 + 1

/-- Move n bytes: whether a page waits, or is fatal, or the bytes have moved. Poison moves with them. -/
def moveBytes (s : State) (hdr : PktHdr) (src dst n : Nat) : TransN × State :=
  match ctxRead s (bulkReq s hdr .read) (src % 2 ^ 64) n with
  | (.error t, s) => (t, s)
  | (.ok (v, p), s) => ctxWrite s (bulkReq s hdr .write) (dst % 2 ^ 64) n v p

/-- The started packet of a header. -/
def startedOf (s : State) (hdr : PktHdr) : Option Started :=
  (alGet s.queues hdr.queue).bind fun q => q.started.find? (fun e => e.index == hdr.index)

/-- Change the started packet of a header. -/
def updStarted (s : State) (hdr : PktHdr) (u : Started → Started) : State :=
  s.updQueue hdr.queue (fun q => { q with started := q.started.map (fun e => if e.index = hdr.index then u e else e) })

/-- A COPY or FILL has no more to do: it completes, with the status that stopped it or OK, once the link ports have acknowledged
what it wrote (R423); until then it comes round again. -/
def endBulk (s : State) (hdr : PktHdr) (again : Instr) : State :=
  s.post (if portsBusy s then again else .packetComplete hdr.queue hdr.index (((startedOf s hdr).bind (·.status)).getD 0))

/-- A fatal result stops a COPY or FILL; the bytes already written remain (R423). -/
def stopBulk (s : State) (hdr : PktHdr) (again : Instr) : State :=
  (updStarted s hdr (fun e => { e with status := some 6 })).post again

/-- COPY moves one sector's worth of bytes and comes round again; from the end where TO overlaps after FROM. -/
def execCopy (hdr : PktHdr) (src dst len : Word) (s : State) : Out :=
  let a := src.toNat
  let b := dst.toNat
  let n := len.toNat
  if !inProgress s hdr then .next s
  else if n = 0 then .next (endBulk s hdr (.copy hdr src dst len))
  else if !hasEngine s hdr then .next (s.post (.copy hdr src dst len))
  else
    let back : Bool := decide (a < b ∧ b < a + n)
    let m := if back then min n (min (fromStart (a + n - 1)) (fromStart (b + n - 1))) else min n (min (toEnd a) (toEnd b))
    let r := if back then moveBytes s hdr (a + n - m) (b + n - m) m else moveBytes s hdr a b m
    let left : Word := BitVec.ofNat 64 (n - m)
    match r.1 with
    | .fault _ => .next (r.2.post (.copy hdr src dst len))
    | .fatal _ => .next (stopBulk r.2 hdr (.copy hdr src dst 0))
    | .ok _ =>
      if back then .next (r.2.post (.copy hdr src dst left))
      else .next (r.2.post (.copy hdr (src + BitVec.ofNat 64 m) (dst + BitVec.ofNat 64 m) left))

/-- n bytes from address x, byte (x mod 8) of the pattern at x. -/
def fillBytes (pattern x : Nat) : Nat → Nat
  | 0 => 0
  | n + 1 => pattern / 256 ^ (x % 8) % 256 + 256 * fillBytes pattern (x + 1) n

/-- FILL writes up to a sector's end and comes round again; it is complete as a COPY is. -/
def execFill (hdr : PktHdr) (dst len pattern : Word) (s : State) : Out :=
  let n := len.toNat
  if !inProgress s hdr then .next s
  else if n = 0 then .next (endBulk s hdr (.fill hdr dst len pattern))
  else if !hasEngine s hdr then .next (s.post (.fill hdr dst len pattern))
  else
    let m := min n (toEnd dst.toNat)
    let r := ctxWrite s (bulkReq s hdr .write) dst.toNat m (fillBytes pattern.toNat dst.toNat m)
    match r.1 with
    | .fault _ => .next (r.2.post (.fill hdr dst len pattern))
    | .fatal _ => .next (stopBulk r.2 hdr (.fill hdr dst 0 pattern))
    | .ok _ => .next (r.2.post (.fill hdr (dst + BitVec.ofNat 64 m) (BitVec.ofNat 64 (n - m)) pattern))

/-! ### WAIT_MEM (R424) -/

/-- Bytes of a word: 4 or 8. -/
def wordBytes (wide : Bool) : Nat := if wide then 8 else 4

/-- The word of a WAIT_MEM is read and tested: it waits for a page; or a status, or the place where it lies unmet. -/
def readWait (s : State) (q : Queue) (hdr : PktHdr) (b : WaitBody) : Option (Except (BitVec 8) (Tgt × Nat)) × State :=
  match translateRange s (seqReq q .read (packetAgent hdr.queue hdr.index)) b.addr.toNat (wordBytes b.wide) with
  | (.fault _, s) => (none, s)
  | (.fatal _, s) => (some (.error 6), s)
  | (.ok ps, s) =>
    match ps with
    | (t, pa) :: _ =>
      if linkTrains s t then (none, s) else
      let s := s.readAt t pa (wordBytes b.wide)
      match waitStatus (s.mem t) pa b with
      | some st => (some (.error st), s)
      | none => (some (.ok (t, pa)), s)
    | [] => (some (.error 6), s)

/-- The wait of a queue ends with a status: a BLOCKED queue is MAPPED, or UNMAPPED when it has no thread (R415). -/
def endWait (s : State) (h : Nat) (status : BitVec 8) : State :=
  match alGet s.queues h with
  | none => s
  | some q =>
    match q.wait with
    | none => s
    | some x =>
      let free_ : QState := if q.thread then .mapped else .unmapped
      let s := s.updQueue h (fun q => { q with
        wait := none, waitSince := s.time
        state := if q.state = .blocked then free_ else q.state
        before := if q.state = .suspended ∧ q.before = .blocked then free_ else q.before })
      (s.postFirst (.packetComplete h x.hdr.index status)).post (.queueMap q.part)

/-- A queue that has started a WAIT_MEM may have no thread: with WIDX = RIDX it is unmapped meanwhile (R416). -/
def QState.running (q : QState) : Bool := q == .mapped || q == .unmapped

/-- The queue is BLOCKED at a WAIT_MEM, with or without a thread (R415): its polls and its timeout begin. -/
def blockQueue (s : State) (h : Nat) (hdr : PktHdr) (b : WaitBody) (place : Tgt × Nat) : State :=
  let s := s.updQueue h (fun q => { q with
    wait := some ⟨b, hdr, some place, 0, s.seqCycle q.seq, none⟩
    state := if q.state.running then .blocked else q.state
    before := if q.state = .suspended ∧ q.before.running then .blocked else q.before })
  let s := if b.timeout = 0 then s else s.postOnce (.waitMemTimeout h)
  let s := if place.1 = .hbm then s else s.postOnce (.waitMemPoll h)
  s.post (.queueMap (((alGet s.queues h).map (·.part)).getD 16))

/-- WAIT_MEM: met, the packet completes; unmet, the queue is BLOCKED. -/
def execWaitMem (hdr : PktHdr) (body : WaitBody) (s : State) : Out :=
  if !inProgress s hdr then .next s
  else match alGet s.queues hdr.queue with
  | none => .next s
  | some q =>
    match readWait s q hdr body with
    | (none, s) => .next (s.post (.waitMem hdr body))
    | (some (.error st), s) => .next (s.post (.packetComplete hdr.queue hdr.index st))
    | (some (.ok place), s) => .next (blockQueue s hdr.queue hdr body place)

/-- One more test of a queue's wait; again is the step that comes round when a page waits. -/
def retest (s : State) (h : Nat) (again : Instr) : State :=
  match alGet s.queues h with
  | none => s
  | some q =>
    match q.wait with
    | none => s
    | some x =>
      match x.met with
      | some st => endWait s h st
      | none =>
        match readWait s q x.hdr x.body with
        | (none, s) => s.postOnce again
        | (some (.error st), s) => endWait s h st
        | (some (.ok place), s) =>
          let s := s.updQueue h (fun q => { q with wait := q.wait.map (fun x => { x with place := some place }) })
          if place.1 = .hbm then s else s.postOnce (.waitMemPoll h)

/-- WAIT_MEM_RETEST: a write to the watched sector was serialised, or the queue returned from SUSPENDED. -/
def execWaitMemRetest (queue : Nat) (s : State) : Out := .next (retest s queue (.waitMemRetest queue))

/-- WAIT_MEM_POLL: a word of host or peer memory is tested again. -/
def execWaitMemPoll (queue : Nat) (s : State) : Out := .next (retest s queue (.waitMemPoll queue))

/-- WAIT_MEM_TIMEOUT: TIMEOUT × 1,024 sequencer cycles spent BLOCKED; until then it comes round again. -/
def execWaitMemTimeout (queue : Nat) (s : State) : Out :=
  match alGet s.queues queue with
  | none => .next s
  | some q =>
    match q.wait with
    | none => .next s
    | some x =>
      if x.body.timeout = 0 ∨ x.met.isSome then .next s
      else if q.state = .blocked ∧ x.body.timeout.toNat * 1024 ≤ x.spent + (s.seqCycle q.seq - x.since) then .next (endWait s queue 7)
      else .next (s.postOnce (.waitMemTimeout queue))

/-! ### SIGNAL_MEM, EVENT (R424, R427) -/

/-- The atomic of a SIGNAL_MEM goes to its word's home (R424): it is no posted write (R464), and the packet completes once it is
performed. -/
def sendSignal (s : State) (hdr : PktHdr) (again : Instr) (t : Tgt) (pa n new : Nat) : State :=
  let s := (secWrites t (8 * pa) (8 * n) new false).foldl (fun s w => s.sendWrite false w) (s.readAt t pa n)
  if portAtomic s t then (updStarted s hdr (fun e => { e with signal := some t })).post again
  else s.post (.packetComplete hdr.queue hdr.index 0)

/-- SIGNAL_MEM: an exchange or an addition of the width given, wrapping, at the word's home, after a release at SYSTEM scope:
it waits while a link port holds a write that its far side has not taken (R201, R465). -/
def execSignalMem (hdr : PktHdr) (addr value : Word) (add wide : Bool) (s : State) : Out :=
  if !inProgress s hdr then .next s
  else match alGet s.queues hdr.queue, (startedOf s hdr).bind (·.signal) with
  | none, _ => .next s
  | _, some t => .next (s.post (if portAtomic s t then .signalMem hdr addr value add wide else .packetComplete hdr.queue hdr.index 0))
  | some q, none =>
    let n := wordBytes wide
    if portsBusy s then .next (s.post (.signalMem hdr addr value add wide)) else
    match translateRange s (seqReq q .rw (packetAgent hdr.queue hdr.index)) addr.toNat n with
    | (.fault _, s) => .next (s.post (.signalMem hdr addr value add wide))
    | (.fatal _, s) => .next (s.post (.packetComplete hdr.queue hdr.index 6))
    | (.ok ps, s) =>
      match ps with
      | (t, pa) :: _ =>
        if linkTrains s t then .next (s.post (.signalMem hdr addr value add wide)) else
        if rejects s t pa then .next (s.post (.packetComplete hdr.queue hdr.index 6)) else
        let old := if add then s.load t pa n else 0
        .next (sendSignal s hdr (.signalMem hdr addr value add wide) t pa n ((old + value.toNat) % 256 ^ n))
      | [] => .next (s.post (.packetComplete hdr.queue hdr.index 6))

/-- EVENT: an event of KIND 1 with the packet's data, stamped once the packet's completion word is written (R428). -/
def execEvent (hdr : PktHdr) (data : Word) (s : State) : Out :=
  if !inProgress s hdr then .next s
  else match alGet s.queues hdr.queue with
  | none => .next s
  | some _ =>
    .next ((updStarted s hdr (fun e => { e with event := some data })).post (.packetComplete hdr.queue hdr.index 0))

/-! ### RESYNC (R430) -/

/-- A context's 16 bytes of a summary. -/
def ctxEntry (c : Ctx) : Nat := packFields [(c.ctxid, 2), (c.state.code.toNat, 1), (0, 5), (c.errTail, 8)]

/-- A queue's 16 bytes of a summary. -/
def queueEntry (q : Queue) : Nat :=
  packFields [(q.qid, 2), (q.state.code.toNat, 1), (q.prio, 1), (q.ridx.toNat, 4), (q.widx.toNat, 4), (q.lastStatus.toNat, 1), (0, 3)]

/-- The entries of a function's summary: its contexts by CTXID, then its queues by QID, DESTROYED ones left out. -/
def resyncEntries (s : State) (fn : Nat) : List Nat :=
  let cs := (s.ctxs.filter (fun e => e.2.fn == fn && e.2.state != .destroyed)).map (·.2)
  let qs := (s.queues.filter (fun e => e.2.fn == fn && e.2.state != .destroyed)).map (·.2)
  (sortBy (fun (a b : Ctx) => decide (a.ctxid ≤ b.ctxid)) cs).map ctxEntry
    ++ (sortBy (fun (a b : Queue) => decide (a.qid ≤ b.qid)) qs).map queueEntry

/-- The 0xC0 bytes before the entries. -/
def resyncHeader (s : State) (fn : Nat) : Nat :=
  let p := s.part ((s.fn fn).part.getD 16)
  let nctx := (s.ctxs.filter (fun e => e.2.fn == fn && e.2.state != .destroyed)).length
  let nq := (queuesWhere s (fun q => q.fn == fn)).length
  let open_ (stage : Nat) : Nat := (s.reqs.filter (fun r => r.fn == fn && r.stage == stage)).length
  packFields ([(0xC0 + 16 * (nctx + nq), 4), (nctx, 2), (nq, 2), ((p.stamp - 1).toNat, 8), ((s.fn fn).gen.toNat, 4), (open_ 1, 4),
    (open_ 2, 4), ((s.fn fn).evtLost.toNat, 4), (0, 32)] ++ (List.range 16).map (fun i => ((slotWordOf (p.slot i)).toNat, 8)))

/-- RESYNC: the summary is taken and written in one step; what does not fit BUFLEN is left out, and the status says so. -/
def execResync (hdr : PktHdr) (buf : Word) (len : BitVec 32) (s : State) : Out :=
  if !inProgress s hdr then .next s
  else match alGet s.queues hdr.queue with
  | none => .next s
  | some q =>
    let es := resyncEntries s q.fn
    let fit := (len.toNat - 0xC0) / 16
    let out := es.take fit
    let v := packFields ((resyncHeader s q.fn, 0xC0) :: out.map (fun e => (e, 16)))
    match ctxWrite s (seqReq q .write (packetAgent hdr.queue hdr.index)) buf.toNat (0xC0 + 16 * out.length) v with
    | (.fault _, s) => .next (s.post (.resync hdr buf len))
    | (.fatal _, s) => .next (s.post (.packetComplete hdr.queue hdr.index 6))
    | (.ok _, s) =>
      .next (s.post (.packetComplete hdr.queue hdr.index (if len.toNat < 0xC0 + 16 * es.length then 0x0B else 0)))

/-! ### Functions (R429, R425) -/

/-- PAUSED of FN_PAUSE: every started packet of the function other than LAUNCH_GRAPH has completed. -/
def fnPaused (s : State) (fn : Nat) : Bool :=
  (s.fn fn).pause && s.queues.all (fun e => e.2.fn != fn || e.2.started.all (fun p => p.kind == 1))

/-- FN_PAUSE_WRITE: PAUSE = 1 suspends the VF's queues; PAUSE = 0 signals the messages held and lets them resume. -/
def execFnPauseWrite (vf : Nat) (value : Word) (s : State) : Out :=
  if vf = 0 ∨ 16 ≤ vf ∨ s.boot.recovery then .next s
  else
    let on := value.getLsbD 0
    .next (frozenWrite s vf (on != (s.fn vf).pause) fun s =>
      let s := s.updFn vf (fun f => { f with pause := on })
      let hs := queuesWhere s (fun q => q.fn == vf)
      if on then hs.foldl suspendQueue s else hs.foldl resumeQueue (releaseHeld s vf))

/-- FUNCTION_LEVEL_RESET: GEN rises, the queues and contexts are destroyed with no events, the event-ring and request-ring
registers read zero and no message is pending. -/
def resetFn (s : State) (fn : Nat) : State :=
  let s := s.updFn fn (fun f => { f with gen := f.gen + 1 })
  let s := (queuesWhere s (fun q => q.fn == fn)).foldl destroyQueue s
  let s := (ctxsOf s fn).foldl destroyCtx s
  let s := { s with reqs := s.reqs.filter (fun r => r.fn != fn) }
  s.updFn fn (fun f => { f with
    evtBase := 0, evtTail := 0, evtHead := 0, evtLost := 0, msix0Busy := false, msixHeld := 0
    prq1 := PrqRing.reset, prq2 := PrqRing.reset })

def execFunctionLevelReset (fn : Nat) (s : State) : Out := .next (resetFn s fn)

/-- WEIGHT_WRITE: zero stores one; only an owner ID that an ACTIVE partition owns has a weight (R425). -/
def execWeightWrite (part owner : Nat) (value : Byte) (s : State) : Out :=
  let p := s.part part
  if p.state = .active ∧ p.owners.contains owner ∧ !s.boot.recovery then
    .next (s.updPart part (fun p => { p with weights := alSet p.weights owner (if value = 0 then 1 else value.toNat) }))
  else .next s

end Sys2Proof.Machine
end

