-- ==== Sys2Proof/Machine/Pages.lean ====
section
/-!
DEFINITION. Page requests, ATS and invalidation (spec/21_pages.md, R388 to R394): PRQ_ENTRY_WRITE, PRQ_REPLY,
PRQ_BASE_WRITE, ATS_COMPLETION, PRG_RESPONSE, ATS_INVALIDATE_REQUEST, the four INV commands and INV_COMPLETE.
-/

namespace Sys2Proof.Machine

/-! ### Rings (R388) -/

/-- The ring of a stage of a function. -/
def Fn.ring (f : Fn) (stage : Nat) : PrqRing := if stage = 2 then f.prq2 else f.prq1
def Fn.setRing (f : Fn) (stage : Nat) (r : PrqRing) : Fn := if stage = 2 then { f with prq2 := r } else { f with prq1 := r }
def updRing (s : State) (fn stage : Nat) (u : PrqRing → PrqRing) : State :=
  s.updFn fn (fun f => f.setRing stage (u (f.ring stage)))

/-- Entries of a ring: 64 × 2^s. -/
def PrqRing.size (r : PrqRing) : Nat := 64 * 2 ^ (r.base.toNat % 8)

/-- The ring has an address and room for one more entry. -/
def PrqRing.room (r : PrqRing) : Bool := r.base.toNat / 4096 != 0 && (r.tail.toNat + 1) % r.size != r.head.toNat % r.size

/-- The requests of a ring: those that its replies may name. -/
def ringReqs (s : State) (fn stage : Nat) : List PageReq := s.reqs.filter (fun r => r.fn == fn && r.stage == stage)

/-- A tag that no outstanding request of the ring has; the device's choice is a free value. -/
def freeTag (s : State) (fn stage free : Nat) : Option Nat :=
  let used := (ringReqs s fn stage).filterMap (fun r => r.tag.map BitVec.toNat)
  ((List.range 4096).map (fun i => (free + i) % 4096)).find? (fun t => !used.contains t)

/-- The 32 bytes of an entry (R388). -/
def entryBits (s : State) (r : PageReq) (tag seq : Nat) : Nat :=
  packFields [(r.addr, 8), (tag, 2), (r.stage, 1), (r.level, 1), (r.need.toNat, 1), (r.source, 1),
    (((alGet s.ctxs r.ctx).map (·.ctxid)).getD 0, 2), (r.pasid.toNat, 4), (r.core.toNat, 2), (0, 2), (seq, 8)]

/-- PRQ_ENTRY_WRITE, charged to the owner of the access that raised the request (R454): the oldest waiting request of the ring is written when the ring has room; then the function's
page-request interrupt is signalled. A VF whose TDI is in ERROR writes none (R469). -/
def execPrqEntryWrite (fn stage : Nat) (s : State) : Out :=
  match (ringReqs s fn stage).find? (fun r => r.tag.isNone) with
  | none => .next s
  | some r =>
    let ring := (s.fn fn).ring stage
    if (s.fn fn).tdi = .error then .next s else
    let (f, s) := s.takeFree
    match freeTag s fn stage f with
    | none => .next s
    | some tag =>
      if !ring.room then .next s
      else if !linkCarries s .host || linkTrains s .host then .next (s.post (.prqEntryWrite fn stage))
      else
        let s := s.paid r.payer fun s =>
          s.store .host (ring.base.toNat / 4096 * 4096 + 32 * (ring.tail.toNat % ring.size)) 32 (entryBits s r tag (ring.seq + 1))
        let s := updRing s fn stage (fun g => { g with tail := BitVec.ofNat 16 ((g.tail.toNat + 1) % g.size), seq := g.seq + 1 })
        let s := { s with reqs := s.reqs.map (fun (q : PageReq) => if q.id = r.id then { q with tag := some (BitVec.ofNat 12 tag) } else q) }
        .next ((signalVector s fn 1).post (.prqEntryWrite fn stage))

/-- PRQ_BASE_WRITE: a malformed value is dropped; a written ring counts its entries from zero. -/
def execPrqBaseWrite (fn stage : Nat) (value : Word) (s : State) : Out :=
  if value.toNat % 8 = 7 ∨ value.toNat % 4096 / 8 ≠ 0 then .next s
  else if (stage = 1 && !takesMmio s fn) || s.boot.recovery then .next s
  else .next (frozenWrite s fn (value != ((s.fn fn).ring stage).base) fun s =>
    (updRing s fn stage (fun r => { r with base := value, seq := 0 })).post (.prqEntryWrite fn stage))

/-- One more reply dropped; PRQ_ERR saturates. -/
def countPrqErr (s : State) (fn stage : Nat) : State :=
  updRing s fn stage (fun r => { r with err := if r.err = BitVec.allOnes 32 then r.err else r.err + 1 })

/-! ### What a reply releases (R389, R391) -/

/-- A group whose accesses a reply may release: on a core and not halted. -/
def Group.running (g : Group) : Bool := (g.state == .resident || g.state == .placing) && !g.halting

/-- The windows with a sector that waits on a request: group, window, its state. A halt leaves fills alone and flushes in
progress (R248). -/
def waitingWindows (s : State) (id : Nat) : List (Nat × Nat × WinState) :=
  (s.groups.filter (fun e => e.2.running || (e.2.state == .resident && e.2.halting))).flatMap fun e =>
    (e.2.windows.zipIdx.filter (fun w => w.1.pend.any (fun p => p.2 == id)
      && (e.2.running || w.1.state == .flushing))).map (fun w => (e.1, w.2, w.1.state))

/-- The sectors of a window that wait on a request. -/
def waitingSectors (s : State) (g i id : Nat) : List Nat :=
  match s.group g with
  | some grp => (((grp.window i).pend.filter (fun p => p.2 == id)).map (·.1)).eraseDups
  | none => []

/-- A window's sectors walk again after RETRY (R243, R246); the window's state is recomputed in the step that follows, by an
arrival that names no sector of it (R239, R247 order 4). -/
def retryWindow (id : Nat) (s : State) (w : Nat × Nat × WinState) : State :=
  if w.2.2 = .flushing then s.post (.wflushComplete w.1 w.2.1)
  else
    let ks := waitingSectors s w.1 w.2.1 id
    let s := s.updWindow w.1 w.2.1 (fun x => { x with pend := x.pend.filter (fun p => !ks.contains p.1) })
    (ks.foldl (fun s k => s.post (.windowSectorArrival w.1 w.2.1 k)) s).postFirst (.windowSectorArrival w.1 w.2.1
      (((s.group w.1).map (fun g => (g.window w.2.1).sectors)).getD 0))

/-- A window's sectors meet the fatal result after FAIL: a fill's arrives as poisoned zeros, of a flush the elements of the page are not
written; ERR is set (R242, R246, R386). -/
def failWindow (id : Nat) (s : State) (w : Nat × Nat × WinState) : State :=
  let ks := waitingSectors s w.1 w.2.1 id
  if w.2.2 = .flushing then
    (s.updWindow w.1 w.2.1 (fun x => { x with
      lost := x.lost ++ (x.waits.filter (fun p => p.2 == id)).map (·.1), err := true })).post (.wflushComplete w.1 w.2.1)
  else ks.foldl (fun s k => arriveSector s w.1 w.2.1 k 0 true true) s

/-- Groups by rising %GROUP: of the traps of one step, those of the lowest %GROUP come first (R97). -/
def insertIdent (e : Nat × Group) : List (Nat × Group) → List (Nat × Group)
  | [] => [e]
  | f :: l => if e.2.ident.toNat < f.2.ident.toNat then e :: f :: l else f :: insertIdent e l

def byIdent (l : List (Nat × Group)) : List (Nat × Group) := l.foldl (fun acc e => insertIdent e acc) []

/-- The lanes held on a request: group, course, lane. -/
def heldLanes (s : State) (id : Nat) : List (Nat × Nat × Nat) :=
  (byIdent (s.groups.filter (fun e => e.2.running))).flatMap fun e =>
    (List.range e.2.courses.length).flatMap fun c =>
      ((List.range 32).filter (fun n => match ((e.2.course c).lane n).hold with
        | .fault rs => rs.contains id
        | _ => false)).map (fun n => (e.1, c, n))

/-- The held lanes trap PAGE_FATAL at their instructions (R386). -/
def failLanes (s : State) (lanes : List (Nat × Nat × Nat)) : State :=
  trapMany (lanes.map fun x => (x.1, x.2.1, x.2.2,
    ⟨.pageFatal, 0, ((((s.group x.1).map (·.course x.2.1)).getD Course.reset).lane x.2.2).pc, none⟩)) [] s

/-- The supervisor's delayed error records are tried again. -/
def retryAllErrs (s : State) : State :=
  s.ctxs.foldl (fun s e => if e.2.errPend.isEmpty then s else retryErrs s e.1) s

/-- A request is answered: it is outstanding no more, and what it held walks again, or meets its fatal result. -/
def answer (s : State) (r : PageReq) (fail : Bool) : State :=
  let lanes := heldLanes s r.id
  let wins := waitingWindows s r.id
  let s := { s with
    reqs := (s.reqs.filter (fun (q : PageReq) => q.id != r.id)).map (fun q =>
      { q with waiters := q.waiters.filter (fun a => !r.waiters.contains a) })
    failed := if fail then s.failed ++ r.waiters else s.failed }
  let s := if fail then wins.foldl (failWindow r.id) (failLanes s lanes) else wins.foldl (retryWindow r.id) s
  retryAllErrs (wakeAll s)

/-- PRQ_REPLY (R389): dropped and counted when malformed or when its TAG names no request; else RETRY or FAIL, and the
tag is free. -/
def execPrqReply (fn stage : Nat) (value : Word) (s : State) : Out :=
  let v := value.toNat
  let status := bitsNat v 23 20
  if (stage = 1 && !takesMmio s fn) || s.boot.recovery then .next s
  else match (ringReqs s fn stage).find? (fun r => r.tag.map BitVec.toNat == some (v % 4096)) with
  | none => .next (countPrqErr s fn stage)
  | some r =>
    if bitsNat v 63 24 ≠ 0 ∨ bitsNat v 19 12 ≠ 0 ∨ 2 ≤ status then .next (countPrqErr s fn stage)
    else .next ((answer s r (status == 1)).post (.prqEntryWrite fn stage))

/-! ### ATS and PRI (R392) -/

/-- The requests that wait on a translation of a host page for a PASID. -/
def atsReqs (s : State) (fn page : Nat) (pasid : BitVec 20) : List PageReq :=
  s.reqs.filter (fun r => r.fn == fn && r.stage == 3 && r.addr / 4096 == page && r.pasid == pasid)

/-- A page request group index that no outstanding request of the function has, while fewer than 512 are (R459). -/
def priIndex (s : State) (fn : Nat) : Option (BitVec 9) :=
  let used := (s.reqs.filter (fun r => r.fn == fn)).filterMap (·.pri)
  ((List.range 512).map (fun i => (s.fn fn).priNext + BitVec.ofNat 9 i)).find? (fun i => !used.contains i)

/-- A PRI Page Request that is due goes out under an index of its own, or waits in the device for one. -/
def sendPri (s : State) (r : PageReq) : State :=
  match priIndex s r.fn with
  | none => s
  | some i =>
    let s := { s with reqs := s.reqs.map (fun (q : PageReq) => if q.id = r.id then { q with pri := some i, priDue := false } else q) }
    s.updFn r.fn (fun f => { f with priNext := i + 1 })

/-- The requests of a function that wait for an index, oldest first, take those that are free. -/
def sendPris (s : State) (fn : Nat) : State := (s.reqs.filter (fun r => r.fn == fn && r.priDue)).foldl sendPri s

/-- A PRI Page Request is raised for a request whose access a completion did not grant. -/
def raisePri (s : State) (r : PageReq) : State :=
  sendPris { s with reqs := s.reqs.map (fun (q : PageReq) => if q.id = r.id then { q with priDue := true } else q) } r.fn

/-- ATS_COMPLETION: the completion is cached; a request it grants walks again, one it does not grant becomes a PRI Page
Request. -/
def execAtsCompletion (fn : Nat) (addr : Word) (pasid : BitVec 20) (read write : Bool) (translated : Word) (s : State) : Out :=
  if !(s.fn fn).ats then .next s
  else
    let page := addr.toNat / 4096
    let e : AtcEntry := ⟨page, pasid, translated.toNat / 4096, read, write⟩
    let s := if read || write then
        s.updFn fn (fun f => { f with atc := e :: f.atc.filter (fun x => !(x.page == page && x.pasid == pasid)) })
      else s
    .next ((atsReqs s fn page pasid).foldl (fun s r =>
      if ((r.need.getLsbD 0 || r.need.getLsbD 2) && !read) || (r.need.getLsbD 1 && !write) then
        (if r.pri.isNone then raisePri s r else s)
      else answer s r false) s)

/-- PRG_RESPONSE: Success (0) lets the held accesses translate again, their page no longer cached; Invalid Request (1) and
Response Failure (15) give PAGE_FATAL. -/
def execPrgResponse (fn : Nat) (index : BitVec 9) (code : BitVec 4) (s : State) : Out :=
  match s.reqs.find? (fun r => r.fn == fn && r.stage == 3 && r.pri == some index) with
  | none => .next s
  | some r =>
    if code = 0 then
      .next (sendPris (answer (s.updFn fn (fun f => { f with
        atc := f.atc.filter (fun x => !(x.page == r.addr / 4096 && x.pasid == r.pasid)) })) r false) fn)
    else if code = 1 ∨ code = 15 then .next (sendPris (answer s r true) fn)
    else .next s

/-- Every store issued and not yet at its home reaches it: of the groups that p names. -/
def drainWhere (s : State) (p : Group → Bool) : State :=
  s.groups.foldl (fun s e => if p e.2 && e.2.core.isSome then drainAll s e.1 else s) s

/-- Every load in flight is performed: of the groups that p names. -/
def fixWhere (s : State) (p : Group → Bool) : State :=
  { s with groups := s.groups.map (fun e => if p e.2 then (e.1, { e.2 with courses := e.2.courses.map (·.fixLoads (BitVec.allOnes 32)) }) else e) }

/-- The function of a group's context. -/
def groupFn (s : State) (g : Group) : Nat := ((s.launch g.launch).map (·.fn)).getD 16

/-- ATS_INVALIDATE_REQUEST: the cached entries it covers are dropped, once every access that used one has left the port: the
stores and loads in flight are performed, and while the host's port trains, or a packet is on its way to a ring, the request
comes round again (R392). -/
def execAtsInvalidateRequest (fn : Nat) (addr : Word) (pages : Nat) (s : State) : Out :=
  if linkTrains s .host || !s.posts.isEmpty then .next (s.post (.atsInvalidateRequest fn addr pages)) else
  let first := addr.toNat / 4096
  let mine (g : Group) : Bool := groupFn s g == fn
  let s := fixWhere (drainWhere s mine) mine
  .next (s.updFn fn (fun f => { f with atc := f.atc.filter (fun e => decide (e.page < first ∨ first + pages ≤ e.page)) }))

/-! ### Invalidation (R393, R394) -/

/-- The command is written; its range starts at INV_ADDR. -/
def startInv (s : State) (fn kind ctxid pages : Nat) (seq : BitVec 16) : State :=
  if !takesMmio s fn then s
  else
    let c : InvCmd := ⟨kind, ctxid, (s.fn fn).invAddr.toNat / 4096 * 4096, pages, seq⟩
    (s.updFn fn (fun f => { f with invs := f.invs ++ [c] })).post (.invComplete fn)

def execInvContextAll (fn : Nat) (ctxid seq : BitVec 16) (s : State) : Out := .next (startInv s fn 0 ctxid.toNat 0 seq)

def execInvContextRange (fn : Nat) (ctxid : BitVec 16) (pages : BitVec 6) (seq : BitVec 16) (s : State) : Out :=
  .next (startInv s fn 1 ctxid.toNat pages.toNat seq)

/-- A stage-2 command is taken in the PF's BAR0 only; in a VF's it is dropped and counted. -/
def execInvStage2All (fn : Nat) (seq : BitVec 16) (s : State) : Out :=
  .next (if fn = 0 then startInv s fn 2 0 0 seq else if takesMmio s fn then countPrqErr s fn 1 else s)

def execInvStage2Range (fn : Nat) (pages : BitVec 6) (seq : BitVec 16) (s : State) : Out :=
  .next (if fn = 0 then startInv s fn 3 0 pages.toNat seq else if takesMmio s fn then countPrqErr s fn 1 else s)

/-- Two ranges of bytes meet. -/
def meets (a : Nat × Nat) (base n : Nat) : Bool := decide (a.1 < base + n ∧ base < a.1 + a.2)

/-- A command of a function concerns walks of a context (R393, R394). -/
def invMeets (s : State) (fn : Nat) (c : InvCmd) (ctx : Nat) : Bool :=
  decide (2 ≤ c.kind) || match alGet s.ctxs ctx with
    | some x => x.fn == fn && x.ctxid == c.ctxid
    | none => false

/-- A cached walk is covered by a command of a function (R394). -/
def invCovers (s : State) (fn : Nat) (c : InvCmd) (e : TlbEntry) : Bool :=
  let mine := invMeets s fn c e.ctx
  let n := 4096 * 2 ^ c.pages
  match c.kind with
  | 0 => mine
  | 1 => mine && (meets e.span1 c.addr n || meets (e.page * 4096, 4096) c.addr n)
  | 2 => true
  | _ => e.spans2.any (fun r => meets r c.addr n)

/-- The pages of device HBM that cached walks lead to and a command covers. -/
def invPages (s : State) (fn : Nat) (c : InvCmd) : List Nat :=
  ((s.parts.toList.flatMap (·.tlb)).filter (fun e => invCovers s fn c e && unpackTgt e.second % 4 == 0)).map (fun e => e.second / 8 % 2 ^ 40)

/-- The lane's transaction has logged an access to one of the pages: it has translated and is not performed yet (R296, R297). -/
def Lane.logsIn (l : Lane) (pages : List Nat) : Bool :=
  l.live && (l.tx.rlog.any (fun e => pages.contains (e.sector / 128)) || l.tx.wlog.any (fun e => pages.contains (e.sector / 128)))

/-- The lane waits on a page request or for a window's fill, which an invalidation never waits for (R394). -/
def Lane.requested (l : Lane) : Bool :=
  match l.hold with
  | .fault _ => true
  | .code _ _ => true
  | .window _ _ => true
  | .fill _ _ _ _ => true
  | _ => false

/-- The lanes of a course that have logged an access to the pages: those held so, which no transaction of theirs may keep a
command waiting (log entry 135), or the others. A frozen lane waits for the handler, not for its request. -/
def Course.logged (r : Course) (pages : List Nat) (held : Bool) : List Nat :=
  (List.range 32).filter fun n => (r.lane n).logsIn pages && held == ((r.lane n).requested && !r.frozen n)

/-- The transactions that keep a command waiting for a request abort with CONFLICT: their logs are never performed (R394; log
entry 135). -/
def abortHeldLogs (s : State) (mine : Group → Bool) (pages : List Nat) : State :=
  (s.groups.filter (fun e => e.2.alive && mine e.2)).foldl (fun s e => (e.2.courses.zipIdx).foldl (fun s r =>
    let ns := r.1.logged pages true
    if ns.isEmpty then s else abortEach s e.1 r.2 ns (fun _ => (1, 0))) s) s

/-- An access that has translated is not performed yet: one that a lane has logged through a walk to be dropped, one that a link
port holds, or a packet on its way to a ring (R394; log entry 135). -/
def invWaits (s : State) (mine : Group → Bool) (pages : List Nat) : Bool :=
  portsBusy s || !s.posts.isEmpty
    || s.groups.any (fun e => e.2.alive && mine e.2 && e.2.courses.any (fun r => !(r.logged pages false).isEmpty))

/-- A queue that waits at a word watches the place where a walk finds it now (R394, R424), and tests it. -/
def watchAgain (s : State) (e : Nat × Queue) : State :=
  match e.2.wait with
  | none => s
  | some x =>
    let (t, s) := translate s e.2.ctx x.body.addr.toNat .read
    let place : Option (Tgt × Nat) := match t with
      | .ok tgt pa _ _ => some (tgt, pa)
      | _ => none
    (s.updQueue e.1 (fun q => { q with wait := q.wait.map (fun w => { w with place := place }) })).postOnce (.waitMemRetest e.1)

/-- INV_COMPLETE: the oldest command of a function completes: every access translated before has been performed, what it covers
is cached no more, and INV_DONE shows its SEQ. -/
def execInvComplete (fn : Nat) (s : State) : Out :=
  match (s.fn fn).invs with
  | [] => .next s
  | c :: rest =>
    let mine (g : Group) : Bool := decide (2 ≤ c.kind) || groupFn s g == fn
    let s := fixWhere (drainWhere s mine) mine
    let pages := invPages s fn c
    let walks (g : Group) : Bool := invMeets s fn c (s.groupCtx g)
    let s := abortHeldLogs s walks pages
    if invWaits s walks pages then .next (s.post (.invComplete fn)) else
    let s := { s with parts := Vector.ofFn (fun i : Fin 16 =>
      let p := s.parts[i.val]'i.isLt
      { p with tlb := p.tlb.filter (fun e => !invCovers s fn c e) }) }
    let s := (s.queues.filter (fun e => e.2.state != .destroyed && invMeets s fn c e.2.ctx)).foldl watchAgain s
    .next (s.updFn fn (fun f => { f with invs := rest, invDone := c.seq }))

end Sys2Proof.Machine
end

