-- ==== Sys2Proof/Machine/Security.lean ====
section
/-!
DEFINITION. The security processor and its commands (spec/26_partitions.md, R436 to R457; R408 of spec/23_contexts.md):
the checks of a command block, PART_CREATE, PART_DESTROY, PART_GROW, PART_SHRINK, SHARE_SET, LEND, RECALL, KEY_ENROLL,
METER_REPORT, METER_SEED, and WAY_MOVE_EPOCH. A command whose effect takes time keeps its step coming round until it is
complete (State.spJob).
-/

namespace Sys2Proof.Machine

/-! ### The package (R18, R19, R487) -/

/-- PRESENT: the clusters whose core array is in service. -/
def presentBits (s : State) : BitVec 4 := ~~~(s.flash.fused ||| s.boot.dropped)

/-- DEV_TOPO. -/
def devTopo (s : State) : Word :=
  BitVec.ofNat 64 (0xFFF * 2 ^ 40 + s.boot.hbmLive.toNat * 2 ^ 32 + s.boot.uncoreLive.toNat * 2 ^ 28
    + (presentBits s).toNat * 2 ^ 24 + s.boot.dropped.toNat * 2 ^ 20 + s.flash.fused.toNat * 2 ^ 16
    + s.flash.sku.toNat * 2 ^ 8 + s.flash.stepping.toNat)

/-! ### Command blocks (R437, R438) -/

/-- Bytes as a little-endian number. -/
def natOfBytes : List Byte → Nat
  | [] => 0
  | b :: bs => b.toNat + 256 * natOfBytes bs

/-- LEN of an OP (R439). -/
def spLen : Nat → Option Nat
  | 1 => some 256 | 2 => some 16 | 3 => some 256 | 4 => some 256 | 5 => some 48 | 6 => some 112 | 7 => some 112
  | 8 => some 80 | 9 => some 80 | 10 => some 64
  | _ => none

/-- Steps 1 to 4 of R438 for a block of an OP: the status of the first failure. -/
def spCheck (s : State) (op : Nat) (b : CmdBlock) : Option (BitVec 8) :=
  let v := natOfBytes b.bytes
  let len := (spLen op).getD 0
  if fieldAt v 0 4 ≠ 0x4353584B ∨ fieldAt v 4 1 ≠ op ∨ (spLen op).isNone ∨ fieldAt v 0x30 4 ≠ len ∨ fieldAt v 5 3 ≠ 0
      ∨ fieldAt v 0x34 12 ≠ 0 then some 1
  else
    match s.flash.ownerKey with
    | none => some 3
    | some k =>
      if fieldAt v 0x10 32 ≠ k.toNat then some 3
      else if !Config.sm2Verify k (Config.sm3 (bytesOf (0x40 + len) v)) (bytesOf 64 (v / 256 ^ (0x40 + len))) then some 2
      else if fieldAt v 8 8 ≠ s.spSeq.toNat + 1 then some 4
      else none

/-- OP of a block (R437). -/
def blockOp (b : CmdBlock) : Nat := fieldAt (natOfBytes b.bytes) 4 1

/-- SP_STATUS shows the newest block, in progress. -/
def spBegin (s : State) (fn : Nat) (b : CmdBlock) : State :=
  s.updFn fn (fun f => { f with
    spStat := { f.spStat with busy := true, status := 0, op := BitVec.ofNat 8 (blockOp b) }
    spSeqLow := BitVec.ofNat 32 (fieldAt (natOfBytes b.bytes) 8 4) })

/-- The command ends with a status and BUSY clears. -/
def spEnd (s : State) (fn : Nat) (status : BitVec 8) : State :=
  { s.updFn fn (fun f => { f with spStat := { f.spStat with busy := false, status := status } }) with spJob := none }

/-- BODY of a block. -/
def spBody (op : Nat) (b : CmdBlock) : Nat := fieldAt (natOfBytes b.bytes) 0x40 ((spLen op).getD 0)

/-- Another command was submitted before this one and waits still. -/
def spBehind (s : State) (fn : Nat) (b : CmdBlock) : Bool :=
  match s.spWait with
  | [] => false
  | w :: _ => w != (fn, b)

/-- A command of the security processor (R438): commands are taken in the order submitted, each once the one in progress
has ended; a block that passes steps 1 to 4 takes
its SEQ; then its body rules, and its effect, at once complete or taken further each time the step comes round. -/
def spCommand (op : Nat) (self : Instr) (fn : Nat) (b : CmdBlock) (s : State)
    (begin_ : State → Nat → Except (BitVec 8) State) (further : State → Nat → Bool × State) : Out :=
  let go (s : State) : Out :=
    match further s (spBody op b) with
    | (true, s) => .next (spEnd s fn 0)
    | (false, s) => .next ({ s with spJob := some (fn, b) }.post self)
  match s.spJob with
  | some j =>
    if j = (fn, b) then go s
    else .next ({ s with spWait := if s.spWait.contains (fn, b) then s.spWait else s.spWait ++ [(fn, b)] }.post self)
  | none =>
    if s.boot.recovery then .next { s with spWait := s.spWait.filter (· != (fn, b)) }
    else if spBehind s fn b then
      .next ({ s with spWait := if s.spWait.contains (fn, b) then s.spWait else s.spWait ++ [(fn, b)] }.post self)
    else
      let s := spBegin { s with spWait := s.spWait.drop 1 } fn b
      match spCheck s op b with
      | some st => .next (spEnd s fn st)
      | none =>
        let s := { s with spSeq := s.spSeq + 1 }
        match begin_ s (spBody op b) with
        | .error st => .next (spEnd s fn st)
        | .ok s => go s

/-! ### Partition descriptors (R440, R441) -/

/-- The set bits of an n-byte bitmap at byte o. -/
def bitmap (v o n : Nat) : List Nat := (List.range (8 * n)).filter (fun k => (fieldAt v o n).testBit k)

/-- The fields of a descriptor. -/
structure PartDesc where
  pid : Nat
  hostOwner : Nat
  funcs : List Nat
  engines : List Nat
  s2root : Nat
  seqs : List Nat
  ports : List Nat
  features : BitVec 16
  cores : List Nat
  slices : List Nat
  channels : List Nat
  owners : List Nat

def partDescOf (d : Nat) : PartDesc :=
  { pid := fieldAt d 0 1, hostOwner := fieldAt d 1 1, funcs := bitmap d 2 2, engines := bitmap d 4 4, s2root := fieldAt d 8 8
    seqs := bitmap d 0x10 2, ports := bitmap d 0x12 2, features := BitVec.ofNat 16 (fieldAt d 0x14 2), cores := bitmap d 0x20 96
    slices := bitmap d 0x80 32, channels := bitmap d 0xA0 32, owners := bitmap d 0xC0 32 }

/-- The parts of a body that must be zero, a PID in range and ports that exist. -/
def descShape (d : Nat) (x : PartDesc) : Bool :=
  decide (x.pid < 16) && x.ports.all (fun k => decide (k < 12)) && fieldAt d 0x16 10 == 0 && fieldAt d 0xE0 32 == 0

/-- The named cores are in service (R19); the named slices and channels lie on dies whose uncore is (R487). -/
def resourcesLive (s : State) (x : PartDesc) : Bool :=
  x.cores.all (fun k => (presentBits s).getLsbD (k / 192))
    && x.slices.all (fun k => s.boot.uncoreLive.getLsbD (k / 64)) && x.channels.all (fun k => s.boot.hbmLive.getLsbD (k / 32))

/-- The rules of R441 whose breach is BAD_CMD. -/
def createShape (s : State) (d : Nat) (x : PartDesc) : Bool :=
  descShape d x && resourcesLive s x && !x.funcs.isEmpty && !x.seqs.isEmpty && !x.slices.isEmpty && !x.channels.isEmpty
    && x.owners.contains x.hostOwner && x.features.getLsbD 0 && x.s2root % 128 == 0 && x.channels.contains (x.s2root / 0x80000000)

/-- Some partition owns one of the resources that a partition owns alone. -/
def ownedAlready (s : State) (x : PartDesc) : Bool :=
  (List.range 16).any fun i =>
    let p := s.part i
    p.state != .free && (x.cores.any p.cores.contains || x.channels.any p.channels.contains || x.engines.any p.engines.contains
      || x.seqs.any p.seqs.contains || x.ports.any p.ports.contains || x.funcs.any p.funcs.contains || x.owners.any p.owners.contains)

/-! ### Ways of slices (R447, R448) -/

/-- A way count moves by one between two owners of a slice. -/
def moveWay (os : List (Nat × Nat × Nat × Nat)) (a b : Nat) : List (Nat × Nat × Nat × Nat) :=
  os.map fun o => if o.1 = a then (o.1, o.2.1, o.2.2.1, o.2.2.2 - 1) else if o.1 = b then (o.1, o.2.1, o.2.2.1, o.2.2.2 + 1) else o

/-- A new owner of a slice: all its ways when it is the only one, else none yet. -/
def joinSlice (pid : Nat) (sh : List SliceShare) (k : Nat) : List SliceShare :=
  if sh.any (fun e => e.slice == k && !e.owners.isEmpty) then
    sh.map (fun e => if e.slice = k then { e with owners := sortBy (fun a b => decide (a.1 ≤ b.1)) (e.owners ++ [(pid, 1, 16, 0)]) } else e)
  else sh.filter (fun e => e.slice != k) ++ [⟨k, [(pid, 1, 16, 16)]⟩]

/-- Ways of a departed owner go one at a time to the others in ascending PID, up to their ceilings. -/
def giveWays : Nat → List Nat → List (Nat × Nat × Nat × Nat) → List (Nat × Nat × Nat × Nat)
  | 0, _, os => os
  | n + 1, turn, os =>
    match turn.find? (fun p => os.any (fun o => o.1 == p && decide (o.2.2.2 < o.2.2.1))) with
    | some p => giveWays n (turn.filter (· != p) ++ [p])
        (os.map (fun o => if o.1 = p then (o.1, o.2.1, o.2.2.1, o.2.2.2 + 1) else o))
    | none => os

/-- A partition leaves a slice. -/
def leaveSlice (pid : Nat) (e : SliceShare) : SliceShare :=
  match e.owners.find? (fun o => o.1 == pid) with
  | some o =>
    let rest := e.owners.filter (fun o => o.1 != pid)
    { e with owners := giveWays o.2.2.2 (rest.map (·.1)) rest }
  | none => e

/-- Of the owners that p names, the one with the greatest value; ties go to the lower PID. -/
def bestOwner (os : List (Nat × Nat × Nat × Nat)) (p : Nat × Nat × Nat × Nat → Bool) (value : Nat × Nat × Nat × Nat → Int) : Option Nat :=
  ((sortBy (fun (a b : Nat × Nat × Nat × Nat) => decide (value b < value a) || (value a == value b && decide (a.1 ≤ b.1)))
    (os.filter p)).head?).map (·.1)

/-- The compliance move of R448, if one is due. -/
def complianceMove (os : List (Nat × Nat × Nat × Nat)) : Option (Nat × Nat) :=
  match os.find? (fun o => decide (o.2.2.2 < o.2.1)) with
  | some o => (bestOwner os (fun x => x.1 != o.1 && decide (0 < x.2.2.2)) (fun x => (x.2.2.2 : Int) - x.2.1)).map (fun a => (a, o.1))
  | none =>
    match os.find? (fun o => decide (o.2.2.1 < o.2.2.2)) with
    | some o => (bestOwner os (fun x => x.1 != o.1) (fun x => (x.2.2.1 : Int) - x.2.2.2)).map (fun b => (o.1, b))
    | none => none

/-- The monitor move of R448, from estimates of gain and loss that the spec leaves to the shadow-tag monitors. -/
def monitorMove (os : List (Nat × Nat × Nat × Nat)) (gain loss : Nat → Nat) : Option (Nat × Nat) :=
  match bestOwner os (fun o => decide (o.2.1 < o.2.2.2)) (fun o => -(loss o.1 : Int)),
      bestOwner os (fun o => decide (o.2.2.2 < o.2.2.1)) (fun o => (gain o.1 : Int)) with
  | some a, some b => if a ≠ b ∧ loss a < gain b then some (a, b) else none
  | _, _ => none

/-- One way of a slice moves between two of its owners. -/
def moveAt (s : State) (slice a b : Nat) : State :=
  { s with shares := s.shares.map (fun (x : SliceShare) => if x.slice = slice then { x with owners := moveWay x.owners a b } else x) }

/-- WAY_MOVE_EPOCH: a shared slice moves at most one way, and its next epoch follows (R448). -/
def execWayMoveEpoch (slice : Nat) (s : State) : Out :=
  match s.shares.find? (fun e => e.slice == slice) with
  | none => .next s
  | some e =>
    if e.owners.length < 2 then .next s
    else
      let (f, s) := s.takeFree
      let estimate (j p : Nat) : Nat := f / 2 ^ (32 * (2 * p + j)) % 2 ^ 32
      let move := (complianceMove e.owners).or (monitorMove e.owners (estimate 0) (estimate 1))
      let s := match move with
        | some (a, b) => moveAt s slice a b
        | none => s
      .next (s.post (.wayMoveEpoch slice))

/-- Epochs run for the slices that two or more partitions own. -/
def startEpochs (s : State) (slices : List Nat) : State :=
  slices.foldl (fun s k =>
    if s.shares.any (fun e => e.slice == k && decide (2 ≤ e.owners.length)) then s.postOnce (.wayMoveEpoch k) else s) s

/-! ### PART_CREATE (R443) -/

/-- A function joins a partition, or leaves it; a locked TDI enters ERROR (R468). -/
def setFnPart (s : State) (f : Nat) (p : Option Nat) : State :=
  let s := frozenWrite s f ((s.fn f).part != p) id
  s.updFn f (fun x => { x with part := p })

/-- Device HBM with the given channels zeroed and unpoisoned. -/
def zeroChannels (m : Memory) (cs : List Nat) : Memory :=
  { cells := m.cells.filter (fun c => !cs.contains (c.1 / 0x80000000)), poisoned := m.poisoned.filter (fun k => !cs.contains (32 * k / 0x80000000)) }

/-- A core's caches are empty and its banks hold the given slots. -/
def initCore (s : State) (home guest : Vector Slot 16) (lent : Option Nat) (k : Nat) : State :=
  s.setCore k { s.core k with l1 := [], icache := [], home := home, guest := guest, lentTo := lent }

/-- No slot of a bank is in use. -/
def emptyBank : Vector Slot 16 := Vector.replicate 16 Slot.empty

/-- The partition's resources are recorded (step 1), its counters, weights, token and keys are as at creation (step 3), its
channels read as zero (step 4) and its slices have it as an owner (step 5). -/
def grantPartition (s : State) (d : Nat) (x : PartDesc) : State :=
  let s := s.updPart x.pid (fun _ => { Part.reset with
    state := .creating, hostOwner := x.hostOwner, funcs := x.funcs, engines := x.engines, s2root := x.s2root, seqs := x.seqs
    ports := x.ports, features := x.features, cores := x.cores, slices := x.slices, channels := x.channels, owners := x.owners
    digest := Config.sm3 (bytesOf 256 d), slots := freshSlots })
  let s := x.funcs.foldl (fun s f => setFnPart s f (some x.pid)) s
  startEpochs { s with hbm := zeroChannels s.hbm x.channels, shares := x.slices.foldl (joinSlice x.pid) s.shares } x.slices

/-- PART_CREATE: BAD_CMD, BAD_STATE, CONFLICT; else CREATING, and ACTIVE once its cores' slots are initialised (step 2). -/
def execPartCreate (fn : Nat) (block : CmdBlock) (s : State) : Out :=
  spCommand 1 (.partCreate fn block) fn block s
    (fun s d =>
      let x := partDescOf d
      if !createShape s d x then .error 1
      else if (s.part x.pid).state ≠ .free then .error 6
      else if ownedAlready s x then .error 5
      else .ok (grantPartition s d x))
    (fun s d =>
      let x := partDescOf d
      let s := x.cores.foldl (initCore · freshSlots emptyBank none ·) s
      (true, s.updPart x.pid (fun p => { p with state := .active })))

/-! ### Recall (R408, R409, R452) -/

/-- The requests that a group's lanes and windows wait on. -/
def groupReqs (g : Group) : List Nat :=
  g.courses.flatMap (fun c => (List.range 32).flatMap (fun n => match (c.lane n).hold with
      | .fault rs => rs
      | _ => []))
    ++ g.windows.flatMap (fun w => (w.pend ++ w.waits).map (·.2))

/-- The page requests of groups that are gone are dropped (R408): those that nothing else waits on. One that a ring, or PRI, has
carried to the host is outstanding until its reply, which finds nothing of the groups (log entry 136). -/
def dropReqs (s : State) (ids : List Nat) (hs : List Nat) : State :=
  let mine := hs.map placeAgent
  let s := { s with reqs := s.reqs.map (fun (r : PageReq) => { r with waiters := r.waiters.filter (fun a => !mine.contains a) }) }
  let held := (s.groups.filter (·.2.alive)).flatMap (fun e => groupReqs e.2)
  { s with reqs := s.reqs.filter (fun r =>
      !((ids.contains r.id) && r.tag.isNone && r.pri.isNone && r.waiters.isEmpty && !held.contains r.id)) }

/-- A group on a recalled core: it retires if it can at once, else it is discarded. -/
def recallGroup (s : State) (h : Nat) : State :=
  match retireNow s h with
  | some s => s
  | none => discardGroup s h false

/-- Recall of several cores: nothing more is placed on them, and their groups retire or are discarded, all before the
launchers' next work (R344, R408, R409). -/
def recallGroups (s : State) (ks : List Nat) : State :=
  let gs := ks.flatMap s.coreGroups
  let ids := gs.flatMap (fun e => groupReqs e.2) ++ ((s.reqs.filter (fun r => gs.any (fun e => r.waiters.contains (placeAgent e.1)))).map (·.id))
  let s := ks.foldl (fun s k => match (s.core k).lentTo with
    | some b => s.updPart b (fun p => { p with leaving := setInsert k p.leaving })
    | none => s) s
  let s := dropReqs ((gs.map (·.1)).foldl recallGroup s) ids (gs.map (·.1))
  ((gs.map (·.2.launch)).eraseDups).foldl lookAgain s

/-- A recalled core comes back to its owner: it switches to its home bank, and messages of the borrower's format manager to it
are answered. -/
def returnCore (s : State) (k : Nat) : State :=
  match (s.core k).lentTo with
  | none => s
  | some b =>
    let s := s.updPart b (fun p => { p with leaving := p.leaving.filter (· != k) })
    let s := s.setCore k { s.core k with lentTo := none, guest := emptyBank, l1 := [] }
    (ackCore s b k).postOnce (.groupPlace [])

/-- No group is left on the cores: one that retires may wait there for link ports to acknowledge what it committed (R213,
R408). -/
def coresEmpty (s : State) (ks : List Nat) : Bool := ks.all (fun k => (s.coreGroups k).isEmpty)

/-- Bodies of LEND and RECALL: PIDs and the bitmap of cores. -/
def bodyCores (d : Nat) : List Nat := bitmap d 0x10 96

/-- RECALL: the cores named are the lender's again (R452). -/
def execRecall (fn : Nat) (block : CmdBlock) (s : State) : Out :=
  spCommand 7 (.recall fn block) fn block s
    (fun s d =>
      let p := fieldAt d 0 1
      if 16 ≤ p ∨ fieldAt d 1 15 ≠ 0 then .error 1
      else if (s.part p).state ≠ .active then .error 6
      else if !(bodyCores d).all (fun k => (s.part p).cores.contains k && (s.core k).lentTo.isSome) then .error 5
      else .ok (recallGroups s (bodyCores d)))
    (fun s d => if coresEmpty s (bodyCores d) then (true, (bodyCores d).foldl returnCore s) else (false, s))

/-! ### Cores that leave a partition's use (R445, R451) -/

/-- The partition's groups on the cores are named for halt, with their whole units; nothing more is placed there. -/
def vacate (s : State) (p : Nat) (ks : List Nat) : State :=
  let s := s.updPart p (fun q => { q with leaving := q.leaving ++ ks })
  let hs := (s.groups.filter (fun e => s.groupPart e.2 == p && (match e.2.core with
    | some k => ks.contains k
    | none => false))).map (·.1)
  if hs.isEmpty then s else requestHalt s (hs.flatMap (haltUnit s)).eraseDups .preempt

/-- The cores hold nothing of a partition. -/
def vacated (s : State) (p : Nat) (ks : List Nat) : Bool :=
  ks.all (fun k => (s.coreGroups k).all (fun e => s.groupPart e.2 != p))

/-- LEND: CONFLICT and BAD_STATE as R451 says; else the cores are vacated, the borrower's slots are written to their guest
banks, and the borrower's launcher may use them. -/
def execLend (fn : Nat) (block : CmdBlock) (s : State) : Out :=
  spCommand 6 (.lend fn block) fn block s
    (fun s d =>
      let p := fieldAt d 0 1
      let b := fieldAt d 1 1
      let ks := bodyCores d
      if 16 ≤ p ∨ 16 ≤ b ∨ fieldAt d 2 14 ≠ 0 then .error 1
      else if (s.part p).state ≠ .active ∨ (s.part b).state ≠ .active ∨ b = p then .error 6
      else if !ks.all (fun k => (s.part p).cores.contains k && (s.core k).lentTo.isNone) then .error 5
      else .ok (vacate s p ks))
    (fun s d =>
      let p := fieldAt d 0 1
      let b := fieldAt d 1 1
      let ks := bodyCores d
      if !vacated s p ks || !(s.part b).slotJobs.isEmpty then (false, s)
      else
        let s := ks.foldl (fun s k => initCore s (s.core k).home (s.part b).slots (some b) k) s
        (true, (s.updPart p (fun q => { q with leaving := q.leaving.filter (fun k => !ks.contains k) })).postOnce (.groupPlace [])))

/-! ### GROW and SHRINK (R445) -/

/-- The fields of a GROW or SHRINK body that must be zero. -/
def changeShape (d : Nat) (x : PartDesc) : Bool :=
  descShape d x && x.slices.isEmpty && x.channels.isEmpty && x.s2root == 0 && x.hostOwner == 0 && x.features == 0

/-- A GROW's or SHRINK's body is folded into the descriptor digest (R470). -/
def foldBody (s : State) (p d : Nat) : State := s.updPart p (fun q => { q with digest := Config.foldDigest q.digest (bytesOf 256 d) })

/-- Add the named numbers to a rising list. -/
def addAll (xs ys : List Nat) : List Nat := ys.foldl (fun l y => setInsert y l) xs
def dropAll (xs ys : List Nat) : List Nat := xs.filter (fun x => !ys.contains x)

/-- PART_GROW: the added cores receive the partition's slots before they are granted (R52). -/
def execPartGrow (fn : Nat) (block : CmdBlock) (s : State) : Out :=
  spCommand 3 (.partGrow fn block) fn block s
    (fun s d =>
      let x := partDescOf d
      if !changeShape d x || !resourcesLive s x then .error 1
      else if (s.part x.pid).state ≠ .active then .error 6
      else if ownedAlready s x then .error 5
      else .ok s)
    (fun s d =>
      let x := partDescOf d
      if !(s.part x.pid).slotJobs.isEmpty then (false, s)
      else
        let s := x.cores.foldl (initCore · (s.part x.pid).slots emptyBank none ·) s
        let s := s.updPart x.pid (fun p => { p with
          cores := addAll p.cores x.cores, engines := addAll p.engines x.engines, seqs := addAll p.seqs x.seqs
          ports := addAll p.ports x.ports, funcs := addAll p.funcs x.funcs, owners := addAll p.owners x.owners
          weights := p.weights.filter (fun w => !x.owners.contains w.1) })
        let s := x.funcs.foldl (fun s f => setFnPart s f (some x.pid)) s
        (true, ((foldBody s x.pid d).postOnce (.groupPlace [])).postOnce (.queueMap x.pid)))

/-- The partition owns everything that a SHRINK names. -/
def ownsAll (p : Part) (x : PartDesc) : Bool :=
  x.cores.all p.cores.contains && x.engines.all p.engines.contains && x.seqs.all p.seqs.contains && x.ports.all p.ports.contains
    && x.funcs.all p.funcs.contains && x.owners.all p.owners.contains

/-- Some queue that is not DESTROYED has one of the owners. -/
def ownersBusy (s : State) (p : Nat) (os : List Nat) : Bool :=
  !(queuesWhere s (fun q => q.part == p && os.contains q.owner)).isEmpty

/-- A queue loses its thread. -/
def unmapQueue (s : State) (h : Nat) : State :=
  s.updQueue h (fun q => { q with
    thread := false, waitSince := s.time
    state := if q.state = .mapped then .unmapped else q.state
    before := if q.before = .mapped then .unmapped else q.before })

/-- Sequencers leave: the queues on their threads are unmapped (R445). -/
def dropSeqs (s : State) (p : Nat) (seqs : List Nat) : State :=
  if seqs.isEmpty then s
  else
    let s := s.updPart p (fun q => { q with seqs := dropAll q.seqs seqs })
    ((queuesWhere s (fun q => q.part == p && q.thread && seqs.contains q.seq)).foldl unmapQueue s).postOnce (.queueMap p)

/-- COPY and FILL packets of a partition in progress. -/
def bulkPackets (s : State) (p : Nat) : Nat :=
  ((s.queues.filter (fun e => e.2.part == p)).map (fun e => (e.2.started.filter (fun x => x.kind == 2 || x.kind == 3)).length)).sum

/-- A function that a SHRINK removes is reset (R429); a locked TDI enters ERROR (R468). It leaves its partition when the packets
that it had started are done (R413, R429). -/
def removeFn (s : State) (f : Nat) : State := resetFn (frozenWrite s f true id) f

/-- A started packet that cannot go on by itself: an unmet WAIT_MEM, a COPY or FILL of a partition that has no engine, or one
held by a page request. -/
def packetHeld (s : State) (h : Nat) (q : Queue) (e : Started) : Bool :=
  (q.wait.isSome && e.kind == 4) || ((e.kind == 2 || e.kind == 3) && (s.part q.part).engines.isEmpty)
    || s.reqs.any (fun r => r.waiters.contains (packetAgent h e.index) || r.waiters.contains (wordAgent h e.index))

/-- Every started packet of some queues has completed, or cannot. -/
def packetsDone (s : State) (mine : Queue → Bool) : Bool :=
  s.queues.all (fun e => !mine e.2 || e.2.started.all (packetHeld s e.1 e.2))

/-- The packets that cannot complete go with their queues. -/
def dropStarted (s : State) (mine : Queue → Bool) : State :=
  s.queues.foldl (fun s e => if mine e.2 then s.updQueue e.1 (fun q => { q with started := [], wait := none }) else s) s

/-- A function leaves its partition, and its packets that cannot complete go. -/
def leaveFn (s : State) (f : Nat) : State :=
  let s := dropStarted s (fun q => q.fn == f)
  setFnPart { s with reqs := s.reqs.filter (fun r => r.fn != f) } f none

/-- The SHRINK's engines, functions and cores have gone: the packets that the engines and functions had started are done, and
the cores are empty. -/
def shrinkDone (s : State) (x : PartDesc) : Bool :=
  vacated s x.pid x.cores && packetsDone s (fun q => x.funcs.contains q.fn)
    && (x.engines.isEmpty || decide (bulkPackets s x.pid ≤ (dropAll (s.part x.pid).engines x.engines).length))

/-- A core leaves its partition: its caches and home bank are empty. -/
def releaseCore (p : Nat) (s : State) (k : Nat) : State := initCore (ackCore s p k) emptyBank emptyBank none k

/-- PART_SHRINK. -/
def execPartShrink (fn : Nat) (block : CmdBlock) (s : State) : Out :=
  spCommand 4 (.partShrink fn block) fn block s
    (fun s d =>
      let x := partDescOf d
      if !changeShape d x then .error 1
      else if (s.part x.pid).state ≠ .active then .error 6
      else if x.owners.contains (s.part x.pid).hostOwner then .error 1
      else if !ownsAll (s.part x.pid) x || x.cores.any (fun k => (s.core k).lentTo.isSome) || ownersBusy s x.pid x.owners then .error 5
      else
        let s := dropSeqs (vacate s x.pid x.cores) x.pid x.seqs
        let s := x.funcs.foldl removeFn s
        .ok (s.updPart x.pid (fun p => { p with
          ports := dropAll p.ports x.ports, funcs := dropAll p.funcs x.funcs, owners := dropAll p.owners x.owners
          weights := p.weights.filter (fun w => !x.owners.contains w.1) })))
    (fun s d =>
      let x := partDescOf d
      if !shrinkDone s x then (false, s)
      else
        let s := x.funcs.foldl leaveFn (x.cores.foldl (releaseCore x.pid) s)
        let s := s.updPart x.pid (fun p => { p with
          cores := dropAll p.cores x.cores, leaving := dropAll p.leaving x.cores, engines := dropAll p.engines x.engines })
        (true, (foldBody s x.pid d).postOnce (.groupPlace [])))

/-! ### PART_DESTROY (R446) -/

/-- The cores that a partition has lent, and those lent to it. -/
def loanedCores (s : State) (p : Nat) : List Nat := (s.part p).cores.filter (fun k => (s.core k).lentTo.isSome) ++ lentCores s p

/-- Steps 1 to 3 of R446: lent cores are recalled, the groups on borrowed ones end as in a recall, the locked TDIs enter ERROR
and every context of the functions is destroyed. -/
def endPartition (s : State) (p : Nat) : State :=
  let s := s.updPart p (fun q => { q with state := .destroying })
  let s := recallGroups s (loanedCores s p)
  let s := ((loanedCores s p).filter (fun k => coresEmpty s [k])).foldl returnCore s
  let s := (s.part p).funcs.foldl (fun s f => frozenWrite s f true id) s
  let s := (queuesWhere s (fun q => q.part == p)).foldl destroyQueue s
  ((s.part p).funcs.flatMap (ctxsOf s)).foldl destroyCtx s

/-- Steps 4 and 5: everything of the partition is free; a TDI that was locked again meanwhile enters ERROR (R468). -/
def freePartition (s : State) (p : Nat) : State :=
  let x := s.part p
  let s := x.cores.foldl (releaseCore p) s
  let s := x.funcs.foldl (fun s f => setFnPart s f none) (dropStarted s (fun q => q.part == p))
  let s := { s with
    shares := (s.shares.map (leaveSlice p)).filter (fun e => !e.owners.isEmpty)
    reqs := s.reqs.filter (fun r => !x.funcs.contains r.fn) }
  let s := dropPidLines s (· == p)
  s.updPart p (fun _ => Part.reset)

/-- PART_DESTROY. -/
def execPartDestroy (fn : Nat) (block : CmdBlock) (s : State) : Out :=
  spCommand 2 (.partDestroy fn block) fn block s
    (fun s d =>
      let p := fieldAt d 0 1
      if 16 ≤ p ∨ fieldAt d 1 15 ≠ 0 then .error 1
      else if (s.part p).state ≠ .active then .error 6
      else .ok (endPartition s p))
    (fun s d =>
      let p := fieldAt d 0 1
      let ks := loanedCores s p
      if coresEmpty s ks && packetsDone s (fun q => q.part == p) then (true, freePartition (ks.foldl returnCore s) p) else (false, s))

/-! ### SHARE_SET, KEY_ENROLL (R447, R439) -/

/-- The floor and ceiling of a PID in a SHARE_SET body. -/
def sharePair (d p : Nat) : Nat × Nat := (fieldAt d (0x10 + 2 * p) 1, fieldAt d (0x11 + 2 * p) 1)

/-- The rules of SHARE_SET. -/
def shareOk (s : State) (d : Nat) : Bool :=
  let owners := ((s.shares.filter (fun e => e.slice == fieldAt d 0 2)).flatMap (·.owners)).map (·.1)
  let ps := (List.range 16).map (fun p => (p, sharePair d p))
  fieldAt d 2 14 == 0
    && ps.all (fun e => if owners.contains e.1 then decide (e.2.1 ≤ e.2.2 ∧ e.2.2 ≤ 16) else e.2.1 == 0 && e.2.2 == 0)
    && decide ((ps.map (·.2.1)).sum ≤ 16 ∧ 16 ≤ (ps.map (·.2.2)).sum)

/-- SHARE_SET: the owners of a slice take the floors and ceilings given. -/
def execShareSet (fn : Nat) (block : CmdBlock) (s : State) : Out :=
  spCommand 5 (.shareSet fn block) fn block s
    (fun s d =>
      if !shareOk s d then .error 1
      else if s.shares.any (fun e => e.slice == fieldAt d 0 2 && e.owners.any (fun o => (s.part o.1).state != .active)) then .error 6
      else .ok s)
    (fun s d => (true, { s with shares := s.shares.map (fun e =>
      if e.slice = fieldAt d 0 2 then
        { e with owners := e.owners.map (fun o => (o.1, (sharePair d o.1).1, (sharePair d o.1).2, o.2.2.2)) }
      else e) }))

/-- KEY_ENROLL: a partition holds at most 8 keys of each kind. -/
def execKeyEnroll (fn : Nat) (block : CmdBlock) (s : State) : Out :=
  spCommand 8 (.keyEnroll fn block) fn block s
    (fun s d =>
      let p := s.part (fieldAt d 0 1)
      let keys := if fieldAt d 1 1 = 0 then p.formatKeys else p.codeKeys
      if 16 ≤ fieldAt d 0 1 ∨ 2 ≤ fieldAt d 1 1 ∨ fieldAt d 2 14 ≠ 0 then .error 1
      else if p.state ≠ .active then .error 6
      else if 8 ≤ keys.length then .error 1
      else .ok s)
    (fun s d =>
      let key := Config.sm3 (bytesOf 64 (fieldAt d 0x10 64))
      (true, s.updPart (fieldAt d 0 1) (fun p =>
        if fieldAt d 1 1 = 0 then { p with formatKeys := p.formatKeys ++ [key] } else { p with codeKeys := p.codeKeys ++ [key] })))

/-! ### Meters (R456, R457) -/

/-- The attestation key of the running firmware: derived from the booted image (R481). -/
def attestKey (s : State) : Nat := s.boot.imageDigest.toNat

/-- The five counters of a set. -/
def Meter.counters (m : Meter) : List Nat := (List.range 5).map (fun k => (m.get k).toNat)

/-- The bytes of a meter report before its signature (R457). -/
def reportBytes (s : State) (seq nonce : Nat) (owners : List Nat) : List Byte :=
  let head := packFields [(0x524D584B, 4), (owners.length, 2), (0, 2), (seq, 8), (nonce, 32), ((Config.kraliaDigest 4).toNat, 32), (0, 48)]
  let rows := owners.flatMap (fun o => bytesOf 48 (packFields ((o, 8) :: (s.meter o).counters.map (fun c => (c, 8)))))
  bytesOf 128 head ++ rows

/-- METER_REPORT: every counter is taken at one moment after acceptance, and the report is written and signed. A VF whose TDI is
in ERROR by then has none written (R469). -/
def execMeterReport (fn : Nat) (block : CmdBlock) (s : State) : Out :=
  spCommand 9 (.meterReport fn block) fn block s
    (fun s d =>
      let os := bitmap d 0x10 32
      if fieldAt d 0xC 4 ≠ 0 ∨ fieldAt d 8 4 < 192 + 48 * os.length then .error 1 else .ok s)
    (fun s d =>
      let os := bitmap d 0x10 32
      let s := settleMeters s
      let bs := reportBytes s s.spSeq.toNat (fieldAt d 0x30 32) os
      let all := bs ++ Config.sm2Sign (attestKey s) (Config.sm3 bs)
      (true, if (s.fn fn).tdi = .error then s else s.store .host (fieldAt d 0 8) (bs.length + 64) (natOfBytes all)))

/-- METER_SEED raises the counters of a set to the given values, and lowers none. -/
def execMeterSeed (fn : Nat) (block : CmdBlock) (s : State) : Out :=
  spCommand 10 (.meterSeed fn block) fn block s
    (fun s d => if fieldAt d 1 15 ≠ 0 ∨ fieldAt d 0x38 8 ≠ 0 then .error 1 else .ok s)
    (fun s d =>
      let o := fieldAt d 0 1
      let s := settleMeters s
      let m := (List.range 5).foldl (fun (m : Meter) k => m.seed k (BitVec.ofNat 64 (fieldAt d (0x10 + 8 * k) 8))) (s.meter o)
      (true, s.setMeter o m))

end Sys2Proof.Machine
end

