-- ==== Sys2Proof/Machine/Links.lean ====
section
/-!
DEFINITION. Links (spec/27_links.md, R188, R458 to R466, R471 to R474): accesses by the host and by peers, the states of
ports with LNK_RESET, PARTNER_DETECT, TRAINING_COMPLETE, TRAINING_TIMEOUT, LINK_FAILURE and PCIE_LINK_DOWN, FLIT_RECEIVE,
PEER_REQUEST_RECEIVE, DUMP and DUMP_COMPLETE.
-/

namespace Sys2Proof.Machine

/-! ### Accesses to device memory from outside (R188, R228, R459, R464) -/

/-- A reply goes back. -/
def reply (s : State) (r : Reply) : State := { s with replies := r :: s.replies }

/-- The write of an access: the masked bits of its bytes, sector by sector, each with its own poison (R191, R464). -/
def accWrites (acc : HostAcc) (pa : Nat) : List SecWrite :=
  let data := secWrites .hbm (8 * pa) (8 * acc.size) acc.value false
  let mask := secWrites .hbm (8 * pa) (8 * acc.size) acc.mask false
  ((data.zip mask).zipIdx).map (fun e => { e.1.1 with mask := e.1.1.mask &&& e.1.2.data, poison := acc.poison.testBit e.2 })

/-- Bytes an access covers: its size, or its type's width. -/
def accBytes (acc : HostAcc) : Nat :=
  match acc.kind with
  | .atomic _ ty _ => atomBits ty / 8
  | _ => acc.size

/-- Sectors that an access touches. -/
def accSectors (acc : HostAcc) : Nat := (acc.addr + accBytes acc - 1) / 32 + 1 - acc.addr / 32

/-- The poison of the sectors that n bytes from an address touch, a bit for each. -/
def poisonMask (m : Memory) (a n : Nat) : Nat :=
  ((List.range ((a + n - 1) / 32 + 1 - a / 32)).map (fun i => if m.isPoisoned (a / 32 + i) then 2 ^ i else 0)).sum

/-- The read-modify-write of an access at its home (R228): the old value, and whether its sector was poisoned. -/
def accAtomic (s : State) (op : AtomOp) (ty : Nat) (acc : HostAcc) (pa : Nat) : (Nat × Bool) × State :=
  let w := atomBits ty
  let old := s.hbm.read pa (w / 8)
  let p := s.hbm.isPoisoned (pa / 32)
  let x := if op = .cas then acc.compare else acc.value
  let new := atomNew op ty old (x % 2 ^ w) (acc.value % 2 ^ w)
  if op = .cas ∧ old ≠ x % 2 ^ w then ((old, p), s.readAt .hbm pa (w / 8))
  else ((old, p), s.store .hbm pa (w / 8) new (p || acc.poison != 0))

/-- Perform an access at the home slice: its reply, when it has one. Its bytes on the link are charged (R454). Accesses of
the host that PCIe does not carry as an AtomicOp are unsupported requests (R459). -/
def performAccess (s : State) (acc : HostAcc) (pa : Nat) : Option Reply × State :=
  let s := linkBytes s (accBytes acc)
  match acc.kind with
  | .read => (some ⟨false, s.hbm.read pa acc.size, poisonMask s.hbm pa acc.size⟩, s.readAt .hbm pa acc.size)
  | .write => (none, s.applyWrites (accWrites acc pa))
  | .atomic op ty returns =>
    let r := accAtomic s (AtomOp.ofCode op) ty acc pa
    (if returns then some ⟨false, r.1.1, if r.1.2 then 1 else 0⟩ else none, r.2)

/-- An atomic whose operation, type and alignment R227 allows. -/
def accLegal (acc : HostAcc) : Bool :=
  match acc.kind with
  | .atomic op ty _ => decide (op < 8 ∧ ty < 8 ∧ (op = 0 ∨ 6 ≤ op ∨ ty < 4) ∧ acc.addr % (atomBits ty / 8) = 0)
  | _ => true

/-- What the host may ask as an AtomicOp: FetchAdd, Swap and CAS of 32 and 64 bits (R459). -/
def accPcieOk (acc : HostAcc) : Bool :=
  match acc.kind with
  | .atomic op ty returns => accLegal acc && hostAtomOk (AtomOp.ofCode op) ty && returns
  | _ => true

/-- The bytes lie in device HBM on channels of the partition (R444). -/
def devicePlace (p : Part) (a n : Nat) : Bool :=
  decide (1 ≤ n ∧ a + n ≤ 0x8000000000)
    && (List.range ((a + n - 1) / 0x80000000 + 1 - a / 0x80000000)).all (fun j => p.channels.contains (a / 0x80000000 + j))

/-- HOST_ACCESS: a host request to the memory of a partition, at a physical address, is served at its home slice (R188). -/
def execHostAccess (part : Nat) (acc : HostAcc) (s : State) : Out :=
  if !accPcieOk acc then .next (reply s ⟨true, 0, 0⟩)
  else if !devicePlace (s.part part) acc.addr (accBytes acc) then .fault .noSuchAddress
  else
    match performAccess s acc acc.addr with
    | (some r, s) => .next (reply s r)
    | (none, s) => .next s

/-- A peer's address translated through stage 2 of the receiving partition only: the place, when the leaf lies in HBM and
grants what the access needs (R464). -/
def peerPlace (s : State) (p : Part) (acc : HostAcc) : Option Nat :=
  let reads := acc.kind != .write
  let writes := acc.kind != .read
  let one (ipa : Nat) : Option Nat := match translate2 s p ipa with
    | .leaf e lv => if pteTgt e = 0 && (!reads || pteR e) && (!writes || pteW e) then some (leafAddr e lv ipa) else none
    | _ => none
  let ps := (pagePieces acc.addr (accBytes acc)).map (fun e => one e.1)
  match one acc.addr with
  | some pa => if acc.addr < 2 ^ 52 && accLegal acc && decide (ps.length ≤ 1) then some pa else none
  | none => none

/-- An access that expects a value back. -/
def accWantsValue (acc : HostAcc) : Bool :=
  match acc.kind with
  | .read => true
  | .write => false
  | .atomic _ _ returns => returns

/-- The stage-2 walk of a peer's request passes through its home slices, charged as the request is (R381, R454). -/
def peerWalk (s : State) (p : Part) (acc : HostAcc) : State :=
  (walkReads2 s p acc.addr [0, 1, 2, 3, 4] p.s2root).foldl (fun s ea => s.l2Access (ea / 32) .read) s

/-- A peer's request is rejected: the bytes that came with it are charged, and the sectors of a write or reduction counted in
LOST (R454, R464). -/
def rejectPeer (s : State) (port : Nat) (acc : HostAcc) : State :=
  let s := if acc.kind = .read then s else linkBytes s (accBytes acc)
  if accWantsValue acc then s else addLost s port (accSectors acc)

/-- A completion goes out to a peer, in a flit with its poison (R463, R464). -/
def replyPeer (s : State) (k : Nat) (r : Reply) : State := sendFlit (reply s r) k 2 (BitVec.ofNat 8 r.poison) []

/-- PEER_REQUEST_RECEIVE: an incoming request is translated and performed, and a write or reduction acknowledged; or it is
rejected, and the sectors of a rejected write or reduction are counted in LOST (R464). -/
def execPeerRequestReceive (port : Nat) (acc : HostAcc) (s : State) : Out :=
  if !s.boot.peer.getLsbD port || !((s.port port).state == .up || (s.port port).state == .degraded) then .next s
  else
    let at_ := (portOwner s port).bind (fun i => peerPlace s (s.part i) acc)
    let s := ((portOwner s port).map (fun i => peerWalk s (s.part i) acc)).getD s
    match at_ with
    | none => .next (replyPeer (rejectPeer s port acc) port ⟨true, 0, 0⟩)
    | some pa =>
      let r := performAccess s acc pa
      .next (replyPeer r.2 port (r.1.getD ⟨false, 0, 0⟩))

/-! ### Link states (R458, R462, R466) -/

/-- The ports of one link: the pair of a PCIe port, or the peer port alone. -/
def linkPorts (s : State) (k : Nat) : List Nat := if s.boot.pcie.getLsbD k then [k / 2 * 2, k / 2 * 2 + 1] else [k]

/-- The port belongs to the primary link, which presents the PF and its VFs. -/
def isPrimary (s : State) (k : Nat) : Bool := s.boot.pcie.getLsbD k && k / 2 == hostPort s / 2

/-- The secondary link's lower port (R458). -/
def secondaryPort (s : State) : Option Nat :=
  (List.range 12).find? (fun k => s.boot.pcie.getLsbD k && decide (k / 2 ≠ hostPort s / 2))

/-- A stack entry that was to come over a port is a poisoned zero. -/
def StackFill.lose (t : Tgt) (f : StackFill) : StackFill := if f.via.contains t then { f with word := ⟨0, true⟩ } else f

def Hold.lose (t : Tgt) : Hold → Hold
  | .fill e b k n => .fill (e.map (StackFill.lose t)) (b.map (StackFill.lose t)) k n
  | h => h

/-- The results that were to come over a port are lost (R466). -/
def loseLoads (s : State) (t : Tgt) : State :=
  let course (c : Course) : Course :=
    { (c.mapLanes (fun _ l => { l with hold := l.hold.lose t })) with
      inflight := c.inflight.map (fun o => { o with writes := o.writes.map (RegWrite.lose t) }) }
  { s with groups := s.groups.map (fun e => (e.1, { e.2 with courses := e.2.courses.map course })) }

/-- A dump over a link that leaves UP stops with LINK_DOWN; the bytes already written remain (R472). -/
def stopDump (s : State) (k : Nat) : State :=
  let mine : Bool := if s.boot.dumpLink then ((secondaryPort s).map (fun j => j / 2 == k / 2)).getD false else isPrimary s k
  if s.boot.dumpBusy && mine then { s with boot := { s.boot with dumpBusy := false, dumpStatus := 2 } } else s

/-- A port that carries traffic again sends what waits in it; what the host takes is delivered (R462). -/
def releasePort (s : State) (k : Nat) : State :=
  let s := retryAllErrs s
  if s.boot.peer.getLsbD k then s.updPort k Port.send
  else ((s.port k).replay ++ (s.port k).waiting).foldl deliverFlit (s.updPort k (fun p => { p with waiting := [], replay := [] }))

/-- What a port holds is dropped: posted writes are counted in LOST, and an ATOM or CAS that has not been answered is lost with
its result (R466). -/
def dropPort (s : State) (k : Nat) : State :=
  let n := ((((s.port k).replay ++ (s.port k).waiting).filter (·.posted)).flatMap (·.writes)).length
  let s := s.updPort k (fun p => { p with waiting := [], replay := [] })
  if n = 0 then s else addLost s k n

/-- Every port of a link takes a STATE, with its events; what its ports hold is sent at UP and DEGRADED, and dropped at DOWN
and ERROR. -/
def setLink (s : State) (k : Nat) (st : LinkState) (u : Port → Port) : State :=
  let s := if st = .up then s else stopDump s k
  let s := (linkPorts s k).foldl (fun s j => setPortState (s.updPort j u) j st) s
  match st with
  | .training => s
  | .up | .degraded => (linkPorts s k).foldl releasePort s
  | .down | .error => (linkPorts s k).foldl dropPort s

/-- A TDI that is locked or running enters ERROR with its link (R469). -/
def tdisFail (s : State) : State :=
  ((List.range 16).filter (tdiLocked s)).foldl enterTdiError s

/-- The host's link is gone: its reads are lost, the translations asked of it are POISONED, every queue of its functions is
SUSPENDED and locked TDIs enter ERROR (R466). -/
def hostGone (s : State) : State :=
  let s := (s.reqs.filter (fun r => r.stage == 3)).foldl (fun s r => answer s r true) s
  let s := tdisFail (loseLoads s .host)
  let s := (List.range 16).foldl (fun s f => s.updFn f (fun x => { x with linkDown := true })) s
  (queuesWhere s (fun _ => true)).foldl suspendQueue s

/-- The host's link is UP: the queues that it held resume. -/
def hostBack (s : State) : State :=
  let s := (List.range 16).foldl (fun s f => s.updFn f (fun x => { x with linkDown := false })) s
  (queuesWhere s (fun _ => true)).foldl resumeQueue s

/-- Outstanding traffic ends when a link enters DOWN or ERROR (R466). -/
def linkGone (s : State) (k : Nat) : State :=
  if isPrimary s k then hostGone s
  else if s.boot.pcie.getLsbD k then s
  else loseLoads s (.peer k)

/-- A link goes DOWN: its flit counters start again with the next one. -/
def linkDown (s : State) (k : Nat) : State :=
  linkGone (setLink s k .down (fun p => { p with
    width := 0, remote := 0, attempts := 0, sendSeq := 0, recvSeq := 0, tries := 0 })) k

/-- A link enters ERROR. -/
def linkError (s : State) (k : Nat) : State := linkGone (setLink s k .error (fun p => { p with width := 0 })) k

/-- A link retrains: its traffic waits (R462, R466). -/
def linkRetrain (s : State) (k : Nat) : State :=
  setLink s k .training (fun p => { p with width := 0, attempts := 0, tries := 0 })

/-- The port is in use: a peer port or a PCIe port, and in RECOVERY one of pair 0 (R458, R477). -/
def portOn (s : State) (k : Nat) : Bool :=
  decide (k < 12) && (s.boot.pcie.getLsbD k || s.boot.peer.getLsbD k) && (!s.boot.recovery || decide (k < 2))

/-- LNK_RESET: a write of RESET to LNK_CTL of a port that the PF's partition owns (R461). -/
def execLnkReset (fn port : Nat) (s : State) : Out :=
  let owned := ((s.fn 0).part.map (fun p => (s.part p).ports.contains port)).getD false
  if fn = 0 && owned && decide (port < 12) && !s.boot.recovery then .next (linkDown s port) else .next s

/-- PARTNER_DETECT: a partner is found on a DOWN port, and training begins. -/
def execPartnerDetect (port : Nat) (remote : BitVec 4) (s : State) : Out :=
  if portOn s port && (s.port port).state == .down then
    let r : BitVec 8 := if s.boot.peer.getLsbD port then remote.setWidth 8 else 0
    .next (setLink s port .training (fun p => { p with remote := r, attempts := 0, tries := 0 }))
  else .next s

/-- One more attempt has failed: the third gives ERROR. -/
def failAttempt (s : State) (k : Nat) : State :=
  let s := (linkPorts s k).foldl (fun s j => s.updPort j (fun p => { p with attempts := p.attempts + 1 })) s
  if 3 ≤ (s.port k).attempts then linkError s k else s

/-- TRAINING_COMPLETE: an attempt ends with so many lanes good: 8 give UP, 4 a DEGRADED peer link, fewer a failed attempt;
a PCIe link has no other width than its full one (R459). -/
def execTrainingComplete (port goodLanes : Nat) (s : State) : Out :=
  if (s.port port).state ≠ .training then .next s
  else if 8 ≤ goodLanes then
    let s := setLink s port .up (fun p => { p with width := 8 })
    .next (if isPrimary s port then hostBack s else s)
  else if 4 ≤ goodLanes && s.boot.peer.getLsbD port then .next (setLink s port .degraded (fun p => { p with width := 4 }))
  else .next (failAttempt s port)

/-- TRAINING_TIMEOUT: 1 ms spent in TRAINING. -/
def execTrainingTimeout (port : Nat) (s : State) : Out :=
  if (s.port port).state = .training then .next (linkError s port) else .next s

/-- LINK_FAILURE: loss of signal gives DOWN; a lane failure or exhausted replay retrains an UP or DEGRADED link. -/
def execLinkFailure (port : Nat) (lossOfSignal : Bool) (s : State) : Out :=
  let st := (s.port port).state
  if lossOfSignal then .next (if st = .training ∨ st = .up ∨ st = .degraded then linkDown s port else s)
  else .next (if st = .up ∨ st = .degraded then linkRetrain s port else s)

/-- PCIE_LINK_DOWN: a PCIe link goes down (R466). -/
def execPcieLinkDown (pair : Nat) (s : State) : Out :=
  let k := 2 * pair
  if s.boot.pcie.getLsbD k && (s.port k).state != .down && (s.port k).state != .error then .next (linkDown s k) else .next s

/-! ### Flits (R463) -/

/-- Flits acknowledged leave the replay buffer, oldest first: the far side has taken their writes, and what waits for room
in the buffer is sent. -/
def ackFlits (s : State) (k : Nat) (ack : BitVec 12) : State :=
  let p := s.port k
  if p.replay.any (fun f => f.seq == ack) then
    let before := p.replay.takeWhile (fun f => f.seq != ack)
    let rest := p.replay.dropWhile (fun f => f.seq != ack)
    let s := s.updPort k (fun p => { p with replay := rest.drop 1, tries := 0 })
    ((before ++ rest.take 1).foldl deliverFlit s).updPort k Port.send
  else s

/-- A flit of the port's link has been replayed once more; REPLAYS saturates. -/
def countReplay (p : Port) : Port :=
  { p with replays := if p.replays = 0xFFFF then p.replays else p.replays + 1, tries := p.tries + 1 }

/-- FLIT_RECEIVE: a flit that fails CHECK is replayed, and the 64th replay exhausts it; the next SEQ is accepted, the 1,024
below it are discarded, and any other is a protocol error that counts as exhaustion. -/
def execFlitReceive (port : Nat) (seq ack : BitVec 12) (kind : BitVec 8) (checkOk : Bool) (s : State) : Out :=
  let p := s.port port
  if !s.boot.peer.getLsbD port || !(p.state == .up || p.state == .degraded) then .next s
  else if !checkOk then
    let s := s.updPort port countReplay
    .next (if 64 ≤ (s.port port).tries then linkRetrain s port else s)
  else if seq = p.recvSeq then
    .next (ackFlits (s.updPort port (fun q => { q with recvSeq := q.recvSeq + 1, tries := if kind = 0 then q.tries else 0 })) port ack)
  else if (p.recvSeq - seq).toNat ≤ 1024 then .next (ackFlits s port ack)
  else .next (linkRetrain s port)

/-! ### Dumps (R471 to R474) -/

/-- The partition that the dump registers act for. -/
def dumpPart (s : State) : Option Nat := (s.fn 0).part

/-- The lower port of the link that a dump names, when the device has it. -/
def dumpPort (s : State) (secondary : Bool) : Option Nat :=
  if secondary then secondaryPort s else if s.boot.pcie = 0 then none else some (hostPort s)

def dumpEnd (s : State) (status : BitVec 8) : State := { s with boot := { s.boot with dumpBusy := false, dumpStatus := status } }

/-- DUMP: a write of DUMP_CMD by the PF, or by the auxiliary function (numbered 16). -/
def execDump (fn : Nat) (value : Word) (s : State) : Out :=
  let secondary := value.getLsbD 1
  if (fn ≠ 0 ∧ fn ≠ 16) || (fn == 16 && (secondaryPort s).isNone) || s.boot.dumpBusy || s.boot.recovery then .next s
  else
    match dumpPort s secondary, dumpPart s with
    | some k, some p =>
      if 4 ≤ value.toNat then .next (dumpEnd s 1)
      else if !value.getLsbD 0 then .next s
      else if (s.part p).funcs.any (tdiLocked s) then .next (dumpEnd s 3)
      else if (s.port k).state ≠ .up then .next (dumpEnd s 2)
      else
        .next ({ s with boot := { s.boot with
          dumpAt := s.boot.dumpHost, dumpBusy := true, dumpLink := secondary, dumpStatus := 0, dumpPoisoned := 0, dumpDone := 0 } }.post .dumpComplete)
    | _, _ => .next (dumpEnd s 1)

/-- Cells of a range moved by an offset into another list, which keeps what a page that takes no writes had. -/
def moveCells (src dst : List Host.Cell) (a b n : Nat) (takes : Nat → Bool) : List Host.Cell :=
  let inside (x : Nat) : Bool := decide (b ≤ x ∧ x < b + n) && takes x
  let moved := (src.filter (fun c => decide (a ≤ c.1 ∧ c.1 < a + n) && takes (c.1 - a + b))).map (fun c => (c.1 - a + b, c.2))
  let keep := dst.filter (fun c => !inside c.1)
  moved.foldl (fun l c => cellSet l c.1 c.2) keep

/-- The poison of a range of sectors moved by an offset. -/
def movePoison (src dst : List Nat) (a b n : Nat) (takes : Nat → Bool) : List Nat :=
  let inside (k : Nat) : Bool := decide (b ≤ 32 * k ∧ 32 * k < b + n) && takes (32 * k)
  let moved := (src.filter (fun k => decide (a ≤ 32 * k ∧ 32 * k < a + n) && takes (32 * k - a + b))).map (fun k => k - a / 32 + b / 32)
  moved.foldl (fun l k => setInsert k l) (dst.filter (fun k => !inside k))

/-- Sectors of a channel. -/
def channelSectors : Nat := 0x80000000 / 32

/-- The sectors of a dump are read at their slices and go out on the link (R454, R472). -/
def dumpTraffic (s : State) (sector n : Nat) : State :=
  linkBytes ((List.range n).foldl (fun s j => s.l2Access (sector + j) .read) s) (32 * n)

/-- Copy sectors of the image from number i on, no more than n of them and within one channel: channel c of the partition
goes to ADDR + j × 2 GiB when it is the j-th. -/
def dumpSome (s : State) (channels : List Nat) (i n : Nat) : Nat × State :=
  let j := i / channelSectors
  let m := min n (channelSectors - i % channelSectors)
  let a := channels.getD j 0 * 0x80000000 + 32 * (i % channelSectors)
  let b := s.boot.dumpAt.toNat / 4096 * 4096 + 32 * i
  let takes (x : Nat) : Bool := !rejects s .host x
  let sent := (s.hbm.poisoned.filter (fun k => decide (a ≤ 32 * k ∧ 32 * k < a + 32 * m))).length
  let host : Memory := ⟨moveCells s.hbm.cells s.host.cells a b (32 * m) takes, movePoison s.hbm.poisoned s.host.poisoned a b (32 * m) takes⟩
  let s := dumpTraffic s (a / 32) m
  (m, { s with
    host := host
    boot := { s.boot with
      dumpDone := i + m
      dumpPoisoned := BitVec.ofNat 32 (min 0xFFFFFFFF (s.boot.dumpPoisoned.toNat + sent)) } })

/-- DUMP_COMPLETE: more of the image is written, as much as the free value says; at its end the dump is complete. It comes
round while the dump is BUSY (R472). -/
def execDumpComplete (s : State) : Out :=
  if !s.boot.dumpBusy then .next s
  else
    let channels := ((dumpPart s).map (fun p => sortBy (fun a b => decide (a ≤ b)) (s.part p).channels)).getD []
    let i := s.boot.dumpDone
    if channels.length * channelSectors ≤ i then .next (dumpEnd s 0)
    else
      let (f, s) := s.takeFree
      .next ((dumpSome s channels i (f + 1)).2.post .dumpComplete)

end Sys2Proof.Machine
end

