-- ==== Sys2Proof/Machine/Tdisp.lean ====
section
/-!
DEFINITION. What the DOE mailbox of the PF carries (R467 to R470, R474 of spec/27_links.md; R481, R482 of
spec/28_boot_ras.md): SECURED_SPDM_SESSION, IDE_KM_KEY_PROG, the TDISP messages, TDI_ERROR, GET_CERTIFICATE and
GET_MEASUREMENTS. What goes back stands in State.spdm.
-/

namespace Sys2Proof.Machine

/-- A response over the mailbox. -/
def respond (s : State) (r : DoeReply) : State := { s with spdm := { s.spdm with responses := r :: s.spdm.responses } }

def refuse (s : State) : State := respond s .refused

/-- SECURED_SPDM_SESSION: a session is established, or ends, and with it the TDIs that it locked (R469). -/
def execSecuredSpdmSession (session : Nat) (up : Bool) (s : State) : Out :=
  if s.boot.recovery then .next s
  else if up then .next { s with spdm := { s.spdm with sessions := setInsert session s.spdm.sessions } }
  else
    let s := { s with spdm := { s.spdm with sessions := s.spdm.sessions.filter (· != session) } }
    let vfs := (List.range 16).filter (fun f => tdiLocked s f && (s.fn f).tdiSession == some session)
    .next (vfs.foldl enterTdiError s)

/-- The selective streams in use. -/
def streamsOf (s : State) : List Nat := (s.spdm.ideKeys.map (·.2.1)).eraseDups

/-- IDE_KM_KEY_PROG: keys of a selective stream of a function; up to 8 streams (R459). -/
def execIdeKmKeyProg (fn stream : Nat) (key : BitVec 256) (s : State) : Out :=
  if s.boot.recovery then .next s
  else if 16 ≤ fn ∨ (8 ≤ (streamsOf s).length ∧ !(streamsOf s).contains stream) then .next (refuse s)
  else
    let others := s.spdm.ideKeys.filter (fun e => !(e.1 == fn && e.2.1 == stream))
    .next (respond { s with spdm := { s.spdm with ideKeys := others ++ [(fn, stream, key)] } } .accepted)

/-- A number of a VF: the PF is not a TDI. -/
def isVf (vf : Nat) : Bool := decide (1 ≤ vf ∧ vf < 16)

/-- The VF's partition has a dump in progress (R474). -/
def dumpLocks (s : State) (vf : Nat) : Bool := s.boot.dumpBusy && (s.fn vf).part == dumpPart s && (dumpPart s).isSome

/-- LOCK_INTERFACE_REQUEST, over an established session: the VF's stream must have its keys. -/
def execLockInterfaceRequest (vf stream session : Nat) (s : State) : Out :=
  if isVf vf && (s.fn vf).tdi == .configUnlocked && s.spdm.sessions.contains session
      && s.spdm.ideKeys.any (fun e => e.1 == vf && e.2.1 == stream) && !dumpLocks s vf then
    .next (respond (s.updFn vf (fun f => { f with tdi := .configLocked, tdiStream := some stream, tdiSession := some session })) .accepted)
  else .next (refuse s)

/-- START_INTERFACE_REQUEST: a locked interface runs. -/
def execStartInterfaceRequest (vf : Nat) (s : State) : Out :=
  if isVf vf && (s.fn vf).tdi == .configLocked then
    .next (respond (s.updFn vf (fun f => { f with tdi := .run })) .accepted)
  else .next (refuse s)

/-- STOP_INTERFACE_REQUEST: the function is reset (R429) and its interface is unlocked. -/
def execStopInterfaceRequest (vf : Nat) (s : State) : Out :=
  if isVf vf then
    let s := resetFn s vf
    .next (respond (s.updFn vf (fun f => { f with tdi := .configUnlocked, tdiStream := none, tdiSession := none })) .accepted)
  else .next (refuse s)

/-- The 48 bytes of device-specific information (R470). -/
def reportInfo (s : State) (vf : Nat) : List Byte :=
  let p := (s.fn vf).part.getD 0
  bytesOf 48 (packFields [((devTopo s).toNat, 8), (p, 1), (0, 7), ((s.part p).digest.toNat, 32)])

/-- The report of a VF's interface: two MMIO ranges, the MSI-X table and PBA in the last page of range 0, and the
device-specific information, signed within the SPDM session by the key that it is attested by (log entry 119). -/
def interfaceReport (s : State) (vf : Nat) : DoeReply :=
  let f := s.fn vf
  let info := reportInfo s vf
  let bytes := bytesOf 16 (packFields [(f.bar0.toNat, 8), (f.bar2.toNat, 8)]) ++ info
  .report [(0, f.bar0, 16), (2, f.bar2, 128)] (0, 15) info (Config.sm2Sign (attestKey s) (Config.sm3 bytes))

/-- GET_DEVICE_INTERFACE_REPORT: the signed report, while the interface is locked or runs. -/
def execGetDeviceInterfaceReport (vf : Nat) (s : State) : Out :=
  if isVf vf && tdiLocked s vf then .next (respond s (interfaceReport s vf))
  else .next (refuse s)

/-- TDI_ERROR: one of R469's causes strikes a locked VF, such as an integrity failure on its IDE stream. -/
def execTdiError (vf : Nat) (s : State) : Out := if tdiLocked s vf then .next (enterTdiError s vf) else .next s

/-! ### Attestation (R481, R482) -/

/-- GET_CERTIFICATE: the chain of the attestation key. -/
def execGetCertificate (s : State) : Out :=
  if s.boot.recovery then .next s else .next (respond s (.certificate (Config.certChain s.boot.imageDigest)))

/-- A slot's 40 bytes of a partition block (R60, R482). That the zeros of an EMPTY slot take in its GEN, and that a LOADING
slot shows its header's FORMAT_ID once that is read, and the digest from VERIFIED on, are the model's choices (log entry 140). -/
def slotBytes (t : Slot) : Nat :=
  match t.state, t.image with
  | .empty, _ => 0
  | st, some im => packFields [(slotStateCode st, 1), (0, 1), (t.gen.toNat, 2), (descFormatId im.desc, 1), (0, 3), (im.digest, 32)]
  | st, none => packFields [(slotStateCode st, 1), (0, 1), (t.gen.toNat, 2), (0, 36)]

/-- The READY and REVOKED objects of a partition's functions, by CTXID and then handle. -/
def blockObjects (s : State) (p : Nat) : List (Nat × Obj) :=
  let ctxid (o : Obj) : Nat := ((alGet s.ctxs o.ctx).map (·.ctxid)).getD 0
  let mine := ((s.objects.map (·.2)).filter (fun o => (s.fn o.fn).part == some p && (o.state == .ready || o.state == .revoked))).map
    (fun o => (ctxid o, o))
  sortBy (fun (a b : Nat × Obj) => decide (a.1 < b.1) || (a.1 == b.1 && decide (a.2.handle ≤ b.2.handle))) mine

/-- An object's 72 bytes. -/
def objBytes (e : Nat × Obj) : List Byte :=
  bytesOf 72 (packFields [(e.1, 2), (e.2.handle, 2), ((Config.objStateCode (e.2.state == .revoked)).toNat, 1), (0, 3),
    (e.2.dataDigest.toNat, 32), (e.2.manifestDigest.toNat, 32)])

/-- The partition block (R482). -/
def partBlock (s : State) (p : Nat) : List Byte :=
  let slots := (List.range 12).map (fun i => (slotBytes ((s.part p).slot (4 + i)), 40))
  let objs := blockObjects s p
  bytesOf 32 (s.part p).digest.toNat ++ bytesOf 480 (packFields slots) ++ bytesOf 32 objs.length ++ objs.flatMap objBytes

/-- The configuration record of the flash: its 0x80 bytes. -/
def configRecord (s : State) : List Byte := (s.flash.config ++ List.replicate 0x80 0).take 0x80

/-- A measurement block (R481), when the device has it. -/
def measurement (s : State) (i : Nat) : Option (List Byte) :=
  if i = 1 then some (bytesOf 32 (Config.kraliaDigest 3).toNat)
  else if i = 2 then some (bytesOf 37 (packFields [(s.boot.imageDigest.toNat, 32), (s.boot.svn.toNat, 4), (if s.boot.slotB then 1 else 0, 1)]))
  else if i = 3 then some (bytesOf 32 (if s.boot.cfgDefault then 0 else (Config.sm3 (configRecord s)).toNat))
  else if i = 4 then some (bytesOf 32 ((s.flash.ownerKey.map BitVec.toNat).getD 0))
  else if i = 5 then some (bytesOf 8 (devTopo s).toNat)
  else if i = 6 then some (bytesOf 32 (Config.sm3 (Config.defectBytes s.flash.defects)).toNat)
  else if 16 ≤ i ∧ i < 32 ∧ (s.part (i - 16)).state = .active then some (partBlock s (i - 16))
  else none

/-- The measurement blocks that a request asks for: one index, or all of them by 0xFF. -/
def measurements (s : State) (index : BitVec 8) : List (Nat × List Byte) :=
  let is := if index = 0xFF then [1, 2, 3, 4, 5, 6] ++ (List.range 16).map (16 + ·) else [index.toNat]
  is.filterMap (fun i => (measurement s i).map (fun b => (i, b)))

/-- GET_MEASUREMENTS: the blocks, signed by the attestation key. -/
def execGetMeasurements (index : BitVec 8) (s : State) : Out :=
  if s.boot.recovery then .next s
  else
    let bs := measurements s index
    if bs.isEmpty then .next (refuse s)
    else .next (respond s (.measurements bs (Config.sm2Sign (attestKey s) (Config.sm3 (bs.flatMap (·.2))))))

end Sys2Proof.Machine
end

