-- ==== Sys2Proof/Machine/Firmware.lean ====
section
/-!
DEFINITION. Boot and firmware (spec/28_boot_ras.md, R475 to R480, R487): the checks of slots, markers and the configuration
record, BOOT, the firmware commands WRITE_SLOT, SET_MARKER, COMMIT_SVN, OWNER_FUSE and WRITE_CONFIG, and POWER_LOSS.
-/

namespace Sys2Proof.Machine

/-! ### The flash (R475, R483) -/

/-- The pages of the regions of R475, by 4 KiB: the first and how many. -/
def markerPages (i : Bool) : Nat × Nat := (if i then 1 else 0, 1)
def configPages : Nat × Nat := (2, 1)
def slotPages (b : Bool) : Nat × Nat := (if b then 0x900 else 0x100, 0x800)

/-- A page lies in a region. -/
def inRegion (r : Nat × Nat) (p : Nat) : Bool := decide (r.1 ≤ p ∧ p < r.1 + r.2)

/-- No page of a region has an uncorrectable error; one that has fails the region's own check (R483). -/
def Flash.sound (f : Flash) (r : Nat × Nat) : Bool := !f.bad.any (inRegion r)

/-- A region that is written anew has no bad page (log entry 118). -/
def Flash.renew (f : Flash) (r : Nat × Nat) : Flash := { f with bad := f.bad.filter (fun p => !inRegion r p) }

/-! ### Slots (R476) -/

def Flash.slot (f : Flash) (b : Bool) : List Byte := if b then f.slotB else f.slotA
def Flash.setSlot (f : Flash) (b : Bool) (x : List Byte) : Flash :=
  let f := f.renew (slotPages b)
  if b then { f with slotB := x } else { f with slotA := x }

/-- A little-endian field of an image: its header is MAGIC, LEN, SVN at 0x00, 0x04, 0x08 and SIGNER at 0x10 (log entry 14). -/
def imageField (x : List Byte) (o n : Nat) : Nat := natOfBytes ((x.drop o).take n)

def imageLen (x : List Byte) : Nat := imageField x 4 4
def imageSvn (x : List Byte) : Nat := imageField x 8 4

/-- A firmware slot verifies: MAGIC, LEN, SVN against MINSVN, SIGNER and the signature. -/
def slotVerifies (f : Flash) (b : Bool) : Bool :=
  let x := f.slot b
  let len := imageLen x
  let full := x ++ List.replicate (len - x.length) 0
  f.sound (slotPages b) && imageField x 0 4 == 0x5746584B && decide (len % 4096 = 0 ∧ 65536 ≤ len ∧ len ≤ 0x800000) && decide (f.minSvn.toNat ≤ imageSvn x)
    && imageField x 0x10 32 == (Config.kraliaDigest 2).toNat
    && Config.sm2Verify (Config.kraliaDigest 2) (Config.sm3 (full.take (len - 64))) ((full.drop (len - 64)).take 64)

/-- SM3 of a booted image. -/
def imageDigestOf (x : List Byte) : BitVec 256 :=
  Config.sm3 ((x ++ List.replicate (imageLen x - x.length) 0).take (imageLen x))

/-! ### Markers and the choice of a slot (R475, R477) -/

/-- One byte of CRC-32, polynomial 0x04C11DB7, reflected. -/
def crc32Byte (crc : BitVec 32) (b : Byte) : BitVec 32 :=
  (List.range 8).foldl (fun c _ => if c.getLsbD 0 then (c >>> 1) ^^^ 0xEDB88320#32 else c >>> 1) (crc ^^^ b.setWidth 32)

/-- CRC-32 of bytes: initial value and final XOR 0xFFFFFFFF (R475). -/
def crc32 (bs : List Byte) : BitVec 32 := bs.foldl crc32Byte 0xFFFFFFFF ^^^ 0xFFFFFFFF

def Flash.marker (f : Flash) (i : Bool) : List Byte := if i then f.marker1 else f.marker0

/-- SLOT and SEQ of a marker copy. -/
def markerSlot (x : List Byte) : Bool := imageField x 4 1 == 1
def markerSeq (x : List Byte) : Nat := imageField x 8 8

/-- A marker copy is valid: its MAGIC, and its CRC over bytes 0 to 27 (R475); its page is sound (R483). -/
def Flash.markerValid (f : Flash) (i : Bool) : Bool :=
  let x := f.marker i
  f.sound (markerPages i) && x.length == 32 && imageField x 0 4 == 0x4D4D584B && imageField x 28 4 == (crc32 (x.take 28)).toNat

/-- The 32 bytes of a marker copy. -/
def markerBytes (slotB : Bool) (seq : Nat) : List Byte :=
  let x := bytesOf 28 (0x4D4D584B + (if slotB then 2 ^ 32 else 0) + seq % 2 ^ 64 * 2 ^ 64)
  x ++ bytesOf 4 (crc32 x).toNat

/-- The valid marker copies by SEQ descending, copy 0 first on a tie: their slots, true for B. -/
def markerOrder (f : Flash) : List Bool :=
  let is := if markerSeq f.marker0 < markerSeq f.marker1 then [true, false] else [false, true]
  (is.filter f.markerValid).map (fun i => markerSlot (f.marker i))

/-- The slot to boot; none enters RECOVERY. -/
def chooseSlot (f : Flash) : Option Bool := (markerOrder f ++ [false, true]).find? (slotVerifies f)

/-! ### The configuration record (R480) -/

/-- PCIE is set in whole pairs, at most two, and no port is also a peer port (R458). -/
def pairsOk (peer pcie : BitVec 12) : Bool :=
  let pairs := (List.range 6).filter (fun k => pcie.getLsbD (2 * k))
  (List.range 6).all (fun k => pcie.getLsbD (2 * k) == pcie.getLsbD (2 * k + 1)) && decide (pairs.length ≤ 2) && peer &&& pcie == 0

/-- A record is signed by the owner key. -/
def recordSigned (f : Flash) (x : List Byte) : Bool :=
  match f.ownerKey with
  | some k => Config.sm2Verify k (Config.sm3 (x.take 64)) ((x.drop 64).take 64)
  | none => false

def Flash.setConfig (f : Flash) (x : List Byte) : Flash := { f.renew configPages with config := x }

/-- PEER and PCIE of the record, when it may be used. -/
def configPorts (f : Flash) : Option (BitVec 12 × BitVec 12) :=
  let x := (f.config ++ List.replicate 0x80 0).take 0x80
  let v := natOfBytes x
  let peer : BitVec 12 := BitVec.ofNat 12 (bitsNat (fieldAt v 8 8) 23 12)
  let pcie : BitVec 12 := BitVec.ofNat 12 (bitsNat (fieldAt v 8 8) 11 0)
  if fieldAt v 0 4 = 0x4643584B ∧ fieldAt v 4 4 = 0 ∧ bitsNat (fieldAt v 8 8) 63 24 = 0 ∧ fieldAt v 0x10 0x30 = 0
      ∧ pairsOk peer pcie ∧ recordSigned f x ∧ f.sound configPages then some (peer, pcie)
  else none

/-! ### BOOT (R477, R480, R487) -/

/-- The dies that a predicate of the defect log names. -/
def diesWhere (f : Flash) (p : Bool → Bool) : List Nat := (List.range 4).filter (fun k => f.defects.any (fun d => d.1 == k && p d.2))

/-- A mask of dies. -/
def dieMask (l : List Nat) : BitVec 4 := l.foldl (fun m k => m ||| (1#4 <<< k)) 0

/-- HBM stacks of the dies whose uncore is out. -/
def stackMask (l : List Nat) : BitVec 8 := l.foldl (fun m k => m ||| (3#8 <<< (2 * k))) 0

/-- What the ROM and the firmware it boots leave. A die that is fused off is not also DROPPED (R19). -/
def bootOf (f : Flash) : Booted :=
  let out := diesWhere f id
  let ports := configPorts f
  let slot := chooseSlot f
  let x := (slot.map f.slot).getD []
  { Booted.reset with
    done := true
    recovery := slot.isNone
    slotB := slot.getD false
    svn := if slot.isSome then BitVec.ofNat 32 (imageSvn x) else 0
    cfgDefault := ports.isNone
    imageDigest := if slot.isSome then imageDigestOf x else 0
    dropped := dieMask (diesWhere f (fun _ => true)) &&& ~~~f.fused
    uncoreLive := ~~~dieMask out
    hbmLive := ~~~stackMask out
    peer := (ports.map (·.1)).getD 0
    pcie := (ports.map (·.2)).getD 3 }

/-- BOOT: at power-on, once. -/
def execBoot (s : State) : Out := if s.boot.done then .next s else .next { s with boot := bootOf s.flash }

/-! ### Firmware commands (R478, R479) -/

def fwEnd (s : State) (status : BitVec 8) : State := { s with boot := { s.boot with fwJob := none, fwStatus := status } }

/-- n bytes of host memory by untranslated DMA (R478): zeros when the host's link carries nothing (R466; log entry 151). -/
def hostDma (s : State) (a n : Nat) : List Byte := if linkCarries s .host then s.host.bytes a n else List.replicate n 0

/-- The operations that read the host's memory. -/
def fwReads (op : Nat) : Bool := op == 1 || op == 4 || op == 5

/-- A firmware command: dropped while another is in progress; its first step makes it BUSY, and the next one is its effect,
which a loss of power may interrupt. Its reads of host memory wait while the link is in TRAINING (R462). -/
def fwCommand (op : Nat) (slotB : Bool) (self : Instr) (effect : State → State) (s : State) : Out :=
  match s.boot.fwJob with
  | some j => .next (if j ≠ (op, slotB) then s else if fwReads op && linkTrains s .host then s.post self else effect s)
  | none => if s.boot.done then .next ({ s with boot := { s.boot with fwJob := some (op, slotB), fwStatus := 0 } }.post self) else .next s

/-- WRITE_SLOT: the booted slot is refused; else the slot is erased and LEN bytes from FW_ARG are written. -/
def execWriteSlot (slotB : Bool) (s : State) : Out :=
  fwCommand 1 slotB (.writeSlot slotB) (fun s =>
    if !s.boot.recovery && s.boot.slotB == slotB then fwEnd s 3
    else
      let a := s.boot.fwArg.toNat
      let n := min 0x800000 (natOfBytes (hostDma s (a + 4) 4))
      fwEnd { s with flash := s.flash.setSlot slotB (hostDma s a n) } 0) s

/-- The marker copy that SET_MARKER writes: an invalid one, or the one with the lower SEQ, copy 1 on a tie. -/
def markerToWrite (f : Flash) : Bool :=
  if !f.markerValid false then false
  else if !f.markerValid true then true
  else decide (markerSeq f.marker1 ≤ markerSeq f.marker0)

/-- The highest valid SEQ. -/
def highSeq (f : Flash) : Nat := (([false, true].filter f.markerValid).map (fun i => markerSeq (f.marker i))).foldl max 0

def Flash.setMarker (f : Flash) (i : Bool) (x : List Byte) : Flash :=
  let f := f.renew (markerPages i)
  if i then { f with marker1 := x } else { f with marker0 := x }

/-- SET_MARKER: a slot that does not verify is refused. -/
def execSetMarker (slotB : Bool) (s : State) : Out :=
  fwCommand 2 slotB (.setMarker slotB) (fun s =>
    if !slotVerifies s.flash slotB then fwEnd s 2
    else fwEnd { s with flash := s.flash.setMarker (markerToWrite s.flash) (markerBytes slotB (highSeq s.flash + 1)) } 0) s

/-- COMMIT_SVN: MINSVN rises to the booted SVN, and never falls. -/
def execCommitSvn (s : State) : Out :=
  fwCommand 3 false .commitSvn (fun s =>
    fwEnd { s with flash := { s.flash with minSvn := if s.flash.minSvn < s.boot.svn then s.boot.svn else s.flash.minSvn } } 0) s

/-- OWNER_FUSE: the digest of the 64-byte key at FW_ARG becomes the owner key, once. -/
def execOwnerFuse (s : State) : Out :=
  fwCommand 4 false .ownerFuse (fun s =>
    if s.flash.ownerKey.isSome then fwEnd s 4
    else fwEnd { s with flash := { s.flash with ownerKey := some (Config.sm3 (hostDma s s.boot.fwArg.toNat 64)) } } 0) s

/-- WRITE_CONFIG: a record that the owner key has not signed is refused. -/
def execWriteConfig (s : State) : Out :=
  fwCommand 5 false .writeConfig (fun s =>
    let x := hostDma s s.boot.fwArg.toNat 0x80
    if !recordSigned s.flash x then fwEnd s 5 else fwEnd { s with flash := s.flash.setConfig x } 0) s

/-! ### POWER_LOSS (R455, R475, R479, R487) -/

/-- What an interrupted firmware command leaves in the flash: a slot or record that fails its checks, a marker copy that is
not valid, and fuses as they were (R479, R480). -/
def interrupted (f : Flash) : Option (Nat × Bool) → Flash
  | some (1, b) => f.setSlot b []
  | some (2, _) => f.setMarker (markerToWrite f) []
  | some (5, _) => f.setConfig []
  | _ => f

/-- The command in progress had begun to write and was not refused. -/
def fwWrites (s : State) : Bool :=
  match s.boot.fwJob with
  | some (1, b) => !linkTrains s .host && (s.boot.recovery || s.boot.slotB != b)
  | some (2, b) => slotVerifies s.flash b
  | some (5, _) => !linkTrains s .host && recordSigned s.flash (hostDma s s.boot.fwArg.toNat 0x80)
  | _ => false

/-- POWER_LOSS: only the flash, the fuses, SPSEQ and the meters remain, with the memories that are not the device's; a
flash write in progress may have begun, as the free value says. The next boot follows. -/
def execPowerLoss (s : State) : Out :=
  let s := settleMeters s
  let (f, s) := s.takeFree
  let flash := if fwWrites s && f % 2 == 1 then interrupted s.flash s.boot.fwJob else s.flash
  .next { State.reset with
    cores := (List.range 768).map (fun c => (c, { Core.reset with since := s.time, charged := s.time }))
    time := s.time
    free := s.free
    turn := s.turn
    host := s.host
    peers := s.peers
    meters := s.meters
    spSeq := s.spSeq
    flash := flash }

end Sys2Proof.Machine
end

