-- ==== Sys2Proof/Machine/Ras.lean ====
section
/-!
DEFINITION. Reliability (R373 of spec/20_traps.md; R483, R484 of spec/28_boot_ras.md): SOFT_ERROR, PATROL_SCRUB and
KAT_CONFIRMED, with the counters of RAS_STAT.
-/

namespace Sys2Proof.Machine

/-- Counter k of RAS_STAT (CE 0, UE 1, KAT 2, MISMATCH 3) rises by one and saturates (R483). -/
def countRas (s : State) (k : Nat) : State :=
  let v := bitsNat s.boot.ras.toNat (16 * k + 15) (16 * k)
  if v = 0xFFFF then s else { s with boot := { s.boot with ras := s.boot.ras + BitVec.ofNat 64 (2 ^ (16 * k)) } }

/-- A register keeps its value and becomes poisoned (R373). -/
def Lane.poisonV (l : Lane) (i : Nat) : Lane := l.setV i ⟨(l.getV i).val, true⟩

/-- A writable special register becomes poisoned. -/
def poisonSpecial (s : State) (g c n : Nat) (spr : Nat) : State :=
  match spr with
  | 0x09 => s.updLane g c n (fun l => { l with seedP := true })
  | 0x0A => s.updCourse g c (fun x => { x with bypLimP := true })
  | 0x0C => s.updLane g c n (fun l => { l with trapPc := ⟨l.trapPc.val, true⟩ })
  | 0x0D => s.updLane g c n (fun l => { l with trapCause := ⟨l.trapCause.val, true⟩ })
  | _ => s

/-- An uncorrectable error at a site: it poisons what carries it, or drops the clean copies of an L1 or an instruction cache,
which poisons nothing (R373), or makes a flash page bad (R483). -/
def strike (s : State) : ErrSite → State
  | .corrected => s
  | .hbm k => if k < 0x8000000000 / 32 then { s with hbm := s.hbm.setPoison k true } else s
  | .scratch c k => if k < 12288 then s.setCore c { s.core c with scratch := (s.core c).scratch.setPoison k true } else s
  | .vReg g c n r => s.updLane g c n (·.poisonV r)
  | .sReg g c r => s.updCourse g c (fun x => { x.setS r ⟨(x.getS r).val, true⟩ with inflight := x.inflight, txends := x.txends })
  | .pReg g c n r => s.updLane g c n (fun l => l.setPred r (l.pred r) true)
  | .special g c n spr => poisonSpecial s g c n spr
  | .reserve c n r => s.setCore c ((s.core c).setReserve n r ⟨((s.core c).getReserve n r).val, true⟩)
  | .tile g i => s.updGroup g (fun x => { x with tiles := x.tiles.modify i (fun t => { t with poison := true }) })
  | .l1 c => clearL1 s c
  | .icache c => s.setCore c { s.core c with icache := [] }
  | .flash p => { s with flash := { s.flash with bad := if s.flash.bad.contains p then s.flash.bad else s.flash.bad ++ [p] } }

/-- SOFT_ERROR: a corrected error is counted in CE, an uncorrectable one in UE with what it strikes (R373, R483). -/
def execSoftError (site : ErrSite) (s : State) : Out :=
  .next (if site = .corrected then countRas s 0 else countRas (strike s site) 1)

/-- PATROL_SCRUB: a sector is read and written back corrected: its bytes and its poison stay; an error that it corrects is
counted, as the free value says. -/
def execPatrolScrub (sector : Nat) (s : State) : Out :=
  if sector < 0x8000000000 / 32 then
    let (f, s) := s.takeFree
    .next (if f % 2 = 1 then countRas s 0 else s)
  else .next s

/-- KAT_CONFIRMED: a core-array entry joins the defect log, KAT rises, and each partition that owns cores of the cluster has
an event of KIND 5 (R484). -/
def execKatConfirmed (cluster : Nat) (s : State) : Out :=
  if 4 ≤ cluster ∨ !(presentBits s).getLsbD cluster then .next s
  else
    let s := { s with flash := { s.flash with
      defects := if s.flash.defects.contains (cluster, false) then s.flash.defects else s.flash.defects ++ [(cluster, false)] } }
    let s := countRas s 2
    let ps := (List.range 16).filter (fun p => (s.part p).state != .free && (s.part p).cores.any (fun k => k / 192 == cluster))
    .next (ps.foldl (fun s p => partEvent s p 5 (BitVec.ofNat 64 cluster)) s)

end Sys2Proof.Machine
end

