-- ==== Sys2Proof/Machine/Records.lean ====
section
/-!
DEFINITION. RRES, REMIT, RCANCEL and FETCH (spec/16_stage_graphs.md, R349 to R355) and the launcher's steps
RECORD_PUBLISHED, COALESCING_TIMER_EXPIRE and RRES_GRANT (R340, R344, R346, R353).
-/

namespace Sys2Proof.Machine

/-- The four instructions abort an ACTIVE transaction with no effect (R350). -/
def txFault : LaneOut := .abort ⟨5, 0, 0, false⟩

/-- The launch of the issuing group with its object. -/
def State.graphOf (s : State) (x : View) : Option (Launch × Obj) :=
  match s.launch x.grp.launch with
  | some l => (s.launchObj l).map (fun o => (l, o))
  | none => none

/-- The lane's open run for a node. -/
def Lane.run (l : Lane) (t : Nat) : Option Run := l.runs.find? (fun r => r.node == t)

/-! ### RRES (R352) -/

/-- A waiting request of the same or higher priority stops a new one (R346). -/
def requestStopped (s : State) (x : View) (l : Launch) (o : Obj) : Bool :=
  let mine := (o.rank x.grp.node, x.grp.ident.toNat % 2 ^ 24)
  l.fifo.any (fun q => keyFirst (requestKey s o q) mine)

/-- The largest run up to c that may be granted, by the drain mode of the cycle. -/
def largestRun (x : View) (mode : Bool × Option Nat) (l : Launch) (o : Obj) (t c : Nat) : Nat :=
  ((List.range c).map (fun i => c - i)).find? (fun g => grantableIn mode.1 mode.2 l o x.grp.node t g) |>.getD 0

/-- The registers of an RRES result. -/
def rresWrites (x : View) (k : Ctl) (f : ASY) (n : Nat) (addr result : Word) : List RegWrite :=
  let p := (x.opd 64 n (opdOf f.acls f.a)).poison || (x.crs.lane n).guardP k
  [x.putV n f.d.toNat ⟨addr, p⟩, x.putV n (f.d.toNat + 1) ⟨result, p⟩]

/-- A grant made now. -/
def rresGive (x : View) (k : Ctl) (f : ASY) (s : State) (n t st g : Nat) : LaneOut × State :=
  if g = 0 then (.done (rresWrites x k f n 0 (rresResult st 0)), s)
  else
    match giveRun s x.grp.launch x.sel.grp x.sel.course n t g with
    | some (a, s) => (.done (rresWrites x k f n a (rresResult st g)), s)
    | none => (.done (rresWrites x k f n 0 (rresResult st 0)), s)

/-- RRES in a lane, by the drain mode of the cycle (R344, R352). A lane that is held may leave a group whose every lane waits,
which drain mode may save (R347). -/
def rresLane (x : View) (k : Ctl) (f : ASY) (mode : Bool × Option Nat) (s : State) (n : Nat) : LaneOut × State :=
  let lane := s.laneAt x n
  let t := f.node.toNat
  let fail (st : Nat) (s : State) : LaneOut × State := (.done (rresWrites x k f n 0 (rresResult st 0)), s)
  if lane.tx.state = .active then (txFault, s)
  else
    match lane.hold with
    | .rresGranted a r =>
      (.done (rresWrites x k f n a r), s.updLane x.sel.grp x.sel.course n (fun l => { l with hold := .none }))
    | _ =>
      match s.graphOf x with
      | none => fail 3 s
      | some (l, o) =>
        let c := min (x.opd 64 n (opdOf f.acls f.a)).val.toNat (o.cap t)
        if o.nodes.length ≤ t ∨ !o.succ x.grp.node t then fail 3 s
        else if (lane.run t).isSome then fail 4 s
        else if ((o.node t).map (·.dmax)).getD 0 < lane.recDepth.toNat + 1 then fail 2 s
        else if c = 0 then rresGive x k f s n t 0 0
        else
          let stopped := requestStopped s x l o
          if !stopped && grantableIn mode.1 mode.2 l o x.grp.node t c then rresGive x k f s n t 0 c
          else if f.mod.getLsbD 0 then
            let g := if stopped then 0 else largestRun x mode l o t c
            rresGive x k f s n t (if 0 < g then 0 else 1) g
          else
            (.hold .rres, (s.updLaunch x.grp.launch (fun l =>
              { l with fifo := l.fifo ++ [⟨x.sel.grp, x.sel.course, n, t, c⟩] })).postOnce (.groupPlace []))

/-- RRES: a launcher cycle (R344): drain mode is decided, the waiting requests come before the new ones, and seals and
triggers follow; the launcher then looks again by the drain mode that the grants leave. -/
def execRres (k : Ctl) (f : ASY) (s : State) : Out :=
  s.issue fun x =>
    let mode := drainMode s x.grp.launch
    let s := finishLanes (grantWaiting s x.grp.launch mode.1 mode.2) x k true
      (noHandler x [13] ([f.d.toNat, f.d.toNat + 1] ++ (opdOf f.acls f.a).vregs)) (rresLane x k f mode)
    (launcherTriggers s x.grp.launch mode.1 mode.2).postOnce (.rresGrant x.grp.launch)

/-! ### REMIT and RCANCEL (R353, R354) -/

/-- A record belongs to slots a to b−1 of a block. -/
def inSlots (block a b : Nat) (r : Record) : Bool := r.block == block && decide (a ≤ r.slot ∧ r.slot < b)

/-- A lane's open run is closed. -/
def closeRun (s : State) (x : View) (n t : Nat) : State :=
  s.updLane x.sel.grp x.sel.course n (fun l => { l with runs := l.runs.filter (fun r => r.node != t) })

/-- REMIT in a lane: the first records of its run are WRITTEN and their publication begins, the others FREE. -/
def remitLane (x : View) (f : ASY) (s : State) (n : Nat) : LaneOut × State :=
  let lane := s.laneAt x n
  if lane.tx.state = .active then (txFault, s)
  else
    match lane.run f.node.toNat with
    | none => (.done [], s)
    | some r =>
      let c := min (x.opd 64 n (opdOf f.acls f.a)).val.toNat r.size
      let key := if f.mod.getLsbD 0 then (x.opd 64 n (opdOf f.bcls f.b)).val.toNat % 64 else 0
      let emit (l : Launch) : Launch :=
        let l := freeRecords l (inSlots r.block (r.slot + c) (r.slot + r.size))
        let l := mapRecords l (inSlots r.block r.slot (r.slot + c))
          (fun q => { q with state := .written, depth := lane.recDepth.toNat + 1, key := key })
        if c = 0 then l
        else { l with pubs := l.pubs ++ [⟨x.sel.grp, (List.range c).map (fun i => (r.block, r.slot + i))⟩] }
      let s := (closeRun s x n f.node.toNat).updLaunch x.grp.launch emit
      (.done [], s.post (if c = 0 then .rresGrant x.grp.launch else .recordPublished x.grp.launch))

def execRemit (k : Ctl) (f : ASY) (s : State) : Out :=
  s.issue fun x =>
    finishLanes s x k false
      (Shape.plain [13] ((opdOf f.acls f.a).vregs ++ (if f.mod.getLsbD 0 then (opdOf f.bcls f.b).vregs else [])))
      (remitLane x f)

/-- RCANCEL in a lane: its open run is closed and freed. -/
def rcancelLane (x : View) (f : ASY) (s : State) (n : Nat) : LaneOut × State :=
  let lane := s.laneAt x n
  if lane.tx.state = .active then (txFault, s)
  else
    match lane.run f.node.toNat with
    | none => (.done [], s)
    | some r =>
      (.done [], ((closeRun s x n f.node.toNat).updLaunch x.grp.launch
        (fun l => freeRecords l (inSlots r.block r.slot (r.slot + r.size)))).post (.rresGrant x.grp.launch))

def execRcancel (k : Ctl) (f : ASY) (s : State) : Out :=
  s.issue fun x => finishLanes s x k false (Shape.plain [13] []) (rcancelLane x f)

/-! ### FETCH (R349, R355) -/

/-- A take from the items given back: the first of the list that the group may take, as far as it reaches, and the list after
it. -/
def takeBack (lent : Bool) (c : Nat) : List Returned → Option ((Nat × Nat) × List Returned)
  | [] => none
  | r :: rest =>
    if lent && r.owned then (takeBack lent c rest).map (fun t => (t.1, r :: t.2))
    else
      let k := min c r.count
      some ((r.first, k), if k = r.count then rest else { r with first := r.first + k, count := r.count - k } :: rest)

/-- Take(c) of R355, for a group on a core that is lent or not: the first index and how many, and the launch after it. -/
def Launch.take (l : Launch) (persistent lent : Bool) (c : Nat) : (Nat × Nat) × Launch :=
  if !persistent || c == 0 then ((2 ^ 64 - 1, 0), l)
  else
    match takeBack lent c l.returns with
    | some (t, rest) => (t, { l with returns := rest })
    | none =>
      let k := min c (l.total - l.next)
      if k = 0 then ((2 ^ 64 - 1, 0), l) else ((l.next, k), { l with next := l.next + k })

/-- A take from the dispenser of the issuing group's node. -/
def takeItems (s : State) (x : View) (c : Nat) : (Nat × Nat) × State :=
  match s.launch x.grp.launch with
  | none => ((2 ^ 64 - 1, 0), s)
  | some l =>
    let persistent := ((s.groupNode x.grp).map (fun n => n.kind == .persistent)).getD false
    let r := l.take persistent (s.core x.sel.core).lentTo.isSome c
    (r.1, s.setLaunch x.grp.launch r.2)

/-- A lane turns from one item to the next. In a revocable group the stores that carry the old one commit (R349); a redundant
group keeps every item, for it may have to give all of them back (R486). -/
def nextItem (s : State) (x : View) (n : Nat) (item : Option (Nat × Nat)) : State :=
  match x.grp.mode with
  | .ordinary => s
  | .redundant _ _ => s.updGroup x.sel.grp (fun g => { g with taken := g.taken ++ item.toList })
  | .revocable =>
    let s := match (s.laneAt x n).item with
      | some old => commitHeld (drainCourse s x.sel.grp x.sel.course) x.sel.grp (fun h => h.item == some old)
      | none => s
    s.updLane x.sel.grp x.sel.course n (fun l => { l with item := item })

/-- The item of a take, or none when nothing was left. -/
def itemOf (t : Nat × Nat) : Option (Nat × Nat) := if t.2 = 0 then none else some t

/-- The V form in a lane. -/
def fetchLane (x : View) (k : Ctl) (f : ASY) (s : State) (n : Nat) : LaneOut × State :=
  if laneActive s x n then (txFault, s)
  else
    let (t, s) := takeItems s x 1
    (.done [x.putV n f.d.toNat ⟨BitVec.ofNat 64 t.1, (x.crs.lane n).guardP k⟩], nextItem s x n (itemOf t))

/-- The S form: the lanes that take part, with what one take gives them all. -/
def fetchShared (x : View) (k : Ctl) (f : ASY) (lead : Option Nat) (t : Nat × Nat) (s : State) (n : Nat) : LaneOut × State :=
  if laneActive s x n then (txFault, s)
  else
    let p := (x.opd 64 n (opdOf f.acls f.a)).poison || (x.crs.lane n).guardP k
    let ws : List RegWrite := if lead = some n then
      [.s f.d.toNat ⟨BitVec.ofNat 64 t.1, p⟩, .s (f.d.toNat + 1) ⟨BitVec.ofNat 64 t.2, p⟩] else []
    (.done ws, nextItem s x n (itemOf t))

def execFetch (k : Ctl) (f : ASY) (s : State) : Out :=
  s.issue fun x =>
    if f.dcls = 0 then finishLanes s x k true (noHandler x [13] [f.d.toNat]) (fetchLane x k f)
    else
      let sh := noHandler x [13] []
      let lead := (laneList (x.clear sh (x.active k))).find? (fun n => !laneActive s x n)
      let (t, s) := match lead with
        | some n => takeItems s x (x.opd 64 n (opdOf f.acls f.a)).val.toNat
        | none => ((2 ^ 64 - 1, 0), s)
      finishLanes s x k true sh (fetchShared x k f lead t)

/-! ### The launcher's steps -/

/-- The records of a publication reach the launcher as PENDING with this cycle as their age, or are held as EMITTED by
a group that holds its effects; those of a group that is gone without effect are FREE (R338, R344, R350). -/
def publish (now : Nat) (mode : Mode) (alive : Bool) (p : Publication) (l : Launch) : Launch :=
  let mine (r : Record) : Bool := r.state == .written && p.records.contains (r.block, r.slot)
  match mode with
  | .ordinary => mapRecords l mine (fun r => { r with state := .pending, age := now, grp := none })
  | _ => if alive then mapRecords l mine (fun r => { r with state := .emitted }) else freeRecords l mine

/-- The oldest publication of a launch completes: the group's earlier stores are at their homes (R353). Publications complete in
the order of their issue, and of their lanes within one (log entry 149). -/
def execRecordPublished (launch : Nat) (s : State) : Out :=
  match s.launch launch with
  | none => .next s
  | some l =>
    match l.pubs with
    | [] => .next s
    | p :: rest =>
      let s := drainAll s p.grp
      let g := s.group p.grp
      let s := s.updLaunch launch (fun l => publish (s.launcherCycle l.cluster) ((g.map (·.mode)).getD .ordinary)
        ((g.map (·.alive)).getD false) p { l with pubs := rest })
      .next (launcherPass s launch)

/-- A timer is due when its bin's oldest record has waited TIMER launcher cycles (R340); until then it comes round
again. -/
def execCoalescingTimerExpire (launch node key : Nat) (s : State) : Out :=
  match s.launch launch with
  | none => .next s
  | some l =>
    match (s.launchObj l).bind (fun o => o.node node) with
    | none => .next s
    | some nd =>
      match (binsOf nd (l.pending node)).find? (fun b => match b with
          | r :: _ => nd.kind != .keyed || r.key == key
          | [] => false) with
      | some (r :: _) =>
        if nd.timer = 0 then .next s
        else if r.age + nd.timer ≤ s.launcherCycle l.cluster then .next (launcherPass s launch)
        else .next (s.postOnce (.coalescingTimerExpire launch node key))
      | _ => .next s

/-- A pass of the launcher: the requests that can be granted, then seals and triggers (R344). -/
def execRresGrant (launch : Nat) (s : State) : Out := .next (launcherPass s launch)

end Sys2Proof.Machine
end

