-- ==== Sys2Proof/Machine/Registers.lean ====
section
/-!
DEFINITION. The registers of the functions' BARs (R4, R18, R388, R393, R399, R413, R427, R429, R436, R453, R458, R461, R468,
R471, R478, R483): REGISTER_WRITE, and what a read of each register gives. An offset below 0x1_0000 is one of BAR0; the
offsets from there name the model's configuration-space registers; bit 19 says that the write came with the T bit on the
function's bound IDE stream (log entry 20). The auxiliary function of the secondary link is numbered 16 (R458).
-/

namespace Sys2Proof.Machine

/-! ### Commands by register -/

/-- CTX_CMD: a reserved bit or an unlisted OP is BAD_OP (R399). -/
def writeCtxCmd (fn : Nat) (v : Word) (s : State) : Out :=
  let id : BitVec 16 := v.extractLsb' 48 16
  let op : BitVec 8 := v.setWidth 8
  if v.extractLsb' 8 40 ≠ 0 ∨ op = 0 ∨ 8 ≤ op.toNat then
    .next (if (s.fn fn).ctxStat.busy then s else endCtx (beginCtx s fn id op) fn 6)
  else match op.toNat with
    | 1 => execCtxCreate fn id s
    | 2 => execCtxDestroy fn id s
    | 3 => execLoadObject fn id s
    | 4 => execUnloadObject fn id s
    | 5 => execSave fn id s
    | 6 => execRestore fn id s
    | _ => execCheckpoint fn id s

/-- Q_CMD (R413). -/
def writeQCmd (fn : Nat) (v : Word) (s : State) : Out :=
  let id : BitVec 16 := v.extractLsb' 48 16
  let op : BitVec 8 := v.setWidth 8
  if v.extractLsb' 8 40 ≠ 0 ∨ op = 0 ∨ 4 ≤ op.toNat then
    .next (if (s.fn fn).qStat.busy then s else endQ (beginQ s fn id op) fn 6)
  else match op.toNat with
    | 1 => execQCreate fn id s
    | 2 => execQDestroy fn id s
    | _ => execQClear fn id s

/-- INV_CMD (R393). -/
def writeInvCmd (fn : Nat) (v : Word) (s : State) : Out :=
  let ctx : BitVec 16 := v.extractLsb' 48 16
  let seq : BitVec 16 := v.extractLsb' 32 16
  let pages : BitVec 6 := v.extractLsb' 26 6
  match bitsNat v.toNat 25 24 with
  | 0 => execInvContextAll fn ctx seq s
  | 1 => execInvContextRange fn ctx pages seq s
  | 2 => execInvStage2All fn seq s
  | _ => execInvStage2Range fn pages seq s

/-- The step that takes a command block of an OP (R439). A block of no OP takes its turn as the others do, and fails the first
check there (R438). -/
def spStep (fn : Nat) (b : CmdBlock) : Instr :=
  match blockOp b with
  | 2 => .partDestroy fn b
  | 3 => .partGrow fn b
  | 4 => .partShrink fn b
  | 5 => .shareSet fn b
  | 6 => .lend fn b
  | 7 => .recall fn b
  | 8 => .keyEnroll fn b
  | 9 => .meterReport fn b
  | 10 => .meterSeed fn b
  | _ => .partCreate fn b

/-- A block from an address that is not aligned to 64 bytes fails step 1 of R438 when its turn comes: its MAGIC is taken as zero
(R436; log entry 76). -/
def spBlock (b : CmdBlock) (arg : Nat) : CmdBlock := if arg % 64 = 0 then b else ⟨0 :: 0 :: 0 :: 0 :: b.bytes.drop 4⟩

/-- SP_CMD: the block at SP_ARG is read by untranslated DMA and waits its turn (R436, R438). -/
def writeSpCmd (fn : Nat) (v : Word) (s : State) : Out :=
  let f := s.fn fn
  if !v.getLsbD 0 || f.spStat.busy then .next s
  else
    let b := spBlock ⟨s.host.bytes f.spArg.toNat 384⟩ f.spArg.toNat
    .next ((spBegin s fn b).post (spStep fn b))

/-- FW_CMD (R478). -/
def writeFwCmd (v : Word) (s : State) : Out :=
  let slotB := v.getLsbD 8
  let op := v.toNat % 256
  if s.boot.fwJob.isSome then .next s
  else if v.toNat / 512 ≠ 0 ∨ op = 0 ∨ 6 ≤ op then .next (fwEnd s 1)
  else match op with
    | 1 => execWriteSlot slotB s
    | 2 => execSetMarker slotB s
    | 3 => execCommitSvn s
    | 4 => execOwnerFuse s
    | _ => execWriteConfig s

/-- A ring register of a stage (R388). -/
def writeRing (fn stage o : Nat) (v : Word) (s : State) : Out :=
  match o with
  | 0x00 => execPrqBaseWrite fn stage v s
  | 0x10 => .next ((updRing s fn stage (fun r => { r with head := v.setWidth 16 })).post (.prqEntryWrite fn stage))
  | 0x18 => execPrqReply fn stage v s
  | _ => .next s

/-- An address register whose low 12 bits are reserved. -/
def pageBits (v : Word) : Word := v &&& ~~~(0xFFF : Word)

/-! ### Registers of a function (R468 freezes some of them) -/

/-- One word of the MSI-X table. -/
def putMsix (f : Fn) (o : Nat) (w : BitVec 32) : Fn := { f with msixTable := alSet f.msixTable o w }
def getMsix (f : Fn) (o : Nat) : BitVec 32 := (alGet f.msixTable o).getD 0

/-- A 64-bit write to the MSI-X table, two vectors of 16 bytes (R459). -/
def writeMsix (s : State) (fn o : Nat) (v : Word) : State :=
  let f := s.fn fn
  let lo : BitVec 32 := v.setWidth 32
  let hi : BitVec 32 := v.extractLsb' 32 32
  frozenWrite s fn (lo != getMsix f o || hi != getMsix f (o + 4)) (fun s => s.updFn fn (fun f => putMsix (putMsix f o lo) (o + 4) hi))

/-- The registers that every function has. -/
def writeOwn (fn x : Nat) (v : Word) (s : State) : Out :=
  match x with
  | 0x280 => .next (s.updFn fn (fun f => { f with invAddr := pageBits v }))
  | 0x288 => writeInvCmd fn v s
  | 0x300 => .next (s.updFn fn (fun f => { f with ctxArg := v }))
  | 0x308 => writeCtxCmd fn v s
  | 0x340 => .next (s.updFn fn (fun f => { f with qArg := v }))
  | 0x348 => writeQCmd fn v s
  | 0x380 =>
    let base := v &&& ~~~(0xFF8 : Word)
    .next (frozenWrite s fn (base != (s.fn fn).evtBase) (fun s => s.updFn fn (fun f => { f with evtBase := base })))
  | 0x390 => execEvtHeadWrite fn v s
  | 0x400 => .next (s.updFn fn (fun f => { f with spArg := v }))
  | 0x408 => writeSpCmd fn v s
  | _ =>
    if 0x200 ≤ x ∧ x < 0x228 then writeRing fn 1 (x - 0x200) v s
    else if 0xF000 ≤ x ∧ x < 0xF020 ∧ x % 8 = 0 then .next (writeMsix s fn (x - 0xF000) v)
    else .next s

/-- The dump registers (R471). -/
def writeDump (fn x : Nat) (v : Word) (s : State) : Out :=
  match x with
  | 0x700 => .next { s with boot := { s.boot with dumpHost := pageBits v } }
  | 0x708 => execDump fn v s
  | _ => .next s

/-- The firmware registers, which RECOVERY presents too (R477, R478). -/
def writeFw (x : Nat) (v : Word) (s : State) : Out :=
  match x with
  | 0x800 => .next { s with boot := { s.boot with fwArg := v } }
  | 0x808 => writeFwCmd v s
  | _ => .next s

/-- The registers of the PF alone. -/
def writePf (x : Nat) (v : Word) (s : State) : Out :=
  if 0x6A0 ≤ x ∧ x < 0x700 ∧ x % 8 = 0 then (if v.getLsbD 0 then execLnkReset 0 ((x - 0x6A0) / 8) s else .next s)
  else if 0x700 ≤ x ∧ x < 0x718 then writeDump 0 x v s
  else if 0x800 ≤ x ∧ x < 0x828 then writeFw x v s
  else if 0x4000 ≤ x ∧ x < 0x4400 then writeRing ((x - 0x4000) / 0x40) 2 ((x - 0x4000) % 0x40) v s
  else if 0x4808 ≤ x ∧ x < 0x4880 ∧ x % 8 = 0 then execFnPauseWrite ((x - 0x4800) / 8) v s
  else if 0x5000 ≤ x ∧ x < 0x6000 then execWeightWrite ((x - 0x5000) / 0x100) ((x - 0x5000) % 0x100) (v.setWidth 8) s
  else .next s

/-- Offsets of BAR0 that only the PF has. -/
def pfOnly (x : Nat) : Bool :=
  decide ((0x600 ≤ x ∧ x < 0x830) ∨ (0x4000 ≤ x ∧ x < 0x6000))

/-- Configuration space: the BAR address registers, and the enables of ATS and PASID (R392, R468). -/
def writeConfigSpace (fn x : Nat) (v : Word) (s : State) : State :=
  match x with
  | 0x10000 => frozenWrite s fn (pageBits v != (s.fn fn).bar0) (fun s => s.updFn fn (fun f => { f with bar0 := pageBits v }))
  | 0x10008 => frozenWrite s fn (pageBits v != (s.fn fn).bar2) (fun s => s.updFn fn (fun f => { f with bar2 := pageBits v }))
  | 0x10010 => s.updFn fn (fun f => { f with ats := v.getLsbD 0, atc := if v.getLsbD 0 then f.atc else [] })
  | 0x10018 => s.updFn fn (fun f => { f with pasidOn := v.getLsbD 0 })
  | _ => s

/-- REGISTER_WRITE. A write that reaches no register, or only reserved or read-only bits, has no effect (R4). -/
def execRegisterWrite (fn : Nat) (off : BitVec 20) (value : Word) (s : State) : Out :=
  let x := off.toNat % 0x80000
  if 17 ≤ fn then .next s
  else if s.boot.recovery then (if fn = 0 ∧ 0x800 ≤ x ∧ x < 0x828 then writeFw x value s else .next s)
  else if fn = 16 then (if (secondaryPort s).isSome then writeDump 16 x value s else .next s)
  else if 0x10000 ≤ x then .next (writeConfigSpace fn x value s)
  else if !mmioReaches s fn off.msb then .next s
  else if pfOnly x then (if fn = 0 then writePf x value s else .next s)
  else writeOwn fn x value s

/-! ### What reads of registers give -/

/-- A command status register, with the state of what its ID names. -/
def CmdStat.word (c : CmdStat) (state : BitVec 8) : Word :=
  c.id ++ c.handle ++ state ++ (0 : BitVec 7) ++ BitVec.ofBool c.busy ++ c.status ++ c.op

/-- CTX_STATUS: STATE is that of the context as it stands (R399). -/
def ctxStatusWord (s : State) (fn : Nat) : Word :=
  let c := (s.fn fn).ctxStat
  c.word (match findCtx s fn c.id.toNat with
    | some (_, x) => x.state.code
    | none => 0)

/-- Q_STATUS, with the state of the queue as it stands (R413). -/
def qStatusWord (s : State) (fn : Nat) : Word :=
  let c := (s.fn fn).qStat
  c.word (match findQueue s fn c.id.toNat with
    | some (_, q) => q.state.code
    | none => 0)

/-- LINK_CFG (R458). -/
def linkCfg (s : State) : Word := (s.boot.peer ++ s.boot.pcie).setWidth 64

/-- FN_PART (R436). -/
def fnPartWord (s : State) (fn : Nat) : Word :=
  match (s.fn fn).part with
  | some p => BitVec.ofNat 64 (0x80 + p)
  | none => 0

/-- SP_STATUS (R436). -/
def spStatusWord (s : State) (fn : Nat) : Word :=
  let c := (s.fn fn).spStat
  (s.fn fn).spSeqLow ++ (0 : BitVec 15) ++ BitVec.ofBool c.busy ++ c.status ++ c.op

/-- DUMP_STAT (R471). -/
def dumpStatWord (s : State) : Word :=
  s.boot.dumpPoisoned ++ (0 : BitVec 15) ++ BitVec.ofBool s.boot.dumpBusy ++ s.boot.dumpStatus ++ (0 : BitVec 8)

/-- FW_STAT (R478). -/
def fwStatWord (s : State) : Word :=
  s.boot.svn ++ (0 : BitVec 6) ++ BitVec.ofBool s.boot.cfgDefault ++ BitVec.ofBool s.boot.slotB ++ (0 : BitVec 7)
    ++ BitVec.ofBool s.boot.fwJob.isSome ++ s.boot.fwStatus ++ (if s.boot.recovery then (1 : BitVec 8) else 0)

/-- A ring register of a stage (R388). -/
def readRing (r : PrqRing) (o : Nat) : Word :=
  match o with
  | 0x00 => r.base
  | 0x08 => r.tail.setWidth 64
  | 0x10 => r.head.setWidth 64
  | 0x20 => r.err.setWidth 64
  | _ => 0

/-- A meter register (R453). -/
def readMeter (m : Meter) (o : Nat) : Word :=
  match o with
  | 0x00 => m.coreCycles
  | 0x08 => m.macBusy
  | 0x10 => m.hbmSectors
  | 0x18 => m.linkBytes
  | 0x20 => m.reconf
  | 0x28 => m.saturated.setWidth 64
  | _ => 0

/-- WEIGHT of an owner ID as its byte reads: one where the partition is not ACTIVE or does not own it (R425). -/
def weightOf (p : Part) (o : Nat) : Nat := if p.state = .active ∧ p.owners.contains o then (alGet p.weights o).getD 1 else 1

/-- The registers of the PF alone. -/
def readPf (s : State) (x : Nat) : Word :=
  if x = 0x600 then linkCfg s
  else if 0x640 ≤ x ∧ x < 0x6A0 ∧ x % 8 = 0 then lnkStat s ((x - 0x640) / 8)
  else if x = 0x700 then s.boot.dumpHost
  else if x = 0x710 then dumpStatWord s
  else if x = 0x800 then s.boot.fwArg
  else if x = 0x810 then fwStatWord s
  else if x = 0x820 then s.boot.ras
  else if 0x4000 ≤ x ∧ x < 0x4400 then readRing (s.fn ((x - 0x4000) / 0x40)).prq2 ((x - 0x4000) % 0x40)
  else if 0x4808 ≤ x ∧ x < 0x4880 ∧ x % 8 = 0 then
    let f := (x - 0x4800) / 8
    (0 : BitVec 62) ++ BitVec.ofBool (fnPaused s f) ++ BitVec.ofBool (s.fn f).pause
  else if 0x5000 ≤ x ∧ x < 0x6000 then BitVec.ofNat 64 (weightOf (s.part ((x - 0x5000) / 0x100)) ((x - 0x5000) % 0x100))
  else 0

/-- The Pending Bit Array: the vectors whose messages are held (R429, R459). -/
def pbaWord (f : Fn) : Word := f.msixHeld.setWidth 64

/-- Offsets of BAR0 that a function presents: in RECOVERY the PF's DEV_TOPO and firmware registers alone (R477); of the
auxiliary function DEV_TOPO and the dump registers (R458). -/
def presents (s : State) (fn x : Nat) : Bool :=
  if s.boot.recovery then fn == 0 && (x == 0x008 || decide (0x800 ≤ x ∧ x < 0x818))
  else if fn = 16 then x == 0x008 || decide (0x700 ≤ x ∧ x < 0x718)
  else true

/-- What a read of BAR0 of a function gives; write-only registers and unlisted offsets read zero. Meters are charged up to
the read (R455). -/
def readRegister (s : State) (fn x : Nat) : Word :=
  let f := s.fn fn
  if !presents s fn x then 0
  else if x = 0x008 then devTopo s
  else if pfOnly x then (if fn = 0 ∨ fn = 16 then readPf s x else 0)
  else match x with
    | 0x280 => f.invAddr
    | 0x290 => f.invDone.setWidth 64
    | 0x300 => f.ctxArg
    | 0x310 => ctxStatusWord s fn
    | 0x340 => f.qArg
    | 0x350 => qStatusWord s fn
    | 0x380 => f.evtBase
    | 0x388 => f.evtTail
    | 0x390 => f.evtHead
    | 0x398 => f.evtLost
    | 0x400 => f.spArg
    | 0x410 => spStatusWord s fn
    | 0x418 => fnPartWord s fn
    | 0x420 => s.spSeq
    | _ =>
      if 0x200 ≤ x ∧ x < 0x228 then readRing f.prq1 (x - 0x200)
      else if 0x8000 ≤ x ∧ x < 0xC000 then readMeter ((settleMeters s).meter ((x - 0x8000) / 64)) ((x - 0x8000) % 64)
      else if 0xF000 ≤ x ∧ x < 0xF020 ∧ x % 8 = 0 then getMsix f (x - 0xF000 + 4) ++ getMsix f (x - 0xF000)
      else if x = 0xF800 then pbaWord f
      else 0

/-- What a read request to BAR0 of a function finds: none for an unsupported request (R468, R469): to a function in
ERROR, to a locked one without the T bit, and to an auxiliary function where there is no secondary link. -/
def mmioValue (s : State) (fn x : Nat) (tBit : Bool) : Option Word :=
  if fn = 16 then (if (secondaryPort s).isSome ∧ !s.boot.recovery then some (readRegister s 16 x) else none)
  else if 17 ≤ fn then none
  else if s.boot.recovery then (if fn = 0 then some (readRegister s 0 x) else none)
  else if mmioReaches s fn tBit then some (readRegister s fn x)
  else none

/-- A read request of the host to BAR0: its completion, whose 8 bytes are charged to the HOSTOWNER of the function's partition
(R454; log entry 111). -/
def mmioRead (s : State) (fn x : Nat) (tBit : Bool) : Option Word × State :=
  match mmioValue s fn x tBit with
  | some v => (some v, s.paid ((s.fn fn).part.map (fun i => (s.part i).hostOwner)) (linkBytes · 8))
  | none => (none, s)

end Sys2Proof.Machine
end

