-- ==== Sys2Proof/Machine/Select.lean ====
section
/-!
DEFINITION. Selection (spec/06_courses.md, R115 to R123): the eligible lanes of a course, their issue groups, the pick by
key or by force, and the steps ISSUE_SELECTION, LINE_FILL (R66) and LONG_LATENCY_COMPLETE (R73).
-/

namespace Sys2Proof.Machine

/-! ### Eligibility (R115) -/

/-- A lane with no hold, or one whose RRES has its grant and only has to be issued again. -/
def Hold.free : Hold → Bool
  | .none => true
  | .rresGranted _ _ => true
  | _ => false

/-- A lane that nothing but its instruction's own waits keeps from issuing. -/
def laneReady (c : Course) (l : Lane) : Bool :=
  l.live && l.pend.isNone && l.hold.free && (c.trap != .handler || l.inHandler)

/-- An issue group of a course (R116): the depth and PC its lanes share. -/
structure IssueGroup where
  depth : Nat
  pc : Word
  mask : LaneMask

/-- The issue groups of the ready lanes (R116). -/
def issueGroups (c : Course) : List IssueGroup :=
  let ns := (List.range 32).filter (fun n => laneReady c (c.lane n))
  ((ns.map (fun n => ((c.lane n).depth.toNat, (c.lane n).pc))).eraseDups).map fun k =>
    ⟨k.1, k.2, maskOf (fun n => laneReady c (c.lane n) && (c.lane n).depth.toNat == k.1 && (c.lane n).pc == k.2)⟩

/-- An instruction that accesses memory, its feature, and the order and scope of one that may be a release. -/
def memoryAccess : Instr → Option (Ctl × List Nat × Option MEM)
  | .ld k _ => some (k, [0], none)
  | .st k f => some (k, [0], some f)
  | .cas k f => some (k, [5], some f)
  | .atomAdd k f => some (k, [5], some f)
  | .atomMin k f => some (k, [5], some f)
  | .atomMax k f => some (k, [5], some f)
  | .atomAnd k f => some (k, [5], some f)
  | .atomOr k f => some (k, [5], some f)
  | .atomXor k f => some (k, [5], some f)
  | .atomXchg k f => some (k, [5], some f)
  | .redAdd k f => some (k, [5], some f)
  | .redMin k f => some (k, [5], some f)
  | .redMax k f => some (k, [5], some f)
  | .redAnd k f => some (k, [5], some f)
  | .redOr k f => some (k, [5], some f)
  | .redXor k f => some (k, [5], some f)
  | .wbind k _ => some (k, [6], none)
  | .wtouch k _ => some (k, [6], none)
  | .wflush k _ => some (k, [6], none)
  | .zld k _ => some (k, [8], none)
  | .zst k _ => some (k, [8], none)
  | .remit k _ => some (k, [13], none)
  | .txend k _ => some (k, [12], none)
  | .qpost k _ => some (k, [14], none)
  | .call k _ => some (k, [0], none)
  | .callx k _ => some (k, [0], none)
  | .ret k _ => some (k, [0], none)
  | _ => none

/-- An instruction of memoryAccess accesses memory in a lane: a call where it spills an entry, a RET where it fills one, any
other always (R114). -/
def laneAccesses (l : Lane) : Instr → Bool
  | .call _ _ => decide (8 ≤ l.depth.toNat) && (l.entry (l.depth.toNat - 7)).isSome
  | .callx _ _ => decide (8 ≤ l.depth.toNat) && (l.entry (l.depth.toNat - 7)).isSome
  | .ret _ _ => decide (1 ≤ l.depth.toNat) && ((l.entry l.depth.toNat).isNone
      || (decide (9 ≤ l.depth.toNat) && (l.entry (l.depth.toNat - 8)).isNone))
  | _ => true

/-- An access waits behind a fence at SYSTEM scope that waits (R232), and one that is itself such a release while a link port
holds a write (R201). A masked instruction makes none (R322). -/
def orderWaits (s : State) (x : View) (i : Instr) : Bool :=
  match memoryAccess i with
  | some (k, feats, f) => (x.lacking feats).isNone
      && (fenceWaits s x (maskOf (fun n => inMask (x.active k) n && laneAccesses (x.crs.lane n) i))
        || (f.elim false (systemRelease s x k · feats) && portsBusy s))
  | none => false

/-- The waits of an instruction beyond its WAIT and SETF fields: counters, matrix queue and REGQ (R109, R250, R257,
R278). -/
def instrWaits (s : State) (x : View) (i : Instr) : Bool :=
  match i with
  | .ld k f => ldWaits s x k f
  | .wtouch k f => wtouchWaits s x k f
  | .wbind k f => wbindWaits s x k f
  | .wflush k f => wflushWaits x k f
  | .cntwait k f => cntwaitWaits x k f
  | .mma k f => matWaits .mma s x k f
  | .mmaz k f => matWaits .mmaz s x k f
  | .zld k f => matWaits .zld s x k f
  | .zst k f => matWaits .zst s x k f
  | .zmov k f => matWaits .zmov s x k f
  | .zrmax k f => matWaits .zrmax s x k f
  | .zrscale k f => matWaits .zrscale s x k f
  | .regq k _ => regqWaits x k
  | _ => false

/-- The S registers that an operand reads. -/
def Opd.sregs : Opd → List Nat
  | .s i => [i]
  | _ => []

/-- The S registers that an instruction reads, by its format (R75 to R84). -/
def sSources (x : View) : Instr → List Nat
  | .iadd _ f | .isub _ f | .imul _ f | .imulh _ f | .imad _ f | .ineg _ f | .iabs _ f | .imin _ f | .imax _ f
  | .ishl _ f | .ishr _ f | .irot _ f | .and _ f | .or _ f | .xor _ f | .andn _ f | .not _ f | .bfx _ f | .bfi _ f
  | .brev _ f | .popc _ f | .clz _ f | .ctz _ f | .icmp _ f | .isel _ f | .lea _ f | .mov _ f | .pset _ f | .plop _ f
  | .shfl _ f | .qxch _ f | .vote _ f | .perm _ f | .pack _ f | .unpack _ f | .pchk _ f | .pclr _ f | .fadd _ f
  | .fsub _ f | .fmul _ f | .fma _ f | .fmin _ f | .fmax _ f | .fcmp _ f | .fclass _ f | .frnd _ f | .fscale _ f
  | .frcp _ f | .frsq _ f | .fsqrt _ f | .fexp2 _ f | .flog2 _ f | .fsin _ f | .fcos _ f | .ftanh _ f | .fdiv _ f
  | .cvt _ f | .cvti _ f | .cvtf _ f | .bscale _ f | .fmtq _ f | .mapc _ f => (opdOf f.acls f.a).sregs ++ (opdOf f.bcls f.b).sregs ++ (opdOf f.ccls f.c).sregs
  | .iaddImm _ f | .isubImm _ f | .imulImm _ f | .iminImm _ f | .imaxImm _ f | .andImm _ f | .orImm _ f | .xorImm _ f
  | .andnImm _ f | .icmpImm _ f | .leaImm _ f | .movi _ f => (opdOf f.acls f.a).sregs
  | .ld _ f | .st _ f | .cas _ f | .fence _ f | .pref _ f | .cctl _ f | .probe _ f | .atomAdd _ f | .atomMin _ f
  | .atomMax _ f | .atomAnd _ f | .atomOr _ f | .atomXor _ f | .atomXchg _ f | .redAdd _ f | .redMin _ f
  | .redMax _ f | .redAnd _ f | .redOr _ f | .redXor _ f => (baseOpd f).sregs
  | .wbind _ f => [f.a.toNat, f.b.toNat]
  | .wtouch _ f | .wstat _ f | .wdrop _ f | .wflush _ f | .cntwait _ f | .binit _ f | .barr _ f | .bwait _ f
  | .barw _ f | .bexp _ f | .binv _ f | .rres _ f | .remit _ f | .rcancel _ f | .fetch _ f | .txend _ f
  | .txabort _ f | .txstat _ f => (opdOf f.acls f.a).sregs ++ (opdOf f.bcls f.b).sregs
  | .bra _ f | .brx _ f | .call _ f | .callx _ f | .ret _ f | .txbegin _ f => (targetOpd f).sregs
  | .movs _ f | .movss _ f | .exit _ f | .yield _ f | .sleep _ f | .nop _ f | .regq _ f | .trap _ f | .bkpt _ f
  | .hret _ f | .qpost _ f | .ckpt _ f => (opdOf f.acls f.a).sregs
  | .mma _ f | .mmaz _ f | .zld _ f | .zst _ f | .zmov _ f | .zrmax _ f | .zrscale _ f => (if f.bcls = 0 then [] else [f.bidx.toNat])
      ++ (if f.bs = 1 then (List.range (8 * matNb (x.image f.sla.toNat).desc (f.sp == 1))).map (f.ssc.toNat + ·) else [])
  | _ => []

/-- An instruction reads an S register that a TXEND of its course is still to write: it waits for the verdict, as for any
result that joins no flag (R74, R312; log entry 121). -/
def awaitsTxend (x : View) (i : Instr) : Bool :=
  (sSources x i).any (fun r => x.crs.txends.any (fun e => e.dst == some (1, BitVec.ofNat 8 r)))

/-- The line at an issue group's PC: as the core holds it, else as a fetch would find it; none where the fetch is held or
meets a cause. -/
def lineSeen (s : State) (x : View) : Option ILine :=
  match x.core.line (lineOf x.sel.pc) (s.groupCtx x.grp) with
  | some l => some l
  | none => match (fetchPlace s x.grp (lineOf x.sel.pc).toNat).1 with
    | .place t pa => some (readLine s t pa)
    | _ => none

/-- An issue group is eligible: its flags are clear, the flag it raises is below 63, and its instruction need not wait
(R72, R73, R115). A line that cannot be fetched, or a poisoned one, names no wait. -/
def groupReady (s : State) (x : View) : Bool :=
  match lineSeen s x with
  | none => true
  | some l =>
    if l.poisoned then true
    else
      let k := rdCtl (slotWord l (slotOf x.sel.pc))
      x.crs.flagsClear k.wait && match slotDecode l (slotOf x.sel.pc) with
        | .ok i => (match setfFlag k.setf with
            | some f => x.crs.flag f.val != 63
            | none => true) && !instrWaits s x i && !orderWaits s x i && !awaitsTxend x i
        | .error _ => true

/-- The eligible issue groups of a course, each with the view its issue would have; a group that a halt has reached has
none (R401). -/
def eligible (s : State) (core grp course : Nat) : List (IssueGroup × View) :=
  match s.group grp with
  | none => []
  | some g =>
    if g.halting then [] else
    (issueGroups (g.course course)).filterMap fun i =>
      match ({ s with sel := some ⟨core, grp, course, i.mask, i.pc⟩ } : State).view with
      | some x => if groupReady s x then some (i, x) else none
      | none => none

/-! ### The pick (R116, R117, R121) -/

/-- The key of a comes before that of b: greater depth, then lower PC (R116). -/
def keyBefore (a b : IssueGroup) : Bool := decide (b.depth < a.depth) || (a.depth == b.depth && decide (a.pc < b.pc))

/-- The group with the lowest key. -/
def lowestKey : List IssueGroup → Option IssueGroup
  | [] => none
  | i :: l => match lowestKey l with
    | none => some i
    | some j => if keyBefore j i then some j else some i

/-- The largest pass count in a group. -/
def maxPass (c : Course) (i : IssueGroup) : Nat := (laneList i.mask).foldl (fun m n => max m (c.lane n).pass.toNat) 0

/-- A selection is forced (R121). -/
def Course.isForced (c : Course) : Bool := c.forced || decide (c.bypLim ≤ c.bc)

/-- The group a selection issues (R117, R121). -/
def pick (c : Course) (gs : List IssueGroup) : Option IssueGroup :=
  if c.isForced then
    let top := gs.foldl (fun m i => max m (maxPass c i)) 0
    lowestKey (gs.filter (fun i => maxPass c i == top))
  else lowestKey gs

/-- What a selection changes in its course (R120, R121). -/
def afterPick (c : Course) (gs : List IssueGroup) (i : IssueGroup) : Course :=
  let all : LaneMask := gs.foldl (fun m j => m ||| j.mask) 0
  let c' := c.mapLanes fun n l =>
    if inMask i.mask n then { l with pass := 0 }
    else if inMask all n then { l with pass := if l.pass = 65535 then 65535 else l.pass + 1 }
    else l
  if c.isForced then { c' with bc := 0, forced := false } else c'

/-! ### What orders the loads in flight (R195, R197, R199 to R201) -/

/-- An instruction other than a load, store or atomic that an earlier load of its lane is ordered before: one that releases or
acquires, or that touches memory in a way of its own. -/
def ordersLoads : Instr → Bool
  | .fence _ _ => true
  | .wbind _ _ => true
  | .wtouch _ _ => true
  | .wdrop _ _ => true
  | .wflush _ _ => true
  | .cntwait _ _ => true
  | .binit _ _ => true
  | .barr _ _ => true
  | .bwait _ _ => true
  | .barw _ _ => true
  | .bexp _ _ => true
  | .binv _ _ => true
  | .mma _ _ => true
  | .mmaz _ _ => true
  | .zld _ _ => true
  | .zst _ _ => true
  | .call _ _ => true
  | .callx _ _ => true
  | .ret _ _ => true
  | .exit _ _ => true
  | .regq _ _ => true
  | .rres _ _ => true
  | .remit _ _ => true
  | .rcancel _ _ => true
  | .fetch _ _ => true
  | .txbegin _ _ => true
  | .txend _ _ => true
  | .txabort _ _ => true
  | .trap _ _ => true
  | .bkpt _ _ => true
  | .hret _ _ => true
  | .qpost _ _ => true
  | .ckpt _ _ => true
  | _ => false

/-- The access of a load, store or atomic in a lane. -/
def accessOf (x : View) (n : Nat) : Instr → Option (Access × Need)
  | .ld _ f => some (x.memAccess f n, .read)
  | .st _ f => some (x.memAccess f n, .write)
  | i => match memoryAccess i with
    | some (_, _, some f) => some (x.atomAccess f n, .rw)
    | _ => none

/-- An access of a lane meets a sector that a load of it in flight may still read, so that program order holds (R197). -/
def meetsLate (s : State) (x : View) (i : Instr) (n : Nat) : Bool :=
  match accessOf x n i with
  | none => false
  | some (a, need) =>
    match (resolve s x.grp x.sel.core x.sel.course n a need 0).1 with
    | .ok ps => ps.any (fun p => (x.crs.lateSectors n).contains p.sector)
    | _ => true

/-- The lanes whose loads in flight an instruction is ordered after. -/
def orderedLanes (s : State) (x : View) (i : Instr) : LaneMask :=
  let releases : Bool := match memoryAccess i with
    | some (_, _, some f) => decide (3 ≤ f.order.toNat)
    | _ => false
  if ordersLoads i || releases then x.sel.mask
  else maskOf (fun n => inMask x.sel.mask n && !(x.crs.lateSectors n).isEmpty && meetsLate s x i n)

/-- The loads in flight that the chosen instruction is ordered after are performed. -/
def orderLoads (s : State) : State :=
  match s.view with
  | none => s
  | some x =>
    if (List.range 32).all (fun n => (x.crs.lateSectors n).isEmpty) then s
    else
      let m : LaneMask := match lineSeen s x with
        | some l => match slotDecode l (slotOf x.sel.pc) with
          | .ok i => orderedLanes s x i
          | .error _ => x.sel.mask
        | none => x.sel.mask
      s.updCourse x.sel.grp x.sel.course (·.fixLoads m)

/-! ### The choice among courses (R118) -/

/-- The ordinary courses of a core with an eligible lane. -/
def readyCourses (s : State) (core : Nat) : List (Nat × Nat) :=
  (s.candidates.filter (fun e => e.1 == core)).filterMap fun e =>
    if (eligible s core e.2.1 e.2.2).isEmpty then none else some e.2

/-- A course's last turn came before that of another one of its core; a course not served yet has had none (R118). -/
def servedBefore (served : List (Nat × Nat)) (a b : Nat × Nat) : Bool :=
  match served.findIdx? (· == a), served.findIdx? (· == b) with
  | none, _ => true
  | some _, none => false
  | some i, some j => decide (i ≤ j)

/-- A course may be served now: the one in handler mode ahead of all; of the others, one whose last turn no other ready
course had before it (R118). -/
def mayServe (s : State) (core grp course : Nat) : Bool :=
  let k := s.core core
  let inTurn := (readyCourses s core).all (fun e => servedBefore k.served (grp, course) e)
  match k.handler with
  | some (g, c) => (g == grp && c == course) || ((eligible s core g c).isEmpty && inTurn)
  | none => inTurn

/-- A course has its turn: it has been served last. -/
def markServed (s : State) (core grp course : Nat) : State :=
  let k := s.core core
  s.setCore core { k with served := k.served.filter (· != (grp, course)) ++ [(grp, course)] }

/-! ### The steps -/

/-- The eligible lanes of a course that owe FORMAT_UNAVAILABLE for a dropped matrix entry trap before they issue
(R286). -/
def owedTraps (s : State) (x : Sel) (c : Course) : Option State :=
  let all : LaneMask := (eligible s x.core x.grp x.course).foldl (fun m i => m ||| i.1.mask) 0
  let ns := (laneList all).filter (fun n => (c.lane n).dropped == .due)
  if ns.isEmpty then none
  else
    let s := s.updCourse x.grp x.course (fun c => c.mapLanes (fun n l => if ns.contains n then { l with dropped := .none } else l))
    some (raiseTraps s x (ns.map fun n => (n, ⟨.formatUnavailable, 0, (c.lane n).pc, none⟩)))

/-- The chosen group's line is not in the instruction cache: it is fetched, or its lanes are held, or they trap (R326,
R383). -/
def fetchMiss (s : State) (g : Group) (x : Sel) : State :=
  match fetchPlace s g (lineOf x.pc).toNat with
  | (.place _ _, s) => s.postOnce (.lineFill x.core x.grp (lineOf x.pc))
  | (.hold h, s) => holdLanes s x ((laneList x.mask).map (fun n => (n, h)))
  | (.bad c, s) => raiseTraps s x ((laneList x.mask).map (fun n => (n, ⟨c, 0, x.pc, none⟩)))

/-- A course selects (R117): whether the core still holds the chosen line is the free value's choice (R488). -/
def selectFrom (s : State) (g : Group) (core grp course : Nat) : State :=
  let c := g.course course
  let gs := (eligible s core grp course).map (·.1)
  match pick c gs with
  | none => s
  | some i =>
    let x : Sel := ⟨core, grp, course, i.mask, i.pc⟩
    let ctx := s.groupCtx g
    let s := markServed s core grp course
    if ((s.core core).line (lineOf i.pc) ctx).isNone then fetchMiss s g x
    else
      let (bit, s) := s.takeFree
      if bit % 2 = 1 then fetchMiss (dropLine s core (lineOf i.pc) ctx) g x
      else orderLoads { s.updCourse grp course (fun c => afterPick c gs i) with sel := some x }

/-- A selection of a course on its core (R117 to R121). A course waiting for handler mode on a core with no course in it
enters first (R368). -/
def execIssueSelection (core grp course : Nat) (s : State) : Out :=
  match s.group grp with
  | none => .next s
  | some g =>
    let c := g.course course
    if g.state ≠ .resident ∨ g.core ≠ some core ∨ g.halting ∨ c.ended then .next s
    else if (s.core core).handler.isNone ∧ !(s.core core).handlerQ.isEmpty then .next (enterHandler s core)
    else if !mayServe s core grp course then .next s
    else
      match owedTraps s ⟨core, grp, course, 0, 0⟩ c with
      | some s => .next s
      | none => .next (selectFrom s g core grp course)

/-- The line lies beyond a port that carries nothing any more: the fetch that was out comes back as a poisoned zero (R466). -/
def lineLost (s : State) (g : Group) (line : Nat) : Bool :=
  match alGet s.ctxs (s.groupCtx g) with
  | none => false
  | some c => match walkBoth s (s.part ((s.fn c.fn).part.getD 16)) c.s1root line with
    | .ok (_, _, e2, _, _) => !linkCarries s (tgtOf e2)
    | .error _ => false

/-- A line arrives in a core's instruction cache, its CHECK tested (R66); one beyond a port in TRAINING waits there (R462). -/
def execLineFill (core grp : Nat) (line : Word) (s : State) : Out :=
  match s.group grp with
  | none => .next s
  | some g =>
    if g.core ≠ some core then .next s
    else
      match fetchPlace s g line.toNat with
      | (.place t pa, s) =>
        if linkTrains s t then .next (s.postOnce (.lineFill core grp line))
        else .next (keepLine (s.readAt t pa 64) core line (s.groupCtx g) (readLine s t pa))
      | (.bad _, s) => .next (if lineLost s g line.toNat then keepLine s core line (s.groupCtx g) ⟨0, true⟩ else s)
      | (.hold _, s) => .next s

/-- A long-latency operation writes results and, with the last of them, lowers its flag (R73, R74). -/
def execLongLatencyComplete (grp course index : Nat) (s : State) : Out :=
  match s.group grp with
  | none => .next s
  | some g =>
    .next (stepLong s grp course (index % max 1 (g.course course).inflight.length))

end Sys2Proof.Machine
end

