-- ==== Sys2Proof/Machine/Traps.lean ====
section
/-!
DEFINITION. TRAP, BKPT and HRET (spec/20_traps.md, R376 to R378) and the step HANDLER_ENTRY (R367, R368).
-/

namespace Sys2Proof.Machine

/-- TRAP and BKPT trap every lane of Active with the code they carry (R377). -/
def execTrap (k : Ctl) (f : SYS) (s : State) : Out :=
  s.issue fun x => trapLanes s x.sel (x.active k) ⟨.software, f.code, x.sel.pc, none⟩

def execBkpt (k : Ctl) (f : SYS) (s : State) : Out :=
  s.issue fun x => trapLanes s x.sel (x.active k) ⟨.breakpoint, f.code, x.sel.pc, none⟩

/-- A lane whose return would be a second error (R378): a poisoned %TRAPPC, or one that is no PC when the lane resumes. -/
def badReturn (l : Lane) : Option Cause :=
  if l.trapPc.poison then some .poisonConsumed
  else if !l.trapCause.val.getLsbD 63 && !pcValid l.trapPc.val then some .targetAlign
  else none

/-- A handler lane returns; one that ends here ends its transaction as EXIT does (R125, R378). -/
def hretLane (x : View) (s : State) (n : Nat) : State :=
  let l := s.laneAt x n
  let s := if l.trapCause.val.getLsbD 63 && l.tx.state == .irrevocable then commitHolder s x.sel.grp x.sel.course n else s
  returnLane s x.sel.grp x.sel.course n

/-- HRET (R378): outside handler mode it traps; a bad return terminates the group; otherwise every lane of Active
returns, and the course leaves HANDLER with its last one. -/
def execHret (k : Ctl) (_f : SYS) (s : State) : Out :=
  s.issue fun x =>
    let act := x.active k
    if x.crs.trap ≠ .handler then trapLanes s x.sel act ⟨.illegalForm, 0, x.sel.pc, none⟩
    else
      match (laneList act).findSome? (fun n => (badReturn (x.crs.lane n)).map (fun c => (n, c))) with
      | some (n, c) => (raiseTraps s x.sel [(n, ⟨c, 0, x.sel.pc, none⟩)]).deselect
      | none =>
        let s := (laneList act).foldl (hretLane x) s
        let s := advance s x.sel (x.sel.mask &&& ~~~act)
        (leaveHandler s x.sel.grp x.sel.course).deselect

/-- The course at the head of a core's handler queue enters handler mode when no course of the core is in it. -/
def execHandlerEntry (core : Nat) (s : State) : Out := .next (enterHandler s core)

end Sys2Proof.Machine
end

