-- ==== Sys2Proof/Machine/Dispatch.lean ====
section
/-!
DEFINITION. The dispatch: one arm for each constructor of Instr, each one direct call of its meaning.
-/

namespace Sys2Proof.Machine

def exec (i : Instr) (s : State) : Host.Outcome State Fault Refusal :=
  match i with
  | .iadd a b => Sys2Proof.Machine.execIadd a b s
  | .iaddImm a b => Sys2Proof.Machine.execIaddImm a b s
  | .isub a b => Sys2Proof.Machine.execIsub a b s
  | .isubImm a b => Sys2Proof.Machine.execIsubImm a b s
  | .imul a b => Sys2Proof.Machine.execImul a b s
  | .imulImm a b => Sys2Proof.Machine.execImulImm a b s
  | .imulh a b => Sys2Proof.Machine.execImulh a b s
  | .imad a b => Sys2Proof.Machine.execImad a b s
  | .ineg a b => Sys2Proof.Machine.execIneg a b s
  | .iabs a b => Sys2Proof.Machine.execIabs a b s
  | .imin a b => Sys2Proof.Machine.execImin a b s
  | .iminImm a b => Sys2Proof.Machine.execIminImm a b s
  | .imax a b => Sys2Proof.Machine.execImax a b s
  | .imaxImm a b => Sys2Proof.Machine.execImaxImm a b s
  | .ishl a b => Sys2Proof.Machine.execIshl a b s
  | .ishr a b => Sys2Proof.Machine.execIshr a b s
  | .irot a b => Sys2Proof.Machine.execIrot a b s
  | .and a b => Sys2Proof.Machine.execAnd a b s
  | .andImm a b => Sys2Proof.Machine.execAndImm a b s
  | .or a b => Sys2Proof.Machine.execOr a b s
  | .orImm a b => Sys2Proof.Machine.execOrImm a b s
  | .xor a b => Sys2Proof.Machine.execXor a b s
  | .xorImm a b => Sys2Proof.Machine.execXorImm a b s
  | .andn a b => Sys2Proof.Machine.execAndn a b s
  | .andnImm a b => Sys2Proof.Machine.execAndnImm a b s
  | .not a b => Sys2Proof.Machine.execNot a b s
  | .bfx a b => Sys2Proof.Machine.execBfx a b s
  | .bfi a b => Sys2Proof.Machine.execBfi a b s
  | .brev a b => Sys2Proof.Machine.execBrev a b s
  | .popc a b => Sys2Proof.Machine.execPopc a b s
  | .clz a b => Sys2Proof.Machine.execClz a b s
  | .ctz a b => Sys2Proof.Machine.execCtz a b s
  | .icmp a b => Sys2Proof.Machine.execIcmp a b s
  | .icmpImm a b => Sys2Proof.Machine.execIcmpImm a b s
  | .isel a b => Sys2Proof.Machine.execIsel a b s
  | .lea a b => Sys2Proof.Machine.execLea a b s
  | .leaImm a b => Sys2Proof.Machine.execLeaImm a b s
  | .mov a b => Sys2Proof.Machine.execMov a b s
  | .movi a b => Sys2Proof.Machine.execMovi a b s
  | .pset a b => Sys2Proof.Machine.execPset a b s
  | .plop a b => Sys2Proof.Machine.execPlop a b s
  | .shfl a b => Sys2Proof.Machine.execShfl a b s
  | .qxch a b => Sys2Proof.Machine.execQxch a b s
  | .vote a b => Sys2Proof.Machine.execVote a b s
  | .perm a b => Sys2Proof.Machine.execPerm a b s
  | .pack a b => Sys2Proof.Machine.execPack a b s
  | .unpack a b => Sys2Proof.Machine.execUnpack a b s
  | .movs a b => Sys2Proof.Machine.execMovs a b s
  | .movss a b => Sys2Proof.Machine.execMovss a b s
  | .pchk a b => Sys2Proof.Machine.execPchk a b s
  | .pclr a b => Sys2Proof.Machine.execPclr a b s
  | .fadd a b => Sys2Proof.Machine.execFadd a b s
  | .fsub a b => Sys2Proof.Machine.execFsub a b s
  | .fmul a b => Sys2Proof.Machine.execFmul a b s
  | .fma a b => Sys2Proof.Machine.execFma a b s
  | .fmin a b => Sys2Proof.Machine.execFmin a b s
  | .fmax a b => Sys2Proof.Machine.execFmax a b s
  | .fcmp a b => Sys2Proof.Machine.execFcmp a b s
  | .fclass a b => Sys2Proof.Machine.execFclass a b s
  | .frnd a b => Sys2Proof.Machine.execFrnd a b s
  | .fscale a b => Sys2Proof.Machine.execFscale a b s
  | .frcp a b => Sys2Proof.Machine.execFrcp a b s
  | .frsq a b => Sys2Proof.Machine.execFrsq a b s
  | .fsqrt a b => Sys2Proof.Machine.execFsqrt a b s
  | .fexp2 a b => Sys2Proof.Machine.execFexp2 a b s
  | .flog2 a b => Sys2Proof.Machine.execFlog2 a b s
  | .fsin a b => Sys2Proof.Machine.execFsin a b s
  | .fcos a b => Sys2Proof.Machine.execFcos a b s
  | .ftanh a b => Sys2Proof.Machine.execFtanh a b s
  | .fdiv a b => Sys2Proof.Machine.execFdiv a b s
  | .cvt a b => Sys2Proof.Machine.execCvt a b s
  | .cvti a b => Sys2Proof.Machine.execCvti a b s
  | .cvtf a b => Sys2Proof.Machine.execCvtf a b s
  | .bscale a b => Sys2Proof.Machine.execBscale a b s
  | .fmtq a b => Sys2Proof.Machine.execFmtq a b s
  | .ld a b => Sys2Proof.Machine.execLd a b s
  | .st a b => Sys2Proof.Machine.execSt a b s
  | .cas a b => Sys2Proof.Machine.execCas a b s
  | .fence a b => Sys2Proof.Machine.execFence a b s
  | .pref a b => Sys2Proof.Machine.execPref a b s
  | .cctl a b => Sys2Proof.Machine.execCctl a b s
  | .probe a b => Sys2Proof.Machine.execProbe a b s
  | .mapc a b => Sys2Proof.Machine.execMapc a b s
  | .atomAdd a b => Sys2Proof.Machine.execAtomAdd a b s
  | .atomMin a b => Sys2Proof.Machine.execAtomMin a b s
  | .atomMax a b => Sys2Proof.Machine.execAtomMax a b s
  | .atomAnd a b => Sys2Proof.Machine.execAtomAnd a b s
  | .atomOr a b => Sys2Proof.Machine.execAtomOr a b s
  | .atomXor a b => Sys2Proof.Machine.execAtomXor a b s
  | .atomXchg a b => Sys2Proof.Machine.execAtomXchg a b s
  | .redAdd a b => Sys2Proof.Machine.execRedAdd a b s
  | .redMin a b => Sys2Proof.Machine.execRedMin a b s
  | .redMax a b => Sys2Proof.Machine.execRedMax a b s
  | .redAnd a b => Sys2Proof.Machine.execRedAnd a b s
  | .redOr a b => Sys2Proof.Machine.execRedOr a b s
  | .redXor a b => Sys2Proof.Machine.execRedXor a b s
  | .wbind a b => Sys2Proof.Machine.execWbind a b s
  | .wtouch a b => Sys2Proof.Machine.execWtouch a b s
  | .wstat a b => Sys2Proof.Machine.execWstat a b s
  | .wdrop a b => Sys2Proof.Machine.execWdrop a b s
  | .wflush a b => Sys2Proof.Machine.execWflush a b s
  | .cntwait a b => Sys2Proof.Machine.execCntwait a b s
  | .binit a b => Sys2Proof.Machine.execBinit a b s
  | .barr a b => Sys2Proof.Machine.execBarr a b s
  | .bwait a b => Sys2Proof.Machine.execBwait a b s
  | .barw a b => Sys2Proof.Machine.execBarw a b s
  | .bexp a b => Sys2Proof.Machine.execBexp a b s
  | .binv a b => Sys2Proof.Machine.execBinv a b s
  | .mma a b => Sys2Proof.Machine.execMma a b s
  | .mmaz a b => Sys2Proof.Machine.execMmaz a b s
  | .zld a b => Sys2Proof.Machine.execZld a b s
  | .zst a b => Sys2Proof.Machine.execZst a b s
  | .zmov a b => Sys2Proof.Machine.execZmov a b s
  | .zrmax a b => Sys2Proof.Machine.execZrmax a b s
  | .zrscale a b => Sys2Proof.Machine.execZrscale a b s
  | .bra a b => Sys2Proof.Machine.execBra a b s
  | .brx a b => Sys2Proof.Machine.execBrx a b s
  | .call a b => Sys2Proof.Machine.execCall a b s
  | .callx a b => Sys2Proof.Machine.execCallx a b s
  | .ret a b => Sys2Proof.Machine.execRet a b s
  | .exit a b => Sys2Proof.Machine.execExit a b s
  | .yield a b => Sys2Proof.Machine.execYield a b s
  | .sleep a b => Sys2Proof.Machine.execSleep a b s
  | .nop a b => Sys2Proof.Machine.execNop a b s
  | .regq a b => Sys2Proof.Machine.execRegq a b s
  | .rres a b => Sys2Proof.Machine.execRres a b s
  | .remit a b => Sys2Proof.Machine.execRemit a b s
  | .rcancel a b => Sys2Proof.Machine.execRcancel a b s
  | .fetch a b => Sys2Proof.Machine.execFetch a b s
  | .txbegin a b => Sys2Proof.Machine.execTxbegin a b s
  | .txend a b => Sys2Proof.Machine.execTxend a b s
  | .txabort a b => Sys2Proof.Machine.execTxabort a b s
  | .txstat a b => Sys2Proof.Machine.execTxstat a b s
  | .trap a b => Sys2Proof.Machine.execTrap a b s
  | .bkpt a b => Sys2Proof.Machine.execBkpt a b s
  | .hret a b => Sys2Proof.Machine.execHret a b s
  | .qpost a b => Sys2Proof.Machine.execQpost a b s
  | .ckpt a b => Sys2Proof.Machine.execCkpt a b s
  | .issueSelection a b c => Sys2Proof.Machine.execIssueSelection a b c s
  | .lineFill a b c => Sys2Proof.Machine.execLineFill a b c s
  | .longLatencyComplete a b c => Sys2Proof.Machine.execLongLatencyComplete a b c s
  | .laneReplay a b c => Sys2Proof.Machine.execLaneReplay a b c s
  | .returnStackFillReturn a b c => Sys2Proof.Machine.execReturnStackFillReturn a b c s
  | .sleepExpire a b c => Sys2Proof.Machine.execSleepExpire a b c s
  | .handlerEntry a => Sys2Proof.Machine.execHandlerEntry a s
  | .regqGrant a b => Sys2Proof.Machine.execRegqGrant a b s
  | .windowSectorArrival a b c => Sys2Proof.Machine.execWindowSectorArrival a b c s
  | .windowSectorFault a b c => Sys2Proof.Machine.execWindowSectorFault a b c s
  | .wflushComplete a b => Sys2Proof.Machine.execWflushComplete a b s
  | .storeAcceptedAtHome a b => Sys2Proof.Machine.execStoreAcceptedAtHome a b s
  | .matrixEntryStart a => Sys2Proof.Machine.execMatrixEntryStart a s
  | .matrixEntryRetire a => Sys2Proof.Machine.execMatrixEntryRetire a s
  | .txVerdict a b => Sys2Proof.Machine.execTxVerdict a b s
  | .recordPublished a => Sys2Proof.Machine.execRecordPublished a s
  | .coalescingTimerExpire a b c => Sys2Proof.Machine.execCoalescingTimerExpire a b c s
  | .rresGrant a => Sys2Proof.Machine.execRresGrant a s
  | .groupPlace a => Sys2Proof.Machine.execGroupPlace a s
  | .groupPlacementComplete a => Sys2Proof.Machine.execGroupPlacementComplete a s
  | .groupRetire a => Sys2Proof.Machine.execGroupRetire a s
  | .fmtBind a b c => Sys2Proof.Machine.execFmtBind a b c s
  | .fmtRelease a b => Sys2Proof.Machine.execFmtRelease a b s
  | .fmtVerifyComplete a b => Sys2Proof.Machine.execFmtVerifyComplete a b s
  | .fmtSlotEnable a b c => Sys2Proof.Machine.execFmtSlotEnable a b c s
  | .fmtSlotDisable a b c => Sys2Proof.Machine.execFmtSlotDisable a b c s
  | .fmtDrainComplete a b => Sys2Proof.Machine.execFmtDrainComplete a b s
  | .codePageCheckComplete a b => Sys2Proof.Machine.execCodePageCheckComplete a b s
  | .objectLoadComplete a => Sys2Proof.Machine.execObjectLoadComplete a s
  | .objectDrainComplete a => Sys2Proof.Machine.execObjectDrainComplete a s
  | .ctxCreate a b => Sys2Proof.Machine.execCtxCreate a b s
  | .ctxDestroy a b => Sys2Proof.Machine.execCtxDestroy a b s
  | .loadObject a b => Sys2Proof.Machine.execLoadObject a b s
  | .unloadObject a b => Sys2Proof.Machine.execUnloadObject a b s
  | .save a b => Sys2Proof.Machine.execSave a b s
  | .restore a b => Sys2Proof.Machine.execRestore a b s
  | .checkpoint a b => Sys2Proof.Machine.execCheckpoint a b s
  | .haltArrival a => Sys2Proof.Machine.execHaltArrival a s
  | .saveComplete a => Sys2Proof.Machine.execSaveComplete a s
  | .preemptRequest a => Sys2Proof.Machine.execPreemptRequest a s
  | .qCreate a b => Sys2Proof.Machine.execQCreate a b s
  | .qDestroy a b => Sys2Proof.Machine.execQDestroy a b s
  | .qClear a b => Sys2Proof.Machine.execQClear a b s
  | .notifyWrite a b c => Sys2Proof.Machine.execNotifyWrite a b c s
  | .queueMap a => Sys2Proof.Machine.execQueueMap a s
  | .packetStart a => Sys2Proof.Machine.execPacketStart a s
  | .launchGraph a b => Sys2Proof.Machine.execLaunchGraph a b s
  | .copy a b c d => Sys2Proof.Machine.execCopy a b c d s
  | .fill a b c d => Sys2Proof.Machine.execFill a b c d s
  | .waitMem a b => Sys2Proof.Machine.execWaitMem a b s
  | .waitMemRetest a => Sys2Proof.Machine.execWaitMemRetest a s
  | .waitMemPoll a => Sys2Proof.Machine.execWaitMemPoll a s
  | .waitMemTimeout a => Sys2Proof.Machine.execWaitMemTimeout a s
  | .signalMem a b c d e => Sys2Proof.Machine.execSignalMem a b c d e s
  | .event a b => Sys2Proof.Machine.execEvent a b s
  | .resync a b c => Sys2Proof.Machine.execResync a b c s
  | .packetComplete a b c => Sys2Proof.Machine.execPacketComplete a b c s
  | .eventRecordWrite a => Sys2Proof.Machine.execEventRecordWrite a s
  | .evtHeadWrite a b => Sys2Proof.Machine.execEvtHeadWrite a b s
  | .fnPauseWrite a b => Sys2Proof.Machine.execFnPauseWrite a b s
  | .functionLevelReset a => Sys2Proof.Machine.execFunctionLevelReset a s
  | .weightWrite a b c => Sys2Proof.Machine.execWeightWrite a b c s
  | .prqEntryWrite a b => Sys2Proof.Machine.execPrqEntryWrite a b s
  | .prqReply a b c => Sys2Proof.Machine.execPrqReply a b c s
  | .prqBaseWrite a b c => Sys2Proof.Machine.execPrqBaseWrite a b c s
  | .invContextAll a b c => Sys2Proof.Machine.execInvContextAll a b c s
  | .invContextRange a b c d => Sys2Proof.Machine.execInvContextRange a b c d s
  | .invStage2All a b => Sys2Proof.Machine.execInvStage2All a b s
  | .invStage2Range a b c => Sys2Proof.Machine.execInvStage2Range a b c s
  | .invComplete a => Sys2Proof.Machine.execInvComplete a s
  | .atsCompletion a b c d e f => Sys2Proof.Machine.execAtsCompletion a b c d e f s
  | .prgResponse a b c => Sys2Proof.Machine.execPrgResponse a b c s
  | .atsInvalidateRequest a b c => Sys2Proof.Machine.execAtsInvalidateRequest a b c s
  | .hostAccess a b => Sys2Proof.Machine.execHostAccess a b s
  | .partCreate a b => Sys2Proof.Machine.execPartCreate a b s
  | .partDestroy a b => Sys2Proof.Machine.execPartDestroy a b s
  | .partGrow a b => Sys2Proof.Machine.execPartGrow a b s
  | .partShrink a b => Sys2Proof.Machine.execPartShrink a b s
  | .shareSet a b => Sys2Proof.Machine.execShareSet a b s
  | .lend a b => Sys2Proof.Machine.execLend a b s
  | .recall a b => Sys2Proof.Machine.execRecall a b s
  | .keyEnroll a b => Sys2Proof.Machine.execKeyEnroll a b s
  | .meterReport a b => Sys2Proof.Machine.execMeterReport a b s
  | .meterSeed a b => Sys2Proof.Machine.execMeterSeed a b s
  | .wayMoveEpoch a => Sys2Proof.Machine.execWayMoveEpoch a s
  | .lnkReset a b => Sys2Proof.Machine.execLnkReset a b s
  | .partnerDetect a b => Sys2Proof.Machine.execPartnerDetect a b s
  | .trainingComplete a b => Sys2Proof.Machine.execTrainingComplete a b s
  | .trainingTimeout a => Sys2Proof.Machine.execTrainingTimeout a s
  | .linkFailure a b => Sys2Proof.Machine.execLinkFailure a b s
  | .flitReceive a b c d e => Sys2Proof.Machine.execFlitReceive a b c d e s
  | .peerRequestReceive a b => Sys2Proof.Machine.execPeerRequestReceive a b s
  | .pcieLinkDown a => Sys2Proof.Machine.execPcieLinkDown a s
  | .dump a b => Sys2Proof.Machine.execDump a b s
  | .dumpComplete => Sys2Proof.Machine.execDumpComplete s
  | .lockInterfaceRequest a b c => Sys2Proof.Machine.execLockInterfaceRequest a b c s
  | .startInterfaceRequest a => Sys2Proof.Machine.execStartInterfaceRequest a s
  | .stopInterfaceRequest a => Sys2Proof.Machine.execStopInterfaceRequest a s
  | .getDeviceInterfaceReport a => Sys2Proof.Machine.execGetDeviceInterfaceReport a s
  | .tdiError a => Sys2Proof.Machine.execTdiError a s
  | .getCertificate => Sys2Proof.Machine.execGetCertificate s
  | .getMeasurements a => Sys2Proof.Machine.execGetMeasurements a s
  | .writeSlot a => Sys2Proof.Machine.execWriteSlot a s
  | .setMarker a => Sys2Proof.Machine.execSetMarker a s
  | .commitSvn => Sys2Proof.Machine.execCommitSvn s
  | .ownerFuse => Sys2Proof.Machine.execOwnerFuse s
  | .writeConfig => Sys2Proof.Machine.execWriteConfig s
  | .boot => Sys2Proof.Machine.execBoot s
  | .softError a => Sys2Proof.Machine.execSoftError a s
  | .patrolScrub a => Sys2Proof.Machine.execPatrolScrub a s
  | .katConfirmed a => Sys2Proof.Machine.execKatConfirmed a s
  | .registerWrite a b c => Sys2Proof.Machine.execRegisterWrite a b c s
  | .powerLoss => Sys2Proof.Machine.execPowerLoss s
  | .ideKmKeyProg a b c => Sys2Proof.Machine.execIdeKmKeyProg a b c s
  | .securedSpdmSession a b => Sys2Proof.Machine.execSecuredSpdmSession a b s

end Sys2Proof.Machine
end

