-- ==== Sys2Proof/Machine/Step.lean ====
section
/-!
DEFINITION. One step of the machine: the slot chosen for issue, the head of the agenda, or a selection
(Machine/Fetch.lean says which), run by exec.
-/

namespace Sys2Proof.Machine

/-- One step (log entry 1 for the order in which agents take steps). -/
def step (s : State) : Host.Outcome State Fault Refusal :=
  match nextUp s with
  | .run i t => exec i t
  | .done t => .next t

/-- The state s with an instruction placed where the next step issues it (log entry 9). -/
def State.withFetchWord (s : State) (nbits w : Nat) : State := placeWord s (BitVec.ofNat 96 (w % 2 ^ min nbits 96))

end Sys2Proof.Machine
end

