-- ==== Sys2Proof/WellFormed.lean ====
section
/-!
DEFINITION. Which instructions are well formed: those whose fields the spec defines (R73, R75 to R86). The check
itself stands in Decode.lean, where the decoder uses it.
-/

namespace Sys2Proof

/-- An instruction whose fields are all ones that the spec defines (R86). -/
def Instr.WellFormed (i : Instr) : Prop := formOk i = true

/-- Whether an instruction has an encoding: the instructions of R85 do, the device's other steps do not. -/
def Instr.Encoded (i : Instr) : Prop := (parts i).isSome = true

end Sys2Proof
end

