-- ==== Sys2Proof/Safety.lean ====
section
/-!
DEFINITION. The terms that statements use: what counts as a safe run (every memory of the machine in its canonical form),
the conditions under which an issue traps in no lane, and the state that such an issue leaves.
-/

namespace Sys2Proof.Machine

/-! ### Safe runs -/

/-- Every memory of the machine is in its canonical form (Memory.wf): HBM, host memory, each peer's, each core's
scratchpad, and the scratchpad bytes that a saved group keeps. -/
structure State.MemoryOk (s : State) : Prop where
  hbm : s.hbm.wf = true
  host : s.host.wf = true
  peers : ∀ e ∈ s.peers, e.2.wf = true
  scratch : ∀ e ∈ s.cores, e.2.scratch.wf = true
  saved : ∀ e ∈ s.groups, e.2.savedScratch.wf = true

/-! ### Issues that trap in no lane -/

/-- The partition has every feature of a list (R319). -/
def View.has (x : View) (fs : List Nat) : Prop := ∀ b ∈ fs, x.feats.getLsbD b = true

/-- Every lane of Active reaches every V register of a list: it lies within the quota, or in the handler reserve of a
lane in handler mode (R95, R97). -/
def View.reach (x : View) (k : Ctl) (rs : List Nat) : Prop :=
  ∀ n, inMask (x.active k) n = true → ∀ r ∈ rs, x.vOk n r = true

/-- The lane n is the one lane of Active. -/
def View.only (x : View) (k : Ctl) (n : Nat) : Prop := laneList (x.active k) = [n]

/-! ### What an issue leaves -/

/-- The end of an issue in which no lane traps: every lane of the issue group is at the sequential successor, and no
slot is chosen (R64, R126). -/
def afterIssue (x : View) (t : State) : State := (advance t x.sel x.sel.mask).deselect

/-- Register writes of an issue. -/
def putRegs (x : View) (t : State) (ws : List RegWrite) : State := applyRegs t x.sel.core x.sel.grp x.sel.course ws

/-- An issue has written a value in destination d of every lane of Active (R136). -/
def written (s : State) (x : View) (k : Ctl) (d : Dst) (val : Nat → PWord) : State :=
  afterIssue x (putRegs x s (x.result k (x.active k) d val))

/-- An issue has started a long-latency operation with the given results, unless Active is empty (R73, R74). -/
def started (s : State) (x : View) (k : Ctl) (ws : List RegWrite) (slots : List Nat) : State :=
  afterIssue x (if x.active k = 0 then s
    else startLong s x.sel.grp x.sel.course ⟨setfFlag k.setf, x.active k, ws, slots⟩)

/-- The value a function of the source words has in a lane; it is poisoned when a source is (R137). -/
def View.value (x : View) (w : Nat) (srcs : List Opd) (g : List Word → Word) (n : Nat) : PWord :=
  let ps := srcs.map (x.opd w n)
  ⟨g (ps.map (·.val)), ps.any (·.poison)⟩

/-- A course of a group, as it stands. -/
def State.courseAt (s : State) (g c : Nat) : Course := ((s.group g).map (·.course c)).getD Course.reset

/-- A lane, as it stands. -/
def State.lane (s : State) (g c n : Nat) : Lane := (s.courseAt g c).lane n

/-- A V register of a lane as an instruction of a view names it: in the handler reserve of the core for V224 to V255 of a
lane in handler mode (R97). -/
def State.vregAt (s : State) (x : View) (n i : Nat) : PWord :=
  if x.reserved n i then (s.core x.sel.core).getReserve n (i - 224) else (s.lane x.sel.grp x.sel.course n).getV i

/-! ### Frames -/

/-- From s to t nothing has changed but windows, the counters, flags and operations in flight of courses, the valid bits and
matrix queues of cores, the usage meters, and what the model keeps of its own: the agenda and its counters. Every register,
predicate and special register, every lane, every tile and barrier, and every byte of every memory is as before. -/
structure OnlyEngines (s t : State) : Prop where
  groups : ∀ g, (t.group g).map (fun y => { y with courses := [], windows := [] })
    = (s.group g).map (fun y => { y with courses := [], windows := [] })
  courses : ∀ g c, { t.courseAt g c with
    flags := (s.courseAt g c).flags, inflight := (s.courseAt g c).inflight, engines := (s.courseAt g c).engines }
      = s.courseAt g c
  cores : ∀ k, { t.core k with valid := (s.core k).valid, matQ := (s.core k).matQ } = s.core k
  rest : { t with groups := s.groups, cores := s.cores, agenda := s.agenda, meters := s.meters, nextReq := s.nextReq,
                  free := s.free } = s

/-- From s to t nothing has changed but barriers and what lanes wait for. -/
structure OnlyHolds (s t : State) : Prop where
  groups : ∀ g, (t.group g).map (fun y => { y with courses := [], barriers := [] })
    = (s.group g).map (fun y => { y with courses := [], barriers := [] })
  courses : ∀ g c, { t.courseAt g c with lanes := (s.courseAt g c).lanes } = s.courseAt g c
  lanes : ∀ g c n, { t.lane g c n with hold := (s.lane g c n).hold } = s.lane g c n
  rest : { t with groups := s.groups } = s

/-- From s to t nothing has changed but the PC, the depth, the return entries and the wait of lanes, and the count of a
course's backward transfers. -/
structure OnlyControl (s t : State) : Prop where
  groups : ∀ g, (t.group g).map (fun y => { y with courses := [] }) = (s.group g).map (fun y => { y with courses := [] })
  courses : ∀ g c, { t.courseAt g c with lanes := (s.courseAt g c).lanes, bc := (s.courseAt g c).bc } = s.courseAt g c
  lanes : ∀ g c n, { t.lane g c n with
    pc := (s.lane g c n).pc, depth := (s.lane g c n).depth, entries := (s.lane g c n).entries, hold := (s.lane g c n).hold }
      = s.lane g c n
  rest : { t with groups := s.groups, sel := s.sel } = s

/-! ### Results of register instructions -/

/-- An RRR instruction of the integer chapter, in every form: in an issue that reaches its registers it writes g of its
source words in its destination, in every lane of Active, and does nothing else but advance (R135 to R137). -/
def ResultRRR (mk : Ctl → RRR → Instr) (arity : Nat) (g : RRR → List Word → Word) : Prop :=
  ∀ (k : Ctl) (f : RRR) (s : State) (x : View), s.view = some x →
    x.reach k ((dstOf f.dcls f.d).vregs ++ (rrrSrcs f arity).flatMap (·.vregs)) →
    exec (mk k f) s = .next (written s x k (dstOf f.dcls f.d) (x.value (widthOf f.es) (rrrSrcs f arity) (g f)))

/-- The same for an RRI instruction: g of its source word and of the immediate operand (R139). -/
def ResultRRI (mk : Ctl → RRI → Instr) (g : RRI → Word → Word → Word) : Prop :=
  ∀ (k : Ctl) (f : RRI) (s : State) (x : View), s.view = some x →
    x.reach k ((dstOf f.dcls f.d).vregs ++ (opdOf f.acls f.a).vregs) →
    exec (mk k f) s = .next (written s x k (dstOf f.dcls f.d) (x.value (rriWidth f) [opdOf f.acls f.a]
      (fun ws => g f (ws.getD 0 0) (splat32 (tySigned f.ty) (rriWidth f) f.imm))))

/-- The arithmetic of R141 on the words of an RRR instruction. -/
def arithOf (g : Int → Int → Int → Int) (f : RRR) (ws : List Word) : Word :=
  arith (tySigned f.ty) (widthOf f.es) (f.sat == 1) g (ws.getD 0 0) (ws.getD 1 0) (ws.getD 2 0)

/-- The arithmetic of R141 on the words of an RRI instruction. -/
def arithImmOf (g : Int → Int → Int → Int) (f : RRI) (a b : Word) : Word :=
  arith (tySigned f.ty) (rriWidth f) (rriSat f) g a b 0

/-- A one-operand function of R143 on element codes. -/
def countOf (g : Nat → Nat → Nat) (f : RRR) (ws : List Word) : Word :=
  pack (widthOf f.es) (fun i => g (widthOf f.es) (field (ws.getD 0 0) (widthOf f.es) i))

/-! ### Results gathered from other lanes (R150) -/

/-- The register writes of a cross-lane result: the values, and under XL whether a part came from an invalid source. -/
def gathered (x : View) (k : Ctl) (f : RRR) (r : Nat → Gather) : List RegWrite :=
  x.result k (x.active k) (dstOf f.dcls f.d) (fun n => ⟨BitVec.ofNat 64 (r n).val, (r n).poison⟩)
    ++ (if f.xl = 1 then (laneList (x.active k)).map (fun n => .p n f.xp.toNat (r n).bad ((x.crs.lane n).guardP k)) else [])

/-- A cross-lane instruction, in every form: in an issue that reaches its registers it starts a long-latency operation
with the values gathered from the lanes of Active. -/
def ResultGather (mk : Ctl → RRR → Instr) (r : RRR → View → LaneMask → Nat → Gather) : Prop :=
  ∀ (k : Ctl) (f : RRR) (s : State) (x : View), s.view = some x → x.has [1] →
    x.reach k ((dstOf f.dcls f.d).vregs ++ [f.a.toNat] ++ (opdOf f.bcls f.b).vregs) →
    exec (mk k f) s = .next (started s x k (gathered x k f (r f x (x.active k))) [])

/-! ### Results of float instructions -/

/-- The end of an issue that rounds: register results now or by a long-latency operation, and one LFSR step in each lane
of Active under STOCH (R45). -/
def rounded (s : State) (x : View) (k : Ctl) (f : RRR) (long : Bool) (slots : List Nat) (ws : List RegWrite) : State :=
  let t := deliver s x k long (x.active k) (x.active k) ws slots
  afterIssue x (if f.rm == 5 then stepSeeds t x.sel (x.active k) else t)

/-- A float instruction on one slot, in every form: with its feature, its registers within reach and its slot BOUND, the
element i of its result is g of the source elements i, decoded and rounded through the slot's image (R159, R167). -/
def ResultFloat (mk : Ctl → RRR → Instr) (feat : Nat) (long : Bool) (arity : Nat)
    (g : RRR → Image → RoundMode → List Nat → Nat) : Prop :=
  ∀ (k : Ctl) (f : RRR) (s : State) (x : View) (im : Image), s.view = some x → x.has [feat] →
    x.reach k ((dstOf f.dcls f.d).vregs ++ (rrrSrcs f arity).flatMap (·.vregs)) →
    x.core.slotImage f.ty.toNat = some im →
    exec (mk k f) s = .next (rounded s x k f long [f.ty.toNat]
      (x.result k (x.active k) (dstOf f.dcls f.d) (fun n =>
        let ps := (rrrSrcs f arity).map (x.opd (descWidth im.desc) n)
        stochPoison x f n ⟨pack (descWidth im.desc) (fun i =>
          g f im (x.rounding f n i) (ps.map (fun p => field p.val (descWidth im.desc) i))), ps.any (·.poison)⟩)))

/-- A float test, in every form: all ones or zero by element, or for a P destination the outcome on element 0 (R173,
R174). -/
def ResultTest (mk : Ctl → RRR → Instr) (test : RRR → Image → List Word → Nat → Bool) : Prop :=
  ∀ (k : Ctl) (f : RRR) (s : State) (x : View) (im : Image), s.view = some x → x.has [2] →
    x.reach k ((dstOf f.dcls f.d).vregs ++ (rrrSrcs f 2).flatMap (·.vregs)) →
    x.core.slotImage f.ty.toNat = some im →
    exec (mk k f) s = .next (rounded s x k f false [f.ty.toNat] (x.result k (x.active k) (dstOf f.dcls f.d)
      (x.value (descWidth im.desc) (rrrSrcs f 2) (fun ws =>
        if f.dcls = 2 then (if test f im ws 0 then 1 else 0)
        else pack (descWidth im.desc) (fun i => maskElem (descWidth im.desc) (test f im ws i))))))

/-- A conversion, in every form: with its slots BOUND and a legal part, from ws-bit to wd-bit elements (R175). -/
def ResultConvert (mk : Ctl → RRR → Instr) (more : RRR → List Opd) (slots : RRR → List Nat) (ws wd : RRR → View → Nat)
    (el : RRR → View → Nat → Nat → List Word → Nat → Nat) : Prop :=
  ∀ (k : Ctl) (f : RRR) (s : State) (x : View), s.view = some x → x.has [4] →
    x.reach k ((dstOf f.dcls f.d).vregs ++ (opdOf f.acls f.a :: more f).flatMap (·.vregs)) →
    (∀ i ∈ slots f, (x.core.slotImage i).isSome = true) → partOk (64 / ws f x) (64 / wd f x) f.mod.toNat = true →
    exec (mk k f) s = .next (rounded s x k f false (slots f)
      (x.result k (x.active k) (dstOf f.dcls f.d) (fun n =>
        let ps := (opdOf f.acls f.a :: more f).map (x.opd (ws f x) n)
        let old := x.opd 64 n (dstOf f.dcls f.d).asOpd
        stochPoison x f n ⟨convertWord (wd f x) (64 / ws f x) (64 / wd f x) f.mod.toNat old.val
            (fun i j => el f x n i (ps.map (·.val)) j),
          ps.any (·.poison) || (decide (64 / ws f x < 64 / wd f x) && old.poison)⟩)))

/-! ### Memory accesses of one lane -/

/-- An access of a lane passes every check that precedes its translation: its address registers are not poisoned, it is
aligned, and it lies in its space (R181 to R185, R219, R220). -/
structure AccessOk (s : State) (x : View) (a : Access) (poison : Bool) : Prop where
  clean : poison = false
  aligned : a.ea % a.align = 0
  inside : spaceOk s x a = true

/-- The pieces of an access lie in no window that is absent, missing or in the way, on a state that no mixed-size check
watches (R194, R241, R244). -/
structure NoWindow (s : State) (x : View) (ps : List Piece) : Prop where
  absent : touched s (scratchSectors ps) = []
  missing : missingSectors s (scratchSectors ps) = []
  writable : windowRefuses s (scratchSectors ps) = false
  debug : mixDebug s x = false

/-- The end of an ordinary lane's atomic (R227 to R231): the FIFO drains where the order or the sector asks for it, the
read-modify-write is performed at the sector's home, and an acquire clears the L1. -/
def atomDone (k : Ctl) (op : AtomOp) (returns : Bool) (f : MEM) (x : View) (n : Nat) (t : State) (p : Piece) :
    List RegWrite × State :=
  let g := atomArgs k ⟨op, returns⟩ f x n
  let r := atomAt (atomDrain t x n f p) x.sel.core op f.width.toNat p g.x g.y g.xp g.yp returns
  let u := markSectors r.2 (r.2.groupPart x.grp) (x.sel.grp, x.sel.course, n) [p]
  ((atomResult ⟨op, returns⟩ f x k n r.1.1 r.1.2).map (RegWrite.over [p]),
    if f.order = 2 ∨ f.order = 4 then acquireAt u x.sel.core f.scope.toNat else u)

/-- An atomic of one lane that has no ACTIVE transaction, in an ordinary group, on a sector the device holds: it is
performed at its home, and returns the old value if it returns one; no release at SYSTEM scope has to wait (R201). -/
def AtomCompletes (mk : Ctl → MEM → Instr) (op : AtomOp) (returns : Bool) : Prop :=
  ∀ (k : Ctl) (f : MEM) (s t : State) (x : View) (n : Nat) (p : Piece), s.view = some x → x.only k n → x.has [5] →
    x.reach k ((if returns then [f.d.toNat] else []) ++ (baseOpd f).vregs ++ [f.index.toNat]
      ++ (if op = .cas then [f.index.toNat + 1] else [])) →
    AccessOk s x (x.atomAccess f n) (x.addrPoison f false n) → x.grp.mode = .ordinary → systemWait s x k f [5] = none →
    laneActive s x n = false → laneActive t x n = false →
    resolve s x.grp x.sel.core x.sel.course n (x.atomAccess f n) .rw 0 = (.ok [p], t) → NoWindow t x [p] →
    (p.tgt = .hbm ∨ p.tgt = .scratch x.sel.core) →
    exec (mk k f) s = .next (afterIssue x
      (deliver (atomDone k op returns f x n t p).2 x k returns (x.active k) (x.active k)
        (atomDone k op returns f x n t p).1 []))

/-! ### Matrix instructions -/

/-- A matrix instruction that reports no cause and need not wait joins its core's queue (R278), its counter or flag
rises, and its window's fill starts where it is ABSENT (R241). -/
def MatrixJoins (mk : Ctl → MAT → Instr) (op : MatOp) : Prop :=
  ∀ (k : Ctl) (f : MAT) (s : State) (x : View), s.view = some x → x.active k ≠ 0 →
    (∀ n, inMask (x.active k) n = true → x.laneCause (matShape op f s x) n = none) →
    x.matFull = false → ((op = .zmov ∨ op = .zrmax) ∨ x.counterFull 1 1 = false) →
    (matTouches op f x = true → x.counterFull 2 1 = false) →
    exec (mk k f) s = .next (afterIssue x (matJoin
      (if matTouches op f x then
        startFill s x.sel.grp f.bidx.toNat (x.sel.grp, x.sel.course) ((lowLane (x.active k)).getD 0) else s)
      x k op f (x.active k)))

/-! ### Branches of one lane -/

/-- The target of a branch has its mark in a line that the core holds, its data not poisoned (R63, R67). -/
def Marked (s : State) (x : View) (t : Word) : Prop :=
  pcValid t = true ∧ ∃ l, (s.core x.sel.core).line (lineOf t) (s.groupCtx x.grp) = some l ∧ l.poisoned = false
    ∧ lineTarget l (slotOf t) = true

/-- The lane n of the issue group goes to a target, the branch having made s1 of the state: a backward transfer counts
once (R119). token is the number of the issue. -/
def goesTo (s1 : State) (x : View) (n token : Nat) (t : Word) : State :=
  let s2 := s1.updLane x.sel.grp x.sel.course n (fun l => { l with pc := t })
  let m := decide (t ≤ x.sel.pc)
  let u := (bumpIf s2 x.sel.grp x.sel.course m).deselect
  if m then countFills u x.sel.grp x.sel.course token else u

/-- A lane pushes its return address (R114), at depth d. -/
def pushed (s : State) (x : View) (n d : Nat) (ret : Word) : State :=
  s.updLane x.sel.grp x.sel.course n (fun l => { l with
    depth := l.depth + 1, entries := (d + 1, ⟨ret, false⟩) :: l.entries.filter (fun e => decide (d < e.1 + 7)) })

/-- A lane pops its return stack, the core holding every entry it needs (R114). -/
def popped (s : State) (x : View) (n : Nat) : State :=
  s.updLane x.sel.grp x.sel.course n (fun l => { l with
    depth := l.depth - 1, entries := l.entries.filter (fun e => decide (e.1 < l.depth.toNat)) })

/-- The lane n of the issue group falls through. -/
def fallsThrough (s : State) (x : View) (n : Nat) : State :=
  (s.newToken.2.updLane x.sel.grp x.sel.course n (fun l => { l with pc := pcNext x.sel.pc })).deselect

/-! ### Traps of one lane -/

/-- A trap of the lane goes to its context's handler (R303, R367, R369, R370): its group and the lane are live, it is in
no ACTIVE transaction and not in the handler, and TRAPBASE is not zero. -/
structure CanTrap (s : State) (x : View) (n : Nat) : Prop where
  alive : x.grp.alive = true
  live : (x.crs.lane n).live = true
  noTx : (x.crs.lane n).tx.state ≠ .active
  outside : (x.crs.lane n).inHandler = false
  base : ((alGet s.ctxs (s.groupCtx x.grp)).map (·.trapBase)).getD 0 ≠ 0

/-! ### Records -/

/-- REMIT's effect on its launch (R353): the first c records of the run are WRITTEN at one more depth and with a key, the
others FREE, and their publication begins. -/
def emitted (x : View) (n : Nat) (r : Run) (c key : Nat) (l : Launch) : Launch :=
  let u := mapRecords (freeRecords l (inSlots r.block (r.slot + c) (r.slot + r.size)))
    (inSlots r.block r.slot (r.slot + c))
    (fun q => { q with state := .written, depth := (x.crs.lane n).recDepth.toNat + 1, key := key })
  { u with pubs := u.pubs ++ [⟨x.sel.grp, (List.range c).map (fun i => (r.block, r.slot + i))⟩] }

/-! ### Commands of a function -/

/-- A function takes a context command: it belongs to an ACTIVE partition, takes requests, and has none in progress (R399,
R436). -/
structure CtxReady (s : State) (fn : Nat) : Prop where
  idle : (s.fn fn).ctxStat.busy = false
  takes : takesMmio s fn = true
  active : fnActive s fn = true

/-- The same for a queue command (R413, R436). -/
structure QueueReady (s : State) (fn : Nat) : Prop where
  idle : (s.fn fn).qStat.busy = false
  takes : takesMmio s fn = true
  active : fnActive s fn = true

/-! ### Commands of the security processor -/

/-- The order of R438 for a command of an OP. While another command is in progress, or one submitted before it waits, the
command joins those that wait and its step comes round again. A block is checked in its steps 1 to 4; one that passes takes its SEQ; the body rules name its status, or it begins. From then on it
goes on each time it comes round, until its effect is complete and its status OK. -/
def SpCommand (mk : Nat → CmdBlock → Instr) (op : Nat) (rule : State → Nat → Option (BitVec 8))
    (start : State → Nat → State) (more : Nat → State → Nat → Option State) : Prop :=
  ∀ (fn : Nat) (b : CmdBlock) (s : State),
    let d := spBody op b
    let waits (t : State) : State :=
      ({ t with spWait := if t.spWait.contains (fn, b) then t.spWait else t.spWait ++ [(fn, b)] } : State).post (mk fn b)
    let go (t : State) : State := match more fn t d with
      | some u => spEnd u fn 0
      | none => ({ t with spJob := some (fn, b) } : State).post (mk fn b)
    (∀ j, s.spJob = some j → j ≠ (fn, b) → exec (mk fn b) s = .next (waits s))
    ∧ (s.spJob = none → s.boot.recovery = false → spBehind s fn b = true → exec (mk fn b) s = .next (waits s))
    ∧ (s.spJob = some (fn, b) → exec (mk fn b) s = .next (go s))
    ∧ (s.spJob = none → s.boot.recovery = false → spBehind s fn b = false → exec (mk fn b) s = .next (
        let u := spBegin { s with spWait := s.spWait.drop 1 } fn b
        match spCheck u op b with
        | some st => spEnd u fn st
        | none =>
          let v := { u with spSeq := u.spSeq + 1 }
          match rule v d with
          | some st => spEnd v fn st
          | none => go (start v d)))

/-- A condition that names a status. -/
def whenBad (p : Bool) (st : BitVec 8) (next_ : Option (BitVec 8)) : Option (BitVec 8) := if p then some st else next_

end Sys2Proof.Machine
end

