-- ==== Sys2Proof/Certificates/Slice0/Obligations.lean ====
section
/-!
DEFINITION. The statements for the provers, each a proposition about the model.
-/

open Sys2Proof Sys2Proof.Machine

/-! ### Integer instructions (spec/07_integer.md) -/

/-- R141: the arithmetic instructions compute exactly on the elements, then wrap or saturate. R142, R143: shifts and
rotates by element, bitwise logic, and the bit counts. -/
def Obligations.IntegerArithmeticAndLogic : Prop :=
  (ResultRRR .iadd 2 (arithOf fun x y _ => x + y) ∧ ResultRRR .isub 2 (arithOf fun x y _ => x - y)
    ∧ ResultRRR .imul 2 (arithOf fun x y _ => x * y) ∧ ResultRRR .imad 3 (arithOf fun x y z => x * y + z)
    ∧ ResultRRR .imulh 2 (fun f => arithOf (fun x y _ => x * y / 2 ^ widthOf f.es) f)
    ∧ ResultRRR .ineg 1 (arithOf fun x _ _ => -x) ∧ ResultRRR .iabs 1 (arithOf fun x _ _ => (x.natAbs : Int))
    ∧ ResultRRR .imin 2 (arithOf fun x y _ => min x y) ∧ ResultRRR .imax 2 (arithOf fun x y _ => max x y)
    ∧ ResultRRI .iaddImm (arithImmOf fun x y _ => x + y) ∧ ResultRRI .isubImm (arithImmOf fun x y _ => x - y)
    ∧ ResultRRI .imulImm (arithImmOf fun x y _ => x * y) ∧ ResultRRI .iminImm (arithImmOf fun x y _ => min x y)
    ∧ ResultRRI .imaxImm (arithImmOf fun x y _ => max x y))
  ∧ (ResultRRR .ishl 2 (fun f ws => shiftWord .shl (tySigned f.ty) (widthOf f.es) (ws.getD 0 0) (ws.getD 1 0))
    ∧ ResultRRR .ishr 2 (fun f ws => shiftWord .shr (tySigned f.ty) (widthOf f.es) (ws.getD 0 0) (ws.getD 1 0))
    ∧ ResultRRR .irot 2 (fun f ws => shiftWord .rot (tySigned f.ty) (widthOf f.es) (ws.getD 0 0) (ws.getD 1 0))
    ∧ ResultRRR .and 2 (fun _ ws => ws.getD 0 0 &&& ws.getD 1 0) ∧ ResultRRI .andImm (fun _ a b => a &&& b)
    ∧ ResultRRR .or 2 (fun _ ws => ws.getD 0 0 ||| ws.getD 1 0) ∧ ResultRRI .orImm (fun _ a b => a ||| b)
    ∧ ResultRRR .xor 2 (fun _ ws => ws.getD 0 0 ^^^ ws.getD 1 0) ∧ ResultRRI .xorImm (fun _ a b => a ^^^ b)
    ∧ ResultRRR .andn 2 (fun _ ws => ws.getD 0 0 &&& ~~~(ws.getD 1 0)) ∧ ResultRRI .andnImm (fun _ a b => a &&& ~~~b)
    ∧ ResultRRR .not 1 (fun _ ws => ~~~(ws.getD 0 0)) ∧ ResultRRR .brev 1 (countOf reverseBits)
    ∧ ResultRRR .popc 1 (countOf popCount) ∧ ResultRRR .clz 1 (countOf leadingZeros)
    ∧ ResultRRR .ctz 1 (countOf trailingZeros))

/-- R144 to R149: bit fields, comparison, selection, address arithmetic, moves and predicates. -/
def Obligations.IntegerFieldsAndPredicates : Prop :=
  ResultRRR .bfx 3 (fun f ws => pack (widthOf f.es)
      (bfxElem (tySigned f.ty) (widthOf f.es) (ws.getD 0 0) (ws.getD 1 0) (ws.getD 2 0)))
    ∧ ResultRRR .icmp 2 (fun f ws => icmpResult (tySigned f.ty) (widthOf f.es) f.tyb.toNat (f.dcls == 2)
        (ws.getD 0 0) (ws.getD 1 0))
    ∧ ResultRRI .icmpImm (fun f a b => icmpResult (tySigned f.ty) (rriWidth f) (rriSub f) (f.dcls == 2) a b)
    ∧ ResultRRR .isel 3 (fun f ws =>
        if f.ccls = 2 then (if ws.getD 2 0 = 0 then ws.getD 1 0 else ws.getD 0 0)
        else pack (widthOf f.es) (fun i => if field (ws.getD 2 0) (widthOf f.es) i = 0
          then field (ws.getD 1 0) (widthOf f.es) i else field (ws.getD 0 0) (widthOf f.es) i))
    ∧ ResultRRR .lea 2 (fun f ws => ws.getD 0 0
        + BitVec.ofInt 64 (elem (tySigned f.ty) (widthOf f.es) (ws.getD 1 0) 0 * 2 ^ f.tyb.toNat))
    ∧ ResultRRI .leaImm (fun f a b => a + BitVec.ofInt 64 (elem (tySigned f.ty) (rriWidth f) b 0 * 2 ^ rriSub f))
    ∧ ResultRRR .mov 1 (fun _ ws => ws.getD 0 0)
    ∧ ResultRRR .plop 3 (fun f ws =>
        if (f.tyb ++ f.mod).getLsbD (4 * (ws.getD 0 0).toNat + 2 * (ws.getD 1 0).toNat + (ws.getD 2 0).toNat) then 1 else 0)
    ∧ (∀ (k : Ctl) (f : RRR) (s : State) (x : View), s.view = some x →
        x.reach k ((dstOf f.dcls f.d).vregs ++ (rrrSrcs f 3).flatMap (·.vregs)) →
        exec (.bfi k f) s = .next (written s x k (dstOf f.dcls f.d)
          (x.value (widthOf f.es) (rrrSrcs f 3 ++ [(dstOf f.dcls f.d).asOpd]) (fun ws => pack (widthOf f.es)
            (bfiElem (widthOf f.es) (ws.getD 3 0) (ws.getD 0 0) (ws.getD 1 0) (ws.getD 2 0))))))
    ∧ (∀ (k : Ctl) (f : RRR) (s : State) (x : View), s.view = some x → f.tyb = 0 →
        x.reach k ((dstOf f.dcls f.d).vregs ++ (rrrSrcs f 2).flatMap (·.vregs)) →
        exec (.pset k f) s = .next (written s x k (dstOf f.dcls f.d) (x.value (widthOf f.es) (rrrSrcs f 2)
          (fun ws => if (ws.getD 0 0).getLsbD ((ws.getD 1 0).toNat % 64) then 1 else 0))))
    ∧ (∀ (k : Ctl) (f : RRR) (s : State) (x : View), s.view = some x → f.tyb ≠ 0 →
        x.reach k ((dstOf f.dcls f.d).vregs ++ (rrrSrcs f 1).flatMap (·.vregs)) →
        exec (.pset k f) s = .next (written s x k (dstOf f.dcls f.d) (fun n => x.value (widthOf f.es) (rrrSrcs f 1)
          (fun ws => if (ws.getD 0 0).getLsbD n then 1 else 0) n)))
    ∧ (∀ (k : Ctl) (f : RRI) (s : State) (x : View), s.view = some x → f.mod ≠ 1 →
        x.reach k (dstOf f.dcls f.d).vregs →
        exec (.movi k f) s = .next (written s x k (dstOf f.dcls f.d)
          (fun _ => ⟨if f.ty = 1 then f.imm.setWidth 64 else f.imm.signExtend 64, false⟩)))
    ∧ (∀ (k : Ctl) (f : RRI) (s : State) (x : View), s.view = some x → f.mod = 1 →
        x.reach k (dstOf f.dcls f.d).vregs →
        exec (.movi k f) s = .next (written s x k (dstOf f.dcls f.d) (x.value 64 [(dstOf f.dcls f.d).asOpd]
          (fun ws => (f.imm.setWidth 64 <<< 32) ||| (ws.getD 0 0 &&& 0xFFFFFFFF#64)))))

/-- R7, R35: the elements of a packed word do not interact, and the bits above the last element are zero. -/
def Obligations.PackedElements : Prop :=
  ∀ (w : Nat) (g : Nat → Nat), 0 < w → w ≤ 64 →
    (∀ i, i < 64 / w → field (pack w g) w i = g i % 2 ^ w) ∧ (pack w g).toNat < 2 ^ (64 / w * w)

/-- R150 to R156: every cross-lane result is gathered from the lanes of Active at issue, a part from an invalid source lane is
zero and marked in XP, and it comes with the completion of a long-latency operation. That XP takes no poison but its guard's
is read by inference (log entry 17). -/
def Obligations.CrossLaneGathers : Prop :=
  ResultGather .shfl (fun f x ok lane =>
      let b := x.opd (widthOf f.es) lane (opdOf f.bcls f.b)
      let n := 64 / widthOf f.es
      (List.range n).foldl (fun acc i =>
        let t := shflSource f.tyb.toNat (lane * n + i) (field b.val (widthOf f.es) i)
        gatherPart x f.a.toNat ok acc (i * widthOf f.es)
          (if 0 ≤ t ∧ t < 32 * n then some (t.toNat / n, fun v => field v (widthOf f.es) (t.toNat % n)) else none))
        ⟨0, b.poison, false⟩)
    ∧ ResultGather .perm (fun f x ok lane =>
      let b := x.opd 64 lane (opdOf f.bcls f.b)
      (List.range 8).foldl (fun acc i =>
        if (field b.val 8 i).testBit 7 then acc
        else gatherPart x f.a.toNat ok acc (8 * i)
          (some (lane / 4 * 4 + field b.val 8 i % 32 / 8, fun v => field v 8 (field b.val 8 i % 32 % 8))))
        ⟨0, b.poison, false⟩)
    ∧ ResultGather .pack (fun f x ok lane =>
      let b := x.opd 64 lane (opdOf f.bcls f.b)
      (List.range (64 / widthOf f.es)).foldl (fun acc i =>
        gatherPart x f.a.toNat ok acc (i * widthOf f.es) (some (b.val.toNat + i, fun v =>
          let n : Int := if tySigned f.ty then v.toInt else v.toNat
          codeOf (widthOf f.es) (if f.sat = 1 then clampInt (tySigned f.ty) (widthOf f.es) n else n))))
        ⟨0, b.poison, false⟩)
    ∧ ResultGather .unpack (fun f x ok lane =>
      let b := x.opd 64 lane (opdOf f.bcls f.b)
      let n := 64 / widthOf f.es
      gatherPart x f.a.toNat ok ⟨0, b.poison, false⟩ 0
        (some (b.val.toNat / n, fun v => codeOf 64 (elem (tySigned f.ty) (widthOf f.es) v (b.val.toNat % n)))))
    ∧ (∀ (k : Ctl) (f : RRR) (s : State) (x : View), s.view = some x → x.has [1] →
        x.reach k ((dstOf f.dcls f.d).vregs ++ [f.a.toNat]) →
        exec (.qxch k f) s = .next (started s x k (gathered x k f (fun n =>
          gatherPart x f.a.toNat (x.active k) ⟨0, false, false⟩ 0
            (some (n / 4 * 4 + f.b.toNat / 4 ^ (n % 4) % 4, fun v => v.toNat)))) []))
    ∧ (∀ (k : Ctl) (f : RRR) (s : State) (x : View), s.view = some x → x.has [1] →
        exec (.vote k f) s = .next (started s x k (x.result k (x.active k) (dstOf f.dcls f.d) (fun _ =>
          ⟨if f.tyb.toNat = 0 then (if (laneList (x.active k)).any (fun n => (x.crs.lane n).pred f.a.toNat) then 1 else 0)
            else if f.tyb.toNat = 1 then
              (if (laneList (x.active k)).all (fun n => (x.crs.lane n).pred f.a.toNat) then 1 else 0)
            else (maskOf (fun n => inMask (x.active k) n && (x.crs.lane n).pred f.a.toNat)).setWidth 64,
          (laneList (x.active k)).any (fun n => (x.crs.lane n).predP f.a.toNat || (x.crs.lane n).guardP k)⟩)) []))

/-- R157, R158: MOVS reads a special register with its poison, PCHK reads the poison bit and PCLR clears it. MOVSS
writes %SEED or %BYPLIM, or in handler mode %TRAPPC or %TRAPCAUSE. -/
def Obligations.SpecialRegisterMoves : Prop :=
  (∀ (k : Ctl) (f : SYS) (s : State) (x : View), s.view = some x → x.reach k (dstOf f.dcls f.d).vregs →
    exec (.movs k f) s = .next (written s x k (dstOf f.dcls f.d) (fun n => readSpr s x n f.spr.toNat)))
  ∧ (∀ (k : Ctl) (f : RRR) (s : State) (x : View), s.view = some x → x.reach k (opdOf f.acls f.a).vregs →
    exec (.pchk k f) s = .next (written s x k (dstOf f.dcls f.d)
      (fun n => ⟨if (x.opd 64 n (opdOf f.acls f.a)).poison then 1 else 0, false⟩)))
  ∧ (∀ (k : Ctl) (f : RRR) (s : State) (x : View), s.view = some x →
    x.reach k ((dstOf f.dcls f.d).vregs ++ (opdOf f.acls f.a).vregs) →
    exec (.pclr k f) s = .next (written s x k (dstOf f.dcls f.d) (fun n => ⟨(x.opd 64 n (opdOf f.acls f.a)).val, false⟩)))
  ∧ (∀ (k : Ctl) (f : SYS) (s : State) (x : View), s.view = some x → x.reach k (opdOf f.acls f.a).vregs →
    ((f.spr.toNat = 0x0C ∨ f.spr.toNat = 0x0D) → ∀ n, inMask (x.active k) n = true → (x.crs.lane n).inHandler = true) →
    let v (n : Nat) : PWord :=
      let p := x.opd 64 n (opdOf f.acls f.a)
      ⟨p.val, p.poison || (x.crs.lane n).guardP k⟩
    exec (.movss k f) s = .next (afterIssue x (
      if f.spr.toNat = 0x0A then
        match lowLane (x.active k) with
        | some n => s.updCourse x.sel.grp x.sel.course (fun c =>
            { c with bypLim := bypLimStore (v n).val, bypLimP := (v n).poison })
        | none => s
      else s.updCourse x.sel.grp x.sel.course (fun c =>
        c.mapLanes (fun n l => if inMask (x.active k) n then writeLaneSpr l f.spr.toNat (v n) else l)))))

/-! ### What a written result reads as -/

/-- R96, R97, R126, R136, R137: after an issue whose results are written, a lane of Active reads its destination as the
value, poisoned where the value or the guard was; every other V register of every lane of the group, and every other
predicate, reads as before; and every lane of the issue group is at the sequential successor. The frame: nothing of a
lane changes but its V registers, its predicates and its PC, nothing of its course but its S registers and, where it writes
an S register, the results of earlier issues for that register that are still in flight, which land before it (R136); no other
course, group or launch changes, and nothing of a core but the handler reserve of the issuing one; every memory, every other special
register, and the rest of the machine is as before. -/
def Obligations.WrittenRegistersRead : Prop :=
  (∀ (s : State) (x : View) (k : Ctl) (d : Dst) (val : Nat → PWord), s.view = some x →
    x.sel.course < x.grp.courses.length →
    let t := written s x k d val
    let v (n : Nat) : PWord := ⟨(val n).val, (val n).poison || (x.crs.lane n).guardP k⟩
    (∀ n, n < 32 →
      (∀ i, i < 256 → t.vregAt x n i = if d = .v i ∧ inMask (x.active k) n = true then v n else s.vregAt x n i)
      ∧ (∀ i, i < 15 → (t.lane x.sel.grp x.sel.course n).pred i
          = if d = .p i ∧ inMask (x.active k) n = true then (v n).val != 0 else (s.lane x.sel.grp x.sel.course n).pred i)
      ∧ (∀ i, i < 15 → (t.lane x.sel.grp x.sel.course n).predP i
          = if d = .p i ∧ inMask (x.active k) n = true then (v n).poison else (s.lane x.sel.grp x.sel.course n).predP i)
      ∧ (t.lane x.sel.grp x.sel.course n).pred 15 = true
      ∧ (t.lane x.sel.grp x.sel.course n).pc
          = if inMask x.sel.mask n then pcNext x.sel.pc else (s.lane x.sel.grp x.sel.course n).pc)
    ∧ (∀ i, i < 64 → (t.courseAt x.sel.grp x.sel.course).getS i
        = if d = .s i then (match lowLane (x.active k) with
            | some n => v n
            | none => (s.courseAt x.sel.grp x.sel.course).getS i)
          else (s.courseAt x.sel.grp x.sel.course).getS i))
  ∧ (∀ (s : State) (x : View) (k : Ctl) (d : Dst) (val : Nat → PWord), s.view = some x →
    let t := written s x k d val
    (∀ g, (t.group g).map (fun y => { y with courses := [] }) = (s.group g).map (fun y => { y with courses := [] }))
    ∧ (∀ g c, (g, c) ≠ (x.sel.grp, x.sel.course) → t.courseAt g c = s.courseAt g c)
    ∧ (∀ c, c ≠ x.sel.core → t.core c = s.core c)
    ∧ { t.core x.sel.core with reserve := x.core.reserve, reserveP := x.core.reserveP } = x.core
    ∧ (∀ n, { t.lane x.sel.grp x.sel.course n with
          v := (s.lane x.sel.grp x.sel.course n).v, vP := (s.lane x.sel.grp x.sel.course n).vP,
          p := (s.lane x.sel.grp x.sel.course n).p, pP := (s.lane x.sel.grp x.sel.course n).pP,
          pc := (s.lane x.sel.grp x.sel.course n).pc } = s.lane x.sel.grp x.sel.course n)
    ∧ { t.courseAt x.sel.grp x.sel.course with
          lanes := (s.courseAt x.sel.grp x.sel.course).lanes, s := (s.courseAt x.sel.grp x.sel.course).s,
          sP := (s.courseAt x.sel.grp x.sel.course).sP, inflight := (s.courseAt x.sel.grp x.sel.course).inflight,
          txends := (s.courseAt x.sel.grp x.sel.course).txends } = s.courseAt x.sel.grp x.sel.course
    ∧ ((∃ i, i < 64 ∧ d = .s i) ∧ x.active k ≠ 0 ∨
        ((t.courseAt x.sel.grp x.sel.course).inflight = (s.courseAt x.sel.grp x.sel.course).inflight
          ∧ (t.courseAt x.sel.grp x.sel.course).txends = (s.courseAt x.sel.grp x.sel.course).txends))
    ∧ (∀ i, i < 64 → d = .s i → x.active k ≠ 0 → x.sel.course < x.grp.courses.length →
        (t.courseAt x.sel.grp x.sel.course).inflight
            = (s.courseAt x.sel.grp x.sel.course).inflight.map (fun o =>
                { o with writes := o.writes.filter (fun w => !w.isS i) })
          ∧ (t.courseAt x.sel.grp x.sel.course).txends
            = (s.courseAt x.sel.grp x.sel.course).txends.map (fun e =>
                { e with dst := if e.dst = some (1, BitVec.ofNat 8 i) then none else e.dst }))
    ∧ (∀ a y, (t.mem a).byte y = (s.mem a).byte y)
    ∧ t.sel = none ∧ { t with sel := s.sel, cores := s.cores, groups := s.groups } = s)

/-- What the end of every issue, and the effects of the instructions that write no register at once, leave unchanged. The end
of an issue changes the PCs of its lanes and the choice of a slot, and nothing else. Issuing a long-latency operation, binding or
dropping a window, and starting a fill, a flush or a matrix entry, by a course with no store in its FIFO, change windows, flags,
counters and queues alone (a fill or a flush under the mixed-size debug bit makes its accesses at its start: log entry 113); a barrier's arrival, test and wait change barriers and waits alone; a branch changes its lane's PC, a
call or a return its depth and entries, of no other lane, and beside them only the course's count of backward transfers, what
lanes wait for, and the choice of a slot. Every register and every byte of memory is as before. -/
def Obligations.IssueFrames : Prop :=
  (∀ (x : View) (s : State),
    let t := afterIssue x s
    OnlyControl s t ∧ t.sel = none
      ∧ (∀ g c n, (t.lane g c n).depth = (s.lane g c n).depth ∧ (t.lane g c n).hold = (s.lane g c n).hold)
      ∧ (∀ g c n, ¬(g = x.sel.grp ∧ c = x.sel.course ∧ inMask x.sel.mask n = true) →
          (t.lane g c n).pc = (s.lane g c n).pc))
  ∧ (∀ (s : State) (g c : Nat) (op : LongOp), OnlyEngines s (startLong s g c op))
  ∧ (∀ (s : State) (x : View) (f : ASY) (i : Nat), OnlyEngines s (bindWindow s x f) ∧ OnlyEngines s (dropWindow s x i))
  ∧ (∀ (s : State) (x : View), (s.courseAt x.sel.grp x.sel.course).fifo = [] →
    (groupMixDebug s x.grp = false → (∀ g, s.group x.sel.grp = some g → groupMixDebug s g = false) →
      ∀ i lane, OnlyEngines s (startFill s x.sel.grp i (x.sel.grp, x.sel.course) lane)
        ∧ OnlyEngines s (startFlush s x i lane))
    ∧ (∀ k op f ok, OnlyEngines s (matJoin s x k op f ok))
    ∧ (∀ i, arriveAt s x i = s.updBarrier x.sel.grp i (fun b => b.arrive x.sel.course)))
  ∧ (∀ (s : State) (x : View) (g i : Nat) (f : Barrier → Barrier) (phase : Bool) (m : LaneMask) (token : Nat → Bool),
    OnlyHolds s (s.updBarrier g i f) ∧ OnlyHolds s (testDue s g i) ∧ OnlyHolds s (barrierTest s g i)
      ∧ OnlyHolds s (waitLanes s x i phase m token))
  ∧ (∀ (s : State) (x : View) (n d token : Nat) (a : Word), n < 32 →
    (∀ t ∈ [goesTo s x n token a, pushed s x n d a, popped s x n], OnlyControl s t
      ∧ ∀ g c m, (g, c, m) ≠ (x.sel.grp, x.sel.course, n) →
        (t.lane g c m).pc = (s.lane g c m).pc ∧ (t.lane g c m).depth = (s.lane g c m).depth
          ∧ (t.lane g c m).entries = (s.lane g c m).entries))

/-! ### Float instructions (spec/08_float.md) -/

/-- R167 to R172: each result element is one rounding of the exact result, through the slot that the instruction names. R171:
division, reciprocal and the transcendental functions are long-latency, each with one correct rounding. A transcendental
function whose rounding the model's bounds do not settle has a free code: log entry 7, the model's choice. -/
def Obligations.FloatArithmeticAndFunctions : Prop :=
  (ResultFloat .fadd 2 false 2 (fun _ im m cs =>
      m.enc im (exactOf ((srcVal im cs 0).add (m.mode == .rdn) (srcVal im cs 1))))
    ∧ ResultFloat .fsub 2 false 2 (fun _ im m cs =>
      m.enc im (exactOf ((srcVal im cs 0).add (m.mode == .rdn) (srcVal im cs 1).neg)))
    ∧ ResultFloat .fmul 2 false 2 (fun _ im m cs => m.enc im (exactOf ((srcVal im cs 0).mul (srcVal im cs 1))))
    ∧ ResultFloat .fma 2 false 3 (fun _ im m cs =>
      m.enc im (exactOf (((srcVal im cs 0).mul (srcVal im cs 1)).add (m.mode == .rdn) (srcVal im cs 2))))
    ∧ ResultFloat .fmin 2 false 2 (fun f im _ cs => minMaxCode im false (f.mod == 1) (cs.getD 0 0) (cs.getD 1 0))
    ∧ ResultFloat .fmax 2 false 2 (fun f im _ cs => minMaxCode im true (f.mod == 1) (cs.getD 0 0) (cs.getD 1 0))
    ∧ ResultFloat .frnd 2 false 1 (fun _ im m cs => roundIntegral im m (cs.getD 0 0))
    ∧ ResultFloat .fscale 2 false 2 (fun _ im m cs =>
      m.enc im (exactOf ((srcVal im cs 0).scale (intOfBits true (descWidth im.desc) (cs.getD 1 0))))))
  ∧ (ResultFloat .fdiv 3 true 2 (fun _ im m cs => m.enc im (divExact (srcVal im cs 0) (srcVal im cs 1)))
    ∧ ResultFloat .frcp 3 true 1 (fun _ im m cs => m.enc im (rcpExact (srcVal im cs 0)))
    ∧ ResultFloat .frsq 3 true 1 (fun _ im m cs => transRound im .rsqrt (srcVal im cs 0) m.mode m.sat m.bits)
    ∧ ResultFloat .fsqrt 3 true 1 (fun _ im m cs => transRound im .sqrt (srcVal im cs 0) m.mode m.sat m.bits)
    ∧ ResultFloat .fexp2 3 true 1 (fun _ im m cs => transRound im .exp2 (srcVal im cs 0) m.mode m.sat m.bits)
    ∧ ResultFloat .flog2 3 true 1 (fun _ im m cs => transRound im .log2 (srcVal im cs 0) m.mode m.sat m.bits)
    ∧ ResultFloat .fsin 3 true 1 (fun _ im m cs => transRound im .sin (srcVal im cs 0) m.mode m.sat m.bits)
    ∧ ResultFloat .fcos 3 true 1 (fun _ im m cs => transRound im .cos (srcVal im cs 0) m.mode m.sat m.bits)
    ∧ ResultFloat .ftanh 3 true 1 (fun _ im m cs => transRound im .tanh (srcVal im cs 0) m.mode m.sat m.bits))

/-- R173 to R180: comparison and class tests, conversions between formats and integers, block scaling, and FMTQ. -/
def Obligations.FloatTestsAndConversions : Prop :=
  ResultTest .fcmp (fun f im ws i => fcmpHolds f.tyb.toNat (valOf im (field (ws.getD 0 0) (descWidth im.desc) i))
      (valOf im (field (ws.getD 1 0) (descWidth im.desc) i)))
    ∧ ResultTest .fclass (fun f im ws i => Nat.land (classBits im (field (ws.getD 0 0) (descWidth im.desc) i))
      (if f.bcls = 3 then f.b.toNat else (ws.getD 1 0).toNat % 256) != 0)
    ∧ ResultConvert .cvt (fun _ => []) (fun f => [f.ty.toNat, f.tyb.toNat]) (fun f x => x.slotWidth f.tyb.toNat)
      (fun f x => x.slotWidth f.ty.toNat) (fun f x n i ws j =>
        (x.rounding f n i).enc (x.image f.ty.toNat)
          (exactOf (valOf (x.image f.tyb.toNat) (field (ws.getD 0 0) (x.slotWidth f.tyb.toNat) j))))
    ∧ ResultConvert .cvti (fun _ => []) (fun f => [f.ty.toNat]) (fun f _ => intTypeWidth f.tyb)
      (fun f x => x.slotWidth f.ty.toNat) (fun f x n i ws j =>
        (x.rounding f n i).enc (x.image f.ty.toNat)
          (exactOf (valOfInt (elem (intTypeSigned f.tyb) (intTypeWidth f.tyb) (ws.getD 0 0) j))))
    ∧ ResultConvert .cvtf (fun _ => []) (fun f => [f.tyb.toNat]) (fun f x => x.slotWidth f.tyb.toNat)
      (fun f _ => intTypeWidth f.ty) (fun f x n i ws j =>
        roundToInt (intTypeSigned f.ty) (intTypeWidth f.ty)
          (exactOf (valOf (x.image f.tyb.toNat) (field (ws.getD 0 0) (x.slotWidth f.tyb.toNat) j)))
          (x.rounding f n i).mode (x.rounding f n i).sat (x.rounding f n i).bits)
    ∧ (∀ (k : Ctl) (f : RRR) (s : State) (x : View), s.view = some x → x.has [4] →
        x.reach k (dstOf f.dcls f.d).vregs →
        exec (.fmtq k f) s = .next (started s x k (x.result k (x.active k) (dstOf f.dcls f.d)
          (fun _ => ⟨slotWordOf (x.core.slot f.tyb.toNat), false⟩)) []))
    ∧ (∀ (k : Ctl) (f : RRR) (s : State) (x : View), s.view = some x → x.has [4] →
        x.reach k ((dstOf f.dcls f.d).vregs ++ [opdOf f.acls f.a, opdOf f.bcls f.b].flatMap (·.vregs)) →
        (∀ i ∈ [f.ty.toNat, f.tyb.toNat], (x.core.slotImage i).isSome = true) → x.slotWidth f.tyb.toNat ≤ 8 →
        partOk (64 / x.slotWidth f.tyb.toNat) (64 / x.slotWidth f.ty.toNat) f.mod.toNat = true →
        exec (.bscale k f) s = .next (rounded s x k f false [f.ty.toNat, f.tyb.toNat]
          (x.result k (x.active k) (dstOf f.dcls f.d) (fun n =>
            let ps : List PWord := [opdOf f.acls f.a, opdOf f.bcls f.b].map (x.opd (x.slotWidth f.tyb.toNat) n)
            let old := x.opd 64 n (dstOf f.dcls f.d).asOpd
            let sc := if f.bcls = 3 then f.b.toNat else ((ps.map PWord.val).getD 1 0).toNat % 256
            stochPoison x f n ⟨convertWord (x.slotWidth f.ty.toNat) (64 / x.slotWidth f.tyb.toNat)
                (64 / x.slotWidth f.ty.toNat) f.mod.toNat old.val (fun i j =>
                  (x.rounding f n i).enc (x.image f.ty.toNat) (exactOf ((valOf (x.image f.tyb.toNat)
                    (field ((ps.map PWord.val).getD 0 0) (x.slotWidth f.tyb.toNat) j)).mul (scaleVal f.c.toNat sc)))),
              ps.any (·.poison)
                || (decide (64 / x.slotWidth f.tyb.toNat < 64 / x.slotWidth f.ty.toNat) && old.poison)⟩))))

/-! ### Memory (spec/09_memory_model.md, spec/10_memory_instructions.md) -/

/-- R216, R225: a load of one lane, in every form, is performed at its places and delivers its registers with a long-latency
operation; an acquire clears the L1. Each register takes its 64 bits of the value and the poison of its own bits. R195: a load
that is neither acquire nor strong at a wider order than .RLX may be performed as late as its results are written, where it
reads what its places hold then (log entry 11). R187, R197: a load that may not use the L1 (a strong one, or one of a packed
element that crosses sectors) reads each sector at its home, under the lane's own stores that are still in the FIFO and under
the stores its group holds. That a packed load whose elements cross sectors reads every home is the model's choice (log entry
10), and so is which of the two values a late load delivers (log entry 11). -/
def Obligations.Loads : Prop :=
  (∀ (k : Ctl) (f : MEM) (s t u : State) (x : View) (n : Nat) (ps : List Piece) (r : Nat × List (Nat × Nat × Bool)),
    s.view = some x → x.only k n → x.has [0] →
    x.reach k ((List.range (widthRegs f.width.toNat)).map (f.d.toNat + ·) ++ (baseOpd f).vregs
      ++ (if f.ixen = 1 then [f.index.toNat] else [])) →
    AccessOk s x (x.memAccess f n) (x.addrPoison f true n) → laneActive s x n = false → laneActive t x n = false →
    resolve s x.grp x.sel.core x.sel.course n (x.memAccess f n) .read 0 = (.ok ps, t) → NoWindow t x ps →
    NoWindow s x ps →
    loadPieces t x n ((f.order == 0 || decide (f.scope.toNat < 2)) && !crosses f ps) ps = (r, u) →
    let v := markSectors u (u.groupPart x.grp) (x.sel.grp, x.sel.course, n) ps
    laneActive v x n = false →
    let v := if f.order = 2 then acquireAt v x.sel.core f.scope.toNat else v
    exec (.ld k f) s = .next (afterIssue x (startLong v x.sel.grp x.sel.course
      ⟨setfFlag k.setf, x.active k, ldWrites v x k n f ps r, []⟩)))
  ∧ (∀ (s : State) (x : View) (k : Ctl) (n : Nat) (f : MEM) (ps : List Piece) (r : Nat × List (Nat × Nat × Bool)),
    ∀ i < widthRegs f.width.toNat,
      let w : PWord := ⟨BitVec.ofNat 64 (r.1 / 2 ^ (64 * i)), regPoison r.2 i || (x.crs.lane n).guardP k⟩
      ∃ y, (ldWrites s x k n f ps r)[i]? = some y
        ∧ y.perform s x.sel.grp x.sel.course false = (x.putV n (f.d.toNat + i) w).over (if lateLoad s x n f ps then [] else ps)
        ∧ (lateLoad s x n f ps = true → y.perform s x.sel.grp x.sel.course true
            = x.putV n (f.d.toNat + i) (lateWord s x.sel.grp x.sel.course n i ps ((x.crs.lane n).guardP k))))
  ∧ (∀ (s : State) (x : View) (n : Nat) (ps : List Piece),
    let g := (s.group x.sel.grp).getD x.grp
    let view (p : Piece) : SecView := fifoOver (g.course x.sel.course) n p.tgt p.sector
      (if g.holds then heldOver g p.tgt p.sector (homeSector s p.tgt p.sector) else homeSector s p.tgt p.sector)
    (loadPieces s x n false ps).1
      = ((ps.map (fun p => p.read (view p).data)).sum, ps.map (fun p => (p.off, p.nbits, (view p).poison))))

/-- R198, R226: a store of one lane, in every form and to every target, enters its course's FIFO with a masked write for
each sector it touches. It writes no memory when it issues. A store in an ACTIVE transaction goes to the lane's write log
instead (R297). R201: a release at SYSTEM scope waits at the instruction while a link port holds a write. R198, R210: the
oldest store of a course leaves the FIFO, on behalf of its group's owner; each of its sector writes is performed at its
home, or held where the group holds its stores; with an empty FIFO nothing happens. R462: a write to a port in TRAINING
waits in the port, and its memory is as before. -/
def Obligations.Stores : Prop :=
  (∀ (k : Ctl) (f : MEM) (s t : State) (x : View) (n : Nat) (ps : List Piece), s.view = some x → x.only k n → x.has [0] →
    x.reach k ((List.range (widthRegs f.width.toNat)).map (f.d.toNat + ·) ++ (baseOpd f).vregs
      ++ (if f.ixen = 1 then [f.index.toNat] else [])) →
    AccessOk s x (x.memAccess f n) (x.addrPoison f true n) →
    (x.grp.mode = .revocable → outsideOwn x (x.memAccess f n) = false) → systemWait s x k f [0] = none →
    laneActive s x n = false → laneActive t x n = false →
    resolve s x.grp x.sel.core x.sel.course n (x.memAccess f n) .write 0 = (.ok ps, t) → NoWindow t x ps →
    let ws := ps.map (fun p => p.write (storeData x k f n).1 (piecePoison (storeData x k f n).2 p))
    (∀ w ∈ ws, (w.tgt = .host ∨ ∃ p, w.tgt = .peer p) → w.poison = false) →
    let v := markSectors t (t.groupPart x.grp) (x.sel.grp, x.sel.course, n) ps
    exec (.st k f) s = .next (afterIssue x (pushStore v x.sel.grp x.sel.course n ws))
      ∧ ∀ m, (afterIssue x (pushStore v x.sel.grp x.sel.course n ws)).mem m = t.mem m)
  ∧ (∀ (k : Ctl) (f : MEM) (s t : State) (x : View) (n : Nat) (ps : List Piece) (u : Tx), s.view = some x → x.only k n →
    x.has [0] →
    x.reach k ((List.range (widthRegs f.width.toNat)).map (f.d.toNat + ·) ++ (baseOpd f).vregs
      ++ (if f.ixen = 1 then [f.index.toNat] else [])) →
    AccessOk s x (x.memAccess f n) (x.addrPoison f true n) → x.grp.mode = .ordinary → (x.memAccess f n).global = true →
    laneActive s x n = true → laneActive t x n = true →
    resolve s x.grp x.sel.core x.sel.course n (x.memAccess f n) .write 3 = (.ok ps, t) → NoWindow t x ps →
    let ws := ps.map (fun p => p.write (storeData x k f n).1 (piecePoison (storeData x k f n).2 p))
    txAccess t x n ps false true (ws.any (·.poison)) = .ok u →
    exec (.st k f) s = .next (afterIssue x (setTx t x n (ws.foldl Tx.logWrite u))))
  ∧ (∀ (k : Ctl) (f : MEM) (s : State) (x : View), s.view = some x → x.has [0] → f.order = 3 ∨ f.order = 4 → f.scope = 4 →
    (∃ n, inMask (x.active k) n = true ∧ laneActive s x n = false) →
    let t := drainCourse s x.sel.grp x.sel.course
    portsBusy t = true → exec (.st k f) s = .next t.deselect)
  ∧ (∀ (s : State) (g c : Nat) (grp : Group), s.group g = some grp → c < grp.courses.length →
    ((grp.course c).fifo = [] → exec (.storeAcceptedAtHome g c) s = .next s)
    ∧ (∀ e rest, (grp.course c).fifo = e :: rest → exec (.storeAcceptedAtHome g c) s = .next
      ((s.updCourse g c (fun y => { y with fifo := rest })).paid (groupOwner s g) (fun u => e.writes.foldl (fun t w =>
        match w.tgt with
        | .scratch _ => t.applyWrite w
        | _ => if grp.holds then holdEntry t g ⟨c, e.lane, w, none, e.item⟩ else homeWrite t (grp.core.getD 0) w) u))))
  ∧ (∀ (s : State) (w : SecWrite), linkTrains s w.tgt = true → linkCarries s w.tgt = true →
    (∀ p, w.tgt = .peer p → p < 12) →
    let k := match w.tgt with
      | .peer p => p
      | _ => hostPort s
    ((s.applyWrite w).port k).waiting = (s.port k).waiting ++ [⟨0, 0, 1, poisonBits [w], [w], true⟩]
      ∧ (s.applyWrite w).host = s.host ∧ (s.applyWrite w).peers = s.peers)

/-- R191: a masked write of a sector changes exactly the masked bits of its 32 bytes, and no other byte. R191, R373:
what a masked write does to the poison of sectors: poisoned data poisons its sector, a clean write of the whole sector
clears it, a clean write of part of it keeps it, and no other sector changes. -/
def Obligations.SectorWrites : Prop :=
  (∀ (m : Memory) (w : SecWrite) (a : Nat), m.wf = true →
    (m.apply w).byte a = if a / 32 = w.sector then
      (m.byte a &&& ~~~(w.mask.extractLsb' (8 * (a % 32)) 8))
        ||| (w.data.extractLsb' (8 * (a % 32)) 8 &&& w.mask.extractLsb' (8 * (a % 32)) 8)
    else m.byte a)
  ∧ (∀ (m : Memory) (w : SecWrite) (k : Nat), m.wf = true →
    (m.apply w).isPoisoned k = if k = w.sector then
      (if w.poison then true else if w.mask = BitVec.allOnes 256 then false else m.isPoisoned k)
    else m.isPoisoned k)

/-- What memory instructions leave unchanged. A write at its home changes no byte outside its sector. The places of an access
are found, and a load reads them, with every memory and every group as before. An atomic changes no byte but those of its
operand and no group. A matrix entry's result changes no byte of memory, but a ZST's the bytes it stores to, which lie
at its scratchpad address. -/
def Obligations.MemoryFrames : Prop :=
  (∀ (s : State) (w : SecWrite) (t : Tgt) (a : Nat), s.MemoryOk → ¬(t = w.tgt ∧ a / 32 = w.sector) →
    ((s.applyWrite w).mem t).byte a = (s.mem t).byte a)
  ∧ (∀ (s : State) (g : Group) (core c n : Nat) (a : Access) (need : Need) (source : Nat),
    let t := (resolve s g core c n a need source).2
    t.groups = s.groups ∧ t.cores = s.cores ∧ (∀ m, t.mem m = s.mem m))
  ∧ (∀ (s : State) (x : View) (n : Nat) (weak : Bool) (ps : List Piece),
    let t := (loadPieces s x n weak ps).2
    t.groups = s.groups ∧ t.agenda = s.agenda ∧ (∀ m, t.mem m = s.mem m))
  ∧ (∀ (s : State) (core : Nat) (op : AtomOp) (ty : Nat) (p : Piece) (v w : Nat) (vp wp returns : Bool), s.MemoryOk →
    (p.tgt = .hbm ∨ ∃ k, p.tgt = .scratch k) →
    let t := (atomAt s core op ty p v w vp wp returns).2
    t.groups = s.groups
      ∧ (∀ m y, (m ≠ p.tgt ∨ 8 * y + 8 ≤ 256 * p.sector + p.lo ∨ 256 * p.sector + p.lo + p.nbits ≤ 8 * y) →
          (t.mem m).byte y = (s.mem m).byte y))
  ∧ (∀ (s : State) (core : Nat) (e : MatEntry), s.MemoryOk →
    let t := matResult s core e
    (e.op ≠ .zst → ∀ m y, (t.mem m).byte y = (s.mem m).byte y)
      ∧ (∀ im, e.op = .zst → e.imageA = some im → ∀ m y,
        (m ≠ .scratch core ∨ y < matAddr s e ∨ matAddr s e + 64 * zstRow im.desc ≤ y) →
          (t.mem m).byte y = (s.mem m).byte y))

/-- R227 to R231: every atomic, compare-and-swap and reduction of one lane is performed at its home. -/
def Obligations.AtomicsComplete : Prop :=
  AtomCompletes .atomAdd .add true ∧ AtomCompletes .atomMin .min true ∧ AtomCompletes .atomMax .max true
    ∧ AtomCompletes .atomAnd .and true ∧ AtomCompletes .atomOr .or true ∧ AtomCompletes .atomXor .xor true
    ∧ AtomCompletes .atomXchg .xchg true ∧ AtomCompletes .cas .cas true
    ∧ AtomCompletes .redAdd .add false ∧ AtomCompletes .redMin .min false ∧ AtomCompletes .redMax .max false
    ∧ AtomCompletes .redAnd .and false ∧ AtomCompletes .redOr .or false ∧ AtomCompletes .redXor .xor false

/-- R112, R232 to R235: FENCE takes effect for the lanes of Active that are in no ACTIVE transaction (R298): a release drains the
course's FIFO, at every scope (log entry 131); an acquire at CLUSTER scope or wider clears the core's L1. A release at SYSTEM scope,
while a link port holds a write, holds the later memory accesses of those lanes and nothing else (R201). PREF and CCTL act on the
core's L1 and the L2 lane by lane; PROBE delivers its word, its walk passing through the slices; MAPC its address, core or
size. -/
def Obligations.FenceCacheAndProbe : Prop :=
  (∀ (k : Ctl) (f : MEM) (s : State) (x : View), s.view = some x → x.has [0] →
    let ns := (laneList (x.active k)).filter (fun n => (x.crs.lane n).tx.state != .active)
    let release : Bool := f.order == 3 || f.order == 4
    let t := if release then drainCourse s x.sel.grp x.sel.course else s
    let t := if f.order ≠ 3 ∧ 2 ≤ f.scope.toNat then clearL1 t x.sel.core else t
    (ns = [] → exec (.fence k f) s = .next (afterIssue x s))
    ∧ (ns ≠ [] → (release = false ∨ f.scope ≠ 4 ∨ portsBusy t = false) → exec (.fence k f) s = .next (afterIssue x t))
    ∧ (ns ≠ [] → release = true → f.scope = 4 → portsBusy t = true → exec (.fence k f) s = .next (afterIssue x
      { t with fenced := t.fenced ++ ns.map (fun n => ⟨x.sel.grp, x.sel.course, n, f.order == 4⟩) })))
  ∧ (∀ (s : State) (x : View) (m : LaneMask), (fenceWaits s x m = true ↔ portsBusy s = true ∧ ∃ n, inMask m n = true
      ∧ ∃ e ∈ s.fenced, e.grp = x.sel.grp ∧ e.course = x.sel.course ∧ e.lane = n))
  ∧ (∀ (k : Ctl) (f : MEM) (s : State) (x : View), s.view = some x → x.has [0] →
    x.reach k ((baseOpd f).vregs ++ (if f.ixen = 1 then [f.index.toNat] else [])) →
    exec (.pref k f) s = .next (afterIssue x ((laneList (x.active k)).foldl (prefLane f x) s)))
  ∧ (∀ (k : Ctl) (f : MEM) (s : State) (x : View), s.view = some x → x.has [0] →
    x.reach k (if f.d = 1 then [] else (baseOpd f).vregs) →
    exec (.cctl k f) s = .next (afterIssue x ((laneList (x.active k)).foldl (cctlLane f x) s)))
  ∧ (∀ (k : Ctl) (f : MEM) (s : State) (x : View), s.view = some x → x.has [0] →
    x.reach k ([f.d.toNat] ++ (baseOpd f).vregs ++ (if f.ixen = 1 then [f.index.toNat] else [])) →
    exec (.probe k f) s = .next (started ((laneList (x.active k)).foldl (probeTraffic x f) s) x k (x.result k (x.active k) (.v f.d.toNat)
      (fun n => ⟨BitVec.ofNat 64 (probeLane s x n (x.memAccess f n)), x.addrPoison f true n⟩)) []))
  ∧ (∀ (k : Ctl) (f : RRR) (s : State) (x : View), s.view = some x → x.has [0] →
    x.reach k ((dstOf f.dcls f.d).vregs ++ (if f.tyb = 2 then [] else (opdOf f.acls f.a).vregs)) →
    exec (.mapc k f) s = .next (written { s with free := s.free + 32 } x k (dstOf f.dcls f.d) (fun n =>
      ⟨BitVec.ofNat 64 (mapcValue s x f.tyb.toNat (x.opd 64 n (opdOf f.acls f.a)).val.toNat (Config.freeNat (s.free + n))),
        !(decide (f.tyb = 2)) && (x.opd 64 n (opdOf f.acls f.a)).poison⟩)))

/-! ### Windows, barriers and the matrix engine (spec/11_windows.md, spec/12_barriers.md, spec/13_matrix.md) -/

/-- R251 to R257: the six window instructions, each in an issue whose lanes report no cause. WBIND reads a descriptor whose
sectors lie in no window that has yet to arrive (R244). -/
def Obligations.WindowInstructions : Prop :=
  (∀ (k : Ctl) (f : ASY) (s : State) (x : View), s.view = some x → x.has [6] → f.win.toNat < x.grp.windows.length →
    x.active k ≠ 0 →
    let t := drainCourse s x.sel.grp x.sel.course
    touched t (wbindSectors t x f) = [] → missingSectors t (wbindSectors t x f) = [] → wbindCauses t x f = [] →
    exec (.wbind k f) s = .next (afterIssue x (bindWindow t x f)))
  ∧ (∀ (k : Ctl) (f : ASY) (s : State) (x : View), s.view = some x → x.has [6] → f.win.toNat < x.grp.windows.length →
    x.active k ≠ 0 → (x.grp.window f.win.toNat).isBound = true →
    ((x.grp.window f.win.toNat).state = .absent → x.counterFull 2 1 = false) →
    fillClash s x.sel.grp f.win.toNat = false →
    exec (.wtouch k f) s = .next (afterIssue x (if (x.grp.window f.win.toNat).state = .absent then
      startFill s x.sel.grp f.win.toNat (x.sel.grp, x.sel.course) ((lowLane (x.active k)).getD 0) else s)))
  ∧ (∀ (k : Ctl) (f : ASY) (s : State) (x : View), s.view = some x → x.has [6] → f.win.toNat < x.grp.windows.length →
    x.reach k (dstOf f.dcls f.d).vregs →
    exec (.wstat k f) s = .next (written s x k (dstOf f.dcls f.d)
      (fun _ => ⟨BitVec.ofNat 64 (wstatWord s x.grp (x.grp.window f.win.toNat)), false⟩)))
  ∧ (∀ (k : Ctl) (f : ASY) (s : State) (x : View), s.view = some x → x.has [6] → f.win.toNat < x.grp.windows.length →
    x.active k ≠ 0 → (x.grp.window f.win.toNat).isBound = true → (x.grp.window f.win.toNat).state ≠ .flushing →
    exec (.wdrop k f) s = .next (afterIssue x (dropWindow s x f.win.toNat)))
  ∧ (∀ (k : Ctl) (f : ASY) (s : State) (x : View), s.view = some x → x.has [6] → f.win.toNat < x.grp.windows.length →
    x.active k ≠ 0 → (x.grp.window f.win.toNat).state = .present → x.counterFull 0 1 = false →
    windowPoison (drainCourse s x.sel.grp x.sel.course) x (x.grp.window f.win.toNat) = false →
    engineClash (drainCourse s x.sel.grp x.sel.course) x.grp (x.grp.window f.win.toNat) .write = false →
    exec (.wflush k f) s = .next (afterIssue x
      (startFlush (drainCourse s x.sel.grp x.sel.course) x f.win.toNat ((lowLane (x.active k)).getD 0))))
  ∧ (∀ (k : Ctl) (f : ASY) (s : State) (x : View), s.view = some x → x.has [6] →
    x.crs.counter f.ccls.toNat ≤ f.cnt.toNat →
    exec (.cntwait k f) s = .next (afterIssue x s))

/-- R242, R243, R246: a missing sector of a window arrives with the bytes the fill reads, or with zeros where the box
leaves the tensor; where its page must be waited for it is pending on the requests; a read through a port in TRAINING waits
there (R462); a flush none of whose sectors
waits writes them in the order of their tensor addresses (into the stores that a redundant copy holds), and the window
is PRESENT again with the COPY counter lowered. R242: an arriving sector is in the scratchpad of its group's core with its bytes and its poison, valid, and
every other byte of every memory is as before. -/
def Obligations.WindowSteps : Prop :=
  ((∀ (s : State) (g win k : Nat) (grp : Group), s.group g = some grp → sectorMissing s grp (grp.window win) k = true →
    ((grp.window win).pend.any (fun e => e.1 == k)) = false →
    ((grp.window win).tensor.sectorBits k = none →
      exec (.windowSectorArrival g win k) s = .next (arriveSector s g win k 0 false false))
    ∧ (∀ off n bit ps t, (grp.window win).tensor.sectorBits k = some (off, n, bit) →
      sectorPlaces s grp bit n .read = (.ok ps, t) →
      ((∃ p ∈ ps, linkTrains t p.tgt = true) →
        exec (.windowSectorArrival g win k) s = .next (t.post (.windowSectorArrival g win k)))
      ∧ ((∀ p ∈ ps, linkTrains t p.tgt = false) →
      let r := (fillRead t (toucher t (grp.window win)) (grp.window win).seen off ps).1
      exec (.windowSectorArrival g win k) s = .next (arriveSector (readSeen t g win ps) g win k r.1 r.2 false)))
    ∧ (∀ off n bit rs t, (grp.window win).tensor.sectorBits k = some (off, n, bit) →
      sectorPlaces s grp bit n .read = (.held rs, t) →
      exec (.windowSectorFault g win k) s = .next (settleWindow (t.updWindow g win (fun w =>
        { w with pend := w.pend ++ rs.map (fun r => (k, r)) })) g win)))
  ∧ (∀ (s t : State) (g win og oc tok : Nat) (grp : Group) (r : Flushing), s.group g = some grp →
    (grp.window win).state = .flushing → (grp.window win).owner = some (og, oc, tok) → r.pend = [] →
    let done (u : State) : State := endFlush (u.updWindow g win
      (fun w => { w with pend := [], waits := w.waits ++ r.waits, err := w.err || r.err })) g win og oc tok
    let ws := r.writes.foldr insertFlush []
    ((∀ b o, grp.mode ≠ .redundant b o) → (∀ e ∈ (grp.window win).pend, flushWaits s e = false) →
      flushSectors grp (grp.window win) ((grp.window win).pend.map (·.1)).eraseDups s = (r, t) →
      exec (.wflushComplete g win) s = .next (done (ws.foldl (flushWrite g oc (grp.window win).lane) t)))
    ∧ ((∃ b o, grp.mode = .redundant b o) → (∀ e ∈ (grp.window win).pend, e.1 < (grp.window win).sectors) →
      flushSectors grp (grp.window win) (List.range (grp.window win).sectors) s = (r, t) →
      exec (.wflushComplete g win) s = .next (done (holdFlush t g win oc (grp.window win).lane tok ws)))))
  ∧ (∀ (s : State) (g win k core : Nat) (grp : Group) (data : BitVec 256) (poison err : Bool), s.MemoryOk →
    s.group g = some grp → grp.core = some core → grp.winFirst (grp.window win) + k < 12288 →
    let sec := grp.winFirst (grp.window win) + k
    let t := arriveSector s g win k data poison err
    ((t.mem (.scratch core)).sector sec) = data ∧ ((t.mem (.scratch core)).isPoisoned sec) = poison
      ∧ (t.core core).sectorValid sec = true
      ∧ (∀ j, j ≠ sec → (t.core core).sectorValid j = (s.core core).sectorValid j)
      ∧ (∀ a y, ¬(a = .scratch core ∧ y / 32 = sec) → (t.mem a).byte y = (s.mem a).byte y))

/-- R265 to R272: the barrier instructions, each in an issue whose lanes report no cause. Every one that acts on a barrier leaves
it to be tested at the end of the cycle (R262). -/
def Obligations.BarrierInstructions : Prop :=
  (∀ (k : Ctl) (f : ASY) (s : State) (x : View), s.view = some x → x.has [7] → f.bar.toNat < x.grp.barriers.length →
    x.active k ≠ 0 → (x.grp.barrier f.bar.toNat).init = false →
    let n := (uniformOpd x f (x.active k)).toNat
    1 ≤ n → n ≤ 32 → n ≤ x.grp.courses.length →
    exec (.binit k f) s = .next (afterIssue x (testDue (s.updBarrier x.sel.grp f.bar.toNat (fun _ =>
      { Barrier.uninit with init := true, expect := BitVec.ofNat 6 n, cp := f.mod.getLsbD 0 })) x.sel.grp f.bar.toNat)))
  ∧ (∀ (k : Ctl) (f : ASY) (s : State) (x : View), s.view = some x → x.has [7] → f.bar.toNat < x.grp.barriers.length →
    x.active k ≠ 0 → (x.grp.barrier f.bar.toNat).init = true →
    (x.grp.barrier f.bar.toNat).overfull x.sel.course = false →
    (∀ n, inMask (x.active k) n = true → (x.crs.lane n).inHandler = false) →
    x.reach k (if f.mod.getLsbD 0 then (dstOf f.dcls f.d).vregs else []) →
    exec (.barr k f) s = .next (afterIssue x (testDue (arriveAt
      (if f.mod.getLsbD 0 then putRegs x s (x.result k (x.active k) (dstOf f.dcls f.d)
        (fun _ => ⟨if (x.grp.barrier f.bar.toNat).phase then 1 else 0, false⟩)) else s) x f.bar.toNat)
      x.sel.grp f.bar.toNat)))
  ∧ (∀ (k : Ctl) (f : ASY) (s : State) (x : View), s.view = some x → x.has [7] → f.bar.toNat < x.grp.barriers.length →
    (x.grp.barrier f.bar.toNat).init = true → x.reach k (opdOf f.acls f.a).vregs →
    (∀ n, inMask (x.active k) n = true → (x.crs.lane n).inHandler = false) →
    exec (.bwait k f) s = .next (afterIssue x (waitLanes s x f.bar.toNat (x.grp.barrier f.bar.toNat).phase (x.active k)
      (fun n => (x.opd 64 n (opdOf f.acls f.a)).val.getLsbD 0))))
  ∧ (∀ (k : Ctl) (f : ASY) (s : State) (x : View), s.view = some x → x.has [7] → f.bar.toNat < x.grp.barriers.length →
    x.active k ≠ 0 → (x.grp.barrier f.bar.toNat).init = true →
    (x.grp.barrier f.bar.toNat).overfull x.sel.course = false →
    (∀ n, inMask (x.active k) n = true → (x.crs.lane n).inHandler = false) →
    exec (.barw k f) s = .next (afterIssue x (testDue (waitLanes (arriveAt s x f.bar.toNat) x f.bar.toNat
      (x.grp.barrier f.bar.toNat).phase (x.active k) (fun _ => (x.grp.barrier f.bar.toNat).phase))
      x.sel.grp f.bar.toNat)))
  ∧ (∀ (k : Ctl) (f : ASY) (s : State) (x : View) (p : Int), s.view = some x → x.has [7] →
    f.bar.toNat < x.grp.barriers.length → x.active k ≠ 0 → (x.grp.barrier f.bar.toNat).init = true →
    p = (x.grp.barrier f.bar.toNat).pend + (uniformOpd x f (x.active k)).toInt → -2 ^ 63 ≤ p → p ≤ 2 ^ 63 - 1 →
    exec (.bexp k f) s = .next (afterIssue x (testDue
      (s.updBarrier x.sel.grp f.bar.toNat (fun b => { b with pend := p, cpArr := true })) x.sel.grp f.bar.toNat)))
  ∧ (∀ (k : Ctl) (f : ASY) (s : State) (x : View), s.view = some x → x.has [7] → f.bar.toNat < x.grp.barriers.length →
    x.active k ≠ 0 → (x.grp.barrier f.bar.toNat).init = true →
    exec (.binv k f) s = .next (afterIssue x (trapWaiters
      (testDue (s.updBarrier x.sel.grp f.bar.toNat (fun _ => Barrier.uninit)) x.sel.grp f.bar.toNat) x.sel.grp
      (barrierWaiters x.grp f.bar.toNat))))

/-- R260, R263: when every expected course has arrived and the byte balance is zero the phase inverts, the arrivals are
cleared, and a lane that waits with the old phase as its token is released. R262: at the end of a cycle a barrier on which
events have fallen is tested once. -/
def Obligations.BarrierPhaseCompletes : Prop :=
  (∀ (s : State) (g i c n : Nat) (grp : Group) (b : Barrier), s.group g = some grp → i < grp.barriers.length →
    c < grp.courses.length → n < 32 → grp.barrier i = b → b.init = true → b.arrived = b.expect →
    (b.cp = true → b.cpArr = true) → b.pend = 0 →
    ∃ h, (barrierTest s g i).group g = some h
      ∧ h.barrier i = { b with phase := !b.phase, arrMask := 0, arrived := 0, cpArr := false }
      ∧ (((grp.course c).lane n).hold = .barrier i b.phase → ((h.course c).lane n).hold = .none)
      ∧ (∀ j, j ≠ i → h.barrier j = grp.barrier j))
  ∧ (∀ (s : State) (g i : Nat) (grp : Group),
    s.groups.filter (fun e => e.2.state = .resident
      && (List.range e.2.barriers.length).any (fun j => (e.2.barrier j).due)) = [(g, grp)] →
    s.group g = some grp → i < grp.barriers.length → (∀ j, j < grp.barriers.length → ((grp.barrier j).due = true ↔ j = i)) →
    settleBarriers s = barrierTest (s.updBarrier g i (fun b => { b with due := false, acted := false })) g i)

/-- R278: the seven matrix instructions join their core's queue. R279: the head entry of a core's matrix queue starts
when its bytes are there and no pair bars it, reading its scratchpad operand then, but for the sectors that a WDROP or WBIND has made it read before; until then it is tried
again; an entry in progress writes its result whole, lowers its counter or flag and leaves the queue. -/
def Obligations.MatrixInstructions : Prop :=
  (MatrixJoins .mma .mma ∧ MatrixJoins .mmaz .mmaz ∧ MatrixJoins .zld .zld ∧ MatrixJoins .zst .zst
    ∧ MatrixJoins .zmov .zmov ∧ MatrixJoins .zrmax .zrmax ∧ MatrixJoins .zrscale .zrscale)
  ∧ ((∀ (s : State) (c : Nat) (e : MatEntry) (rest : List MatEntry), (s.core c).matQ = e :: rest → e.started = false →
    pairBlocks s c e = false →
    matMissing s c e = false →
    let a := matAddr s e
    let m := (s.core c).scratch
    (e.bHave = [] →
      exec (.matrixEntryStart c) s = .next ((s.setCore c { s.core c with matQ := { e with
        started := true, bData := m.read a e.reads
        bPoison := decide (0 < e.reads) && m.anyPoison a e.reads } :: rest }).post (.matrixEntryRetire c)))
    ∧ (e.bHave ≠ [] → ∃ h : MatEntry, exec (.matrixEntryStart c) s = .next
        ((s.setCore c { s.core c with matQ := h :: rest }).post (.matrixEntryRetire c))
      ∧ { h with bData := e.bData, bPoison := e.bPoison, bHave := e.bHave } = { e with started := true }
      ∧ h.bPoison = (e.bPoison || (e.unread s).any m.isPoisoned)
      ∧ ∀ j, j < e.reads → h.bData / 256 ^ j % 256
          = if e.bHave.contains ((a + j) / 32) then e.bData / 256 ^ j % 256 else (m.byte (a + j)).toNat))
  ∧ (∀ (s : State) (c : Nat) (e : MatEntry) (rest : List MatEntry), (s.core c).matQ = e :: rest → e.started = false →
    matMissing s c e = true ∨ pairBlocks s c e = true →
      exec (.matrixEntryStart c) s = .next (s.post (.matrixEntryStart c)))
  ∧ (∀ (s : State) (c : Nat) (e : MatEntry) (rest : List MatEntry), (s.core c).matQ = e :: rest → e.started = true →
    let t := matRelease (matResult s c e) e
    let left := match rest with
      | h :: l => { h with headAt := t.time } :: l
      | [] => []
    exec (.matrixEntryRetire c) s = .next (((t.setCore c { t.core c with matQ := left }).post (.matrixEntryStart c)).post
      (.matrixEntryStart (Nat.xor c 1)))))

/-! ### Control (spec/06_courses.md) -/

/-- R81, R127 to R129: a branch of one lane whose guard is true goes to its marked target, a call pushes the successor,
and a return goes to the entry it pops; a lane whose guard is false falls through. -/
def Obligations.BranchesGoToTargets : Prop :=
  (∀ (k : Ctl) (f : BR) (s : State) (x : View) (n : Nat), s.view = some x → x.has [0] → laneList x.sel.mask = [n] →
    (x.crs.lane n).guardP k = false → (x.crs.lane n).guard k = true → Marked s x (branchTarget x.sel.pc f) →
    exec (.bra k f) s = .next (
      let t := goesTo s.newToken.2 x n s.nextReq (branchTarget x.sel.pc f)
      if f.y = 1 then t.updCourse x.sel.grp x.sel.course (fun c => { c with forced := true }) else t))
  ∧ (∀ (k : Ctl) (f : BR) (s : State) (x : View) (n : Nat), s.view = some x → x.has [0] → laneList x.sel.mask = [n] →
    (x.crs.lane n).guardP k = false → (x.crs.lane n).guard k = true → (∀ r ∈ (targetOpd f).vregs, x.vOk n r = true) →
    (x.opd 64 n (targetOpd f)).poison = false → Marked s x (x.opd 64 n (targetOpd f)).val →
    exec (.brx k f) s = .next (goesTo s.newToken.2 x n s.nextReq (x.opd 64 n (targetOpd f)).val))
  ∧ (∀ (k : Ctl) (f : BR) (s : State) (x : View) (n : Nat), s.view = some x → x.has [0] → laneList x.sel.mask = [n] →
    (x.crs.lane n).guardP k = false → (x.crs.lane n).guard k = true → Marked s x (branchTarget x.sel.pc f) →
    (x.crs.lane n).depth.toNat ≠ x.grp.dlim →
    ((s.laneAt x n).depth.toNat < 8 ∨ alGet (s.laneAt x n).entries ((s.laneAt x n).depth.toNat - 7) = none) →
    exec (.call k f) s = .next (goesTo (pushed s.newToken.2 x n (s.laneAt x n).depth.toNat (pcNext x.sel.pc)) x n s.nextReq
      (branchTarget x.sel.pc f)))
  ∧ (∀ (k : Ctl) (f : BR) (s : State) (x : View) (n : Nat), s.view = some x → x.has [0] → laneList x.sel.mask = [n] →
    (x.crs.lane n).guardP k = false → (x.crs.lane n).guard k = true → (∀ r ∈ (targetOpd f).vregs, x.vOk n r = true) →
    (x.opd 64 n (targetOpd f)).poison = false → Marked s x (x.opd 64 n (targetOpd f)).val →
    (x.crs.lane n).depth.toNat ≠ x.grp.dlim →
    ((s.laneAt x n).depth.toNat < 8 ∨ alGet (s.laneAt x n).entries ((s.laneAt x n).depth.toNat - 7) = none) →
    exec (.callx k f) s = .next (goesTo (pushed s.newToken.2 x n (s.laneAt x n).depth.toNat (pcNext x.sel.pc)) x n s.nextReq
      (x.opd 64 n (targetOpd f)).val))
  ∧ (∀ (k : Ctl) (f : BR) (s : State) (x : View) (n : Nat) (e : PWord), s.view = some x → x.has [0] →
    laneList x.sel.mask = [n] → (x.crs.lane n).guardP k = false → (x.crs.lane n).guard k = true →
    let l := s.laneAt x n
    l.depth ≠ 0 → l.tx.state = .idle → alGet l.entries l.depth.toNat = some e → e.poison = false → pcValid e.val = true →
    (9 ≤ l.depth.toNat → (alGet l.entries (l.depth.toNat - 8)).isSome = true) →
    exec (.ret k f) s = .next (goesTo (popped s.newToken.2 x n) x n s.nextReq e.val))
  ∧ (∀ (k : Ctl) (f : BR) (s : State) (x : View) (n : Nat), s.view = some x → x.has [0] → laneList x.sel.mask = [n] →
    (x.crs.lane n).guardP k = false → (x.crs.lane n).guard k = false →
    exec (.bra k f) s = .next (fallsThrough s x n) ∧ exec (.call k f) s = .next (fallsThrough s x n)
      ∧ exec (.ret k f) s = .next (fallsThrough s x n) ∧ exec (.brx k f) s = .next (fallsThrough s x n)
      ∧ exec (.callx k f) s = .next (fallsThrough s x n))

/-- R102, R121, R125, R130 to R133: EXIT ends its lane, a holder's transaction committed first, YIELD forces the next selection, SLEEP holds its lanes, NOP only
advances, and REGQ sets a quota that is not above the course's, or joins its role's FIFO for a higher one. -/
def Obligations.ControlInstructions : Prop :=
  (∀ (k : Ctl) (f : SYS) (s : State) (x : View) (n : Nat), s.view = some x → x.only k n → x.has [0] →
    (x.crs.lane n).inHandler = false → (x.crs.lane n).tx.state = .idle →
    exec (.exit k f) s = .next (afterIssue x (endLane s x.sel.grp x.sel.course n)))
  ∧ (∀ (k : Ctl) (f : SYS) (s : State) (x : View) (n : Nat), s.view = some x → x.only k n → x.has [0] →
    (x.crs.lane n).inHandler = false → (x.crs.lane n).tx.state = .irrevocable →
    exec (.exit k f) s = .next (afterIssue x
      (endLane (commitHolder s x.sel.grp x.sel.course n) x.sel.grp x.sel.course n)))
  ∧ (∀ (k : Ctl) (f : SYS) (s : State) (x : View), s.view = some x → x.has [0] → x.active k ≠ 0 →
    exec (.yield k f) s = .next (afterIssue x
      (s.updCourse x.sel.grp x.sel.course (fun c => { c with forced := true }))))
  ∧ (∀ (k : Ctl) (f : SYS) (s : State) (x : View), s.view = some x → x.has [0] →
    x.reach k (if f.code.getLsbD 15 then (sleepOpd f).vregs else []) →
    exec (.sleep k f) s = .next (afterIssue x ((laneList (x.active k)).foldl (sleepLane f x) s)))
  ∧ (∀ (k : Ctl) (f : SYS) (s : State) (x : View), s.view = some x → x.has [0] →
    exec (.nop k f) s = .next (afterIssue x s))
  ∧ (∀ (k : Ctl) (f : SYS) (s : State) (x : View), s.view = some x → x.has [0] → x.active k ≠ 0 →
    regqWaits x k = false → (∀ n, inMask (x.active k) n = true → (x.crs.lane n).inHandler = false) →
    f.code.toNat ≤ quotaMax x →
    (f.code.toNat ≤ x.crs.quota → exec (.regq k f) s = .next (afterIssue x
      ((s.updCourse x.sel.grp x.sel.course (fun c => { c with quota := f.code.toNat })).post
        (.regqGrant x.sel.grp x.crs.role))))
    ∧ (x.crs.quota < f.code.toNat → exec (.regq k f) s = .next (enqueueRegq s x f.code.toNat)))

/-- R109, R110, R132: the steps that end a wait for a quota or for a sleep. A granted course has its new quota, its
new columns read zero without poison, its old ones keep their values, and each waiting lane of the request is at the
successor, but for those of a course in HANDLER, which are frozen and wait on (R124); a sleeping lane goes on when its core
has counted the cycles, and waits on until then. R114, R128: a RET
whose entries came from memory takes effect when the fill returns: the lane goes to the entry's address, its depth
falls by one, and it no longer waits; the entries it holds below its old depth stay as they are, and the one below that
the RET has read joins them. R462, R124: a fill whose link is still in TRAINING, or whose lane is frozen, comes round again. -/
def Obligations.WaitsEnd : Prop :=
  ((∀ (s : State) (g role : Nat) (grp : Group) (r : RegqReq), s.group g = some grp → role < grp.regq.length →
    grp.regq.getD role [] = [r] → r.course < grp.courses.length → (grp.course r.course).quota ≤ r.quota → r.quota ≤ 256 →
    r.quota ≤ (grp.course r.course).quota + roleFree grp role →
    ∃ t, exec (.regqGrant g role) s = .next t
      ∧ (t.courseAt g r.course).quota = r.quota
      ∧ (∀ n i, n < 32 → i < 256 → (t.lane g r.course n).getV i
          = if (grp.course r.course).quota ≤ i ∧ i < r.quota then ⟨0, false⟩ else (s.lane g r.course n).getV i)
      ∧ (∀ n, n < 32 → inMask r.mask n = true → (s.lane g r.course n).hold = .regq →
          ((s.courseAt g r.course).trap ≠ .handler →
            (t.lane g r.course n).hold = .none ∧ (t.lane g r.course n).pc = pcNext (s.lane g r.course n).pc)
          ∧ ((s.courseAt g r.course).trap = .handler →
            (t.lane g r.course n).hold = .regq ∧ (t.lane g r.course n).pc = (s.lane g r.course n).pc))
      ∧ (∀ c, c ≠ r.course → t.courseAt g c = s.courseAt g c))
  ∧ (∀ (s : State) (g c n k w : Nat) (grp : Group), s.group g = some grp → n < 32 → grp.core = some k →
    ((grp.course c).lane n).hold = .sleep w →
    (w ≤ s.cycle k → ∃ t, exec (.sleepExpire g c n) s = .next t ∧ (t.lane g c n).hold = .none
      ∧ (t.lane g c n).pc = (s.lane g c n).pc)
    ∧ (s.cycle k < w → exec (.sleepExpire g c n) s = .next (s.post (.sleepExpire g c n)))))
  ∧ (∀ (s : State) (g c n token : Nat) (grp : Group) (e below : Option StackFill) (counted : Bool),
    s.group g = some grp → n < 32 →
    let l := (grp.course c).lane n
    l.hold = .fill e below token counted →
    (fillTrains s e below = true ∨ (grp.course c).frozen n = true →
      exec (.returnStackFillReturn g c n) s = .next (s.post (.returnStackFillReturn g c n)))
    ∧ (∀ v, fillTrains s e below = false → (grp.course c).frozen n = false → (e.map (·.word)).orElse (fun _ => alGet l.entries l.depth.toNat) = some v →
      v.poison = false → pcValid v.val = true → (l.tx.state = .irrevocable → l.tx.beginD ≠ l.depth) →
      ∃ t, exec (.returnStackFillReturn g c n) s = .next t
        ∧ (t.lane g c n).pc = v.val ∧ (t.lane g c n).depth = l.depth - 1 ∧ (t.lane g c n).hold = .none
        ∧ (∀ i a, i < l.depth.toNat → alGet l.entries i = some a → alGet (t.lane g c n).entries i = some a)
        ∧ (∀ b, below = some b → alGet l.entries (l.depth.toNat - 8) = none →
            alGet (t.lane g c n).entries (l.depth.toNat - 8) = some b.word)
        ∧ (t.lane g c n).live = l.live ∧ (∀ i, (t.lane g c n).getV i = l.getV i) ∧ (∀ a, t.mem a = s.mem a)))

/-- R115 to R121, R488: a selection of a course that the core may serve takes the issue group that the pick names: its
slot is chosen, its lanes' pass counts and the course's forced pick are settled; or, where the core no longer holds
the group's line, the line is fetched. Where the instruction chosen is one that the lanes' earlier loads come before, none of
their loads is still to be performed, and with no such load in flight the choice changes nothing else: which instructions those
are (ordersLoads), CALL, EXIT, BINIT and CKPT among them, is read by inference from R195 and R197 (log entry 11). R116: the group that an unforced pick takes is one of those given, and none of
them has a greater depth, or the same depth and a lower PC. -/
def Obligations.SelectionPicksIssueGroup : Prop :=
  (∀ (s : State) (core g c : Nat) (grp : Group) (i : IssueGroup), s.group g = some grp → grp.state = .resident →
    grp.core = some core → grp.halting = false → (grp.course c).ended = false →
    ((s.core core).handler.isSome = true ∨ (s.core core).handlerQ = []) → mayServe s core g c = true →
    (∀ n, n < 32 → ((grp.course c).lane n).dropped ≠ .due) →
    let gs := (eligible s core g c).map (·.1)
    pick (grp.course c) gs = some i →
    let x : Sel := ⟨core, g, c, i.mask, i.pc⟩
    (((s.core core).line (lineOf i.pc) (s.groupCtx grp)).isSome = true →
      let u := { markServed s core g c with free := s.free + 1 }
      exec (.issueSelection core g c) s = .next (orderLoads { u.updCourse g c (fun y => afterPick y gs i) with sel := some x })
      ∨ exec (.issueSelection core g c) s = .next (fetchMiss (dropLine u core (lineOf i.pc) (s.groupCtx grp)) grp x))
    ∧ ((s.core core).line (lineOf i.pc) (s.groupCtx grp) = none →
      exec (.issueSelection core g c) s = .next (fetchMiss (markServed s core g c) grp x)))
  ∧ (∀ (c : Course) (gs : List IssueGroup), c.isForced = false →
    (pick c gs = none ↔ gs = []) ∧ ∀ i, pick c gs = some i → i ∈ gs ∧ ∀ j ∈ gs, keyBefore j i = false)
  ∧ (∀ (s : State) (x : View) (l : ILine) (i : Instr) (n : Nat), s.view = some x → lineSeen s x = some l →
    slotDecode l (slotOf x.sel.pc) = .ok i → ordersLoads i = true → n < 32 → inMask x.sel.mask n = true →
    ((orderLoads s).courseAt x.sel.grp x.sel.course).lateSectors n = [])
  ∧ (∀ (s : State) (x : View), s.view = some x → (∀ n, n < 32 → x.crs.lateSectors n = []) → orderLoads s = s)

/-- R66, R73, R74, R221, R244: a line that a core asked for arrives in its instruction cache, one beyond a port in TRAINING when
the port carries again, or as a poisoned zero when it carries nothing any more (R462, R466); a long-latency operation with
one result writes it, lowers its flag by one and is gone. The result of a load that may still be performed is what its places
held at its issue, or what they hold now, and nothing between: read by inference from R195, and the model's choice (log entry
11). R136: a result for an S register lands after those of earlier issues
for that register, which are gone with it. A lane whose reason to be held is over is ready at its
instruction. -/
def Obligations.CoreSteps : Prop :=
  (∀ (s t : State) (core g : Nat) (line : Word) (grp : Group) (tgt : Tgt) (pa : Nat), s.group g = some grp →
    grp.core = some core → fetchPlace s grp line.toNat = (.place tgt pa, t) →
    (linkTrains t tgt = true → exec (.lineFill core g line) s = .next (t.postOnce (.lineFill core g line)))
    ∧ (linkTrains t tgt = false → exec (.lineFill core g line) s
      = .next (keepLine (t.readAt tgt pa 64) core line (t.groupCtx grp) (readLine t tgt pa))))
  ∧ (∀ (s t : State) (core g : Nat) (line : Word) (grp : Group) (c : Cause), s.group g = some grp →
    grp.core = some core → fetchPlace s grp line.toNat = (.bad c, t) → lineLost t grp line.toNat = true →
    exec (.lineFill core g line) s = .next (keepLine t core line (t.groupCtx grp) ⟨0, true⟩))
  ∧ (∀ (s : State) (g c i n r core : Nat) (grp : Group) (op : LongOp) (v : PWord) (j : Fin 12), s.group g = some grp →
    grp.core = some core → n < 32 → r < 256 →
    (grp.course c).inflight[i % max 1 (grp.course c).inflight.length]? = some op → op.writes = [.v n r v] →
    op.flag = some j →
    ∃ t, exec (.longLatencyComplete g c i) s = .next t ∧ (t.lane g c n).getV r = v
      ∧ (t.courseAt g c).flag j.val = (s.courseAt g c).flag j.val - 1
      ∧ (t.courseAt g c).inflight = (s.courseAt g c).inflight.eraseIdx (i % max 1 (grp.course c).inflight.length)
      ∧ (∀ m q, (m, q) ≠ (n, r) → (t.lane g c m).getV q = (s.lane g c m).getV q) ∧ (∀ a, t.mem a = s.mem a))
  ∧ (∀ (s : State) (g c i n r core idx : Nat) (grp : Group) (op : LongOp) (v : PWord) (ps : List Piece) (guard : Bool),
    s.group g = some grp → grp.core = some core → n < 32 → r < 256 →
    (grp.course c).inflight[i % max 1 (grp.course c).inflight.length]? = some op →
    op.writes = [.late n r v false idx ps guard] →
    ∃ t, exec (.longLatencyComplete g c i) s = .next t
      ∧ ((t.lane g c n).getV r = v ∨ (t.lane g c n).getV r = lateWord { s with free := s.free + 2 } g c n idx ps guard)
      ∧ (∀ m q, (m, q) ≠ (n, r) → (t.lane g c m).getV q = (s.lane g c m).getV q) ∧ (∀ a, t.mem a = s.mem a))
  ∧ (∀ (s : State) (g c i r core : Nat) (grp : Group) (op : LongOp) (v : PWord), s.group g = some grp →
    grp.core = some core → r < 64 → c < grp.courses.length →
    (grp.course c).inflight[i % max 1 (grp.course c).inflight.length]? = some op → op.writes = [.s r v] →
    ∃ t, exec (.longLatencyComplete g c i) s = .next t ∧ (t.courseAt g c).getS r = v
      ∧ (t.courseAt g c).inflight
        = ((grp.course c).inflight.take (i % max 1 (grp.course c).inflight.length)).map (LongOp.landed r)
          ++ (grp.course c).inflight.drop (i % max 1 (grp.course c).inflight.length + 1))
  ∧ (∀ (s : State) (g c n : Nat) (grp : Group), s.group g = some grp → n < 32 → c < grp.courses.length →
    holdOver s ((grp.course c).lane n).hold = true →
    ∃ t, exec (.laneReplay g c n) s = .next t ∧ (t.lane g c n).hold = .none
      ∧ (t.lane g c n).pc = (s.lane g c n).pc ∧ (∀ m i, (t.lane g c m).getV i = (s.lane g c m).getV i)
      ∧ (∀ a, t.mem a = s.mem a))

/-! ### Traps (spec/20_traps.md) -/

/-- R366, R367, R377: TRAP and BKPT raise their cause with their code in a lane of Active: in a context with a handler the
lane awaits it at the instruction, its course joins the core's handler queue, and the group's other lanes advance. -/
def Obligations.TrapInstructionsAwaitHandler : Prop :=
  ∀ (k : Ctl) (f : SYS) (s : State) (x : View) (n core : Nat), s.view = some x → x.only k n → CanTrap s x n →
    x.grp.core = some core → x.grp.halting = false → x.crs.trap ≠ .handler →
    (s.core core).handlerQ.contains (x.sel.grp, x.sel.course) = false →
    ∀ i ∈ [(Instr.trap k f, Cause.software), (Instr.bkpt k f, Cause.breakpoint)],
    ∃ t, exec i.1 s = .next t
      ∧ (t.lane x.sel.grp x.sel.course n).pend = some ⟨i.2, f.code, x.sel.pc, none⟩
      ∧ (t.lane x.sel.grp x.sel.course n).pc = (x.crs.lane n).pc
      ∧ (t.courseAt x.sel.grp x.sel.course).trap = .waiting
      ∧ (t.core core).handlerQ = (s.core core).handlerQ ++ [(x.sel.grp, x.sel.course)]
      ∧ t.agenda = s.agenda ++ [.handlerEntry core] ∧ t.sel = none
      ∧ (∀ m, m < 32 → m ≠ n → inMask x.sel.mask m = true →
          (t.lane x.sel.grp x.sel.course m).pc = pcNext x.sel.pc)
      ∧ (∀ a y, (t.mem a).byte y = (s.mem a).byte y)

/-- R368: entry to handler mode. Every lane with a trap of the course at the head of the core's queue saves its depth,
gets %TRAPPC and %TRAPCAUSE and goes to the handler's base, or to the routine of an emulated feature; the other lanes are
as they were; the reserve registers read zero; the core has its course in the handler. -/
def Obligations.HandlerEntrySavesState : Prop :=
  ∀ (s : State) (k g c : Nat) (rest : List (Nat × Nat)) (grp : Group), (s.core k).handler = none →
    (s.core k).handlerQ = (g, c) :: rest → s.group g = some grp → c < grp.courses.length →
    ∃ t, exec (.handlerEntry k) s = .next t
      ∧ (t.core k).handler = some (g, c) ∧ (t.core k).handlerQ = rest
      ∧ (∀ n i, (t.core k).getReserve n i = ⟨0, false⟩) ∧ (t.courseAt g c).trap = .handler
      ∧ (∀ n, n < 32 → ∀ p, (s.lane g c n).pend = some p →
          (t.lane g c n).pc = p.routine.getD (((alGet s.ctxs (s.groupCtx grp)).map (·.trapBase)).getD 0)
          ∧ (t.lane g c n).inHandler = true ∧ (t.lane g c n).entryD = (s.lane g c n).depth
          ∧ (t.lane g c n).trapPc = ⟨p.pc, false⟩
          ∧ (t.lane g c n).trapCause = ⟨(p.code.setWidth 64 <<< 8) ||| BitVec.ofNat 64 (causeCode p.cause), false⟩
          ∧ (t.lane g c n).pend = none)
      ∧ (∀ n, n < 32 → (s.lane g c n).pend = none → t.lane g c n = s.lane g c n)
      ∧ (∀ n i, n < 32 → (t.lane g c n).getV i = (s.lane g c n).getV i)

/-- R378: HRET in one lane of the course in handler mode, whose return is sound and which does not end: the lane
resumes at %TRAPPC with its saved depth; when no lane of the course is left in the handler, the course leaves it and
the core takes the next of its queue; a course whose frozen lanes owe traps joins that queue again (R367). R369, R378: HRET outside handler mode traps the lanes of Active with
ILLEGAL_FORM and does nothing else. -/
def Obligations.HandlerReturns : Prop :=
  (∀ (k : Ctl) (f : SYS) (s : State) (x : View) (n core : Nat), s.view = some x → x.only k n → x.crs.trap = .handler →
    x.grp.core = some core → badReturn (x.crs.lane n) = none → (x.crs.lane n).trapCause.val.getLsbD 63 = false →
    (x.crs.lane n).pend = none → (x.crs.lane n).hold ≠ .regq →
    ∃ t, exec (.hret k f) s = .next t
      ∧ (t.lane x.sel.grp x.sel.course n).pc = (x.crs.lane n).trapPc.val
      ∧ (t.lane x.sel.grp x.sel.course n).depth = (x.crs.lane n).entryD
      ∧ (t.lane x.sel.grp x.sel.course n).inHandler = false
      ∧ (∀ i, (t.lane x.sel.grp x.sel.course n).getV i = (x.crs.lane n).getV i)
      ∧ ((∀ m, m < 32 → m ≠ n → (x.crs.lane m).inHandler = false) →
          ((∀ m, m < 32 → (x.crs.lane m).pend = none) →
            (t.core core).handler = none ∧ t.agenda = s.agenda ++ [.handlerEntry core]
            ∧ (t.courseAt x.sel.grp x.sel.course).trap = .ordinary ∧ (t.core core).handlerQ = (s.core core).handlerQ)
          ∧ ((∃ m, m < 32 ∧ (x.crs.lane m).pend ≠ none) → x.grp.alive = true → x.grp.halting = false →
            ((alGet s.ctxs (s.groupCtx x.grp)).map (·.trapBase)).getD 0 ≠ 0 →
            (∀ m p, m < 32 → (x.crs.lane m).pend = some p → (x.crs.lane m).live = true
              ∧ (x.crs.lane m).tx.state ≠ .active ∧ p.cause ≠ .poisonConsumed ∧ p.cause ≠ .codeIntegrity) →
            (s.core core).handlerQ.contains (x.sel.grp, x.sel.course) = false →
            (t.core core).handler = none ∧ .handlerEntry core ∈ t.agenda
            ∧ (t.courseAt x.sel.grp x.sel.course).trap = .waiting
            ∧ (t.core core).handlerQ = (s.core core).handlerQ ++ [(x.sel.grp, x.sel.course)]
            ∧ (∀ m p, m < 32 → (x.crs.lane m).pend = some p → (t.lane x.sel.grp x.sel.course m).pend = some p)))
      ∧ (∀ m, m < 32 → m ≠ n → (x.crs.lane m).inHandler = true →
          (t.courseAt x.sel.grp x.sel.course).trap = .handler ∧ (t.core core).handler = (s.core core).handler)
      ∧ (((∀ m, m < 32 → (x.crs.lane m).pend = none) ∨ ∃ m, m < 32 ∧ m ≠ n ∧ (x.crs.lane m).inHandler = true) →
          ∀ a y, (t.mem a).byte y = (s.mem a).byte y))
  ∧ (∀ (k : Ctl) (f : SYS) (s : State) (x : View), s.view = some x → x.crs.trap ≠ .handler →
    exec (.hret k f) s = .next (trapLanes s x.sel (x.active k) ⟨.illegalForm, 0, x.sel.pc, none⟩))

/-! ### Transactions (spec/14_transactions.md) -/

/-- R309, R311: TXBEGIN in one IDLE lane that has not aborted four times in a row: the transaction is ACTIVE, remembers
the lane's depth and the abort target, and has empty logs; a holder's TXBEGIN only nests; either falls through. -/
def Obligations.TransactionBegins : Prop :=
  ∀ (k : Ctl) (f : BR) (s : State) (x : View) (n : Nat), s.view = some x → x.has [12] → laneList x.sel.mask = [n] →
    (x.crs.lane n).guardP k = false → (x.crs.lane n).guard k = true → (x.crs.lane n).inHandler = false →
    x.grp.mode = .ordinary → Marked s x (branchTarget x.sel.pc f) → x.sel.course < x.grp.courses.length →
    ((x.crs.lane n).tx.state = .idle → (x.crs.lane n).tx.aborts.toNat < 4 →
      ∃ t, exec (.txbegin k f) s = .next t
        ∧ (t.lane x.sel.grp x.sel.course n).tx = { (x.crs.lane n).tx with
            state := .active, beginD := (x.crs.lane n).depth, nest := 0, target := branchTarget x.sel.pc f,
            rlog := [], wlog := [] }
        ∧ (t.lane x.sel.grp x.sel.course n).pc = pcNext x.sel.pc
        ∧ (∀ i, (t.lane x.sel.grp x.sel.course n).getV i = (x.crs.lane n).getV i) ∧ (∀ a, t.mem a = s.mem a))
    ∧ ((x.crs.lane n).tx.state = .irrevocable → (x.crs.lane n).tx.nest ≠ 255 →
      ∃ t, exec (.txbegin k f) s = .next t
        ∧ (t.lane x.sel.grp x.sel.course n).tx = { (x.crs.lane n).tx with nest := (x.crs.lane n).tx.nest + 1 }
        ∧ (t.lane x.sel.grp x.sel.course n).pc = pcNext x.sel.pc ∧ (∀ a, t.mem a = s.mem a))

/-- R304, R312: TXEND in one lane. An IDLE lane only advances, its destination reading that nothing committed; an
ACTIVE lane waits at the instruction in VALIDATING, and the verdict of its course is due. R313, R314: TXABORT in one
lane does nothing but advance unless its transaction is ACTIVE; then it aborts with code 4 and the low byte of its
operand, not counted. TXSTAT writes the lane's record, as it stands. -/
def Obligations.TransactionEnds : Prop :=
  (∀ (k : Ctl) (f : ASY) (s : State) (x : View) (n : Nat), s.view = some x → x.has [12] → x.only k n →
    let dst := if f.mod.getLsbD 0 then some (f.dcls, f.d) else none
    let guardP := maskOf fun m => inMask (x.active k) m && (x.crs.lane m).guardP k
    ((x.crs.lane n).tx.state = .idle → exec (.txend k f) s = .next
      (applyRegs (afterIssue x s) x.sel.core x.sel.grp x.sel.course (txendWrites ⟨0, x.active k, 0, dst, guardP⟩)))
    ∧ ((x.crs.lane n).tx.state = .active → ∃ t, exec (.txend k f) s = .next t
      ∧ (t.lane x.sel.grp x.sel.course n).tx = { (x.crs.lane n).tx with state := .validating }
      ∧ (t.lane x.sel.grp x.sel.course n).hold = .txend
      ∧ (t.lane x.sel.grp x.sel.course n).pc = (x.crs.lane n).pc
      ∧ (t.courseAt x.sel.grp x.sel.course).txends = (x.crs.landDst dst).txends ++ [⟨x.active k, x.active k, 0, dst, guardP⟩]
      ∧ t.agenda = s.agenda ++ [.txVerdict x.sel.grp x.sel.course] ∧ (∀ a, t.mem a = s.mem a)))
  ∧ ((∀ (k : Ctl) (f : ASY) (s : State) (x : View) (n : Nat), s.view = some x → x.has [12] → x.only k n →
    x.reach k (opdOf f.acls f.a).vregs →
    ((x.crs.lane n).tx.state ≠ .active → exec (.txabort k f) s = .next (afterIssue x s))
    ∧ ((x.crs.lane n).tx.state = .active → ∃ t, exec (.txabort k f) s = .next t
      ∧ (t.lane x.sel.grp x.sel.course n).pc = (x.crs.lane n).tx.target
      ∧ (t.lane x.sel.grp x.sel.course n).depth = (x.crs.lane n).tx.beginD
      ∧ (t.lane x.sel.grp x.sel.course n).tx.state = .idle
      ∧ (t.lane x.sel.grp x.sel.course n).tx.aborts = (x.crs.lane n).tx.aborts
      ∧ (t.lane x.sel.grp x.sel.course n).tx.record
        = abortRecord 4 ((x.opd 64 n (opdOf f.acls f.a)).val.toNat % 256) 0 false
      ∧ (∀ a, t.mem a = s.mem a)))
  ∧ (∀ (k : Ctl) (f : ASY) (s : State) (x : View), s.view = some x → x.has [12] → x.reach k (dstOf f.dcls f.d).vregs →
    exec (.txstat k f) s = .next (written s x k (dstOf f.dcls f.d) (fun n => ⟨(x.crs.lane n).tx.record, false⟩))))

/-- R304, R305: the verdict of one lane's TXEND, on the state in which its course's earlier stores are at their homes. R124: in a
course in HANDLER, whose lanes are frozen, it comes round again, unless a halt waits for it (R309; log entry 129).
A lane that may commit has its write set applied, goes to the successor in IDLE with no aborts counted, and the core's
L1 is cleared; a lane that may not goes back to its abort target with the code. R302, R304: what a commit and an abort
leave of a lane: a commit ends the transaction at the successor with no abort counted; an abort goes to the begin
target at the begin depth with empty logs, the abort record, and one more abort counted, saturating at 15, unless its
code is EXPLICIT; neither touches a V register. -/
def Obligations.TransactionVerdicts : Prop :=
  (∀ (s s0 s1 : State) (g c n : Nat) (grp : Group) (e : TxEnd) (rest : List TxEnd) (l : Lane), s.group g = some grp →
    (grp.course c).txends = e :: rest → laneList e.active = [n] → e.done = 0 →
    s0 = drainCourse (s.updCourse g c (fun x => { x with txends := rest })) g c →
    ((grp.course c).trap ≠ .handler ∨ grp.halting = true) →
    (((s0.group g).map (·.course c)).getD Course.reset).lane n = l → l.live = true → l.tx.state = .validating →
    let core := grp.core.getD 0
    (verdictOf s0 g c n e.lanes (s0.groupPart grp) l.tx = (none, s1) →
      exec (.txVerdict g c) s = .next (verdictWrites (clearL1 (commitTx s1 core g c n (s0.groupPart grp) l.tx) core) core g c
        { e with done := 0 ||| (0 ||| (1#32 <<< n)) }))
    ∧ (∀ code, verdictOf s0 g c n e.lanes (s0.groupPart grp) l.tx = (some code, s1) →
      let a := abortLane (verdictWrites s1 core g c { e with done := 0 ||| 0 }) g c n code 0 0 false
      exec (.txVerdict g c) s = .next (bumpIf a.1 g c (false || a.2))))
  ∧ (∀ (s : State) (g c : Nat) (grp : Group), s.group g = some grp → (grp.course c).txends ≠ [] →
    (grp.course c).trap = .handler → grp.halting = false → exec (.txVerdict g c) s = .next (s.post (.txVerdict g c)))
  ∧ (∀ (s : State) (g c n : Nat) (grp : Group), s.group g = some grp → c < grp.courses.length → n < 32 →
    let l := (grp.course c).lane n
    (∀ core part, l.tx.wlog = [] →
      let r := (commitTx s core g c n part l.tx).lane g c n
      r.pc = pcNext l.pc ∧ r.hold = .none ∧ r.tx.state = .idle ∧ r.tx.aborts = 0 ∧ r.tx.rlog = [] ∧ r.tx.wlog = []
        ∧ ∀ i, r.getV i = l.getV i)
    ∧ (∀ code user cause pf,
      let r := (abortLane s g c n code user cause pf).1.lane g c n
      r.pc = l.tx.target ∧ r.depth = l.tx.beginD ∧ r.hold = .none ∧ r.tx.state = .idle ∧ r.tx.rlog = [] ∧ r.tx.wlog = []
        ∧ r.tx.record = abortRecord code user cause pf
        ∧ (r.tx.aborts = if code = 4 then l.tx.aborts else if l.tx.aborts = 15 then 15 else l.tx.aborts + 1)
        ∧ (∀ i, r.getV i = l.getV i)))

/-! ### Stage graphs, groups and format slots (spec/16_stage_graphs.md, spec/05_groups.md, spec/03_format_slots.md) -/

/-- R349 to R355: RRES, REMIT, RCANCEL and FETCH in one lane that is in no transaction and not in the handler. A grant
made now opens the lane's run and delivers its address and result; the requests that wait come before it, by the drain mode of
the cycle, and seals and triggers after it (R344). REMIT publishes the first records of the run and frees
the others; RCANCEL frees them all; FETCH takes from the dispenser, one index or as many as its operand says. -/
def Obligations.RecordInstructions : Prop :=
  (∀ (k : Ctl) (f : ASY) (s t : State) (x : View) (n : Nat) (l : Launch) (o : Obj) (a : Word), s.view = some x →
    x.only k n → x.has [13] → x.reach k ([f.d.toNat, f.d.toNat + 1] ++ (opdOf f.acls f.a).vregs) →
    (x.crs.lane n).inHandler = false →
    let mode := drainMode s x.grp.launch
    let u := grantWaiting s x.grp.launch mode.1 mode.2
    let c := min (x.opd 64 n (opdOf f.acls f.a)).val.toNat (o.cap f.node.toNat)
    u.graphOf x = some (l, o) → (u.laneAt x n).tx.state = .idle → (u.laneAt x n).hold = .none →
    f.node.toNat < o.nodes.length → o.succ x.grp.node f.node.toNat = true →
    (u.laneAt x n).run f.node.toNat = none →
    (u.laneAt x n).recDepth.toNat + 1 ≤ ((o.node f.node.toNat).map (·.dmax)).getD 0 → c ≠ 0 →
    requestStopped u x l o = false → grantableIn mode.1 mode.2 l o x.grp.node f.node.toNat c = true →
    giveRun u x.grp.launch x.sel.grp x.sel.course n f.node.toNat c = some (a, t) →
    exec (.rres k f) s = .next ((launcherTriggers (afterIssue x
      (deliver t x k true (x.active k) (x.active k) (rresWrites x k f n a (rresResult 0 c)) []))
        x.grp.launch mode.1 mode.2).postOnce (.rresGrant x.grp.launch)))
  ∧ (∀ (k : Ctl) (f : ASY) (s : State) (x : View) (n : Nat) (r : Run), s.view = some x → x.only k n → x.has [13] →
    (x.crs.lane n).tx.state = .idle → (x.crs.lane n).run f.node.toNat = some r →
    (x.reach k ((opdOf f.acls f.a).vregs ++ (if f.mod.getLsbD 0 then (opdOf f.bcls f.b).vregs else [])) →
      let c := min (x.opd 64 n (opdOf f.acls f.a)).val.toNat r.size
      let key := if f.mod.getLsbD 0 then (x.opd 64 n (opdOf f.bcls f.b)).val.toNat % 64 else 0
      c ≠ 0 → exec (.remit k f) s = .next (afterIssue x (((closeRun s x n f.node.toNat).updLaunch x.grp.launch
        (emitted x n r c key)).post (.recordPublished x.grp.launch))))
    ∧ exec (.rcancel k f) s = .next (afterIssue x (((closeRun s x n f.node.toNat).updLaunch x.grp.launch
        (fun l => freeRecords l (inSlots r.block r.slot (r.slot + r.size)))).post (.rresGrant x.grp.launch))))
  ∧ (∀ (k : Ctl) (f : ASY) (s : State) (x : View) (n : Nat), s.view = some x → x.only k n → x.has [13] →
    (x.crs.lane n).inHandler = false → (x.crs.lane n).tx.state = .idle →
    (f.dcls = 0 → x.reach k [f.d.toNat] → exec (.fetch k f) s = .next (afterIssue x
      (deliver (nextItem (takeItems s x 1).2 x n (itemOf (takeItems s x 1).1)) x k true (x.active k) (x.active k)
        [x.putV n f.d.toNat ⟨BitVec.ofNat 64 (takeItems s x 1).1.1, (x.crs.lane n).guardP k⟩] [])))
    ∧ (f.dcls ≠ 0 →
      let r := takeItems s x (x.opd 64 n (opdOf f.acls f.a)).val.toNat
      let p := (x.opd 64 n (opdOf f.acls f.a)).poison || (x.crs.lane n).guardP k
      exec (.fetch k f) s = .next (afterIssue x
        (deliver (nextItem r.2 x n (itemOf r.1)) x k true (x.active k) (x.active k)
          [.s f.d.toNat ⟨BitVec.ofNat 64 r.1.1, p⟩, .s (f.d.toNat + 1) ⟨BitVec.ofNat 64 r.1.2, p⟩] []))))

/-- R349, R355: what a take from the dispenser gives: the head of what came back, as far as it reaches; else the next
indexes, as many as are left; else the index of all ones with a count of 0; the total never changes. R214: on a lent core the
items that an overflow gave back are passed over, and stay for the borrower's own cores. -/
def Obligations.DispenserTakes : Prop :=
  ∀ (l : Launch) (lent : Bool) (c : Nat), 0 < c →
    (∀ pre r rest, l.returns = pre ++ r :: rest → (∀ e ∈ pre, lent = true ∧ e.owned = true) →
      (lent && r.owned) = false → 0 < r.count →
      (l.take true lent c).1 = (r.first, min c r.count) ∧ (l.take true lent c).2.next = l.next
        ∧ (l.take true lent c).2.returns = pre ++ (if r.count ≤ c then rest
          else { r with first := r.first + c, count := r.count - c } :: rest))
    ∧ ((∀ e ∈ l.returns, lent = true ∧ e.owned = true) → l.next < l.total →
      (l.take true lent c).1 = (l.next, min c (l.total - l.next)) ∧ (l.take true lent c).2.next = min (l.next + c) l.total
        ∧ (l.take true lent c).2.returns = l.returns)
    ∧ ((∀ e ∈ l.returns, lent = true ∧ e.owned = true) → l.total ≤ l.next →
      l.take true lent c = ((2 ^ 64 - 1, 0), l))
    ∧ (l.take true lent c).2.total = l.total ∧ (l.take true lent c).2.records = l.records

/-- R338, R340, R344, R353: the launcher's steps. The oldest publication of a launch completes with its group's stores
at their homes, its records PENDING from now; a coalescing timer that is due, and a look at the waiting requests, run
a pass of the launcher. R338: what a publication of an ordinary group leaves of a launch's records: the WRITTEN ones
it names are PENDING with the current cycle as their age and belong to no group; every other record is as before. -/
def Obligations.LauncherSteps : Prop :=
  ((∀ (s : State) (i : Nat) (l : Launch) (p : Publication) (rest : List Publication), s.launch i = some l →
    l.pubs = p :: rest →
    let u := drainAll s p.grp
    exec (.recordPublished i) s = .next (launcherPass (u.updLaunch i (fun q =>
      publish (u.launcherCycle q.cluster) (((u.group p.grp).map (·.mode)).getD .ordinary)
        (((u.group p.grp).map (·.alive)).getD false) p { q with pubs := rest })) i))
  ∧ (∀ (s : State) (i t key : Nat) (l : Launch) (o : Obj) (nd : Node) (r : Record) (rest : List Record),
    s.launch i = some l → s.launchObj l = some o → o.node t = some nd → nd.kind = .gather → nd.timer ≠ 0 →
    l.pending t = r :: rest → r.age + nd.timer ≤ s.launcherCycle l.cluster →
    exec (.coalescingTimerExpire i t key) s = .next (launcherPass s i))
  ∧ (∀ (s : State) (i : Nat), exec (.rresGrant i) s = .next (launcherPass s i)))
  ∧ (∀ (now : Nat) (p : Publication) (l : Launch) (alive : Bool) (j : Nat) (r : Record), l.records[j]? = some r →
    (publish now .ordinary alive p l).records[j]? = some
      (if r.state = .written ∧ (r.block, r.slot) ∈ p.records then { r with state := .pending, age := now, grp := none }
       else r))

/-- R98 to R103, R342, R425: a pass of the launchers over the groups that wait; a placement given, on cores the group may
go to, when the arbiter's turn has come to its unit; the end of a first placement; and the retirement of an ordinary group
whose courses have ended and of which nothing is in flight. -/
def Obligations.GroupSteps : Prop :=
  (∀ (s : State), exec (.groupPlace []) s = .next (placeAll s))
  ∧ (∀ (s t : State) (p : Place) (ps qs : List Place) (u : List Nat) (grp : Group), s.group p.grp = some grp →
    arbitrate s (s.groupPart grp) 0 = .place u qs t → placesOk s u (p :: ps) = true →
    exec (.groupPlace (p :: ps)) s = .next (performPlaces t u (p :: ps)))
  ∧ (∀ (s : State) (g core : Nat) (grp : Group), s.group g = some grp → grp.state = .placing → grp.core = some core →
    (grp.placed = false → exec (.groupPlacementComplete g) s = .next (firstPlacement s g core grp))
    ∧ (grp.placed = true → exec (.groupPlacementComplete g) s = .next (restorePlacement s g core grp)))
  ∧ (∀ (s : State) (g : Nat) (grp h : Group), s.group g = some grp → grp.state = .resident → grp.halting = false →
    grp.courses.all (·.ended) = true → quiet s g grp = true → (drainAll s g).group g = some h → h.alive = true →
    h.mode = .ordinary →
    exec (.groupRetire g) s = .next (afterRetire (finishGroup (drainAll s g) g h) h.launch [g] []))

/-- R99, R100: a group placed at a core is PLACING there, at the given offset of its scratchpad; no other group moves
and no memory changes. R99, R103: when a group is RETIRED the core it was on has none of its matrix entries and no
claim of it to the handler, and no other group changes. -/
def Obligations.PlacementAndRetirement : Prop :=
  (∀ (s : State) (pl : Place) (grp : Group), s.group pl.grp = some grp →
    ∃ h, (placeOn s pl).group pl.grp = some h ∧ h.state = .placing ∧ h.core = some pl.core ∧ h.allocBase = pl.base
      ∧ h.courses = grp.courses ∧ h.held = grp.held
      ∧ (h.mode = if grp.placed = false ∧ (s.core pl.core).lentTo.isSome = true ∧ grp.mode = .ordinary then .revocable
          else grp.mode)
      ∧ (∀ g, g ≠ pl.grp → (placeOn s pl).group g = s.group g)
      ∧ (∀ a y, ((placeOn s pl).mem a).byte y = (s.mem a).byte y))
  ∧ (∀ (s : State) (g core : Nat) (grp : Group), s.group g = some grp → grp.core = some core →
    let t := finishGroup s g grp
    (∃ h, t.group g = some h ∧ h.state = .retired ∧ h.core = none ∧ h.held = [])
    ∧ (∀ e ∈ (t.core core).matQ, e.grp ≠ g) ∧ (∀ e ∈ (t.core core).handlerQ, e.1 ≠ g)
    ∧ (∀ c, (t.core core).handler ≠ some (g, c))
    ∧ (∀ j, j ≠ g → t.group j = s.group j))

/-- R53 to R62: the format manager. A slot packet joins its partition's list and begins when the list was empty; the image of
a bind is checked and the slot goes on by the result; a bind of a BOUND slot ends by whether the image's digest is the one the
slot holds; a bind whose packet its function's interface has lost reads nothing more (R469); an enable makes a core's replica
BOUND with one more GEN, a disable makes it DRAINING; a drain that nothing holds up empties every replica. The order of the
checks of a bind to a BOUND slot, and their statuses, are read by inference (log entry 41). -/
def Obligations.FormatSlotSteps : Prop :=
  (∀ (s : State) (hdr : PktHdr) (slot : BitVec 8) (image : Word) (q : Queue), alGet s.queues hdr.queue = some q →
    (s.part q.part).slotJobs = [] → q.part < 16 →
    exec (.fmtBind hdr slot image) s = .next (nextJobs (s.updPart q.part (fun p =>
      { p with slotJobs := p.slotJobs ++ [⟨slot.toNat, false, image.toNat, hdr.queue, hdr.index, hdr, []⟩] })) q.part)
    ∧ exec (.fmtRelease hdr slot) s = .next (nextJobs (s.updPart q.part (fun p =>
      { p with slotJobs := p.slotJobs ++ [⟨slot.toNat, true, 0, hdr.queue, hdr.index, hdr, []⟩] })) q.part))
  ∧ (∀ (s : State) (p slot : Nat) (j : FmtJob) (rest : List FmtJob), (s.part p).slotJobs = j :: rest → j.slot = slot →
    j.release = false → jobGone s j = false → ((s.part p).slot slot).state = .loading →
    exec (.fmtVerifyComplete p slot) s = .next (match checkImage s (queueCtx s j.queue) j.image (s.part p) with
      | (.wait none, t) => t.post (.fmtVerifyComplete p slot)
      | (.wait (some d), t) => (setSlotAll t p slot .loading (some ⟨d, 0, 0, 0, false⟩)).post (.fmtVerifyComplete p slot)
      | (.status c, t) => nextJobs (endJob (setSlotAll t p slot .empty none) p c) p
      | (.pass im, t) => passImage t p j im))
  ∧ (∀ (s : State) (p slot : Nat) (j : FmtJob) (rest : List FmtJob), (s.part p).slotJobs = j :: rest → j.slot = slot →
    j.release = false → jobGone s j = false → ((s.part p).slot slot).state = .bound →
    exec (.fmtVerifyComplete p slot) s = .next (match sameImage s (queueCtx s j.queue) j.image with
      | (none, t) => t.post (.fmtVerifyComplete p slot)
      | (some (.error c), t) => nextJobs (endJob t p c) p
      | (some (.ok d), t) =>
        nextJobs (endJob t p (if ((s.part p).slot slot).image.map (·.digest) = some d then 0 else 1)) p))
  ∧ (∀ (s : State) (p slot : Nat) (j : FmtJob) (rest : List FmtJob), (s.part p).slotJobs = j :: rest → j.slot = slot →
    j.release = false → jobGone s j = true →
    exec (.fmtVerifyComplete p slot) s = .next (nextJobs (endJob
      (if ((s.part p).slot slot).state = .loading then setSlotAll s p slot .empty none else s) p 7) p))
  ∧ (∀ (s : State) (p slot core : Nat) (j : FmtJob) (rest : List FmtJob), (s.part p).slotJobs = j :: rest →
    j.slot = slot → j.acks.contains core = true →
    (j.release = false → exec (.fmtSlotEnable p slot core) s
      = .next (ackCore (setReplica s p slot core (fun t => { t with state := .bound, gen := t.gen + 1 })) p core))
    ∧ (j.release = true → exec (.fmtSlotDisable p slot core) s
      = .next (ackCore (setReplica s p slot core (fun t => { t with state := .draining })) p core)))
  ∧ (∀ (s : State) (p slot : Nat) (j : FmtJob) (rest : List FmtJob), (s.part p).slotJobs = j :: rest → j.slot = slot →
    j.release = true → j.acks = [] → ((s.part p).slot slot).state = .draining → slotBusy s p slot = false →
    exec (.fmtDrainComplete p slot) s = .next (nextJobs (endJob (setSlotAll s p slot .empty none) p 0) p))

/-- R325, R327, R329, R330: the end of a code page's check, of an object's load, and of its draining. A page is copied from the
file image to its text address, and its digest decides: with its bytes' digest it is PRESENT, without it FAILED, and so where
a translation of the two is fatal (of the text address, log entry 133); while a page of memory is awaited the check comes
round again. A page that fails, alone or together with others being checked (log entry 117), revokes its object
once, naming the lowest of them; a load has the status of the first check that fails, or IMAGE_FAULT where a write is fatal
(log entry 134), or makes the object READY; an object that nothing uses any more is UNLOADED. -/
def Obligations.CodeObjectSteps : Prop :=
  (∀ (s t : State) (h page : Nat) (o : Obj), alGet s.objects h = some o → o.pages.getD page .absent = .loading →
    o.state ≠ .unloaded →
    (checkPage s h page o = (.wait, t) →
      exec (.codePageCheckComplete h page) s = .next (t.post (.codePageCheckComplete h page)))
    ∧ (checkPage s h page o = (.good, t) → exec (.codePageCheckComplete h page) s = .next (wakeAll (setPage t h page .present)))
    ∧ (checkPage s h page o = (.failed, t) → exec (.codePageCheckComplete h page) s = .next (failPages t h page o)))
  ∧ (∀ (s t u : State) (h page : Nat) (o : Obj) (v : Nat) (bad : Bool),
    let src : ReqInfo := ⟨o.ctx, .read, 8, none, pageAgent h page⟩
    let dst : ReqInfo := ⟨o.ctx, .exec, 8, none, pageAgent h page⟩
    let from_ := (o.image + o.textOff + 65536 * page) % 2 ^ 64
    let to_ := o.textVa + 65536 * page
    (∀ e, ctxRead s src from_ 65536 = (.error e, t) →
      checkPage s h page o = ((match e with
        | .fault _ => .wait
        | _ => .failed), t))
    ∧ (ctxRead s src from_ 65536 = (.ok (v, bad), t) →
      (∀ r, ctxWrite t dst to_ 65536 v = (.fault r, u) → checkPage s h page o = (.wait, u))
      ∧ (∀ c, ctxWrite t dst to_ 65536 v = (.fatal c, u) → checkPage s h page o = (.failed, u))
      ∧ (∀ a, ctxWrite t dst to_ 65536 v = (.ok a, u) →
        (Config.sm3 (bytesOf 65536 v) = o.digests.getD page 0 → checkPage s h page o = (.good, u))
        ∧ (Config.sm3 (bytesOf 65536 v) ≠ o.digests.getD page 0 → checkPage s h page o = (.failed, u)))))
  ∧ (∀ (t : State) (h page : Nat) (o : Obj),
    let u : State := { t with free := t.free + 1 }
    let others := (List.range o.pages.length).filter (fun k => k != page && o.pages.getD k .absent == .loading)
    let r := failingPages h o others u
    (Config.freeNat t.free % 2 = 0 → failPages t h page o = wakeAll (revoke (setPage u h page .failed) h page))
    ∧ (Config.freeNat t.free % 2 = 1 → failPages t h page o
        = wakeAll (revoke ((page :: r.1).foldl (fun s k => setPage s h k .failed) r.2) h (r.1.foldl min page)))
    ∧ (∀ k ∈ r.1, k ≠ page ∧ o.pages.getD k .absent = .loading) ∧ (others = [] → r = ([], u)))
  ∧ (∀ (s t : State) (h : Nat) (o : Obj), alGet s.objects h = some o → o.state = .loading →
    let p := s.part ((s.fn o.fn).part.getD 16)
    (loadCheck s h o p = (.wait, t) → exec (.objectLoadComplete h) s = .next (t.post (.objectLoadComplete h)))
    ∧ (∀ c, loadCheck s h o p = (.status c, t) → exec (.objectLoadComplete h) s = .next (endLoad t h o c))
    ∧ (∀ q ws, loadCheck s h o p = (.pass q ws, t) →
      ∀ u, (writeMany ⟨o.ctx, .write, 8, none, loadAgent h⟩ ws t = (none, u) →
          exec (.objectLoadComplete h) s = .next (endLoad u h q 0))
        ∧ (writeMany ⟨o.ctx, .write, 8, none, loadAgent h⟩ ws t = (some true, u) →
          exec (.objectLoadComplete h) s = .next (u.post (.objectLoadComplete h)))
        ∧ (writeMany ⟨o.ctx, .write, 8, none, loadAgent h⟩ ws t = (some false, u) →
          exec (.objectLoadComplete h) s = .next (endLoad u h o 9))))
  ∧ (∀ (s : State) (h : Nat) (o : Obj), alGet s.objects h = some o → o.state = .draining → drained s h = true →
    ∃ t, exec (.objectDrainComplete h) s = .next t
      ∧ alGet t.objects h = some { o with state := .unloaded, bound := [], ranges := [], pages := [] }
      ∧ (∀ j, j ≠ h → alGet t.objects j = alGet s.objects j)
      ∧ (∀ k line, o.textVa ≤ line.toNat → line.toNat < o.textVa + 65536 * o.pages.length →
          (t.core k).line line o.ctx = none)
      ∧ (∀ a, t.mem a = s.mem a))

/-! ### Contexts and queues (spec/23_contexts.md, spec/24_queues.md) -/

/-- R432: QPOST in one lane with no cause of its own: with room in the ring, the packets on their way to it counted, the
packet is taken and the lane advances; a full ring holds the lane. R201: the packet is in its ring once no link port
holds a write that its far side has not taken: WIDX rises, and the queue is looked at. R410, R411: CKPT of one lane writes 0 where no checkpoint is requested of its context, the
group's mode is not ordinary or its course is in HANDLER; else it writes 1, and its group and those halted with it are named
for a halt. -/
def Obligations.SystemInstructions : Prop :=
  (∀ (k : Ctl) (f : SYS) (s t : State) (x : View) (n h : Nat) (u : Queue), s.view = some x → x.only k n → x.has [14] →
    x.reach k [f.a.toNat] → (x.crs.lane n).tx.state ≠ .active →
    qpostCauses s x f.code.toNat (x.opd 64 n (.v f.a.toNat)).val.toNat = [] → s.queueOf f.code.toNat = some (h, u) →
    (u.room (s.postedTo h) = true →
      postPacket s x h u ⟨(x.opd 64 n (.v f.a.toNat)).val,
        (x.opd 64 n (.v f.a.toNat)).poison || (x.crs.lane n).guardP k⟩ = (.done [], t) →
      exec (.qpost k f) s = .next (flushPosts (afterIssue x t)))
    ∧ (u.room (s.postedTo h) = false → (portsBusy s = true ∨ s.posts = []) → x.sel.course < x.grp.courses.length → ∃ t, exec (.qpost k f) s = .next t
      ∧ (t.lane x.sel.grp x.sel.course n).hold = .qpost h
      ∧ (t.lane x.sel.grp x.sel.course n).pc = (x.crs.lane n).pc ∧ (∀ a, t.mem a = s.mem a)))
  ∧ (∀ (s : State) (p : PostedPacket) (q : Queue), (portsBusy s = true → flushPosts s = s)
    ∧ (portsBusy s = false → s.posts = [p] → flushPosts s = enterRing { s with posts := [] } p)
    ∧ (alGet s.queues p.queue = some q → q.state ≠ .destroyed →
      (∃ u, alGet (enterRing s p).queues p.queue = some u ∧ u.widx = q.widx + 1)
      ∧ (enterRing s p).agenda.getLast? = some (.queueMap q.part))
    ∧ (alGet s.queues p.queue = some q → q.state = .destroyed → enterRing s p = s))
  ∧ (∀ (k : Ctl) (f : SYS) (s : State) (x : View) (n : Nat), s.view = some x → x.only k n → x.has [15] →
    x.reach k (dstOf f.dcls f.d).vregs → (x.crs.lane n).tx.state ≠ .active →
    let ckreq := ((alGet s.ctxs (s.groupCtx x.grp)).map (·.ckreq)).getD false
    let out (v : Word) : State :=
      if f.dcls = 0 then afterIssue x (putRegs x s [x.putV n f.d.toNat ⟨v, (x.crs.lane n).guardP k⟩])
      else (afterIssue x s).updCourse x.sel.grp x.sel.course (fun c => c.setS f.d.toNat ⟨v, (x.crs.lane n).guardP k⟩)
    ((ckreq = false ∨ x.grp.mode ≠ .ordinary ∨ x.crs.trap = .handler) → exec (.ckpt k f) s = .next (out 0))
    ∧ (ckreq = true → x.grp.mode = .ordinary → x.crs.trap ≠ .handler →
      let t := out 1
      exec (.ckpt k f) s = .next (requestHalt (t.updGroup x.sel.grp (fun g => { g with tag := f.code }))
        (haltUnit t x.sel.grp) .command)))

/-- R399, R400: the context commands of a function that takes them, on a context in a state that allows them: each has
its effect and ends with its status; LOAD_OBJECT stays BUSY until the load ends. R397, R399: CREATE of a context from
a sound descriptor in host memory whose CTXID is not in use: the context exists in CREATED, as the descriptor gives
it, and the command ends with OK. -/
def Obligations.ContextCommands : Prop :=
  (∀ (s : State) (fn i : Nat) (id : BitVec 16) (c : Ctx), CtxReady s fn → findCtx s fn id.toNat = some (i, c) →
    (c.state ≠ .destroyed → exec (.ctxDestroy fn id) s = .next (endCtxOk (destroyCtx (beginCtx s fn id 2) i) fn i))
    ∧ ((c.state = .created ∨ c.state = .active) →
      ∃ t o, exec (.loadObject fn id) s = .next t ∧ alGet t.objects s.nextReq = some o ∧ o.state = .loading ∧ o.ctx = i
        ∧ o.fn = fn ∧ o.image = (s.fn fn).ctxArg.toNat ∧ o.handle = (s.fn fn).handles % 65536
        ∧ (t.fn fn).ctxStat = ⟨id, BitVec.ofNat 16 o.handle, true, 0, 3⟩
        ∧ t.agenda = s.agenda ++ [.objectLoadComplete s.nextReq] ∧ (∀ a, t.mem a = s.mem a))
    ∧ (∀ h o, (c.state = .created ∨ c.state = .active ∨ c.state = .saved) →
      findObj s i (s.fn fn).ctxArg.toNat = some (h, o) → o.state ≠ .draining →
      exec (.unloadObject fn id) s = .next
        ((endCtxOk ((beginCtx s fn id 4).updObj h (fun o => { o with state := .draining })) fn i).post
          (.objectDrainComplete h)))
    ∧ (c.state = .active →
      (let u := setCtxState (beginCtx s fn id 5) i .saving
       let v := (queuesWhere u (fun q => q.ctx == i)).foldl suspendQueue u
       let hs := ((v.ctxGroups i).filter (fun e => e.2.state != .saved)).map (·.1)
       exec (.save fn id) s = .next (saveCheck (if hs.isEmpty then v else requestHalt v hs .command) i))
      ∧ exec (.checkpoint fn id) s
        = .next (endCtxOk ((beginCtx s fn id 7).updCtx i (fun c => { c with ckreq := true })) fn i))
    ∧ ((c.state = .saved ∨ c.state = .active) →
      let u := wakeSaved ((beginCtx s fn id 6).updCtx i (fun c => { c with ckreq := false })) i
      let v := setCtxState (setCtxState u i .restoring) i .active
      let w := if c.state = .saved then (queuesWhere v (fun q => q.ctx == i)).foldl resumeQueue v else u
      let y := (w.launches.filter (fun l => l.2.ctx == i && !l.2.done)).foldl (fun s l => s.postOnce (.rresGrant l.1)) w
      exec (.restore fn id) s = .next (endCtxOk (y.postOnce (.groupPlace [])) fn i)))
  ∧ (∀ (s : State) (fn : Nat) (id : BitVec 16), CtxReady s fn →
    let d := s.host.read (s.fn fn).ctxArg.toNat 128
    (s.fn fn).ctxArg.toNat % 128 = 0 → fieldAt d 0 2 = id.toNat → findCtx s fn id.toNat = none → ctxDescOk d = true →
    saveAreaOk s (s.part ((s.fn fn).part.getD 16)) (fieldAt d 0x18 8) (fieldAt d 0x20 8) = true →
    ∃ t, exec (.ctxCreate fn id) s = .next t ∧ alGet t.ctxs s.nextReq = some (ctxOf fn d)
      ∧ (t.fn fn).ctxStat = ⟨id, 0, false, 0, 1⟩ ∧ (∀ a, t.mem a = s.mem a) ∧ t.groups = s.groups)

/-- R399, R400: a context command while one is BUSY is dropped. One on a CTXID that names no context ends with NO_CONTEXT, and
one on a context whose state does not allow it with BAD_STATE, or with the SAVE_FAULT that is owed to it (R402). CREATE ends with
BAD_DESC for an address or a CTXID that is not the descriptor's, with CTX_EXISTS for a CTXID in use, then with BAD_DESC for a
descriptor or a save area that breaks R397. Of that order R399 gives only the CTXID's mismatch before CTX_EXISTS, and the rest is
read by inference (log entry 49). UNLOAD_OBJECT ends with NO_OBJECT for a handle that names no object of the context. None of
these changes a group. -/
def Obligations.ContextCommandRefusals : Prop :=
  ∀ (s : State) (fn : Nat) (id : BitVec 16),
    let cmds : List (Instr × BitVec 8 × List CtxState) :=
      [(.ctxDestroy fn id, 2, [.created, .active, .saving, .saved, .restoring, .faulted]),
       (.loadObject fn id, 3, [.created, .active]), (.unloadObject fn id, 4, [.created, .active, .saved]),
       (.save fn id, 5, [.active]), (.restore fn id, 6, [.active, .saved]), (.checkpoint fn id, 7, [.active])]
    ((s.fn fn).ctxStat.busy = true → (∀ e ∈ cmds, exec e.1 s = .next s) ∧ exec (.ctxCreate fn id) s = .next s)
    ∧ (CtxReady s fn → ∀ e ∈ cmds,
      (findCtx s fn id.toNat = none → ∃ t, exec e.1 s = .next t ∧ (t.fn fn).ctxStat = ⟨id, 0, false, 2, e.2.1⟩
        ∧ t.groups = s.groups ∧ t.ctxs = s.ctxs)
      ∧ (∀ i c, findCtx s fn id.toNat = some (i, c) → c.state ∉ e.2.2 →
        ∃ t, exec e.1 s = .next t ∧ (t.fn fn).ctxStat = ⟨id, 0, false, if c.saveFault then 4 else 3, e.2.1⟩
          ∧ t.groups = s.groups ∧ (c.saveFault = false → t.ctxs = s.ctxs)))
    ∧ (CtxReady s fn → ∀ i c, findCtx s fn id.toNat = some (i, c) → c.state ∈ [.created, .active, .saved] →
      findObj s i (s.fn fn).ctxArg.toNat = none →
      ∃ t, exec (.unloadObject fn id) s = .next t ∧ (t.fn fn).ctxStat = ⟨id, 0, false, 7, 4⟩ ∧ t.groups = s.groups
        ∧ t.ctxs = s.ctxs ∧ t.objects = s.objects)
    ∧ (CtxReady s fn →
      let d := s.host.read (s.fn fn).ctxArg.toNat 128
      let head := (s.fn fn).ctxArg.toNat % 128 = 0 ∧ fieldAt d 0 2 = id.toNat
      let used := ∃ i c, findCtx s fn id.toNat = some (i, c) ∧ c.state ≠ .destroyed
      let ends (status : BitVec 8) : Prop := ∃ t, exec (.ctxCreate fn id) s = .next t
        ∧ (t.fn fn).ctxStat = ⟨id, 0, false, status, 1⟩ ∧ t.groups = s.groups ∧ t.ctxs = s.ctxs
      (¬ head → ends 1) ∧ (head → used → ends 5)
      ∧ (head → ¬ used → (ctxDescOk d = false
          ∨ saveAreaOk s (s.part ((s.fn fn).part.getD 16)) (fieldAt d 0x18 8) (fieldAt d 0x20 8) = false) → ends 1))

/-- R401, R402, R426: a halt arrives at the groups it names, with the groups halted together with each; a halted group
of which nothing is outstanding is saved; pre-emption names the groups that make room for the most urgent unit. R309,
R401: the halt of a resident group that cannot retire: it is halting and its save is due; each lane that waits on a
barrier, a verdict or a grant waits on, every other hold of a lane ends with the lane at its instruction; no register
and no memory changes. -/
def Obligations.HaltSteps : Prop :=
  ((∀ (s : State) (hs : List Nat), let us := (hs.flatMap (haltUnit s)).eraseDups
    exec (.haltArrival hs) s = .next ((haltCtxs s us).foldl saveCheck (us.foldl haltGroup s)))
  ∧ (∀ (s : State) (h : Nat) (g : Group), s.group h = some g → g.state = .resident → g.halting = true →
    saveReady s h g = true → exec (.saveComplete h) s = .next (completeSave s h))
  ∧ (∀ (s : State) (p h : Nat) (hs : List Nat), haltsOpen s p = false → preemptChoice s p = some (h, hs) →
    exec (.preemptRequest p) s
      = .next (requestHalt (s.updPart p (fun q => { q with waiting := some h })) hs .preempt)))
  ∧ (∀ (s : State) (h k : Nat) (g : Group), s.group h = some g → g.state = .resident → g.halting = false → g.core = some k →
    (s.core k).matQ = [] → retireNow s h = none → (∀ c, c < g.courses.length → ∀ n, n < 32 → ((g.course c).lane n).tx.state ≠ .active) →
    ∃ u, (haltGroup s h).group h = some u ∧ u.halting = true
      ∧ (∀ c n, c < g.courses.length → n < 32 →
        ((u.course c).lane n).hold = (match ((g.course c).lane n).hold with
          | .barrier b t => .barrier b t
          | .txend => .txend
          | .rresGranted a r => .rresGranted a r
          | _ => .none)
        ∧ { (u.course c).lane n with hold := .none } = { (g.course c).lane n with hold := .none })
      ∧ (haltGroup s h).agenda
        = (s.postOnce (.rresGrant g.launch)).agenda
          ++ [.matrixEntryStart k, .matrixEntryStart (Nat.xor k 1), .saveComplete h]
      ∧ (∀ a y, ((haltGroup s h).mem a).byte y = (s.mem a).byte y))

/-- R412, R413, R415: the queue commands of a function that takes them. CREATE makes a queue as its descriptor gives
it; DESTROY ends one in any state; CLEAR lets a queue in ERROR take packets again. R414, R416: a notify write of a
queue of its function advances WIDX, if no further than the ring holds; a value past it fails the queue; the sequencer
unmaps idle queues, has those that keep their threads look at what came, and gives its threads to the queues that wait. -/
def Obligations.QueueCommands : Prop :=
  ((∀ (s : State) (fn : Nat) (id : BitVec 16), QueueReady s fn → (s.fn fn).qArg.toNat % 64 = 0 →
    let d := s.host.read (s.fn fn).qArg.toNat 64
    fieldAt d 0 2 = id.toNat → s.queueOf id.toNat = none → queueDescOk (beginQ s fn id 1) fn d = true →
    let u := beginQ s fn id 1
    exec (.qCreate fn id) s = .next (endQ (suspendQueue
      { u with queues := alSet u.queues u.nextReq (queueOfDesc u fn d), nextReq := u.nextReq + 1 } u.nextReq) fn 0))
  ∧ (∀ (s : State) (fn h : Nat) (id : BitVec 16) (q : Queue), QueueReady s fn →
    findQueue s fn id.toNat = some (h, q) →
    (q.state ≠ .destroyed → exec (.qDestroy fn id) s = .next (endQ (destroyQueue (beginQ s fn id 2) h) fn 0))
    ∧ (q.state = .error →
      let u := (beginQ s fn id 3).updQueue h (fun q => { q with state := .unmapped, waitSince := s.time })
      exec (.qClear fn id) s = .next (endQ (suspendQueue (if q.widx = q.ridx then u else mapQueue u h) h) fn 0))))
  ∧ ((∀ (s : State) (fn h : Nat) (id : BitVec 16) (w : BitVec 32) (q : Queue) (tb : Bool),
    s.queueOf id.toNat = some (h, q) → q.fn = fn → q.devq = false → mmioReaches s fn tb = true →
    ((w - q.ridx).toNat ≤ q.size → exec (.notifyWrite fn id ⟨w, tb⟩) s = .next ((s.updQueue h (fun q => { q with
      widx := w, waitSince := if q.widx = q.ridx then s.time else q.waitSince })).post (.queueMap q.part)))
    ∧ (q.size < (w - q.ridx).toNat → q.state ≠ .error →
      exec (.notifyWrite fn id ⟨w, tb⟩) s = .next (failQueue s h (cplWord q.ridx 0 0x0C) 0)))
  ∧ (∀ (s : State) (p : Nat),
    let u := lookMapped (unmapIdle s p) p
    exec (.queueMap p) s = .next ((threadQueue u p).foldl mapQueue u)))

/-- R414, R419, R421: the thread of a MAPPED queue takes the packet at RIDX. A poisoned one completes with POISON, one that
fails a check with BAD_PACKET; one that must follow the packets before it waits for them; a LAUNCH_GRAPH is checked first;
any other starts, and the thread goes on. -/
def Obligations.PacketsStart : Prop :=
  (∀ (s t : State) (h v : Nat) (q : Queue) (p : Bool), alGet s.queues h = some q → q.state = .mapped → q.thread = true →
    q.launching = false → q.reaches = true → q.rptrDue = none → q.widx ≠ q.ridx →
    ctxRead s (seqReq q .read (ringAgent h)) ((q.ringVa + 64 * (q.ridx.toNat % max 1 q.size)) % 2 ^ 64) 64
      = (.ok (v, p), t) →
    exec (.packetStart h) s = .next (takePacket t h q v p))
  ∧ (∀ (s : State) (h v : Nat) (q : Queue) (r : Bool),
    let hdr := hdrOf h q.ridx v
    let kind := BitVec.ofNat 8 (fieldAt v 0 1)
    let p := r || q.poisoned.contains q.ridx
    (p = true → takePacket s h q v r = refusePacket s h hdr kind 0x0A)
    ∧ (p = false → packetOk v = false → takePacket s h q v r = refusePacket s h hdr kind 1)
    ∧ (p = false → packetOk v = true → (hdr.flags.getLsbD 0 = true ∨ 4 ≤ kind.toNat) → q.started ≠ [] →
        takePacket s h q v r = s)
    ∧ (p = false → packetOk v = true → (q.started = [] ∨ hdr.flags.getLsbD 0 = false) → kind = 1 →
        takePacket s h q v r = (s.updQueue h (fun q => { q with launching := true })).post (packetStep hdr v))
    ∧ (p = false → packetOk v = true → (q.started = [] ∨ (hdr.flags.getLsbD 0 = false ∧ kind.toNat < 4)) → kind ≠ 1 →
        takePacket s h q v r = ((startPacket s h hdr kind none).post (packetStep hdr v)).post (.packetStart h)))

/-- R422: the checks of a LAUNCH_GRAPH in their order: the first that fails completes the packet with its status, and a
launch that passes them all is accepted. -/
def Obligations.LaunchChecksInOrder : Prop :=
  ∀ (s : State) (hdr : PktHdr) (b : LaunchBody) (q : Queue), alGet s.queues hdr.queue = some q → q.launching = true →
    q.state = .mapped →
    (launchObject s q b = none → exec (.launchGraph hdr b) s = .next (refuseLaunch s hdr 2))
    ∧ (∀ h o n, launchObject s q b = some (h, o, n) →
      (slotsMatch (s.part q.part) o b.node.toNat = false → exec (.launchGraph hdr b) s = .next (refuseLaunch s hdr 3))
      ∧ (slotsMatch (s.part q.part) o b.node.toNat = true →
        (poolOk o n b = false → exec (.launchGraph hdr b) s = .next (refuseLaunch s hdr 4))
        ∧ (∀ k, poolOk o n b = true → o.kernel b.node.toNat = some k →
          let cohes := hdr.flags.getLsbD 2 || k.coresident || n.kind == .persistent
          (launchFits (s.part q.part) o n k b cohes = false →
            exec (.launchGraph hdr b) s = .next (refuseLaunch s hdr 5))
          ∧ (launchFits (s.part q.part) o n k b cohes = true →
            exec (.launchGraph hdr b) s = .next (acceptLaunch s q hdr b h o n cohes)))))

/-- R423: COPY and FILL of a packet in progress. With nothing left, and no link port holding a write that its far side has not
taken, the packet completes; COPY moves the bytes up to the next sector boundary of either range where its partition owns a
bulk copy engine (log entry 79), upward, or downward where the destination overlaps the source's end; FILL writes the bytes of
its pattern up to the next boundary; both come round again with what is left, and a fatal translation leaves nothing, but the
status FAULT for the completion. R424: WAIT_MEM of a packet in progress completes
where its word meets the condition, with the status, and blocks its queue where it does not; a retest or a poll ends the wait
with the status that a test has given, or tests again; the timeout ends it once its cycles are spent; SIGNAL_MEM writes its
value, or adds it with wrap, at the word's home, once no link port holds a posted write (R201, R465), and completes when the
port that carries it has it no more. R420, R427,
R428, R430: EVENT's event is due with the packet's completion, which submits it after the completion word; RESYNC writes its
summary, and its status says whether all of it fitted; a completion writes its word where the header asks for one, once no
link port holds such a write, and the packet leaves its queue. That a wait ends or is tested again in every state of its queue
is read by inference (log entry 67). -/
def Obligations.PacketActions : Prop :=
  (∀ (s : State) (hdr : PktHdr) (src dst len pat : Word), inProgress s hdr = true →
    (len = 0 → portsBusy s = false →
      let st := ((startedOf s hdr).bind (·.status)).getD 0
      exec (.copy hdr src dst len) s = .next (s.post (.packetComplete hdr.queue hdr.index st))
      ∧ exec (.fill hdr dst len pat) s = .next (s.post (.packetComplete hdr.queue hdr.index st)))
    ∧ (len = 0 → portsBusy s = true → exec (.copy hdr src dst len) s = .next (s.post (.copy hdr src dst len))
      ∧ exec (.fill hdr dst len pat) s = .next (s.post (.fill hdr dst len pat)))
    ∧ (len ≠ 0 → hasEngine s hdr = false →
      exec (.copy hdr src dst len) s = .next (s.post (.copy hdr src dst len))
      ∧ exec (.fill hdr dst len pat) s = .next (s.post (.fill hdr dst len pat)))
    ∧ (∀ t ps, len ≠ 0 → hasEngine s hdr = true → ¬(src < dst ∧ dst.toNat < src.toNat + len.toNat) →
      let m := min len.toNat (min (32 - src.toNat % 32) (32 - dst.toNat % 32))
      moveBytes s hdr src.toNat dst.toNat m = (.ok ps, t) →
      exec (.copy hdr src dst len) s = .next (t.post
        (.copy hdr (src + BitVec.ofNat 64 m) (dst + BitVec.ofNat 64 m) (BitVec.ofNat 64 (len.toNat - m)))))
    ∧ (∀ t ps, len ≠ 0 → hasEngine s hdr = true → src < dst → dst.toNat < src.toNat + len.toNat →
      let n := len.toNat
      let m := min n (min ((src.toNat + n - 1) % 32 + 1) ((dst.toNat + n - 1) % 32 + 1))
      moveBytes s hdr (src.toNat + n - m) (dst.toNat + n - m) m = (.ok ps, t) →
      exec (.copy hdr src dst len) s = .next (t.post (.copy hdr src dst (BitVec.ofNat 64 (n - m)))))
    ∧ (∀ t ps, len ≠ 0 → hasEngine s hdr = true →
      let m := min len.toNat (32 - dst.toNat % 32)
      ctxWrite s (bulkReq s hdr .write) dst.toNat m (fillBytes pat.toNat dst.toNat m) = (.ok ps, t) →
      exec (.fill hdr dst len pat) s = .next (t.post
        (.fill hdr (dst + BitVec.ofNat 64 m) (BitVec.ofNat 64 (len.toNat - m)) pat)))
    ∧ (∀ t c, len ≠ 0 → hasEngine s hdr = true →
      (¬(src < dst ∧ dst.toNat < src.toNat + len.toNat) →
        moveBytes s hdr src.toNat dst.toNat (min len.toNat (min (32 - src.toNat % 32) (32 - dst.toNat % 32))) = (.fatal c, t) →
        exec (.copy hdr src dst len) s
          = .next ((updStarted t hdr (fun e => { e with status := some 6 })).post (.copy hdr src dst 0)))
      ∧ (ctxWrite s (bulkReq s hdr .write) dst.toNat (min len.toNat (32 - dst.toNat % 32))
          (fillBytes pat.toNat dst.toNat (min len.toNat (32 - dst.toNat % 32))) = (.fatal c, t) →
        exec (.fill hdr dst len pat) s
          = .next ((updStarted t hdr (fun e => { e with status := some 6 })).post (.fill hdr dst 0 pat)))))
  ∧ ((∀ (s t : State) (hdr : PktHdr) (b : WaitBody) (q : Queue), inProgress s hdr = true → alGet s.queues hdr.queue = some q →
    (∀ st, readWait s q hdr b = (some (.error st), t) →
      exec (.waitMem hdr b) s = .next (t.post (.packetComplete hdr.queue hdr.index st)))
    ∧ (∀ place, readWait s q hdr b = (some (.ok place), t) →
      exec (.waitMem hdr b) s = .next (blockQueue t hdr.queue hdr b place)))
  ∧ (∀ (s : State) (h : Nat) (q : Queue) (x : Waiting), alGet s.queues h = some q → q.wait = some x →
    (∀ st, x.met = some st → exec (.waitMemRetest h) s = .next (endWait s h st)
      ∧ exec (.waitMemPoll h) s = .next (endWait s h st))
    ∧ (∀ st t, x.met = none → readWait s q x.hdr x.body = (some (.error st), t) →
      exec (.waitMemRetest h) s = .next (endWait t h st) ∧ exec (.waitMemPoll h) s = .next (endWait t h st))
    ∧ (x.body.timeout ≠ 0 → x.met = none → q.state = .blocked →
      x.body.timeout.toNat * 1024 ≤ x.spent + (s.seqCycle q.seq - x.since) →
      exec (.waitMemTimeout h) s = .next (endWait s h 7)))
  ∧ (∀ (s t : State) (hdr : PktHdr) (addr value : Word) (add wide : Bool) (q : Queue) (tgt : Tgt) (pa : Nat)
      (more : List (Tgt × Nat)), inProgress s hdr = true → alGet s.queues hdr.queue = some q →
    (startedOf s hdr).bind (·.signal) = none →
    let n := if wide then 8 else 4
    translateRange s (seqReq q .rw (packetAgent hdr.queue hdr.index)) addr.toNat n = (.ok ((tgt, pa) :: more), t) →
    portsBusy s = false → linkTrains t tgt = false → rejects t tgt pa = false →
    let u := (secWrites tgt (8 * pa) (8 * n) (((if add then t.load tgt pa n else 0) + value.toNat) % 256 ^ n) false).foldl
      (fun s w => s.sendWrite false w) (t.readAt tgt pa n)
    (portAtomic u tgt = false →
      exec (.signalMem hdr addr value add wide) s = .next (u.post (.packetComplete hdr.queue hdr.index 0)))
    ∧ (portAtomic u tgt = true → exec (.signalMem hdr addr value add wide) s = .next
      ((updStarted u hdr (fun e => { e with signal := some tgt })).post (.signalMem hdr addr value add wide))))
  ∧ (∀ (s : State) (hdr : PktHdr) (addr value : Word) (add wide : Bool) (q : Queue), inProgress s hdr = true →
    alGet s.queues hdr.queue = some q →
    ((startedOf s hdr).bind (·.signal) = none → portsBusy s = true →
      exec (.signalMem hdr addr value add wide) s = .next (s.post (.signalMem hdr addr value add wide)))
    ∧ (∀ t, (startedOf s hdr).bind (·.signal) = some t →
      exec (.signalMem hdr addr value add wide) s = .next (s.post (if portAtomic s t then .signalMem hdr addr value add wide
        else .packetComplete hdr.queue hdr.index 0)))))
  ∧ ((∀ (s : State) (hdr : PktHdr) (data : Word) (q : Queue), inProgress s hdr = true → alGet s.queues hdr.queue = some q →
    exec (.event hdr data) s = .next ((s.updQueue hdr.queue (fun q => { q with
      started := q.started.map (fun e => if e.index = hdr.index then { e with event := some data } else e) })).post
        (.packetComplete hdr.queue hdr.index 0)))
  ∧ (∀ (s : State) (h : Nat) (q : Queue) (e : Started) (st : BitVec 8), alGet s.queues h = some q → failing st = false →
    let u := { q with started := q.started.filter (fun x => x.index != e.index), lastStatus := st }
    let own (t : State) : State := match e.event with
      | some d => queueEvent t u 1 d e.hdr.tag
      | none => t
    let asked (t : State) : State :=
      if e.hdr.flags.getLsbD 1 then queueEvent t u 2 (cplWord e.index e.kind st) e.hdr.tag else t
    finishPacket s h e st false = ((asked (own (s.updQueue h (fun _ => u)))).postOnce (.packetStart h)).postOnce
      (.queueMap q.part))
  ∧ (∀ (s t : State) (hdr : PktHdr) (buf : Word) (len : BitVec 32) (q : Queue) (ps : List (Tgt × Nat)),
    inProgress s hdr = true → alGet s.queues hdr.queue = some q →
    let es := resyncEntries s q.fn
    let out := es.take ((len.toNat - 0xC0) / 16)
    ctxWrite s (seqReq q .write (packetAgent hdr.queue hdr.index)) buf.toNat (0xC0 + 16 * out.length)
      (packFields ((resyncHeader s q.fn, 0xC0) :: out.map (fun e => (e, 16)))) = (.ok ps, t) →
    exec (.resync hdr buf len) s = .next (t.post (.packetComplete hdr.queue hdr.index
      (if len.toNat < 0xC0 + 16 * es.length then 0x0B else 0))))
  ∧ (∀ (s : State) (h : Nat) (i : BitVec 32) (st : BitVec 8) (q : Queue) (e : Started), alGet s.queues h = some q →
    q.started.find? (fun e => e.index == i) = some e →
    ((e.hdr.cpl = 0 ∨ e.hdr.cpl.toNat % 8 ≠ 0) → exec (.packetComplete h i st) s = .next (finishPacket s h e st false))
    ∧ (e.hdr.cpl ≠ 0 → e.hdr.cpl.toNat % 8 = 0 → portsBusy s = true →
      exec (.packetComplete h i st) s = .next ((s.updQueue h (fun q => { q with
        started := q.started.map (fun x => if x.index = i then { x with status := some st } else x) })).post
          (.packetComplete h i st)))
    ∧ (∀ t ps, e.hdr.cpl ≠ 0 → e.hdr.cpl.toNat % 8 = 0 → portsBusy s = false →
      ctxWrite s (seqReq q .write (wordAgent h i)) e.hdr.cpl.toNat 8 (cplWord i e.kind st).toNat = (.ok ps, t) →
      exec (.packetComplete h i st) s = .next (finishPacket t h e st false))))

/-- R425, R427, R429: an event's record goes to its function's ring and TAIL rises; a write of EVT_HEAD takes effect; a pause
suspends a VF's queues and its end resumes them; a function-level reset; a weight of zero stores one. -/
def Obligations.FunctionSteps : Prop :=
  (∀ (s : State) (p n : Nat) (e : Event) (rest : List Event), (s.part p).events = e :: rest → e.gen = (s.fn e.fn).gen →
    (s.fn e.fn).tdi ≠ .error → (s.fn e.fn).evtSize = some n → linkCarries s .host = true → linkTrains s .host = false →
    ((s.fn e.fn).evtTail - (s.fn e.fn).evtHead).toNat < n →
    let u := s.updPart p (fun q => { q with events := rest })
    exec (.eventRecordWrite p) s = .next (signalEvent ((u.store .host
      ((s.fn e.fn).evtBase.toNat / 4096 * 4096 + 32 * ((s.fn e.fn).evtTail.toNat % n)) 32 (e.filled u).bits).updFn e.fn
        (fun f => { f with evtTail := f.evtTail + 1 })) e.fn))
  ∧ (∀ (s : State) (fn : Nat) (v : Word), fn < 16 → takesMmio s fn = true →
    ∃ t, exec (.evtHeadWrite fn v) s = .next t ∧ (t.fn fn).evtHead = v ∧ (t.fn fn).msix0Busy = false
      ∧ (t.fn fn).evtTail = (s.fn fn).evtTail ∧ (∀ j, j ≠ fn → t.fn j = s.fn j) ∧ (∀ a, t.mem a = s.mem a))
  ∧ (∀ (s : State) (vf : Nat) (v : Word), 0 < vf → vf < 16 → s.boot.recovery = false →
    (tdiLocked s vf = false ∨ (s.fn vf).pause = v.getLsbD 0) →
    let u := s.updFn vf (fun f => { f with pause := v.getLsbD 0 })
    exec (.fnPauseWrite vf v) s = .next (if v.getLsbD 0 then (queuesWhere u (fun q => q.fn == vf)).foldl suspendQueue u
      else (queuesWhere u (fun q => q.fn == vf)).foldl resumeQueue (releaseHeld u vf)))
  ∧ (∀ (s : State) (fn : Nat), exec (.functionLevelReset fn) s = .next (resetFn s fn))
  ∧ (∀ (s : State) (p o : Nat) (v : Byte), p < 16 → (s.part p).state = .active → (s.part p).owners.contains o = true →
    s.boot.recovery = false → ∃ t, exec (.weightWrite p o v) s = .next t ∧ alGet (t.part p).weights o = some (if v = 0 then 1 else v.toNat)
      ∧ (∀ j, j ≠ o → alGet (t.part p).weights j = alGet (s.part p).weights j) ∧ (∀ j, j ≠ p → t.part j = s.part j))

/-! ### Page requests, ATS and invalidation (spec/21_pages.md) -/

/-- R388, R389: a waiting request gets a tag that no outstanding one of its ring has, and its entry goes to the ring, whose
TAIL moves on; a reply of RETRY or FAIL answers its request; a well-formed base write starts the ring again. R392 to R394: an
invalidation command joins its function's list and completes in order: what was translated before is performed, and one with
such an access logged through a walk that it covers, in a link port or on its way to a ring comes round again, but that a lane
which is held meanwhile has its transaction aborted (log entry 135); then no cached walk
it covers is left, the queues that wait at a word of its context find the word anew, and INV_DONE shows its SEQ; an ATS
completion that grants what a request needs answers it and is cached; a response of Success drops the cached page and answers,
one of failure answers with the fatal result, and a request that waits for an index may go out; an ATS invalidation, once what
was translated before has left the port, leaves no cached entry of its range. That TAIL wraps at the ring's size (log entry
72) and that a stage-2 command covers every partition (log entry 74) are read by inference. -/
def Obligations.PageRequests : Prop :=
  ((∀ (s : State) (fn stage tag : Nat) (r : PageReq), (ringReqs s fn stage).find? (fun r => r.tag.isNone) = some r →
    freeTag { s with free := s.free + 1 } fn stage (Config.freeNat s.free) = some tag →
    (s.fn fn).tdi ≠ .error → ((s.fn fn).ring stage).room = true → linkCarries s .host = true → linkTrains s .host = false →
    let ring := (s.fn fn).ring stage
    let u := { s with free := s.free + 1 }
    let v := u.paid r.payer fun u => u.store .host (ring.base.toNat / 4096 * 4096 + 32 * (ring.tail.toNat % ring.size)) 32
      (entryBits u r tag (ring.seq + 1))
    let w := updRing v fn stage
      (fun g => { g with tail := BitVec.ofNat 16 ((g.tail.toNat + 1) % g.size), seq := g.seq + 1 })
    let y := { w with reqs := w.reqs.map (fun (q : PageReq) => if q.id = r.id then { q with tag := some (BitVec.ofNat 12 tag) } else q) }
    exec (.prqEntryWrite fn stage) s = .next ((signalVector y fn 1).post (.prqEntryWrite fn stage)))
  ∧ (∀ (s : State) (fn stage free tag : Nat), freeTag s fn stage free = some tag →
    tag < 4096 ∧ ∀ r ∈ ringReqs s fn stage, ∀ t, r.tag = some t → t.toNat ≠ tag)
  ∧ (∀ (s : State) (fn stage : Nat) (value : Word) (r : PageReq), takesMmio s fn = true →
    (ringReqs s fn stage).find? (fun r => r.tag.map BitVec.toNat == some (value.toNat % 4096)) = some r →
    (value.toNat / 4096 = 0 → exec (.prqReply fn stage value) s
      = .next ((answer s r false).post (.prqEntryWrite fn stage)))
    ∧ (value.toNat / 4096 = 256 → exec (.prqReply fn stage value) s
      = .next ((answer s r true).post (.prqEntryWrite fn stage))))
  ∧ (∀ (s : State) (fn stage : Nat) (value : Word), fn < 16 → takesMmio s fn = true → value.toNat % 8 ≠ 7 →
    value.toNat % 4096 / 8 = 0 → (tdiLocked s fn = false ∨ value = ((s.fn fn).ring stage).base) →
    ∃ t, exec (.prqBaseWrite fn stage value) s = .next t
      ∧ (t.fn fn).ring stage = { (s.fn fn).ring stage with base := value, seq := 0 }
      ∧ t.agenda = s.agenda ++ [.prqEntryWrite fn stage] ∧ (∀ a, t.mem a = s.mem a)))
  ∧ ((∀ (s : State) (fn : Nat) (id seq : BitVec 16) (pages : BitVec 6), takesMmio s fn = true → fn < 16 →
    let c (kind ctx n : Nat) : InvCmd := ⟨kind, ctx, (s.fn fn).invAddr.toNat / 4096 * 4096, n, seq⟩
    let joined (c : InvCmd) : State := (s.updFn fn (fun f => { f with invs := f.invs ++ [c] })).post (.invComplete fn)
    exec (.invContextAll fn id seq) s = .next (joined (c 0 id.toNat 0))
    ∧ exec (.invContextRange fn id pages seq) s = .next (joined (c 1 id.toNat pages.toNat))
    ∧ (fn = 0 → exec (.invStage2All fn seq) s = .next (joined (c 2 0 0))
      ∧ exec (.invStage2Range fn pages seq) s = .next (joined (c 3 0 pages.toNat)))
    ∧ (fn ≠ 0 → exec (.invStage2All fn seq) s = .next (countPrqErr s fn 1)
      ∧ exec (.invStage2Range fn pages seq) s = .next (countPrqErr s fn 1)))
  ∧ (∀ (s : State) (fn : Nat) (c : InvCmd) (rest : List InvCmd), fn < 16 → (s.fn fn).invs = c :: rest →
    let mine (g : Group) : Bool := decide (2 ≤ c.kind) || groupFn s g == fn
    let r := fixWhere (drainWhere s mine) mine
    let walks (g : Group) : Bool := invMeets r fn c (r.groupCtx g)
    let u := abortHeldLogs r walks (invPages r fn c)
    (invWaits u walks (invPages r fn c) = true → exec (.invComplete fn) s = .next (u.post (.invComplete fn)))
    ∧ (invWaits u walks (invPages r fn c) = false →
      let v : State := { u with parts := Vector.ofFn (fun i : Fin 16 =>
        let p := u.parts[i.val]'i.isLt
        { p with tlb := p.tlb.filter (fun e => !invCovers u fn c e) }) }
      (exec (.invComplete fn) s = .next
        (((v.queues.filter (fun e => e.2.state != .destroyed && invMeets v fn c e.2.ctx)).foldl watchAgain v).updFn fn
          (fun f => { f with invs := rest, invDone := c.seq })))
      ∧ (∀ p, p < 16 → ∀ e, e ∈ (v.part p).tlb ↔ e ∈ (u.part p).tlb ∧ invCovers u fn c e = false)
      ∧ (v.queues = [] → ∃ t, exec (.invComplete fn) s = .next t ∧ (t.fn fn).invDone = c.seq ∧ (t.fn fn).invs = rest
        ∧ (∀ p, p < 16 → (t.part p).tlb = (v.part p).tlb))
      ∧ (s.groups = [] → (∀ a, v.mem a = s.mem a) ∧ ∀ p, p < 16 → (u.part p).tlb = (s.part p).tlb)))
  ∧ (∀ (s : State) (fn : Nat) (addr : Word) (pasid : BitVec 20) (at_ : Word), (s.fn fn).ats = true →
    let rest := (s.fn fn).atc.filter (fun x => !(x.page == addr.toNat / 4096 && x.pasid == pasid))
    let u := s.updFn fn (fun f => { f with
      atc := AtcEntry.mk (addr.toNat / 4096) pasid (at_.toNat / 4096) true true :: rest })
    exec (.atsCompletion fn addr pasid true true at_) s
      = .next ((atsReqs s fn (addr.toNat / 4096) pasid).foldl (fun s r => answer s r false) u)
    ∧ exec (.atsCompletion fn addr pasid false false at_) s
      = .next ((atsReqs s fn (addr.toNat / 4096) pasid).foldl (fun s r =>
          if (r.need.getLsbD 0 || r.need.getLsbD 1 || r.need.getLsbD 2) = true then (if r.pri.isNone then raisePri s r else s)
          else answer s r false) s))
  ∧ (∀ (s : State) (fn : Nat) (i : BitVec 9) (r : PageReq),
    s.reqs.find? (fun r => r.fn == fn && r.stage == 3 && r.pri == some i) = some r →
    exec (.prgResponse fn i 0) s = .next (sendPris (answer (s.updFn fn (fun f => { f with
      atc := f.atc.filter (fun x => !(x.page == r.addr / 4096 && x.pasid == r.pasid)) })) r false) fn)
    ∧ exec (.prgResponse fn i 1) s = .next (sendPris (answer s r true) fn)
    ∧ exec (.prgResponse fn i 15) s = .next (sendPris (answer s r true) fn))
  ∧ (∀ (s : State) (fn n : Nat) (addr : Word), fn < 16 →
    ((linkTrains s .host = true ∨ s.posts ≠ []) →
      exec (.atsInvalidateRequest fn addr n) s = .next (s.post (.atsInvalidateRequest fn addr n)))
    ∧ (linkTrains s .host = false → s.posts = [] → ∃ t, exec (.atsInvalidateRequest fn addr n) s = .next t
      ∧ (∀ e ∈ (t.fn fn).atc, e.page < addr.toNat / 4096 ∨ addr.toNat / 4096 + n ≤ e.page)
      ∧ (s.groups = [] → (∀ a, t.mem a = s.mem a) ∧ ∀ e ∈ (s.fn fn).atc,
        e.page < addr.toNat / 4096 ∨ addr.toNat / 4096 + n ≤ e.page → e ∈ (t.fn fn).atc))))

/-! ### The security processor (spec/26_partitions.md) -/

/-- R438, R439, R441 to R452, R456, R457: the ten commands, each with its body rules in their order and its effect. R448: an
epoch of a slice that two or more partitions share moves at most one way, between two of its owners, and the slice's total
stays; its next epoch follows, and every other slice is as before. SHRINK's statuses (log entry 77), the packets that DESTROY
drops (log entry 80), the slot jobs waited for (log entry 81) and the page requests a recall leaves (log entry 136) are read
by inference. -/
def Obligations.SecurityCommands : Prop :=
  (SpCommand .partCreate 1
    (fun s d => whenBad (!createShape s d (partDescOf d)) 1 (whenBad ((s.part (partDescOf d).pid).state != .free) 6
      (whenBad (ownedAlready s (partDescOf d)) 5 none)))
    (fun s d => grantPartition s d (partDescOf d))
    (fun _ s d => some (((partDescOf d).cores.foldl (fun t k => initCore t freshSlots emptyBank none k) s).updPart
      (partDescOf d).pid (fun p => { p with state := .active })))
  ∧ SpCommand .partDestroy 2
    (fun s d => whenBad (decide (16 ≤ fieldAt d 0 1) || fieldAt d 1 15 != 0) 1
      (whenBad ((s.part (fieldAt d 0 1)).state != .active) 6 none))
    (fun s d => endPartition s (fieldAt d 0 1))
    (fun _ s d =>
      let ks := loanedCores s (fieldAt d 0 1)
      if coresEmpty s ks && packetsDone s (fun q => q.part == fieldAt d 0 1) then
        some (freePartition (ks.foldl returnCore s) (fieldAt d 0 1)) else none)
  ∧ SpCommand .partGrow 3
    (fun s d => whenBad (!changeShape d (partDescOf d) || !resourcesLive s (partDescOf d)) 1
      (whenBad ((s.part (partDescOf d).pid).state != .active) 6 (whenBad (ownedAlready s (partDescOf d)) 5 none)))
    (fun s _ => s)
    (fun _ s d =>
      let x := partDescOf d
      if (s.part x.pid).slotJobs = [] then
        let t := x.cores.foldl (fun t k => initCore t (s.part x.pid).slots emptyBank none k) s
        let t := t.updPart x.pid (fun p => { p with
          cores := addAll p.cores x.cores, engines := addAll p.engines x.engines, seqs := addAll p.seqs x.seqs
          ports := addAll p.ports x.ports, funcs := addAll p.funcs x.funcs, owners := addAll p.owners x.owners
          weights := p.weights.filter (fun w => !x.owners.contains w.1) })
        some (((foldBody (x.funcs.foldl (fun t f => setFnPart t f (some x.pid)) t) x.pid d).postOnce
          (.groupPlace [])).postOnce (.queueMap x.pid))
      else none)
  ∧ SpCommand .partShrink 4
    (fun s d =>
      let x := partDescOf d
      whenBad (!changeShape d x) 1 (whenBad ((s.part x.pid).state != .active) 6
        (whenBad (x.owners.contains (s.part x.pid).hostOwner) 1
          (whenBad (!ownsAll (s.part x.pid) x || x.cores.any (fun k => (s.core k).lentTo.isSome)
            || ownersBusy s x.pid x.owners) 5 none))))
    (fun s d =>
      let x := partDescOf d
      (x.funcs.foldl removeFn (dropSeqs (vacate s x.pid x.cores) x.pid x.seqs)).updPart x.pid (fun p => { p with
        ports := dropAll p.ports x.ports, funcs := dropAll p.funcs x.funcs, owners := dropAll p.owners x.owners
        weights := p.weights.filter (fun w => !x.owners.contains w.1) }))
    (fun _ s d =>
      let x := partDescOf d
      if shrinkDone s x then some ((foldBody ((x.funcs.foldl leaveFn (x.cores.foldl (releaseCore x.pid) s)).updPart x.pid
          (fun p => { p with
            cores := dropAll p.cores x.cores
            leaving := dropAll p.leaving x.cores
            engines := dropAll p.engines x.engines })) x.pid d).postOnce (.groupPlace []))
      else none)
  ∧ SpCommand .shareSet 5
    (fun s d => whenBad (!shareOk s d) 1 (whenBad (s.shares.any (fun e => e.slice == fieldAt d 0 2
      && e.owners.any (fun o => (s.part o.1).state != .active))) 6 none))
    (fun s _ => s)
    (fun _ s d => some { s with shares := s.shares.map (fun e => if e.slice = fieldAt d 0 2 then
      { e with owners := e.owners.map (fun o => (o.1, (sharePair d o.1).1, (sharePair d o.1).2, o.2.2.2)) } else e) })
  ∧ SpCommand .lend 6
    (fun s d =>
      let p := fieldAt d 0 1
      let b := fieldAt d 1 1
      whenBad (decide (16 ≤ p) || decide (16 ≤ b) || fieldAt d 2 14 != 0) 1
        (whenBad ((s.part p).state != .active || (s.part b).state != .active || b == p) 6
          (whenBad (!(bodyCores d).all (fun k => (s.part p).cores.contains k && (s.core k).lentTo.isNone)) 5 none)))
    (fun s d => vacate s (fieldAt d 0 1) (bodyCores d))
    (fun _ s d =>
      let p := fieldAt d 0 1
      let b := fieldAt d 1 1
      let ks := bodyCores d
      if vacated s p ks ∧ (s.part b).slotJobs = [] then
        some (((ks.foldl (fun t k => initCore t (t.core k).home (t.part b).slots (some b) k) s).updPart p
          (fun q => { q with leaving := q.leaving.filter (fun k => !ks.contains k) })).postOnce (.groupPlace []))
      else none)
  ∧ SpCommand .recall 7
    (fun s d =>
      let p := fieldAt d 0 1
      whenBad (decide (16 ≤ p) || fieldAt d 1 15 != 0) 1 (whenBad ((s.part p).state != .active) 6
        (whenBad (!(bodyCores d).all (fun k => (s.part p).cores.contains k && (s.core k).lentTo.isSome)) 5 none)))
    (fun s d => recallGroups s (bodyCores d))
    (fun _ s d => if coresEmpty s (bodyCores d) then some ((bodyCores d).foldl returnCore s) else none)
  ∧ SpCommand .keyEnroll 8
    (fun s d =>
      let p := s.part (fieldAt d 0 1)
      whenBad (decide (16 ≤ fieldAt d 0 1) || decide (2 ≤ fieldAt d 1 1) || fieldAt d 2 14 != 0) 1
        (whenBad (p.state != .active) 6
          (whenBad (decide (8 ≤ (if fieldAt d 1 1 = 0 then p.formatKeys else p.codeKeys).length)) 1 none)))
    (fun s _ => s)
    (fun _ s d => some (s.updPart (fieldAt d 0 1) (fun p =>
      if fieldAt d 1 1 = 0 then { p with formatKeys := p.formatKeys ++ [Config.sm3 (bytesOf 64 (fieldAt d 0x10 64))] }
      else { p with codeKeys := p.codeKeys ++ [Config.sm3 (bytesOf 64 (fieldAt d 0x10 64))] })))
  ∧ SpCommand .meterReport 9
    (fun _ d => whenBad (fieldAt d 0xC 4 != 0 || decide (fieldAt d 8 4 < 192 + 48 * (bitmap d 0x10 32).length)) 1 none)
    (fun s _ => s)
    (fun fn s d =>
      let t := settleMeters s
      let bs := reportBytes t t.spSeq.toNat (fieldAt d 0x30 32) (bitmap d 0x10 32)
      some (if (t.fn fn).tdi = .error then t else t.store .host (fieldAt d 0 8) (bs.length + 64)
        (natOfBytes (bs ++ Config.sm2Sign (attestKey t) (Config.sm3 bs)))))
  ∧ SpCommand .meterSeed 10
    (fun _ d => whenBad (fieldAt d 1 15 != 0 || fieldAt d 0x38 8 != 0) 1 none)
    (fun s _ => s)
    (fun _ s d =>
      let t := settleMeters s
      some (t.setMeter (fieldAt d 0 1) ((List.range 5).foldl (fun (m : Meter) k =>
        m.seed k (BitVec.ofNat 64 (fieldAt d (0x10 + 8 * k) 8))) (t.meter (fieldAt d 0 1))))))
  ∧ (∀ (s : State) (k : Nat) (e : SliceShare), s.shares.find? (fun e => e.slice == k) = some e → 2 ≤ e.owners.length →
    (e.owners.map (·.1)).Nodup →
    ∃ t, exec (.wayMoveEpoch k) s = .next t ∧ t.agenda = s.agenda ++ [.wayMoveEpoch k]
      ∧ (t.shares = s.shares ∨ ∃ a b, a ≠ b
          ∧ ((moveWay e.owners a b).map (·.2.2.2)).sum = (e.owners.map (·.2.2.2)).sum
          ∧ t.shares = s.shares.map (fun x => if x.slice = k then { x with owners := moveWay x.owners a b } else x))
      ∧ (∀ a, t.mem a = s.mem a) ∧ t.groups = s.groups)

/-! ### Links and accesses from outside (spec/27_links.md) -/

/-- R188, R191, R228, R444, R459, R464: an access of the host to its partition's memory is performed at the home, a read
answered with the bytes and the poison of each sector; one outside the partition's channels names no memory; one that PCIe
does not carry, and one of a peer that stage 2 does not grant, is answered as unsupported, and of a peer's write or reduction
then the sectors are counted as lost. The bytes of an access, a peer's rejected write among them, and the sectors of a peer's
stage-2 walk are charged to the partition's host owner (R454). -/
def Obligations.OutsideAccesses : Prop :=
  ∀ (s : State) (p port : Nat) (acc : HostAcc),
    let u := linkBytes s (accBytes acc)
    (acc.kind = .read → devicePlace (s.part p) acc.addr acc.size = true → exec (.hostAccess p acc) s = .next (reply
      (u.readAt .hbm acc.addr acc.size) ⟨false, s.hbm.read acc.addr acc.size, poisonMask s.hbm acc.addr acc.size⟩))
    ∧ (acc.kind = .write → devicePlace (s.part p) acc.addr acc.size = true →
      exec (.hostAccess p acc) s = .next (u.applyWrites (accWrites acc acc.addr)))
    ∧ (∀ op ty, acc.kind = .atomic op ty true → accPcieOk acc = true →
      devicePlace (s.part p) acc.addr (atomBits ty / 8) = true →
      let r := accAtomic u (AtomOp.ofCode op) ty acc acc.addr
      exec (.hostAccess p acc) s = .next (reply r.2
        ⟨false, s.hbm.read acc.addr (atomBits ty / 8), if s.hbm.isPoisoned (acc.addr / 32) = true then 1 else 0⟩))
    ∧ (accPcieOk acc = false → exec (.hostAccess p acc) s = .next (reply s ⟨true, 0, 0⟩))
    ∧ (accPcieOk acc = true → devicePlace (s.part p) acc.addr (accBytes acc) = false →
      exec (.hostAccess p acc) s = .fault .noSuchAddress)
    ∧ (s.boot.peer.getLsbD port = true → ((s.port port).state = .up ∨ (s.port port).state = .degraded) →
      let v := ((portOwner s port).map (fun i => peerWalk s (s.part i) acc)).getD s
      (∀ pa, (portOwner s port).bind (fun i => peerPlace s (s.part i) acc) = some pa →
        exec (.peerRequestReceive port acc) s
          = .next (replyPeer (performAccess v acc pa).2 port ((performAccess v acc pa).1.getD ⟨false, 0, 0⟩)))
      ∧ ((portOwner s port).bind (fun i => peerPlace s (s.part i) acc) = none →
        let w := if acc.kind = .read then v else linkBytes v (accBytes acc)
        exec (.peerRequestReceive port acc) s = .next (replyPeer (if accWantsValue acc then w
          else addLost w port (accSectors acc)) port ⟨true, 0, 0⟩)))

/-- R461 to R466: the states of a port. A reset by the owner takes it DOWN; a partner found starts training; eight
good lanes give UP, four a DEGRADED peer link, and a third failed attempt or a timeout gives ERROR; loss of signal
gives DOWN and another failure of a link in use retrains it. R463: the next flit is accepted, one already seen is
discarded, any other retrains the link; one that fails its check is replayed, and the 64th replay retrains; the flits that a
flit acknowledges leave the replay buffer and are taken at the far side, and those that wait for room are sent. R471 to
R474: a DUMP_CMD of the PF on a link that is UP, with no TDI locked, starts a dump; a step of it goes on with the partition's image, and the step after the last sector ends it. -/
def Obligations.LinkStatesAndDumps : Prop :=
  ((∀ (s : State) (p k : Nat), (s.fn 0).part = some p → (s.part p).ports.contains k = true → k < 12 →
    s.boot.recovery = false → exec (.lnkReset 0 k) s = .next (linkDown s k))
  ∧ (∀ (s : State) (k : Nat) (remote : BitVec 4), portOn s k = true → (s.port k).state = .down →
    exec (.partnerDetect k remote) s = .next (setLink s k .training (fun p => { p with
      remote := if s.boot.peer.getLsbD k then remote.setWidth 8 else 0, attempts := 0, tries := 0 })))
  ∧ (∀ (s : State) (k n : Nat), (s.port k).state = .training →
    (8 ≤ n → exec (.trainingComplete k n) s = .next (
      let t := setLink s k .up (fun p => { p with width := 8 })
      if isPrimary t k then hostBack t else t))
    ∧ (4 ≤ n → n < 8 → s.boot.peer.getLsbD k = true →
      exec (.trainingComplete k n) s = .next (setLink s k .degraded (fun p => { p with width := 4 })))
    ∧ ((n < 4 ∨ (n < 8 ∧ s.boot.peer.getLsbD k = false)) →
      exec (.trainingComplete k n) s = .next (failAttempt s k))
    ∧ exec (.trainingTimeout k) s = .next (linkError s k))
  ∧ (∀ (s : State) (k : Nat), ((s.port k).state = .up ∨ (s.port k).state = .degraded) →
    exec (.linkFailure k true) s = .next (linkDown s k) ∧ exec (.linkFailure k false) s = .next (linkRetrain s k))
  ∧ (∀ (s : State) (pair : Nat), s.boot.pcie.getLsbD (2 * pair) = true → (s.port (2 * pair)).state = .up →
    exec (.pcieLinkDown pair) s = .next (linkDown s (2 * pair)))
  ∧ (∀ (s : State) (k : Nat) (seq ack : BitVec 12) (kind : BitVec 8), k < 12 → s.boot.peer.getLsbD k = true →
    ((s.port k).state = .up ∨ (s.port k).state = .degraded) →
    (seq = (s.port k).recvSeq → exec (.flitReceive k seq ack kind true) s = .next (ackFlits (s.updPort k (fun q =>
      { q with recvSeq := seq + 1, tries := if kind = 0 then q.tries else 0 })) k ack))
    ∧ (seq ≠ (s.port k).recvSeq → ((s.port k).recvSeq - seq).toNat ≤ 1024 →
      exec (.flitReceive k seq ack kind true) s = .next (ackFlits s k ack))
    ∧ (1024 < ((s.port k).recvSeq - seq).toNat → exec (.flitReceive k seq ack kind true) s = .next (linkRetrain s k))
    ∧ ((s.port k).tries < 63 → exec (.flitReceive k seq ack kind false) s = .next (s.updPort k countReplay))
    ∧ (63 ≤ (s.port k).tries →
      exec (.flitReceive k seq ack kind false) s = .next (linkRetrain (s.updPort k countReplay) k)))
  ∧ (∀ (s : State) (k : Nat) (ack : BitVec 12), k < 12 →
    ((∀ f ∈ (s.port k).replay, f.seq ≠ ack) → ackFlits s k ack = s)
    ∧ (∀ (old rest : List Flit) (f : Flit), (s.port k).replay = old ++ f :: rest → f.seq = ack → (∀ g ∈ old, g.seq ≠ ack) →
      ackFlits s k ack = ((old ++ [f]).foldl deliverFlit
        (s.updPort k (fun p => { p with replay := rest, tries := 0 }))).updPort k Port.send)))
  ∧ ((∀ (s : State) (k p : Nat) (v : Word), s.boot.dumpBusy = false → s.boot.recovery = false → v.toNat < 4 →
    v.getLsbD 0 = true → dumpPort s (v.getLsbD 1) = some k → dumpPart s = some p →
    ((s.part p).funcs.any (tdiLocked s) = true → exec (.dump 0 v) s = .next (dumpEnd s 3))
    ∧ ((s.part p).funcs.any (tdiLocked s) = false →
      ((s.port k).state ≠ .up → exec (.dump 0 v) s = .next (dumpEnd s 2))
      ∧ ((s.port k).state = .up → exec (.dump 0 v) s = .next ({ s with boot := { s.boot with
          dumpAt := s.boot.dumpHost, dumpBusy := true, dumpLink := v.getLsbD 1, dumpStatus := 0, dumpPoisoned := 0,
          dumpDone := 0 } }.post .dumpComplete))))
  ∧ (∀ (s : State) (p : Nat), s.boot.dumpBusy = true → dumpPart s = some p →
    let cs := sortBy (fun a b => decide (a ≤ b)) (s.part p).channels
    (cs.length * channelSectors ≤ s.boot.dumpDone → exec .dumpComplete s = .next (dumpEnd s 0))
    ∧ (s.boot.dumpDone < cs.length * channelSectors → ∃ t, exec .dumpComplete s = .next t
      ∧ s.boot.dumpDone < t.boot.dumpDone ∧ t.boot.dumpBusy = true ∧ t.hbm = s.hbm ∧ t.groups = s.groups
      ∧ t.agenda = s.agenda ++ [.dumpComplete])))

/-- R467 to R470, R481, R482: what the mailbox carries. A session and a stream's keys are set up; a VF whose stream has its
keys is locked, runs, and is stopped by a reset; its report, the certificate chain and the measurements go back; a cause of
R469 moves a locked TDI to ERROR. -/
def Obligations.MailboxRequests : Prop :=
  ∀ (s : State) (vf stream session : Nat) (key : BitVec 256), s.boot.recovery = false →
    exec (.securedSpdmSession session false) s = .next (
      let u := { s with spdm := { s.spdm with sessions := s.spdm.sessions.filter (· != session) } }
      ((List.range 16).filter (fun f => tdiLocked u f && (u.fn f).tdiSession == some session)).foldl enterTdiError u)
    ∧ (∃ t, exec (.securedSpdmSession session true) s = .next t ∧ session ∈ t.spdm.sessions
      ∧ (∀ x ∈ s.spdm.sessions, x ∈ t.spdm.sessions) ∧ t.fns = s.fns ∧ (∀ a, t.mem a = s.mem a))
    ∧ (vf < 16 → (streamsOf s).length < 8 → ∃ t, exec (.ideKmKeyProg vf stream key) s = .next t
      ∧ (vf, stream, key) ∈ t.spdm.ideKeys ∧ (∀ k, (vf, stream, k) ∈ t.spdm.ideKeys → k = key)
      ∧ t.spdm.responses = .accepted :: s.spdm.responses)
    ∧ (1 ≤ vf → vf < 16 →
      ((s.fn vf).tdi = .configUnlocked → s.spdm.sessions.contains session = true →
        s.spdm.ideKeys.any (fun e => e.1 == vf && e.2.1 == stream) = true → dumpLocks s vf = false →
        exec (.lockInterfaceRequest vf stream session) s = .next (respond (s.updFn vf (fun f =>
          { f with tdi := .configLocked, tdiStream := some stream, tdiSession := some session })) .accepted))
      ∧ ((s.fn vf).tdi = .configLocked →
        exec (.startInterfaceRequest vf) s = .next (respond (s.updFn vf (fun f => { f with tdi := .run })) .accepted))
      ∧ exec (.stopInterfaceRequest vf) s = .next (respond ((resetFn s vf).updFn vf (fun f =>
          { f with tdi := .configUnlocked, tdiStream := none, tdiSession := none })) .accepted)
      ∧ (tdiLocked s vf = true →
        (∃ sig, exec (.getDeviceInterfaceReport vf) s = .next (respond s (.report
          [(0, (s.fn vf).bar0, 16), (2, (s.fn vf).bar2, 128)] (0, 15) (reportInfo s vf) sig)))
        ∧ exec (.tdiError vf) s = .next (enterTdiError s vf)))
    ∧ exec .getCertificate s = .next (respond s (.certificate (Config.certChain s.boot.imageDigest)))
    ∧ (∀ i, measurements s i ≠ [] → exec (.getMeasurements i) s = .next (respond s (.measurements (measurements s i)
        (Config.sm2Sign (attestKey s) (Config.sm3 ((measurements s i).flatMap (·.2)))))))

/-! ### Boot, firmware, errors and registers (spec/28_boot_ras.md) -/

/-- R475 to R480, R487: BOOT runs once, from the flash. A firmware command is BUSY after its first step, and has its effect
and its status in the next; one that comes while another is in progress is dropped. WRITE_SLOT refuses the booted slot,
SET_MARKER a slot that does not verify, OWNER_FUSE a second key, WRITE_CONFIG a record not signed by the owner key; COMMIT_SVN
never lowers MINSVN. A command that reads the host's memory waits while the host's link is in TRAINING (R462), and reads zeros
where the link carries nothing (log entry 151). SET_MARKER writes an invalid copy, else the one with the lower SEQ, with one more than the highest valid
SEQ. A loss of power keeps the fuses, SPSEQ, the settled meters and the memories that are not the device's, and the flash but
for the region that a command in progress may have begun to write; device HBM, the groups, partitions, functions, ports and
steps due are as at reset. Copy 0 where both markers are invalid (log entry 95), and LEN at offset 4, capped at 8 MiB (log
entries 14 and 96), are the model's. -/
def Obligations.BootAndFirmware : Prop :=
  (∀ (s : State), (s.boot.done = false → exec .boot s = .next { s with boot := bootOf s.flash })
    ∧ (s.boot.done = true → exec .boot s = .next s))
  ∧ (∀ (s : State),
    ∀ e ∈ [(Instr.writeSlot false, 1, false), (Instr.writeSlot true, 1, true), (Instr.setMarker false, 2, false),
      (Instr.setMarker true, 2, true), (Instr.commitSvn, 3, false), (Instr.ownerFuse, 4, false),
      (Instr.writeConfig, 5, false)],
    (s.boot.done = true → s.boot.fwJob = none →
      exec e.1 s = .next ({ s with boot := { s.boot with fwJob := some e.2, fwStatus := 0 } }.post e.1))
    ∧ (∀ j, s.boot.fwJob = some j → j ≠ e.2 → exec e.1 s = .next s))
  ∧ (∀ (s : State) (b : Bool), s.boot.fwJob = some (1, b) → linkTrains s .host = false →
    exec (.writeSlot b) s = .next (if !s.boot.recovery && s.boot.slotB == b then fwEnd s 3
      else fwEnd { s with flash := s.flash.setSlot b (hostDma s s.boot.fwArg.toNat
        (min 0x800000 (natOfBytes (hostDma s (s.boot.fwArg.toNat + 4) 4)))) } 0))
  ∧ (∀ (s : State), ∀ e ∈ [(Instr.writeSlot false, 1, false), (Instr.writeSlot true, 1, true), (Instr.ownerFuse, 4, false),
      (Instr.writeConfig, 5, false)],
    s.boot.fwJob = some e.2 → linkTrains s .host = true → exec e.1 s = .next (s.post e.1))
  ∧ (∀ (s : State) (b : Bool), s.boot.fwJob = some (2, b) →
    exec (.setMarker b) s = .next (if slotVerifies s.flash b then
      fwEnd { s with flash := s.flash.setMarker (markerToWrite s.flash) (markerBytes b (highSeq s.flash + 1)) } 0
      else fwEnd s 2))
  ∧ (∀ (f : Flash),
    (f.markerValid false = false → markerToWrite f = false)
    ∧ (f.markerValid false = true → f.markerValid true = false → markerToWrite f = true)
    ∧ (f.markerValid false = true → f.markerValid true = true →
      (markerToWrite f = true ↔ markerSeq f.marker1 ≤ markerSeq f.marker0)))
  ∧ (∀ (s : State), s.boot.fwJob = some (3, false) →
    exec .commitSvn s = .next (fwEnd { s with flash := { s.flash with
      minSvn := if s.flash.minSvn < s.boot.svn then s.boot.svn else s.flash.minSvn } } 0))
  ∧ (∀ (s : State), s.boot.fwJob = some (4, false) → linkTrains s .host = false →
    (∀ k, s.flash.ownerKey = some k → exec .ownerFuse s = .next (fwEnd s 4))
    ∧ (s.flash.ownerKey = none → exec .ownerFuse s = .next (fwEnd { s with flash := { s.flash with
        ownerKey := some (Config.sm3 (hostDma s s.boot.fwArg.toNat 64)) } } 0)))
  ∧ (∀ (s : State), s.boot.fwJob = some (5, false) → linkTrains s .host = false →
    exec .writeConfig s = .next (if recordSigned s.flash (hostDma s s.boot.fwArg.toNat 0x80)
      then fwEnd { s with flash := s.flash.setConfig (hostDma s s.boot.fwArg.toNat 0x80) } 0 else fwEnd s 5))
  ∧ (∀ (s : State) (a n : Nat), hostDma s a n = if linkCarries s .host then s.host.bytes a n else List.replicate n 0)
  ∧ (∀ (s : State), ∃ t, exec .powerLoss s = .next t ∧ t.host = s.host ∧ t.peers = s.peers
    ∧ t.spSeq = s.spSeq ∧ t.meters = (settleMeters s).meters ∧ t.hbm = Memory.empty ∧ t.groups = [] ∧ t.sel = none
    ∧ t.parts = State.reset.parts ∧ t.fns = State.reset.fns ∧ t.ports = State.reset.ports ∧ t.boot = Booted.reset
    ∧ t.agenda = State.reset.agenda
    ∧ t.flash.minSvn = s.flash.minSvn ∧ t.flash.ownerKey = s.flash.ownerKey ∧ t.flash.fused = s.flash.fused
    ∧ (s.boot.fwJob = none → t.flash = s.flash)
    ∧ (t.flash = s.flash ∨ t.flash = interrupted s.flash s.boot.fwJob))

/-- R373, R483, R484: a corrected error is counted in CE and changes nothing else. An uncorrectable one is counted in UE: one in
a sector of device HBM or a scratchpad poisons it, one in a register or a tile poisons it and leaves its value, one in an L1 or an
instruction cache drops its lines, and one in a page of the flash makes the page bad; no byte of memory changes. The counters
saturate. A scrub leaves the bytes and the poison; a confirmed self-test failure joins the defect log, raises KAT and is an event
of each partition that owns cores of the cluster. R4, R18, R388, R393, R399, R413, R425, R427, R429, R458, R461, R468, R471, R477,
R478: a write of a register that a function's BAR0 presents. One that holds a value reads as written, its reserved bits as zero; a
command register runs its command, and CTX_CMD and Q_CMD refuse a reserved bit or an unlisted OP; a read-only or unlisted offset,
one of the PF written in a VF, and in RECOVERY any but the firmware registers, has no effect. A function whose interface is locked
takes the write only with the T bit. The masks of the reserved bits and the size of a ring's base are log entry 102; that
BAD_OP comes before the other statuses, 103; the words of the MSI-X table, 101. -/
def Obligations.ErrorsAndRegisters : Prop :=
  ((∀ (s : State), exec (.softError .corrected) s = .next (countRas s 0)
    ∧ (∀ e, e ≠ ErrSite.corrected → exec (.softError e) s = .next (countRas (strike s e) 1)))
  ∧ (∀ (s : State) (c g n r k : Nat),
    (32 * k < 0x8000000000 → strike s (.hbm k) = { s with hbm := s.hbm.setPoison k true })
    ∧ (k < 12288 → strike s (.scratch c k)
      = s.setCore c { s.core c with scratch := (s.core c).scratch.setPoison k true })
    ∧ strike s (.vReg g c n r) = s.updLane g c n (fun l => l.setV r ⟨(l.getV r).val, true⟩)
    ∧ strike s (.sReg g c r) = s.updCourse g c (fun x =>
      { x.setS r ⟨(x.getS r).val, true⟩ with inflight := x.inflight, txends := x.txends })
    ∧ strike s (.pReg g c n r) = s.updLane g c n (fun l => l.setPred r (l.pred r) true)
    ∧ strike s (.special g c n 0x09) = s.updLane g c n (fun l => { l with seedP := true })
    ∧ strike s (.special g c n 0x0A) = s.updCourse g c (fun x => { x with bypLimP := true })
    ∧ strike s (.special g c n 0x0C) = s.updLane g c n (fun l => { l with trapPc := ⟨l.trapPc.val, true⟩ })
    ∧ strike s (.special g c n 0x0D) = s.updLane g c n (fun l => { l with trapCause := ⟨l.trapCause.val, true⟩ })
    ∧ strike s (.reserve c n r)
      = s.setCore c ((s.core c).setReserve n r ⟨((s.core c).getReserve n r).val, true⟩)
    ∧ strike s (.tile g r)
      = s.updGroup g (fun x => { x with tiles := x.tiles.modify r (fun t => { t with poison := true }) })
    ∧ strike s (.l1 c) = s.setCore c { s.core c with l1 := [] }
    ∧ strike s (.icache c) = s.setCore c { s.core c with icache := [] }
    ∧ (∃ b, strike s (.flash k) = { s with flash := { s.flash with bad := b } } ∧ k ∈ b
      ∧ (∀ j, j ≠ k → (j ∈ b ↔ j ∈ s.flash.bad)))
    ∧ (∀ e a y, ((strike s e).mem a).byte y = (s.mem a).byte y))
  ∧ (∀ (m : Memory) (k : Nat), (m.setPoison k true).isPoisoned k = true
    ∧ (∀ j, j ≠ k → (m.setPoison k true).isPoisoned j = m.isPoisoned j)
    ∧ (∀ y, (m.setPoison k true).byte y = m.byte y))
  ∧ (∀ (s : State) (k j : Nat), k < 4 → j < 4 →
    let counter (t : State) (i : Nat) : Nat := bitsNat t.boot.ras.toNat (16 * i + 15) (16 * i)
    counter (countRas s k) j = if j = k then min 0xFFFF (counter s j + 1) else counter s j)
  ∧ (∀ (s : State) (k : Nat), 32 * k < 0x8000000000 →
    let t := { s with free := s.free + 1 }
    exec (.patrolScrub k) s = .next (if Config.freeNat s.free % 2 = 1 then countRas t 0 else t))
  ∧ (∀ (s : State) (k : Nat), k < 4 → (presentBits s).getLsbD k = true →
    let ps := (List.range 16).filter (fun p =>
      (s.part p).state != .free && (s.part p).cores.any (fun c => c / 192 == k))
    ∃ ds, (k, false) ∈ ds ∧ (∀ d ∈ s.flash.defects, d ∈ ds) ∧ (∀ d ∈ ds, d = (k, false) ∨ d ∈ s.flash.defects)
      ∧ exec (.katConfirmed k) s = .next (ps.foldl (fun u p => partEvent u p 5 (BitVec.ofNat 64 k))
          (countRas { s with flash := { s.flash with defects := ds } } 2))))
  ∧ ((∀ (s : State) (fn : Nat) (v : Word) (tb : Bool), fn < 16 → s.boot.recovery = false → mmioReaches s fn tb = true →
    let write (x : Nat) : Out := exec (.registerWrite fn (BitVec.ofNat 20 (if tb then 0x80000 + x else x)) v) s
    let reads (x : Nat) (w : Word) : Prop := ∃ t, write x = .next t ∧ readRegister t fn x = w
      ∧ t.groups = s.groups ∧ (∀ a, t.mem a = s.mem a)
    (∀ e ∈ [(0x280, 0xFFFFFFFFFFFFF000#64), (0x300, 0xFFFFFFFFFFFFFFFF#64), (0x340, 0xFFFFFFFFFFFFFFFF#64),
        (0x390, 0xFFFFFFFFFFFFFFFF#64), (0x400, 0xFFFFFFFFFFFFFFFF#64), (0x210, 0xFFFF#64)], reads e.1 (v &&& e.2))
    ∧ (tdiLocked s fn = false → reads 0x380 (v &&& 0xFFFFFFFFFFFFF007#64) ∧ (∀ k, k < 4 → reads (0xF000 + 8 * k) v)
      ∧ (v.toNat % 8 ≠ 7 → v.toNat % 4096 / 8 = 0 → reads 0x200 v))
    ∧ ((v.toNat % 8 = 7 ∨ v.toNat % 4096 / 8 ≠ 0) → write 0x200 = .next s)
    ∧ write 0x218 = exec (.prqReply fn 1 v) s
    ∧ (v.getLsbD 0 = false ∨ (s.fn fn).spStat.busy = true → write 0x408 = .next s)
    ∧ (v.getLsbD 0 = true → (s.fn fn).spStat.busy = false →
      let b := spBlock ⟨s.host.bytes (s.fn fn).spArg.toNat 384⟩ (s.fn fn).spArg.toNat
      write 0x408 = .next ((spBegin s fn b).post (spStep fn b))
        ∧ ((s.fn fn).spArg.toNat % 64 = 0 → b.bytes = s.host.bytes (s.fn fn).spArg.toNat 384)
        ∧ ((s.fn fn).spArg.toNat % 64 ≠ 0 → fieldAt (natOfBytes b.bytes) 0 4 = 0))
    ∧ (∀ x ∈ [0x008, 0x208, 0x220, 0x290, 0x310, 0x350, 0x388, 0x398, 0x410, 0x418, 0x420, 0x500, 0x1000, 0x8000, 0xF800],
      write x = .next s)
    ∧ (∀ x, fn ≠ 0 → x < 0x10000 → pfOnly x = true → write x = .next s))
  ∧ (∀ (s : State) (fn : Nat) (id : BitVec 16) (tb : Bool), fn < 16 → s.boot.recovery = false → mmioReaches s fn tb = true →
    let command (x : Nat) (rest : BitVec 40) (op : BitVec 8) : Out :=
      exec (.registerWrite fn (BitVec.ofNat 20 (if tb then 0x80000 + x else x)) (id ++ rest ++ op)) s
    (command 0x308 0 1 = exec (.ctxCreate fn id) s ∧ command 0x308 0 2 = exec (.ctxDestroy fn id) s
      ∧ command 0x308 0 3 = exec (.loadObject fn id) s ∧ command 0x308 0 4 = exec (.unloadObject fn id) s
      ∧ command 0x308 0 5 = exec (.save fn id) s ∧ command 0x308 0 6 = exec (.restore fn id) s
      ∧ command 0x308 0 7 = exec (.checkpoint fn id) s)
    ∧ (command 0x348 0 1 = exec (.qCreate fn id) s ∧ command 0x348 0 2 = exec (.qDestroy fn id) s
      ∧ command 0x348 0 3 = exec (.qClear fn id) s)
    ∧ (∀ (rest : BitVec 40) (op : BitVec 8),
      (s.fn fn).ctxStat.busy = false → (rest ≠ 0 ∨ op = 0 ∨ 8 ≤ op.toNat) →
        command 0x308 rest op = .next (endCtx (beginCtx s fn id op) fn 6))
    ∧ (∀ (rest : BitVec 40) (op : BitVec 8),
      (s.fn fn).qStat.busy = false → (rest ≠ 0 ∨ op = 0 ∨ 4 ≤ op.toNat) →
        command 0x348 rest op = .next (endQ (beginQ s fn id op) fn 6))
    ∧ (∀ (seq : BitVec 16) (pages : BitVec 6),
      let inv (kind : BitVec 2) : Out := exec (.registerWrite fn (BitVec.ofNat 20 (if tb then 0x80288 else 0x288))
        (id ++ seq ++ pages ++ kind ++ (0 : BitVec 24))) s
      inv 0 = exec (.invContextAll fn id seq) s ∧ inv 1 = exec (.invContextRange fn id pages seq) s
        ∧ inv 2 = exec (.invStage2All fn seq) s ∧ inv 3 = exec (.invStage2Range fn pages seq) s))
  ∧ (∀ (s : State) (v : Word) (k : Nat), s.boot.recovery = false → takesMmio s 0 = true → tdiLocked s 0 = false →
    let write (x : Nat) : Out := exec (.registerWrite 0 (BitVec.ofNat 20 x) v) s
    (∃ t, write 0x700 = .next t ∧ readRegister t 0 0x700 = v &&& 0xFFFFFFFFFFFFF000#64 ∧ t.groups = s.groups)
    ∧ (∃ t, write 0x800 = .next t ∧ readRegister t 0 0x800 = v ∧ t.groups = s.groups)
    ∧ write 0x708 = exec (.dump 0 v) s
    ∧ (s.boot.fwJob = none → ((v = 1 → write 0x808 = exec (.writeSlot false) s)
      ∧ (v = 0x101 → write 0x808 = exec (.writeSlot true) s) ∧ (v = 2 → write 0x808 = exec (.setMarker false) s)
      ∧ (v = 0x102 → write 0x808 = exec (.setMarker true) s) ∧ (v = 3 → write 0x808 = exec .commitSvn s)
      ∧ (v = 4 → write 0x808 = exec .ownerFuse s) ∧ (v = 5 → write 0x808 = exec .writeConfig s)
      ∧ (v.toNat / 512 ≠ 0 ∨ v.toNat % 256 = 0 ∨ 6 ≤ v.toNat % 256 → write 0x808 = .next (fwEnd s 1))))
    ∧ (k < 12 → write (0x6A0 + 8 * k) = if v.getLsbD 0 then exec (.lnkReset 0 k) s else .next s)
    ∧ (1 ≤ k → k < 16 → write (0x4800 + 8 * k) = exec (.fnPauseWrite k v) s)
    ∧ (k < 16 → write (0x4000 + 0x40 * k) = exec (.prqBaseWrite k 2 v) s
      ∧ write (0x4018 + 0x40 * k) = exec (.prqReply k 2 v) s
      ∧ (∀ o, o < 256 → write (0x5000 + 0x100 * k + o) = exec (.weightWrite k o (v.setWidth 8)) s))
    ∧ (∀ x ∈ [0x600, 0x640, 0x710, 0x810, 0x820], write x = .next s))
  ∧ (∀ (s : State) (fn : Nat) (v : Word), fn < 16 → s.boot.recovery = false →
    let write (x : Nat) : Out := exec (.registerWrite fn (BitVec.ofNat 20 x) v) s
    let page := v &&& 0xFFFFFFFFFFFFF000#64
    (tdiLocked s fn = false →
      write 0x10000 = .next (s.updFn fn (fun f => { f with bar0 := page }))
      ∧ write 0x10008 = .next (s.updFn fn (fun f => { f with bar2 := page })))
    ∧ (tdiLocked s fn = true → page ≠ (s.fn fn).bar0 → write 0x10000 = .next (enterTdiError s fn)))
  ∧ (∀ (s : State) (fn x : Nat) (v : Word), s.boot.recovery = true → x < 0x10000 →
    (fn ≠ 0 ∨ x < 0x800 ∨ 0x828 ≤ x → exec (.registerWrite fn (BitVec.ofNat 20 x) v) s = .next s)
    ∧ (∃ t, exec (.registerWrite 0 0x800 v) s = .next t ∧ readRegister t 0 0x800 = v)))

/-! ### The machine as a whole -/

/-- A step on a chosen slot whose line the core holds, unpoisoned, is the execution of the instruction that the slot decodes
to, one unit of the model's time later (log entry 1). R66: a slot of a line not held is chosen no more and its fill begins;
every lane that issues a slot of a poisoned line traps POISON_CONSUMED there, whatever its guard. R86, R87: a word that does
not decode traps in each lane of Active, and for a branch in each lane of the issue group. With no slot chosen a step is the
next step of the agenda where the agenda's turn has come, and else the selection on the next course in turn (log entry 1);
with none in turn it is the agenda's next step again, or nothing. Before a selection, fences and posted packets that waited
for link ports go on where they may (R201). A cycle ends before a course is selected a second time in it, or sooner, as the
free value says (log entry 114), and the barriers that its events left due are tested then (R262). The owner that the step's
accesses are charged to is set with it, and a register write of the host charges its bytes first (R454, log entry 111). -/
def Obligations.StepRunsDecoded : Prop :=
  (∀ (s : State) (x : View) (i : Instr), s.view = some x →
    let u := { s with time := s.time + 1, payer := groupOwner s x.sel.grp }
    (x.core.line (lineOf x.sel.pc) (s.groupCtx x.grp) = none →
      step s = .next (u.deselect.postOnce (.lineFill x.sel.core x.sel.grp (lineOf x.sel.pc))))
    ∧ (∀ l, x.core.line (lineOf x.sel.pc) (s.groupCtx x.grp) = some l →
      (l.poisoned = true → step s = .next (trapLanes (dropLine u x.sel.core (lineOf x.sel.pc) (s.groupCtx x.grp)) x.sel
        x.sel.mask ⟨.poisonConsumed, 0, x.sel.pc, none⟩))
      ∧ (l.poisoned = false →
        (decode (slotWord l (slotOf x.sel.pc)) = .ok i → lineReserved l = false → step s = exec i u)
        ∧ (decode (slotWord l (slotOf x.sel.pc)) = .ok i → lineReserved l = true →
          step s = .next (trapLanes u x.sel (if isBranch i then x.sel.mask else x.active (rdCtl (slotWord l (slotOf x.sel.pc))))
            ⟨.illegalForm, 0, x.sel.pc, none⟩))
        ∧ (∀ k, decode (slotWord l (slotOf x.sel.pc)) = .error (.illegalOpcode k) →
          step s = .next (trapLanes u x.sel (x.active k) ⟨.illegalOpcode, 0, x.sel.pc, none⟩))
        ∧ (∀ k b, decode (slotWord l (slotOf x.sel.pc)) = .error (.illegalForm k b) →
          step s = .next (trapLanes u x.sel (if b then x.sel.mask else x.active k) ⟨.illegalForm, 0, x.sel.pc, none⟩)))))
  ∧ (∀ (s : State) (i : Instr) (rest : List Instr), s.sel = none → s.turn = false → s.agenda = i :: rest →
    let u : State := { s with time := s.time + 1 }
    step s = exec i { chargeHostWrite u i with agenda := rest, turn := true, payer := payerOf s i })
  ∧ (∀ (s : State), s.sel = none → (s.turn = true ∨ s.agenda = []) →
    let u := flushPosts (settleFences (speculate { s with time := s.time + 1 }))
    (∀ k g c, u.candidates[u.rr % u.candidates.length]? = some (k, g, c) →
      step s = exec (.issueSelection k g c) { joinCycle u g c with rr := u.rr + 1, turn := false, payer := groupOwner u g })
    ∧ (u.candidates = [] →
      (∀ i rest, (endCycle u).agenda = i :: rest → step s = exec i { chargeHostWrite (endCycle u) i with
        agenda := rest, turn := true, payer := payerOf (endCycle u) i })
      ∧ ((endCycle u).agenda = [] → step s = .next (endCycle u))))
  ∧ (∀ (s : State) (g c : Nat),
    (s.inCycle.contains (g, c) = true →
      joinCycle s g c = { settleBarriers { s with free := s.free + 1 } with inCycle := [(g, c)] })
    ∧ (s.inCycle.contains (g, c) = false → Config.freeNat s.free % 2 = 0 →
      joinCycle s g c = { s with free := s.free + 1, inCycle := (g, c) :: s.inCycle }))

/-- Words written out from the encodings of spec/04_encoding.md decode to the instructions that they stand for: an integer
sum, a predicated immediate sum, a load with a flag, a store, a branch, a matrix step, a window bind, a transaction and the NOP word
among them; an all-zero word is ILLEGAL_FORM, and one of an unlisted opcode is ILLEGAL_OPCODE (R85, R86). -/
def Obligations.DecodeSanity : Prop :=
  decode 0x000F78000301020000000C00 = .ok (.iadd ⟨0, 15, 0, 15⟩ ⟨3, 1, 2, 0, 0, 0, 0, 0, 0, 0, 0, 0, 3, 0, 0, 0⟩)
  ∧ decode 0x000F888005065103FFFFFFFF = .ok (.iaddImm ⟨0, 15, 1, 1⟩ ⟨5, 6, 1, 1, 1, 3, 0xFFFFFFFF⟩)
  ∧ decode 0x000378300102030000010D20 = .ok (.shfl ⟨0, 3, 0, 15⟩ ⟨1, 2, 3, 0, 0, 0, 0, 0, 0, 1, 0, 0, 3, 1, 2, 0⟩)
  ∧ decode 0x000F79030102030400403000 = .ok (.fma ⟨0, 15, 0, 15⟩ ⟨1, 2, 3, 4, 0, 0, 0, 0, 4, 0, 1, 1, 0, 0, 0, 0⟩)
  ∧ decode 0x00007A00080402000F000010 = .ok (.ld ⟨0, 0, 0, 15⟩ ⟨8, 4, 2, 0, 0, 0, 3, 1, 1, 0x10⟩)
  ∧ decode 0x008F7A011009001C14FFFFF8 = .ok (.st ⟨8, 15, 0, 15⟩ ⟨16, 9, 0, 0, 3, 4, 5, 0, 0, 0xFFFFF8⟩)
  ∧ decode 0x00017A100402070B08000000 = .ok (.atomAdd ⟨0, 1, 0, 15⟩ ⟨4, 2, 7, 0, 1, 3, 2, 0, 0, 0⟩)
  ∧ decode 0x000F7B000003051421000000 = .ok (.wbind ⟨0, 15, 0, 15⟩ ⟨0, 3, 5, 0, 1, 1, 2, 1, 0, 0, 0, 0⟩)
  ∧ decode 0x000F7B410000000002000000 = .ok (.barr ⟨0, 15, 0, 15⟩ ⟨0, 0, 0, 0, 0, 0, 0, 2, 0, 0, 0, 0⟩)
  ∧ decode 0x000F7B802100546100000000
    = .ok (.mma ⟨0, 15, 0, 15⟩ ⟨2, 16, 0, 5, 4, 6, 0, 0, 0, 1, 0, 0, 0, 0, 0, 0⟩)
  ∧ decode 0x000F1400FFFFFFFD20000000 = .ok (.bra ⟨0, 15, 0, 2⟩ ⟨0xFFFFFFFD, 1, 0, 0, 0, 0⟩)
  ∧ decode 0x00027C800A01000000030000 = .ok (.rres ⟨0, 2, 0, 15⟩ ⟨10, 1, 0, 0, 0, 0, 0, 0, 3, 0, 0, 0⟩)
  ∧ decode 0x000F7D000000000180000000 = .ok (.txbegin ⟨0, 15, 0, 15⟩ ⟨1, 4, 0, 0, 0, 0⟩)
  ∧ decode 0x000F7D400000000000700000 = .ok (.trap ⟨0, 15, 0, 15⟩ ⟨0, 0, 0, 0, 0, 7, 0⟩)
  ∧ decode 0x000F7C080000000000000000 = .ok (.nop ⟨0, 15, 0, 15⟩ ⟨0, 0, 0, 0, 0, 0, 0⟩)
  ∧ decode 0 = .error (.illegalForm ⟨0, 0, 0, 0⟩ false)
  ∧ decode 0x000F7FFF0000000000000000 = .error (.illegalOpcode ⟨0, 15, 0, 15⟩)

/-- R70 to R81: decoding the word of a well-formed instruction gives the instruction back, whatever its operands. -/
def Obligations.DecodeOfEncode : Prop :=
  ∀ (i : Instr) (w : IWord), i.WellFormed → encode i = some w → decode w = .ok i

/-- R70, R86: every word that decodes is the word of the instruction that it decodes to, so that no two instructions share a
word and no bit is ignored; and what a word decodes to is well formed. -/
def Obligations.EncodeOfDecode : Prop :=
  ∀ (w : IWord) (i : Instr), decode w = .ok i → encode i = some w ∧ i.WellFormed

/-- R191, R373: every step keeps the canonical form of every memory. -/
def Obligations.StepKeepsMemories : Prop :=
  ∀ s t : State, s.MemoryOk → step s = .next t → t.MemoryOk

/-- What reset leaves: every memory in its canonical form, nothing on a core, no slot chosen, every partition FREE, every port
DOWN, and the boot as the next step (R19, R442, R461, R477). That memory reads zero is the model's choice (log entry 5),
unsafe for what the host or a peer put there. -/
def Obligations.ResetState : Prop :=
  State.reset.MemoryOk ∧ State.reset.sel = none ∧ State.reset.groups = [] ∧ State.reset.cores = []
    ∧ (∀ p, p < 16 → (State.reset.part p).state = .free) ∧ (∀ k, k < 12 → (State.reset.port k).state = .down)
    ∧ (∀ t a, (State.reset.mem t).byte a = 0)
    ∧ step State.reset = exec .boot { State.reset with time := 1, agenda := [], turn := true }
end

