-- ==== Sys2Proof/Laws/Dispatch.lean ====
section
/-!
SUPPORT. One equation for each arm of exec: which meaning it calls.
-/

namespace Sys2Proof.Machine

theorem exec_iadd (k : Ctl) (f : RRR) (s : State) : exec (.iadd k f) s = execIadd k f s := rfl
theorem exec_iaddImm (k : Ctl) (f : RRI) (s : State) : exec (.iaddImm k f) s = execIaddImm k f s := rfl
theorem exec_isub (k : Ctl) (f : RRR) (s : State) : exec (.isub k f) s = execIsub k f s := rfl
theorem exec_isubImm (k : Ctl) (f : RRI) (s : State) : exec (.isubImm k f) s = execIsubImm k f s := rfl
theorem exec_imul (k : Ctl) (f : RRR) (s : State) : exec (.imul k f) s = execImul k f s := rfl
theorem exec_imulImm (k : Ctl) (f : RRI) (s : State) : exec (.imulImm k f) s = execImulImm k f s := rfl
theorem exec_imulh (k : Ctl) (f : RRR) (s : State) : exec (.imulh k f) s = execImulh k f s := rfl
theorem exec_imad (k : Ctl) (f : RRR) (s : State) : exec (.imad k f) s = execImad k f s := rfl
theorem exec_ineg (k : Ctl) (f : RRR) (s : State) : exec (.ineg k f) s = execIneg k f s := rfl
theorem exec_iabs (k : Ctl) (f : RRR) (s : State) : exec (.iabs k f) s = execIabs k f s := rfl
theorem exec_imin (k : Ctl) (f : RRR) (s : State) : exec (.imin k f) s = execImin k f s := rfl
theorem exec_iminImm (k : Ctl) (f : RRI) (s : State) : exec (.iminImm k f) s = execIminImm k f s := rfl
theorem exec_imax (k : Ctl) (f : RRR) (s : State) : exec (.imax k f) s = execImax k f s := rfl
theorem exec_imaxImm (k : Ctl) (f : RRI) (s : State) : exec (.imaxImm k f) s = execImaxImm k f s := rfl
theorem exec_ishl (k : Ctl) (f : RRR) (s : State) : exec (.ishl k f) s = execIshl k f s := rfl
theorem exec_ishr (k : Ctl) (f : RRR) (s : State) : exec (.ishr k f) s = execIshr k f s := rfl
theorem exec_irot (k : Ctl) (f : RRR) (s : State) : exec (.irot k f) s = execIrot k f s := rfl
theorem exec_and (k : Ctl) (f : RRR) (s : State) : exec (.and k f) s = execAnd k f s := rfl
theorem exec_andImm (k : Ctl) (f : RRI) (s : State) : exec (.andImm k f) s = execAndImm k f s := rfl
theorem exec_or (k : Ctl) (f : RRR) (s : State) : exec (.or k f) s = execOr k f s := rfl
theorem exec_orImm (k : Ctl) (f : RRI) (s : State) : exec (.orImm k f) s = execOrImm k f s := rfl
theorem exec_xor (k : Ctl) (f : RRR) (s : State) : exec (.xor k f) s = execXor k f s := rfl
theorem exec_xorImm (k : Ctl) (f : RRI) (s : State) : exec (.xorImm k f) s = execXorImm k f s := rfl
theorem exec_andn (k : Ctl) (f : RRR) (s : State) : exec (.andn k f) s = execAndn k f s := rfl
theorem exec_andnImm (k : Ctl) (f : RRI) (s : State) : exec (.andnImm k f) s = execAndnImm k f s := rfl
theorem exec_not (k : Ctl) (f : RRR) (s : State) : exec (.not k f) s = execNot k f s := rfl
theorem exec_bfx (k : Ctl) (f : RRR) (s : State) : exec (.bfx k f) s = execBfx k f s := rfl
theorem exec_bfi (k : Ctl) (f : RRR) (s : State) : exec (.bfi k f) s = execBfi k f s := rfl
theorem exec_brev (k : Ctl) (f : RRR) (s : State) : exec (.brev k f) s = execBrev k f s := rfl
theorem exec_popc (k : Ctl) (f : RRR) (s : State) : exec (.popc k f) s = execPopc k f s := rfl
theorem exec_clz (k : Ctl) (f : RRR) (s : State) : exec (.clz k f) s = execClz k f s := rfl
theorem exec_ctz (k : Ctl) (f : RRR) (s : State) : exec (.ctz k f) s = execCtz k f s := rfl
theorem exec_icmp (k : Ctl) (f : RRR) (s : State) : exec (.icmp k f) s = execIcmp k f s := rfl
theorem exec_icmpImm (k : Ctl) (f : RRI) (s : State) : exec (.icmpImm k f) s = execIcmpImm k f s := rfl
theorem exec_isel (k : Ctl) (f : RRR) (s : State) : exec (.isel k f) s = execIsel k f s := rfl
theorem exec_lea (k : Ctl) (f : RRR) (s : State) : exec (.lea k f) s = execLea k f s := rfl
theorem exec_leaImm (k : Ctl) (f : RRI) (s : State) : exec (.leaImm k f) s = execLeaImm k f s := rfl
theorem exec_mov (k : Ctl) (f : RRR) (s : State) : exec (.mov k f) s = execMov k f s := rfl
theorem exec_movi (k : Ctl) (f : RRI) (s : State) : exec (.movi k f) s = execMovi k f s := rfl
theorem exec_pset (k : Ctl) (f : RRR) (s : State) : exec (.pset k f) s = execPset k f s := rfl
theorem exec_plop (k : Ctl) (f : RRR) (s : State) : exec (.plop k f) s = execPlop k f s := rfl
theorem exec_shfl (k : Ctl) (f : RRR) (s : State) : exec (.shfl k f) s = execShfl k f s := rfl
theorem exec_qxch (k : Ctl) (f : RRR) (s : State) : exec (.qxch k f) s = execQxch k f s := rfl
theorem exec_vote (k : Ctl) (f : RRR) (s : State) : exec (.vote k f) s = execVote k f s := rfl
theorem exec_perm (k : Ctl) (f : RRR) (s : State) : exec (.perm k f) s = execPerm k f s := rfl
theorem exec_pack (k : Ctl) (f : RRR) (s : State) : exec (.pack k f) s = execPack k f s := rfl
theorem exec_unpack (k : Ctl) (f : RRR) (s : State) : exec (.unpack k f) s = execUnpack k f s := rfl
theorem exec_movs (k : Ctl) (f : SYS) (s : State) : exec (.movs k f) s = execMovs k f s := rfl
theorem exec_movss (k : Ctl) (f : SYS) (s : State) : exec (.movss k f) s = execMovss k f s := rfl
theorem exec_pchk (k : Ctl) (f : RRR) (s : State) : exec (.pchk k f) s = execPchk k f s := rfl
theorem exec_pclr (k : Ctl) (f : RRR) (s : State) : exec (.pclr k f) s = execPclr k f s := rfl
theorem exec_fadd (k : Ctl) (f : RRR) (s : State) : exec (.fadd k f) s = execFadd k f s := rfl
theorem exec_fsub (k : Ctl) (f : RRR) (s : State) : exec (.fsub k f) s = execFsub k f s := rfl
theorem exec_fmul (k : Ctl) (f : RRR) (s : State) : exec (.fmul k f) s = execFmul k f s := rfl
theorem exec_fma (k : Ctl) (f : RRR) (s : State) : exec (.fma k f) s = execFma k f s := rfl
theorem exec_fmin (k : Ctl) (f : RRR) (s : State) : exec (.fmin k f) s = execFmin k f s := rfl
theorem exec_fmax (k : Ctl) (f : RRR) (s : State) : exec (.fmax k f) s = execFmax k f s := rfl
theorem exec_fcmp (k : Ctl) (f : RRR) (s : State) : exec (.fcmp k f) s = execFcmp k f s := rfl
theorem exec_fclass (k : Ctl) (f : RRR) (s : State) : exec (.fclass k f) s = execFclass k f s := rfl
theorem exec_frnd (k : Ctl) (f : RRR) (s : State) : exec (.frnd k f) s = execFrnd k f s := rfl
theorem exec_fscale (k : Ctl) (f : RRR) (s : State) : exec (.fscale k f) s = execFscale k f s := rfl
theorem exec_frcp (k : Ctl) (f : RRR) (s : State) : exec (.frcp k f) s = execFrcp k f s := rfl
theorem exec_frsq (k : Ctl) (f : RRR) (s : State) : exec (.frsq k f) s = execFrsq k f s := rfl
theorem exec_fsqrt (k : Ctl) (f : RRR) (s : State) : exec (.fsqrt k f) s = execFsqrt k f s := rfl
theorem exec_fexp2 (k : Ctl) (f : RRR) (s : State) : exec (.fexp2 k f) s = execFexp2 k f s := rfl
theorem exec_flog2 (k : Ctl) (f : RRR) (s : State) : exec (.flog2 k f) s = execFlog2 k f s := rfl
theorem exec_fsin (k : Ctl) (f : RRR) (s : State) : exec (.fsin k f) s = execFsin k f s := rfl
theorem exec_fcos (k : Ctl) (f : RRR) (s : State) : exec (.fcos k f) s = execFcos k f s := rfl
theorem exec_ftanh (k : Ctl) (f : RRR) (s : State) : exec (.ftanh k f) s = execFtanh k f s := rfl
theorem exec_fdiv (k : Ctl) (f : RRR) (s : State) : exec (.fdiv k f) s = execFdiv k f s := rfl
theorem exec_cvt (k : Ctl) (f : RRR) (s : State) : exec (.cvt k f) s = execCvt k f s := rfl
theorem exec_cvti (k : Ctl) (f : RRR) (s : State) : exec (.cvti k f) s = execCvti k f s := rfl
theorem exec_cvtf (k : Ctl) (f : RRR) (s : State) : exec (.cvtf k f) s = execCvtf k f s := rfl
theorem exec_bscale (k : Ctl) (f : RRR) (s : State) : exec (.bscale k f) s = execBscale k f s := rfl
theorem exec_fmtq (k : Ctl) (f : RRR) (s : State) : exec (.fmtq k f) s = execFmtq k f s := rfl
theorem exec_ld (k : Ctl) (f : MEM) (s : State) : exec (.ld k f) s = execLd k f s := rfl
theorem exec_st (k : Ctl) (f : MEM) (s : State) : exec (.st k f) s = execSt k f s := rfl
theorem exec_cas (k : Ctl) (f : MEM) (s : State) : exec (.cas k f) s = execCas k f s := rfl
theorem exec_fence (k : Ctl) (f : MEM) (s : State) : exec (.fence k f) s = execFence k f s := rfl
theorem exec_pref (k : Ctl) (f : MEM) (s : State) : exec (.pref k f) s = execPref k f s := rfl
theorem exec_cctl (k : Ctl) (f : MEM) (s : State) : exec (.cctl k f) s = execCctl k f s := rfl
theorem exec_probe (k : Ctl) (f : MEM) (s : State) : exec (.probe k f) s = execProbe k f s := rfl
theorem exec_mapc (k : Ctl) (f : RRR) (s : State) : exec (.mapc k f) s = execMapc k f s := rfl
theorem exec_atomAdd (k : Ctl) (f : MEM) (s : State) : exec (.atomAdd k f) s = execAtomAdd k f s := rfl
theorem exec_atomMin (k : Ctl) (f : MEM) (s : State) : exec (.atomMin k f) s = execAtomMin k f s := rfl
theorem exec_atomMax (k : Ctl) (f : MEM) (s : State) : exec (.atomMax k f) s = execAtomMax k f s := rfl
theorem exec_atomAnd (k : Ctl) (f : MEM) (s : State) : exec (.atomAnd k f) s = execAtomAnd k f s := rfl
theorem exec_atomOr (k : Ctl) (f : MEM) (s : State) : exec (.atomOr k f) s = execAtomOr k f s := rfl
theorem exec_atomXor (k : Ctl) (f : MEM) (s : State) : exec (.atomXor k f) s = execAtomXor k f s := rfl
theorem exec_atomXchg (k : Ctl) (f : MEM) (s : State) : exec (.atomXchg k f) s = execAtomXchg k f s := rfl
theorem exec_redAdd (k : Ctl) (f : MEM) (s : State) : exec (.redAdd k f) s = execRedAdd k f s := rfl
theorem exec_redMin (k : Ctl) (f : MEM) (s : State) : exec (.redMin k f) s = execRedMin k f s := rfl
theorem exec_redMax (k : Ctl) (f : MEM) (s : State) : exec (.redMax k f) s = execRedMax k f s := rfl
theorem exec_redAnd (k : Ctl) (f : MEM) (s : State) : exec (.redAnd k f) s = execRedAnd k f s := rfl
theorem exec_redOr (k : Ctl) (f : MEM) (s : State) : exec (.redOr k f) s = execRedOr k f s := rfl
theorem exec_redXor (k : Ctl) (f : MEM) (s : State) : exec (.redXor k f) s = execRedXor k f s := rfl
theorem exec_wbind (k : Ctl) (f : ASY) (s : State) : exec (.wbind k f) s = execWbind k f s := rfl
theorem exec_wtouch (k : Ctl) (f : ASY) (s : State) : exec (.wtouch k f) s = execWtouch k f s := rfl
theorem exec_wstat (k : Ctl) (f : ASY) (s : State) : exec (.wstat k f) s = execWstat k f s := rfl
theorem exec_wdrop (k : Ctl) (f : ASY) (s : State) : exec (.wdrop k f) s = execWdrop k f s := rfl
theorem exec_wflush (k : Ctl) (f : ASY) (s : State) : exec (.wflush k f) s = execWflush k f s := rfl
theorem exec_cntwait (k : Ctl) (f : ASY) (s : State) : exec (.cntwait k f) s = execCntwait k f s := rfl
theorem exec_binit (k : Ctl) (f : ASY) (s : State) : exec (.binit k f) s = execBinit k f s := rfl
theorem exec_barr (k : Ctl) (f : ASY) (s : State) : exec (.barr k f) s = execBarr k f s := rfl
theorem exec_bwait (k : Ctl) (f : ASY) (s : State) : exec (.bwait k f) s = execBwait k f s := rfl
theorem exec_barw (k : Ctl) (f : ASY) (s : State) : exec (.barw k f) s = execBarw k f s := rfl
theorem exec_bexp (k : Ctl) (f : ASY) (s : State) : exec (.bexp k f) s = execBexp k f s := rfl
theorem exec_binv (k : Ctl) (f : ASY) (s : State) : exec (.binv k f) s = execBinv k f s := rfl
theorem exec_mma (k : Ctl) (f : MAT) (s : State) : exec (.mma k f) s = execMma k f s := rfl
theorem exec_mmaz (k : Ctl) (f : MAT) (s : State) : exec (.mmaz k f) s = execMmaz k f s := rfl
theorem exec_zld (k : Ctl) (f : MAT) (s : State) : exec (.zld k f) s = execZld k f s := rfl
theorem exec_zst (k : Ctl) (f : MAT) (s : State) : exec (.zst k f) s = execZst k f s := rfl
theorem exec_zmov (k : Ctl) (f : MAT) (s : State) : exec (.zmov k f) s = execZmov k f s := rfl
theorem exec_zrmax (k : Ctl) (f : MAT) (s : State) : exec (.zrmax k f) s = execZrmax k f s := rfl
theorem exec_zrscale (k : Ctl) (f : MAT) (s : State) : exec (.zrscale k f) s = execZrscale k f s := rfl
theorem exec_bra (k : Ctl) (f : BR) (s : State) : exec (.bra k f) s = execBra k f s := rfl
theorem exec_brx (k : Ctl) (f : BR) (s : State) : exec (.brx k f) s = execBrx k f s := rfl
theorem exec_call (k : Ctl) (f : BR) (s : State) : exec (.call k f) s = execCall k f s := rfl
theorem exec_callx (k : Ctl) (f : BR) (s : State) : exec (.callx k f) s = execCallx k f s := rfl
theorem exec_ret (k : Ctl) (f : BR) (s : State) : exec (.ret k f) s = execRet k f s := rfl
theorem exec_exit (k : Ctl) (f : SYS) (s : State) : exec (.exit k f) s = execExit k f s := rfl
theorem exec_yield (k : Ctl) (f : SYS) (s : State) : exec (.yield k f) s = execYield k f s := rfl
theorem exec_sleep (k : Ctl) (f : SYS) (s : State) : exec (.sleep k f) s = execSleep k f s := rfl
theorem exec_nop (k : Ctl) (f : SYS) (s : State) : exec (.nop k f) s = execNop k f s := rfl
theorem exec_regq (k : Ctl) (f : SYS) (s : State) : exec (.regq k f) s = execRegq k f s := rfl
theorem exec_rres (k : Ctl) (f : ASY) (s : State) : exec (.rres k f) s = execRres k f s := rfl
theorem exec_remit (k : Ctl) (f : ASY) (s : State) : exec (.remit k f) s = execRemit k f s := rfl
theorem exec_rcancel (k : Ctl) (f : ASY) (s : State) : exec (.rcancel k f) s = execRcancel k f s := rfl
theorem exec_fetch (k : Ctl) (f : ASY) (s : State) : exec (.fetch k f) s = execFetch k f s := rfl
theorem exec_txbegin (k : Ctl) (f : BR) (s : State) : exec (.txbegin k f) s = execTxbegin k f s := rfl
theorem exec_txend (k : Ctl) (f : ASY) (s : State) : exec (.txend k f) s = execTxend k f s := rfl
theorem exec_txabort (k : Ctl) (f : ASY) (s : State) : exec (.txabort k f) s = execTxabort k f s := rfl
theorem exec_txstat (k : Ctl) (f : ASY) (s : State) : exec (.txstat k f) s = execTxstat k f s := rfl
theorem exec_trap (k : Ctl) (f : SYS) (s : State) : exec (.trap k f) s = execTrap k f s := rfl
theorem exec_bkpt (k : Ctl) (f : SYS) (s : State) : exec (.bkpt k f) s = execBkpt k f s := rfl
theorem exec_hret (k : Ctl) (f : SYS) (s : State) : exec (.hret k f) s = execHret k f s := rfl
theorem exec_qpost (k : Ctl) (f : SYS) (s : State) : exec (.qpost k f) s = execQpost k f s := rfl
theorem exec_ckpt (k : Ctl) (f : SYS) (s : State) : exec (.ckpt k f) s = execCkpt k f s := rfl
theorem exec_issueSelection (core grp course : Nat) (s : State) : exec (.issueSelection core grp course) s = execIssueSelection core grp course s := rfl
theorem exec_lineFill (core grp : Nat) (line : Word) (s : State) : exec (.lineFill core grp line) s = execLineFill core grp line s := rfl
theorem exec_longLatencyComplete (grp course index : Nat) (s : State) : exec (.longLatencyComplete grp course index) s = execLongLatencyComplete grp course index s := rfl
theorem exec_laneReplay (grp course lane : Nat) (s : State) : exec (.laneReplay grp course lane) s = execLaneReplay grp course lane s := rfl
theorem exec_returnStackFillReturn (grp course lane : Nat) (s : State) : exec (.returnStackFillReturn grp course lane) s = execReturnStackFillReturn grp course lane s := rfl
theorem exec_sleepExpire (grp course lane : Nat) (s : State) : exec (.sleepExpire grp course lane) s = execSleepExpire grp course lane s := rfl
theorem exec_handlerEntry (core : Nat) (s : State) : exec (.handlerEntry core) s = execHandlerEntry core s := rfl
theorem exec_regqGrant (grp role : Nat) (s : State) : exec (.regqGrant grp role) s = execRegqGrant grp role s := rfl
theorem exec_windowSectorArrival (grp win sector : Nat) (s : State) : exec (.windowSectorArrival grp win sector) s = execWindowSectorArrival grp win sector s := rfl
theorem exec_windowSectorFault (grp win sector : Nat) (s : State) : exec (.windowSectorFault grp win sector) s = execWindowSectorFault grp win sector s := rfl
theorem exec_wflushComplete (grp win : Nat) (s : State) : exec (.wflushComplete grp win) s = execWflushComplete grp win s := rfl
theorem exec_storeAcceptedAtHome (grp course : Nat) (s : State) : exec (.storeAcceptedAtHome grp course) s = execStoreAcceptedAtHome grp course s := rfl
theorem exec_matrixEntryStart (core : Nat) (s : State) : exec (.matrixEntryStart core) s = execMatrixEntryStart core s := rfl
theorem exec_matrixEntryRetire (core : Nat) (s : State) : exec (.matrixEntryRetire core) s = execMatrixEntryRetire core s := rfl
theorem exec_txVerdict (grp course : Nat) (s : State) : exec (.txVerdict grp course) s = execTxVerdict grp course s := rfl
theorem exec_recordPublished (launch : Nat) (s : State) : exec (.recordPublished launch) s = execRecordPublished launch s := rfl
theorem exec_coalescingTimerExpire (launch node key : Nat) (s : State) : exec (.coalescingTimerExpire launch node key) s = execCoalescingTimerExpire launch node key s := rfl
theorem exec_rresGrant (launch : Nat) (s : State) : exec (.rresGrant launch) s = execRresGrant launch s := rfl
theorem exec_groupPlace (places : List Place) (s : State) : exec (.groupPlace places) s = execGroupPlace places s := rfl
theorem exec_groupPlacementComplete (grp : Nat) (s : State) : exec (.groupPlacementComplete grp) s = execGroupPlacementComplete grp s := rfl
theorem exec_groupRetire (grp : Nat) (s : State) : exec (.groupRetire grp) s = execGroupRetire grp s := rfl
theorem exec_fmtBind (hdr : PktHdr) (slot : BitVec 8) (image : Word) (s : State) : exec (.fmtBind hdr slot image) s = execFmtBind hdr slot image s := rfl
theorem exec_fmtRelease (hdr : PktHdr) (slot : BitVec 8) (s : State) : exec (.fmtRelease hdr slot) s = execFmtRelease hdr slot s := rfl
theorem exec_fmtVerifyComplete (part slot : Nat) (s : State) : exec (.fmtVerifyComplete part slot) s = execFmtVerifyComplete part slot s := rfl
theorem exec_fmtSlotEnable (part slot core : Nat) (s : State) : exec (.fmtSlotEnable part slot core) s = execFmtSlotEnable part slot core s := rfl
theorem exec_fmtSlotDisable (part slot core : Nat) (s : State) : exec (.fmtSlotDisable part slot core) s = execFmtSlotDisable part slot core s := rfl
theorem exec_fmtDrainComplete (part slot : Nat) (s : State) : exec (.fmtDrainComplete part slot) s = execFmtDrainComplete part slot s := rfl
theorem exec_codePageCheckComplete (obj page : Nat) (s : State) : exec (.codePageCheckComplete obj page) s = execCodePageCheckComplete obj page s := rfl
theorem exec_objectLoadComplete (obj : Nat) (s : State) : exec (.objectLoadComplete obj) s = execObjectLoadComplete obj s := rfl
theorem exec_objectDrainComplete (obj : Nat) (s : State) : exec (.objectDrainComplete obj) s = execObjectDrainComplete obj s := rfl
theorem exec_ctxCreate (fn : Nat) (ctxid : BitVec 16) (s : State) : exec (.ctxCreate fn ctxid) s = execCtxCreate fn ctxid s := rfl
theorem exec_ctxDestroy (fn : Nat) (ctxid : BitVec 16) (s : State) : exec (.ctxDestroy fn ctxid) s = execCtxDestroy fn ctxid s := rfl
theorem exec_loadObject (fn : Nat) (ctxid : BitVec 16) (s : State) : exec (.loadObject fn ctxid) s = execLoadObject fn ctxid s := rfl
theorem exec_unloadObject (fn : Nat) (ctxid : BitVec 16) (s : State) : exec (.unloadObject fn ctxid) s = execUnloadObject fn ctxid s := rfl
theorem exec_save (fn : Nat) (ctxid : BitVec 16) (s : State) : exec (.save fn ctxid) s = execSave fn ctxid s := rfl
theorem exec_restore (fn : Nat) (ctxid : BitVec 16) (s : State) : exec (.restore fn ctxid) s = execRestore fn ctxid s := rfl
theorem exec_checkpoint (fn : Nat) (ctxid : BitVec 16) (s : State) : exec (.checkpoint fn ctxid) s = execCheckpoint fn ctxid s := rfl
theorem exec_haltArrival (grps : List Nat) (s : State) : exec (.haltArrival grps) s = execHaltArrival grps s := rfl
theorem exec_saveComplete (grp : Nat) (s : State) : exec (.saveComplete grp) s = execSaveComplete grp s := rfl
theorem exec_preemptRequest (part : Nat) (s : State) : exec (.preemptRequest part) s = execPreemptRequest part s := rfl
theorem exec_qCreate (fn : Nat) (qid : BitVec 16) (s : State) : exec (.qCreate fn qid) s = execQCreate fn qid s := rfl
theorem exec_qDestroy (fn : Nat) (qid : BitVec 16) (s : State) : exec (.qDestroy fn qid) s = execQDestroy fn qid s := rfl
theorem exec_qClear (fn : Nat) (qid : BitVec 16) (s : State) : exec (.qClear fn qid) s = execQClear fn qid s := rfl
theorem exec_notifyWrite (fn : Nat) (qid : BitVec 16) (value : NotifyVal) (s : State) : exec (.notifyWrite fn qid value) s = execNotifyWrite fn qid value s := rfl
theorem exec_queueMap (part : Nat) (s : State) : exec (.queueMap part) s = execQueueMap part s := rfl
theorem exec_packetStart (queue : Nat) (s : State) : exec (.packetStart queue) s = execPacketStart queue s := rfl
theorem exec_launchGraph (hdr : PktHdr) (body : LaunchBody) (s : State) : exec (.launchGraph hdr body) s = execLaunchGraph hdr body s := rfl
theorem exec_copy (hdr : PktHdr) (src dst len : Word) (s : State) : exec (.copy hdr src dst len) s = execCopy hdr src dst len s := rfl
theorem exec_fill (hdr : PktHdr) (dst len pattern : Word) (s : State) : exec (.fill hdr dst len pattern) s = execFill hdr dst len pattern s := rfl
theorem exec_waitMem (hdr : PktHdr) (body : WaitBody) (s : State) : exec (.waitMem hdr body) s = execWaitMem hdr body s := rfl
theorem exec_waitMemRetest (queue : Nat) (s : State) : exec (.waitMemRetest queue) s = execWaitMemRetest queue s := rfl
theorem exec_waitMemPoll (queue : Nat) (s : State) : exec (.waitMemPoll queue) s = execWaitMemPoll queue s := rfl
theorem exec_waitMemTimeout (queue : Nat) (s : State) : exec (.waitMemTimeout queue) s = execWaitMemTimeout queue s := rfl
theorem exec_signalMem (hdr : PktHdr) (addr value : Word) (add : Bool) (wide : Bool) (s : State) : exec (.signalMem hdr addr value add wide) s = execSignalMem hdr addr value add wide s := rfl
theorem exec_event (hdr : PktHdr) (data : Word) (s : State) : exec (.event hdr data) s = execEvent hdr data s := rfl
theorem exec_resync (hdr : PktHdr) (buf : Word) (len : BitVec 32) (s : State) : exec (.resync hdr buf len) s = execResync hdr buf len s := rfl
theorem exec_packetComplete (queue : Nat) (index : BitVec 32) (status : BitVec 8) (s : State) : exec (.packetComplete queue index status) s = execPacketComplete queue index status s := rfl
theorem exec_eventRecordWrite (part : Nat) (s : State) : exec (.eventRecordWrite part) s = execEventRecordWrite part s := rfl
theorem exec_evtHeadWrite (fn : Nat) (value : Word) (s : State) : exec (.evtHeadWrite fn value) s = execEvtHeadWrite fn value s := rfl
theorem exec_fnPauseWrite (vf : Nat) (value : Word) (s : State) : exec (.fnPauseWrite vf value) s = execFnPauseWrite vf value s := rfl
theorem exec_functionLevelReset (fn : Nat) (s : State) : exec (.functionLevelReset fn) s = execFunctionLevelReset fn s := rfl
theorem exec_weightWrite (part owner : Nat) (value : Byte) (s : State) : exec (.weightWrite part owner value) s = execWeightWrite part owner value s := rfl
theorem exec_prqEntryWrite (fn stage : Nat) (s : State) : exec (.prqEntryWrite fn stage) s = execPrqEntryWrite fn stage s := rfl
theorem exec_prqReply (fn stage : Nat) (value : Word) (s : State) : exec (.prqReply fn stage value) s = execPrqReply fn stage value s := rfl
theorem exec_prqBaseWrite (fn stage : Nat) (value : Word) (s : State) : exec (.prqBaseWrite fn stage value) s = execPrqBaseWrite fn stage value s := rfl
theorem exec_invContextAll (fn : Nat) (ctxid seq : BitVec 16) (s : State) : exec (.invContextAll fn ctxid seq) s = execInvContextAll fn ctxid seq s := rfl
theorem exec_invContextRange (fn : Nat) (ctxid : BitVec 16) (pages : BitVec 6) (seq : BitVec 16) (s : State) : exec (.invContextRange fn ctxid pages seq) s = execInvContextRange fn ctxid pages seq s := rfl
theorem exec_invStage2All (fn : Nat) (seq : BitVec 16) (s : State) : exec (.invStage2All fn seq) s = execInvStage2All fn seq s := rfl
theorem exec_invStage2Range (fn : Nat) (pages : BitVec 6) (seq : BitVec 16) (s : State) : exec (.invStage2Range fn pages seq) s = execInvStage2Range fn pages seq s := rfl
theorem exec_invComplete (fn : Nat) (s : State) : exec (.invComplete fn) s = execInvComplete fn s := rfl
theorem exec_atsCompletion (fn : Nat) (addr : Word) (pasid : BitVec 20) (read write : Bool) (translated : Word) (s : State) : exec (.atsCompletion fn addr pasid read write translated) s = execAtsCompletion fn addr pasid read write translated s := rfl
theorem exec_prgResponse (fn : Nat) (index : BitVec 9) (code : BitVec 4) (s : State) : exec (.prgResponse fn index code) s = execPrgResponse fn index code s := rfl
theorem exec_atsInvalidateRequest (fn : Nat) (addr : Word) (pages : Nat) (s : State) : exec (.atsInvalidateRequest fn addr pages) s = execAtsInvalidateRequest fn addr pages s := rfl
theorem exec_hostAccess (part : Nat) (acc : HostAcc) (s : State) : exec (.hostAccess part acc) s = execHostAccess part acc s := rfl
theorem exec_partCreate (fn : Nat) (block : CmdBlock) (s : State) : exec (.partCreate fn block) s = execPartCreate fn block s := rfl
theorem exec_partDestroy (fn : Nat) (block : CmdBlock) (s : State) : exec (.partDestroy fn block) s = execPartDestroy fn block s := rfl
theorem exec_partGrow (fn : Nat) (block : CmdBlock) (s : State) : exec (.partGrow fn block) s = execPartGrow fn block s := rfl
theorem exec_partShrink (fn : Nat) (block : CmdBlock) (s : State) : exec (.partShrink fn block) s = execPartShrink fn block s := rfl
theorem exec_shareSet (fn : Nat) (block : CmdBlock) (s : State) : exec (.shareSet fn block) s = execShareSet fn block s := rfl
theorem exec_lend (fn : Nat) (block : CmdBlock) (s : State) : exec (.lend fn block) s = execLend fn block s := rfl
theorem exec_recall (fn : Nat) (block : CmdBlock) (s : State) : exec (.recall fn block) s = execRecall fn block s := rfl
theorem exec_keyEnroll (fn : Nat) (block : CmdBlock) (s : State) : exec (.keyEnroll fn block) s = execKeyEnroll fn block s := rfl
theorem exec_meterReport (fn : Nat) (block : CmdBlock) (s : State) : exec (.meterReport fn block) s = execMeterReport fn block s := rfl
theorem exec_meterSeed (fn : Nat) (block : CmdBlock) (s : State) : exec (.meterSeed fn block) s = execMeterSeed fn block s := rfl
theorem exec_wayMoveEpoch (slice : Nat) (s : State) : exec (.wayMoveEpoch slice) s = execWayMoveEpoch slice s := rfl
theorem exec_lnkReset (fn port : Nat) (s : State) : exec (.lnkReset fn port) s = execLnkReset fn port s := rfl
theorem exec_partnerDetect (port : Nat) (remote : BitVec 4) (s : State) : exec (.partnerDetect port remote) s = execPartnerDetect port remote s := rfl
theorem exec_trainingComplete (port goodLanes : Nat) (s : State) : exec (.trainingComplete port goodLanes) s = execTrainingComplete port goodLanes s := rfl
theorem exec_trainingTimeout (port : Nat) (s : State) : exec (.trainingTimeout port) s = execTrainingTimeout port s := rfl
theorem exec_linkFailure (port : Nat) (lossOfSignal : Bool) (s : State) : exec (.linkFailure port lossOfSignal) s = execLinkFailure port lossOfSignal s := rfl
theorem exec_flitReceive (port : Nat) (seq ack : BitVec 12) (kind : BitVec 8) (checkOk : Bool) (s : State) : exec (.flitReceive port seq ack kind checkOk) s = execFlitReceive port seq ack kind checkOk s := rfl
theorem exec_peerRequestReceive (port : Nat) (acc : HostAcc) (s : State) : exec (.peerRequestReceive port acc) s = execPeerRequestReceive port acc s := rfl
theorem exec_pcieLinkDown (pair : Nat) (s : State) : exec (.pcieLinkDown pair) s = execPcieLinkDown pair s := rfl
theorem exec_dump (fn : Nat) (value : Word) (s : State) : exec (.dump fn value) s = execDump fn value s := rfl
theorem exec_dumpComplete (s : State) : exec .dumpComplete s = execDumpComplete s := rfl
theorem exec_lockInterfaceRequest (vf stream session : Nat) (s : State) : exec (.lockInterfaceRequest vf stream session) s = execLockInterfaceRequest vf stream session s := rfl
theorem exec_startInterfaceRequest (vf : Nat) (s : State) : exec (.startInterfaceRequest vf) s = execStartInterfaceRequest vf s := rfl
theorem exec_stopInterfaceRequest (vf : Nat) (s : State) : exec (.stopInterfaceRequest vf) s = execStopInterfaceRequest vf s := rfl
theorem exec_getDeviceInterfaceReport (vf : Nat) (s : State) : exec (.getDeviceInterfaceReport vf) s = execGetDeviceInterfaceReport vf s := rfl
theorem exec_tdiError (vf : Nat) (s : State) : exec (.tdiError vf) s = execTdiError vf s := rfl
theorem exec_getCertificate (s : State) : exec .getCertificate s = execGetCertificate s := rfl
theorem exec_getMeasurements (index : BitVec 8) (s : State) : exec (.getMeasurements index) s = execGetMeasurements index s := rfl
theorem exec_writeSlot (slotB : Bool) (s : State) : exec (.writeSlot slotB) s = execWriteSlot slotB s := rfl
theorem exec_setMarker (slotB : Bool) (s : State) : exec (.setMarker slotB) s = execSetMarker slotB s := rfl
theorem exec_commitSvn (s : State) : exec .commitSvn s = execCommitSvn s := rfl
theorem exec_ownerFuse (s : State) : exec .ownerFuse s = execOwnerFuse s := rfl
theorem exec_writeConfig (s : State) : exec .writeConfig s = execWriteConfig s := rfl
theorem exec_boot (s : State) : exec .boot s = execBoot s := rfl
theorem exec_softError (site : ErrSite) (s : State) : exec (.softError site) s = execSoftError site s := rfl
theorem exec_patrolScrub (sector : Nat) (s : State) : exec (.patrolScrub sector) s = execPatrolScrub sector s := rfl
theorem exec_katConfirmed (cluster : Nat) (s : State) : exec (.katConfirmed cluster) s = execKatConfirmed cluster s := rfl
theorem exec_registerWrite (fn : Nat) (off : BitVec 20) (value : Word) (s : State) : exec (.registerWrite fn off value) s = execRegisterWrite fn off value s := rfl
theorem exec_powerLoss (s : State) : exec .powerLoss s = execPowerLoss s := rfl
theorem exec_ideKmKeyProg (fn stream : Nat) (key : BitVec 256) (s : State) : exec (.ideKmKeyProg fn stream key) s = execIdeKmKeyProg fn stream key s := rfl
theorem exec_securedSpdmSession (session : Nat) (up : Bool) (s : State) : exec (.securedSpdmSession session up) s = execSecuredSpdmSession session up s := rfl

end Sys2Proof.Machine
end

