-- ==== Sys2Proof/Laws/State.lean ====
section
/-!
SUPPORT. What each update of the state leaves alone: one lemma for each field and update.
-/

namespace Sys2Proof.Machine

/-! ### setCore -/

@[simp] theorem setCore_time (s : State) (c : Nat) (k : Core) : (s.setCore c k).time = s.time := rfl
@[simp] theorem setCore_free (s : State) (c : Nat) (k : Core) : (s.setCore c k).free = s.free := rfl
@[simp] theorem setCore_turn (s : State) (c : Nat) (k : Core) : (s.setCore c k).turn = s.turn := rfl
@[simp] theorem setCore_sel (s : State) (c : Nat) (k : Core) : (s.setCore c k).sel = s.sel := rfl
@[simp] theorem setCore_agenda (s : State) (c : Nat) (k : Core) : (s.setCore c k).agenda = s.agenda := rfl
@[simp] theorem setCore_rr (s : State) (c : Nat) (k : Core) : (s.setCore c k).rr = s.rr := rfl
@[simp] theorem setCore_inCycle (s : State) (c : Nat) (k : Core) : (s.setCore c k).inCycle = s.inCycle := rfl
@[simp] theorem setCore_fenced (s : State) (c : Nat) (k : Core) : (s.setCore c k).fenced = s.fenced := rfl
@[simp] theorem setCore_posts (s : State) (c : Nat) (k : Core) : (s.setCore c k).posts = s.posts := rfl
@[simp] theorem setCore_hbm (s : State) (c : Nat) (k : Core) : (s.setCore c k).hbm = s.hbm := rfl
@[simp] theorem setCore_host (s : State) (c : Nat) (k : Core) : (s.setCore c k).host = s.host := rfl
@[simp] theorem setCore_peers (s : State) (c : Nat) (k : Core) : (s.setCore c k).peers = s.peers := rfl
@[simp] theorem setCore_groups (s : State) (c : Nat) (k : Core) : (s.setCore c k).groups = s.groups := rfl
@[simp] theorem setCore_records (s : State) (c : Nat) (k : Core) : (s.setCore c k).records = s.records := rfl
@[simp] theorem setCore_nextGroup (s : State) (c : Nat) (k : Core) : (s.setCore c k).nextGroup = s.nextGroup := rfl
@[simp] theorem setCore_launches (s : State) (c : Nat) (k : Core) : (s.setCore c k).launches = s.launches := rfl
@[simp] theorem setCore_objects (s : State) (c : Nat) (k : Core) : (s.setCore c k).objects = s.objects := rfl
@[simp] theorem setCore_ctxs (s : State) (c : Nat) (k : Core) : (s.setCore c k).ctxs = s.ctxs := rfl
@[simp] theorem setCore_queues (s : State) (c : Nat) (k : Core) : (s.setCore c k).queues = s.queues := rfl
@[simp] theorem setCore_fns (s : State) (c : Nat) (k : Core) : (s.setCore c k).fns = s.fns := rfl
@[simp] theorem setCore_parts (s : State) (c : Nat) (k : Core) : (s.setCore c k).parts = s.parts := rfl
@[simp] theorem setCore_reqs (s : State) (c : Nat) (k : Core) : (s.setCore c k).reqs = s.reqs := rfl
@[simp] theorem setCore_nextReq (s : State) (c : Nat) (k : Core) : (s.setCore c k).nextReq = s.nextReq := rfl
@[simp] theorem setCore_failed (s : State) (c : Nat) (k : Core) : (s.setCore c k).failed = s.failed := rfl
@[simp] theorem setCore_accessRecords (s : State) (c : Nat) (k : Core) : (s.setCore c k).accessRecords = s.accessRecords := rfl
@[simp] theorem setCore_meters (s : State) (c : Nat) (k : Core) : (s.setCore c k).meters = s.meters := rfl
@[simp] theorem setCore_payer (s : State) (c : Nat) (k : Core) : (s.setCore c k).payer = s.payer := rfl
@[simp] theorem setCore_l2 (s : State) (c : Nat) (k : Core) : (s.setCore c k).l2 = s.l2 := rfl
@[simp] theorem setCore_ports (s : State) (c : Nat) (k : Core) : (s.setCore c k).ports = s.ports := rfl
@[simp] theorem setCore_shares (s : State) (c : Nat) (k : Core) : (s.setCore c k).shares = s.shares := rfl
@[simp] theorem setCore_flash (s : State) (c : Nat) (k : Core) : (s.setCore c k).flash = s.flash := rfl
@[simp] theorem setCore_boot (s : State) (c : Nat) (k : Core) : (s.setCore c k).boot = s.boot := rfl
@[simp] theorem setCore_spSeq (s : State) (c : Nat) (k : Core) : (s.setCore c k).spSeq = s.spSeq := rfl
@[simp] theorem setCore_spJob (s : State) (c : Nat) (k : Core) : (s.setCore c k).spJob = s.spJob := rfl
@[simp] theorem setCore_spWait (s : State) (c : Nat) (k : Core) : (s.setCore c k).spWait = s.spWait := rfl
@[simp] theorem setCore_spdm (s : State) (c : Nat) (k : Core) : (s.setCore c k).spdm = s.spdm := rfl
@[simp] theorem setCore_replies (s : State) (c : Nat) (k : Core) : (s.setCore c k).replies = s.replies := rfl

/-! ### setGroup -/

@[simp] theorem setGroup_time (s : State) (g : Nat) (x : Group) : (s.setGroup g x).time = s.time := rfl
@[simp] theorem setGroup_free (s : State) (g : Nat) (x : Group) : (s.setGroup g x).free = s.free := rfl
@[simp] theorem setGroup_turn (s : State) (g : Nat) (x : Group) : (s.setGroup g x).turn = s.turn := rfl
@[simp] theorem setGroup_sel (s : State) (g : Nat) (x : Group) : (s.setGroup g x).sel = s.sel := rfl
@[simp] theorem setGroup_agenda (s : State) (g : Nat) (x : Group) : (s.setGroup g x).agenda = s.agenda := rfl
@[simp] theorem setGroup_rr (s : State) (g : Nat) (x : Group) : (s.setGroup g x).rr = s.rr := rfl
@[simp] theorem setGroup_inCycle (s : State) (g : Nat) (x : Group) : (s.setGroup g x).inCycle = s.inCycle := rfl
@[simp] theorem setGroup_fenced (s : State) (g : Nat) (x : Group) : (s.setGroup g x).fenced = s.fenced := rfl
@[simp] theorem setGroup_posts (s : State) (g : Nat) (x : Group) : (s.setGroup g x).posts = s.posts := rfl
@[simp] theorem setGroup_hbm (s : State) (g : Nat) (x : Group) : (s.setGroup g x).hbm = s.hbm := rfl
@[simp] theorem setGroup_host (s : State) (g : Nat) (x : Group) : (s.setGroup g x).host = s.host := rfl
@[simp] theorem setGroup_peers (s : State) (g : Nat) (x : Group) : (s.setGroup g x).peers = s.peers := rfl
@[simp] theorem setGroup_cores (s : State) (g : Nat) (x : Group) : (s.setGroup g x).cores = s.cores := rfl
@[simp] theorem setGroup_records (s : State) (g : Nat) (x : Group) : (s.setGroup g x).records = s.records := rfl
@[simp] theorem setGroup_nextGroup (s : State) (g : Nat) (x : Group) : (s.setGroup g x).nextGroup = s.nextGroup := rfl
@[simp] theorem setGroup_launches (s : State) (g : Nat) (x : Group) : (s.setGroup g x).launches = s.launches := rfl
@[simp] theorem setGroup_objects (s : State) (g : Nat) (x : Group) : (s.setGroup g x).objects = s.objects := rfl
@[simp] theorem setGroup_ctxs (s : State) (g : Nat) (x : Group) : (s.setGroup g x).ctxs = s.ctxs := rfl
@[simp] theorem setGroup_queues (s : State) (g : Nat) (x : Group) : (s.setGroup g x).queues = s.queues := rfl
@[simp] theorem setGroup_fns (s : State) (g : Nat) (x : Group) : (s.setGroup g x).fns = s.fns := rfl
@[simp] theorem setGroup_parts (s : State) (g : Nat) (x : Group) : (s.setGroup g x).parts = s.parts := rfl
@[simp] theorem setGroup_reqs (s : State) (g : Nat) (x : Group) : (s.setGroup g x).reqs = s.reqs := rfl
@[simp] theorem setGroup_nextReq (s : State) (g : Nat) (x : Group) : (s.setGroup g x).nextReq = s.nextReq := rfl
@[simp] theorem setGroup_failed (s : State) (g : Nat) (x : Group) : (s.setGroup g x).failed = s.failed := rfl
@[simp] theorem setGroup_accessRecords (s : State) (g : Nat) (x : Group) : (s.setGroup g x).accessRecords = s.accessRecords := rfl
@[simp] theorem setGroup_meters (s : State) (g : Nat) (x : Group) : (s.setGroup g x).meters = s.meters := rfl
@[simp] theorem setGroup_payer (s : State) (g : Nat) (x : Group) : (s.setGroup g x).payer = s.payer := rfl
@[simp] theorem setGroup_l2 (s : State) (g : Nat) (x : Group) : (s.setGroup g x).l2 = s.l2 := rfl
@[simp] theorem setGroup_ports (s : State) (g : Nat) (x : Group) : (s.setGroup g x).ports = s.ports := rfl
@[simp] theorem setGroup_shares (s : State) (g : Nat) (x : Group) : (s.setGroup g x).shares = s.shares := rfl
@[simp] theorem setGroup_flash (s : State) (g : Nat) (x : Group) : (s.setGroup g x).flash = s.flash := rfl
@[simp] theorem setGroup_boot (s : State) (g : Nat) (x : Group) : (s.setGroup g x).boot = s.boot := rfl
@[simp] theorem setGroup_spSeq (s : State) (g : Nat) (x : Group) : (s.setGroup g x).spSeq = s.spSeq := rfl
@[simp] theorem setGroup_spJob (s : State) (g : Nat) (x : Group) : (s.setGroup g x).spJob = s.spJob := rfl
@[simp] theorem setGroup_spWait (s : State) (g : Nat) (x : Group) : (s.setGroup g x).spWait = s.spWait := rfl
@[simp] theorem setGroup_spdm (s : State) (g : Nat) (x : Group) : (s.setGroup g x).spdm = s.spdm := rfl
@[simp] theorem setGroup_replies (s : State) (g : Nat) (x : Group) : (s.setGroup g x).replies = s.replies := rfl

/-! ### setLaunch -/

@[simp] theorem setLaunch_time (s : State) (l : Nat) (x : Launch) : (s.setLaunch l x).time = s.time := rfl
@[simp] theorem setLaunch_free (s : State) (l : Nat) (x : Launch) : (s.setLaunch l x).free = s.free := rfl
@[simp] theorem setLaunch_turn (s : State) (l : Nat) (x : Launch) : (s.setLaunch l x).turn = s.turn := rfl
@[simp] theorem setLaunch_sel (s : State) (l : Nat) (x : Launch) : (s.setLaunch l x).sel = s.sel := rfl
@[simp] theorem setLaunch_agenda (s : State) (l : Nat) (x : Launch) : (s.setLaunch l x).agenda = s.agenda := rfl
@[simp] theorem setLaunch_rr (s : State) (l : Nat) (x : Launch) : (s.setLaunch l x).rr = s.rr := rfl
@[simp] theorem setLaunch_inCycle (s : State) (l : Nat) (x : Launch) : (s.setLaunch l x).inCycle = s.inCycle := rfl
@[simp] theorem setLaunch_fenced (s : State) (l : Nat) (x : Launch) : (s.setLaunch l x).fenced = s.fenced := rfl
@[simp] theorem setLaunch_posts (s : State) (l : Nat) (x : Launch) : (s.setLaunch l x).posts = s.posts := rfl
@[simp] theorem setLaunch_hbm (s : State) (l : Nat) (x : Launch) : (s.setLaunch l x).hbm = s.hbm := rfl
@[simp] theorem setLaunch_host (s : State) (l : Nat) (x : Launch) : (s.setLaunch l x).host = s.host := rfl
@[simp] theorem setLaunch_peers (s : State) (l : Nat) (x : Launch) : (s.setLaunch l x).peers = s.peers := rfl
@[simp] theorem setLaunch_cores (s : State) (l : Nat) (x : Launch) : (s.setLaunch l x).cores = s.cores := rfl
@[simp] theorem setLaunch_groups (s : State) (l : Nat) (x : Launch) : (s.setLaunch l x).groups = s.groups := rfl
@[simp] theorem setLaunch_records (s : State) (l : Nat) (x : Launch) : (s.setLaunch l x).records = s.records := rfl
@[simp] theorem setLaunch_nextGroup (s : State) (l : Nat) (x : Launch) : (s.setLaunch l x).nextGroup = s.nextGroup := rfl
@[simp] theorem setLaunch_objects (s : State) (l : Nat) (x : Launch) : (s.setLaunch l x).objects = s.objects := rfl
@[simp] theorem setLaunch_ctxs (s : State) (l : Nat) (x : Launch) : (s.setLaunch l x).ctxs = s.ctxs := rfl
@[simp] theorem setLaunch_queues (s : State) (l : Nat) (x : Launch) : (s.setLaunch l x).queues = s.queues := rfl
@[simp] theorem setLaunch_fns (s : State) (l : Nat) (x : Launch) : (s.setLaunch l x).fns = s.fns := rfl
@[simp] theorem setLaunch_parts (s : State) (l : Nat) (x : Launch) : (s.setLaunch l x).parts = s.parts := rfl
@[simp] theorem setLaunch_reqs (s : State) (l : Nat) (x : Launch) : (s.setLaunch l x).reqs = s.reqs := rfl
@[simp] theorem setLaunch_nextReq (s : State) (l : Nat) (x : Launch) : (s.setLaunch l x).nextReq = s.nextReq := rfl
@[simp] theorem setLaunch_failed (s : State) (l : Nat) (x : Launch) : (s.setLaunch l x).failed = s.failed := rfl
@[simp] theorem setLaunch_accessRecords (s : State) (l : Nat) (x : Launch) : (s.setLaunch l x).accessRecords = s.accessRecords := rfl
@[simp] theorem setLaunch_meters (s : State) (l : Nat) (x : Launch) : (s.setLaunch l x).meters = s.meters := rfl
@[simp] theorem setLaunch_payer (s : State) (l : Nat) (x : Launch) : (s.setLaunch l x).payer = s.payer := rfl
@[simp] theorem setLaunch_l2 (s : State) (l : Nat) (x : Launch) : (s.setLaunch l x).l2 = s.l2 := rfl
@[simp] theorem setLaunch_ports (s : State) (l : Nat) (x : Launch) : (s.setLaunch l x).ports = s.ports := rfl
@[simp] theorem setLaunch_shares (s : State) (l : Nat) (x : Launch) : (s.setLaunch l x).shares = s.shares := rfl
@[simp] theorem setLaunch_flash (s : State) (l : Nat) (x : Launch) : (s.setLaunch l x).flash = s.flash := rfl
@[simp] theorem setLaunch_boot (s : State) (l : Nat) (x : Launch) : (s.setLaunch l x).boot = s.boot := rfl
@[simp] theorem setLaunch_spSeq (s : State) (l : Nat) (x : Launch) : (s.setLaunch l x).spSeq = s.spSeq := rfl
@[simp] theorem setLaunch_spJob (s : State) (l : Nat) (x : Launch) : (s.setLaunch l x).spJob = s.spJob := rfl
@[simp] theorem setLaunch_spWait (s : State) (l : Nat) (x : Launch) : (s.setLaunch l x).spWait = s.spWait := rfl
@[simp] theorem setLaunch_spdm (s : State) (l : Nat) (x : Launch) : (s.setLaunch l x).spdm = s.spdm := rfl
@[simp] theorem setLaunch_replies (s : State) (l : Nat) (x : Launch) : (s.setLaunch l x).replies = s.replies := rfl

/-! ### post -/

@[simp] theorem post_time (s : State) (i : Instr) : (s.post i).time = s.time := rfl
@[simp] theorem post_free (s : State) (i : Instr) : (s.post i).free = s.free := rfl
@[simp] theorem post_turn (s : State) (i : Instr) : (s.post i).turn = s.turn := rfl
@[simp] theorem post_sel (s : State) (i : Instr) : (s.post i).sel = s.sel := rfl
@[simp] theorem post_rr (s : State) (i : Instr) : (s.post i).rr = s.rr := rfl
@[simp] theorem post_inCycle (s : State) (i : Instr) : (s.post i).inCycle = s.inCycle := rfl
@[simp] theorem post_fenced (s : State) (i : Instr) : (s.post i).fenced = s.fenced := rfl
@[simp] theorem post_posts (s : State) (i : Instr) : (s.post i).posts = s.posts := rfl
@[simp] theorem post_hbm (s : State) (i : Instr) : (s.post i).hbm = s.hbm := rfl
@[simp] theorem post_host (s : State) (i : Instr) : (s.post i).host = s.host := rfl
@[simp] theorem post_peers (s : State) (i : Instr) : (s.post i).peers = s.peers := rfl
@[simp] theorem post_cores (s : State) (i : Instr) : (s.post i).cores = s.cores := rfl
@[simp] theorem post_groups (s : State) (i : Instr) : (s.post i).groups = s.groups := rfl
@[simp] theorem post_records (s : State) (i : Instr) : (s.post i).records = s.records := rfl
@[simp] theorem post_nextGroup (s : State) (i : Instr) : (s.post i).nextGroup = s.nextGroup := rfl
@[simp] theorem post_launches (s : State) (i : Instr) : (s.post i).launches = s.launches := rfl
@[simp] theorem post_objects (s : State) (i : Instr) : (s.post i).objects = s.objects := rfl
@[simp] theorem post_ctxs (s : State) (i : Instr) : (s.post i).ctxs = s.ctxs := rfl
@[simp] theorem post_queues (s : State) (i : Instr) : (s.post i).queues = s.queues := rfl
@[simp] theorem post_fns (s : State) (i : Instr) : (s.post i).fns = s.fns := rfl
@[simp] theorem post_parts (s : State) (i : Instr) : (s.post i).parts = s.parts := rfl
@[simp] theorem post_reqs (s : State) (i : Instr) : (s.post i).reqs = s.reqs := rfl
@[simp] theorem post_nextReq (s : State) (i : Instr) : (s.post i).nextReq = s.nextReq := rfl
@[simp] theorem post_failed (s : State) (i : Instr) : (s.post i).failed = s.failed := rfl
@[simp] theorem post_accessRecords (s : State) (i : Instr) : (s.post i).accessRecords = s.accessRecords := rfl
@[simp] theorem post_meters (s : State) (i : Instr) : (s.post i).meters = s.meters := rfl
@[simp] theorem post_payer (s : State) (i : Instr) : (s.post i).payer = s.payer := rfl
@[simp] theorem post_l2 (s : State) (i : Instr) : (s.post i).l2 = s.l2 := rfl
@[simp] theorem post_ports (s : State) (i : Instr) : (s.post i).ports = s.ports := rfl
@[simp] theorem post_shares (s : State) (i : Instr) : (s.post i).shares = s.shares := rfl
@[simp] theorem post_flash (s : State) (i : Instr) : (s.post i).flash = s.flash := rfl
@[simp] theorem post_boot (s : State) (i : Instr) : (s.post i).boot = s.boot := rfl
@[simp] theorem post_spSeq (s : State) (i : Instr) : (s.post i).spSeq = s.spSeq := rfl
@[simp] theorem post_spJob (s : State) (i : Instr) : (s.post i).spJob = s.spJob := rfl
@[simp] theorem post_spWait (s : State) (i : Instr) : (s.post i).spWait = s.spWait := rfl
@[simp] theorem post_spdm (s : State) (i : Instr) : (s.post i).spdm = s.spdm := rfl
@[simp] theorem post_replies (s : State) (i : Instr) : (s.post i).replies = s.replies := rfl

/-! ### postFirst -/

@[simp] theorem postFirst_time (s : State) (i : Instr) : (s.postFirst i).time = s.time := rfl
@[simp] theorem postFirst_free (s : State) (i : Instr) : (s.postFirst i).free = s.free := rfl
@[simp] theorem postFirst_turn (s : State) (i : Instr) : (s.postFirst i).turn = s.turn := rfl
@[simp] theorem postFirst_sel (s : State) (i : Instr) : (s.postFirst i).sel = s.sel := rfl
@[simp] theorem postFirst_rr (s : State) (i : Instr) : (s.postFirst i).rr = s.rr := rfl
@[simp] theorem postFirst_inCycle (s : State) (i : Instr) : (s.postFirst i).inCycle = s.inCycle := rfl
@[simp] theorem postFirst_fenced (s : State) (i : Instr) : (s.postFirst i).fenced = s.fenced := rfl
@[simp] theorem postFirst_posts (s : State) (i : Instr) : (s.postFirst i).posts = s.posts := rfl
@[simp] theorem postFirst_hbm (s : State) (i : Instr) : (s.postFirst i).hbm = s.hbm := rfl
@[simp] theorem postFirst_host (s : State) (i : Instr) : (s.postFirst i).host = s.host := rfl
@[simp] theorem postFirst_peers (s : State) (i : Instr) : (s.postFirst i).peers = s.peers := rfl
@[simp] theorem postFirst_cores (s : State) (i : Instr) : (s.postFirst i).cores = s.cores := rfl
@[simp] theorem postFirst_groups (s : State) (i : Instr) : (s.postFirst i).groups = s.groups := rfl
@[simp] theorem postFirst_records (s : State) (i : Instr) : (s.postFirst i).records = s.records := rfl
@[simp] theorem postFirst_nextGroup (s : State) (i : Instr) : (s.postFirst i).nextGroup = s.nextGroup := rfl
@[simp] theorem postFirst_launches (s : State) (i : Instr) : (s.postFirst i).launches = s.launches := rfl
@[simp] theorem postFirst_objects (s : State) (i : Instr) : (s.postFirst i).objects = s.objects := rfl
@[simp] theorem postFirst_ctxs (s : State) (i : Instr) : (s.postFirst i).ctxs = s.ctxs := rfl
@[simp] theorem postFirst_queues (s : State) (i : Instr) : (s.postFirst i).queues = s.queues := rfl
@[simp] theorem postFirst_fns (s : State) (i : Instr) : (s.postFirst i).fns = s.fns := rfl
@[simp] theorem postFirst_parts (s : State) (i : Instr) : (s.postFirst i).parts = s.parts := rfl
@[simp] theorem postFirst_reqs (s : State) (i : Instr) : (s.postFirst i).reqs = s.reqs := rfl
@[simp] theorem postFirst_nextReq (s : State) (i : Instr) : (s.postFirst i).nextReq = s.nextReq := rfl
@[simp] theorem postFirst_failed (s : State) (i : Instr) : (s.postFirst i).failed = s.failed := rfl
@[simp] theorem postFirst_accessRecords (s : State) (i : Instr) : (s.postFirst i).accessRecords = s.accessRecords := rfl
@[simp] theorem postFirst_meters (s : State) (i : Instr) : (s.postFirst i).meters = s.meters := rfl
@[simp] theorem postFirst_payer (s : State) (i : Instr) : (s.postFirst i).payer = s.payer := rfl
@[simp] theorem postFirst_l2 (s : State) (i : Instr) : (s.postFirst i).l2 = s.l2 := rfl
@[simp] theorem postFirst_ports (s : State) (i : Instr) : (s.postFirst i).ports = s.ports := rfl
@[simp] theorem postFirst_shares (s : State) (i : Instr) : (s.postFirst i).shares = s.shares := rfl
@[simp] theorem postFirst_flash (s : State) (i : Instr) : (s.postFirst i).flash = s.flash := rfl
@[simp] theorem postFirst_boot (s : State) (i : Instr) : (s.postFirst i).boot = s.boot := rfl
@[simp] theorem postFirst_spSeq (s : State) (i : Instr) : (s.postFirst i).spSeq = s.spSeq := rfl
@[simp] theorem postFirst_spJob (s : State) (i : Instr) : (s.postFirst i).spJob = s.spJob := rfl
@[simp] theorem postFirst_spWait (s : State) (i : Instr) : (s.postFirst i).spWait = s.spWait := rfl
@[simp] theorem postFirst_spdm (s : State) (i : Instr) : (s.postFirst i).spdm = s.spdm := rfl
@[simp] theorem postFirst_replies (s : State) (i : Instr) : (s.postFirst i).replies = s.replies := rfl

/-! ### deselect -/

@[simp] theorem deselect_time (s : State) : (s.deselect).time = s.time := rfl
@[simp] theorem deselect_free (s : State) : (s.deselect).free = s.free := rfl
@[simp] theorem deselect_turn (s : State) : (s.deselect).turn = s.turn := rfl
@[simp] theorem deselect_agenda (s : State) : (s.deselect).agenda = s.agenda := rfl
@[simp] theorem deselect_rr (s : State) : (s.deselect).rr = s.rr := rfl
@[simp] theorem deselect_inCycle (s : State) : (s.deselect).inCycle = s.inCycle := rfl
@[simp] theorem deselect_fenced (s : State) : (s.deselect).fenced = s.fenced := rfl
@[simp] theorem deselect_posts (s : State) : (s.deselect).posts = s.posts := rfl
@[simp] theorem deselect_hbm (s : State) : (s.deselect).hbm = s.hbm := rfl
@[simp] theorem deselect_host (s : State) : (s.deselect).host = s.host := rfl
@[simp] theorem deselect_peers (s : State) : (s.deselect).peers = s.peers := rfl
@[simp] theorem deselect_cores (s : State) : (s.deselect).cores = s.cores := rfl
@[simp] theorem deselect_groups (s : State) : (s.deselect).groups = s.groups := rfl
@[simp] theorem deselect_records (s : State) : (s.deselect).records = s.records := rfl
@[simp] theorem deselect_nextGroup (s : State) : (s.deselect).nextGroup = s.nextGroup := rfl
@[simp] theorem deselect_launches (s : State) : (s.deselect).launches = s.launches := rfl
@[simp] theorem deselect_objects (s : State) : (s.deselect).objects = s.objects := rfl
@[simp] theorem deselect_ctxs (s : State) : (s.deselect).ctxs = s.ctxs := rfl
@[simp] theorem deselect_queues (s : State) : (s.deselect).queues = s.queues := rfl
@[simp] theorem deselect_fns (s : State) : (s.deselect).fns = s.fns := rfl
@[simp] theorem deselect_parts (s : State) : (s.deselect).parts = s.parts := rfl
@[simp] theorem deselect_reqs (s : State) : (s.deselect).reqs = s.reqs := rfl
@[simp] theorem deselect_nextReq (s : State) : (s.deselect).nextReq = s.nextReq := rfl
@[simp] theorem deselect_failed (s : State) : (s.deselect).failed = s.failed := rfl
@[simp] theorem deselect_accessRecords (s : State) : (s.deselect).accessRecords = s.accessRecords := rfl
@[simp] theorem deselect_meters (s : State) : (s.deselect).meters = s.meters := rfl
@[simp] theorem deselect_payer (s : State) : (s.deselect).payer = s.payer := rfl
@[simp] theorem deselect_l2 (s : State) : (s.deselect).l2 = s.l2 := rfl
@[simp] theorem deselect_ports (s : State) : (s.deselect).ports = s.ports := rfl
@[simp] theorem deselect_shares (s : State) : (s.deselect).shares = s.shares := rfl
@[simp] theorem deselect_flash (s : State) : (s.deselect).flash = s.flash := rfl
@[simp] theorem deselect_boot (s : State) : (s.deselect).boot = s.boot := rfl
@[simp] theorem deselect_spSeq (s : State) : (s.deselect).spSeq = s.spSeq := rfl
@[simp] theorem deselect_spJob (s : State) : (s.deselect).spJob = s.spJob := rfl
@[simp] theorem deselect_spWait (s : State) : (s.deselect).spWait = s.spWait := rfl
@[simp] theorem deselect_spdm (s : State) : (s.deselect).spdm = s.spdm := rfl
@[simp] theorem deselect_replies (s : State) : (s.deselect).replies = s.replies := rfl

/-! ### updGroup -/

@[simp] theorem updGroup_time (s : State) (g : Nat) (f : Group → Group) : (s.updGroup g f).time = s.time := by unfold State.updGroup; split <;> rfl
@[simp] theorem updGroup_free (s : State) (g : Nat) (f : Group → Group) : (s.updGroup g f).free = s.free := by unfold State.updGroup; split <;> rfl
@[simp] theorem updGroup_turn (s : State) (g : Nat) (f : Group → Group) : (s.updGroup g f).turn = s.turn := by unfold State.updGroup; split <;> rfl
@[simp] theorem updGroup_sel (s : State) (g : Nat) (f : Group → Group) : (s.updGroup g f).sel = s.sel := by unfold State.updGroup; split <;> rfl
@[simp] theorem updGroup_agenda (s : State) (g : Nat) (f : Group → Group) : (s.updGroup g f).agenda = s.agenda := by unfold State.updGroup; split <;> rfl
@[simp] theorem updGroup_rr (s : State) (g : Nat) (f : Group → Group) : (s.updGroup g f).rr = s.rr := by unfold State.updGroup; split <;> rfl
@[simp] theorem updGroup_inCycle (s : State) (g : Nat) (f : Group → Group) : (s.updGroup g f).inCycle = s.inCycle := by unfold State.updGroup; split <;> rfl
@[simp] theorem updGroup_fenced (s : State) (g : Nat) (f : Group → Group) : (s.updGroup g f).fenced = s.fenced := by unfold State.updGroup; split <;> rfl
@[simp] theorem updGroup_posts (s : State) (g : Nat) (f : Group → Group) : (s.updGroup g f).posts = s.posts := by unfold State.updGroup; split <;> rfl
@[simp] theorem updGroup_hbm (s : State) (g : Nat) (f : Group → Group) : (s.updGroup g f).hbm = s.hbm := by unfold State.updGroup; split <;> rfl
@[simp] theorem updGroup_host (s : State) (g : Nat) (f : Group → Group) : (s.updGroup g f).host = s.host := by unfold State.updGroup; split <;> rfl
@[simp] theorem updGroup_peers (s : State) (g : Nat) (f : Group → Group) : (s.updGroup g f).peers = s.peers := by unfold State.updGroup; split <;> rfl
@[simp] theorem updGroup_cores (s : State) (g : Nat) (f : Group → Group) : (s.updGroup g f).cores = s.cores := by unfold State.updGroup; split <;> rfl
@[simp] theorem updGroup_records (s : State) (g : Nat) (f : Group → Group) : (s.updGroup g f).records = s.records := by unfold State.updGroup; split <;> rfl
@[simp] theorem updGroup_nextGroup (s : State) (g : Nat) (f : Group → Group) : (s.updGroup g f).nextGroup = s.nextGroup := by unfold State.updGroup; split <;> rfl
@[simp] theorem updGroup_launches (s : State) (g : Nat) (f : Group → Group) : (s.updGroup g f).launches = s.launches := by unfold State.updGroup; split <;> rfl
@[simp] theorem updGroup_objects (s : State) (g : Nat) (f : Group → Group) : (s.updGroup g f).objects = s.objects := by unfold State.updGroup; split <;> rfl
@[simp] theorem updGroup_ctxs (s : State) (g : Nat) (f : Group → Group) : (s.updGroup g f).ctxs = s.ctxs := by unfold State.updGroup; split <;> rfl
@[simp] theorem updGroup_queues (s : State) (g : Nat) (f : Group → Group) : (s.updGroup g f).queues = s.queues := by unfold State.updGroup; split <;> rfl
@[simp] theorem updGroup_fns (s : State) (g : Nat) (f : Group → Group) : (s.updGroup g f).fns = s.fns := by unfold State.updGroup; split <;> rfl
@[simp] theorem updGroup_parts (s : State) (g : Nat) (f : Group → Group) : (s.updGroup g f).parts = s.parts := by unfold State.updGroup; split <;> rfl
@[simp] theorem updGroup_reqs (s : State) (g : Nat) (f : Group → Group) : (s.updGroup g f).reqs = s.reqs := by unfold State.updGroup; split <;> rfl
@[simp] theorem updGroup_nextReq (s : State) (g : Nat) (f : Group → Group) : (s.updGroup g f).nextReq = s.nextReq := by unfold State.updGroup; split <;> rfl
@[simp] theorem updGroup_failed (s : State) (g : Nat) (f : Group → Group) : (s.updGroup g f).failed = s.failed := by unfold State.updGroup; split <;> rfl
@[simp] theorem updGroup_accessRecords (s : State) (g : Nat) (f : Group → Group) : (s.updGroup g f).accessRecords = s.accessRecords := by unfold State.updGroup; split <;> rfl
@[simp] theorem updGroup_meters (s : State) (g : Nat) (f : Group → Group) : (s.updGroup g f).meters = s.meters := by unfold State.updGroup; split <;> rfl
@[simp] theorem updGroup_payer (s : State) (g : Nat) (f : Group → Group) : (s.updGroup g f).payer = s.payer := by unfold State.updGroup; split <;> rfl
@[simp] theorem updGroup_l2 (s : State) (g : Nat) (f : Group → Group) : (s.updGroup g f).l2 = s.l2 := by unfold State.updGroup; split <;> rfl
@[simp] theorem updGroup_ports (s : State) (g : Nat) (f : Group → Group) : (s.updGroup g f).ports = s.ports := by unfold State.updGroup; split <;> rfl
@[simp] theorem updGroup_shares (s : State) (g : Nat) (f : Group → Group) : (s.updGroup g f).shares = s.shares := by unfold State.updGroup; split <;> rfl
@[simp] theorem updGroup_flash (s : State) (g : Nat) (f : Group → Group) : (s.updGroup g f).flash = s.flash := by unfold State.updGroup; split <;> rfl
@[simp] theorem updGroup_boot (s : State) (g : Nat) (f : Group → Group) : (s.updGroup g f).boot = s.boot := by unfold State.updGroup; split <;> rfl
@[simp] theorem updGroup_spSeq (s : State) (g : Nat) (f : Group → Group) : (s.updGroup g f).spSeq = s.spSeq := by unfold State.updGroup; split <;> rfl
@[simp] theorem updGroup_spJob (s : State) (g : Nat) (f : Group → Group) : (s.updGroup g f).spJob = s.spJob := by unfold State.updGroup; split <;> rfl
@[simp] theorem updGroup_spWait (s : State) (g : Nat) (f : Group → Group) : (s.updGroup g f).spWait = s.spWait := by unfold State.updGroup; split <;> rfl
@[simp] theorem updGroup_spdm (s : State) (g : Nat) (f : Group → Group) : (s.updGroup g f).spdm = s.spdm := by unfold State.updGroup; split <;> rfl
@[simp] theorem updGroup_replies (s : State) (g : Nat) (f : Group → Group) : (s.updGroup g f).replies = s.replies := by unfold State.updGroup; split <;> rfl

/-! ### updCourse -/

@[simp] theorem updCourse_time (s : State) (g c : Nat) (f : Course → Course) : (s.updCourse g c f).time = s.time := by simp [State.updCourse]
@[simp] theorem updCourse_free (s : State) (g c : Nat) (f : Course → Course) : (s.updCourse g c f).free = s.free := by simp [State.updCourse]
@[simp] theorem updCourse_turn (s : State) (g c : Nat) (f : Course → Course) : (s.updCourse g c f).turn = s.turn := by simp [State.updCourse]
@[simp] theorem updCourse_sel (s : State) (g c : Nat) (f : Course → Course) : (s.updCourse g c f).sel = s.sel := by simp [State.updCourse]
@[simp] theorem updCourse_agenda (s : State) (g c : Nat) (f : Course → Course) : (s.updCourse g c f).agenda = s.agenda := by simp [State.updCourse]
@[simp] theorem updCourse_rr (s : State) (g c : Nat) (f : Course → Course) : (s.updCourse g c f).rr = s.rr := by simp [State.updCourse]
@[simp] theorem updCourse_inCycle (s : State) (g c : Nat) (f : Course → Course) : (s.updCourse g c f).inCycle = s.inCycle := by simp [State.updCourse]
@[simp] theorem updCourse_fenced (s : State) (g c : Nat) (f : Course → Course) : (s.updCourse g c f).fenced = s.fenced := by simp [State.updCourse]
@[simp] theorem updCourse_posts (s : State) (g c : Nat) (f : Course → Course) : (s.updCourse g c f).posts = s.posts := by simp [State.updCourse]
@[simp] theorem updCourse_hbm (s : State) (g c : Nat) (f : Course → Course) : (s.updCourse g c f).hbm = s.hbm := by simp [State.updCourse]
@[simp] theorem updCourse_host (s : State) (g c : Nat) (f : Course → Course) : (s.updCourse g c f).host = s.host := by simp [State.updCourse]
@[simp] theorem updCourse_peers (s : State) (g c : Nat) (f : Course → Course) : (s.updCourse g c f).peers = s.peers := by simp [State.updCourse]
@[simp] theorem updCourse_cores (s : State) (g c : Nat) (f : Course → Course) : (s.updCourse g c f).cores = s.cores := by simp [State.updCourse]
@[simp] theorem updCourse_records (s : State) (g c : Nat) (f : Course → Course) : (s.updCourse g c f).records = s.records := by simp [State.updCourse]
@[simp] theorem updCourse_nextGroup (s : State) (g c : Nat) (f : Course → Course) : (s.updCourse g c f).nextGroup = s.nextGroup := by simp [State.updCourse]
@[simp] theorem updCourse_launches (s : State) (g c : Nat) (f : Course → Course) : (s.updCourse g c f).launches = s.launches := by simp [State.updCourse]
@[simp] theorem updCourse_objects (s : State) (g c : Nat) (f : Course → Course) : (s.updCourse g c f).objects = s.objects := by simp [State.updCourse]
@[simp] theorem updCourse_ctxs (s : State) (g c : Nat) (f : Course → Course) : (s.updCourse g c f).ctxs = s.ctxs := by simp [State.updCourse]
@[simp] theorem updCourse_queues (s : State) (g c : Nat) (f : Course → Course) : (s.updCourse g c f).queues = s.queues := by simp [State.updCourse]
@[simp] theorem updCourse_fns (s : State) (g c : Nat) (f : Course → Course) : (s.updCourse g c f).fns = s.fns := by simp [State.updCourse]
@[simp] theorem updCourse_parts (s : State) (g c : Nat) (f : Course → Course) : (s.updCourse g c f).parts = s.parts := by simp [State.updCourse]
@[simp] theorem updCourse_reqs (s : State) (g c : Nat) (f : Course → Course) : (s.updCourse g c f).reqs = s.reqs := by simp [State.updCourse]
@[simp] theorem updCourse_nextReq (s : State) (g c : Nat) (f : Course → Course) : (s.updCourse g c f).nextReq = s.nextReq := by simp [State.updCourse]
@[simp] theorem updCourse_failed (s : State) (g c : Nat) (f : Course → Course) : (s.updCourse g c f).failed = s.failed := by simp [State.updCourse]
@[simp] theorem updCourse_accessRecords (s : State) (g c : Nat) (f : Course → Course) : (s.updCourse g c f).accessRecords = s.accessRecords := by simp [State.updCourse]
@[simp] theorem updCourse_meters (s : State) (g c : Nat) (f : Course → Course) : (s.updCourse g c f).meters = s.meters := by simp [State.updCourse]
@[simp] theorem updCourse_payer (s : State) (g c : Nat) (f : Course → Course) : (s.updCourse g c f).payer = s.payer := by simp [State.updCourse]
@[simp] theorem updCourse_l2 (s : State) (g c : Nat) (f : Course → Course) : (s.updCourse g c f).l2 = s.l2 := by simp [State.updCourse]
@[simp] theorem updCourse_ports (s : State) (g c : Nat) (f : Course → Course) : (s.updCourse g c f).ports = s.ports := by simp [State.updCourse]
@[simp] theorem updCourse_shares (s : State) (g c : Nat) (f : Course → Course) : (s.updCourse g c f).shares = s.shares := by simp [State.updCourse]
@[simp] theorem updCourse_flash (s : State) (g c : Nat) (f : Course → Course) : (s.updCourse g c f).flash = s.flash := by simp [State.updCourse]
@[simp] theorem updCourse_boot (s : State) (g c : Nat) (f : Course → Course) : (s.updCourse g c f).boot = s.boot := by simp [State.updCourse]
@[simp] theorem updCourse_spSeq (s : State) (g c : Nat) (f : Course → Course) : (s.updCourse g c f).spSeq = s.spSeq := by simp [State.updCourse]
@[simp] theorem updCourse_spJob (s : State) (g c : Nat) (f : Course → Course) : (s.updCourse g c f).spJob = s.spJob := by simp [State.updCourse]
@[simp] theorem updCourse_spWait (s : State) (g c : Nat) (f : Course → Course) : (s.updCourse g c f).spWait = s.spWait := by simp [State.updCourse]
@[simp] theorem updCourse_spdm (s : State) (g c : Nat) (f : Course → Course) : (s.updCourse g c f).spdm = s.spdm := by simp [State.updCourse]
@[simp] theorem updCourse_replies (s : State) (g c : Nat) (f : Course → Course) : (s.updCourse g c f).replies = s.replies := by simp [State.updCourse]

/-! ### updLane -/

@[simp] theorem updLane_time (s : State) (g c n : Nat) (f : Lane → Lane) : (s.updLane g c n f).time = s.time := by simp [State.updLane]
@[simp] theorem updLane_free (s : State) (g c n : Nat) (f : Lane → Lane) : (s.updLane g c n f).free = s.free := by simp [State.updLane]
@[simp] theorem updLane_turn (s : State) (g c n : Nat) (f : Lane → Lane) : (s.updLane g c n f).turn = s.turn := by simp [State.updLane]
@[simp] theorem updLane_sel (s : State) (g c n : Nat) (f : Lane → Lane) : (s.updLane g c n f).sel = s.sel := by simp [State.updLane]
@[simp] theorem updLane_agenda (s : State) (g c n : Nat) (f : Lane → Lane) : (s.updLane g c n f).agenda = s.agenda := by simp [State.updLane]
@[simp] theorem updLane_rr (s : State) (g c n : Nat) (f : Lane → Lane) : (s.updLane g c n f).rr = s.rr := by simp [State.updLane]
@[simp] theorem updLane_inCycle (s : State) (g c n : Nat) (f : Lane → Lane) : (s.updLane g c n f).inCycle = s.inCycle := by simp [State.updLane]
@[simp] theorem updLane_fenced (s : State) (g c n : Nat) (f : Lane → Lane) : (s.updLane g c n f).fenced = s.fenced := by simp [State.updLane]
@[simp] theorem updLane_posts (s : State) (g c n : Nat) (f : Lane → Lane) : (s.updLane g c n f).posts = s.posts := by simp [State.updLane]
@[simp] theorem updLane_hbm (s : State) (g c n : Nat) (f : Lane → Lane) : (s.updLane g c n f).hbm = s.hbm := by simp [State.updLane]
@[simp] theorem updLane_host (s : State) (g c n : Nat) (f : Lane → Lane) : (s.updLane g c n f).host = s.host := by simp [State.updLane]
@[simp] theorem updLane_peers (s : State) (g c n : Nat) (f : Lane → Lane) : (s.updLane g c n f).peers = s.peers := by simp [State.updLane]
@[simp] theorem updLane_cores (s : State) (g c n : Nat) (f : Lane → Lane) : (s.updLane g c n f).cores = s.cores := by simp [State.updLane]
@[simp] theorem updLane_records (s : State) (g c n : Nat) (f : Lane → Lane) : (s.updLane g c n f).records = s.records := by simp [State.updLane]
@[simp] theorem updLane_nextGroup (s : State) (g c n : Nat) (f : Lane → Lane) : (s.updLane g c n f).nextGroup = s.nextGroup := by simp [State.updLane]
@[simp] theorem updLane_launches (s : State) (g c n : Nat) (f : Lane → Lane) : (s.updLane g c n f).launches = s.launches := by simp [State.updLane]
@[simp] theorem updLane_objects (s : State) (g c n : Nat) (f : Lane → Lane) : (s.updLane g c n f).objects = s.objects := by simp [State.updLane]
@[simp] theorem updLane_ctxs (s : State) (g c n : Nat) (f : Lane → Lane) : (s.updLane g c n f).ctxs = s.ctxs := by simp [State.updLane]
@[simp] theorem updLane_queues (s : State) (g c n : Nat) (f : Lane → Lane) : (s.updLane g c n f).queues = s.queues := by simp [State.updLane]
@[simp] theorem updLane_fns (s : State) (g c n : Nat) (f : Lane → Lane) : (s.updLane g c n f).fns = s.fns := by simp [State.updLane]
@[simp] theorem updLane_parts (s : State) (g c n : Nat) (f : Lane → Lane) : (s.updLane g c n f).parts = s.parts := by simp [State.updLane]
@[simp] theorem updLane_reqs (s : State) (g c n : Nat) (f : Lane → Lane) : (s.updLane g c n f).reqs = s.reqs := by simp [State.updLane]
@[simp] theorem updLane_nextReq (s : State) (g c n : Nat) (f : Lane → Lane) : (s.updLane g c n f).nextReq = s.nextReq := by simp [State.updLane]
@[simp] theorem updLane_failed (s : State) (g c n : Nat) (f : Lane → Lane) : (s.updLane g c n f).failed = s.failed := by simp [State.updLane]
@[simp] theorem updLane_accessRecords (s : State) (g c n : Nat) (f : Lane → Lane) : (s.updLane g c n f).accessRecords = s.accessRecords := by simp [State.updLane]
@[simp] theorem updLane_meters (s : State) (g c n : Nat) (f : Lane → Lane) : (s.updLane g c n f).meters = s.meters := by simp [State.updLane]
@[simp] theorem updLane_payer (s : State) (g c n : Nat) (f : Lane → Lane) : (s.updLane g c n f).payer = s.payer := by simp [State.updLane]
@[simp] theorem updLane_l2 (s : State) (g c n : Nat) (f : Lane → Lane) : (s.updLane g c n f).l2 = s.l2 := by simp [State.updLane]
@[simp] theorem updLane_ports (s : State) (g c n : Nat) (f : Lane → Lane) : (s.updLane g c n f).ports = s.ports := by simp [State.updLane]
@[simp] theorem updLane_shares (s : State) (g c n : Nat) (f : Lane → Lane) : (s.updLane g c n f).shares = s.shares := by simp [State.updLane]
@[simp] theorem updLane_flash (s : State) (g c n : Nat) (f : Lane → Lane) : (s.updLane g c n f).flash = s.flash := by simp [State.updLane]
@[simp] theorem updLane_boot (s : State) (g c n : Nat) (f : Lane → Lane) : (s.updLane g c n f).boot = s.boot := by simp [State.updLane]
@[simp] theorem updLane_spSeq (s : State) (g c n : Nat) (f : Lane → Lane) : (s.updLane g c n f).spSeq = s.spSeq := by simp [State.updLane]
@[simp] theorem updLane_spJob (s : State) (g c n : Nat) (f : Lane → Lane) : (s.updLane g c n f).spJob = s.spJob := by simp [State.updLane]
@[simp] theorem updLane_spWait (s : State) (g c n : Nat) (f : Lane → Lane) : (s.updLane g c n f).spWait = s.spWait := by simp [State.updLane]
@[simp] theorem updLane_spdm (s : State) (g c n : Nat) (f : Lane → Lane) : (s.updLane g c n f).spdm = s.spdm := by simp [State.updLane]
@[simp] theorem updLane_replies (s : State) (g c n : Nat) (f : Lane → Lane) : (s.updLane g c n f).replies = s.replies := by simp [State.updLane]

/-! ### updLaunch -/

@[simp] theorem updLaunch_time (s : State) (l : Nat) (f : Launch → Launch) : (s.updLaunch l f).time = s.time := by unfold State.updLaunch; split <;> rfl
@[simp] theorem updLaunch_free (s : State) (l : Nat) (f : Launch → Launch) : (s.updLaunch l f).free = s.free := by unfold State.updLaunch; split <;> rfl
@[simp] theorem updLaunch_turn (s : State) (l : Nat) (f : Launch → Launch) : (s.updLaunch l f).turn = s.turn := by unfold State.updLaunch; split <;> rfl
@[simp] theorem updLaunch_sel (s : State) (l : Nat) (f : Launch → Launch) : (s.updLaunch l f).sel = s.sel := by unfold State.updLaunch; split <;> rfl
@[simp] theorem updLaunch_agenda (s : State) (l : Nat) (f : Launch → Launch) : (s.updLaunch l f).agenda = s.agenda := by unfold State.updLaunch; split <;> rfl
@[simp] theorem updLaunch_rr (s : State) (l : Nat) (f : Launch → Launch) : (s.updLaunch l f).rr = s.rr := by unfold State.updLaunch; split <;> rfl
@[simp] theorem updLaunch_inCycle (s : State) (l : Nat) (f : Launch → Launch) : (s.updLaunch l f).inCycle = s.inCycle := by unfold State.updLaunch; split <;> rfl
@[simp] theorem updLaunch_fenced (s : State) (l : Nat) (f : Launch → Launch) : (s.updLaunch l f).fenced = s.fenced := by unfold State.updLaunch; split <;> rfl
@[simp] theorem updLaunch_posts (s : State) (l : Nat) (f : Launch → Launch) : (s.updLaunch l f).posts = s.posts := by unfold State.updLaunch; split <;> rfl
@[simp] theorem updLaunch_hbm (s : State) (l : Nat) (f : Launch → Launch) : (s.updLaunch l f).hbm = s.hbm := by unfold State.updLaunch; split <;> rfl
@[simp] theorem updLaunch_host (s : State) (l : Nat) (f : Launch → Launch) : (s.updLaunch l f).host = s.host := by unfold State.updLaunch; split <;> rfl
@[simp] theorem updLaunch_peers (s : State) (l : Nat) (f : Launch → Launch) : (s.updLaunch l f).peers = s.peers := by unfold State.updLaunch; split <;> rfl
@[simp] theorem updLaunch_cores (s : State) (l : Nat) (f : Launch → Launch) : (s.updLaunch l f).cores = s.cores := by unfold State.updLaunch; split <;> rfl
@[simp] theorem updLaunch_groups (s : State) (l : Nat) (f : Launch → Launch) : (s.updLaunch l f).groups = s.groups := by unfold State.updLaunch; split <;> rfl
@[simp] theorem updLaunch_records (s : State) (l : Nat) (f : Launch → Launch) : (s.updLaunch l f).records = s.records := by unfold State.updLaunch; split <;> rfl
@[simp] theorem updLaunch_nextGroup (s : State) (l : Nat) (f : Launch → Launch) : (s.updLaunch l f).nextGroup = s.nextGroup := by unfold State.updLaunch; split <;> rfl
@[simp] theorem updLaunch_objects (s : State) (l : Nat) (f : Launch → Launch) : (s.updLaunch l f).objects = s.objects := by unfold State.updLaunch; split <;> rfl
@[simp] theorem updLaunch_ctxs (s : State) (l : Nat) (f : Launch → Launch) : (s.updLaunch l f).ctxs = s.ctxs := by unfold State.updLaunch; split <;> rfl
@[simp] theorem updLaunch_queues (s : State) (l : Nat) (f : Launch → Launch) : (s.updLaunch l f).queues = s.queues := by unfold State.updLaunch; split <;> rfl
@[simp] theorem updLaunch_fns (s : State) (l : Nat) (f : Launch → Launch) : (s.updLaunch l f).fns = s.fns := by unfold State.updLaunch; split <;> rfl
@[simp] theorem updLaunch_parts (s : State) (l : Nat) (f : Launch → Launch) : (s.updLaunch l f).parts = s.parts := by unfold State.updLaunch; split <;> rfl
@[simp] theorem updLaunch_reqs (s : State) (l : Nat) (f : Launch → Launch) : (s.updLaunch l f).reqs = s.reqs := by unfold State.updLaunch; split <;> rfl
@[simp] theorem updLaunch_nextReq (s : State) (l : Nat) (f : Launch → Launch) : (s.updLaunch l f).nextReq = s.nextReq := by unfold State.updLaunch; split <;> rfl
@[simp] theorem updLaunch_failed (s : State) (l : Nat) (f : Launch → Launch) : (s.updLaunch l f).failed = s.failed := by unfold State.updLaunch; split <;> rfl
@[simp] theorem updLaunch_accessRecords (s : State) (l : Nat) (f : Launch → Launch) : (s.updLaunch l f).accessRecords = s.accessRecords := by unfold State.updLaunch; split <;> rfl
@[simp] theorem updLaunch_meters (s : State) (l : Nat) (f : Launch → Launch) : (s.updLaunch l f).meters = s.meters := by unfold State.updLaunch; split <;> rfl
@[simp] theorem updLaunch_payer (s : State) (l : Nat) (f : Launch → Launch) : (s.updLaunch l f).payer = s.payer := by unfold State.updLaunch; split <;> rfl
@[simp] theorem updLaunch_l2 (s : State) (l : Nat) (f : Launch → Launch) : (s.updLaunch l f).l2 = s.l2 := by unfold State.updLaunch; split <;> rfl
@[simp] theorem updLaunch_ports (s : State) (l : Nat) (f : Launch → Launch) : (s.updLaunch l f).ports = s.ports := by unfold State.updLaunch; split <;> rfl
@[simp] theorem updLaunch_shares (s : State) (l : Nat) (f : Launch → Launch) : (s.updLaunch l f).shares = s.shares := by unfold State.updLaunch; split <;> rfl
@[simp] theorem updLaunch_flash (s : State) (l : Nat) (f : Launch → Launch) : (s.updLaunch l f).flash = s.flash := by unfold State.updLaunch; split <;> rfl
@[simp] theorem updLaunch_boot (s : State) (l : Nat) (f : Launch → Launch) : (s.updLaunch l f).boot = s.boot := by unfold State.updLaunch; split <;> rfl
@[simp] theorem updLaunch_spSeq (s : State) (l : Nat) (f : Launch → Launch) : (s.updLaunch l f).spSeq = s.spSeq := by unfold State.updLaunch; split <;> rfl
@[simp] theorem updLaunch_spJob (s : State) (l : Nat) (f : Launch → Launch) : (s.updLaunch l f).spJob = s.spJob := by unfold State.updLaunch; split <;> rfl
@[simp] theorem updLaunch_spWait (s : State) (l : Nat) (f : Launch → Launch) : (s.updLaunch l f).spWait = s.spWait := by unfold State.updLaunch; split <;> rfl
@[simp] theorem updLaunch_spdm (s : State) (l : Nat) (f : Launch → Launch) : (s.updLaunch l f).spdm = s.spdm := by unfold State.updLaunch; split <;> rfl
@[simp] theorem updLaunch_replies (s : State) (l : Nat) (f : Launch → Launch) : (s.updLaunch l f).replies = s.replies := by unfold State.updLaunch; split <;> rfl

/-! ### updCtx -/

@[simp] theorem updCtx_time (s : State) (i : Nat) (f : Ctx → Ctx) : (s.updCtx i f).time = s.time := by unfold State.updCtx; split <;> rfl
@[simp] theorem updCtx_free (s : State) (i : Nat) (f : Ctx → Ctx) : (s.updCtx i f).free = s.free := by unfold State.updCtx; split <;> rfl
@[simp] theorem updCtx_turn (s : State) (i : Nat) (f : Ctx → Ctx) : (s.updCtx i f).turn = s.turn := by unfold State.updCtx; split <;> rfl
@[simp] theorem updCtx_sel (s : State) (i : Nat) (f : Ctx → Ctx) : (s.updCtx i f).sel = s.sel := by unfold State.updCtx; split <;> rfl
@[simp] theorem updCtx_agenda (s : State) (i : Nat) (f : Ctx → Ctx) : (s.updCtx i f).agenda = s.agenda := by unfold State.updCtx; split <;> rfl
@[simp] theorem updCtx_rr (s : State) (i : Nat) (f : Ctx → Ctx) : (s.updCtx i f).rr = s.rr := by unfold State.updCtx; split <;> rfl
@[simp] theorem updCtx_inCycle (s : State) (i : Nat) (f : Ctx → Ctx) : (s.updCtx i f).inCycle = s.inCycle := by unfold State.updCtx; split <;> rfl
@[simp] theorem updCtx_fenced (s : State) (i : Nat) (f : Ctx → Ctx) : (s.updCtx i f).fenced = s.fenced := by unfold State.updCtx; split <;> rfl
@[simp] theorem updCtx_posts (s : State) (i : Nat) (f : Ctx → Ctx) : (s.updCtx i f).posts = s.posts := by unfold State.updCtx; split <;> rfl
@[simp] theorem updCtx_hbm (s : State) (i : Nat) (f : Ctx → Ctx) : (s.updCtx i f).hbm = s.hbm := by unfold State.updCtx; split <;> rfl
@[simp] theorem updCtx_host (s : State) (i : Nat) (f : Ctx → Ctx) : (s.updCtx i f).host = s.host := by unfold State.updCtx; split <;> rfl
@[simp] theorem updCtx_peers (s : State) (i : Nat) (f : Ctx → Ctx) : (s.updCtx i f).peers = s.peers := by unfold State.updCtx; split <;> rfl
@[simp] theorem updCtx_cores (s : State) (i : Nat) (f : Ctx → Ctx) : (s.updCtx i f).cores = s.cores := by unfold State.updCtx; split <;> rfl
@[simp] theorem updCtx_groups (s : State) (i : Nat) (f : Ctx → Ctx) : (s.updCtx i f).groups = s.groups := by unfold State.updCtx; split <;> rfl
@[simp] theorem updCtx_records (s : State) (i : Nat) (f : Ctx → Ctx) : (s.updCtx i f).records = s.records := by unfold State.updCtx; split <;> rfl
@[simp] theorem updCtx_nextGroup (s : State) (i : Nat) (f : Ctx → Ctx) : (s.updCtx i f).nextGroup = s.nextGroup := by unfold State.updCtx; split <;> rfl
@[simp] theorem updCtx_launches (s : State) (i : Nat) (f : Ctx → Ctx) : (s.updCtx i f).launches = s.launches := by unfold State.updCtx; split <;> rfl
@[simp] theorem updCtx_objects (s : State) (i : Nat) (f : Ctx → Ctx) : (s.updCtx i f).objects = s.objects := by unfold State.updCtx; split <;> rfl
@[simp] theorem updCtx_queues (s : State) (i : Nat) (f : Ctx → Ctx) : (s.updCtx i f).queues = s.queues := by unfold State.updCtx; split <;> rfl
@[simp] theorem updCtx_fns (s : State) (i : Nat) (f : Ctx → Ctx) : (s.updCtx i f).fns = s.fns := by unfold State.updCtx; split <;> rfl
@[simp] theorem updCtx_parts (s : State) (i : Nat) (f : Ctx → Ctx) : (s.updCtx i f).parts = s.parts := by unfold State.updCtx; split <;> rfl
@[simp] theorem updCtx_reqs (s : State) (i : Nat) (f : Ctx → Ctx) : (s.updCtx i f).reqs = s.reqs := by unfold State.updCtx; split <;> rfl
@[simp] theorem updCtx_nextReq (s : State) (i : Nat) (f : Ctx → Ctx) : (s.updCtx i f).nextReq = s.nextReq := by unfold State.updCtx; split <;> rfl
@[simp] theorem updCtx_failed (s : State) (i : Nat) (f : Ctx → Ctx) : (s.updCtx i f).failed = s.failed := by unfold State.updCtx; split <;> rfl
@[simp] theorem updCtx_accessRecords (s : State) (i : Nat) (f : Ctx → Ctx) : (s.updCtx i f).accessRecords = s.accessRecords := by unfold State.updCtx; split <;> rfl
@[simp] theorem updCtx_meters (s : State) (i : Nat) (f : Ctx → Ctx) : (s.updCtx i f).meters = s.meters := by unfold State.updCtx; split <;> rfl
@[simp] theorem updCtx_payer (s : State) (i : Nat) (f : Ctx → Ctx) : (s.updCtx i f).payer = s.payer := by unfold State.updCtx; split <;> rfl
@[simp] theorem updCtx_l2 (s : State) (i : Nat) (f : Ctx → Ctx) : (s.updCtx i f).l2 = s.l2 := by unfold State.updCtx; split <;> rfl
@[simp] theorem updCtx_ports (s : State) (i : Nat) (f : Ctx → Ctx) : (s.updCtx i f).ports = s.ports := by unfold State.updCtx; split <;> rfl
@[simp] theorem updCtx_shares (s : State) (i : Nat) (f : Ctx → Ctx) : (s.updCtx i f).shares = s.shares := by unfold State.updCtx; split <;> rfl
@[simp] theorem updCtx_flash (s : State) (i : Nat) (f : Ctx → Ctx) : (s.updCtx i f).flash = s.flash := by unfold State.updCtx; split <;> rfl
@[simp] theorem updCtx_boot (s : State) (i : Nat) (f : Ctx → Ctx) : (s.updCtx i f).boot = s.boot := by unfold State.updCtx; split <;> rfl
@[simp] theorem updCtx_spSeq (s : State) (i : Nat) (f : Ctx → Ctx) : (s.updCtx i f).spSeq = s.spSeq := by unfold State.updCtx; split <;> rfl
@[simp] theorem updCtx_spJob (s : State) (i : Nat) (f : Ctx → Ctx) : (s.updCtx i f).spJob = s.spJob := by unfold State.updCtx; split <;> rfl
@[simp] theorem updCtx_spWait (s : State) (i : Nat) (f : Ctx → Ctx) : (s.updCtx i f).spWait = s.spWait := by unfold State.updCtx; split <;> rfl
@[simp] theorem updCtx_spdm (s : State) (i : Nat) (f : Ctx → Ctx) : (s.updCtx i f).spdm = s.spdm := by unfold State.updCtx; split <;> rfl
@[simp] theorem updCtx_replies (s : State) (i : Nat) (f : Ctx → Ctx) : (s.updCtx i f).replies = s.replies := by unfold State.updCtx; split <;> rfl

/-! ### updObj -/

@[simp] theorem updObj_time (s : State) (i : Nat) (f : Obj → Obj) : (s.updObj i f).time = s.time := by unfold State.updObj; split <;> rfl
@[simp] theorem updObj_free (s : State) (i : Nat) (f : Obj → Obj) : (s.updObj i f).free = s.free := by unfold State.updObj; split <;> rfl
@[simp] theorem updObj_turn (s : State) (i : Nat) (f : Obj → Obj) : (s.updObj i f).turn = s.turn := by unfold State.updObj; split <;> rfl
@[simp] theorem updObj_sel (s : State) (i : Nat) (f : Obj → Obj) : (s.updObj i f).sel = s.sel := by unfold State.updObj; split <;> rfl
@[simp] theorem updObj_agenda (s : State) (i : Nat) (f : Obj → Obj) : (s.updObj i f).agenda = s.agenda := by unfold State.updObj; split <;> rfl
@[simp] theorem updObj_rr (s : State) (i : Nat) (f : Obj → Obj) : (s.updObj i f).rr = s.rr := by unfold State.updObj; split <;> rfl
@[simp] theorem updObj_inCycle (s : State) (i : Nat) (f : Obj → Obj) : (s.updObj i f).inCycle = s.inCycle := by unfold State.updObj; split <;> rfl
@[simp] theorem updObj_fenced (s : State) (i : Nat) (f : Obj → Obj) : (s.updObj i f).fenced = s.fenced := by unfold State.updObj; split <;> rfl
@[simp] theorem updObj_posts (s : State) (i : Nat) (f : Obj → Obj) : (s.updObj i f).posts = s.posts := by unfold State.updObj; split <;> rfl
@[simp] theorem updObj_hbm (s : State) (i : Nat) (f : Obj → Obj) : (s.updObj i f).hbm = s.hbm := by unfold State.updObj; split <;> rfl
@[simp] theorem updObj_host (s : State) (i : Nat) (f : Obj → Obj) : (s.updObj i f).host = s.host := by unfold State.updObj; split <;> rfl
@[simp] theorem updObj_peers (s : State) (i : Nat) (f : Obj → Obj) : (s.updObj i f).peers = s.peers := by unfold State.updObj; split <;> rfl
@[simp] theorem updObj_cores (s : State) (i : Nat) (f : Obj → Obj) : (s.updObj i f).cores = s.cores := by unfold State.updObj; split <;> rfl
@[simp] theorem updObj_groups (s : State) (i : Nat) (f : Obj → Obj) : (s.updObj i f).groups = s.groups := by unfold State.updObj; split <;> rfl
@[simp] theorem updObj_records (s : State) (i : Nat) (f : Obj → Obj) : (s.updObj i f).records = s.records := by unfold State.updObj; split <;> rfl
@[simp] theorem updObj_nextGroup (s : State) (i : Nat) (f : Obj → Obj) : (s.updObj i f).nextGroup = s.nextGroup := by unfold State.updObj; split <;> rfl
@[simp] theorem updObj_launches (s : State) (i : Nat) (f : Obj → Obj) : (s.updObj i f).launches = s.launches := by unfold State.updObj; split <;> rfl
@[simp] theorem updObj_ctxs (s : State) (i : Nat) (f : Obj → Obj) : (s.updObj i f).ctxs = s.ctxs := by unfold State.updObj; split <;> rfl
@[simp] theorem updObj_queues (s : State) (i : Nat) (f : Obj → Obj) : (s.updObj i f).queues = s.queues := by unfold State.updObj; split <;> rfl
@[simp] theorem updObj_fns (s : State) (i : Nat) (f : Obj → Obj) : (s.updObj i f).fns = s.fns := by unfold State.updObj; split <;> rfl
@[simp] theorem updObj_parts (s : State) (i : Nat) (f : Obj → Obj) : (s.updObj i f).parts = s.parts := by unfold State.updObj; split <;> rfl
@[simp] theorem updObj_reqs (s : State) (i : Nat) (f : Obj → Obj) : (s.updObj i f).reqs = s.reqs := by unfold State.updObj; split <;> rfl
@[simp] theorem updObj_nextReq (s : State) (i : Nat) (f : Obj → Obj) : (s.updObj i f).nextReq = s.nextReq := by unfold State.updObj; split <;> rfl
@[simp] theorem updObj_failed (s : State) (i : Nat) (f : Obj → Obj) : (s.updObj i f).failed = s.failed := by unfold State.updObj; split <;> rfl
@[simp] theorem updObj_accessRecords (s : State) (i : Nat) (f : Obj → Obj) : (s.updObj i f).accessRecords = s.accessRecords := by unfold State.updObj; split <;> rfl
@[simp] theorem updObj_meters (s : State) (i : Nat) (f : Obj → Obj) : (s.updObj i f).meters = s.meters := by unfold State.updObj; split <;> rfl
@[simp] theorem updObj_payer (s : State) (i : Nat) (f : Obj → Obj) : (s.updObj i f).payer = s.payer := by unfold State.updObj; split <;> rfl
@[simp] theorem updObj_l2 (s : State) (i : Nat) (f : Obj → Obj) : (s.updObj i f).l2 = s.l2 := by unfold State.updObj; split <;> rfl
@[simp] theorem updObj_ports (s : State) (i : Nat) (f : Obj → Obj) : (s.updObj i f).ports = s.ports := by unfold State.updObj; split <;> rfl
@[simp] theorem updObj_shares (s : State) (i : Nat) (f : Obj → Obj) : (s.updObj i f).shares = s.shares := by unfold State.updObj; split <;> rfl
@[simp] theorem updObj_flash (s : State) (i : Nat) (f : Obj → Obj) : (s.updObj i f).flash = s.flash := by unfold State.updObj; split <;> rfl
@[simp] theorem updObj_boot (s : State) (i : Nat) (f : Obj → Obj) : (s.updObj i f).boot = s.boot := by unfold State.updObj; split <;> rfl
@[simp] theorem updObj_spSeq (s : State) (i : Nat) (f : Obj → Obj) : (s.updObj i f).spSeq = s.spSeq := by unfold State.updObj; split <;> rfl
@[simp] theorem updObj_spJob (s : State) (i : Nat) (f : Obj → Obj) : (s.updObj i f).spJob = s.spJob := by unfold State.updObj; split <;> rfl
@[simp] theorem updObj_spWait (s : State) (i : Nat) (f : Obj → Obj) : (s.updObj i f).spWait = s.spWait := by unfold State.updObj; split <;> rfl
@[simp] theorem updObj_spdm (s : State) (i : Nat) (f : Obj → Obj) : (s.updObj i f).spdm = s.spdm := by unfold State.updObj; split <;> rfl
@[simp] theorem updObj_replies (s : State) (i : Nat) (f : Obj → Obj) : (s.updObj i f).replies = s.replies := by unfold State.updObj; split <;> rfl

/-! ### updQueue -/

@[simp] theorem updQueue_time (s : State) (i : Nat) (f : Queue → Queue) : (s.updQueue i f).time = s.time := by unfold State.updQueue; split <;> rfl
@[simp] theorem updQueue_free (s : State) (i : Nat) (f : Queue → Queue) : (s.updQueue i f).free = s.free := by unfold State.updQueue; split <;> rfl
@[simp] theorem updQueue_turn (s : State) (i : Nat) (f : Queue → Queue) : (s.updQueue i f).turn = s.turn := by unfold State.updQueue; split <;> rfl
@[simp] theorem updQueue_sel (s : State) (i : Nat) (f : Queue → Queue) : (s.updQueue i f).sel = s.sel := by unfold State.updQueue; split <;> rfl
@[simp] theorem updQueue_agenda (s : State) (i : Nat) (f : Queue → Queue) : (s.updQueue i f).agenda = s.agenda := by unfold State.updQueue; split <;> rfl
@[simp] theorem updQueue_rr (s : State) (i : Nat) (f : Queue → Queue) : (s.updQueue i f).rr = s.rr := by unfold State.updQueue; split <;> rfl
@[simp] theorem updQueue_inCycle (s : State) (i : Nat) (f : Queue → Queue) : (s.updQueue i f).inCycle = s.inCycle := by unfold State.updQueue; split <;> rfl
@[simp] theorem updQueue_fenced (s : State) (i : Nat) (f : Queue → Queue) : (s.updQueue i f).fenced = s.fenced := by unfold State.updQueue; split <;> rfl
@[simp] theorem updQueue_posts (s : State) (i : Nat) (f : Queue → Queue) : (s.updQueue i f).posts = s.posts := by unfold State.updQueue; split <;> rfl
@[simp] theorem updQueue_hbm (s : State) (i : Nat) (f : Queue → Queue) : (s.updQueue i f).hbm = s.hbm := by unfold State.updQueue; split <;> rfl
@[simp] theorem updQueue_host (s : State) (i : Nat) (f : Queue → Queue) : (s.updQueue i f).host = s.host := by unfold State.updQueue; split <;> rfl
@[simp] theorem updQueue_peers (s : State) (i : Nat) (f : Queue → Queue) : (s.updQueue i f).peers = s.peers := by unfold State.updQueue; split <;> rfl
@[simp] theorem updQueue_cores (s : State) (i : Nat) (f : Queue → Queue) : (s.updQueue i f).cores = s.cores := by unfold State.updQueue; split <;> rfl
@[simp] theorem updQueue_groups (s : State) (i : Nat) (f : Queue → Queue) : (s.updQueue i f).groups = s.groups := by unfold State.updQueue; split <;> rfl
@[simp] theorem updQueue_records (s : State) (i : Nat) (f : Queue → Queue) : (s.updQueue i f).records = s.records := by unfold State.updQueue; split <;> rfl
@[simp] theorem updQueue_nextGroup (s : State) (i : Nat) (f : Queue → Queue) : (s.updQueue i f).nextGroup = s.nextGroup := by unfold State.updQueue; split <;> rfl
@[simp] theorem updQueue_launches (s : State) (i : Nat) (f : Queue → Queue) : (s.updQueue i f).launches = s.launches := by unfold State.updQueue; split <;> rfl
@[simp] theorem updQueue_objects (s : State) (i : Nat) (f : Queue → Queue) : (s.updQueue i f).objects = s.objects := by unfold State.updQueue; split <;> rfl
@[simp] theorem updQueue_ctxs (s : State) (i : Nat) (f : Queue → Queue) : (s.updQueue i f).ctxs = s.ctxs := by unfold State.updQueue; split <;> rfl
@[simp] theorem updQueue_fns (s : State) (i : Nat) (f : Queue → Queue) : (s.updQueue i f).fns = s.fns := by unfold State.updQueue; split <;> rfl
@[simp] theorem updQueue_parts (s : State) (i : Nat) (f : Queue → Queue) : (s.updQueue i f).parts = s.parts := by unfold State.updQueue; split <;> rfl
@[simp] theorem updQueue_reqs (s : State) (i : Nat) (f : Queue → Queue) : (s.updQueue i f).reqs = s.reqs := by unfold State.updQueue; split <;> rfl
@[simp] theorem updQueue_nextReq (s : State) (i : Nat) (f : Queue → Queue) : (s.updQueue i f).nextReq = s.nextReq := by unfold State.updQueue; split <;> rfl
@[simp] theorem updQueue_failed (s : State) (i : Nat) (f : Queue → Queue) : (s.updQueue i f).failed = s.failed := by unfold State.updQueue; split <;> rfl
@[simp] theorem updQueue_accessRecords (s : State) (i : Nat) (f : Queue → Queue) : (s.updQueue i f).accessRecords = s.accessRecords := by unfold State.updQueue; split <;> rfl
@[simp] theorem updQueue_meters (s : State) (i : Nat) (f : Queue → Queue) : (s.updQueue i f).meters = s.meters := by unfold State.updQueue; split <;> rfl
@[simp] theorem updQueue_payer (s : State) (i : Nat) (f : Queue → Queue) : (s.updQueue i f).payer = s.payer := by unfold State.updQueue; split <;> rfl
@[simp] theorem updQueue_l2 (s : State) (i : Nat) (f : Queue → Queue) : (s.updQueue i f).l2 = s.l2 := by unfold State.updQueue; split <;> rfl
@[simp] theorem updQueue_ports (s : State) (i : Nat) (f : Queue → Queue) : (s.updQueue i f).ports = s.ports := by unfold State.updQueue; split <;> rfl
@[simp] theorem updQueue_shares (s : State) (i : Nat) (f : Queue → Queue) : (s.updQueue i f).shares = s.shares := by unfold State.updQueue; split <;> rfl
@[simp] theorem updQueue_flash (s : State) (i : Nat) (f : Queue → Queue) : (s.updQueue i f).flash = s.flash := by unfold State.updQueue; split <;> rfl
@[simp] theorem updQueue_boot (s : State) (i : Nat) (f : Queue → Queue) : (s.updQueue i f).boot = s.boot := by unfold State.updQueue; split <;> rfl
@[simp] theorem updQueue_spSeq (s : State) (i : Nat) (f : Queue → Queue) : (s.updQueue i f).spSeq = s.spSeq := by unfold State.updQueue; split <;> rfl
@[simp] theorem updQueue_spJob (s : State) (i : Nat) (f : Queue → Queue) : (s.updQueue i f).spJob = s.spJob := by unfold State.updQueue; split <;> rfl
@[simp] theorem updQueue_spWait (s : State) (i : Nat) (f : Queue → Queue) : (s.updQueue i f).spWait = s.spWait := by unfold State.updQueue; split <;> rfl
@[simp] theorem updQueue_spdm (s : State) (i : Nat) (f : Queue → Queue) : (s.updQueue i f).spdm = s.spdm := by unfold State.updQueue; split <;> rfl
@[simp] theorem updQueue_replies (s : State) (i : Nat) (f : Queue → Queue) : (s.updQueue i f).replies = s.replies := by unfold State.updQueue; split <;> rfl

/-! ### updFn -/

@[simp] theorem updFn_time (s : State) (n : Nat) (f : Fn → Fn) : (s.updFn n f).time = s.time := by unfold State.updFn; split <;> rfl
@[simp] theorem updFn_free (s : State) (n : Nat) (f : Fn → Fn) : (s.updFn n f).free = s.free := by unfold State.updFn; split <;> rfl
@[simp] theorem updFn_turn (s : State) (n : Nat) (f : Fn → Fn) : (s.updFn n f).turn = s.turn := by unfold State.updFn; split <;> rfl
@[simp] theorem updFn_sel (s : State) (n : Nat) (f : Fn → Fn) : (s.updFn n f).sel = s.sel := by unfold State.updFn; split <;> rfl
@[simp] theorem updFn_agenda (s : State) (n : Nat) (f : Fn → Fn) : (s.updFn n f).agenda = s.agenda := by unfold State.updFn; split <;> rfl
@[simp] theorem updFn_rr (s : State) (n : Nat) (f : Fn → Fn) : (s.updFn n f).rr = s.rr := by unfold State.updFn; split <;> rfl
@[simp] theorem updFn_inCycle (s : State) (n : Nat) (f : Fn → Fn) : (s.updFn n f).inCycle = s.inCycle := by unfold State.updFn; split <;> rfl
@[simp] theorem updFn_fenced (s : State) (n : Nat) (f : Fn → Fn) : (s.updFn n f).fenced = s.fenced := by unfold State.updFn; split <;> rfl
@[simp] theorem updFn_posts (s : State) (n : Nat) (f : Fn → Fn) : (s.updFn n f).posts = s.posts := by unfold State.updFn; split <;> rfl
@[simp] theorem updFn_hbm (s : State) (n : Nat) (f : Fn → Fn) : (s.updFn n f).hbm = s.hbm := by unfold State.updFn; split <;> rfl
@[simp] theorem updFn_host (s : State) (n : Nat) (f : Fn → Fn) : (s.updFn n f).host = s.host := by unfold State.updFn; split <;> rfl
@[simp] theorem updFn_peers (s : State) (n : Nat) (f : Fn → Fn) : (s.updFn n f).peers = s.peers := by unfold State.updFn; split <;> rfl
@[simp] theorem updFn_cores (s : State) (n : Nat) (f : Fn → Fn) : (s.updFn n f).cores = s.cores := by unfold State.updFn; split <;> rfl
@[simp] theorem updFn_groups (s : State) (n : Nat) (f : Fn → Fn) : (s.updFn n f).groups = s.groups := by unfold State.updFn; split <;> rfl
@[simp] theorem updFn_records (s : State) (n : Nat) (f : Fn → Fn) : (s.updFn n f).records = s.records := by unfold State.updFn; split <;> rfl
@[simp] theorem updFn_nextGroup (s : State) (n : Nat) (f : Fn → Fn) : (s.updFn n f).nextGroup = s.nextGroup := by unfold State.updFn; split <;> rfl
@[simp] theorem updFn_launches (s : State) (n : Nat) (f : Fn → Fn) : (s.updFn n f).launches = s.launches := by unfold State.updFn; split <;> rfl
@[simp] theorem updFn_objects (s : State) (n : Nat) (f : Fn → Fn) : (s.updFn n f).objects = s.objects := by unfold State.updFn; split <;> rfl
@[simp] theorem updFn_ctxs (s : State) (n : Nat) (f : Fn → Fn) : (s.updFn n f).ctxs = s.ctxs := by unfold State.updFn; split <;> rfl
@[simp] theorem updFn_queues (s : State) (n : Nat) (f : Fn → Fn) : (s.updFn n f).queues = s.queues := by unfold State.updFn; split <;> rfl
@[simp] theorem updFn_parts (s : State) (n : Nat) (f : Fn → Fn) : (s.updFn n f).parts = s.parts := by unfold State.updFn; split <;> rfl
@[simp] theorem updFn_reqs (s : State) (n : Nat) (f : Fn → Fn) : (s.updFn n f).reqs = s.reqs := by unfold State.updFn; split <;> rfl
@[simp] theorem updFn_nextReq (s : State) (n : Nat) (f : Fn → Fn) : (s.updFn n f).nextReq = s.nextReq := by unfold State.updFn; split <;> rfl
@[simp] theorem updFn_failed (s : State) (n : Nat) (f : Fn → Fn) : (s.updFn n f).failed = s.failed := by unfold State.updFn; split <;> rfl
@[simp] theorem updFn_accessRecords (s : State) (n : Nat) (f : Fn → Fn) : (s.updFn n f).accessRecords = s.accessRecords := by unfold State.updFn; split <;> rfl
@[simp] theorem updFn_meters (s : State) (n : Nat) (f : Fn → Fn) : (s.updFn n f).meters = s.meters := by unfold State.updFn; split <;> rfl
@[simp] theorem updFn_payer (s : State) (n : Nat) (f : Fn → Fn) : (s.updFn n f).payer = s.payer := by unfold State.updFn; split <;> rfl
@[simp] theorem updFn_l2 (s : State) (n : Nat) (f : Fn → Fn) : (s.updFn n f).l2 = s.l2 := by unfold State.updFn; split <;> rfl
@[simp] theorem updFn_ports (s : State) (n : Nat) (f : Fn → Fn) : (s.updFn n f).ports = s.ports := by unfold State.updFn; split <;> rfl
@[simp] theorem updFn_shares (s : State) (n : Nat) (f : Fn → Fn) : (s.updFn n f).shares = s.shares := by unfold State.updFn; split <;> rfl
@[simp] theorem updFn_flash (s : State) (n : Nat) (f : Fn → Fn) : (s.updFn n f).flash = s.flash := by unfold State.updFn; split <;> rfl
@[simp] theorem updFn_boot (s : State) (n : Nat) (f : Fn → Fn) : (s.updFn n f).boot = s.boot := by unfold State.updFn; split <;> rfl
@[simp] theorem updFn_spSeq (s : State) (n : Nat) (f : Fn → Fn) : (s.updFn n f).spSeq = s.spSeq := by unfold State.updFn; split <;> rfl
@[simp] theorem updFn_spJob (s : State) (n : Nat) (f : Fn → Fn) : (s.updFn n f).spJob = s.spJob := by unfold State.updFn; split <;> rfl
@[simp] theorem updFn_spWait (s : State) (n : Nat) (f : Fn → Fn) : (s.updFn n f).spWait = s.spWait := by unfold State.updFn; split <;> rfl
@[simp] theorem updFn_spdm (s : State) (n : Nat) (f : Fn → Fn) : (s.updFn n f).spdm = s.spdm := by unfold State.updFn; split <;> rfl
@[simp] theorem updFn_replies (s : State) (n : Nat) (f : Fn → Fn) : (s.updFn n f).replies = s.replies := by unfold State.updFn; split <;> rfl

/-! ### updPart -/

@[simp] theorem updPart_time (s : State) (n : Nat) (f : Part → Part) : (s.updPart n f).time = s.time := by unfold State.updPart; split <;> rfl
@[simp] theorem updPart_free (s : State) (n : Nat) (f : Part → Part) : (s.updPart n f).free = s.free := by unfold State.updPart; split <;> rfl
@[simp] theorem updPart_turn (s : State) (n : Nat) (f : Part → Part) : (s.updPart n f).turn = s.turn := by unfold State.updPart; split <;> rfl
@[simp] theorem updPart_sel (s : State) (n : Nat) (f : Part → Part) : (s.updPart n f).sel = s.sel := by unfold State.updPart; split <;> rfl
@[simp] theorem updPart_agenda (s : State) (n : Nat) (f : Part → Part) : (s.updPart n f).agenda = s.agenda := by unfold State.updPart; split <;> rfl
@[simp] theorem updPart_rr (s : State) (n : Nat) (f : Part → Part) : (s.updPart n f).rr = s.rr := by unfold State.updPart; split <;> rfl
@[simp] theorem updPart_inCycle (s : State) (n : Nat) (f : Part → Part) : (s.updPart n f).inCycle = s.inCycle := by unfold State.updPart; split <;> rfl
@[simp] theorem updPart_fenced (s : State) (n : Nat) (f : Part → Part) : (s.updPart n f).fenced = s.fenced := by unfold State.updPart; split <;> rfl
@[simp] theorem updPart_posts (s : State) (n : Nat) (f : Part → Part) : (s.updPart n f).posts = s.posts := by unfold State.updPart; split <;> rfl
@[simp] theorem updPart_hbm (s : State) (n : Nat) (f : Part → Part) : (s.updPart n f).hbm = s.hbm := by unfold State.updPart; split <;> rfl
@[simp] theorem updPart_host (s : State) (n : Nat) (f : Part → Part) : (s.updPart n f).host = s.host := by unfold State.updPart; split <;> rfl
@[simp] theorem updPart_peers (s : State) (n : Nat) (f : Part → Part) : (s.updPart n f).peers = s.peers := by unfold State.updPart; split <;> rfl
@[simp] theorem updPart_cores (s : State) (n : Nat) (f : Part → Part) : (s.updPart n f).cores = s.cores := by unfold State.updPart; split <;> rfl
@[simp] theorem updPart_groups (s : State) (n : Nat) (f : Part → Part) : (s.updPart n f).groups = s.groups := by unfold State.updPart; split <;> rfl
@[simp] theorem updPart_records (s : State) (n : Nat) (f : Part → Part) : (s.updPart n f).records = s.records := by unfold State.updPart; split <;> rfl
@[simp] theorem updPart_nextGroup (s : State) (n : Nat) (f : Part → Part) : (s.updPart n f).nextGroup = s.nextGroup := by unfold State.updPart; split <;> rfl
@[simp] theorem updPart_launches (s : State) (n : Nat) (f : Part → Part) : (s.updPart n f).launches = s.launches := by unfold State.updPart; split <;> rfl
@[simp] theorem updPart_objects (s : State) (n : Nat) (f : Part → Part) : (s.updPart n f).objects = s.objects := by unfold State.updPart; split <;> rfl
@[simp] theorem updPart_ctxs (s : State) (n : Nat) (f : Part → Part) : (s.updPart n f).ctxs = s.ctxs := by unfold State.updPart; split <;> rfl
@[simp] theorem updPart_queues (s : State) (n : Nat) (f : Part → Part) : (s.updPart n f).queues = s.queues := by unfold State.updPart; split <;> rfl
@[simp] theorem updPart_fns (s : State) (n : Nat) (f : Part → Part) : (s.updPart n f).fns = s.fns := by unfold State.updPart; split <;> rfl
@[simp] theorem updPart_reqs (s : State) (n : Nat) (f : Part → Part) : (s.updPart n f).reqs = s.reqs := by unfold State.updPart; split <;> rfl
@[simp] theorem updPart_nextReq (s : State) (n : Nat) (f : Part → Part) : (s.updPart n f).nextReq = s.nextReq := by unfold State.updPart; split <;> rfl
@[simp] theorem updPart_failed (s : State) (n : Nat) (f : Part → Part) : (s.updPart n f).failed = s.failed := by unfold State.updPart; split <;> rfl
@[simp] theorem updPart_accessRecords (s : State) (n : Nat) (f : Part → Part) : (s.updPart n f).accessRecords = s.accessRecords := by unfold State.updPart; split <;> rfl
@[simp] theorem updPart_meters (s : State) (n : Nat) (f : Part → Part) : (s.updPart n f).meters = s.meters := by unfold State.updPart; split <;> rfl
@[simp] theorem updPart_payer (s : State) (n : Nat) (f : Part → Part) : (s.updPart n f).payer = s.payer := by unfold State.updPart; split <;> rfl
@[simp] theorem updPart_l2 (s : State) (n : Nat) (f : Part → Part) : (s.updPart n f).l2 = s.l2 := by unfold State.updPart; split <;> rfl
@[simp] theorem updPart_ports (s : State) (n : Nat) (f : Part → Part) : (s.updPart n f).ports = s.ports := by unfold State.updPart; split <;> rfl
@[simp] theorem updPart_shares (s : State) (n : Nat) (f : Part → Part) : (s.updPart n f).shares = s.shares := by unfold State.updPart; split <;> rfl
@[simp] theorem updPart_flash (s : State) (n : Nat) (f : Part → Part) : (s.updPart n f).flash = s.flash := by unfold State.updPart; split <;> rfl
@[simp] theorem updPart_boot (s : State) (n : Nat) (f : Part → Part) : (s.updPart n f).boot = s.boot := by unfold State.updPart; split <;> rfl
@[simp] theorem updPart_spSeq (s : State) (n : Nat) (f : Part → Part) : (s.updPart n f).spSeq = s.spSeq := by unfold State.updPart; split <;> rfl
@[simp] theorem updPart_spJob (s : State) (n : Nat) (f : Part → Part) : (s.updPart n f).spJob = s.spJob := by unfold State.updPart; split <;> rfl
@[simp] theorem updPart_spWait (s : State) (n : Nat) (f : Part → Part) : (s.updPart n f).spWait = s.spWait := by unfold State.updPart; split <;> rfl
@[simp] theorem updPart_spdm (s : State) (n : Nat) (f : Part → Part) : (s.updPart n f).spdm = s.spdm := by unfold State.updPart; split <;> rfl
@[simp] theorem updPart_replies (s : State) (n : Nat) (f : Part → Part) : (s.updPart n f).replies = s.replies := by unfold State.updPart; split <;> rfl

/-! ### updPort -/

@[simp] theorem updPort_time (s : State) (n : Nat) (f : Port → Port) : (s.updPort n f).time = s.time := by unfold State.updPort; split <;> rfl
@[simp] theorem updPort_free (s : State) (n : Nat) (f : Port → Port) : (s.updPort n f).free = s.free := by unfold State.updPort; split <;> rfl
@[simp] theorem updPort_turn (s : State) (n : Nat) (f : Port → Port) : (s.updPort n f).turn = s.turn := by unfold State.updPort; split <;> rfl
@[simp] theorem updPort_sel (s : State) (n : Nat) (f : Port → Port) : (s.updPort n f).sel = s.sel := by unfold State.updPort; split <;> rfl
@[simp] theorem updPort_agenda (s : State) (n : Nat) (f : Port → Port) : (s.updPort n f).agenda = s.agenda := by unfold State.updPort; split <;> rfl
@[simp] theorem updPort_rr (s : State) (n : Nat) (f : Port → Port) : (s.updPort n f).rr = s.rr := by unfold State.updPort; split <;> rfl
@[simp] theorem updPort_inCycle (s : State) (n : Nat) (f : Port → Port) : (s.updPort n f).inCycle = s.inCycle := by unfold State.updPort; split <;> rfl
@[simp] theorem updPort_fenced (s : State) (n : Nat) (f : Port → Port) : (s.updPort n f).fenced = s.fenced := by unfold State.updPort; split <;> rfl
@[simp] theorem updPort_posts (s : State) (n : Nat) (f : Port → Port) : (s.updPort n f).posts = s.posts := by unfold State.updPort; split <;> rfl
@[simp] theorem updPort_hbm (s : State) (n : Nat) (f : Port → Port) : (s.updPort n f).hbm = s.hbm := by unfold State.updPort; split <;> rfl
@[simp] theorem updPort_host (s : State) (n : Nat) (f : Port → Port) : (s.updPort n f).host = s.host := by unfold State.updPort; split <;> rfl
@[simp] theorem updPort_peers (s : State) (n : Nat) (f : Port → Port) : (s.updPort n f).peers = s.peers := by unfold State.updPort; split <;> rfl
@[simp] theorem updPort_cores (s : State) (n : Nat) (f : Port → Port) : (s.updPort n f).cores = s.cores := by unfold State.updPort; split <;> rfl
@[simp] theorem updPort_groups (s : State) (n : Nat) (f : Port → Port) : (s.updPort n f).groups = s.groups := by unfold State.updPort; split <;> rfl
@[simp] theorem updPort_records (s : State) (n : Nat) (f : Port → Port) : (s.updPort n f).records = s.records := by unfold State.updPort; split <;> rfl
@[simp] theorem updPort_nextGroup (s : State) (n : Nat) (f : Port → Port) : (s.updPort n f).nextGroup = s.nextGroup := by unfold State.updPort; split <;> rfl
@[simp] theorem updPort_launches (s : State) (n : Nat) (f : Port → Port) : (s.updPort n f).launches = s.launches := by unfold State.updPort; split <;> rfl
@[simp] theorem updPort_objects (s : State) (n : Nat) (f : Port → Port) : (s.updPort n f).objects = s.objects := by unfold State.updPort; split <;> rfl
@[simp] theorem updPort_ctxs (s : State) (n : Nat) (f : Port → Port) : (s.updPort n f).ctxs = s.ctxs := by unfold State.updPort; split <;> rfl
@[simp] theorem updPort_queues (s : State) (n : Nat) (f : Port → Port) : (s.updPort n f).queues = s.queues := by unfold State.updPort; split <;> rfl
@[simp] theorem updPort_fns (s : State) (n : Nat) (f : Port → Port) : (s.updPort n f).fns = s.fns := by unfold State.updPort; split <;> rfl
@[simp] theorem updPort_parts (s : State) (n : Nat) (f : Port → Port) : (s.updPort n f).parts = s.parts := by unfold State.updPort; split <;> rfl
@[simp] theorem updPort_reqs (s : State) (n : Nat) (f : Port → Port) : (s.updPort n f).reqs = s.reqs := by unfold State.updPort; split <;> rfl
@[simp] theorem updPort_nextReq (s : State) (n : Nat) (f : Port → Port) : (s.updPort n f).nextReq = s.nextReq := by unfold State.updPort; split <;> rfl
@[simp] theorem updPort_failed (s : State) (n : Nat) (f : Port → Port) : (s.updPort n f).failed = s.failed := by unfold State.updPort; split <;> rfl
@[simp] theorem updPort_accessRecords (s : State) (n : Nat) (f : Port → Port) : (s.updPort n f).accessRecords = s.accessRecords := by unfold State.updPort; split <;> rfl
@[simp] theorem updPort_meters (s : State) (n : Nat) (f : Port → Port) : (s.updPort n f).meters = s.meters := by unfold State.updPort; split <;> rfl
@[simp] theorem updPort_payer (s : State) (n : Nat) (f : Port → Port) : (s.updPort n f).payer = s.payer := by unfold State.updPort; split <;> rfl
@[simp] theorem updPort_l2 (s : State) (n : Nat) (f : Port → Port) : (s.updPort n f).l2 = s.l2 := by unfold State.updPort; split <;> rfl
@[simp] theorem updPort_shares (s : State) (n : Nat) (f : Port → Port) : (s.updPort n f).shares = s.shares := by unfold State.updPort; split <;> rfl
@[simp] theorem updPort_flash (s : State) (n : Nat) (f : Port → Port) : (s.updPort n f).flash = s.flash := by unfold State.updPort; split <;> rfl
@[simp] theorem updPort_boot (s : State) (n : Nat) (f : Port → Port) : (s.updPort n f).boot = s.boot := by unfold State.updPort; split <;> rfl
@[simp] theorem updPort_spSeq (s : State) (n : Nat) (f : Port → Port) : (s.updPort n f).spSeq = s.spSeq := by unfold State.updPort; split <;> rfl
@[simp] theorem updPort_spJob (s : State) (n : Nat) (f : Port → Port) : (s.updPort n f).spJob = s.spJob := by unfold State.updPort; split <;> rfl
@[simp] theorem updPort_spWait (s : State) (n : Nat) (f : Port → Port) : (s.updPort n f).spWait = s.spWait := by unfold State.updPort; split <;> rfl
@[simp] theorem updPort_spdm (s : State) (n : Nat) (f : Port → Port) : (s.updPort n f).spdm = s.spdm := by unfold State.updPort; split <;> rfl
@[simp] theorem updPort_replies (s : State) (n : Nat) (f : Port → Port) : (s.updPort n f).replies = s.replies := by unfold State.updPort; split <;> rfl

/-! ### postOnce -/

@[simp] theorem postOnce_time (s : State) (i : Instr) : (s.postOnce i).time = s.time := by unfold State.postOnce; split <;> rfl
@[simp] theorem postOnce_free (s : State) (i : Instr) : (s.postOnce i).free = s.free := by unfold State.postOnce; split <;> rfl
@[simp] theorem postOnce_turn (s : State) (i : Instr) : (s.postOnce i).turn = s.turn := by unfold State.postOnce; split <;> rfl
@[simp] theorem postOnce_sel (s : State) (i : Instr) : (s.postOnce i).sel = s.sel := by unfold State.postOnce; split <;> rfl
@[simp] theorem postOnce_rr (s : State) (i : Instr) : (s.postOnce i).rr = s.rr := by unfold State.postOnce; split <;> rfl
@[simp] theorem postOnce_inCycle (s : State) (i : Instr) : (s.postOnce i).inCycle = s.inCycle := by unfold State.postOnce; split <;> rfl
@[simp] theorem postOnce_fenced (s : State) (i : Instr) : (s.postOnce i).fenced = s.fenced := by unfold State.postOnce; split <;> rfl
@[simp] theorem postOnce_posts (s : State) (i : Instr) : (s.postOnce i).posts = s.posts := by unfold State.postOnce; split <;> rfl
@[simp] theorem postOnce_hbm (s : State) (i : Instr) : (s.postOnce i).hbm = s.hbm := by unfold State.postOnce; split <;> rfl
@[simp] theorem postOnce_host (s : State) (i : Instr) : (s.postOnce i).host = s.host := by unfold State.postOnce; split <;> rfl
@[simp] theorem postOnce_peers (s : State) (i : Instr) : (s.postOnce i).peers = s.peers := by unfold State.postOnce; split <;> rfl
@[simp] theorem postOnce_cores (s : State) (i : Instr) : (s.postOnce i).cores = s.cores := by unfold State.postOnce; split <;> rfl
@[simp] theorem postOnce_groups (s : State) (i : Instr) : (s.postOnce i).groups = s.groups := by unfold State.postOnce; split <;> rfl
@[simp] theorem postOnce_records (s : State) (i : Instr) : (s.postOnce i).records = s.records := by unfold State.postOnce; split <;> rfl
@[simp] theorem postOnce_nextGroup (s : State) (i : Instr) : (s.postOnce i).nextGroup = s.nextGroup := by unfold State.postOnce; split <;> rfl
@[simp] theorem postOnce_launches (s : State) (i : Instr) : (s.postOnce i).launches = s.launches := by unfold State.postOnce; split <;> rfl
@[simp] theorem postOnce_objects (s : State) (i : Instr) : (s.postOnce i).objects = s.objects := by unfold State.postOnce; split <;> rfl
@[simp] theorem postOnce_ctxs (s : State) (i : Instr) : (s.postOnce i).ctxs = s.ctxs := by unfold State.postOnce; split <;> rfl
@[simp] theorem postOnce_queues (s : State) (i : Instr) : (s.postOnce i).queues = s.queues := by unfold State.postOnce; split <;> rfl
@[simp] theorem postOnce_fns (s : State) (i : Instr) : (s.postOnce i).fns = s.fns := by unfold State.postOnce; split <;> rfl
@[simp] theorem postOnce_parts (s : State) (i : Instr) : (s.postOnce i).parts = s.parts := by unfold State.postOnce; split <;> rfl
@[simp] theorem postOnce_reqs (s : State) (i : Instr) : (s.postOnce i).reqs = s.reqs := by unfold State.postOnce; split <;> rfl
@[simp] theorem postOnce_nextReq (s : State) (i : Instr) : (s.postOnce i).nextReq = s.nextReq := by unfold State.postOnce; split <;> rfl
@[simp] theorem postOnce_failed (s : State) (i : Instr) : (s.postOnce i).failed = s.failed := by unfold State.postOnce; split <;> rfl
@[simp] theorem postOnce_accessRecords (s : State) (i : Instr) : (s.postOnce i).accessRecords = s.accessRecords := by unfold State.postOnce; split <;> rfl
@[simp] theorem postOnce_meters (s : State) (i : Instr) : (s.postOnce i).meters = s.meters := by unfold State.postOnce; split <;> rfl
@[simp] theorem postOnce_payer (s : State) (i : Instr) : (s.postOnce i).payer = s.payer := by unfold State.postOnce; split <;> rfl
@[simp] theorem postOnce_l2 (s : State) (i : Instr) : (s.postOnce i).l2 = s.l2 := by unfold State.postOnce; split <;> rfl
@[simp] theorem postOnce_ports (s : State) (i : Instr) : (s.postOnce i).ports = s.ports := by unfold State.postOnce; split <;> rfl
@[simp] theorem postOnce_shares (s : State) (i : Instr) : (s.postOnce i).shares = s.shares := by unfold State.postOnce; split <;> rfl
@[simp] theorem postOnce_flash (s : State) (i : Instr) : (s.postOnce i).flash = s.flash := by unfold State.postOnce; split <;> rfl
@[simp] theorem postOnce_boot (s : State) (i : Instr) : (s.postOnce i).boot = s.boot := by unfold State.postOnce; split <;> rfl
@[simp] theorem postOnce_spSeq (s : State) (i : Instr) : (s.postOnce i).spSeq = s.spSeq := by unfold State.postOnce; split <;> rfl
@[simp] theorem postOnce_spJob (s : State) (i : Instr) : (s.postOnce i).spJob = s.spJob := by unfold State.postOnce; split <;> rfl
@[simp] theorem postOnce_spWait (s : State) (i : Instr) : (s.postOnce i).spWait = s.spWait := by unfold State.postOnce; split <;> rfl
@[simp] theorem postOnce_spdm (s : State) (i : Instr) : (s.postOnce i).spdm = s.spdm := by unfold State.postOnce; split <;> rfl
@[simp] theorem postOnce_replies (s : State) (i : Instr) : (s.postOnce i).replies = s.replies := by unfold State.postOnce; split <;> rfl

/-! ### applyReg -/

@[simp] theorem applyReg_time (s : State) (core g c : Nat) (w : RegWrite) : (applyReg s core g c w).time = s.time := by unfold applyReg; split <;> first | (split <;> simp) | simp
@[simp] theorem applyReg_free (s : State) (core g c : Nat) (w : RegWrite) : (applyReg s core g c w).free = s.free := by unfold applyReg; split <;> first | (split <;> simp) | simp
@[simp] theorem applyReg_turn (s : State) (core g c : Nat) (w : RegWrite) : (applyReg s core g c w).turn = s.turn := by unfold applyReg; split <;> first | (split <;> simp) | simp
@[simp] theorem applyReg_sel (s : State) (core g c : Nat) (w : RegWrite) : (applyReg s core g c w).sel = s.sel := by unfold applyReg; split <;> first | (split <;> simp) | simp
@[simp] theorem applyReg_agenda (s : State) (core g c : Nat) (w : RegWrite) : (applyReg s core g c w).agenda = s.agenda := by unfold applyReg; split <;> first | (split <;> simp) | simp
@[simp] theorem applyReg_rr (s : State) (core g c : Nat) (w : RegWrite) : (applyReg s core g c w).rr = s.rr := by unfold applyReg; split <;> first | (split <;> simp) | simp
@[simp] theorem applyReg_inCycle (s : State) (core g c : Nat) (w : RegWrite) : (applyReg s core g c w).inCycle = s.inCycle := by unfold applyReg; split <;> first | (split <;> simp) | simp
@[simp] theorem applyReg_fenced (s : State) (core g c : Nat) (w : RegWrite) : (applyReg s core g c w).fenced = s.fenced := by unfold applyReg; split <;> first | (split <;> simp) | simp
@[simp] theorem applyReg_posts (s : State) (core g c : Nat) (w : RegWrite) : (applyReg s core g c w).posts = s.posts := by unfold applyReg; split <;> first | (split <;> simp) | simp
@[simp] theorem applyReg_hbm (s : State) (core g c : Nat) (w : RegWrite) : (applyReg s core g c w).hbm = s.hbm := by unfold applyReg; split <;> first | (split <;> simp) | simp
@[simp] theorem applyReg_host (s : State) (core g c : Nat) (w : RegWrite) : (applyReg s core g c w).host = s.host := by unfold applyReg; split <;> first | (split <;> simp) | simp
@[simp] theorem applyReg_peers (s : State) (core g c : Nat) (w : RegWrite) : (applyReg s core g c w).peers = s.peers := by unfold applyReg; split <;> first | (split <;> simp) | simp
@[simp] theorem applyReg_records (s : State) (core g c : Nat) (w : RegWrite) : (applyReg s core g c w).records = s.records := by unfold applyReg; split <;> first | (split <;> simp) | simp
@[simp] theorem applyReg_nextGroup (s : State) (core g c : Nat) (w : RegWrite) : (applyReg s core g c w).nextGroup = s.nextGroup := by unfold applyReg; split <;> first | (split <;> simp) | simp
@[simp] theorem applyReg_launches (s : State) (core g c : Nat) (w : RegWrite) : (applyReg s core g c w).launches = s.launches := by unfold applyReg; split <;> first | (split <;> simp) | simp
@[simp] theorem applyReg_objects (s : State) (core g c : Nat) (w : RegWrite) : (applyReg s core g c w).objects = s.objects := by unfold applyReg; split <;> first | (split <;> simp) | simp
@[simp] theorem applyReg_ctxs (s : State) (core g c : Nat) (w : RegWrite) : (applyReg s core g c w).ctxs = s.ctxs := by unfold applyReg; split <;> first | (split <;> simp) | simp
@[simp] theorem applyReg_queues (s : State) (core g c : Nat) (w : RegWrite) : (applyReg s core g c w).queues = s.queues := by unfold applyReg; split <;> first | (split <;> simp) | simp
@[simp] theorem applyReg_fns (s : State) (core g c : Nat) (w : RegWrite) : (applyReg s core g c w).fns = s.fns := by unfold applyReg; split <;> first | (split <;> simp) | simp
@[simp] theorem applyReg_parts (s : State) (core g c : Nat) (w : RegWrite) : (applyReg s core g c w).parts = s.parts := by unfold applyReg; split <;> first | (split <;> simp) | simp
@[simp] theorem applyReg_reqs (s : State) (core g c : Nat) (w : RegWrite) : (applyReg s core g c w).reqs = s.reqs := by unfold applyReg; split <;> first | (split <;> simp) | simp
@[simp] theorem applyReg_nextReq (s : State) (core g c : Nat) (w : RegWrite) : (applyReg s core g c w).nextReq = s.nextReq := by unfold applyReg; split <;> first | (split <;> simp) | simp
@[simp] theorem applyReg_failed (s : State) (core g c : Nat) (w : RegWrite) : (applyReg s core g c w).failed = s.failed := by unfold applyReg; split <;> first | (split <;> simp) | simp
@[simp] theorem applyReg_accessRecords (s : State) (core g c : Nat) (w : RegWrite) : (applyReg s core g c w).accessRecords = s.accessRecords := by unfold applyReg; split <;> first | (split <;> simp) | simp
@[simp] theorem applyReg_meters (s : State) (core g c : Nat) (w : RegWrite) : (applyReg s core g c w).meters = s.meters := by unfold applyReg; split <;> first | (split <;> simp) | simp
@[simp] theorem applyReg_payer (s : State) (core g c : Nat) (w : RegWrite) : (applyReg s core g c w).payer = s.payer := by unfold applyReg; split <;> first | (split <;> simp) | simp
@[simp] theorem applyReg_l2 (s : State) (core g c : Nat) (w : RegWrite) : (applyReg s core g c w).l2 = s.l2 := by unfold applyReg; split <;> first | (split <;> simp) | simp
@[simp] theorem applyReg_ports (s : State) (core g c : Nat) (w : RegWrite) : (applyReg s core g c w).ports = s.ports := by unfold applyReg; split <;> first | (split <;> simp) | simp
@[simp] theorem applyReg_shares (s : State) (core g c : Nat) (w : RegWrite) : (applyReg s core g c w).shares = s.shares := by unfold applyReg; split <;> first | (split <;> simp) | simp
@[simp] theorem applyReg_flash (s : State) (core g c : Nat) (w : RegWrite) : (applyReg s core g c w).flash = s.flash := by unfold applyReg; split <;> first | (split <;> simp) | simp
@[simp] theorem applyReg_boot (s : State) (core g c : Nat) (w : RegWrite) : (applyReg s core g c w).boot = s.boot := by unfold applyReg; split <;> first | (split <;> simp) | simp
@[simp] theorem applyReg_spSeq (s : State) (core g c : Nat) (w : RegWrite) : (applyReg s core g c w).spSeq = s.spSeq := by unfold applyReg; split <;> first | (split <;> simp) | simp
@[simp] theorem applyReg_spJob (s : State) (core g c : Nat) (w : RegWrite) : (applyReg s core g c w).spJob = s.spJob := by unfold applyReg; split <;> first | (split <;> simp) | simp
@[simp] theorem applyReg_spWait (s : State) (core g c : Nat) (w : RegWrite) : (applyReg s core g c w).spWait = s.spWait := by unfold applyReg; split <;> first | (split <;> simp) | simp
@[simp] theorem applyReg_spdm (s : State) (core g c : Nat) (w : RegWrite) : (applyReg s core g c w).spdm = s.spdm := by unfold applyReg; split <;> first | (split <;> simp) | simp
@[simp] theorem applyReg_replies (s : State) (core g c : Nat) (w : RegWrite) : (applyReg s core g c w).replies = s.replies := by unfold applyReg; split <;> first | (split <;> simp) | simp

/-! ### applyRegs -/

@[simp] theorem applyRegs_time (s : State) (core g c : Nat) (ws : List RegWrite) : (applyRegs s core g c ws).time = s.time := by
  induction ws generalizing s with
  | nil => rfl
  | cons w ws ih => exact (ih _).trans (applyReg_time s core g c w)
@[simp] theorem applyRegs_free (s : State) (core g c : Nat) (ws : List RegWrite) : (applyRegs s core g c ws).free = s.free := by
  induction ws generalizing s with
  | nil => rfl
  | cons w ws ih => exact (ih _).trans (applyReg_free s core g c w)
@[simp] theorem applyRegs_turn (s : State) (core g c : Nat) (ws : List RegWrite) : (applyRegs s core g c ws).turn = s.turn := by
  induction ws generalizing s with
  | nil => rfl
  | cons w ws ih => exact (ih _).trans (applyReg_turn s core g c w)
@[simp] theorem applyRegs_sel (s : State) (core g c : Nat) (ws : List RegWrite) : (applyRegs s core g c ws).sel = s.sel := by
  induction ws generalizing s with
  | nil => rfl
  | cons w ws ih => exact (ih _).trans (applyReg_sel s core g c w)
@[simp] theorem applyRegs_agenda (s : State) (core g c : Nat) (ws : List RegWrite) : (applyRegs s core g c ws).agenda = s.agenda := by
  induction ws generalizing s with
  | nil => rfl
  | cons w ws ih => exact (ih _).trans (applyReg_agenda s core g c w)
@[simp] theorem applyRegs_rr (s : State) (core g c : Nat) (ws : List RegWrite) : (applyRegs s core g c ws).rr = s.rr := by
  induction ws generalizing s with
  | nil => rfl
  | cons w ws ih => exact (ih _).trans (applyReg_rr s core g c w)
@[simp] theorem applyRegs_inCycle (s : State) (core g c : Nat) (ws : List RegWrite) : (applyRegs s core g c ws).inCycle = s.inCycle := by
  induction ws generalizing s with
  | nil => rfl
  | cons w ws ih => exact (ih _).trans (applyReg_inCycle s core g c w)
@[simp] theorem applyRegs_fenced (s : State) (core g c : Nat) (ws : List RegWrite) : (applyRegs s core g c ws).fenced = s.fenced := by
  induction ws generalizing s with
  | nil => rfl
  | cons w ws ih => exact (ih _).trans (applyReg_fenced s core g c w)
@[simp] theorem applyRegs_posts (s : State) (core g c : Nat) (ws : List RegWrite) : (applyRegs s core g c ws).posts = s.posts := by
  induction ws generalizing s with
  | nil => rfl
  | cons w ws ih => exact (ih _).trans (applyReg_posts s core g c w)
@[simp] theorem applyRegs_hbm (s : State) (core g c : Nat) (ws : List RegWrite) : (applyRegs s core g c ws).hbm = s.hbm := by
  induction ws generalizing s with
  | nil => rfl
  | cons w ws ih => exact (ih _).trans (applyReg_hbm s core g c w)
@[simp] theorem applyRegs_host (s : State) (core g c : Nat) (ws : List RegWrite) : (applyRegs s core g c ws).host = s.host := by
  induction ws generalizing s with
  | nil => rfl
  | cons w ws ih => exact (ih _).trans (applyReg_host s core g c w)
@[simp] theorem applyRegs_peers (s : State) (core g c : Nat) (ws : List RegWrite) : (applyRegs s core g c ws).peers = s.peers := by
  induction ws generalizing s with
  | nil => rfl
  | cons w ws ih => exact (ih _).trans (applyReg_peers s core g c w)
@[simp] theorem applyRegs_records (s : State) (core g c : Nat) (ws : List RegWrite) : (applyRegs s core g c ws).records = s.records := by
  induction ws generalizing s with
  | nil => rfl
  | cons w ws ih => exact (ih _).trans (applyReg_records s core g c w)
@[simp] theorem applyRegs_nextGroup (s : State) (core g c : Nat) (ws : List RegWrite) : (applyRegs s core g c ws).nextGroup = s.nextGroup := by
  induction ws generalizing s with
  | nil => rfl
  | cons w ws ih => exact (ih _).trans (applyReg_nextGroup s core g c w)
@[simp] theorem applyRegs_launches (s : State) (core g c : Nat) (ws : List RegWrite) : (applyRegs s core g c ws).launches = s.launches := by
  induction ws generalizing s with
  | nil => rfl
  | cons w ws ih => exact (ih _).trans (applyReg_launches s core g c w)
@[simp] theorem applyRegs_objects (s : State) (core g c : Nat) (ws : List RegWrite) : (applyRegs s core g c ws).objects = s.objects := by
  induction ws generalizing s with
  | nil => rfl
  | cons w ws ih => exact (ih _).trans (applyReg_objects s core g c w)
@[simp] theorem applyRegs_ctxs (s : State) (core g c : Nat) (ws : List RegWrite) : (applyRegs s core g c ws).ctxs = s.ctxs := by
  induction ws generalizing s with
  | nil => rfl
  | cons w ws ih => exact (ih _).trans (applyReg_ctxs s core g c w)
@[simp] theorem applyRegs_queues (s : State) (core g c : Nat) (ws : List RegWrite) : (applyRegs s core g c ws).queues = s.queues := by
  induction ws generalizing s with
  | nil => rfl
  | cons w ws ih => exact (ih _).trans (applyReg_queues s core g c w)
@[simp] theorem applyRegs_fns (s : State) (core g c : Nat) (ws : List RegWrite) : (applyRegs s core g c ws).fns = s.fns := by
  induction ws generalizing s with
  | nil => rfl
  | cons w ws ih => exact (ih _).trans (applyReg_fns s core g c w)
@[simp] theorem applyRegs_parts (s : State) (core g c : Nat) (ws : List RegWrite) : (applyRegs s core g c ws).parts = s.parts := by
  induction ws generalizing s with
  | nil => rfl
  | cons w ws ih => exact (ih _).trans (applyReg_parts s core g c w)
@[simp] theorem applyRegs_reqs (s : State) (core g c : Nat) (ws : List RegWrite) : (applyRegs s core g c ws).reqs = s.reqs := by
  induction ws generalizing s with
  | nil => rfl
  | cons w ws ih => exact (ih _).trans (applyReg_reqs s core g c w)
@[simp] theorem applyRegs_nextReq (s : State) (core g c : Nat) (ws : List RegWrite) : (applyRegs s core g c ws).nextReq = s.nextReq := by
  induction ws generalizing s with
  | nil => rfl
  | cons w ws ih => exact (ih _).trans (applyReg_nextReq s core g c w)
@[simp] theorem applyRegs_failed (s : State) (core g c : Nat) (ws : List RegWrite) : (applyRegs s core g c ws).failed = s.failed := by
  induction ws generalizing s with
  | nil => rfl
  | cons w ws ih => exact (ih _).trans (applyReg_failed s core g c w)
@[simp] theorem applyRegs_accessRecords (s : State) (core g c : Nat) (ws : List RegWrite) : (applyRegs s core g c ws).accessRecords = s.accessRecords := by
  induction ws generalizing s with
  | nil => rfl
  | cons w ws ih => exact (ih _).trans (applyReg_accessRecords s core g c w)
@[simp] theorem applyRegs_meters (s : State) (core g c : Nat) (ws : List RegWrite) : (applyRegs s core g c ws).meters = s.meters := by
  induction ws generalizing s with
  | nil => rfl
  | cons w ws ih => exact (ih _).trans (applyReg_meters s core g c w)
@[simp] theorem applyRegs_payer (s : State) (core g c : Nat) (ws : List RegWrite) : (applyRegs s core g c ws).payer = s.payer := by
  induction ws generalizing s with
  | nil => rfl
  | cons w ws ih => exact (ih _).trans (applyReg_payer s core g c w)
@[simp] theorem applyRegs_l2 (s : State) (core g c : Nat) (ws : List RegWrite) : (applyRegs s core g c ws).l2 = s.l2 := by
  induction ws generalizing s with
  | nil => rfl
  | cons w ws ih => exact (ih _).trans (applyReg_l2 s core g c w)
@[simp] theorem applyRegs_ports (s : State) (core g c : Nat) (ws : List RegWrite) : (applyRegs s core g c ws).ports = s.ports := by
  induction ws generalizing s with
  | nil => rfl
  | cons w ws ih => exact (ih _).trans (applyReg_ports s core g c w)
@[simp] theorem applyRegs_shares (s : State) (core g c : Nat) (ws : List RegWrite) : (applyRegs s core g c ws).shares = s.shares := by
  induction ws generalizing s with
  | nil => rfl
  | cons w ws ih => exact (ih _).trans (applyReg_shares s core g c w)
@[simp] theorem applyRegs_flash (s : State) (core g c : Nat) (ws : List RegWrite) : (applyRegs s core g c ws).flash = s.flash := by
  induction ws generalizing s with
  | nil => rfl
  | cons w ws ih => exact (ih _).trans (applyReg_flash s core g c w)
@[simp] theorem applyRegs_boot (s : State) (core g c : Nat) (ws : List RegWrite) : (applyRegs s core g c ws).boot = s.boot := by
  induction ws generalizing s with
  | nil => rfl
  | cons w ws ih => exact (ih _).trans (applyReg_boot s core g c w)
@[simp] theorem applyRegs_spSeq (s : State) (core g c : Nat) (ws : List RegWrite) : (applyRegs s core g c ws).spSeq = s.spSeq := by
  induction ws generalizing s with
  | nil => rfl
  | cons w ws ih => exact (ih _).trans (applyReg_spSeq s core g c w)
@[simp] theorem applyRegs_spJob (s : State) (core g c : Nat) (ws : List RegWrite) : (applyRegs s core g c ws).spJob = s.spJob := by
  induction ws generalizing s with
  | nil => rfl
  | cons w ws ih => exact (ih _).trans (applyReg_spJob s core g c w)
@[simp] theorem applyRegs_spWait (s : State) (core g c : Nat) (ws : List RegWrite) : (applyRegs s core g c ws).spWait = s.spWait := by
  induction ws generalizing s with
  | nil => rfl
  | cons w ws ih => exact (ih _).trans (applyReg_spWait s core g c w)
@[simp] theorem applyRegs_spdm (s : State) (core g c : Nat) (ws : List RegWrite) : (applyRegs s core g c ws).spdm = s.spdm := by
  induction ws generalizing s with
  | nil => rfl
  | cons w ws ih => exact (ih _).trans (applyReg_spdm s core g c w)
@[simp] theorem applyRegs_replies (s : State) (core g c : Nat) (ws : List RegWrite) : (applyRegs s core g c ws).replies = s.replies := by
  induction ws generalizing s with
  | nil => rfl
  | cons w ws ih => exact (ih _).trans (applyReg_replies s core g c w)

/-! ### advance -/

@[simp] theorem advance_time (s : State) (x : Sel) (m : LaneMask) : (advance s x m).time = s.time := by simp [advance]
@[simp] theorem advance_free (s : State) (x : Sel) (m : LaneMask) : (advance s x m).free = s.free := by simp [advance]
@[simp] theorem advance_turn (s : State) (x : Sel) (m : LaneMask) : (advance s x m).turn = s.turn := by simp [advance]
@[simp] theorem advance_sel (s : State) (x : Sel) (m : LaneMask) : (advance s x m).sel = s.sel := by simp [advance]
@[simp] theorem advance_agenda (s : State) (x : Sel) (m : LaneMask) : (advance s x m).agenda = s.agenda := by simp [advance]
@[simp] theorem advance_rr (s : State) (x : Sel) (m : LaneMask) : (advance s x m).rr = s.rr := by simp [advance]
@[simp] theorem advance_inCycle (s : State) (x : Sel) (m : LaneMask) : (advance s x m).inCycle = s.inCycle := by simp [advance]
@[simp] theorem advance_fenced (s : State) (x : Sel) (m : LaneMask) : (advance s x m).fenced = s.fenced := by simp [advance]
@[simp] theorem advance_posts (s : State) (x : Sel) (m : LaneMask) : (advance s x m).posts = s.posts := by simp [advance]
@[simp] theorem advance_hbm (s : State) (x : Sel) (m : LaneMask) : (advance s x m).hbm = s.hbm := by simp [advance]
@[simp] theorem advance_host (s : State) (x : Sel) (m : LaneMask) : (advance s x m).host = s.host := by simp [advance]
@[simp] theorem advance_peers (s : State) (x : Sel) (m : LaneMask) : (advance s x m).peers = s.peers := by simp [advance]
@[simp] theorem advance_cores (s : State) (x : Sel) (m : LaneMask) : (advance s x m).cores = s.cores := by simp [advance]
@[simp] theorem advance_records (s : State) (x : Sel) (m : LaneMask) : (advance s x m).records = s.records := by simp [advance]
@[simp] theorem advance_nextGroup (s : State) (x : Sel) (m : LaneMask) : (advance s x m).nextGroup = s.nextGroup := by simp [advance]
@[simp] theorem advance_launches (s : State) (x : Sel) (m : LaneMask) : (advance s x m).launches = s.launches := by simp [advance]
@[simp] theorem advance_objects (s : State) (x : Sel) (m : LaneMask) : (advance s x m).objects = s.objects := by simp [advance]
@[simp] theorem advance_ctxs (s : State) (x : Sel) (m : LaneMask) : (advance s x m).ctxs = s.ctxs := by simp [advance]
@[simp] theorem advance_queues (s : State) (x : Sel) (m : LaneMask) : (advance s x m).queues = s.queues := by simp [advance]
@[simp] theorem advance_fns (s : State) (x : Sel) (m : LaneMask) : (advance s x m).fns = s.fns := by simp [advance]
@[simp] theorem advance_parts (s : State) (x : Sel) (m : LaneMask) : (advance s x m).parts = s.parts := by simp [advance]
@[simp] theorem advance_reqs (s : State) (x : Sel) (m : LaneMask) : (advance s x m).reqs = s.reqs := by simp [advance]
@[simp] theorem advance_nextReq (s : State) (x : Sel) (m : LaneMask) : (advance s x m).nextReq = s.nextReq := by simp [advance]
@[simp] theorem advance_failed (s : State) (x : Sel) (m : LaneMask) : (advance s x m).failed = s.failed := by simp [advance]
@[simp] theorem advance_accessRecords (s : State) (x : Sel) (m : LaneMask) : (advance s x m).accessRecords = s.accessRecords := by simp [advance]
@[simp] theorem advance_meters (s : State) (x : Sel) (m : LaneMask) : (advance s x m).meters = s.meters := by simp [advance]
@[simp] theorem advance_payer (s : State) (x : Sel) (m : LaneMask) : (advance s x m).payer = s.payer := by simp [advance]
@[simp] theorem advance_l2 (s : State) (x : Sel) (m : LaneMask) : (advance s x m).l2 = s.l2 := by simp [advance]
@[simp] theorem advance_ports (s : State) (x : Sel) (m : LaneMask) : (advance s x m).ports = s.ports := by simp [advance]
@[simp] theorem advance_shares (s : State) (x : Sel) (m : LaneMask) : (advance s x m).shares = s.shares := by simp [advance]
@[simp] theorem advance_flash (s : State) (x : Sel) (m : LaneMask) : (advance s x m).flash = s.flash := by simp [advance]
@[simp] theorem advance_boot (s : State) (x : Sel) (m : LaneMask) : (advance s x m).boot = s.boot := by simp [advance]
@[simp] theorem advance_spSeq (s : State) (x : Sel) (m : LaneMask) : (advance s x m).spSeq = s.spSeq := by simp [advance]
@[simp] theorem advance_spJob (s : State) (x : Sel) (m : LaneMask) : (advance s x m).spJob = s.spJob := by simp [advance]
@[simp] theorem advance_spWait (s : State) (x : Sel) (m : LaneMask) : (advance s x m).spWait = s.spWait := by simp [advance]
@[simp] theorem advance_spdm (s : State) (x : Sel) (m : LaneMask) : (advance s x m).spdm = s.spdm := by simp [advance]
@[simp] theorem advance_replies (s : State) (x : Sel) (m : LaneMask) : (advance s x m).replies = s.replies := by simp [advance]

/-! ### stepSeeds -/

@[simp] theorem stepSeeds_time (s : State) (x : Sel) (m : LaneMask) : (stepSeeds s x m).time = s.time := by simp [stepSeeds]
@[simp] theorem stepSeeds_free (s : State) (x : Sel) (m : LaneMask) : (stepSeeds s x m).free = s.free := by simp [stepSeeds]
@[simp] theorem stepSeeds_turn (s : State) (x : Sel) (m : LaneMask) : (stepSeeds s x m).turn = s.turn := by simp [stepSeeds]
@[simp] theorem stepSeeds_sel (s : State) (x : Sel) (m : LaneMask) : (stepSeeds s x m).sel = s.sel := by simp [stepSeeds]
@[simp] theorem stepSeeds_agenda (s : State) (x : Sel) (m : LaneMask) : (stepSeeds s x m).agenda = s.agenda := by simp [stepSeeds]
@[simp] theorem stepSeeds_rr (s : State) (x : Sel) (m : LaneMask) : (stepSeeds s x m).rr = s.rr := by simp [stepSeeds]
@[simp] theorem stepSeeds_inCycle (s : State) (x : Sel) (m : LaneMask) : (stepSeeds s x m).inCycle = s.inCycle := by simp [stepSeeds]
@[simp] theorem stepSeeds_fenced (s : State) (x : Sel) (m : LaneMask) : (stepSeeds s x m).fenced = s.fenced := by simp [stepSeeds]
@[simp] theorem stepSeeds_posts (s : State) (x : Sel) (m : LaneMask) : (stepSeeds s x m).posts = s.posts := by simp [stepSeeds]
@[simp] theorem stepSeeds_hbm (s : State) (x : Sel) (m : LaneMask) : (stepSeeds s x m).hbm = s.hbm := by simp [stepSeeds]
@[simp] theorem stepSeeds_host (s : State) (x : Sel) (m : LaneMask) : (stepSeeds s x m).host = s.host := by simp [stepSeeds]
@[simp] theorem stepSeeds_peers (s : State) (x : Sel) (m : LaneMask) : (stepSeeds s x m).peers = s.peers := by simp [stepSeeds]
@[simp] theorem stepSeeds_cores (s : State) (x : Sel) (m : LaneMask) : (stepSeeds s x m).cores = s.cores := by simp [stepSeeds]
@[simp] theorem stepSeeds_records (s : State) (x : Sel) (m : LaneMask) : (stepSeeds s x m).records = s.records := by simp [stepSeeds]
@[simp] theorem stepSeeds_nextGroup (s : State) (x : Sel) (m : LaneMask) : (stepSeeds s x m).nextGroup = s.nextGroup := by simp [stepSeeds]
@[simp] theorem stepSeeds_launches (s : State) (x : Sel) (m : LaneMask) : (stepSeeds s x m).launches = s.launches := by simp [stepSeeds]
@[simp] theorem stepSeeds_objects (s : State) (x : Sel) (m : LaneMask) : (stepSeeds s x m).objects = s.objects := by simp [stepSeeds]
@[simp] theorem stepSeeds_ctxs (s : State) (x : Sel) (m : LaneMask) : (stepSeeds s x m).ctxs = s.ctxs := by simp [stepSeeds]
@[simp] theorem stepSeeds_queues (s : State) (x : Sel) (m : LaneMask) : (stepSeeds s x m).queues = s.queues := by simp [stepSeeds]
@[simp] theorem stepSeeds_fns (s : State) (x : Sel) (m : LaneMask) : (stepSeeds s x m).fns = s.fns := by simp [stepSeeds]
@[simp] theorem stepSeeds_parts (s : State) (x : Sel) (m : LaneMask) : (stepSeeds s x m).parts = s.parts := by simp [stepSeeds]
@[simp] theorem stepSeeds_reqs (s : State) (x : Sel) (m : LaneMask) : (stepSeeds s x m).reqs = s.reqs := by simp [stepSeeds]
@[simp] theorem stepSeeds_nextReq (s : State) (x : Sel) (m : LaneMask) : (stepSeeds s x m).nextReq = s.nextReq := by simp [stepSeeds]
@[simp] theorem stepSeeds_failed (s : State) (x : Sel) (m : LaneMask) : (stepSeeds s x m).failed = s.failed := by simp [stepSeeds]
@[simp] theorem stepSeeds_accessRecords (s : State) (x : Sel) (m : LaneMask) : (stepSeeds s x m).accessRecords = s.accessRecords := by simp [stepSeeds]
@[simp] theorem stepSeeds_meters (s : State) (x : Sel) (m : LaneMask) : (stepSeeds s x m).meters = s.meters := by simp [stepSeeds]
@[simp] theorem stepSeeds_payer (s : State) (x : Sel) (m : LaneMask) : (stepSeeds s x m).payer = s.payer := by simp [stepSeeds]
@[simp] theorem stepSeeds_l2 (s : State) (x : Sel) (m : LaneMask) : (stepSeeds s x m).l2 = s.l2 := by simp [stepSeeds]
@[simp] theorem stepSeeds_ports (s : State) (x : Sel) (m : LaneMask) : (stepSeeds s x m).ports = s.ports := by simp [stepSeeds]
@[simp] theorem stepSeeds_shares (s : State) (x : Sel) (m : LaneMask) : (stepSeeds s x m).shares = s.shares := by simp [stepSeeds]
@[simp] theorem stepSeeds_flash (s : State) (x : Sel) (m : LaneMask) : (stepSeeds s x m).flash = s.flash := by simp [stepSeeds]
@[simp] theorem stepSeeds_boot (s : State) (x : Sel) (m : LaneMask) : (stepSeeds s x m).boot = s.boot := by simp [stepSeeds]
@[simp] theorem stepSeeds_spSeq (s : State) (x : Sel) (m : LaneMask) : (stepSeeds s x m).spSeq = s.spSeq := by simp [stepSeeds]
@[simp] theorem stepSeeds_spJob (s : State) (x : Sel) (m : LaneMask) : (stepSeeds s x m).spJob = s.spJob := by simp [stepSeeds]
@[simp] theorem stepSeeds_spWait (s : State) (x : Sel) (m : LaneMask) : (stepSeeds s x m).spWait = s.spWait := by simp [stepSeeds]
@[simp] theorem stepSeeds_spdm (s : State) (x : Sel) (m : LaneMask) : (stepSeeds s x m).spdm = s.spdm := by simp [stepSeeds]
@[simp] theorem stepSeeds_replies (s : State) (x : Sel) (m : LaneMask) : (stepSeeds s x m).replies = s.replies := by simp [stepSeeds]

/-! ### chargePayer -/

@[simp] theorem chargePayer_time (s : State) (k n : Nat) : (s.chargePayer k n).time = s.time := by unfold State.chargePayer; split <;> rfl
@[simp] theorem chargePayer_free (s : State) (k n : Nat) : (s.chargePayer k n).free = s.free := by unfold State.chargePayer; split <;> rfl
@[simp] theorem chargePayer_turn (s : State) (k n : Nat) : (s.chargePayer k n).turn = s.turn := by unfold State.chargePayer; split <;> rfl
@[simp] theorem chargePayer_sel (s : State) (k n : Nat) : (s.chargePayer k n).sel = s.sel := by unfold State.chargePayer; split <;> rfl
@[simp] theorem chargePayer_agenda (s : State) (k n : Nat) : (s.chargePayer k n).agenda = s.agenda := by unfold State.chargePayer; split <;> rfl
@[simp] theorem chargePayer_rr (s : State) (k n : Nat) : (s.chargePayer k n).rr = s.rr := by unfold State.chargePayer; split <;> rfl
@[simp] theorem chargePayer_inCycle (s : State) (k n : Nat) : (s.chargePayer k n).inCycle = s.inCycle := by unfold State.chargePayer; split <;> rfl
@[simp] theorem chargePayer_fenced (s : State) (k n : Nat) : (s.chargePayer k n).fenced = s.fenced := by unfold State.chargePayer; split <;> rfl
@[simp] theorem chargePayer_posts (s : State) (k n : Nat) : (s.chargePayer k n).posts = s.posts := by unfold State.chargePayer; split <;> rfl
@[simp] theorem chargePayer_hbm (s : State) (k n : Nat) : (s.chargePayer k n).hbm = s.hbm := by unfold State.chargePayer; split <;> rfl
@[simp] theorem chargePayer_host (s : State) (k n : Nat) : (s.chargePayer k n).host = s.host := by unfold State.chargePayer; split <;> rfl
@[simp] theorem chargePayer_peers (s : State) (k n : Nat) : (s.chargePayer k n).peers = s.peers := by unfold State.chargePayer; split <;> rfl
@[simp] theorem chargePayer_cores (s : State) (k n : Nat) : (s.chargePayer k n).cores = s.cores := by unfold State.chargePayer; split <;> rfl
@[simp] theorem chargePayer_groups (s : State) (k n : Nat) : (s.chargePayer k n).groups = s.groups := by unfold State.chargePayer; split <;> rfl
@[simp] theorem chargePayer_records (s : State) (k n : Nat) : (s.chargePayer k n).records = s.records := by unfold State.chargePayer; split <;> rfl
@[simp] theorem chargePayer_nextGroup (s : State) (k n : Nat) : (s.chargePayer k n).nextGroup = s.nextGroup := by unfold State.chargePayer; split <;> rfl
@[simp] theorem chargePayer_launches (s : State) (k n : Nat) : (s.chargePayer k n).launches = s.launches := by unfold State.chargePayer; split <;> rfl
@[simp] theorem chargePayer_objects (s : State) (k n : Nat) : (s.chargePayer k n).objects = s.objects := by unfold State.chargePayer; split <;> rfl
@[simp] theorem chargePayer_ctxs (s : State) (k n : Nat) : (s.chargePayer k n).ctxs = s.ctxs := by unfold State.chargePayer; split <;> rfl
@[simp] theorem chargePayer_queues (s : State) (k n : Nat) : (s.chargePayer k n).queues = s.queues := by unfold State.chargePayer; split <;> rfl
@[simp] theorem chargePayer_fns (s : State) (k n : Nat) : (s.chargePayer k n).fns = s.fns := by unfold State.chargePayer; split <;> rfl
@[simp] theorem chargePayer_parts (s : State) (k n : Nat) : (s.chargePayer k n).parts = s.parts := by unfold State.chargePayer; split <;> rfl
@[simp] theorem chargePayer_reqs (s : State) (k n : Nat) : (s.chargePayer k n).reqs = s.reqs := by unfold State.chargePayer; split <;> rfl
@[simp] theorem chargePayer_nextReq (s : State) (k n : Nat) : (s.chargePayer k n).nextReq = s.nextReq := by unfold State.chargePayer; split <;> rfl
@[simp] theorem chargePayer_failed (s : State) (k n : Nat) : (s.chargePayer k n).failed = s.failed := by unfold State.chargePayer; split <;> rfl
@[simp] theorem chargePayer_accessRecords (s : State) (k n : Nat) : (s.chargePayer k n).accessRecords = s.accessRecords := by unfold State.chargePayer; split <;> rfl
@[simp] theorem chargePayer_payer (s : State) (k n : Nat) : (s.chargePayer k n).payer = s.payer := by unfold State.chargePayer; split <;> rfl
@[simp] theorem chargePayer_l2 (s : State) (k n : Nat) : (s.chargePayer k n).l2 = s.l2 := by unfold State.chargePayer; split <;> rfl
@[simp] theorem chargePayer_ports (s : State) (k n : Nat) : (s.chargePayer k n).ports = s.ports := by unfold State.chargePayer; split <;> rfl
@[simp] theorem chargePayer_shares (s : State) (k n : Nat) : (s.chargePayer k n).shares = s.shares := by unfold State.chargePayer; split <;> rfl
@[simp] theorem chargePayer_flash (s : State) (k n : Nat) : (s.chargePayer k n).flash = s.flash := by unfold State.chargePayer; split <;> rfl
@[simp] theorem chargePayer_boot (s : State) (k n : Nat) : (s.chargePayer k n).boot = s.boot := by unfold State.chargePayer; split <;> rfl
@[simp] theorem chargePayer_spSeq (s : State) (k n : Nat) : (s.chargePayer k n).spSeq = s.spSeq := by unfold State.chargePayer; split <;> rfl
@[simp] theorem chargePayer_spJob (s : State) (k n : Nat) : (s.chargePayer k n).spJob = s.spJob := by unfold State.chargePayer; split <;> rfl
@[simp] theorem chargePayer_spWait (s : State) (k n : Nat) : (s.chargePayer k n).spWait = s.spWait := by unfold State.chargePayer; split <;> rfl
@[simp] theorem chargePayer_spdm (s : State) (k n : Nat) : (s.chargePayer k n).spdm = s.spdm := by unfold State.chargePayer; split <;> rfl
@[simp] theorem chargePayer_replies (s : State) (k n : Nat) : (s.chargePayer k n).replies = s.replies := by unfold State.chargePayer; split <;> rfl

/-! ### linkBytes -/

@[simp] theorem linkBytes_time (s : State) (n : Nat) : (linkBytes s n).time = s.time := by simp [linkBytes]
@[simp] theorem linkBytes_free (s : State) (n : Nat) : (linkBytes s n).free = s.free := by simp [linkBytes]
@[simp] theorem linkBytes_turn (s : State) (n : Nat) : (linkBytes s n).turn = s.turn := by simp [linkBytes]
@[simp] theorem linkBytes_sel (s : State) (n : Nat) : (linkBytes s n).sel = s.sel := by simp [linkBytes]
@[simp] theorem linkBytes_agenda (s : State) (n : Nat) : (linkBytes s n).agenda = s.agenda := by simp [linkBytes]
@[simp] theorem linkBytes_rr (s : State) (n : Nat) : (linkBytes s n).rr = s.rr := by simp [linkBytes]
@[simp] theorem linkBytes_inCycle (s : State) (n : Nat) : (linkBytes s n).inCycle = s.inCycle := by simp [linkBytes]
@[simp] theorem linkBytes_fenced (s : State) (n : Nat) : (linkBytes s n).fenced = s.fenced := by simp [linkBytes]
@[simp] theorem linkBytes_posts (s : State) (n : Nat) : (linkBytes s n).posts = s.posts := by simp [linkBytes]
@[simp] theorem linkBytes_hbm (s : State) (n : Nat) : (linkBytes s n).hbm = s.hbm := by simp [linkBytes]
@[simp] theorem linkBytes_host (s : State) (n : Nat) : (linkBytes s n).host = s.host := by simp [linkBytes]
@[simp] theorem linkBytes_peers (s : State) (n : Nat) : (linkBytes s n).peers = s.peers := by simp [linkBytes]
@[simp] theorem linkBytes_cores (s : State) (n : Nat) : (linkBytes s n).cores = s.cores := by simp [linkBytes]
@[simp] theorem linkBytes_groups (s : State) (n : Nat) : (linkBytes s n).groups = s.groups := by simp [linkBytes]
@[simp] theorem linkBytes_records (s : State) (n : Nat) : (linkBytes s n).records = s.records := by simp [linkBytes]
@[simp] theorem linkBytes_nextGroup (s : State) (n : Nat) : (linkBytes s n).nextGroup = s.nextGroup := by simp [linkBytes]
@[simp] theorem linkBytes_launches (s : State) (n : Nat) : (linkBytes s n).launches = s.launches := by simp [linkBytes]
@[simp] theorem linkBytes_objects (s : State) (n : Nat) : (linkBytes s n).objects = s.objects := by simp [linkBytes]
@[simp] theorem linkBytes_ctxs (s : State) (n : Nat) : (linkBytes s n).ctxs = s.ctxs := by simp [linkBytes]
@[simp] theorem linkBytes_queues (s : State) (n : Nat) : (linkBytes s n).queues = s.queues := by simp [linkBytes]
@[simp] theorem linkBytes_fns (s : State) (n : Nat) : (linkBytes s n).fns = s.fns := by simp [linkBytes]
@[simp] theorem linkBytes_parts (s : State) (n : Nat) : (linkBytes s n).parts = s.parts := by simp [linkBytes]
@[simp] theorem linkBytes_reqs (s : State) (n : Nat) : (linkBytes s n).reqs = s.reqs := by simp [linkBytes]
@[simp] theorem linkBytes_nextReq (s : State) (n : Nat) : (linkBytes s n).nextReq = s.nextReq := by simp [linkBytes]
@[simp] theorem linkBytes_failed (s : State) (n : Nat) : (linkBytes s n).failed = s.failed := by simp [linkBytes]
@[simp] theorem linkBytes_accessRecords (s : State) (n : Nat) : (linkBytes s n).accessRecords = s.accessRecords := by simp [linkBytes]
@[simp] theorem linkBytes_payer (s : State) (n : Nat) : (linkBytes s n).payer = s.payer := by simp [linkBytes]
@[simp] theorem linkBytes_l2 (s : State) (n : Nat) : (linkBytes s n).l2 = s.l2 := by simp [linkBytes]
@[simp] theorem linkBytes_ports (s : State) (n : Nat) : (linkBytes s n).ports = s.ports := by simp [linkBytes]
@[simp] theorem linkBytes_shares (s : State) (n : Nat) : (linkBytes s n).shares = s.shares := by simp [linkBytes]
@[simp] theorem linkBytes_flash (s : State) (n : Nat) : (linkBytes s n).flash = s.flash := by simp [linkBytes]
@[simp] theorem linkBytes_boot (s : State) (n : Nat) : (linkBytes s n).boot = s.boot := by simp [linkBytes]
@[simp] theorem linkBytes_spSeq (s : State) (n : Nat) : (linkBytes s n).spSeq = s.spSeq := by simp [linkBytes]
@[simp] theorem linkBytes_spJob (s : State) (n : Nat) : (linkBytes s n).spJob = s.spJob := by simp [linkBytes]
@[simp] theorem linkBytes_spWait (s : State) (n : Nat) : (linkBytes s n).spWait = s.spWait := by simp [linkBytes]
@[simp] theorem linkBytes_spdm (s : State) (n : Nat) : (linkBytes s n).spdm = s.spdm := by simp [linkBytes]
@[simp] theorem linkBytes_replies (s : State) (n : Nat) : (linkBytes s n).replies = s.replies := by simp [linkBytes]

/-! ### l2Access -/

@[simp] theorem l2Access_time (s : State) (k : Nat) (use : L2Use) : (s.l2Access k use).time = s.time := rfl
@[simp] theorem l2Access_free (s : State) (k : Nat) (use : L2Use) : (s.l2Access k use).free = s.free := rfl
@[simp] theorem l2Access_turn (s : State) (k : Nat) (use : L2Use) : (s.l2Access k use).turn = s.turn := rfl
@[simp] theorem l2Access_sel (s : State) (k : Nat) (use : L2Use) : (s.l2Access k use).sel = s.sel := rfl
@[simp] theorem l2Access_agenda (s : State) (k : Nat) (use : L2Use) : (s.l2Access k use).agenda = s.agenda := rfl
@[simp] theorem l2Access_rr (s : State) (k : Nat) (use : L2Use) : (s.l2Access k use).rr = s.rr := rfl
@[simp] theorem l2Access_inCycle (s : State) (k : Nat) (use : L2Use) : (s.l2Access k use).inCycle = s.inCycle := rfl
@[simp] theorem l2Access_fenced (s : State) (k : Nat) (use : L2Use) : (s.l2Access k use).fenced = s.fenced := rfl
@[simp] theorem l2Access_posts (s : State) (k : Nat) (use : L2Use) : (s.l2Access k use).posts = s.posts := rfl
@[simp] theorem l2Access_hbm (s : State) (k : Nat) (use : L2Use) : (s.l2Access k use).hbm = s.hbm := rfl
@[simp] theorem l2Access_host (s : State) (k : Nat) (use : L2Use) : (s.l2Access k use).host = s.host := rfl
@[simp] theorem l2Access_peers (s : State) (k : Nat) (use : L2Use) : (s.l2Access k use).peers = s.peers := rfl
@[simp] theorem l2Access_cores (s : State) (k : Nat) (use : L2Use) : (s.l2Access k use).cores = s.cores := rfl
@[simp] theorem l2Access_groups (s : State) (k : Nat) (use : L2Use) : (s.l2Access k use).groups = s.groups := rfl
@[simp] theorem l2Access_records (s : State) (k : Nat) (use : L2Use) : (s.l2Access k use).records = s.records := rfl
@[simp] theorem l2Access_nextGroup (s : State) (k : Nat) (use : L2Use) : (s.l2Access k use).nextGroup = s.nextGroup := rfl
@[simp] theorem l2Access_launches (s : State) (k : Nat) (use : L2Use) : (s.l2Access k use).launches = s.launches := rfl
@[simp] theorem l2Access_objects (s : State) (k : Nat) (use : L2Use) : (s.l2Access k use).objects = s.objects := rfl
@[simp] theorem l2Access_ctxs (s : State) (k : Nat) (use : L2Use) : (s.l2Access k use).ctxs = s.ctxs := rfl
@[simp] theorem l2Access_queues (s : State) (k : Nat) (use : L2Use) : (s.l2Access k use).queues = s.queues := rfl
@[simp] theorem l2Access_fns (s : State) (k : Nat) (use : L2Use) : (s.l2Access k use).fns = s.fns := rfl
@[simp] theorem l2Access_parts (s : State) (k : Nat) (use : L2Use) : (s.l2Access k use).parts = s.parts := rfl
@[simp] theorem l2Access_reqs (s : State) (k : Nat) (use : L2Use) : (s.l2Access k use).reqs = s.reqs := rfl
@[simp] theorem l2Access_nextReq (s : State) (k : Nat) (use : L2Use) : (s.l2Access k use).nextReq = s.nextReq := rfl
@[simp] theorem l2Access_failed (s : State) (k : Nat) (use : L2Use) : (s.l2Access k use).failed = s.failed := rfl
@[simp] theorem l2Access_payer (s : State) (k : Nat) (use : L2Use) : (s.l2Access k use).payer = s.payer := rfl
@[simp] theorem l2Access_ports (s : State) (k : Nat) (use : L2Use) : (s.l2Access k use).ports = s.ports := rfl
@[simp] theorem l2Access_shares (s : State) (k : Nat) (use : L2Use) : (s.l2Access k use).shares = s.shares := rfl
@[simp] theorem l2Access_flash (s : State) (k : Nat) (use : L2Use) : (s.l2Access k use).flash = s.flash := rfl
@[simp] theorem l2Access_boot (s : State) (k : Nat) (use : L2Use) : (s.l2Access k use).boot = s.boot := rfl
@[simp] theorem l2Access_spSeq (s : State) (k : Nat) (use : L2Use) : (s.l2Access k use).spSeq = s.spSeq := rfl
@[simp] theorem l2Access_spJob (s : State) (k : Nat) (use : L2Use) : (s.l2Access k use).spJob = s.spJob := rfl
@[simp] theorem l2Access_spWait (s : State) (k : Nat) (use : L2Use) : (s.l2Access k use).spWait = s.spWait := rfl
@[simp] theorem l2Access_spdm (s : State) (k : Nat) (use : L2Use) : (s.l2Access k use).spdm = s.spdm := rfl
@[simp] theorem l2Access_replies (s : State) (k : Nat) (use : L2Use) : (s.l2Access k use).replies = s.replies := rfl

/-! ### sendFlit -/

@[simp] theorem sendFlit_time (s : State) (k kind : Nat) (p : BitVec 8) (ws : List SecWrite) : (sendFlit s k kind p ws).time = s.time := by simp [sendFlit]
@[simp] theorem sendFlit_free (s : State) (k kind : Nat) (p : BitVec 8) (ws : List SecWrite) : (sendFlit s k kind p ws).free = s.free := by simp [sendFlit]
@[simp] theorem sendFlit_turn (s : State) (k kind : Nat) (p : BitVec 8) (ws : List SecWrite) : (sendFlit s k kind p ws).turn = s.turn := by simp [sendFlit]
@[simp] theorem sendFlit_sel (s : State) (k kind : Nat) (p : BitVec 8) (ws : List SecWrite) : (sendFlit s k kind p ws).sel = s.sel := by simp [sendFlit]
@[simp] theorem sendFlit_agenda (s : State) (k kind : Nat) (p : BitVec 8) (ws : List SecWrite) : (sendFlit s k kind p ws).agenda = s.agenda := by simp [sendFlit]
@[simp] theorem sendFlit_rr (s : State) (k kind : Nat) (p : BitVec 8) (ws : List SecWrite) : (sendFlit s k kind p ws).rr = s.rr := by simp [sendFlit]
@[simp] theorem sendFlit_inCycle (s : State) (k kind : Nat) (p : BitVec 8) (ws : List SecWrite) : (sendFlit s k kind p ws).inCycle = s.inCycle := by simp [sendFlit]
@[simp] theorem sendFlit_fenced (s : State) (k kind : Nat) (p : BitVec 8) (ws : List SecWrite) : (sendFlit s k kind p ws).fenced = s.fenced := by simp [sendFlit]
@[simp] theorem sendFlit_posts (s : State) (k kind : Nat) (p : BitVec 8) (ws : List SecWrite) : (sendFlit s k kind p ws).posts = s.posts := by simp [sendFlit]
@[simp] theorem sendFlit_hbm (s : State) (k kind : Nat) (p : BitVec 8) (ws : List SecWrite) : (sendFlit s k kind p ws).hbm = s.hbm := by simp [sendFlit]
@[simp] theorem sendFlit_host (s : State) (k kind : Nat) (p : BitVec 8) (ws : List SecWrite) : (sendFlit s k kind p ws).host = s.host := by simp [sendFlit]
@[simp] theorem sendFlit_peers (s : State) (k kind : Nat) (p : BitVec 8) (ws : List SecWrite) : (sendFlit s k kind p ws).peers = s.peers := by simp [sendFlit]
@[simp] theorem sendFlit_cores (s : State) (k kind : Nat) (p : BitVec 8) (ws : List SecWrite) : (sendFlit s k kind p ws).cores = s.cores := by simp [sendFlit]
@[simp] theorem sendFlit_groups (s : State) (k kind : Nat) (p : BitVec 8) (ws : List SecWrite) : (sendFlit s k kind p ws).groups = s.groups := by simp [sendFlit]
@[simp] theorem sendFlit_records (s : State) (k kind : Nat) (p : BitVec 8) (ws : List SecWrite) : (sendFlit s k kind p ws).records = s.records := by simp [sendFlit]
@[simp] theorem sendFlit_nextGroup (s : State) (k kind : Nat) (p : BitVec 8) (ws : List SecWrite) : (sendFlit s k kind p ws).nextGroup = s.nextGroup := by simp [sendFlit]
@[simp] theorem sendFlit_launches (s : State) (k kind : Nat) (p : BitVec 8) (ws : List SecWrite) : (sendFlit s k kind p ws).launches = s.launches := by simp [sendFlit]
@[simp] theorem sendFlit_objects (s : State) (k kind : Nat) (p : BitVec 8) (ws : List SecWrite) : (sendFlit s k kind p ws).objects = s.objects := by simp [sendFlit]
@[simp] theorem sendFlit_ctxs (s : State) (k kind : Nat) (p : BitVec 8) (ws : List SecWrite) : (sendFlit s k kind p ws).ctxs = s.ctxs := by simp [sendFlit]
@[simp] theorem sendFlit_queues (s : State) (k kind : Nat) (p : BitVec 8) (ws : List SecWrite) : (sendFlit s k kind p ws).queues = s.queues := by simp [sendFlit]
@[simp] theorem sendFlit_fns (s : State) (k kind : Nat) (p : BitVec 8) (ws : List SecWrite) : (sendFlit s k kind p ws).fns = s.fns := by simp [sendFlit]
@[simp] theorem sendFlit_parts (s : State) (k kind : Nat) (p : BitVec 8) (ws : List SecWrite) : (sendFlit s k kind p ws).parts = s.parts := by simp [sendFlit]
@[simp] theorem sendFlit_reqs (s : State) (k kind : Nat) (p : BitVec 8) (ws : List SecWrite) : (sendFlit s k kind p ws).reqs = s.reqs := by simp [sendFlit]
@[simp] theorem sendFlit_nextReq (s : State) (k kind : Nat) (p : BitVec 8) (ws : List SecWrite) : (sendFlit s k kind p ws).nextReq = s.nextReq := by simp [sendFlit]
@[simp] theorem sendFlit_failed (s : State) (k kind : Nat) (p : BitVec 8) (ws : List SecWrite) : (sendFlit s k kind p ws).failed = s.failed := by simp [sendFlit]
@[simp] theorem sendFlit_accessRecords (s : State) (k kind : Nat) (p : BitVec 8) (ws : List SecWrite) : (sendFlit s k kind p ws).accessRecords = s.accessRecords := by simp [sendFlit]
@[simp] theorem sendFlit_meters (s : State) (k kind : Nat) (p : BitVec 8) (ws : List SecWrite) : (sendFlit s k kind p ws).meters = s.meters := by simp [sendFlit]
@[simp] theorem sendFlit_payer (s : State) (k kind : Nat) (p : BitVec 8) (ws : List SecWrite) : (sendFlit s k kind p ws).payer = s.payer := by simp [sendFlit]
@[simp] theorem sendFlit_l2 (s : State) (k kind : Nat) (p : BitVec 8) (ws : List SecWrite) : (sendFlit s k kind p ws).l2 = s.l2 := by simp [sendFlit]
@[simp] theorem sendFlit_shares (s : State) (k kind : Nat) (p : BitVec 8) (ws : List SecWrite) : (sendFlit s k kind p ws).shares = s.shares := by simp [sendFlit]
@[simp] theorem sendFlit_flash (s : State) (k kind : Nat) (p : BitVec 8) (ws : List SecWrite) : (sendFlit s k kind p ws).flash = s.flash := by simp [sendFlit]
@[simp] theorem sendFlit_boot (s : State) (k kind : Nat) (p : BitVec 8) (ws : List SecWrite) : (sendFlit s k kind p ws).boot = s.boot := by simp [sendFlit]
@[simp] theorem sendFlit_spSeq (s : State) (k kind : Nat) (p : BitVec 8) (ws : List SecWrite) : (sendFlit s k kind p ws).spSeq = s.spSeq := by simp [sendFlit]
@[simp] theorem sendFlit_spJob (s : State) (k kind : Nat) (p : BitVec 8) (ws : List SecWrite) : (sendFlit s k kind p ws).spJob = s.spJob := by simp [sendFlit]
@[simp] theorem sendFlit_spWait (s : State) (k kind : Nat) (p : BitVec 8) (ws : List SecWrite) : (sendFlit s k kind p ws).spWait = s.spWait := by simp [sendFlit]
@[simp] theorem sendFlit_spdm (s : State) (k kind : Nat) (p : BitVec 8) (ws : List SecWrite) : (sendFlit s k kind p ws).spdm = s.spdm := by simp [sendFlit]
@[simp] theorem sendFlit_replies (s : State) (k kind : Nat) (p : BitVec 8) (ws : List SecWrite) : (sendFlit s k kind p ws).replies = s.replies := by simp [sendFlit]

/-! ### The fields an update writes -/

@[simp] theorem setCore_cores (s : State) (c : Nat) (k : Core) : (s.setCore c k).cores = alSet s.cores c k := rfl
@[simp] theorem setGroup_groups (s : State) (g : Nat) (x : Group) : (s.setGroup g x).groups = alSet s.groups g x := rfl
@[simp] theorem setLaunch_launches (s : State) (l : Nat) (x : Launch) : (s.setLaunch l x).launches = alSet s.launches l x := rfl
@[simp] theorem post_agenda (s : State) (i : Instr) : (s.post i).agenda = s.agenda ++ [i] := rfl
@[simp] theorem postFirst_agenda (s : State) (i : Instr) : (s.postFirst i).agenda = i :: s.agenda := rfl
@[simp] theorem deselect_sel (s : State) : s.deselect.sel = none := rfl

end Sys2Proof.Machine
end

