-- ==== Sys2Proof/Laws/Registers.lean ====
section
/-!
SUPPORT. Read after write: keyed tables, cores, groups, courses and lanes, and the registers of a lane, a course and the
handler reserve.
-/

namespace Sys2Proof.Machine

/-! ### Keyed tables -/

@[simp] theorem alGet_alSet_same {α : Type} (l : List (Nat × α)) (k : Nat) (v : α) : alGet (alSet l k v) k = some v := by
  induction l with
  | nil => simp [alSet, alGet]
  | cons e l ih =>
    obtain ⟨j, w⟩ := e
    simp only [alSet]
    split
    · simp [alGet]
    · split
      · simp [alGet]
      · rename_i h
        have : ¬ j = k := fun e => h e.symm
        simp [alGet, this, ih]

theorem alGet_alSet_other {α : Type} (l : List (Nat × α)) (k j : Nat) (v : α) (h : j ≠ k) :
    alGet (alSet l k v) j = alGet l j := by
  have hk : ¬ k = j := fun e => h e.symm
  induction l with
  | nil => simp [alSet, alGet, hk]
  | cons e l ih =>
    obtain ⟨i, w⟩ := e
    simp only [alSet]
    split
    · simp [alGet, hk]
    · split
      · subst_vars
        simp [alGet, hk]
      · simp only [alGet]
        split
        · rfl
        · exact ih

/-! ### Cores and groups -/

@[simp] theorem core_setCore_same (s : State) (c : Nat) (k : Core) : (s.setCore c k).core c = k := by
  simp [State.core]

theorem core_setCore_other (s : State) (c d : Nat) (k : Core) (h : d ≠ c) : (s.setCore c k).core d = s.core d := by
  simp [State.core, alGet_alSet_other _ _ _ _ h]

@[simp] theorem group_setGroup_same (s : State) (g : Nat) (x : Group) : (s.setGroup g x).group g = some x := by
  simp [State.group]

theorem group_setGroup_other (s : State) (g h : Nat) (x : Group) (n : h ≠ g) : (s.setGroup g x).group h = s.group h := by
  simp [State.group, alGet_alSet_other _ _ _ _ n]

theorem group_updGroup_same (s : State) (g : Nat) (f : Group → Group) :
    (s.updGroup g f).group g = (s.group g).map f := by
  unfold State.updGroup
  cases h : s.group g <;> simp [h]

theorem group_updGroup_other (s : State) (g h : Nat) (f : Group → Group) (n : h ≠ g) :
    (s.updGroup g f).group h = s.group h := by
  unfold State.updGroup
  split
  · exact group_setGroup_other _ _ _ _ n
  · rfl

@[simp] theorem core_updGroup (s : State) (g c : Nat) (f : Group → Group) : (s.updGroup g f).core c = s.core c := by
  simp [State.core]
@[simp] theorem core_updCourse (s : State) (g i c : Nat) (f : Course → Course) : (s.updCourse g i f).core c = s.core c := by
  simp [State.core]
@[simp] theorem core_updLane (s : State) (g i n c : Nat) (f : Lane → Lane) : (s.updLane g i n f).core c = s.core c := by
  simp [State.core]
@[simp] theorem core_post (s : State) (i : Instr) (c : Nat) : (s.post i).core c = s.core c := rfl
@[simp] theorem core_deselect (s : State) (c : Nat) : s.deselect.core c = s.core c := rfl
@[simp] theorem group_post (s : State) (i : Instr) (g : Nat) : (s.post i).group g = s.group g := rfl
@[simp] theorem group_deselect (s : State) (g : Nat) : s.deselect.group g = s.group g := rfl
@[simp] theorem group_setCore (s : State) (c : Nat) (k : Core) (g : Nat) : (s.setCore c k).group g = s.group g := rfl

/-! ### Courses of a group -/

theorem course_updCourse_same (x : Group) (c : Nat) (f : Course → Course) (h : c < x.courses.length) :
    (x.updCourse c f).course c = f (x.course c) := by
  simp [Group.updCourse, Group.course, List.getD_eq_getElem?_getD, h]

theorem course_updCourse_other (x : Group) (c d : Nat) (f : Course → Course) (h : d ≠ c) :
    (x.updCourse c f).course d = x.course d := by
  have : ¬ c = d := fun e => h e.symm
  simp [Group.updCourse, Group.course, List.getD_eq_getElem?_getD, this]

/-! ### Lanes of a course -/

theorem lane_updLane_same (c : Course) (n : Nat) (f : Lane → Lane) (h : n < 32) : (c.updLane n f).lane n = f (c.lane n) := by
  simp [Course.updLane, Course.lane, h]

theorem lane_updLane_other (c : Course) (n m : Nat) (f : Lane → Lane) (h : m ≠ n) : (c.updLane n f).lane m = c.lane m := by
  unfold Course.updLane Course.lane
  split
  · split
    · have : ¬ n = m := fun e => h e.symm
      simp [this]
    · rfl
  · rfl

theorem lane_mapLanes (c : Course) (f : Nat → Lane → Lane) (n : Nat) (h : n < 32) :
    (c.mapLanes f).lane n = f n (c.lane n) := by
  simp [Course.mapLanes, Course.lane, h]

/-! ### Registers -/

theorem bit_set {w : Nat} (b : BitVec w) (i j : Nat) (hi : i < w) (x : Bool) :
    ((b &&& ~~~(1#w <<< i)) ||| ((if x then 1#w else 0#w) <<< i)).getLsbD j = if j = i then x else b.getLsbD j := by
  by_cases hj : j < w
  · by_cases e : j = i
    · subst e
      cases x <;> simp [hj]
    · have : ¬ j - i = 0 ∨ j < i := by omega
      rcases this with h | h
      · cases x <;> simp [hj, e, h]
      · cases x <;> simp [hj, e, h]
  · have e : ¬ j = i := by omega
    simp only [e, if_false]
    rw [BitVec.getLsbD_of_ge _ _ (by omega), BitVec.getLsbD_of_ge _ _ (by omega)]

theorem getV_setV_same (l : Lane) (i : Nat) (x : PWord) (h : i < 256) : (l.setV i x).getV i = x := by
  simp only [Lane.setV, Lane.getV, h, dite_true, bit_set _ _ _ h, if_true, Vector.getElem_set_self]

theorem getV_setV_other (l : Lane) (i j : Nat) (x : PWord) (h : j ≠ i) : (l.setV i x).getV j = l.getV j := by
  unfold Lane.setV Lane.getV
  split
  · split
    · rename_i hj hi
      simp only [bit_set _ _ _ hi, if_neg h, PWord.mk.injEq, and_true]
      exact Vector.getElem_set_ne _ _ (fun e => h e.symm)
    · rfl
  · rfl

theorem getS_setS_same (c : Course) (i : Nat) (x : PWord) (h : i < 64) : (c.setS i x).getS i = x := by
  simp only [Course.setS, Course.getS, h, dite_true, bit_set _ _ _ h, if_true, Vector.getElem_set_self]

theorem getS_setS_other (c : Course) (i j : Nat) (x : PWord) (h : j ≠ i) : (c.setS i x).getS j = c.getS j := by
  unfold Course.setS Course.getS
  split
  · split
    · rename_i hj hi
      simp only [bit_set _ _ _ hi, if_neg h, PWord.mk.injEq, and_true]
      exact Vector.getElem_set_ne _ _ (fun e => h e.symm)
    · rfl
  · rfl

theorem pred_setPred_same (l : Lane) (i : Nat) (x p : Bool) (h : i < 15) :
    (l.setPred i x p).pred i = x ∧ (l.setPred i x p).predP i = p := by
  have e : ¬ i = 15 := by omega
  have h16 : i < 16 := by omega
  simp only [Lane.setPred, Lane.pred, Lane.predP, h, e, bit_set _ _ _ h16, if_true, if_false, and_self]

theorem pred_setPred_other (l : Lane) (i j : Nat) (x p : Bool) (h : j ≠ i) :
    (l.setPred i x p).pred j = l.pred j ∧ (l.setPred i x p).predP j = l.predP j := by
  by_cases hi : i < 15
  · have h16 : i < 16 := by omega
    simp only [Lane.setPred, Lane.pred, Lane.predP, hi, bit_set _ _ _ h16, if_neg h, if_true, and_self]
  · simp only [Lane.setPred, hi, if_false, and_self]

theorem getReserve_setReserve_same (k : Core) (n i : Nat) (x : PWord) (hn : n < 32) (hi : i < 32) :
    (k.setReserve n i x).getReserve n i = x := by
  simp only [Core.setReserve, Core.getReserve, hn, hi, and_self, dite_true, Vector.getElem_set_self, bit_set _ _ _ hi,
    if_true]

theorem getReserve_setReserve_other (k : Core) (n i m j : Nat) (x : PWord) (h : m ≠ n ∨ j ≠ i) :
    (k.setReserve n i x).getReserve m j = k.getReserve m j := by
  by_cases hw : n < 32 ∧ i < 32
  · by_cases hr : m < 32 ∧ j < 32
    · simp only [Core.setReserve, Core.getReserve, hw, hr, and_self, dite_true]
      by_cases e : m = n
      · subst e
        have hj : j ≠ i := h.resolve_left (fun f => f rfl)
        simp only [Vector.getElem_set_self, bit_set _ _ _ hw.2, if_neg hj, PWord.mk.injEq, and_true]
        exact Vector.getElem_set_ne _ _ (fun f => hj f.symm)
      · have e' : n ≠ m := fun f => e f.symm
        simp only [Vector.getElem_set_ne _ _ e']
    · simp only [Core.getReserve, hr, dite_false]
  · simp only [Core.setReserve, hw, dite_false]

/-! ### Masks -/

theorem inMask_lt {m : LaneMask} {n : Nat} (h : inMask m n = true) : n < 32 := by
  by_contra hn
  simp [inMask, BitVec.getLsbD_of_ge m n (by omega)] at h

theorem mem_laneList (m : LaneMask) (n : Nat) : n ∈ laneList m ↔ inMask m n = true := by
  simp only [laneList, List.mem_filter, List.mem_range, and_iff_right_iff_imp]
  exact inMask_lt

end Sys2Proof.Machine
end

