-- ==== Sys2Proof/Laws/Frames.lean ====
section
/-!
SUPPORT. The frames OnlyEngines, OnlyHolds and OnlyControl: each holds of a state and itself, of two changes in a row, and
of the updates that make up the effects of instructions.
-/

namespace Sys2Proof.Machine

/-! ### Courses and lanes after an update -/

theorem group_updGroup (s : State) (g h : Nat) (f : Group → Group) :
    (s.updGroup g f).group h = if h = g then (s.group g).map f else s.group h := by
  by_cases e : h = g
  · rw [if_pos e, e, group_updGroup_same]
  · rw [if_neg e, group_updGroup_other _ _ _ _ e]

theorem course_updCourse (x : Group) (c d : Nat) (f : Course → Course) :
    (x.updCourse c f).course d = if d = c ∧ c < x.courses.length then f (x.course c) else x.course d := by
  by_cases e : d = c
  · subst e
    by_cases l : d < x.courses.length
    · rw [if_pos ⟨rfl, l⟩, course_updCourse_same _ _ _ l]
    · rw [if_neg (fun h => l h.2)]
      simp [Group.updCourse, Group.course, List.getD_eq_getElem?_getD, l]
  · rw [if_neg (fun h => e h.1), course_updCourse_other _ _ _ _ e]

/-- A course after an update of one course is that course, or its image. -/
theorem courseAt_updCourse (s : State) (g c h d : Nat) (f : Course → Course) :
    (s.updCourse g c f).courseAt h d = s.courseAt h d
      ∨ (h = g ∧ d = c ∧ (s.updCourse g c f).courseAt h d = f (s.courseAt h d)) := by
  unfold State.updCourse State.courseAt
  rw [group_updGroup]
  by_cases e : h = g
  · subst e
    cases hg : s.group h with
    | none => simp
    | some x =>
      simp only [if_true, Option.map_some, Option.getD_some, course_updCourse]
      by_cases k : d = c ∧ c < x.courses.length
      · rw [if_pos k, k.1]; simp
      · rw [if_neg k]; exact .inl rfl
  · rw [if_neg e]; exact .inl rfl

theorem updGroup_rest (s : State) (g : Nat) (f : Group → Group) : { s.updGroup g f with groups := s.groups } = s := by
  unfold State.updGroup; split <;> rfl

/-- A map of the groups that a function of the groups does not see is not changed by an update that it does not see. -/
theorem map_updGroup {α : Type} (s : State) (g h : Nat) (f : Group → Group) (q : Group → α) (hq : ∀ x, q (f x) = q x) :
    ((s.updGroup g f).group h).map q = (s.group h).map q := by
  rw [group_updGroup]
  by_cases e : h = g
  · subst e; rw [if_pos rfl, Option.map_map]; congr 1; funext x; exact hq x
  · rw [if_neg e]

theorem courseAt_updGroup (s : State) (g h c : Nat) (f : Group → Group) (hf : ∀ x, (f x).courses = x.courses) :
    (s.updGroup g f).courseAt h c = s.courseAt h c := by
  unfold State.courseAt
  rw [show ((s.updGroup g f).group h).map (·.course c) = (s.group h).map (·.course c) from
    map_updGroup s g h f (·.course c) (fun x => by simp [Group.course, hf x])]

/-! ### OnlyEngines -/

theorem OnlyEngines.refl (s : State) : OnlyEngines s s := ⟨fun _ => rfl, fun _ _ => rfl, fun _ => rfl, rfl⟩

theorem OnlyEngines.trans {s t u : State} (h : OnlyEngines s t) (k : OnlyEngines t u) : OnlyEngines s u := by
  refine ⟨fun g => (k.groups g).trans (h.groups g), fun g c => ?_, fun c => ?_, ?_⟩
  · have a := h.courses g c
    rw [← k.courses g c] at a
    exact a
  · have a := h.cores c
    rw [← k.cores c] at a
    exact a
  · have a := h.rest
    rw [← k.rest] at a
    exact a

theorem OnlyEngines.of_rest {s t : State} (hg : t.groups = s.groups) (hc : t.cores = s.cores)
    (h : { t with groups := s.groups, cores := s.cores, agenda := s.agenda, meters := s.meters, nextReq := s.nextReq,
                  free := s.free } = s) : OnlyEngines s t := by
  refine ⟨fun g => ?_, fun g c => ?_, fun c => ?_, h⟩
  · simp only [State.group, hg]
  · simp only [State.courseAt, State.group, hg]
  · simp only [State.core, hc]

theorem OnlyEngines.post (s : State) (i : Instr) : OnlyEngines s (s.post i) := .of_rest rfl rfl rfl

theorem OnlyEngines.newToken (s : State) : OnlyEngines s s.newToken.2 := .of_rest rfl rfl rfl

theorem OnlyEngines.takeFree (s : State) : OnlyEngines s s.takeFree.2 := .of_rest rfl rfl rfl

theorem OnlyEngines.setMeter (s : State) (o : Nat) (m : Meter) : OnlyEngines s (s.setMeter o m) := .of_rest rfl rfl rfl

theorem OnlyEngines.updCourse (s : State) (g c : Nat) (f : Course → Course)
    (hf : ∀ x : Course, { f x with flags := x.flags, inflight := x.inflight, engines := x.engines } = x) :
    OnlyEngines s (s.updCourse g c f) := by
  refine ⟨fun h => ?_, fun h d => ?_, fun k => ?_, ?_⟩
  · exact map_updGroup s g h _ _ (fun x => rfl)
  · obtain e | ⟨-, -, e⟩ := courseAt_updCourse s g c h d f
    · rw [e]
    · rw [e]; exact hf _
  · rw [core_updCourse]
  · have := updGroup_rest s g (fun x => x.updCourse c f)
    unfold State.updCourse State.updGroup; split <;> rfl

theorem OnlyEngines.updWindow (s : State) (g i : Nat) (f : Window → Window) : OnlyEngines s (s.updWindow g i f) := by
  refine ⟨fun h => ?_, fun h d => ?_, fun k => ?_, ?_⟩
  · exact map_updGroup s g h _ _ (fun x => rfl)
  · have e : (s.updWindow g i f).courseAt h d = s.courseAt h d := courseAt_updGroup s g h d _ (fun x => rfl)
    rw [e]
  · rw [State.updWindow, core_updGroup]
  · unfold State.updWindow State.updGroup; split <;> rfl

theorem OnlyEngines.setCore (s : State) (c : Nat) (k : Core)
    (hk : { k with valid := (s.core c).valid, matQ := (s.core c).matQ } = s.core c) : OnlyEngines s (s.setCore c k) := by
  refine ⟨fun _ => rfl, fun _ _ => rfl, fun d => ?_, rfl⟩
  by_cases e : d = c
  · subst e; rw [core_setCore_same]; exact hk
  · rw [core_setCore_other _ _ _ _ e]

theorem OnlyEngines.foldl {α : Type} (f : State → α → State) (hf : ∀ s a, OnlyEngines s (f s a)) (l : List α) (s : State) :
    OnlyEngines s (l.foldl f s) := by
  induction l generalizing s with
  | nil => exact .refl s
  | cons a l ih => exact (hf s a).trans (ih _)

/-! ### OnlyHolds -/

theorem OnlyHolds.refl (s : State) : OnlyHolds s s := ⟨fun _ => rfl, fun _ _ => rfl, fun _ _ _ => rfl, rfl⟩

theorem OnlyHolds.trans {s t u : State} (h : OnlyHolds s t) (k : OnlyHolds t u) : OnlyHolds s u := by
  refine ⟨fun g => (k.groups g).trans (h.groups g), fun g c => ?_, fun g c n => ?_, ?_⟩
  · have a := h.courses g c
    rw [← k.courses g c] at a
    exact a
  · have a := h.lanes g c n
    rw [← k.lanes g c n] at a
    exact a
  · have a := h.rest
    rw [← k.rest] at a
    exact a

theorem OnlyHolds.updBarrier (s : State) (g i : Nat) (f : Barrier → Barrier) : OnlyHolds s (s.updBarrier g i f) := by
  have e (h d : Nat) : (s.updBarrier g i f).courseAt h d = s.courseAt h d := courseAt_updGroup _ _ _ _ _ (fun x => rfl)
  refine ⟨fun h => map_updGroup s g h _ _ (fun x => rfl), fun h d => by rw [e], fun h d n => ?_, ?_⟩
  · simp only [State.lane, e]
  · exact updGroup_rest s g _

/-! ### OnlyControl -/

theorem OnlyControl.refl (s : State) : OnlyControl s s := ⟨fun _ => rfl, fun _ _ => rfl, fun _ _ _ => rfl, rfl⟩

theorem OnlyControl.trans {s t u : State} (h : OnlyControl s t) (k : OnlyControl t u) : OnlyControl s u := by
  refine ⟨fun g => (k.groups g).trans (h.groups g), fun g c => ?_, fun g c n => ?_, ?_⟩
  · have a := h.courses g c
    rw [← k.courses g c] at a
    exact a
  · have a := h.lanes g c n
    rw [← k.lanes g c n] at a
    exact a
  · have a := h.rest
    rw [← k.rest] at a
    exact a

theorem OnlyControl.deselect (s : State) : OnlyControl s s.deselect := ⟨fun _ => rfl, fun _ _ => rfl, fun _ _ _ => rfl, rfl⟩

theorem OnlyControl.updCourse (s : State) (g c : Nat) (f : Course → Course)
    (hf : ∀ x : Course, { f x with lanes := x.lanes, bc := x.bc } = x)
    (hl : ∀ (x : Course) n, { (f x).lane n with
      pc := (x.lane n).pc, depth := (x.lane n).depth, entries := (x.lane n).entries, hold := (x.lane n).hold } = x.lane n) :
    OnlyControl s (s.updCourse g c f) := by
  refine ⟨fun h => map_updGroup s g h _ _ (fun x => rfl), fun h d => ?_, fun h d n => ?_, ?_⟩
  · obtain e | ⟨-, -, e⟩ := courseAt_updCourse s g c h d f
    · rw [e]
    · rw [e]; exact hf _
  · obtain e | ⟨-, -, e⟩ := courseAt_updCourse s g c h d f
    · simp only [State.lane, e]
    · simp only [State.lane, e]; exact hl _ _
  · unfold State.updCourse State.updGroup; split <;> rfl

/-! ### A walk that nothing asked for (R384) -/

theorem cacheWalk_rest (s : State) (ctx va : Nat) : { cacheWalk s ctx va with parts := s.parts } = s := by
  unfold cacheWalk
  split
  · rfl
  · dsimp only
    split
    · unfold State.updPart; split <;> rfl
    · rfl

/-- A speculative walk caches a translation and draws a free value, and does nothing else. -/
theorem speculate_rest (s : State) : { speculate s with parts := s.parts, free := s.free } = s := by
  have h := cacheWalk_rest s.takeFree.2 (s.takeFree.1 % 2 ^ 16) (s.takeFree.1 / 2 ^ 16 % 2 ^ 64)
  exact congrArg (fun t : State => { t with free := s.free }) h

@[simp] theorem speculate_groups (s : State) : (speculate s).groups = s.groups :=
  (congrArg State.groups (speculate_rest s) :)
@[simp] theorem speculate_rr (s : State) : (speculate s).rr = s.rr := (congrArg State.rr (speculate_rest s) :)
@[simp] theorem speculate_candidates (s : State) : (speculate s).candidates = s.candidates := by
  unfold State.candidates; rw [speculate_groups]
@[simp] theorem speculate_fenced (s : State) : (speculate s).fenced = s.fenced := (congrArg State.fenced (speculate_rest s) :)
@[simp] theorem speculate_posts (s : State) : (speculate s).posts = s.posts := (congrArg State.posts (speculate_rest s) :)

/-! ### Releases that wait for link ports (R201, R432) -/

/-- With no fence waiting nothing is settled. -/
theorem settleFences_none {s : State} (h : s.fenced = []) : settleFences s = s := by simp [settleFences, h]

/-- While a link port holds a write, fences and posted packets wait. -/
theorem settleFences_busy {s : State} (h : portsBusy s = true) : settleFences s = s := by simp [settleFences, h]
theorem flushPosts_busy {s : State} (h : portsBusy s = true) : flushPosts s = s := by simp [flushPosts, h]

/-- With no packet on its way nothing enters a ring. -/
theorem flushPosts_none {s : State} (h : s.posts = []) : flushPosts s = s := by
  have e : { s with posts := [] } = s := by rw [← h]
  simp [flushPosts, h, e]

end Sys2Proof.Machine
end

