-- ==== Sys2Proof/Laws/Issue.lean ====
section
/-!
SUPPORT. The shared operations of an issue, each said once: lane masks, the lanes that report no cause, the whole of an
issue that traps in no lane, an instruction that computes register results, and the issue without a chosen slot.
-/

namespace Sys2Proof.Machine

/-! ### Lane masks -/

theorem maskSum_testBit (p : Nat → Bool) (k i : Nat) :
    ((List.range k).foldl (fun acc n => acc + (if p n then 2 ^ n else 0)) 0).testBit i = (decide (i < k) && p i)
      ∧ (List.range k).foldl (fun acc n => acc + (if p n then 2 ^ n else 0)) 0 < 2 ^ k := by
  induction k generalizing i with
  | zero => simp
  | succ k ih =>
    rw [List.range_succ, List.foldl_append, List.foldl_cons, List.foldl_nil]
    have hlt := (ih i).2
    generalize hS : (List.range k).foldl (fun acc n => acc + (if p n then 2 ^ n else 0)) 0 = S at *
    have h2 : 2 ^ (k + 1) = 2 ^ k + 2 ^ k := by rw [Nat.pow_succ]; omega
    cases hp : p k
    · simp only [Bool.false_eq_true, if_false, Nat.add_zero]
      refine ⟨?_, by omega⟩
      rw [(ih i).1]
      by_cases e : i = k
      · subst e; simp [hp]
      · have : (i < k + 1) ↔ (i < k) := by omega
        simp [this]
    · simp only [if_true]
      refine ⟨?_, by omega⟩
      by_cases e : i = k
      · subst e
        rw [Nat.add_comm, Nat.testBit_two_pow_add_eq]
        have : S.testBit i = false := Nat.testBit_lt_two_pow hlt
        simp [this, hp]
      · by_cases lt : i < k
        · rw [Nat.add_comm, Nat.testBit_two_pow_add_gt lt, (ih i).1]
          simp [lt, Nat.lt_succ_of_lt lt]
        · have hb : S + 2 ^ k < 2 ^ i :=
            Nat.lt_of_lt_of_le (by omega) (Nat.pow_le_pow_right (by decide) (by omega : k + 1 ≤ i))
          rw [Nat.testBit_lt_two_pow hb]
          have : ¬ i < k + 1 := by omega
          simp [this]

/-- A lane is in the mask of a predicate exactly when the predicate holds of it. -/
theorem inMask_maskOf (p : Nat → Bool) (n : Nat) : inMask (maskOf p) n = (decide (n < 32) && p n) := by
  unfold inMask maskOf
  rw [BitVec.getLsbD_ofNat, (maskSum_testBit p 32 n).1]
  cases decide (n < 32) <;> simp

theorem mask_ext {a b : LaneMask} (h : ∀ n, n < 32 → inMask a n = inMask b n) : a = b :=
  BitVec.eq_of_getLsbD_eq (fun i hi => h i hi)

theorem maskOf_inMask (m : LaneMask) : maskOf (inMask m) = m :=
  mask_ext (fun n hn => by simp [inMask_maskOf, hn])

theorem maskOf_mem_laneList (m : LaneMask) : maskOf (fun n => (laneList m).contains n) = m :=
  mask_ext (fun n hn => by
    rw [inMask_maskOf]
    simp only [hn, decide_true, Bool.true_and, List.contains_eq_mem, mem_laneList, Bool.decide_eq_true])

/-! ### Lanes that report no cause -/

theorem clear_eq (x : View) (sh : Shape) (m : LaneMask)
    (h : ∀ n, inMask m n = true → x.laneCause sh n = none) : x.clear sh m = m := by
  refine mask_ext (fun n hn => ?_)
  rw [View.clear, inMask_maskOf]
  cases hm : inMask m n with
  | false => simp
  | true => simp [hn, h n hm]

theorem and_not_self (m : LaneMask) : m &&& ~~~m = 0 := by
  ext i
  simp

theorem and_not_zero (m : LaneMask) : m &&& ~~~(0 : LaneMask) = m := by
  have : (~~~(0 : LaneMask)) = BitVec.allOnes 32 := rfl
  rw [this, BitVec.and_allOnes]

theorem laneList_zero : laneList 0 = [] := by decide

/-- No lane of Active reports a cause of a shape without causes of its own: the features are there and every register
is within reach (R95, R322). -/
theorem laneCause_plain (x : View) (k : Ctl) (fs rs : List Nat) (hf : x.has fs) (hr : x.reach k rs) (n : Nat)
    (hn : inMask (x.active k) n = true) : x.laneCause (Shape.plain fs rs) n = none := by
  have h1 : x.lacking fs = none := by
    simp only [View.lacking, List.find?_eq_none]
    intro b hb
    simp [hf b hb]
  have h2 : rs.all (x.vOk n) = true := by
    rw [List.all_eq_true]
    exact fun r h => hr n hn r h
  simp [View.laneCause, Shape.plain, h1, h2, lowestCause]

/-! ### The whole of an issue -/

theorem issue_view {s : State} {x : View} (h : s.view = some x) (body : View → State) : s.issue body = .next (body x) := by
  simp [State.issue, h]

theorem raiseTraps_nil (s : State) (x : Sel) : raiseTraps s x [] = s := by
  simp [raiseTraps, takeTraps, bumpIf]

theorem traps_zero (x : View) (sh : Shape) : x.traps sh 0 = [] := by
  rw [View.traps, laneList_zero]
  rfl

/-- An issue in which no lane of Active reports a cause: its effect in all of Active, its LFSR steps, and every lane of
the issue group at the successor (R126, R364). -/
theorem finishEffect_clear (s : State) (x : View) (k : Ctl) (sh : Shape) (eff : LaneMask → State → State)
    (h : ∀ n, inMask (x.active k) n = true → x.laneCause sh n = none) :
    finishEffect s x k sh eff = afterIssue x
      (if sh.stoch then stepSeeds (eff (x.active k) s) x.sel (x.active k) else eff (x.active k) s) := by
  simp only [finishEffect, clear_eq x sh _ h, and_not_self, and_not_zero, traps_zero, raiseTraps_nil, afterIssue]

/-- An instruction that computes register results at once, in an issue that traps in no lane. -/
theorem compute_short {s : State} {x : View} (hv : s.view = some x) (k : Ctl) (sh : View → Shape)
    (body : View → LaneMask → List RegWrite) (hs : (sh x).stoch = false)
    (h : ∀ n, inMask (x.active k) n = true → x.laneCause (sh x) n = none) :
    compute k false sh body s = .next (afterIssue x (putRegs x s (body x (x.active k)))) := by
  simp only [compute, issue_view hv, finishCompute, finishEffect_clear s x k _ _ h, hs, deliver, putRegs,
    Bool.false_eq_true, if_false]

/-- An instruction whose register results come with a long-latency operation, in an issue that traps in no lane. -/
theorem compute_long {s : State} {x : View} (hv : s.view = some x) (k : Ctl) (sh : View → Shape)
    (body : View → LaneMask → List RegWrite) (hs : (sh x).stoch = false)
    (h : ∀ n, inMask (x.active k) n = true → x.laneCause (sh x) n = none) :
    compute k true sh body s = .next (started s x k (body x (x.active k)) (sh x).slots) := by
  simp only [compute, issue_view hv, finishCompute, finishEffect_clear s x k _ _ h, hs, deliver, started,
    Bool.false_eq_true, if_false, if_true]
  by_cases z : x.active k = 0#32 <;> simp [z]

/-- What an RRR instruction of the integer chapter does in an issue that reaches its registers (R135 to R138). -/
theorem intRRR_reach (k : Ctl) (f : RRR) (s : State) (x : View) (hv : s.view = some x) (arity : Nat) (old : Bool)
    (val : Nat → List Word → Word)
    (hr : x.reach k ((dstOf f.dcls f.d).vregs ++ (rrrSrcs f arity).flatMap (·.vregs))) :
    intRRR k f arity old val s = .next (written s x k (dstOf f.dcls f.d) (fun n => x.value (widthOf f.es)
      (rrrSrcs f arity ++ (if old then [(dstOf f.dcls f.d).asOpd] else [])) (val n) n)) := by
  unfold intRRR
  simp only
  rw [compute_short hv k _ _ rfl (laneCause_plain x k _ _ (by intro b hb; simp at hb) hr)]
  rfl

/-- What an RRI instruction does in an issue that reaches its registers (R139). -/
theorem intRRI_reach (k : Ctl) (f : RRI) (s : State) (x : View) (hv : s.view = some x) (val : Word → Word → Word)
    (hr : x.reach k ((dstOf f.dcls f.d).vregs ++ (opdOf f.acls f.a).vregs)) :
    intRRI k f val s = .next (written s x k (dstOf f.dcls f.d) (x.value (rriWidth f) [opdOf f.acls f.a]
      (fun ws => val (ws.getD 0 0) (splat32 (tySigned f.ty) (rriWidth f) f.imm)))) := by
  unfold intRRI
  simp only
  rw [compute_short hv k _ _ rfl (laneCause_plain x k _ _ (by intro b hb; simp at hb) hr)]
  rfl

/-! ### Lane by lane -/

theorem laneList_only {x : View} {k : Ctl} {n : Nat} (h : x.only k n) : inMask (x.active k) n = true := by
  rw [← mem_laneList, h]
  simp

theorem maskOf_only {x : View} {k : Ctl} {n : Nat} (h : x.only k n) : maskOf (fun m => [n].contains m) = x.active k := by
  rw [← maskOf_mem_laneList (x.active k), h]

theorem mask_split (m a : LaneMask) (h : ∀ n, inMask a n = true → inMask m n = true) : m &&& ~~~a ||| a = m := by
  refine mask_ext (fun n hn => ?_)
  have := h n
  simp only [inMask] at *
  simp only [BitVec.getLsbD_or, BitVec.getLsbD_and, BitVec.getLsbD_not, hn, decide_true, Bool.true_and]
  cases ha : a.getLsbD n <;> cases hm : m.getLsbD n <;> simp_all

theorem active_sub (x : View) (k : Ctl) (n : Nat) (h : inMask (x.active k) n = true) : inMask x.sel.mask n = true := by
  rw [View.active, inMask_maskOf] at h
  simp only [Bool.and_eq_true] at h
  exact h.2.1

/-- An issue that acts lane by lane, with one lane in Active, which reports no cause and completes. -/
theorem finishLanes_only {s t : State} {x : View} {k : Ctl} {n : Nat} (long : Bool) (sh : Shape)
    (body : State → Nat → LaneOut × State) (ws : List RegWrite) (ho : x.only k n) (hs : sh.stoch = false)
    (hc : x.laneCause sh n = none) (hb : body s n = (.done ws, t)) :
    finishLanes s x k long sh body
      = afterIssue x (deliver t x k long (x.active k) (x.active k) ws sh.slots) := by
  have hcl : x.clear sh (x.active k) = x.active k := clear_eq x sh _ (fun m hm => by
    have : m ∈ laneList (x.active k) := (mem_laneList _ _).2 hm
    rw [ho] at this
    simp only [List.mem_singleton] at this
    exact this ▸ hc)
  have hl : laneList (x.active k) = [n] := ho
  simp only [finishLanes, hcl, hl, runLanes, hb, Gathered.add, Gathered.empty, List.nil_append, maskOf_only ho, hs,
    and_not_self, traps_zero, holdLanes, settleLanes, abortLanes, takeTraps, bumpIf, List.foldl_nil, Bool.or_false,
    Bool.false_eq_true, if_false, List.append_nil, afterIssue]
  rw [mask_split _ _ (fun m hm => active_sub x k m hm)]

end Sys2Proof.Machine
end

