-- ==== Sys2Proof/Laws/Memory.lean ====
section
/-!
SUPPORT. Byte memories: a read after a write, and that every memory operation keeps the canonical form (Memory.wf).
-/

namespace Sys2Proof.Machine

/-! ### Rising lists -/

theorem risingB_iff (l : List Nat) : risingB l = true ↔ l.Pairwise (· < ·) := by
  induction l with
  | nil => simp [risingB]
  | cons a l ih =>
    cases l with
    | nil => simp [risingB]
    | cons b l =>
      simp only [risingB, Bool.and_eq_true, decide_eq_true_eq, ih]
      constructor
      · rintro ⟨h, p⟩
        refine List.pairwise_cons.2 ⟨fun x hx => ?_, p⟩
        rcases List.mem_cons.1 hx with rfl | hx
        · exact h
        · exact Nat.lt_trans h ((List.pairwise_cons.1 p).1 x hx)
      · intro p
        exact ⟨(List.pairwise_cons.1 p).1 b (by simp), (List.pairwise_cons.1 p).2⟩

theorem mem_setInsert (x : Nat) (l : List Nat) (y : Nat) : y ∈ setInsert x l → y = x ∨ y ∈ l := by
  induction l with
  | nil => simp [setInsert]
  | cons a l ih =>
    simp only [setInsert]
    split
    · simp
    · split
      · intro h; exact .inr h
      · intro h
        rcases List.mem_cons.1 h with rfl | h
        · exact .inr (by simp)
        · exact (ih h).imp_right (List.mem_cons_of_mem _)

theorem setInsert_rising (x : Nat) (l : List Nat) (h : l.Pairwise (· < ·)) : (setInsert x l).Pairwise (· < ·) := by
  induction l with
  | nil => simp [setInsert]
  | cons a l ih =>
    have hc := List.pairwise_cons.1 h
    simp only [setInsert]
    split
    · rename_i lt
      refine List.pairwise_cons.2 ⟨fun y hy => ?_, h⟩
      rcases List.mem_cons.1 hy with rfl | hy
      · exact lt
      · exact Nat.lt_trans lt (hc.1 y hy)
    · split
      · exact h
      · refine List.pairwise_cons.2 ⟨fun y hy => ?_, ih hc.2⟩
        rcases mem_setInsert _ _ _ hy with rfl | hy
        · omega
        · exact hc.1 y hy

/-! ### Cells -/

/-- The canonical form of a list of cells: addresses strictly rising, no zero byte. -/
def CellsOk (l : List Host.Cell) : Prop := (l.map (·.1)).Pairwise (· < ·) ∧ ∀ c ∈ l, c.2 ≠ 0

theorem wf_iff (m : Memory) : m.wf = true ↔ CellsOk m.cells ∧ m.poisoned.Pairwise (· < ·) := by
  simp [Memory.wf, CellsOk, risingB_iff, and_assoc]

theorem CellsOk.tail {c : Host.Cell} {l : List Host.Cell} (h : CellsOk (c :: l)) : CellsOk l :=
  ⟨(List.pairwise_cons.1 (by simpa using h.1)).2, fun d hd => h.2 d (List.mem_cons_of_mem _ hd)⟩

theorem CellsOk.cons {c : Host.Cell} {l : List Host.Cell} (h : CellsOk l) (hz : c.2 ≠ 0) (hl : ∀ d ∈ l, c.1 < d.1) :
    CellsOk (c :: l) := by
  refine ⟨?_, fun d hd => ?_⟩
  · simp only [List.map_cons, List.pairwise_cons, List.mem_map]
    exact ⟨fun x ⟨d, hd, e⟩ => e ▸ hl d hd, h.1⟩
  · rcases List.mem_cons.1 hd with rfl | hd
    · exact hz
    · exact h.2 d hd

theorem CellsOk.head_lt {c : Host.Cell} {l : List Host.Cell} (h : CellsOk (c :: l)) : ∀ d ∈ l, c.1 < d.1 := by
  intro d hd
  have := (List.pairwise_cons.1 (by simpa using h.1 : (c.1 :: l.map (·.1)).Pairwise (· < ·))).1
  exact this d.1 (List.mem_map.2 ⟨d, hd, rfl⟩)

theorem CellsOk.filter {l : List Host.Cell} (h : CellsOk l) (p : Host.Cell → Bool) : CellsOk (l.filter p) :=
  ⟨List.Pairwise.sublist ((List.filter_sublist).map _) h.1, fun c hc => h.2 c (List.mem_filter.1 hc).1⟩

theorem mem_cellSet (l : List Host.Cell) (a : Nat) (b : Byte) (d : Host.Cell) (h : d ∈ cellSet l a b) :
    d = (a, b) ∨ d ∈ l := by
  induction l with
  | nil =>
    simp only [cellSet] at h
    split at h <;> simp_all
  | cons c l ih =>
    obtain ⟨a', b'⟩ := c
    simp only [cellSet] at h
    split at h
    · split at h
      · exact .inr h
      · exact List.mem_cons.1 h
    · split at h
      · split at h
        · exact .inr (List.mem_cons_of_mem _ h)
        · rcases List.mem_cons.1 h with rfl | h
          · exact .inl rfl
          · exact .inr (List.mem_cons_of_mem _ h)
      · rcases List.mem_cons.1 h with rfl | h
        · exact .inr (by simp)
        · exact (ih h).imp_right (List.mem_cons_of_mem _)

theorem cellSet_ok (l : List Host.Cell) (a : Nat) (b : Byte) (h : CellsOk l) : CellsOk (cellSet l a b) := by
  induction l with
  | nil =>
    simp only [cellSet]
    split
    · exact h
    · exact CellsOk.cons h ‹_› (by simp)
  | cons c l ih =>
    obtain ⟨a', b'⟩ := c
    have hl := h.head_lt
    simp only [cellSet]
    split
    · split
      · exact h
      · refine CellsOk.cons h ‹_› (fun d hd => ?_)
        rcases List.mem_cons.1 hd with rfl | hd
        · assumption
        · exact Nat.lt_trans ‹_› (hl d hd)
    · split
      · split
        · exact h.tail
        · refine CellsOk.cons h.tail ‹_› (fun d hd => ?_)
          have := hl d hd
          simp_all
      · refine CellsOk.cons (ih h.tail) (h.2 _ (by simp)) (fun d hd => ?_)
        rcases mem_cellSet _ _ _ _ hd with rfl | hd
        · simp only
          omega
        · exact hl d hd

theorem cellGet_below (l : List Host.Cell) (a : Nat) (h : ∀ d ∈ l, a < d.1) : cellGet l a = 0 := by
  cases l with
  | nil => rfl
  | cons c l =>
    obtain ⟨a', b'⟩ := c
    have := h (a', b') (by simp)
    simp only at this
    simp only [cellGet]
    split
    · omega
    · rfl

theorem cellGet_cellSet (l : List Host.Cell) (a : Nat) (b : Byte) (x : Nat) (h : CellsOk l) :
    cellGet (cellSet l a b) x = if x = a then b else cellGet l x := by
  induction l with
  | nil =>
    simp only [cellSet]
    split
    · subst_vars; simp [cellGet]
    · simp only [cellGet]
      split <;> rename_i e
      · simp [e.symm]
      · have : ¬ x = a := fun f => e f.symm
        simp [this]
  | cons c l ih =>
    obtain ⟨a', b'⟩ := c
    have hl := h.head_lt
    simp only [cellSet]
    split
    · rename_i lt
      have hz : cellGet ((a', b') :: l) a = 0 := cellGet_below _ _ (fun d hd => by
        rcases List.mem_cons.1 hd with rfl | hd
        · exact lt
        · exact Nat.lt_trans lt (hl d hd))
      split
      · split
        · subst_vars; exact hz
        · rfl
      · rw [cellGet]
        split
        · subst_vars; simp
        · have : ¬ x = a := fun f => ‹¬ a = x› f.symm
          simp only [this, if_false]
          split
          · rename_i hx
            exact (cellGet_below _ _ (fun d hd => by
              rcases List.mem_cons.1 hd with rfl | hd
              · exact Nat.lt_trans hx lt
              · exact Nat.lt_trans hx (Nat.lt_trans lt (hl d hd)))).symm
          · rfl
    · split
      · rename_i e
        subst e
        split
        · subst_vars
          split
          · subst_vars; exact cellGet_below _ _ hl
          · simp only [cellGet]
            split
            · exact absurd (by assumption : a = x).symm ‹_›
            · split
              · exact cellGet_below _ _ (fun d hd => Nat.lt_trans ‹_› (hl d hd))
              · rfl
        · simp only [cellGet]
          split
          · subst_vars; simp
          · have : ¬ x = a := fun f => ‹¬ a = x› f.symm
            simp [this]
      · simp only [cellGet]
        split
        · subst_vars
          have : ¬ a' = a := fun f => by omega
          simp [this]
        · split
          · have : ¬ x = a := by omega
            simp [this]
          · exact ih h.tail

/-! ### Bytes of a memory -/

/-- A byte read after a write. -/
theorem byte_setByte (m : Memory) (a x : Nat) (b : Byte) (h : m.wf = true) :
    (m.setByte a b).byte x = if x = a then b else m.byte x :=
  cellGet_cellSet _ _ _ _ ((wf_iff m).1 h).1

theorem wf_empty : Memory.empty.wf = true := by decide

theorem wf_setByte (m : Memory) (a : Nat) (b : Byte) (h : m.wf = true) : (m.setByte a b).wf = true := by
  rw [wf_iff] at *
  exact ⟨cellSet_ok _ _ _ h.1, h.2⟩

theorem wf_write (m : Memory) (a n v : Nat) (h : m.wf = true) : (m.write a n v).wf = true := by
  induction n generalizing m a v with
  | zero => exact h
  | succ n ih => exact ih _ _ _ (wf_setByte _ _ _ h)

theorem wf_writeBytes (m : Memory) (a : Nat) (l : List Byte) (h : m.wf = true) : (m.writeBytes a l).wf = true := by
  induction l generalizing m a with
  | nil => exact h
  | cons b l ih => exact ih _ _ (wf_setByte _ _ _ h)

theorem wf_setPoison (m : Memory) (k : Nat) (p : Bool) (h : m.wf = true) : (m.setPoison k p).wf = true := by
  rw [wf_iff] at *
  refine ⟨h.1, ?_⟩
  unfold Memory.setPoison
  split
  · exact setInsert_rising _ _ h.2
  · exact h.2.filter _

theorem wf_writeMasked (m : Memory) (a n d k : Nat) (h : m.wf = true) : (writeMasked m a n d k).wf = true := by
  induction n generalizing m a d k with
  | zero => exact h
  | succ n ih =>
    refine ih _ _ _ _ ?_
    split
    · exact h
    · exact wf_setByte _ _ _ h

/-- A masked sector write keeps the canonical form (R191). -/
theorem wf_apply (m : Memory) (w : SecWrite) (h : m.wf = true) : (m.apply w).wf = true := by
  have hw := wf_writeMasked m (32 * w.sector) 32 w.data.toNat w.mask.toNat h
  unfold Memory.apply
  split
  · exact wf_setPoison _ _ _ hw
  · split
    · exact wf_setPoison _ _ _ hw
    · exact hw

theorem wf_clear (m : Memory) (a n : Nat) (h : m.wf = true) : (m.clear a n).wf = true := by
  rw [wf_iff] at *
  exact ⟨h.1.filter _, h.2.filter _⟩

theorem wf_zeroChannels (m : Memory) (cs : List Nat) (h : m.wf = true) : (zeroChannels m cs).wf = true := by
  rw [wf_iff] at *
  exact ⟨h.1.filter _, h.2.filter _⟩

theorem foldl_cellSet_ok (cs l : List Host.Cell) (h : CellsOk l) : CellsOk (cs.foldl (fun l c => cellSet l c.1 c.2) l) := by
  induction cs generalizing l with
  | nil => exact h
  | cons c cs ih => exact ih _ (cellSet_ok _ _ _ h)

theorem foldl_setInsert_rising (ks l : List Nat) (h : l.Pairwise (· < ·)) :
    (ks.foldl (fun l k => setInsert k l) l).Pairwise (· < ·) := by
  induction ks generalizing l with
  | nil => exact h
  | cons k ks ih => exact ih _ (setInsert_rising _ _ h)

theorem moveCells_ok (src dst : List Host.Cell) (a b n : Nat) (takes : Nat → Bool) (h : CellsOk dst) :
    CellsOk (moveCells src dst a b n takes) := foldl_cellSet_ok _ _ (h.filter _)

theorem movePoison_rising (src dst : List Nat) (a b n : Nat) (takes : Nat → Bool) (h : dst.Pairwise (· < ·)) :
    (movePoison src dst a b n takes).Pairwise (· < ·) := foldl_setInsert_rising _ _ (h.filter _)

/-! ### The machine's memories -/

theorem mem_alSet {α : Type} (l : List (Nat × α)) (k : Nat) (v : α) (e : Nat × α) (h : e ∈ alSet l k v) :
    e = (k, v) ∨ e ∈ l := by
  induction l with
  | nil => simp_all [alSet]
  | cons c l ih =>
    obtain ⟨k', v'⟩ := c
    simp only [alSet] at h
    split at h
    · exact List.mem_cons.1 h
    · split at h
      · rcases List.mem_cons.1 h with rfl | h
        · exact .inl rfl
        · exact .inr (List.mem_cons_of_mem _ h)
      · rcases List.mem_cons.1 h with rfl | h
        · exact .inr (by simp)
        · exact (ih h).imp_right (List.mem_cons_of_mem _)

theorem mem_of_alGet {α : Type} (l : List (Nat × α)) (k : Nat) (v : α) (h : alGet l k = some v) : (k, v) ∈ l := by
  induction l with
  | nil => simp [alGet] at h
  | cons c l ih =>
    obtain ⟨k', v'⟩ := c
    simp only [alGet] at h
    split at h
    · simp_all
    · exact List.mem_cons_of_mem _ (ih h)

theorem MemoryOk.core {s : State} (h : s.MemoryOk) (c : Nat) : (s.core c).scratch.wf = true := by
  unfold State.core
  cases e : alGet s.cores c with
  | none => exact wf_empty
  | some k => exact h.scratch _ (mem_of_alGet _ _ _ e)

/-- A memory keeps its canonical form under the writes of a port. -/
theorem wf_under {m : Memory} (h : m.wf = true) (ws : List SecWrite) : (m.under ws).wf = true := by
  unfold Memory.under
  induction ws generalizing m with
  | nil => exact h
  | cons w ws ih => exact ih (wf_apply _ _ h)

theorem MemoryOk.far {s : State} (h : s.MemoryOk) (t : Tgt) : (s.far t).wf = true := by
  cases t with
  | hbm => exact h.hbm
  | host => exact h.host
  | scratch c => exact MemoryOk.core h c
  | peer p =>
    show ((alGet s.peers p).getD Memory.empty).wf = true
    cases e : alGet s.peers p with
    | none => exact wf_empty
    | some m => exact h.peers _ (mem_of_alGet _ _ _ e)

theorem MemoryOk.mem {s : State} (h : s.MemoryOk) (t : Tgt) : (s.mem t).wf = true := by
  cases t with
  | hbm => exact h.hbm
  | host => exact wf_under h.host _
  | scratch c => exact MemoryOk.core h c
  | peer p => exact wf_under (MemoryOk.far h (.peer p)) _

theorem MemoryOk.setCore {s : State} (h : s.MemoryOk) (c : Nat) (k : Core) (hk : k.scratch.wf = true) :
    (s.setCore c k).MemoryOk :=
  { h with scratch := fun e he => (mem_alSet _ _ _ _ he).elim (fun x => x ▸ hk) (h.scratch e) }

theorem MemoryOk.setGroup {s : State} (h : s.MemoryOk) (g : Nat) (x : Group) (hx : x.savedScratch.wf = true) :
    (s.setGroup g x).MemoryOk :=
  { h with saved := fun e he => (mem_alSet _ _ _ _ he).elim (fun y => y ▸ hx) (h.saved e) }

theorem MemoryOk.setMem {s : State} (h : s.MemoryOk) (t : Tgt) (m : Memory) (hm : m.wf = true) : (s.setMem t m).MemoryOk := by
  cases t with
  | hbm => exact { h with hbm := hm }
  | host => exact { h with host := hm }
  | scratch c => exact MemoryOk.setCore h c _ hm
  | peer p => exact { h with peers := fun e he => (mem_alSet _ _ _ _ he).elim (fun x => x ▸ hm) (h.peers e) }

/-- A step that changes none of the fields that hold a memory keeps every canonical form. -/
theorem MemoryOk.of_eq {s t : State} (h : s.MemoryOk) (h1 : t.hbm = s.hbm) (h2 : t.host = s.host) (h3 : t.peers = s.peers)
    (h4 : t.cores = s.cores) (h5 : t.groups = s.groups) : t.MemoryOk :=
  ⟨h1 ▸ h.hbm, h2 ▸ h.host, h3 ▸ h.peers, h4 ▸ h.scratch, h5 ▸ h.saved⟩

theorem MemoryOk.noteWaits {s : State} (h : s.MemoryOk) (w : SecWrite) : (s.noteWaits w).MemoryOk := by
  unfold State.noteWaits
  split
  · exact MemoryOk.of_eq h rfl rfl rfl rfl rfl
  · exact h

theorem MemoryOk.linkEvent {s : State} (h : s.MemoryOk) (k : Nat) (lost : Bool) : (linkEvent s k lost).MemoryOk := by
  unfold Machine.linkEvent
  split
  · exact h
  · split
    · exact h
    · exact MemoryOk.of_eq h (by simp) (by simp) (by simp) (by simp) (by simp)

theorem MemoryOk.addLost {s : State} (h : s.MemoryOk) (k n : Nat) : (addLost s k n).MemoryOk := by
  unfold Machine.addLost
  simp only
  split
  · exact h
  · exact MemoryOk.linkEvent (MemoryOk.of_eq h (by simp) (by simp) (by simp) (by simp) (by simp)) _ _

theorem MemoryOk.updPort {s : State} (h : s.MemoryOk) (k : Nat) (f : Port → Port) : (s.updPort k f).MemoryOk :=
  MemoryOk.of_eq h (by simp) (by simp) (by simp) (by simp) (by simp)

theorem MemoryOk.linkBytes {s : State} (h : s.MemoryOk) (n : Nat) : (linkBytes s n).MemoryOk := by
  unfold Machine.linkBytes State.chargePayer
  split
  · exact MemoryOk.of_eq h rfl rfl rfl rfl rfl
  · exact h

theorem MemoryOk.l2Access {s : State} (h : s.MemoryOk) (k : Nat) (use : L2Use) : (s.l2Access k use).MemoryOk :=
  MemoryOk.of_eq h rfl rfl rfl rfl rfl

/-- A write that the far side of a port takes keeps every memory in its canonical form. -/
theorem MemoryOk.deliverWrite {s : State} (h : s.MemoryOk) (w : SecWrite) : (deliverWrite s w).MemoryOk := by
  unfold Machine.deliverWrite
  split
  · split
    · exact MemoryOk.addLost h _ _
    · exact h
  · exact MemoryOk.setMem h _ _ (wf_apply _ _ (MemoryOk.far h _))

/-- A flit that is acknowledged keeps every memory in its canonical form. -/
theorem MemoryOk.deliverFlit {s : State} (h : s.MemoryOk) (f : Flit) : (deliverFlit s f).MemoryOk := by
  unfold Machine.deliverFlit
  generalize f.writes = ws
  induction ws generalizing s with
  | nil => exact h
  | cons w ws ih =>
    refine ih ?_
    dsimp only
    split
    · exact MemoryOk.deliverWrite h w
    · exact MemoryOk.setMem h _ _ (wf_apply _ _ (MemoryOk.far h _))

/-- Every write at its home, posted or not, keeps every memory in its canonical form (R191, R466). -/
theorem MemoryOk.sendWrite {s : State} (h : s.MemoryOk) (posted : Bool) (w : SecWrite) : (s.sendWrite posted w).MemoryOk := by
  have hm : (s.setMem w.tgt ((s.mem w.tgt).apply w)).MemoryOk := MemoryOk.setMem h _ _ (wf_apply _ _ (MemoryOk.mem h _))
  unfold State.sendWrite
  split
  · split
    · split
      · exact MemoryOk.addLost h _ _
      · exact h
    · exact MemoryOk.updPort (MemoryOk.linkBytes h _) _ _
  · split
    · split
      · exact MemoryOk.addLost h _ _
      · exact h
    · dsimp only
      split
      · exact MemoryOk.updPort (MemoryOk.linkBytes h _) _ _
      · exact MemoryOk.deliverFlit (MemoryOk.linkBytes h _) _
  · exact MemoryOk.l2Access (MemoryOk.noteWaits hm w) _ _
  · exact hm

theorem MemoryOk.applyWrite {s : State} (h : s.MemoryOk) (w : SecWrite) : (s.applyWrite w).MemoryOk :=
  MemoryOk.sendWrite h true w

theorem MemoryOk.applyWrites {s : State} (h : s.MemoryOk) (ws : List SecWrite) : (s.applyWrites ws).MemoryOk := by
  unfold State.applyWrites
  induction ws generalizing s with
  | nil => exact h
  | cons w ws ih => exact ih (MemoryOk.applyWrite h w)

theorem MemoryOk.store {s : State} (h : s.MemoryOk) (t : Tgt) (a n v : Nat) (p : Bool) : (s.store t a n v p).MemoryOk :=
  MemoryOk.applyWrites h _

end Sys2Proof.Machine
end

