-- ==== Sys2Proof/Laws/PerInstr.lean ====
section
/-!
SUPPORT. The round trip of the encoding, instruction by instruction: a well-formed instruction that has a word is what
the decoder reads from that word (R70, R77 to R86).
-/

namespace Sys2Proof.Laws

/-! ### Fields of appended words -/

theorem extract_above {a b n : Nat} (x : BitVec a) (y : BitVec b) (i : Nat) :
    (x ++ y).extractLsb' (b + i) n = x.extractLsb' i n := by
  ext j hj
  simp [BitVec.getElem_extractLsb', BitVec.getLsbD_append, Nat.add_assoc]

theorem extract_below {a b n : Nat} (x : BitVec a) (y : BitVec b) (i : Nat) (h : i + n ≤ b) :
    (x ++ y).extractLsb' i n = y.extractLsb' i n := by
  ext j hj
  have : i + j < b := by omega
  simp [BitVec.getElem_extractLsb', BitVec.getLsbD_append, this]

theorem extract_all {n : Nat} (x : BitVec n) : x.extractLsb' 0 n = x := by ext j hj; simp

/-! ### Payloads -/

theorem rdRRR_wrRRR (f : RRR) : rdRRR (wrRRR f) = f := by
  obtain ⟨d, a, b, c, acls, bcls, ccls, dcls, ty, tyb, rm, sat, es, xl, xp, mod⟩ := f
  simp only [rdRRR, wrRRR, RRR.mk.injEq]
  exact ⟨(extract_above (a := 60) _ mod 52).trans ((extract_above (a := 56) _ xp 48).trans ((extract_above (a := 54) _ xl 46).trans ((extract_above (a := 52) _ es 44).trans ((extract_above (a := 51) _ sat 43).trans ((extract_above (a := 48) _ rm 40).trans ((extract_above (a := 44) _ tyb 36).trans ((extract_above (a := 40) _ ty 32).trans ((extract_above (a := 38) _ dcls 30).trans ((extract_above (a := 36) _ ccls 28).trans ((extract_above (a := 34) _ bcls 26).trans ((extract_above (a := 32) _ acls 24).trans ((extract_above (a := 24) _ c 16).trans ((extract_above (a := 16) _ b 8).trans ((extract_above (a := 8) _ a 0).trans (extract_all _))))))))))))))),
    (extract_above (a := 60) _ mod 44).trans ((extract_above (a := 56) _ xp 40).trans ((extract_above (a := 54) _ xl 38).trans ((extract_above (a := 52) _ es 36).trans ((extract_above (a := 51) _ sat 35).trans ((extract_above (a := 48) _ rm 32).trans ((extract_above (a := 44) _ tyb 28).trans ((extract_above (a := 40) _ ty 24).trans ((extract_above (a := 38) _ dcls 22).trans ((extract_above (a := 36) _ ccls 20).trans ((extract_above (a := 34) _ bcls 18).trans ((extract_above (a := 32) _ acls 16).trans ((extract_above (a := 24) _ c 8).trans ((extract_above (a := 16) _ b 0).trans ((extract_below (a := 8) _ a 0 (by decide)).trans (extract_all _))))))))))))))),
    (extract_above (a := 60) _ mod 36).trans ((extract_above (a := 56) _ xp 32).trans ((extract_above (a := 54) _ xl 30).trans ((extract_above (a := 52) _ es 28).trans ((extract_above (a := 51) _ sat 27).trans ((extract_above (a := 48) _ rm 24).trans ((extract_above (a := 44) _ tyb 20).trans ((extract_above (a := 40) _ ty 16).trans ((extract_above (a := 38) _ dcls 14).trans ((extract_above (a := 36) _ ccls 12).trans ((extract_above (a := 34) _ bcls 10).trans ((extract_above (a := 32) _ acls 8).trans ((extract_above (a := 24) _ c 0).trans ((extract_below (a := 16) _ b 0 (by decide)).trans (extract_all _)))))))))))))),
    (extract_above (a := 60) _ mod 28).trans ((extract_above (a := 56) _ xp 24).trans ((extract_above (a := 54) _ xl 22).trans ((extract_above (a := 52) _ es 20).trans ((extract_above (a := 51) _ sat 19).trans ((extract_above (a := 48) _ rm 16).trans ((extract_above (a := 44) _ tyb 12).trans ((extract_above (a := 40) _ ty 8).trans ((extract_above (a := 38) _ dcls 6).trans ((extract_above (a := 36) _ ccls 4).trans ((extract_above (a := 34) _ bcls 2).trans ((extract_above (a := 32) _ acls 0).trans ((extract_below (a := 24) _ c 0 (by decide)).trans (extract_all _))))))))))))),
    (extract_above (a := 60) _ mod 26).trans ((extract_above (a := 56) _ xp 22).trans ((extract_above (a := 54) _ xl 20).trans ((extract_above (a := 52) _ es 18).trans ((extract_above (a := 51) _ sat 17).trans ((extract_above (a := 48) _ rm 14).trans ((extract_above (a := 44) _ tyb 10).trans ((extract_above (a := 40) _ ty 6).trans ((extract_above (a := 38) _ dcls 4).trans ((extract_above (a := 36) _ ccls 2).trans ((extract_above (a := 34) _ bcls 0).trans ((extract_below (a := 32) _ acls 0 (by decide)).trans (extract_all _)))))))))))),
    (extract_above (a := 60) _ mod 24).trans ((extract_above (a := 56) _ xp 20).trans ((extract_above (a := 54) _ xl 18).trans ((extract_above (a := 52) _ es 16).trans ((extract_above (a := 51) _ sat 15).trans ((extract_above (a := 48) _ rm 12).trans ((extract_above (a := 44) _ tyb 8).trans ((extract_above (a := 40) _ ty 4).trans ((extract_above (a := 38) _ dcls 2).trans ((extract_above (a := 36) _ ccls 0).trans ((extract_below (a := 34) _ bcls 0 (by decide)).trans (extract_all _))))))))))),
    (extract_above (a := 60) _ mod 22).trans ((extract_above (a := 56) _ xp 18).trans ((extract_above (a := 54) _ xl 16).trans ((extract_above (a := 52) _ es 14).trans ((extract_above (a := 51) _ sat 13).trans ((extract_above (a := 48) _ rm 10).trans ((extract_above (a := 44) _ tyb 6).trans ((extract_above (a := 40) _ ty 2).trans ((extract_above (a := 38) _ dcls 0).trans ((extract_below (a := 36) _ ccls 0 (by decide)).trans (extract_all _)))))))))),
    (extract_above (a := 60) _ mod 20).trans ((extract_above (a := 56) _ xp 16).trans ((extract_above (a := 54) _ xl 14).trans ((extract_above (a := 52) _ es 12).trans ((extract_above (a := 51) _ sat 11).trans ((extract_above (a := 48) _ rm 8).trans ((extract_above (a := 44) _ tyb 4).trans ((extract_above (a := 40) _ ty 0).trans ((extract_below (a := 38) _ dcls 0 (by decide)).trans (extract_all _))))))))),
    (extract_above (a := 60) _ mod 16).trans ((extract_above (a := 56) _ xp 12).trans ((extract_above (a := 54) _ xl 10).trans ((extract_above (a := 52) _ es 8).trans ((extract_above (a := 51) _ sat 7).trans ((extract_above (a := 48) _ rm 4).trans ((extract_above (a := 44) _ tyb 0).trans ((extract_below (a := 40) _ ty 0 (by decide)).trans (extract_all _)))))))),
    (extract_above (a := 60) _ mod 12).trans ((extract_above (a := 56) _ xp 8).trans ((extract_above (a := 54) _ xl 6).trans ((extract_above (a := 52) _ es 4).trans ((extract_above (a := 51) _ sat 3).trans ((extract_above (a := 48) _ rm 0).trans ((extract_below (a := 44) _ tyb 0 (by decide)).trans (extract_all _))))))),
    (extract_above (a := 60) _ mod 9).trans ((extract_above (a := 56) _ xp 5).trans ((extract_above (a := 54) _ xl 3).trans ((extract_above (a := 52) _ es 1).trans ((extract_above (a := 51) _ sat 0).trans ((extract_below (a := 48) _ rm 0 (by decide)).trans (extract_all _)))))),
    (extract_above (a := 60) _ mod 8).trans ((extract_above (a := 56) _ xp 4).trans ((extract_above (a := 54) _ xl 2).trans ((extract_above (a := 52) _ es 0).trans ((extract_below (a := 51) _ sat 0 (by decide)).trans (extract_all _))))),
    (extract_above (a := 60) _ mod 6).trans ((extract_above (a := 56) _ xp 2).trans ((extract_above (a := 54) _ xl 0).trans ((extract_below (a := 52) _ es 0 (by decide)).trans (extract_all _)))),
    (extract_above (a := 60) _ mod 4).trans ((extract_above (a := 56) _ xp 0).trans ((extract_below (a := 54) _ xl 0 (by decide)).trans (extract_all _))),
    (extract_above (a := 60) _ mod 0).trans ((extract_below (a := 56) _ xp 0 (by decide)).trans (extract_all _)),
    (extract_below (a := 60) _ mod 0 (by decide)).trans (extract_all _)⟩

theorem rdRRI_wrRRI (f : RRI) : rdRRI (wrRRI f) = f := by
  obtain ⟨d, a, dcls, acls, ty, mod, imm⟩ := f
  simp only [rdRRI, wrRRI, RRI.mk.injEq]
  exact ⟨(extract_above (a := 32) _ imm 24).trans ((extract_above (a := 24) _ mod 16).trans ((extract_above (a := 20) _ ty 12).trans ((extract_above (a := 18) _ acls 10).trans ((extract_above (a := 16) _ dcls 8).trans ((extract_above (a := 8) _ a 0).trans (extract_all _)))))),
    (extract_above (a := 32) _ imm 16).trans ((extract_above (a := 24) _ mod 8).trans ((extract_above (a := 20) _ ty 4).trans ((extract_above (a := 18) _ acls 2).trans ((extract_above (a := 16) _ dcls 0).trans ((extract_below (a := 8) _ a 0 (by decide)).trans (extract_all _)))))),
    (extract_above (a := 32) _ imm 14).trans ((extract_above (a := 24) _ mod 6).trans ((extract_above (a := 20) _ ty 2).trans ((extract_above (a := 18) _ acls 0).trans ((extract_below (a := 16) _ dcls 0 (by decide)).trans (extract_all _))))),
    (extract_above (a := 32) _ imm 12).trans ((extract_above (a := 24) _ mod 4).trans ((extract_above (a := 20) _ ty 0).trans ((extract_below (a := 18) _ acls 0 (by decide)).trans (extract_all _)))),
    (extract_above (a := 32) _ imm 8).trans ((extract_above (a := 24) _ mod 0).trans ((extract_below (a := 20) _ ty 0 (by decide)).trans (extract_all _))),
    (extract_above (a := 32) _ imm 0).trans ((extract_below (a := 24) _ mod 0 (by decide)).trans (extract_all _)),
    (extract_below (a := 32) _ imm 0 (by decide)).trans (extract_all _)⟩

theorem rdMEM_wrMEM (f : MEM) : rdMEM (wrMEM f) = f := by
  obtain ⟨d, base, index, space, order, scope, width, bcls, ixen, off⟩ := f
  simp only [rdMEM, wrMEM, MEM.mk.injEq]
  exact ⟨(extract_above (a := 40) _ off 32).trans ((extract_above (a := 39) _ ixen 31).trans ((extract_above (a := 38) _ bcls 30).trans ((extract_above (a := 32) _ width 24).trans ((extract_above (a := 29) _ scope 21).trans ((extract_above (a := 26) _ order 18).trans ((extract_above (a := 24) _ space 16).trans ((extract_above (a := 16) _ index 8).trans ((extract_above (a := 8) _ base 0).trans (extract_all _))))))))),
    (extract_above (a := 40) _ off 24).trans ((extract_above (a := 39) _ ixen 23).trans ((extract_above (a := 38) _ bcls 22).trans ((extract_above (a := 32) _ width 16).trans ((extract_above (a := 29) _ scope 13).trans ((extract_above (a := 26) _ order 10).trans ((extract_above (a := 24) _ space 8).trans ((extract_above (a := 16) _ index 0).trans ((extract_below (a := 8) _ base 0 (by decide)).trans (extract_all _))))))))),
    (extract_above (a := 40) _ off 16).trans ((extract_above (a := 39) _ ixen 15).trans ((extract_above (a := 38) _ bcls 14).trans ((extract_above (a := 32) _ width 8).trans ((extract_above (a := 29) _ scope 5).trans ((extract_above (a := 26) _ order 2).trans ((extract_above (a := 24) _ space 0).trans ((extract_below (a := 16) _ index 0 (by decide)).trans (extract_all _)))))))),
    (extract_above (a := 40) _ off 14).trans ((extract_above (a := 39) _ ixen 13).trans ((extract_above (a := 38) _ bcls 12).trans ((extract_above (a := 32) _ width 6).trans ((extract_above (a := 29) _ scope 3).trans ((extract_above (a := 26) _ order 0).trans ((extract_below (a := 24) _ space 0 (by decide)).trans (extract_all _))))))),
    (extract_above (a := 40) _ off 11).trans ((extract_above (a := 39) _ ixen 10).trans ((extract_above (a := 38) _ bcls 9).trans ((extract_above (a := 32) _ width 3).trans ((extract_above (a := 29) _ scope 0).trans ((extract_below (a := 26) _ order 0 (by decide)).trans (extract_all _)))))),
    (extract_above (a := 40) _ off 8).trans ((extract_above (a := 39) _ ixen 7).trans ((extract_above (a := 38) _ bcls 6).trans ((extract_above (a := 32) _ width 0).trans ((extract_below (a := 29) _ scope 0 (by decide)).trans (extract_all _))))),
    (extract_above (a := 40) _ off 2).trans ((extract_above (a := 39) _ ixen 1).trans ((extract_above (a := 38) _ bcls 0).trans ((extract_below (a := 32) _ width 0 (by decide)).trans (extract_all _)))),
    (extract_above (a := 40) _ off 1).trans ((extract_above (a := 39) _ ixen 0).trans ((extract_below (a := 38) _ bcls 0 (by decide)).trans (extract_all _))),
    (extract_above (a := 40) _ off 0).trans ((extract_below (a := 39) _ ixen 0 (by decide)).trans (extract_all _)),
    (extract_below (a := 40) _ off 0 (by decide)).trans (extract_all _)⟩

theorem rdBR_wrBR (f : BR) : rdBR (wrBR f) = f := by
  obtain ⟨loff, slot, y, xr, xcls, rsv⟩ := f
  simp only [rdBR, wrBR, BR.mk.injEq]
  exact ⟨(extract_above (a := 45) _ rsv 13).trans ((extract_above (a := 44) _ xcls 12).trans ((extract_above (a := 36) _ xr 4).trans ((extract_above (a := 35) _ y 3).trans ((extract_above (a := 32) _ slot 0).trans (extract_all _))))),
    (extract_above (a := 45) _ rsv 10).trans ((extract_above (a := 44) _ xcls 9).trans ((extract_above (a := 36) _ xr 1).trans ((extract_above (a := 35) _ y 0).trans ((extract_below (a := 32) _ slot 0 (by decide)).trans (extract_all _))))),
    (extract_above (a := 45) _ rsv 9).trans ((extract_above (a := 44) _ xcls 8).trans ((extract_above (a := 36) _ xr 0).trans ((extract_below (a := 35) _ y 0 (by decide)).trans (extract_all _)))),
    (extract_above (a := 45) _ rsv 1).trans ((extract_above (a := 44) _ xcls 0).trans ((extract_below (a := 36) _ xr 0 (by decide)).trans (extract_all _))),
    (extract_above (a := 45) _ rsv 0).trans ((extract_below (a := 44) _ xcls 0 (by decide)).trans (extract_all _)),
    (extract_below (a := 45) _ rsv 0 (by decide)).trans (extract_all _)⟩

theorem rdMAT_wrMAT (f : MAT) : rdMAT (wrMAT f) = f := by
  obtain ⟨zd, va, bcls, bidx, sla, slb, pair, sp, bs, reuse, sat, ssc, vx, row, rm, rsv⟩ := f
  simp only [rdMAT, wrMAT, MAT.mk.injEq]
  exact ⟨(extract_above (a := 56) _ rsv 52).trans ((extract_above (a := 53) _ rm 49).trans ((extract_above (a := 47) _ row 43).trans ((extract_above (a := 39) _ vx 35).trans ((extract_above (a := 33) _ ssc 29).trans ((extract_above (a := 32) _ sat 28).trans ((extract_above (a := 31) _ reuse 27).trans ((extract_above (a := 30) _ bs 26).trans ((extract_above (a := 29) _ sp 25).trans ((extract_above (a := 28) _ pair 24).trans ((extract_above (a := 24) _ slb 20).trans ((extract_above (a := 20) _ sla 16).trans ((extract_above (a := 14) _ bidx 10).trans ((extract_above (a := 12) _ bcls 8).trans ((extract_above (a := 4) _ va 0).trans (extract_all _))))))))))))))),
    (extract_above (a := 56) _ rsv 44).trans ((extract_above (a := 53) _ rm 41).trans ((extract_above (a := 47) _ row 35).trans ((extract_above (a := 39) _ vx 27).trans ((extract_above (a := 33) _ ssc 21).trans ((extract_above (a := 32) _ sat 20).trans ((extract_above (a := 31) _ reuse 19).trans ((extract_above (a := 30) _ bs 18).trans ((extract_above (a := 29) _ sp 17).trans ((extract_above (a := 28) _ pair 16).trans ((extract_above (a := 24) _ slb 12).trans ((extract_above (a := 20) _ sla 8).trans ((extract_above (a := 14) _ bidx 2).trans ((extract_above (a := 12) _ bcls 0).trans ((extract_below (a := 4) _ va 0 (by decide)).trans (extract_all _))))))))))))))),
    (extract_above (a := 56) _ rsv 42).trans ((extract_above (a := 53) _ rm 39).trans ((extract_above (a := 47) _ row 33).trans ((extract_above (a := 39) _ vx 25).trans ((extract_above (a := 33) _ ssc 19).trans ((extract_above (a := 32) _ sat 18).trans ((extract_above (a := 31) _ reuse 17).trans ((extract_above (a := 30) _ bs 16).trans ((extract_above (a := 29) _ sp 15).trans ((extract_above (a := 28) _ pair 14).trans ((extract_above (a := 24) _ slb 10).trans ((extract_above (a := 20) _ sla 6).trans ((extract_above (a := 14) _ bidx 0).trans ((extract_below (a := 12) _ bcls 0 (by decide)).trans (extract_all _)))))))))))))),
    (extract_above (a := 56) _ rsv 36).trans ((extract_above (a := 53) _ rm 33).trans ((extract_above (a := 47) _ row 27).trans ((extract_above (a := 39) _ vx 19).trans ((extract_above (a := 33) _ ssc 13).trans ((extract_above (a := 32) _ sat 12).trans ((extract_above (a := 31) _ reuse 11).trans ((extract_above (a := 30) _ bs 10).trans ((extract_above (a := 29) _ sp 9).trans ((extract_above (a := 28) _ pair 8).trans ((extract_above (a := 24) _ slb 4).trans ((extract_above (a := 20) _ sla 0).trans ((extract_below (a := 14) _ bidx 0 (by decide)).trans (extract_all _))))))))))))),
    (extract_above (a := 56) _ rsv 32).trans ((extract_above (a := 53) _ rm 29).trans ((extract_above (a := 47) _ row 23).trans ((extract_above (a := 39) _ vx 15).trans ((extract_above (a := 33) _ ssc 9).trans ((extract_above (a := 32) _ sat 8).trans ((extract_above (a := 31) _ reuse 7).trans ((extract_above (a := 30) _ bs 6).trans ((extract_above (a := 29) _ sp 5).trans ((extract_above (a := 28) _ pair 4).trans ((extract_above (a := 24) _ slb 0).trans ((extract_below (a := 20) _ sla 0 (by decide)).trans (extract_all _)))))))))))),
    (extract_above (a := 56) _ rsv 28).trans ((extract_above (a := 53) _ rm 25).trans ((extract_above (a := 47) _ row 19).trans ((extract_above (a := 39) _ vx 11).trans ((extract_above (a := 33) _ ssc 5).trans ((extract_above (a := 32) _ sat 4).trans ((extract_above (a := 31) _ reuse 3).trans ((extract_above (a := 30) _ bs 2).trans ((extract_above (a := 29) _ sp 1).trans ((extract_above (a := 28) _ pair 0).trans ((extract_below (a := 24) _ slb 0 (by decide)).trans (extract_all _))))))))))),
    (extract_above (a := 56) _ rsv 27).trans ((extract_above (a := 53) _ rm 24).trans ((extract_above (a := 47) _ row 18).trans ((extract_above (a := 39) _ vx 10).trans ((extract_above (a := 33) _ ssc 4).trans ((extract_above (a := 32) _ sat 3).trans ((extract_above (a := 31) _ reuse 2).trans ((extract_above (a := 30) _ bs 1).trans ((extract_above (a := 29) _ sp 0).trans ((extract_below (a := 28) _ pair 0 (by decide)).trans (extract_all _)))))))))),
    (extract_above (a := 56) _ rsv 26).trans ((extract_above (a := 53) _ rm 23).trans ((extract_above (a := 47) _ row 17).trans ((extract_above (a := 39) _ vx 9).trans ((extract_above (a := 33) _ ssc 3).trans ((extract_above (a := 32) _ sat 2).trans ((extract_above (a := 31) _ reuse 1).trans ((extract_above (a := 30) _ bs 0).trans ((extract_below (a := 29) _ sp 0 (by decide)).trans (extract_all _))))))))),
    (extract_above (a := 56) _ rsv 25).trans ((extract_above (a := 53) _ rm 22).trans ((extract_above (a := 47) _ row 16).trans ((extract_above (a := 39) _ vx 8).trans ((extract_above (a := 33) _ ssc 2).trans ((extract_above (a := 32) _ sat 1).trans ((extract_above (a := 31) _ reuse 0).trans ((extract_below (a := 30) _ bs 0 (by decide)).trans (extract_all _)))))))),
    (extract_above (a := 56) _ rsv 24).trans ((extract_above (a := 53) _ rm 21).trans ((extract_above (a := 47) _ row 15).trans ((extract_above (a := 39) _ vx 7).trans ((extract_above (a := 33) _ ssc 1).trans ((extract_above (a := 32) _ sat 0).trans ((extract_below (a := 31) _ reuse 0 (by decide)).trans (extract_all _))))))),
    (extract_above (a := 56) _ rsv 23).trans ((extract_above (a := 53) _ rm 20).trans ((extract_above (a := 47) _ row 14).trans ((extract_above (a := 39) _ vx 6).trans ((extract_above (a := 33) _ ssc 0).trans ((extract_below (a := 32) _ sat 0 (by decide)).trans (extract_all _)))))),
    (extract_above (a := 56) _ rsv 17).trans ((extract_above (a := 53) _ rm 14).trans ((extract_above (a := 47) _ row 8).trans ((extract_above (a := 39) _ vx 0).trans ((extract_below (a := 33) _ ssc 0 (by decide)).trans (extract_all _))))),
    (extract_above (a := 56) _ rsv 9).trans ((extract_above (a := 53) _ rm 6).trans ((extract_above (a := 47) _ row 0).trans ((extract_below (a := 39) _ vx 0 (by decide)).trans (extract_all _)))),
    (extract_above (a := 56) _ rsv 3).trans ((extract_above (a := 53) _ rm 0).trans ((extract_below (a := 47) _ row 0 (by decide)).trans (extract_all _))),
    (extract_above (a := 56) _ rsv 0).trans ((extract_below (a := 53) _ rm 0 (by decide)).trans (extract_all _)),
    (extract_below (a := 56) _ rsv 0 (by decide)).trans (extract_all _)⟩

theorem rdASY_wrASY (f : ASY) : rdASY (wrASY f) = f := by
  obtain ⟨d, a, b, dcls, acls, bcls, win, bar, node, ccls, cnt, mod⟩ := f
  simp only [rdASY, wrASY, ASY.mk.injEq]
  exact ⟨(extract_above (a := 57) _ mod 49).trans ((extract_above (a := 51) _ cnt 43).trans ((extract_above (a := 48) _ ccls 40).trans ((extract_above (a := 40) _ node 32).trans ((extract_above (a := 36) _ bar 28).trans ((extract_above (a := 30) _ win 22).trans ((extract_above (a := 28) _ bcls 20).trans ((extract_above (a := 26) _ acls 18).trans ((extract_above (a := 24) _ dcls 16).trans ((extract_above (a := 16) _ b 8).trans ((extract_above (a := 8) _ a 0).trans (extract_all _))))))))))),
    (extract_above (a := 57) _ mod 41).trans ((extract_above (a := 51) _ cnt 35).trans ((extract_above (a := 48) _ ccls 32).trans ((extract_above (a := 40) _ node 24).trans ((extract_above (a := 36) _ bar 20).trans ((extract_above (a := 30) _ win 14).trans ((extract_above (a := 28) _ bcls 12).trans ((extract_above (a := 26) _ acls 10).trans ((extract_above (a := 24) _ dcls 8).trans ((extract_above (a := 16) _ b 0).trans ((extract_below (a := 8) _ a 0 (by decide)).trans (extract_all _))))))))))),
    (extract_above (a := 57) _ mod 33).trans ((extract_above (a := 51) _ cnt 27).trans ((extract_above (a := 48) _ ccls 24).trans ((extract_above (a := 40) _ node 16).trans ((extract_above (a := 36) _ bar 12).trans ((extract_above (a := 30) _ win 6).trans ((extract_above (a := 28) _ bcls 4).trans ((extract_above (a := 26) _ acls 2).trans ((extract_above (a := 24) _ dcls 0).trans ((extract_below (a := 16) _ b 0 (by decide)).trans (extract_all _)))))))))),
    (extract_above (a := 57) _ mod 31).trans ((extract_above (a := 51) _ cnt 25).trans ((extract_above (a := 48) _ ccls 22).trans ((extract_above (a := 40) _ node 14).trans ((extract_above (a := 36) _ bar 10).trans ((extract_above (a := 30) _ win 4).trans ((extract_above (a := 28) _ bcls 2).trans ((extract_above (a := 26) _ acls 0).trans ((extract_below (a := 24) _ dcls 0 (by decide)).trans (extract_all _))))))))),
    (extract_above (a := 57) _ mod 29).trans ((extract_above (a := 51) _ cnt 23).trans ((extract_above (a := 48) _ ccls 20).trans ((extract_above (a := 40) _ node 12).trans ((extract_above (a := 36) _ bar 8).trans ((extract_above (a := 30) _ win 2).trans ((extract_above (a := 28) _ bcls 0).trans ((extract_below (a := 26) _ acls 0 (by decide)).trans (extract_all _)))))))),
    (extract_above (a := 57) _ mod 27).trans ((extract_above (a := 51) _ cnt 21).trans ((extract_above (a := 48) _ ccls 18).trans ((extract_above (a := 40) _ node 10).trans ((extract_above (a := 36) _ bar 6).trans ((extract_above (a := 30) _ win 0).trans ((extract_below (a := 28) _ bcls 0 (by decide)).trans (extract_all _))))))),
    (extract_above (a := 57) _ mod 21).trans ((extract_above (a := 51) _ cnt 15).trans ((extract_above (a := 48) _ ccls 12).trans ((extract_above (a := 40) _ node 4).trans ((extract_above (a := 36) _ bar 0).trans ((extract_below (a := 30) _ win 0 (by decide)).trans (extract_all _)))))),
    (extract_above (a := 57) _ mod 17).trans ((extract_above (a := 51) _ cnt 11).trans ((extract_above (a := 48) _ ccls 8).trans ((extract_above (a := 40) _ node 0).trans ((extract_below (a := 36) _ bar 0 (by decide)).trans (extract_all _))))),
    (extract_above (a := 57) _ mod 9).trans ((extract_above (a := 51) _ cnt 3).trans ((extract_above (a := 48) _ ccls 0).trans ((extract_below (a := 40) _ node 0 (by decide)).trans (extract_all _)))),
    (extract_above (a := 57) _ mod 6).trans ((extract_above (a := 51) _ cnt 0).trans ((extract_below (a := 48) _ ccls 0 (by decide)).trans (extract_all _))),
    (extract_above (a := 57) _ mod 0).trans ((extract_below (a := 51) _ cnt 0 (by decide)).trans (extract_all _)),
    (extract_below (a := 57) _ mod 0 (by decide)).trans (extract_all _)⟩

theorem rdSYS_wrSYS (f : SYS) : rdSYS (wrSYS f) = f := by
  obtain ⟨d, a, dcls, acls, spr, code, rsv⟩ := f
  simp only [rdSYS, wrSYS, SYS.mk.injEq]
  exact ⟨(extract_above (a := 44) _ rsv 36).trans ((extract_above (a := 28) _ code 20).trans ((extract_above (a := 20) _ spr 12).trans ((extract_above (a := 18) _ acls 10).trans ((extract_above (a := 16) _ dcls 8).trans ((extract_above (a := 8) _ a 0).trans (extract_all _)))))),
    (extract_above (a := 44) _ rsv 28).trans ((extract_above (a := 28) _ code 12).trans ((extract_above (a := 20) _ spr 4).trans ((extract_above (a := 18) _ acls 2).trans ((extract_above (a := 16) _ dcls 0).trans ((extract_below (a := 8) _ a 0 (by decide)).trans (extract_all _)))))),
    (extract_above (a := 44) _ rsv 26).trans ((extract_above (a := 28) _ code 10).trans ((extract_above (a := 20) _ spr 2).trans ((extract_above (a := 18) _ acls 0).trans ((extract_below (a := 16) _ dcls 0 (by decide)).trans (extract_all _))))),
    (extract_above (a := 44) _ rsv 24).trans ((extract_above (a := 28) _ code 8).trans ((extract_above (a := 20) _ spr 0).trans ((extract_below (a := 18) _ acls 0 (by decide)).trans (extract_all _)))),
    (extract_above (a := 44) _ rsv 16).trans ((extract_above (a := 28) _ code 0).trans ((extract_below (a := 20) _ spr 0 (by decide)).trans (extract_all _))),
    (extract_above (a := 44) _ rsv 0).trans ((extract_below (a := 28) _ code 0 (by decide)).trans (extract_all _)),
    (extract_below (a := 44) _ rsv 0 (by decide)).trans (extract_all _)⟩

/-! ### Words -/

theorem rdCtl_wrWord (k : Ctl) (op : BitVec 11) (p : BitVec 64) : rdCtl (wrWord k op p) = k := by
  obtain ⟨wait, setf, gneg, gpred⟩ := k
  simp only [rdCtl, wrWord, Ctl.mk.injEq]
  exact ⟨(extract_above (a := 32) _ p 20).trans ((extract_above (a := 21) _ op 9).trans ((extract_above (a := 17) _ gpred 5).trans ((extract_above (a := 16) _ gneg 4).trans ((extract_above (a := 12) _ setf 0).trans (extract_all _))))),
    (extract_above (a := 32) _ p 16).trans ((extract_above (a := 21) _ op 5).trans ((extract_above (a := 17) _ gpred 1).trans ((extract_above (a := 16) _ gneg 0).trans ((extract_below (a := 12) _ setf 0 (by decide)).trans (extract_all _))))),
    (extract_above (a := 32) _ p 15).trans ((extract_above (a := 21) _ op 4).trans ((extract_above (a := 17) _ gpred 0).trans ((extract_below (a := 16) _ gneg 0 (by decide)).trans (extract_all _)))),
    (extract_above (a := 32) _ p 11).trans ((extract_above (a := 21) _ op 0).trans ((extract_below (a := 17) _ gpred 0 (by decide)).trans (extract_all _)))⟩

theorem opcode_wrWord (k : Ctl) (op : BitVec 11) (p : BitVec 64) : (wrWord k op p).extractLsb' 64 11 = op :=
  (extract_above (a := 32) _ p 0).trans ((extract_below (a := 21) _ op 0 (by decide)).trans (extract_all _))

theorem payload_wrWord (k : Ctl) (op : BitVec 11) (p : BitVec 64) : (wrWord k op p).extractLsb' 0 64 = p :=
  (extract_below (a := 32) _ p 0 (by decide)).trans (extract_all _)

/-- Decoding a word put together from its parts: the opcode's instruction when its fields are defined. -/
theorem decode_wrWord (k : Ctl) (op : BitVec 11) (p : BitVec 64) (i : Instr) (h : ofOpcode op k p = some i)
    (ok : formOk i = true) : decode (wrWord k op p) = .ok i := by
  simp [decode, rdCtl_wrWord, opcode_wrWord, payload_wrWord, h, ok]

/-! ### The family RoundTrip -/

/-- A well-formed instruction is what the decoder reads from its word. -/
def RoundTrip.Statement (i : Instr) : Prop := i.WellFormed → ∀ w, encode i = some w → decode w = .ok i

theorem RoundTrip.of_parts (i : Instr) (k : Ctl) (op : BitVec 11) (p : BitVec 64) (hp : parts i = some (k, op, p))
    (ho : ofOpcode op k p = some i) : RoundTrip.Statement i := by
  intro ok w hw
  simp only [encode, hp, Option.some.injEq] at hw
  exact hw ▸ decode_wrWord k op p i ho ok

theorem RoundTrip.of_none (i : Instr) (hp : parts i = none) : RoundTrip.Statement i := by
  intro _ w hw
  simp [encode, hp] at hw

theorem RoundTrip.iadd (k : Ctl) (f : RRR) : RoundTrip.Statement (.iadd k f) :=
  of_parts _ k 0x000 (wrRRR f) rfl (congrArg (fun g => some (Instr.iadd k g)) (rdRRR_wrRRR f))
theorem RoundTrip.iaddImm (k : Ctl) (f : RRI) : RoundTrip.Statement (.iaddImm k f) :=
  of_parts _ k 0x080 (wrRRI f) rfl (congrArg (fun g => some (Instr.iaddImm k g)) (rdRRI_wrRRI f))
theorem RoundTrip.isub (k : Ctl) (f : RRR) : RoundTrip.Statement (.isub k f) :=
  of_parts _ k 0x001 (wrRRR f) rfl (congrArg (fun g => some (Instr.isub k g)) (rdRRR_wrRRR f))
theorem RoundTrip.isubImm (k : Ctl) (f : RRI) : RoundTrip.Statement (.isubImm k f) :=
  of_parts _ k 0x081 (wrRRI f) rfl (congrArg (fun g => some (Instr.isubImm k g)) (rdRRI_wrRRI f))
theorem RoundTrip.imul (k : Ctl) (f : RRR) : RoundTrip.Statement (.imul k f) :=
  of_parts _ k 0x002 (wrRRR f) rfl (congrArg (fun g => some (Instr.imul k g)) (rdRRR_wrRRR f))
theorem RoundTrip.imulImm (k : Ctl) (f : RRI) : RoundTrip.Statement (.imulImm k f) :=
  of_parts _ k 0x082 (wrRRI f) rfl (congrArg (fun g => some (Instr.imulImm k g)) (rdRRI_wrRRI f))
theorem RoundTrip.imulh (k : Ctl) (f : RRR) : RoundTrip.Statement (.imulh k f) :=
  of_parts _ k 0x003 (wrRRR f) rfl (congrArg (fun g => some (Instr.imulh k g)) (rdRRR_wrRRR f))
theorem RoundTrip.imad (k : Ctl) (f : RRR) : RoundTrip.Statement (.imad k f) :=
  of_parts _ k 0x004 (wrRRR f) rfl (congrArg (fun g => some (Instr.imad k g)) (rdRRR_wrRRR f))
theorem RoundTrip.ineg (k : Ctl) (f : RRR) : RoundTrip.Statement (.ineg k f) :=
  of_parts _ k 0x005 (wrRRR f) rfl (congrArg (fun g => some (Instr.ineg k g)) (rdRRR_wrRRR f))
theorem RoundTrip.iabs (k : Ctl) (f : RRR) : RoundTrip.Statement (.iabs k f) :=
  of_parts _ k 0x006 (wrRRR f) rfl (congrArg (fun g => some (Instr.iabs k g)) (rdRRR_wrRRR f))
theorem RoundTrip.imin (k : Ctl) (f : RRR) : RoundTrip.Statement (.imin k f) :=
  of_parts _ k 0x007 (wrRRR f) rfl (congrArg (fun g => some (Instr.imin k g)) (rdRRR_wrRRR f))
theorem RoundTrip.iminImm (k : Ctl) (f : RRI) : RoundTrip.Statement (.iminImm k f) :=
  of_parts _ k 0x087 (wrRRI f) rfl (congrArg (fun g => some (Instr.iminImm k g)) (rdRRI_wrRRI f))
theorem RoundTrip.imax (k : Ctl) (f : RRR) : RoundTrip.Statement (.imax k f) :=
  of_parts _ k 0x008 (wrRRR f) rfl (congrArg (fun g => some (Instr.imax k g)) (rdRRR_wrRRR f))
theorem RoundTrip.imaxImm (k : Ctl) (f : RRI) : RoundTrip.Statement (.imaxImm k f) :=
  of_parts _ k 0x088 (wrRRI f) rfl (congrArg (fun g => some (Instr.imaxImm k g)) (rdRRI_wrRRI f))
theorem RoundTrip.ishl (k : Ctl) (f : RRR) : RoundTrip.Statement (.ishl k f) :=
  of_parts _ k 0x009 (wrRRR f) rfl (congrArg (fun g => some (Instr.ishl k g)) (rdRRR_wrRRR f))
theorem RoundTrip.ishr (k : Ctl) (f : RRR) : RoundTrip.Statement (.ishr k f) :=
  of_parts _ k 0x00a (wrRRR f) rfl (congrArg (fun g => some (Instr.ishr k g)) (rdRRR_wrRRR f))
theorem RoundTrip.irot (k : Ctl) (f : RRR) : RoundTrip.Statement (.irot k f) :=
  of_parts _ k 0x00b (wrRRR f) rfl (congrArg (fun g => some (Instr.irot k g)) (rdRRR_wrRRR f))
theorem RoundTrip.and (k : Ctl) (f : RRR) : RoundTrip.Statement (.and k f) :=
  of_parts _ k 0x00c (wrRRR f) rfl (congrArg (fun g => some (Instr.and k g)) (rdRRR_wrRRR f))
theorem RoundTrip.andImm (k : Ctl) (f : RRI) : RoundTrip.Statement (.andImm k f) :=
  of_parts _ k 0x08c (wrRRI f) rfl (congrArg (fun g => some (Instr.andImm k g)) (rdRRI_wrRRI f))
theorem RoundTrip.or (k : Ctl) (f : RRR) : RoundTrip.Statement (.or k f) :=
  of_parts _ k 0x00d (wrRRR f) rfl (congrArg (fun g => some (Instr.or k g)) (rdRRR_wrRRR f))
theorem RoundTrip.orImm (k : Ctl) (f : RRI) : RoundTrip.Statement (.orImm k f) :=
  of_parts _ k 0x08d (wrRRI f) rfl (congrArg (fun g => some (Instr.orImm k g)) (rdRRI_wrRRI f))
theorem RoundTrip.xor (k : Ctl) (f : RRR) : RoundTrip.Statement (.xor k f) :=
  of_parts _ k 0x00e (wrRRR f) rfl (congrArg (fun g => some (Instr.xor k g)) (rdRRR_wrRRR f))
theorem RoundTrip.xorImm (k : Ctl) (f : RRI) : RoundTrip.Statement (.xorImm k f) :=
  of_parts _ k 0x08e (wrRRI f) rfl (congrArg (fun g => some (Instr.xorImm k g)) (rdRRI_wrRRI f))
theorem RoundTrip.andn (k : Ctl) (f : RRR) : RoundTrip.Statement (.andn k f) :=
  of_parts _ k 0x00f (wrRRR f) rfl (congrArg (fun g => some (Instr.andn k g)) (rdRRR_wrRRR f))
theorem RoundTrip.andnImm (k : Ctl) (f : RRI) : RoundTrip.Statement (.andnImm k f) :=
  of_parts _ k 0x08f (wrRRI f) rfl (congrArg (fun g => some (Instr.andnImm k g)) (rdRRI_wrRRI f))
theorem RoundTrip.not (k : Ctl) (f : RRR) : RoundTrip.Statement (.not k f) :=
  of_parts _ k 0x010 (wrRRR f) rfl (congrArg (fun g => some (Instr.not k g)) (rdRRR_wrRRR f))
theorem RoundTrip.bfx (k : Ctl) (f : RRR) : RoundTrip.Statement (.bfx k f) :=
  of_parts _ k 0x011 (wrRRR f) rfl (congrArg (fun g => some (Instr.bfx k g)) (rdRRR_wrRRR f))
theorem RoundTrip.bfi (k : Ctl) (f : RRR) : RoundTrip.Statement (.bfi k f) :=
  of_parts _ k 0x012 (wrRRR f) rfl (congrArg (fun g => some (Instr.bfi k g)) (rdRRR_wrRRR f))
theorem RoundTrip.brev (k : Ctl) (f : RRR) : RoundTrip.Statement (.brev k f) :=
  of_parts _ k 0x013 (wrRRR f) rfl (congrArg (fun g => some (Instr.brev k g)) (rdRRR_wrRRR f))
theorem RoundTrip.popc (k : Ctl) (f : RRR) : RoundTrip.Statement (.popc k f) :=
  of_parts _ k 0x014 (wrRRR f) rfl (congrArg (fun g => some (Instr.popc k g)) (rdRRR_wrRRR f))
theorem RoundTrip.clz (k : Ctl) (f : RRR) : RoundTrip.Statement (.clz k f) :=
  of_parts _ k 0x015 (wrRRR f) rfl (congrArg (fun g => some (Instr.clz k g)) (rdRRR_wrRRR f))
theorem RoundTrip.ctz (k : Ctl) (f : RRR) : RoundTrip.Statement (.ctz k f) :=
  of_parts _ k 0x016 (wrRRR f) rfl (congrArg (fun g => some (Instr.ctz k g)) (rdRRR_wrRRR f))
theorem RoundTrip.icmp (k : Ctl) (f : RRR) : RoundTrip.Statement (.icmp k f) :=
  of_parts _ k 0x017 (wrRRR f) rfl (congrArg (fun g => some (Instr.icmp k g)) (rdRRR_wrRRR f))
theorem RoundTrip.icmpImm (k : Ctl) (f : RRI) : RoundTrip.Statement (.icmpImm k f) :=
  of_parts _ k 0x097 (wrRRI f) rfl (congrArg (fun g => some (Instr.icmpImm k g)) (rdRRI_wrRRI f))
theorem RoundTrip.isel (k : Ctl) (f : RRR) : RoundTrip.Statement (.isel k f) :=
  of_parts _ k 0x018 (wrRRR f) rfl (congrArg (fun g => some (Instr.isel k g)) (rdRRR_wrRRR f))
theorem RoundTrip.lea (k : Ctl) (f : RRR) : RoundTrip.Statement (.lea k f) :=
  of_parts _ k 0x019 (wrRRR f) rfl (congrArg (fun g => some (Instr.lea k g)) (rdRRR_wrRRR f))
theorem RoundTrip.leaImm (k : Ctl) (f : RRI) : RoundTrip.Statement (.leaImm k f) :=
  of_parts _ k 0x099 (wrRRI f) rfl (congrArg (fun g => some (Instr.leaImm k g)) (rdRRI_wrRRI f))
theorem RoundTrip.mov (k : Ctl) (f : RRR) : RoundTrip.Statement (.mov k f) :=
  of_parts _ k 0x01a (wrRRR f) rfl (congrArg (fun g => some (Instr.mov k g)) (rdRRR_wrRRR f))
theorem RoundTrip.movi (k : Ctl) (f : RRI) : RoundTrip.Statement (.movi k f) :=
  of_parts _ k 0x09a (wrRRI f) rfl (congrArg (fun g => some (Instr.movi k g)) (rdRRI_wrRRI f))
theorem RoundTrip.pset (k : Ctl) (f : RRR) : RoundTrip.Statement (.pset k f) :=
  of_parts _ k 0x01b (wrRRR f) rfl (congrArg (fun g => some (Instr.pset k g)) (rdRRR_wrRRR f))
theorem RoundTrip.plop (k : Ctl) (f : RRR) : RoundTrip.Statement (.plop k f) :=
  of_parts _ k 0x01c (wrRRR f) rfl (congrArg (fun g => some (Instr.plop k g)) (rdRRR_wrRRR f))
theorem RoundTrip.shfl (k : Ctl) (f : RRR) : RoundTrip.Statement (.shfl k f) :=
  of_parts _ k 0x030 (wrRRR f) rfl (congrArg (fun g => some (Instr.shfl k g)) (rdRRR_wrRRR f))
theorem RoundTrip.qxch (k : Ctl) (f : RRR) : RoundTrip.Statement (.qxch k f) :=
  of_parts _ k 0x031 (wrRRR f) rfl (congrArg (fun g => some (Instr.qxch k g)) (rdRRR_wrRRR f))
theorem RoundTrip.vote (k : Ctl) (f : RRR) : RoundTrip.Statement (.vote k f) :=
  of_parts _ k 0x032 (wrRRR f) rfl (congrArg (fun g => some (Instr.vote k g)) (rdRRR_wrRRR f))
theorem RoundTrip.perm (k : Ctl) (f : RRR) : RoundTrip.Statement (.perm k f) :=
  of_parts _ k 0x033 (wrRRR f) rfl (congrArg (fun g => some (Instr.perm k g)) (rdRRR_wrRRR f))
theorem RoundTrip.pack (k : Ctl) (f : RRR) : RoundTrip.Statement (.pack k f) :=
  of_parts _ k 0x034 (wrRRR f) rfl (congrArg (fun g => some (Instr.pack k g)) (rdRRR_wrRRR f))
theorem RoundTrip.unpack (k : Ctl) (f : RRR) : RoundTrip.Statement (.unpack k f) :=
  of_parts _ k 0x035 (wrRRR f) rfl (congrArg (fun g => some (Instr.unpack k g)) (rdRRR_wrRRR f))
theorem RoundTrip.movs (k : Ctl) (f : SYS) : RoundTrip.Statement (.movs k f) :=
  of_parts _ k 0x040 (wrSYS f) rfl (congrArg (fun g => some (Instr.movs k g)) (rdSYS_wrSYS f))
theorem RoundTrip.movss (k : Ctl) (f : SYS) : RoundTrip.Statement (.movss k f) :=
  of_parts _ k 0x041 (wrSYS f) rfl (congrArg (fun g => some (Instr.movss k g)) (rdSYS_wrSYS f))
theorem RoundTrip.pchk (k : Ctl) (f : RRR) : RoundTrip.Statement (.pchk k f) :=
  of_parts _ k 0x042 (wrRRR f) rfl (congrArg (fun g => some (Instr.pchk k g)) (rdRRR_wrRRR f))
theorem RoundTrip.pclr (k : Ctl) (f : RRR) : RoundTrip.Statement (.pclr k f) :=
  of_parts _ k 0x043 (wrRRR f) rfl (congrArg (fun g => some (Instr.pclr k g)) (rdRRR_wrRRR f))
theorem RoundTrip.fadd (k : Ctl) (f : RRR) : RoundTrip.Statement (.fadd k f) :=
  of_parts _ k 0x100 (wrRRR f) rfl (congrArg (fun g => some (Instr.fadd k g)) (rdRRR_wrRRR f))
theorem RoundTrip.fsub (k : Ctl) (f : RRR) : RoundTrip.Statement (.fsub k f) :=
  of_parts _ k 0x101 (wrRRR f) rfl (congrArg (fun g => some (Instr.fsub k g)) (rdRRR_wrRRR f))
theorem RoundTrip.fmul (k : Ctl) (f : RRR) : RoundTrip.Statement (.fmul k f) :=
  of_parts _ k 0x102 (wrRRR f) rfl (congrArg (fun g => some (Instr.fmul k g)) (rdRRR_wrRRR f))
theorem RoundTrip.fma (k : Ctl) (f : RRR) : RoundTrip.Statement (.fma k f) :=
  of_parts _ k 0x103 (wrRRR f) rfl (congrArg (fun g => some (Instr.fma k g)) (rdRRR_wrRRR f))
theorem RoundTrip.fmin (k : Ctl) (f : RRR) : RoundTrip.Statement (.fmin k f) :=
  of_parts _ k 0x104 (wrRRR f) rfl (congrArg (fun g => some (Instr.fmin k g)) (rdRRR_wrRRR f))
theorem RoundTrip.fmax (k : Ctl) (f : RRR) : RoundTrip.Statement (.fmax k f) :=
  of_parts _ k 0x105 (wrRRR f) rfl (congrArg (fun g => some (Instr.fmax k g)) (rdRRR_wrRRR f))
theorem RoundTrip.fcmp (k : Ctl) (f : RRR) : RoundTrip.Statement (.fcmp k f) :=
  of_parts _ k 0x106 (wrRRR f) rfl (congrArg (fun g => some (Instr.fcmp k g)) (rdRRR_wrRRR f))
theorem RoundTrip.fclass (k : Ctl) (f : RRR) : RoundTrip.Statement (.fclass k f) :=
  of_parts _ k 0x107 (wrRRR f) rfl (congrArg (fun g => some (Instr.fclass k g)) (rdRRR_wrRRR f))
theorem RoundTrip.frnd (k : Ctl) (f : RRR) : RoundTrip.Statement (.frnd k f) :=
  of_parts _ k 0x108 (wrRRR f) rfl (congrArg (fun g => some (Instr.frnd k g)) (rdRRR_wrRRR f))
theorem RoundTrip.fscale (k : Ctl) (f : RRR) : RoundTrip.Statement (.fscale k f) :=
  of_parts _ k 0x109 (wrRRR f) rfl (congrArg (fun g => some (Instr.fscale k g)) (rdRRR_wrRRR f))
theorem RoundTrip.frcp (k : Ctl) (f : RRR) : RoundTrip.Statement (.frcp k f) :=
  of_parts _ k 0x110 (wrRRR f) rfl (congrArg (fun g => some (Instr.frcp k g)) (rdRRR_wrRRR f))
theorem RoundTrip.frsq (k : Ctl) (f : RRR) : RoundTrip.Statement (.frsq k f) :=
  of_parts _ k 0x111 (wrRRR f) rfl (congrArg (fun g => some (Instr.frsq k g)) (rdRRR_wrRRR f))
theorem RoundTrip.fsqrt (k : Ctl) (f : RRR) : RoundTrip.Statement (.fsqrt k f) :=
  of_parts _ k 0x112 (wrRRR f) rfl (congrArg (fun g => some (Instr.fsqrt k g)) (rdRRR_wrRRR f))
theorem RoundTrip.fexp2 (k : Ctl) (f : RRR) : RoundTrip.Statement (.fexp2 k f) :=
  of_parts _ k 0x113 (wrRRR f) rfl (congrArg (fun g => some (Instr.fexp2 k g)) (rdRRR_wrRRR f))
theorem RoundTrip.flog2 (k : Ctl) (f : RRR) : RoundTrip.Statement (.flog2 k f) :=
  of_parts _ k 0x114 (wrRRR f) rfl (congrArg (fun g => some (Instr.flog2 k g)) (rdRRR_wrRRR f))
theorem RoundTrip.fsin (k : Ctl) (f : RRR) : RoundTrip.Statement (.fsin k f) :=
  of_parts _ k 0x115 (wrRRR f) rfl (congrArg (fun g => some (Instr.fsin k g)) (rdRRR_wrRRR f))
theorem RoundTrip.fcos (k : Ctl) (f : RRR) : RoundTrip.Statement (.fcos k f) :=
  of_parts _ k 0x116 (wrRRR f) rfl (congrArg (fun g => some (Instr.fcos k g)) (rdRRR_wrRRR f))
theorem RoundTrip.ftanh (k : Ctl) (f : RRR) : RoundTrip.Statement (.ftanh k f) :=
  of_parts _ k 0x117 (wrRRR f) rfl (congrArg (fun g => some (Instr.ftanh k g)) (rdRRR_wrRRR f))
theorem RoundTrip.fdiv (k : Ctl) (f : RRR) : RoundTrip.Statement (.fdiv k f) :=
  of_parts _ k 0x118 (wrRRR f) rfl (congrArg (fun g => some (Instr.fdiv k g)) (rdRRR_wrRRR f))
theorem RoundTrip.cvt (k : Ctl) (f : RRR) : RoundTrip.Statement (.cvt k f) :=
  of_parts _ k 0x120 (wrRRR f) rfl (congrArg (fun g => some (Instr.cvt k g)) (rdRRR_wrRRR f))
theorem RoundTrip.cvti (k : Ctl) (f : RRR) : RoundTrip.Statement (.cvti k f) :=
  of_parts _ k 0x121 (wrRRR f) rfl (congrArg (fun g => some (Instr.cvti k g)) (rdRRR_wrRRR f))
theorem RoundTrip.cvtf (k : Ctl) (f : RRR) : RoundTrip.Statement (.cvtf k f) :=
  of_parts _ k 0x122 (wrRRR f) rfl (congrArg (fun g => some (Instr.cvtf k g)) (rdRRR_wrRRR f))
theorem RoundTrip.bscale (k : Ctl) (f : RRR) : RoundTrip.Statement (.bscale k f) :=
  of_parts _ k 0x123 (wrRRR f) rfl (congrArg (fun g => some (Instr.bscale k g)) (rdRRR_wrRRR f))
theorem RoundTrip.fmtq (k : Ctl) (f : RRR) : RoundTrip.Statement (.fmtq k f) :=
  of_parts _ k 0x124 (wrRRR f) rfl (congrArg (fun g => some (Instr.fmtq k g)) (rdRRR_wrRRR f))
theorem RoundTrip.ld (k : Ctl) (f : MEM) : RoundTrip.Statement (.ld k f) :=
  of_parts _ k 0x200 (wrMEM f) rfl (congrArg (fun g => some (Instr.ld k g)) (rdMEM_wrMEM f))
theorem RoundTrip.st (k : Ctl) (f : MEM) : RoundTrip.Statement (.st k f) :=
  of_parts _ k 0x201 (wrMEM f) rfl (congrArg (fun g => some (Instr.st k g)) (rdMEM_wrMEM f))
theorem RoundTrip.cas (k : Ctl) (f : MEM) : RoundTrip.Statement (.cas k f) :=
  of_parts _ k 0x202 (wrMEM f) rfl (congrArg (fun g => some (Instr.cas k g)) (rdMEM_wrMEM f))
theorem RoundTrip.fence (k : Ctl) (f : MEM) : RoundTrip.Statement (.fence k f) :=
  of_parts _ k 0x203 (wrMEM f) rfl (congrArg (fun g => some (Instr.fence k g)) (rdMEM_wrMEM f))
theorem RoundTrip.pref (k : Ctl) (f : MEM) : RoundTrip.Statement (.pref k f) :=
  of_parts _ k 0x204 (wrMEM f) rfl (congrArg (fun g => some (Instr.pref k g)) (rdMEM_wrMEM f))
theorem RoundTrip.cctl (k : Ctl) (f : MEM) : RoundTrip.Statement (.cctl k f) :=
  of_parts _ k 0x205 (wrMEM f) rfl (congrArg (fun g => some (Instr.cctl k g)) (rdMEM_wrMEM f))
theorem RoundTrip.probe (k : Ctl) (f : MEM) : RoundTrip.Statement (.probe k f) :=
  of_parts _ k 0x206 (wrMEM f) rfl (congrArg (fun g => some (Instr.probe k g)) (rdMEM_wrMEM f))
theorem RoundTrip.mapc (k : Ctl) (f : RRR) : RoundTrip.Statement (.mapc k f) :=
  of_parts _ k 0x207 (wrRRR f) rfl (congrArg (fun g => some (Instr.mapc k g)) (rdRRR_wrRRR f))
theorem RoundTrip.atomAdd (k : Ctl) (f : MEM) : RoundTrip.Statement (.atomAdd k f) :=
  of_parts _ k 0x210 (wrMEM f) rfl (congrArg (fun g => some (Instr.atomAdd k g)) (rdMEM_wrMEM f))
theorem RoundTrip.atomMin (k : Ctl) (f : MEM) : RoundTrip.Statement (.atomMin k f) :=
  of_parts _ k 0x211 (wrMEM f) rfl (congrArg (fun g => some (Instr.atomMin k g)) (rdMEM_wrMEM f))
theorem RoundTrip.atomMax (k : Ctl) (f : MEM) : RoundTrip.Statement (.atomMax k f) :=
  of_parts _ k 0x212 (wrMEM f) rfl (congrArg (fun g => some (Instr.atomMax k g)) (rdMEM_wrMEM f))
theorem RoundTrip.atomAnd (k : Ctl) (f : MEM) : RoundTrip.Statement (.atomAnd k f) :=
  of_parts _ k 0x213 (wrMEM f) rfl (congrArg (fun g => some (Instr.atomAnd k g)) (rdMEM_wrMEM f))
theorem RoundTrip.atomOr (k : Ctl) (f : MEM) : RoundTrip.Statement (.atomOr k f) :=
  of_parts _ k 0x214 (wrMEM f) rfl (congrArg (fun g => some (Instr.atomOr k g)) (rdMEM_wrMEM f))
theorem RoundTrip.atomXor (k : Ctl) (f : MEM) : RoundTrip.Statement (.atomXor k f) :=
  of_parts _ k 0x215 (wrMEM f) rfl (congrArg (fun g => some (Instr.atomXor k g)) (rdMEM_wrMEM f))
theorem RoundTrip.atomXchg (k : Ctl) (f : MEM) : RoundTrip.Statement (.atomXchg k f) :=
  of_parts _ k 0x216 (wrMEM f) rfl (congrArg (fun g => some (Instr.atomXchg k g)) (rdMEM_wrMEM f))
theorem RoundTrip.redAdd (k : Ctl) (f : MEM) : RoundTrip.Statement (.redAdd k f) :=
  of_parts _ k 0x220 (wrMEM f) rfl (congrArg (fun g => some (Instr.redAdd k g)) (rdMEM_wrMEM f))
theorem RoundTrip.redMin (k : Ctl) (f : MEM) : RoundTrip.Statement (.redMin k f) :=
  of_parts _ k 0x221 (wrMEM f) rfl (congrArg (fun g => some (Instr.redMin k g)) (rdMEM_wrMEM f))
theorem RoundTrip.redMax (k : Ctl) (f : MEM) : RoundTrip.Statement (.redMax k f) :=
  of_parts _ k 0x222 (wrMEM f) rfl (congrArg (fun g => some (Instr.redMax k g)) (rdMEM_wrMEM f))
theorem RoundTrip.redAnd (k : Ctl) (f : MEM) : RoundTrip.Statement (.redAnd k f) :=
  of_parts _ k 0x223 (wrMEM f) rfl (congrArg (fun g => some (Instr.redAnd k g)) (rdMEM_wrMEM f))
theorem RoundTrip.redOr (k : Ctl) (f : MEM) : RoundTrip.Statement (.redOr k f) :=
  of_parts _ k 0x224 (wrMEM f) rfl (congrArg (fun g => some (Instr.redOr k g)) (rdMEM_wrMEM f))
theorem RoundTrip.redXor (k : Ctl) (f : MEM) : RoundTrip.Statement (.redXor k f) :=
  of_parts _ k 0x225 (wrMEM f) rfl (congrArg (fun g => some (Instr.redXor k g)) (rdMEM_wrMEM f))
theorem RoundTrip.wbind (k : Ctl) (f : ASY) : RoundTrip.Statement (.wbind k f) :=
  of_parts _ k 0x300 (wrASY f) rfl (congrArg (fun g => some (Instr.wbind k g)) (rdASY_wrASY f))
theorem RoundTrip.wtouch (k : Ctl) (f : ASY) : RoundTrip.Statement (.wtouch k f) :=
  of_parts _ k 0x301 (wrASY f) rfl (congrArg (fun g => some (Instr.wtouch k g)) (rdASY_wrASY f))
theorem RoundTrip.wstat (k : Ctl) (f : ASY) : RoundTrip.Statement (.wstat k f) :=
  of_parts _ k 0x302 (wrASY f) rfl (congrArg (fun g => some (Instr.wstat k g)) (rdASY_wrASY f))
theorem RoundTrip.wdrop (k : Ctl) (f : ASY) : RoundTrip.Statement (.wdrop k f) :=
  of_parts _ k 0x303 (wrASY f) rfl (congrArg (fun g => some (Instr.wdrop k g)) (rdASY_wrASY f))
theorem RoundTrip.wflush (k : Ctl) (f : ASY) : RoundTrip.Statement (.wflush k f) :=
  of_parts _ k 0x304 (wrASY f) rfl (congrArg (fun g => some (Instr.wflush k g)) (rdASY_wrASY f))
theorem RoundTrip.cntwait (k : Ctl) (f : ASY) : RoundTrip.Statement (.cntwait k f) :=
  of_parts _ k 0x305 (wrASY f) rfl (congrArg (fun g => some (Instr.cntwait k g)) (rdASY_wrASY f))
theorem RoundTrip.binit (k : Ctl) (f : ASY) : RoundTrip.Statement (.binit k f) :=
  of_parts _ k 0x340 (wrASY f) rfl (congrArg (fun g => some (Instr.binit k g)) (rdASY_wrASY f))
theorem RoundTrip.barr (k : Ctl) (f : ASY) : RoundTrip.Statement (.barr k f) :=
  of_parts _ k 0x341 (wrASY f) rfl (congrArg (fun g => some (Instr.barr k g)) (rdASY_wrASY f))
theorem RoundTrip.bwait (k : Ctl) (f : ASY) : RoundTrip.Statement (.bwait k f) :=
  of_parts _ k 0x342 (wrASY f) rfl (congrArg (fun g => some (Instr.bwait k g)) (rdASY_wrASY f))
theorem RoundTrip.barw (k : Ctl) (f : ASY) : RoundTrip.Statement (.barw k f) :=
  of_parts _ k 0x343 (wrASY f) rfl (congrArg (fun g => some (Instr.barw k g)) (rdASY_wrASY f))
theorem RoundTrip.bexp (k : Ctl) (f : ASY) : RoundTrip.Statement (.bexp k f) :=
  of_parts _ k 0x344 (wrASY f) rfl (congrArg (fun g => some (Instr.bexp k g)) (rdASY_wrASY f))
theorem RoundTrip.binv (k : Ctl) (f : ASY) : RoundTrip.Statement (.binv k f) :=
  of_parts _ k 0x345 (wrASY f) rfl (congrArg (fun g => some (Instr.binv k g)) (rdASY_wrASY f))
theorem RoundTrip.mma (k : Ctl) (f : MAT) : RoundTrip.Statement (.mma k f) :=
  of_parts _ k 0x380 (wrMAT f) rfl (congrArg (fun g => some (Instr.mma k g)) (rdMAT_wrMAT f))
theorem RoundTrip.mmaz (k : Ctl) (f : MAT) : RoundTrip.Statement (.mmaz k f) :=
  of_parts _ k 0x381 (wrMAT f) rfl (congrArg (fun g => some (Instr.mmaz k g)) (rdMAT_wrMAT f))
theorem RoundTrip.zld (k : Ctl) (f : MAT) : RoundTrip.Statement (.zld k f) :=
  of_parts _ k 0x382 (wrMAT f) rfl (congrArg (fun g => some (Instr.zld k g)) (rdMAT_wrMAT f))
theorem RoundTrip.zst (k : Ctl) (f : MAT) : RoundTrip.Statement (.zst k f) :=
  of_parts _ k 0x383 (wrMAT f) rfl (congrArg (fun g => some (Instr.zst k g)) (rdMAT_wrMAT f))
theorem RoundTrip.zmov (k : Ctl) (f : MAT) : RoundTrip.Statement (.zmov k f) :=
  of_parts _ k 0x384 (wrMAT f) rfl (congrArg (fun g => some (Instr.zmov k g)) (rdMAT_wrMAT f))
theorem RoundTrip.zrmax (k : Ctl) (f : MAT) : RoundTrip.Statement (.zrmax k f) :=
  of_parts _ k 0x385 (wrMAT f) rfl (congrArg (fun g => some (Instr.zrmax k g)) (rdMAT_wrMAT f))
theorem RoundTrip.zrscale (k : Ctl) (f : MAT) : RoundTrip.Statement (.zrscale k f) :=
  of_parts _ k 0x386 (wrMAT f) rfl (congrArg (fun g => some (Instr.zrscale k g)) (rdMAT_wrMAT f))
theorem RoundTrip.bra (k : Ctl) (f : BR) : RoundTrip.Statement (.bra k f) :=
  of_parts _ k 0x400 (wrBR f) rfl (congrArg (fun g => some (Instr.bra k g)) (rdBR_wrBR f))
theorem RoundTrip.brx (k : Ctl) (f : BR) : RoundTrip.Statement (.brx k f) :=
  of_parts _ k 0x401 (wrBR f) rfl (congrArg (fun g => some (Instr.brx k g)) (rdBR_wrBR f))
theorem RoundTrip.call (k : Ctl) (f : BR) : RoundTrip.Statement (.call k f) :=
  of_parts _ k 0x402 (wrBR f) rfl (congrArg (fun g => some (Instr.call k g)) (rdBR_wrBR f))
theorem RoundTrip.callx (k : Ctl) (f : BR) : RoundTrip.Statement (.callx k f) :=
  of_parts _ k 0x403 (wrBR f) rfl (congrArg (fun g => some (Instr.callx k g)) (rdBR_wrBR f))
theorem RoundTrip.ret (k : Ctl) (f : BR) : RoundTrip.Statement (.ret k f) :=
  of_parts _ k 0x404 (wrBR f) rfl (congrArg (fun g => some (Instr.ret k g)) (rdBR_wrBR f))
theorem RoundTrip.exit (k : Ctl) (f : SYS) : RoundTrip.Statement (.exit k f) :=
  of_parts _ k 0x405 (wrSYS f) rfl (congrArg (fun g => some (Instr.exit k g)) (rdSYS_wrSYS f))
theorem RoundTrip.yield (k : Ctl) (f : SYS) : RoundTrip.Statement (.yield k f) :=
  of_parts _ k 0x406 (wrSYS f) rfl (congrArg (fun g => some (Instr.yield k g)) (rdSYS_wrSYS f))
theorem RoundTrip.sleep (k : Ctl) (f : SYS) : RoundTrip.Statement (.sleep k f) :=
  of_parts _ k 0x407 (wrSYS f) rfl (congrArg (fun g => some (Instr.sleep k g)) (rdSYS_wrSYS f))
theorem RoundTrip.nop (k : Ctl) (f : SYS) : RoundTrip.Statement (.nop k f) :=
  of_parts _ k 0x408 (wrSYS f) rfl (congrArg (fun g => some (Instr.nop k g)) (rdSYS_wrSYS f))
theorem RoundTrip.regq (k : Ctl) (f : SYS) : RoundTrip.Statement (.regq k f) :=
  of_parts _ k 0x409 (wrSYS f) rfl (congrArg (fun g => some (Instr.regq k g)) (rdSYS_wrSYS f))
theorem RoundTrip.rres (k : Ctl) (f : ASY) : RoundTrip.Statement (.rres k f) :=
  of_parts _ k 0x480 (wrASY f) rfl (congrArg (fun g => some (Instr.rres k g)) (rdASY_wrASY f))
theorem RoundTrip.remit (k : Ctl) (f : ASY) : RoundTrip.Statement (.remit k f) :=
  of_parts _ k 0x481 (wrASY f) rfl (congrArg (fun g => some (Instr.remit k g)) (rdASY_wrASY f))
theorem RoundTrip.rcancel (k : Ctl) (f : ASY) : RoundTrip.Statement (.rcancel k f) :=
  of_parts _ k 0x482 (wrASY f) rfl (congrArg (fun g => some (Instr.rcancel k g)) (rdASY_wrASY f))
theorem RoundTrip.fetch (k : Ctl) (f : ASY) : RoundTrip.Statement (.fetch k f) :=
  of_parts _ k 0x483 (wrASY f) rfl (congrArg (fun g => some (Instr.fetch k g)) (rdASY_wrASY f))
theorem RoundTrip.txbegin (k : Ctl) (f : BR) : RoundTrip.Statement (.txbegin k f) :=
  of_parts _ k 0x500 (wrBR f) rfl (congrArg (fun g => some (Instr.txbegin k g)) (rdBR_wrBR f))
theorem RoundTrip.txend (k : Ctl) (f : ASY) : RoundTrip.Statement (.txend k f) :=
  of_parts _ k 0x501 (wrASY f) rfl (congrArg (fun g => some (Instr.txend k g)) (rdASY_wrASY f))
theorem RoundTrip.txabort (k : Ctl) (f : ASY) : RoundTrip.Statement (.txabort k f) :=
  of_parts _ k 0x502 (wrASY f) rfl (congrArg (fun g => some (Instr.txabort k g)) (rdASY_wrASY f))
theorem RoundTrip.txstat (k : Ctl) (f : ASY) : RoundTrip.Statement (.txstat k f) :=
  of_parts _ k 0x503 (wrASY f) rfl (congrArg (fun g => some (Instr.txstat k g)) (rdASY_wrASY f))
theorem RoundTrip.trap (k : Ctl) (f : SYS) : RoundTrip.Statement (.trap k f) :=
  of_parts _ k 0x540 (wrSYS f) rfl (congrArg (fun g => some (Instr.trap k g)) (rdSYS_wrSYS f))
theorem RoundTrip.bkpt (k : Ctl) (f : SYS) : RoundTrip.Statement (.bkpt k f) :=
  of_parts _ k 0x541 (wrSYS f) rfl (congrArg (fun g => some (Instr.bkpt k g)) (rdSYS_wrSYS f))
theorem RoundTrip.hret (k : Ctl) (f : SYS) : RoundTrip.Statement (.hret k f) :=
  of_parts _ k 0x542 (wrSYS f) rfl (congrArg (fun g => some (Instr.hret k g)) (rdSYS_wrSYS f))
theorem RoundTrip.qpost (k : Ctl) (f : SYS) : RoundTrip.Statement (.qpost k f) :=
  of_parts _ k 0x543 (wrSYS f) rfl (congrArg (fun g => some (Instr.qpost k g)) (rdSYS_wrSYS f))
theorem RoundTrip.ckpt (k : Ctl) (f : SYS) : RoundTrip.Statement (.ckpt k f) :=
  of_parts _ k 0x544 (wrSYS f) rfl (congrArg (fun g => some (Instr.ckpt k g)) (rdSYS_wrSYS f))
theorem RoundTrip.issueSelection (core grp course : Nat) : RoundTrip.Statement (.issueSelection core grp course) := of_none _ rfl
theorem RoundTrip.lineFill (core grp : Nat) (line : Word) : RoundTrip.Statement (.lineFill core grp line) := of_none _ rfl
theorem RoundTrip.longLatencyComplete (grp course index : Nat) : RoundTrip.Statement (.longLatencyComplete grp course index) := of_none _ rfl
theorem RoundTrip.laneReplay (grp course lane : Nat) : RoundTrip.Statement (.laneReplay grp course lane) := of_none _ rfl
theorem RoundTrip.returnStackFillReturn (grp course lane : Nat) : RoundTrip.Statement (.returnStackFillReturn grp course lane) := of_none _ rfl
theorem RoundTrip.sleepExpire (grp course lane : Nat) : RoundTrip.Statement (.sleepExpire grp course lane) := of_none _ rfl
theorem RoundTrip.handlerEntry (core : Nat) : RoundTrip.Statement (.handlerEntry core) := of_none _ rfl
theorem RoundTrip.regqGrant (grp role : Nat) : RoundTrip.Statement (.regqGrant grp role) := of_none _ rfl
theorem RoundTrip.windowSectorArrival (grp win sector : Nat) : RoundTrip.Statement (.windowSectorArrival grp win sector) := of_none _ rfl
theorem RoundTrip.windowSectorFault (grp win sector : Nat) : RoundTrip.Statement (.windowSectorFault grp win sector) := of_none _ rfl
theorem RoundTrip.wflushComplete (grp win : Nat) : RoundTrip.Statement (.wflushComplete grp win) := of_none _ rfl
theorem RoundTrip.storeAcceptedAtHome (grp course : Nat) : RoundTrip.Statement (.storeAcceptedAtHome grp course) := of_none _ rfl
theorem RoundTrip.matrixEntryStart (core : Nat) : RoundTrip.Statement (.matrixEntryStart core) := of_none _ rfl
theorem RoundTrip.matrixEntryRetire (core : Nat) : RoundTrip.Statement (.matrixEntryRetire core) := of_none _ rfl
theorem RoundTrip.txVerdict (grp course : Nat) : RoundTrip.Statement (.txVerdict grp course) := of_none _ rfl
theorem RoundTrip.recordPublished (launch : Nat) : RoundTrip.Statement (.recordPublished launch) := of_none _ rfl
theorem RoundTrip.coalescingTimerExpire (launch node key : Nat) : RoundTrip.Statement (.coalescingTimerExpire launch node key) := of_none _ rfl
theorem RoundTrip.rresGrant (launch : Nat) : RoundTrip.Statement (.rresGrant launch) := of_none _ rfl
theorem RoundTrip.groupPlace (places : List Place) : RoundTrip.Statement (.groupPlace places) := of_none _ rfl
theorem RoundTrip.groupPlacementComplete (grp : Nat) : RoundTrip.Statement (.groupPlacementComplete grp) := of_none _ rfl
theorem RoundTrip.groupRetire (grp : Nat) : RoundTrip.Statement (.groupRetire grp) := of_none _ rfl
theorem RoundTrip.fmtBind (hdr : PktHdr) (slot : BitVec 8) (image : Word) : RoundTrip.Statement (.fmtBind hdr slot image) := of_none _ rfl
theorem RoundTrip.fmtRelease (hdr : PktHdr) (slot : BitVec 8) : RoundTrip.Statement (.fmtRelease hdr slot) := of_none _ rfl
theorem RoundTrip.fmtVerifyComplete (part slot : Nat) : RoundTrip.Statement (.fmtVerifyComplete part slot) := of_none _ rfl
theorem RoundTrip.fmtSlotEnable (part slot core : Nat) : RoundTrip.Statement (.fmtSlotEnable part slot core) := of_none _ rfl
theorem RoundTrip.fmtSlotDisable (part slot core : Nat) : RoundTrip.Statement (.fmtSlotDisable part slot core) := of_none _ rfl
theorem RoundTrip.fmtDrainComplete (part slot : Nat) : RoundTrip.Statement (.fmtDrainComplete part slot) := of_none _ rfl
theorem RoundTrip.codePageCheckComplete (obj page : Nat) : RoundTrip.Statement (.codePageCheckComplete obj page) := of_none _ rfl
theorem RoundTrip.objectLoadComplete (obj : Nat) : RoundTrip.Statement (.objectLoadComplete obj) := of_none _ rfl
theorem RoundTrip.objectDrainComplete (obj : Nat) : RoundTrip.Statement (.objectDrainComplete obj) := of_none _ rfl
theorem RoundTrip.ctxCreate (fn : Nat) (ctxid : BitVec 16) : RoundTrip.Statement (.ctxCreate fn ctxid) := of_none _ rfl
theorem RoundTrip.ctxDestroy (fn : Nat) (ctxid : BitVec 16) : RoundTrip.Statement (.ctxDestroy fn ctxid) := of_none _ rfl
theorem RoundTrip.loadObject (fn : Nat) (ctxid : BitVec 16) : RoundTrip.Statement (.loadObject fn ctxid) := of_none _ rfl
theorem RoundTrip.unloadObject (fn : Nat) (ctxid : BitVec 16) : RoundTrip.Statement (.unloadObject fn ctxid) := of_none _ rfl
theorem RoundTrip.save (fn : Nat) (ctxid : BitVec 16) : RoundTrip.Statement (.save fn ctxid) := of_none _ rfl
theorem RoundTrip.restore (fn : Nat) (ctxid : BitVec 16) : RoundTrip.Statement (.restore fn ctxid) := of_none _ rfl
theorem RoundTrip.checkpoint (fn : Nat) (ctxid : BitVec 16) : RoundTrip.Statement (.checkpoint fn ctxid) := of_none _ rfl
theorem RoundTrip.haltArrival (grps : List Nat) : RoundTrip.Statement (.haltArrival grps) := of_none _ rfl
theorem RoundTrip.saveComplete (grp : Nat) : RoundTrip.Statement (.saveComplete grp) := of_none _ rfl
theorem RoundTrip.preemptRequest (part : Nat) : RoundTrip.Statement (.preemptRequest part) := of_none _ rfl
theorem RoundTrip.qCreate (fn : Nat) (qid : BitVec 16) : RoundTrip.Statement (.qCreate fn qid) := of_none _ rfl
theorem RoundTrip.qDestroy (fn : Nat) (qid : BitVec 16) : RoundTrip.Statement (.qDestroy fn qid) := of_none _ rfl
theorem RoundTrip.qClear (fn : Nat) (qid : BitVec 16) : RoundTrip.Statement (.qClear fn qid) := of_none _ rfl
theorem RoundTrip.notifyWrite (fn : Nat) (qid : BitVec 16) (value : NotifyVal) : RoundTrip.Statement (.notifyWrite fn qid value) := of_none _ rfl
theorem RoundTrip.queueMap (part : Nat) : RoundTrip.Statement (.queueMap part) := of_none _ rfl
theorem RoundTrip.packetStart (queue : Nat) : RoundTrip.Statement (.packetStart queue) := of_none _ rfl
theorem RoundTrip.launchGraph (hdr : PktHdr) (body : LaunchBody) : RoundTrip.Statement (.launchGraph hdr body) := of_none _ rfl
theorem RoundTrip.copy (hdr : PktHdr) (src dst len : Word) : RoundTrip.Statement (.copy hdr src dst len) := of_none _ rfl
theorem RoundTrip.fill (hdr : PktHdr) (dst len pattern : Word) : RoundTrip.Statement (.fill hdr dst len pattern) := of_none _ rfl
theorem RoundTrip.waitMem (hdr : PktHdr) (body : WaitBody) : RoundTrip.Statement (.waitMem hdr body) := of_none _ rfl
theorem RoundTrip.waitMemRetest (queue : Nat) : RoundTrip.Statement (.waitMemRetest queue) := of_none _ rfl
theorem RoundTrip.waitMemPoll (queue : Nat) : RoundTrip.Statement (.waitMemPoll queue) := of_none _ rfl
theorem RoundTrip.waitMemTimeout (queue : Nat) : RoundTrip.Statement (.waitMemTimeout queue) := of_none _ rfl
theorem RoundTrip.signalMem (hdr : PktHdr) (addr value : Word) (add : Bool) (wide : Bool) : RoundTrip.Statement (.signalMem hdr addr value add wide) := of_none _ rfl
theorem RoundTrip.event (hdr : PktHdr) (data : Word) : RoundTrip.Statement (.event hdr data) := of_none _ rfl
theorem RoundTrip.resync (hdr : PktHdr) (buf : Word) (len : BitVec 32) : RoundTrip.Statement (.resync hdr buf len) := of_none _ rfl
theorem RoundTrip.packetComplete (queue : Nat) (index : BitVec 32) (status : BitVec 8) : RoundTrip.Statement (.packetComplete queue index status) := of_none _ rfl
theorem RoundTrip.eventRecordWrite (part : Nat) : RoundTrip.Statement (.eventRecordWrite part) := of_none _ rfl
theorem RoundTrip.evtHeadWrite (fn : Nat) (value : Word) : RoundTrip.Statement (.evtHeadWrite fn value) := of_none _ rfl
theorem RoundTrip.fnPauseWrite (vf : Nat) (value : Word) : RoundTrip.Statement (.fnPauseWrite vf value) := of_none _ rfl
theorem RoundTrip.functionLevelReset (fn : Nat) : RoundTrip.Statement (.functionLevelReset fn) := of_none _ rfl
theorem RoundTrip.weightWrite (part owner : Nat) (value : Byte) : RoundTrip.Statement (.weightWrite part owner value) := of_none _ rfl
theorem RoundTrip.prqEntryWrite (fn stage : Nat) : RoundTrip.Statement (.prqEntryWrite fn stage) := of_none _ rfl
theorem RoundTrip.prqReply (fn stage : Nat) (value : Word) : RoundTrip.Statement (.prqReply fn stage value) := of_none _ rfl
theorem RoundTrip.prqBaseWrite (fn stage : Nat) (value : Word) : RoundTrip.Statement (.prqBaseWrite fn stage value) := of_none _ rfl
theorem RoundTrip.invContextAll (fn : Nat) (ctxid seq : BitVec 16) : RoundTrip.Statement (.invContextAll fn ctxid seq) := of_none _ rfl
theorem RoundTrip.invContextRange (fn : Nat) (ctxid : BitVec 16) (pages : BitVec 6) (seq : BitVec 16) : RoundTrip.Statement (.invContextRange fn ctxid pages seq) := of_none _ rfl
theorem RoundTrip.invStage2All (fn : Nat) (seq : BitVec 16) : RoundTrip.Statement (.invStage2All fn seq) := of_none _ rfl
theorem RoundTrip.invStage2Range (fn : Nat) (pages : BitVec 6) (seq : BitVec 16) : RoundTrip.Statement (.invStage2Range fn pages seq) := of_none _ rfl
theorem RoundTrip.invComplete (fn : Nat) : RoundTrip.Statement (.invComplete fn) := of_none _ rfl
theorem RoundTrip.atsCompletion (fn : Nat) (addr : Word) (pasid : BitVec 20) (read write : Bool) (translated : Word) : RoundTrip.Statement (.atsCompletion fn addr pasid read write translated) := of_none _ rfl
theorem RoundTrip.prgResponse (fn : Nat) (index : BitVec 9) (code : BitVec 4) : RoundTrip.Statement (.prgResponse fn index code) := of_none _ rfl
theorem RoundTrip.atsInvalidateRequest (fn : Nat) (addr : Word) (pages : Nat) : RoundTrip.Statement (.atsInvalidateRequest fn addr pages) := of_none _ rfl
theorem RoundTrip.hostAccess (part : Nat) (acc : HostAcc) : RoundTrip.Statement (.hostAccess part acc) := of_none _ rfl
theorem RoundTrip.partCreate (fn : Nat) (block : CmdBlock) : RoundTrip.Statement (.partCreate fn block) := of_none _ rfl
theorem RoundTrip.partDestroy (fn : Nat) (block : CmdBlock) : RoundTrip.Statement (.partDestroy fn block) := of_none _ rfl
theorem RoundTrip.partGrow (fn : Nat) (block : CmdBlock) : RoundTrip.Statement (.partGrow fn block) := of_none _ rfl
theorem RoundTrip.partShrink (fn : Nat) (block : CmdBlock) : RoundTrip.Statement (.partShrink fn block) := of_none _ rfl
theorem RoundTrip.shareSet (fn : Nat) (block : CmdBlock) : RoundTrip.Statement (.shareSet fn block) := of_none _ rfl
theorem RoundTrip.lend (fn : Nat) (block : CmdBlock) : RoundTrip.Statement (.lend fn block) := of_none _ rfl
theorem RoundTrip.recall (fn : Nat) (block : CmdBlock) : RoundTrip.Statement (.recall fn block) := of_none _ rfl
theorem RoundTrip.keyEnroll (fn : Nat) (block : CmdBlock) : RoundTrip.Statement (.keyEnroll fn block) := of_none _ rfl
theorem RoundTrip.meterReport (fn : Nat) (block : CmdBlock) : RoundTrip.Statement (.meterReport fn block) := of_none _ rfl
theorem RoundTrip.meterSeed (fn : Nat) (block : CmdBlock) : RoundTrip.Statement (.meterSeed fn block) := of_none _ rfl
theorem RoundTrip.wayMoveEpoch (slice : Nat) : RoundTrip.Statement (.wayMoveEpoch slice) := of_none _ rfl
theorem RoundTrip.lnkReset (fn port : Nat) : RoundTrip.Statement (.lnkReset fn port) := of_none _ rfl
theorem RoundTrip.partnerDetect (port : Nat) (remote : BitVec 4) : RoundTrip.Statement (.partnerDetect port remote) := of_none _ rfl
theorem RoundTrip.trainingComplete (port goodLanes : Nat) : RoundTrip.Statement (.trainingComplete port goodLanes) := of_none _ rfl
theorem RoundTrip.trainingTimeout (port : Nat) : RoundTrip.Statement (.trainingTimeout port) := of_none _ rfl
theorem RoundTrip.linkFailure (port : Nat) (lossOfSignal : Bool) : RoundTrip.Statement (.linkFailure port lossOfSignal) := of_none _ rfl
theorem RoundTrip.flitReceive (port : Nat) (seq ack : BitVec 12) (kind : BitVec 8) (checkOk : Bool) : RoundTrip.Statement (.flitReceive port seq ack kind checkOk) := of_none _ rfl
theorem RoundTrip.peerRequestReceive (port : Nat) (acc : HostAcc) : RoundTrip.Statement (.peerRequestReceive port acc) := of_none _ rfl
theorem RoundTrip.pcieLinkDown (pair : Nat) : RoundTrip.Statement (.pcieLinkDown pair) := of_none _ rfl
theorem RoundTrip.dump (fn : Nat) (value : Word) : RoundTrip.Statement (.dump fn value) := of_none _ rfl
theorem RoundTrip.dumpComplete : RoundTrip.Statement .dumpComplete := of_none _ rfl
theorem RoundTrip.lockInterfaceRequest (vf stream session : Nat) : RoundTrip.Statement (.lockInterfaceRequest vf stream session) := of_none _ rfl
theorem RoundTrip.startInterfaceRequest (vf : Nat) : RoundTrip.Statement (.startInterfaceRequest vf) := of_none _ rfl
theorem RoundTrip.stopInterfaceRequest (vf : Nat) : RoundTrip.Statement (.stopInterfaceRequest vf) := of_none _ rfl
theorem RoundTrip.getDeviceInterfaceReport (vf : Nat) : RoundTrip.Statement (.getDeviceInterfaceReport vf) := of_none _ rfl
theorem RoundTrip.tdiError (vf : Nat) : RoundTrip.Statement (.tdiError vf) := of_none _ rfl
theorem RoundTrip.getCertificate : RoundTrip.Statement .getCertificate := of_none _ rfl
theorem RoundTrip.getMeasurements (index : BitVec 8) : RoundTrip.Statement (.getMeasurements index) := of_none _ rfl
theorem RoundTrip.writeSlot (slotB : Bool) : RoundTrip.Statement (.writeSlot slotB) := of_none _ rfl
theorem RoundTrip.setMarker (slotB : Bool) : RoundTrip.Statement (.setMarker slotB) := of_none _ rfl
theorem RoundTrip.commitSvn : RoundTrip.Statement .commitSvn := of_none _ rfl
theorem RoundTrip.ownerFuse : RoundTrip.Statement .ownerFuse := of_none _ rfl
theorem RoundTrip.writeConfig : RoundTrip.Statement .writeConfig := of_none _ rfl
theorem RoundTrip.boot : RoundTrip.Statement .boot := of_none _ rfl
theorem RoundTrip.softError (site : ErrSite) : RoundTrip.Statement (.softError site) := of_none _ rfl
theorem RoundTrip.patrolScrub (sector : Nat) : RoundTrip.Statement (.patrolScrub sector) := of_none _ rfl
theorem RoundTrip.katConfirmed (cluster : Nat) : RoundTrip.Statement (.katConfirmed cluster) := of_none _ rfl
theorem RoundTrip.registerWrite (fn : Nat) (off : BitVec 20) (value : Word) : RoundTrip.Statement (.registerWrite fn off value) := of_none _ rfl
theorem RoundTrip.powerLoss : RoundTrip.Statement .powerLoss := of_none _ rfl
theorem RoundTrip.ideKmKeyProg (fn stream : Nat) (key : BitVec 256) : RoundTrip.Statement (.ideKmKeyProg fn stream key) := of_none _ rfl
theorem RoundTrip.securedSpdmSession (session : Nat) (up : Bool) : RoundTrip.Statement (.securedSpdmSession session up) := of_none _ rfl

end Sys2Proof.Laws
end

