-- ==== Sys2Proof/Tests/Slice0.lean ====
section
/-!
SUPPORT. Small tests of the model, each on one decode or one step, and for the statements of Certificates/Slice0 the concrete
states and operands that meet their hypotheses. The expected values of the tests are worked out by hand from the rules of
spec/ that the comments name.
-/

namespace Sys2Proof.Tests

open Sys2Proof.Machine

-- One theorem after another: elaborated all at once they ask for more threads than a small machine gives.
set_option Elab.async false

/-! ### Ill-formed instructions: the check refuses each (R73, R75 to R86) -/

def pt : Ctl := ⟨0, 15, 0, 15⟩
def rrr (d a b c : BitVec 8) : RRR := ⟨d, a, b, c, 0, 0, 0, 0, 0, 0, 0, 0, 3, 0, 0, 0⟩
def flt (d a b c : BitVec 8) : RRR := ⟨d, a, b, c, 0, 0, 0, 0, 0, 0, 0, 0, 0, 0, 0, 0⟩
def rri (d a : BitVec 8) (imm : BitVec 32) : RRI := ⟨d, a, 0, 0, 0, 3, imm⟩
def mem (d base index : BitVec 8) : MEM := ⟨d, base, index, 1, 0, 0, 3, 0, 0, 0⟩
def asy : ASY := ⟨0, 0, 0, 0, 0, 0, 0, 0, 0, 0, 0, 0⟩
def sys : SYS := ⟨0, 0, 0, 0, 0, 0, 0⟩
def br : BR := ⟨0, 0, 0, 0, 0, 0⟩
def mat : MAT := ⟨0, 0, 0, 0, 0, 0, 0, 0, 0, 0, 0, 0, 0, 0, 0, 0⟩

theorem test_wf_iadd : formOk (.iadd pt (rrr 255 255 255 0)) = true := by decide
theorem test_wf_setf_short : formOk (.iadd { pt with setf := 0 } (rrr 1 2 3 0)) = false := by decide
theorem test_wf_setf_reserved : formOk (.ld { pt with setf := 12 } (mem 1 2 0)) = false := by decide
theorem test_wf_unused_operand : formOk (.ineg pt (rrr 1 2 3 0)) = false := by decide
theorem test_wf_unused_class : formOk (.ineg pt { rrr 1 2 0 0 with bcls := 1 }) = false := by decide
theorem test_wf_dest_class : formOk (.iadd pt { rrr 1 2 3 0 with dcls := 2 }) = false := by decide
theorem test_wf_source_class : formOk (.iadd pt { rrr 1 2 3 0 with acls := 2 }) = false := by decide
theorem test_wf_s_index : formOk (.iadd pt { rrr 64 2 3 0 with dcls := 1 }) = false := by decide
theorem test_wf_p_index : formOk (.plop pt { rrr 16 2 3 4 with acls := 2, bcls := 2, ccls := 2, dcls := 2 }) = false := by decide
theorem test_wf_ty : formOk (.iadd pt { rrr 1 2 3 0 with ty := 2 }) = false := by decide
theorem test_wf_tyb : formOk (.icmp pt { rrr 1 2 3 0 with tyb := 6 }) = false := by decide
theorem test_wf_rm_integer : formOk (.iadd pt { rrr 1 2 3 0 with rm := 1 }) = false := by decide
theorem test_wf_rm_reserved : formOk (.fadd pt { flt 1 2 3 0 with rm := 6 }) = false := by decide
theorem test_wf_sat : formOk (.imin pt { rrr 1 2 3 0 with sat := 1 }) = false := by decide
theorem test_wf_es_float : formOk (.fadd pt (rrr 1 2 3 0)) = false := by decide
theorem test_wf_xl : formOk (.iadd pt { rrr 1 2 3 0 with xl := 1 }) = false := by decide
theorem test_wf_xl_pt : formOk (.shfl pt { rrr 1 2 3 0 with xl := 1, xp := 15 }) = false := by decide
theorem test_wf_xl_reserved : formOk (.shfl pt { rrr 1 2 3 0 with xl := 2 }) = false := by decide
theorem test_wf_mod : formOk (.iadd pt { rrr 1 2 3 0 with mod := 1 }) = false := by decide
theorem test_wf_rri_class : formOk (.iaddImm pt { rri 1 2 3 with dcls := 3 }) = false := by decide
theorem test_wf_rri_ty : formOk (.iaddImm pt { rri 1 2 3 with ty := 2 }) = false := by decide
theorem test_wf_rri_mod : formOk (.iaddImm pt { rri 1 2 3 with mod := 0x80 }) = false := by decide
theorem test_wf_rri_sub : formOk (.icmpImm pt { rri 1 2 3 with mod := 0x33 }) = false := by decide
theorem test_wf_movi : formOk (.movi pt { rri 1 0 3 with ty := 1, mod := 1 }) = false := by decide
theorem test_wf_mem_base : formOk (.ld pt { mem 1 64 0 with bcls := 1 }) = false := by decide
theorem test_wf_mem_index : formOk (.ld pt (mem 1 2 3)) = false := by decide
theorem test_wf_mem_width : formOk (.ld pt { mem 1 2 0 with width := 6 }) = false := by decide
theorem test_wf_mem_last_register : formOk (.ld pt { mem 253 2 0 with width := 5 }) = false := by decide
theorem test_wf_mem_order : formOk (.ld pt { mem 1 2 0 with order := 3 }) = false := by decide
theorem test_wf_mem_scope : formOk (.ld pt { mem 1 2 0 with order := 1, scope := 5 }) = false := by decide
theorem test_wf_mem_weak_scope : formOk (.ld pt { mem 1 2 0 with scope := 1 }) = false := by decide
theorem test_wf_atom_width : formOk (.atomMin pt { mem 1 2 3 with order := 1, width := 4 }) = false := by decide
theorem test_wf_red_dest : formOk (.redAdd pt { mem 1 2 3 with order := 1 }) = false := by decide
theorem test_wf_cas_pair : formOk (.cas pt { mem 1 2 255 with order := 1 }) = false := by decide
theorem test_wf_fence : formOk (.fence pt { mem 0 0 0 with space := 0, order := 1, width := 0 }) = false := by decide
theorem test_wf_cctl : formOk (.cctl pt { mem 3 2 0 with space := 0, width := 0 }) = false := by decide
theorem test_wf_br_slot : formOk (.bra pt { br with slot := 5 }) = false := by decide
theorem test_wf_br_reserved : formOk (.bra pt { br with rsv := 1 }) = false := by decide
theorem test_wf_ret_payload : formOk (.ret pt { br with loff := 1 }) = false := by decide
theorem test_wf_mat_bcls : formOk (.mma pt { mat with bcls := 2 }) = false := by decide
theorem test_wf_mat_registers : formOk (.mma pt { mat with va := 249 }) = false := by decide
theorem test_wf_mat_scales : formOk (.mma pt { mat with ssc := 1 }) = false := by decide
theorem test_wf_mat_sparse : formOk (.mma pt { mat with vx := 1 }) = false := by decide
theorem test_wf_zst_rm : formOk (.zst pt { mat with rm := 5 }) = false := by decide
theorem test_wf_asy_class : formOk (.wbind pt { asy with acls := 2, bcls := 1 }) = false := by decide
theorem test_wf_asy_engine : formOk (.cntwait pt { asy with ccls := 4 }) = false := by decide
theorem test_wf_asy_unused : formOk (.wtouch pt { asy with node := 1 }) = false := by decide
theorem test_wf_sys_reserved : formOk (.nop pt { sys with rsv := 1 }) = false := by decide
theorem test_wf_spr_read : formOk (.movs pt { sys with spr := 0x18 }) = false := by decide
theorem test_wf_spr_write : formOk (.movss pt { sys with spr := 0 }) = false := by decide
theorem test_wf_regq : formOk (.regq pt { sys with code := 12 }) = false := by decide
theorem test_wf_step : formOk .boot = true := by decide

/-! ### Words of spec/04_encoding.md -/

/-- NOP, as R85 writes it out. -/
theorem test_decode_nop : decode 0x000F7C080000000000000000 = .ok (.nop pt sys) := by rfl
/-- The BRA of R81's example. -/
theorem test_decode_bra : decode 0x000F7C00FFFFFFFD20000000 = .ok (.bra pt { br with loff := 0xFFFFFFFD, slot := 1 }) := by rfl
/-- IADD S3 = S1 + 0xFF (class 3), unsigned bytes: classes 01 11 00 01, TY 1, ES 0. -/
theorem test_decode_iadd : decode 0x000F78000301FF0071100000
    = .ok (.iadd pt { rrr 3 1 0xFF 0 with acls := 1, bcls := 3, dcls := 1, ty := 1, es := 0 }) := by rfl
/-- MOVI V9, 0x12345678. -/
theorem test_decode_movi : decode 0x000F789A0900000012345678 = .ok (.movi pt { rri 9 0 0x12345678 with mod := 0 }) := by rfl
/-- VOTE into S5 of P3 with TYB 2 (all set bits), flag C4. -/
theorem test_decode_vote : decode 0x000478320503000081020C00
    = .ok (.vote { pt with setf := 4 } { rrr 5 3 0 0 with acls := 2, dcls := 1, tyb := 2 }) := by rfl
/-- MOVS V7, %LANE (code 0x00 of R76 is %LANE) waiting on C0 and C11. -/
theorem test_decode_movs : decode 0x801F78400700000000000000
    = .ok (.movs { pt with wait := 0x801 } { sys with d := 7 }) := by rfl
/-- FCMP into P2, class test 5, slot FS15, guard @!P0. -/
theorem test_decode_fcmp : decode 0x000F81060208090002F50000
    = .ok (.fcmp { pt with gneg := 1, gpred := 0 } { flt 2 8 9 0 with dcls := 2, ty := 15, tyb := 5 }) := by rfl
/-- CVTI to slot FS2 from TYB 1, part 3. -/
theorem test_decode_cvti : decode 0x000F79210102000000210003
    = .ok (.cvti pt { flt 1 2 0 0 with ty := 2, tyb := 1, mod := 3 }) := by rfl
/-- LD.S.PK32 (code 0x3F) with an index register. -/
theorem test_decode_ld_packed : decode 0x000B7A00FF010240FD800000
    = .ok (.ld { pt with setf := 11 } { mem 255 1 2 with width := 0x3F, ixen := 1, off := 0x800000 }) := by rfl
/-- CAS .AR at SYSTEM scope, N64, base S63. -/
theorem test_decode_cas : decode 0x00007A02043FFE240E000000
    = .ok (.cas { pt with setf := 0 } { mem 4 63 254 with space := 0, order := 4, scope := 4, bcls := 1 }) := by rfl
/-- FENCE.ACQ.DEVICE. -/
theorem test_decode_fence : decode 0x000F7A030000001300000000
    = .ok (.fence pt { mem 0 0 0 with space := 0, order := 2, scope := 3, width := 0 }) := by rfl
/-- CNTWAIT COLL, 63. -/
theorem test_decode_cntwait : decode 0x000F7B050000000000007F80
    = .ok (.cntwait pt { asy with ccls := 3, cnt := 63 }) := by rfl
/-- WFLUSH W63. -/
theorem test_decode_wflush : decode 0x000F7B0400000003F0000000
    = .ok (.wflush pt { asy with win := 63 }) := by rfl
/-- BWAIT B15 with token in S2. -/
theorem test_decode_bwait : decode 0x000F7B42000200100F000000
    = .ok (.bwait pt { asy with a := 2, acls := 1, bar := 15 }) := by rfl
/-- REMIT V1 with key operand P-class 3 value 9, node 255. -/
theorem test_decode_remit : decode 0x000F7C810001090C00FF0001
    = .ok (.remit pt { asy with a := 1, b := 9, bcls := 3, node := 255, mod := 1 }) := by rfl
/-- FETCH S62 pair, count from S1. -/
theorem test_decode_fetch : decode 0x000F7C833E01005000000000
    = .ok (.fetch pt { asy with d := 62, a := 1, dcls := 1, acls := 1 }) := by rfl
/-- TXEND into P1. -/
theorem test_decode_txend : decode 0x000F7D010100008000000001
    = .ok (.txend pt { asy with d := 1, dcls := 2, mod := 1 }) := by rfl
/-- MMA with every option: PAIR, SP, BS, REUSE, SAT. -/
theorem test_decode_mma : decode 0x000F7B80FF87F4FFFFFE0000
    = .ok (.mma pt { zd := 15, va := 248, bcls := 1, bidx := 63, sla := 4, slb := 15, pair := 1, sp := 1, bs := 1,
                     reuse := 1, sat := 1, ssc := 63, vx := 255, row := 0, rm := 0, rsv := 0 }) := by rfl
/-- ZMOV of row 63 into V255. -/
theorem test_decode_zmov : decode 0x000F7B841000000001FFF800
    = .ok (.zmov pt { mat with zd := 1, vx := 255, row := 63 }) := by rfl
/-- REGQ 256. -/
theorem test_decode_regq : decode 0x000F7C090000000010000000
    = .ok (.regq pt { sys with code := 256 }) := by rfl
/-- SLEEP by a register: CODE16 bit 15. -/
theorem test_decode_sleep : decode 0x000F7C070003100800000000
    = .ok (.sleep pt { sys with a := 3, acls := 1, code := 0x8000 }) := by rfl
/-- TRAP 0xFFFF. -/
theorem test_decode_trap : decode 0x000F7D400000000FFFF00000
    = .ok (.trap pt { sys with code := 0xFFFF }) := by rfl
/-- QPOST of V8 to queue 513. -/
theorem test_decode_qpost : decode 0x000F7D430008000020100000
    = .ok (.qpost pt { sys with a := 8, code := 513 }) := by rfl
/-- An all-zero word is IADD with SETF 0 (R85). -/
theorem test_decode_zero : decode 0 = .error (.illegalForm ⟨0, 0, 0, 0⟩ false) := by rfl
/-- Opcode 0x01D is unlisted (R85). -/
theorem test_decode_unlisted : decode 0x000F781D0000000000000000 = .error (.illegalOpcode pt) := by rfl
/-- A branch with a reserved bit is a branch whose form is illegal (R87). -/
theorem test_decode_bad_branch : decode 0x000F7C000000000000000001 = .error (.illegalForm pt true) := by rfl
theorem test_encode_nop : encode (.nop pt sys) = some 0x000F7C080000000000000000 := by rfl
theorem test_decodeTableWord : decodeTableWord 96 0x000F7C080000000000000000 = some (.nop pt sys) := by rfl

/-! ### A small world

Core 0 of an ACTIVE partition runs one group of one course, whose chosen slot has lane 0 alone. Its context maps the first
GiB of its addresses to the same place in HBM and the second to host memory, by the tables at 0x1000 and 0x4000 (R379, R380). -/

def tables : Memory :=
  [(0x1000, 0x2001), (0x2000, 0x3001), (0x3000, 0x1F), (0x3008, 0x40000000000001F), (0x4000, 0x5001), (0x5000, 0x6001), (0x6000, 0x1F),
    (0x6008, 0x4000001F)].foldl (fun m e => m.write e.1 8 e.2) Memory.empty

def ctx0 : Ctx :=
  { fn := 0, ctxid := 1, mixdbg := false, pasid := none, s1root := 0x4000, trapBase := 0x00200004, saveBase := 0x100000,
    saveSize := 0x10000, errBase := 0x8000, errCount := 128, privBase := 0x200000, privSize := 0x10000, state := .active,
    ckreq := false, errTail := 0, errLost := 0, errPend := [], priv := [], saves := [], saveFault := false }

def queue0 : Queue :=
  { seq := 0, qid := 7, fn := 0, part := 0, ctx := 0, prio := 0, owner := 0, size := 64, devq := false, ringVa := 0x10000, rptrVa := 0,
    widx := 0, ridx := 0, state := .mapped, before := .unmapped, thread := true, waitSince := 0, started := [], poisoned := [],
    wait := none, launching := false, gen := 0, lastStatus := 0, rptrDue := none }

def kernel0 : Kernel :=
  { entry := 0x00100004, scratch := 64, ztiles := 0, windows := 4, barriers := 4, coresident := false, dlim := 1023, psize := 0,
    roles := [(1, 256)], slotReq := List.replicate 12 0 }

def node0 : Node :=
  { kernel := 0, rsz := 64, kind := .entry, dmax := 8, rank := 0, revocable := true, redundant := false, quantum := 1, timer := 0,
    succ := 3 }

def obj0 : Obj :=
  { fn := 0, ctx := 0, handle := 3, state := .ready, image := 0x300000, textVa := 0x100000, textOff := 0x10000,
    ranges := [(0x100000, 0x10000)], pages := [.present], askers := [], digests := [0], emulation := false, emul := [], features := 0, bound := [],
    kernels := [kernel0], nodes := [node0, { node0 with kind := .gather, timer := 5 }], report := [], dataDigest := 0, manifestDigest := 0,
    revocations := 0 }

def part0 : Part :=
  { Part.reset with
    state := .active, features := 0xFFFF, cores := [0, 1], channels := [0], s2root := 0x1000, seqs := [0], funcs := [0, 1],
    owners := [0, 7], ports := [0, 1, 2], slots := freshSlots, engines := [0] }

def rec0 (slot : Nat) (st : RecState) : Record :=
  { block := 0, slot := slot, node := 1, state := st, depth := 0, key := 0, age := 0, grp := none, ownedOnly := false, avoid := none }

def emptyLaunch : Launch :=
  ⟨0, 0, 0, 0, 0, 0, 0, 0, 0, 0, 0, false, 1, 0, 0, 0, 0, [], [], [], [], 0, 0, [], 0, 0, false, false, false⟩

/-- Everything but the chosen slot's word, which is the argument. -/
def worldOf (w : IWord) : State :=
  let s := placeWord State.reset w
  { s with
    sel := some ⟨0, 0, 0, 1, fetchBase + 4⟩
    hbm := tables
    parts := s.parts.set 0 part0
    fns := (s.fns.set 0 { Fn.reset with part := some 0 }).set 1 { Fn.reset with part := some 0 }
    ctxs := [(0, ctx0)]
    objects := [(0, obj0)]
    queues := [(0, queue0)]
    launches := alSet s.launches 0 { (s.launch 0).getD emptyLaunch with
      nb := 2, poolVa := 0x20000, blocks := [(0, ⟨1, 4, true⟩)], records := [rec0 0 .written, rec0 1 .pending, rec0 2 .free], total := 10 }
    ports := ((s.ports.set 0 { Port.reset with state := .up }).set 1 { Port.reset with state := .up }).set 2 { Port.reset with state := .up }
    boot := { Booted.reset with done := true, pcie := 3, peer := 4 }
    nextGroup := 1
    nextReq := 9 }

def world : State := worldOf 0x000F7C080000000000000000

def withGroup (u : Group → Group) : State := world.updGroup 0 u
def withCourse (u : Course → Course) : State := world.updCourse 0 0 u
def withLane (u : Lane → Lane) : State := world.updLane 0 0 0 u

def noView : View := ⟨⟨0, 0, 0, 0, 0⟩, placeGroup, placeCourse, Core.reset, 0, []⟩

/-- The view of a state that has a slot chosen. -/
def viewOf (s : State) : View := s.view.getD noView

theorem view_viewOf {s : State} (h : s.view.isSome = true) : s.view = some (viewOf s) := by
  unfold viewOf
  cases hv : s.view with
  | none => simp [hv] at h
  | some x => rfl

theorem some_of {α : Type} {o : Option α} {d : α} (h : o.isSome = true) : o = some (o.getD d) := by
  cases o with
  | none => simp at h
  | some y => rfl

/-- The group 0 of a state. -/
def grpOf (s : State) : Group := (s.group 0).getD placeGroup

theorem group_of {s : State} (h : (s.group 0).isSome = true) : s.group 0 = some (grpOf s) := some_of h

theorem has_of {x : View} {fs : List Nat} (h : fs.all (fun b => x.feats.getLsbD b) = true) : x.has fs := by
  simpa [View.has] using h

theorem reach_of {x : View} {k : Ctl} {rs : List Nat}
    (h : (List.range 32).all (fun n => rs.all (fun r => x.vOk n r)) = true) : x.reach k rs := by
  intro n hn r hr
  simp only [List.all_eq_true, List.mem_range] at h
  exact h n (inMask_lt hn) r hr

theorem lanes_of {m : LaneMask} {p : Nat → Bool} (h : (List.range 32).all p = true) : ∀ n, inMask m n = true → p n = true := by
  intro n hn
  simp only [List.all_eq_true, List.mem_range] at h
  exact h n (inMask_lt hn)

theorem only_of {x : View} {k : Ctl} {n : Nat} (h : (laneList (x.active k) == [n]) = true) : x.only k n := eq_of_beq h

theorem marked_of {s : State} {x : View} {t : Word} (h : (pcValid t && ((s.core x.sel.core).line (lineOf t) (s.groupCtx x.grp)).any
    (fun l => !l.poisoned && lineTarget l (slotOf t))) = true) : Marked s x t := by
  rw [Bool.and_eq_true, Option.any_eq_true] at h
  obtain ⟨h1, l, h2, h3⟩ := h
  rw [Bool.and_eq_true, Bool.not_eq_true'] at h3
  exact ⟨h1, l, h2, h3⟩

def w0 : View := viewOf world
theorem world_view : world.view = some w0 := view_viewOf (by decide +kernel)

/-- The lane 0 of a state after the next step. -/
def after (s : State) : Lane :=
  match step s with
  | .next t => ((t.group 0).getD placeGroup).course 0 |>.lane 0
  | _ => Lane.reset

/-- The state after the next step. -/
def stepped (s : State) : State :=
  match step s with
  | .next t => t
  | _ => s

theorem world_memoryOk : world.MemoryOk :=
  ⟨by decide +kernel, by decide +kernel, by decide +kernel, by decide +kernel, by decide +kernel⟩


/-! ### The hypotheses of the register statements can be met

Each theorem names a statement of Certificates/Slice0/Obligations.lean and shows a state and operands that meet the hypotheses of
its clauses together, with a register at the end of its range. -/

theorem meets_IntegerArithmeticAndLogic_rrr : ∃ (k : Ctl) (f : RRR) (s : State) (x : View), s.view = some x
    ∧ x.reach k ((dstOf f.dcls f.d).vregs ++ (rrrSrcs f 3).flatMap (·.vregs)) :=
  ⟨pt, rrr 255 254 1 0, world, w0, world_view, reach_of (by decide +kernel)⟩

theorem meets_IntegerArithmeticAndLogic_rri : ∃ (k : Ctl) (f : RRI) (s : State) (x : View), s.view = some x
    ∧ x.reach k ((dstOf f.dcls f.d).vregs ++ (opdOf f.acls f.a).vregs) :=
  ⟨pt, rri 255 0 0x80000000, world, w0, world_view, reach_of (by decide +kernel)⟩

theorem meets_IntegerFieldsAndPredicates_bfi : ∃ (k : Ctl) (f : RRR) (s : State) (x : View), s.view = some x
    ∧ x.reach k ((dstOf f.dcls f.d).vregs ++ (rrrSrcs f 3).flatMap (·.vregs)) :=
  ⟨pt, rrr 0 1 2 255, world, w0, world_view, reach_of (by decide +kernel)⟩

theorem meets_IntegerFieldsAndPredicates_pset : ∃ (k : Ctl) (f g : RRR) (s : State) (x : View), s.view = some x ∧ f.tyb = 0
    ∧ x.reach k ((dstOf f.dcls f.d).vregs ++ (rrrSrcs f 2).flatMap (·.vregs)) ∧ g.tyb ≠ 0
    ∧ x.reach k ((dstOf g.dcls g.d).vregs ++ (rrrSrcs g 1).flatMap (·.vregs)) :=
  ⟨pt, { rrr 14 1 2 0 with dcls := 2 }, { rrr 14 255 0 0 with dcls := 2, tyb := 1 }, world, w0, world_view, rfl,
    reach_of (by decide +kernel), by decide, reach_of (by decide +kernel)⟩

theorem meets_IntegerFieldsAndPredicates_movi : ∃ (k : Ctl) (f g : RRI) (s : State) (x : View), s.view = some x ∧ f.mod ≠ 1
    ∧ x.reach k (dstOf f.dcls f.d).vregs ∧ g.mod = 1 ∧ x.reach k (dstOf g.dcls g.d).vregs :=
  ⟨pt, { rri 255 0 5 with mod := 0 }, { rri 255 0 5 with mod := 1 }, world, w0, world_view, by decide, reach_of (by decide +kernel),
    rfl, reach_of (by decide +kernel)⟩

theorem meets_PackedElements : ∃ w, 0 < w ∧ w ≤ 64 := ⟨64, by decide, by decide⟩

theorem meets_CrossLaneGathers : ∃ (k : Ctl) (f : RRR) (s : State) (x : View), s.view = some x ∧ x.has [1]
    ∧ x.reach k ((dstOf f.dcls f.d).vregs ++ [f.a.toNat] ++ (opdOf f.bcls f.b).vregs) :=
  ⟨pt, rrr 1 255 2 0, world, w0, world_view, has_of (by decide +kernel), reach_of (by decide +kernel)⟩

theorem meets_SpecialRegisterMoves : ∃ (k : Ctl) (f g : SYS) (r : RRR) (s : State) (x : View), s.view = some x
    ∧ x.reach k (dstOf f.dcls f.d).vregs ∧ x.reach k ((dstOf r.dcls r.d).vregs ++ (opdOf r.acls r.a).vregs)
    ∧ x.reach k (opdOf g.acls g.a).vregs ∧ (g.spr.toNat = 0x0C ∨ g.spr.toNat = 0x0D)
    ∧ ∀ n, inMask (x.active k) n = true → (x.crs.lane n).inHandler = true :=
  let s := world.updCourse 0 0 (fun c => c.mapLanes (fun _ l => { l with inHandler := true }))
  ⟨pt, { sys with d := 255 }, { sys with a := 224, spr := 0x0D }, rrr 255 255 0 0, s, viewOf s, view_viewOf (by decide +kernel),
    reach_of (by decide +kernel), reach_of (by decide +kernel), reach_of (by decide +kernel), by decide,
    lanes_of (by decide +kernel)⟩

theorem meets_WrittenRegistersRead : ∃ (s : State) (x : View), s.view = some x ∧ x.sel.course < x.grp.courses.length :=
  ⟨world, w0, world_view, by decide +kernel⟩

/-- The group's course has no store in its FIFO. -/
theorem meets_IssueFrames : ∃ (s : State) (x : View) (n : Nat), s.view = some x ∧ (s.courseAt x.sel.grp x.sel.course).fifo = []
    ∧ groupMixDebug s x.grp = false ∧ (∀ g, s.group x.sel.grp = some g → groupMixDebug s g = false) ∧ n < 32 :=
  ⟨world, w0, 31, world_view, by decide +kernel, by decide +kernel, fun g h => by
    have e : world.group w0.sel.grp = some g := h
    have d : ((world.group w0.sel.grp).map (groupMixDebug world)).getD false = false := by decide +kernel
    rw [e] at d
    exact d, by decide⟩

theorem meets_FloatArithmeticAndFunctions : ∃ (k : Ctl) (f : RRR) (s : State) (x : View) (im : Image), s.view = some x ∧ x.has [2]
    ∧ x.has [3] ∧ x.reach k ((dstOf f.dcls f.d).vregs ++ (rrrSrcs f 3).flatMap (·.vregs))
    ∧ x.core.slotImage f.ty.toNat = some im :=
  ⟨pt, { flt 255 1 2 3 with ty := 3 }, world, w0, (w0.core.slotImage 3).getD (catalogueImage 0), world_view, has_of (by decide +kernel),
    has_of (by decide +kernel), reach_of (by decide +kernel), by decide +kernel⟩

theorem meets_FloatTestsAndConversions : ∃ (k : Ctl) (f : RRR) (s : State) (x : View), s.view = some x ∧ x.has [4]
    ∧ x.reach k ((dstOf f.dcls f.d).vregs ++ [opdOf f.acls f.a, opdOf f.bcls f.b].flatMap (·.vregs))
    ∧ (∀ i ∈ [f.ty.toNat, f.tyb.toNat], (x.core.slotImage i).isSome = true)
    ∧ partOk (64 / x.slotWidth f.tyb.toNat) (64 / x.slotWidth f.ty.toNat) f.mod.toNat = true :=
  ⟨pt, { flt 1 255 0 0 with ty := 0, tyb := 1, mod := 1 }, world, w0, world_view, has_of (by decide +kernel),
    reach_of (by decide +kernel), by decide +kernel, by decide +kernel⟩

/-- A world whose slot FS4 holds the 8-bit catalogue format 0x14 (R59). -/
def fp8 : State := world.setCore 0 { world.core 0 with home := (world.core 0).home.set 4 (fixedSlot 0x14) }

theorem meets_FloatTestsAndConversions_bscale : ∃ (k : Ctl) (f : RRR) (s : State) (x : View), s.view = some x ∧ x.has [4]
    ∧ x.reach k ((dstOf f.dcls f.d).vregs ++ [opdOf f.acls f.a, opdOf f.bcls f.b].flatMap (·.vregs))
    ∧ (∀ i ∈ [f.ty.toNat, f.tyb.toNat], (x.core.slotImage i).isSome = true) ∧ x.slotWidth f.tyb.toNat ≤ 8
    ∧ partOk (64 / x.slotWidth f.tyb.toNat) (64 / x.slotWidth f.ty.toNat) f.mod.toNat = true :=
  ⟨pt, { flt 1 2 255 0 with ty := 1, tyb := 4, mod := 3 }, fp8, viewOf fp8, view_viewOf (by decide +kernel), has_of (by decide +kernel),
    reach_of (by decide +kernel), by decide +kernel, by decide +kernel, by decide +kernel⟩

/-! ### Memory -/

/-- The pieces of an access that resolves. -/
def piecesOf : Resolved → List Piece
  | .ok ps => ps
  | _ => []

theorem resolve_ok {r : Resolved × State} (h : r.1 = .ok (piecesOf r.1)) : r = (.ok (piecesOf r.1), r.2) := Prod.ext h rfl

/-- 256 bits at the last place of the group's 64 KiB of scratchpad. -/
def lastScratch : MEM := { mem 252 0 0 with width := 5, off := 0xFFE0 }

def res0 (f : MEM) (n : Need) : Resolved × State := resolve world w0.grp w0.sel.core w0.sel.course 0 (w0.memAccess f 0) n 0

theorem noWindow_of {s : State} {x : View} {ps : List Piece}
    (h : (touched s (scratchSectors ps) == [] && missingSectors s (scratchSectors ps) == [] && !windowRefuses s (scratchSectors ps)
      && !mixDebug s x) = true) : NoWindow s x ps := by
  simp only [Bool.and_eq_true, beq_iff_eq, Bool.not_eq_true'] at h
  exact ⟨h.1.1.1, h.1.1.2, h.1.2, h.2⟩

theorem meets_Loads : ∃ (k : Ctl) (f : MEM) (s t u : State) (x : View) (n : Nat) (ps : List Piece) (r : Nat × List (Nat × Nat × Bool)),
    s.view = some x ∧ x.only k n ∧ x.has [0]
    ∧ x.reach k ((List.range (widthRegs f.width.toNat)).map (f.d.toNat + ·) ++ (baseOpd f).vregs
      ++ (if f.ixen = 1 then [f.index.toNat] else []))
    ∧ AccessOk s x (x.memAccess f n) (x.addrPoison f true n) ∧ laneActive s x n = false ∧ laneActive t x n = false
    ∧ resolve s x.grp x.sel.core x.sel.course n (x.memAccess f n) .read 0 = (.ok ps, t) ∧ NoWindow t x ps ∧ NoWindow s x ps
    ∧ loadPieces t x n ((f.order == 0 || decide (f.scope.toNat < 2)) && !crosses f ps) ps = (r, u)
    ∧ laneActive (markSectors u (u.groupPart x.grp) (x.sel.grp, x.sel.course, n) ps) x n = false :=
  ⟨pt, lastScratch, world, (res0 lastScratch .read).2, _, w0, 0, piecesOf (res0 lastScratch .read).1, _, world_view,
    only_of (by decide +kernel), has_of (by decide +kernel), reach_of (by decide +kernel),
    ⟨by decide +kernel, by decide +kernel, by decide +kernel⟩, by decide +kernel, by decide +kernel, resolve_ok (by decide +kernel),
    noWindow_of (by decide +kernel), noWindow_of (by decide +kernel), rfl, by decide +kernel⟩

def resStore : List Piece := piecesOf (res0 lastScratch .write).1

def storeWrites (x : View) (f : MEM) (ps : List Piece) : List SecWrite :=
  ps.map (fun p => p.write (storeData x pt f 0).1 (piecePoison (storeData x pt f 0).2 p))

theorem meets_Stores_issue : ∃ (k : Ctl) (f : MEM) (s t : State) (x : View) (n : Nat) (ps : List Piece), s.view = some x ∧ x.only k n
    ∧ x.has [0]
    ∧ x.reach k ((List.range (widthRegs f.width.toNat)).map (f.d.toNat + ·) ++ (baseOpd f).vregs
      ++ (if f.ixen = 1 then [f.index.toNat] else []))
    ∧ AccessOk s x (x.memAccess f n) (x.addrPoison f true n)
    ∧ (x.grp.mode = .revocable → outsideOwn x (x.memAccess f n) = false) ∧ systemWait s x k f [0] = none
    ∧ laneActive s x n = false ∧ laneActive t x n = false
    ∧ resolve s x.grp x.sel.core x.sel.course n (x.memAccess f n) .write 0 = (.ok ps, t) ∧ NoWindow t x ps ∧ ps ≠ []
    ∧ ∀ w ∈ ps.map (fun p => p.write (storeData x k f n).1 (piecePoison (storeData x k f n).2 p)),
      (w.tgt = .host ∨ ∃ p, w.tgt = .peer p) → w.poison = false :=
  ⟨pt, lastScratch, world, (res0 lastScratch .write).2, w0, 0, resStore, world_view,
    only_of (by decide +kernel), has_of (by decide +kernel), reach_of (by decide +kernel),
    ⟨by decide +kernel, by decide +kernel, by decide +kernel⟩, by decide +kernel, by decide +kernel, by decide +kernel,
    by decide +kernel, resolve_ok (by decide +kernel), noWindow_of (by decide +kernel), by decide +kernel, fun w hw _ => by
      have h : (storeWrites w0 lastScratch resStore).all (fun w => !w.poison) = true := by decide +kernel
      simpa using List.all_eq_true.mp h w hw⟩

/-- A store of 64 bits to the second GiB of the context's addresses, which lies in host memory. -/
def toHost : MEM := { mem 1 2 0 with space := 0 }
def hosting : State := withLane (fun l => l.setV 2 ⟨0x40000000, false⟩)
def resHost : Resolved × State := resolve hosting (viewOf hosting).grp 0 0 0 ((viewOf hosting).memAccess toHost 0) .write 0

theorem meets_Stores_host : (piecesOf resHost.1).map (·.tgt) = [.host] ∧ resHost.1 = .ok (piecesOf resHost.1) :=
  ⟨by decide +kernel, by decide +kernel⟩

/-- The same store to device memory by a lane in an ACTIVE transaction. -/
def logging : State := (withLane (fun l => { l with tx := { l.tx with state := .active } })).updLane 0 0 0 (fun l => l.setV 2 ⟨0x30000, false⟩)
def resLog : Resolved × State := resolve logging (viewOf logging).grp 0 0 0 ((viewOf logging).memAccess toHost 0) .write 3

theorem access_ok {r : Except AbortInfo Tx} {d : Tx} (h : (match r with | .ok _ => true | _ => false) = true) :
    r = .ok (match r with | .ok u => u | _ => d) := by
  cases r with
  | error e => exact absurd h (by simp)
  | ok u => rfl

theorem meets_Stores_active : ∃ (k : Ctl) (f : MEM) (s t : State) (x : View) (n : Nat) (ps : List Piece) (u : Tx), s.view = some x
    ∧ x.only k n ∧ x.has [0]
    ∧ x.reach k ((List.range (widthRegs f.width.toNat)).map (f.d.toNat + ·) ++ (baseOpd f).vregs
      ++ (if f.ixen = 1 then [f.index.toNat] else []))
    ∧ AccessOk s x (x.memAccess f n) (x.addrPoison f true n) ∧ x.grp.mode = .ordinary ∧ (x.memAccess f n).global = true
    ∧ laneActive s x n = true ∧ laneActive t x n = true
    ∧ resolve s x.grp x.sel.core x.sel.course n (x.memAccess f n) .write 3 = (.ok ps, t) ∧ NoWindow t x ps
    ∧ txAccess t x n ps false true
      ((ps.map (fun p => p.write (storeData x k f n).1 (piecePoison (storeData x k f n).2 p))).any (·.poison)) = .ok u :=
  ⟨pt, toHost, logging, resLog.2, viewOf logging, 0, piecesOf resLog.1, _, view_viewOf (by decide +kernel), only_of (by decide +kernel),
    has_of (by decide +kernel), reach_of (by decide +kernel), ⟨by decide +kernel, by decide +kernel, by decide +kernel⟩,
    by decide +kernel, by decide +kernel, by decide +kernel, by decide +kernel, resolve_ok (by decide +kernel),
    noWindow_of (by decide +kernel), access_ok (d := Tx.idle) (by decide +kernel)⟩

/-- Port 2 holds a write that its far side has not taken. -/
def busy : State := world.updPort 2 (fun p => { p with waiting := [⟨0, 0, 1, 0, [⟨.peer 2, 1, 1, 1, false⟩], true⟩] })

theorem meets_Stores_waits : ∃ (k : Ctl) (f : MEM) (s : State) (x : View), s.view = some x ∧ x.has [0] ∧ (f.order = 3 ∨ f.order = 4) ∧ f.scope = 4
    ∧ (∃ n, inMask (x.active k) n = true ∧ laneActive s x n = false)
    ∧ portsBusy (drainCourse s x.sel.grp x.sel.course) = true :=
  ⟨pt, { toHost with order := 3, scope := 4 }, busy, viewOf busy, view_viewOf (by decide +kernel), has_of (by decide +kernel), .inl rfl, rfl,
    ⟨0, by decide +kernel, by decide +kernel⟩, by decide +kernel⟩

/-- A store of the last sector of HBM in the FIFO of the course. -/
def stored : State := withCourse (fun c => { c with fifo := [⟨0, [⟨.hbm, 0x8000000000 / 32 - 1, 1, 0xFF, false⟩], none⟩] })

theorem meets_Stores_home : ∃ (s u : State) (g c : Nat) (grp emptied : Group) (e : FifoStore) (rest : List FifoStore),
    s.group g = some grp ∧ c < grp.courses.length ∧ (grp.course c).fifo = e :: rest
    ∧ u.group g = some emptied ∧ c < emptied.courses.length ∧ (emptied.course c).fifo = [] :=
  ⟨stored, world, 0, 0, grpOf stored, grpOf world, ⟨0, [⟨.hbm, 0x8000000000 / 32 - 1, 1, 0xFF, false⟩], none⟩, [],
    group_of (by decide +kernel), by decide +kernel, by decide +kernel, group_of (by decide +kernel), by decide +kernel,
    by decide +kernel⟩

theorem meets_Stores_port : ∃ (s : State) (w v : SecWrite), linkTrains s w.tgt = true ∧ linkCarries s w.tgt = true
    ∧ (∀ p, w.tgt = .peer p → p < 12) ∧ linkTrains s v.tgt = true ∧ linkCarries s v.tgt = true ∧ v.tgt = .host :=
  let s := (world.updPort 0 (fun p => { p with state := .training })).updPort 2 (fun p => { p with state := .training })
  ⟨s, ⟨.peer 2, 1, 1, 1, true⟩, ⟨.host, 1, 1, 1, false⟩, by decide +kernel, by decide +kernel,
    fun p hp => by simp only [Tgt.peer.injEq] at hp; omega, by decide +kernel, by decide +kernel, rfl⟩

theorem meets_SectorWrites : ∃ m : Memory, m.wf = true ∧ m.cells ≠ [] := ⟨tables, by decide +kernel, by decide +kernel⟩

theorem meets_MemoryFrames : ∃ (s : State) (w : SecWrite) (t : Tgt) (a : Nat), s.MemoryOk ∧ ¬(t = w.tgt ∧ a / 32 = w.sector) :=
  ⟨world, ⟨.hbm, 0x80, 1, 1, false⟩, .hbm, 0xFFF, world_memoryOk, by decide⟩

/-- An atomic on the last bytes of a sector, and the byte just below them. -/
theorem meets_MemoryFrames_atomic : ∃ (s : State) (p : Piece) (y : Nat), s.MemoryOk ∧ (p.tgt = .hbm ∨ ∃ k, p.tgt = .scratch k)
    ∧ 8 * y + 8 ≤ 256 * p.sector + p.lo :=
  ⟨world, ⟨.hbm, 0x80, 192, 64, 0⟩, 0x1017, world_memoryOk, .inl rfl, by decide⟩

/-- A ZST of an F32 tile, and the byte just above what it stores. -/
theorem meets_MemoryFrames_zst : ∃ (s : State) (e : MatEntry) (im : Image) (y : Nat), s.MemoryOk ∧ e.op = .zst
    ∧ e.imageA = some im ∧ matAddr s e + 64 * zstRow im.desc ≤ y :=
  ⟨world, { matEntry world w0 pt .mma ⟨0, 0, 0, 0, 0, 0, 0, 0, 0, 0, 0, 0, 0, 0, 0, 0⟩ 1 0 with op := .zst, imageA := some (catalogueImage 0) },
    catalogueImage 0, _, world_memoryOk, rfl, rfl, Nat.le_refl _⟩

/-- ATOM and CAS of 64 bits at the last place of the group's scratchpad. -/
def lastAtom : MEM := { mem 255 0 254 with order := 4, scope := 1, off := 0xFFF8 }

def resAtom : Resolved × State := resolve world w0.grp w0.sel.core w0.sel.course 0 (w0.atomAccess lastAtom 0) .rw 0

theorem meets_AtomicsComplete : ∃ (k : Ctl) (f : MEM) (s t : State) (x : View) (n : Nat) (p : Piece), s.view = some x ∧ x.only k n
    ∧ x.has [5] ∧ x.reach k ([f.d.toNat] ++ (baseOpd f).vregs ++ [f.index.toNat] ++ [f.index.toNat + 1])
    ∧ AccessOk s x (x.atomAccess f n) (x.addrPoison f false n) ∧ x.grp.mode = .ordinary ∧ laneActive s x n = false
    ∧ laneActive t x n = false
    ∧ resolve s x.grp x.sel.core x.sel.course n (x.atomAccess f n) .rw 0 = (.ok [p], t) ∧ NoWindow t x [p]
    ∧ (p.tgt = .hbm ∨ p.tgt = .scratch x.sel.core) :=
  ⟨pt, lastAtom, world, resAtom.2, w0, 0, (piecesOf resAtom.1).headD ⟨.hbm, 0, 0, 0, 0⟩, world_view, only_of (by decide +kernel),
    has_of (by decide +kernel), reach_of (by decide +kernel), ⟨by decide +kernel, by decide +kernel, by decide +kernel⟩,
    by decide +kernel, by decide +kernel, by decide +kernel, Prod.ext (by decide +kernel) rfl, noWindow_of (by decide +kernel),
    .inr (by decide +kernel)⟩

/-- A FENCE.AR.SYSTEM while a port holds a write, and the next access of the lane that stood behind it. -/
theorem meets_FenceCacheAndProbe_waits : ∃ (k : Ctl) (f : MEM) (s u : State) (x y : View), s.view = some x ∧ x.has [0]
    ∧ f.order = 4 ∧ f.scope = 4 ∧ (laneList (x.active k)).filter (fun n => (x.crs.lane n).tx.state != .active) ≠ []
    ∧ portsBusy (clearL1 (drainCourse s x.sel.grp x.sel.course) x.sel.core) = true ∧ u.view = some y
    ∧ fenceWaits u y (y.active k) = true :=
  ⟨pt, { toHost with order := 4, scope := 4 }, busy, { busy with fenced := [⟨0, 0, 0, true⟩] }, viewOf busy,
    viewOf { busy with fenced := [⟨0, 0, 0, true⟩] }, view_viewOf (by decide +kernel), has_of (by decide +kernel), rfl, rfl,
    by decide +kernel, by decide +kernel, view_viewOf (by decide +kernel), by decide +kernel⟩

theorem meets_FenceCacheAndProbe : ∃ (k : Ctl) (f : MEM) (g : RRR) (s : State) (x : View), s.view = some x ∧ x.has [0]
    ∧ x.reach k ([f.d.toNat] ++ (baseOpd f).vregs ++ (if f.ixen = 1 then [f.index.toNat] else []))
    ∧ x.reach k ((dstOf g.dcls g.d).vregs ++ (if g.tyb = 2 then [] else (opdOf g.acls g.a).vregs)) :=
  ⟨pt, { mem 255 255 255 with ixen := 1 }, flt 255 255 0 0, world, w0, world_view, has_of (by decide +kernel),
    reach_of (by decide +kernel), reach_of (by decide +kernel)⟩

/-! ### Windows, barriers, the matrix engine -/

/-- One row of eight 32-bit elements. -/
def tensor8 : Tensor :=
  { base := 0x20000, ext := Vector.ofFn fun i => if i.val = 0 then 8 else 1, stride := Vector.replicate 4 0, coord := Vector.replicate 4 0,
    box := Vector.ofFn fun i => if i.val = 0 then 8 else 1, width := 32, rank := 1 }

/-- Window W3, the last, bound to that row at the last sector of the scratchpad. -/
def bound (st : WinState) : State := withGroup (fun g => { g with windows := g.windows.set 3 { Window.unbound with
  state := st, tensor := tensor8, reg := 0xFFE0, owner := some (0, 0, 5), pend := if st = .flushing then [(0, 5)] else [] } })

/-- The descriptor of that row in the scratchpad at 128, with S0 and S1 naming it and the region (R236, R252). -/
def described : State :=
  (world.setCore 0 { world.core 0 with scratch := [(128, 8, 0x20000), (136, 4, 8), (140, 4, 1), (144, 4, 1), (148, 4, 1), (192, 2, 8),
    (194, 2, 1), (196, 2, 1), (198, 2, 1), (200, 1, 32), (201, 1, 1)].foldl (fun m e => m.write e.1 e.2.1 e.2.2) Memory.empty }).updCourse
    0 0 (fun c => (c.setS 0 ⟨128, false⟩).setS 1 ⟨0xFFE0, false⟩)

def win3 : ASY := { asy with win := 3, acls := 1, bcls := 1, b := 1 }

theorem meets_WindowInstructions_wbind : ∃ (k : Ctl) (f : ASY) (s : State) (x : View), s.view = some x ∧ x.has [6]
    ∧ f.win.toNat < x.grp.windows.length ∧ x.active k ≠ 0
    ∧ touched (drainCourse s x.sel.grp x.sel.course) (wbindSectors (drainCourse s x.sel.grp x.sel.course) x f) = []
    ∧ missingSectors (drainCourse s x.sel.grp x.sel.course) (wbindSectors (drainCourse s x.sel.grp x.sel.course) x f) = []
    ∧ wbindCauses (drainCourse s x.sel.grp x.sel.course) x f = [] :=
  ⟨pt, win3, described, viewOf described, view_viewOf (by decide +kernel), has_of (by decide +kernel), by decide +kernel,
    by decide +kernel, by decide +kernel, by decide +kernel, by decide +kernel⟩

theorem meets_WindowInstructions_wtouch : ∃ (k : Ctl) (f : ASY) (s : State) (x : View), s.view = some x ∧ x.has [6]
    ∧ f.win.toNat < x.grp.windows.length ∧ x.active k ≠ 0 ∧ (x.grp.window f.win.toNat).isBound = true
    ∧ (x.grp.window f.win.toNat).state = .absent ∧ x.counterFull 2 1 = false ∧ (x.grp.window f.win.toNat).state ≠ .flushing
    ∧ fillClash s x.sel.grp f.win.toNat = false
    ∧ x.reach k (dstOf f.dcls f.d).vregs ∧ x.crs.counter f.ccls.toNat ≤ f.cnt.toNat :=
  ⟨pt, { win3 with d := 255 }, bound .absent, viewOf (bound .absent), view_viewOf (by decide +kernel), has_of (by decide +kernel),
    by decide +kernel, by decide +kernel, by decide +kernel, by decide +kernel, by decide +kernel, by decide +kernel,
    by decide +kernel, reach_of (by decide +kernel), by decide +kernel⟩

theorem meets_WindowInstructions_wflush : ∃ (k : Ctl) (f : ASY) (s : State) (x : View), s.view = some x ∧ x.has [6]
    ∧ f.win.toNat < x.grp.windows.length ∧ x.active k ≠ 0 ∧ (x.grp.window f.win.toNat).state = .present ∧ x.counterFull 0 1 = false
    ∧ windowPoison (drainCourse s x.sel.grp x.sel.course) x (x.grp.window f.win.toNat) = false
    ∧ engineClash (drainCourse s x.sel.grp x.sel.course) x.grp (x.grp.window f.win.toNat) .write = false :=
  ⟨pt, win3, bound .present, viewOf (bound .present), view_viewOf (by decide +kernel), has_of (by decide +kernel), by decide +kernel,
    by decide +kernel, by decide +kernel, by decide +kernel, by decide +kernel, by decide +kernel⟩

def filling : State := bound .filling
def fillGroup : Group := grpOf filling

theorem meets_WindowSteps_outside : ∃ (s : State) (g win k : Nat) (grp : Group), s.group g = some grp
    ∧ sectorMissing s grp (grp.window win) k = true ∧ ((grp.window win).pend.any (fun e => e.1 == k)) = false
    ∧ (grp.window win).tensor.sectorBits k = none :=
  let s := filling.updWindow 0 3 (fun w => { w with tensor := { tensor8 with coord := Vector.ofFn fun i => if i.val = 0 then 8 else 0 } })
  ⟨s, 0, 3, 0, grpOf s, group_of (by decide +kernel), by decide +kernel, by decide +kernel, by decide +kernel⟩

theorem meets_WindowSteps_arrival : ∃ (s t : State) (g win k off n bit : Nat) (grp : Group) (ps : List Piece), s.group g = some grp
    ∧ sectorMissing s grp (grp.window win) k = true ∧ ((grp.window win).pend.any (fun e => e.1 == k)) = false
    ∧ (grp.window win).tensor.sectorBits k = some (off, n, bit) ∧ sectorPlaces s grp bit n .read = (.ok ps, t)
    ∧ (ps.map (fun p => linkTrains t p.tgt)).all (! ·) = true :=
  ⟨filling, (sectorPlaces filling fillGroup 0x100000 256 .read).2, 0, 3, 0, 0, 256, 0x100000, fillGroup,
    piecesOf (sectorPlaces filling fillGroup 0x100000 256 .read).1, group_of (by decide +kernel), by decide +kernel, by decide +kernel,
    by decide +kernel, resolve_ok (by decide +kernel), by decide +kernel⟩

/-- A place in host memory, whose port trains. (Whether the host rejects the read is a free value, log entry 13.) -/
theorem meets_WindowSteps_trains : ∃ (s : State) (p : Piece), linkTrains s p.tgt = true :=
  ⟨filling.updPort 0 (fun p => { p with state := .training }), ⟨.host, 0, 0, 256, 0⟩, by decide +kernel⟩

theorem meets_WindowSteps_fault : ∃ (s t : State) (g win k off n bit : Nat) (grp : Group) (rs : List Nat), s.group g = some grp
    ∧ sectorMissing s grp (grp.window win) k = true ∧ ((grp.window win).pend.any (fun e => e.1 == k)) = false
    ∧ (grp.window win).tensor.sectorBits k = some (off, n, bit) ∧ sectorPlaces s grp bit n .read = (.held rs, t) :=
  let s := filling.updWindow 0 3 (fun w => { w with tensor := { tensor8 with base := 0x80000000 } })
  let grp := grpOf s
  ⟨s, (sectorPlaces s grp 0x400000000 256 .read).2, 0, 3, 0, 0, 256, 0x400000000, grp, [9], group_of (by decide +kernel), by decide +kernel,
    by decide +kernel, by decide +kernel, Prod.ext (by decide +kernel) rfl⟩

def flushing : State := bound .flushing

def flushed : Flushing × State :=
  flushSectors (grpOf flushing) ((grpOf flushing).window 3) (((grpOf flushing).window 3).pend.map (·.1)).eraseDups flushing

theorem meets_WindowSteps_flush : ∃ (s t : State) (g win og oc tok : Nat) (grp : Group) (r : Flushing), s.group g = some grp
    ∧ (grp.window win).state = .flushing ∧ (grp.window win).owner = some (og, oc, tok) ∧ r.pend = [] ∧ r.writes ≠ []
    ∧ (∀ b o, grp.mode ≠ .redundant b o) ∧ (∀ e ∈ (grp.window win).pend, flushWaits s e = false)
    ∧ flushSectors grp (grp.window win) ((grp.window win).pend.map (·.1)).eraseDups s = (r, t) :=
  ⟨flushing, flushed.2, 0, 3, 0, 0, 5, grpOf flushing, flushed.1, group_of (by decide +kernel), by decide +kernel, by decide +kernel,
    List.isEmpty_iff.mp (by decide +kernel), fun h => by
      have : flushed.1.writes.isEmpty = false := by decide +kernel
      rw [List.isEmpty_iff.mpr h] at this
      exact absurd this (by decide),
    fun b o h => by
      have : (match (grpOf flushing).mode with | .redundant _ _ => false | _ => true) = true := by decide +kernel
      simp [h] at this,
    by decide +kernel, rfl⟩

/-- The same flush in the first copy of a redundant group. -/
def copying : State := flushing.updGroup 0 (fun g => { g with mode := .redundant false 1 })

def copied : Flushing × State :=
  flushSectors (grpOf copying) ((grpOf copying).window 3) (List.range ((grpOf copying).window 3).sectors) copying

theorem meets_WindowSteps_copy : ∃ (s t : State) (g win og oc tok : Nat) (grp : Group) (r : Flushing), s.group g = some grp
    ∧ (grp.window win).state = .flushing ∧ (grp.window win).owner = some (og, oc, tok) ∧ r.pend = []
    ∧ (∃ b o, grp.mode = .redundant b o) ∧ (∀ e ∈ (grp.window win).pend, e.1 < (grp.window win).sectors)
    ∧ flushSectors grp (grp.window win) (List.range (grp.window win).sectors) s = (r, t) :=
  ⟨copying, copied.2, 0, 3, 0, 0, 5, grpOf copying, copied.1, group_of (by decide +kernel), by decide +kernel, by decide +kernel,
    List.isEmpty_iff.mp (by decide +kernel), ⟨false, 1, by decide +kernel⟩, by decide +kernel, rfl⟩

theorem meets_WindowSteps_sector : ∃ (s : State) (g win k core : Nat) (grp : Group), s.MemoryOk ∧ s.group g = some grp
    ∧ grp.core = some core ∧ grp.winFirst (grp.window win) + k < 12288 :=
  ⟨world, 0, 0, 12287, 0, grpOf world, world_memoryOk, group_of (by decide +kernel), by decide +kernel, by decide +kernel⟩

def barrier3 (b : Barrier) : State := withGroup (fun g => { g with barriers := g.barriers.set 3 b })
def armed : Barrier := { Barrier.uninit with init := true, expect := 1 }
def bar3 : ASY := { asy with bar := 3, acls := 1 }

theorem meets_BarrierInstructions_binit : ∃ (k : Ctl) (f : ASY) (s : State) (x : View), s.view = some x ∧ x.has [7]
    ∧ f.bar.toNat < x.grp.barriers.length ∧ x.active k ≠ 0 ∧ (x.grp.barrier f.bar.toNat).init = false
    ∧ 1 ≤ (uniformOpd x f (x.active k)).toNat ∧ (uniformOpd x f (x.active k)).toNat ≤ 32
    ∧ (uniformOpd x f (x.active k)).toNat ≤ x.grp.courses.length :=
  let s := withCourse (fun c => c.setS 0 ⟨1, false⟩)
  ⟨pt, bar3, s, viewOf s, view_viewOf (by decide +kernel), has_of (by decide +kernel), by decide +kernel, by decide +kernel,
    by decide +kernel, by decide +kernel, by decide +kernel, by decide +kernel⟩

theorem meets_BarrierInstructions : ∃ (k : Ctl) (f : ASY) (s : State) (x : View), s.view = some x ∧ x.has [7]
    ∧ f.bar.toNat < x.grp.barriers.length ∧ x.active k ≠ 0 ∧ (x.grp.barrier f.bar.toNat).init = true
    ∧ (x.grp.barrier f.bar.toNat).overfull x.sel.course = false
    ∧ (∀ n, inMask (x.active k) n = true → (x.crs.lane n).inHandler = false) ∧ x.reach k (dstOf f.dcls f.d).vregs
    ∧ x.reach k (opdOf f.acls f.a).vregs :=
  let s := barrier3 armed
  ⟨pt, { bar3 with acls := 0, a := 255, d := 255 }, s, viewOf s, view_viewOf (by decide +kernel), has_of (by decide +kernel),
    by decide +kernel, by decide +kernel, by decide +kernel, by decide +kernel,
    fun n hn => by
      have h : (List.range 32).all (fun n => !((viewOf s).crs.lane n).inHandler) = true := by decide +kernel
      simp only [List.all_eq_true, List.mem_range, Bool.not_eq_true'] at h
      exact h n (inMask_lt hn),
    reach_of (by decide +kernel), reach_of (by decide +kernel)⟩

theorem meets_BarrierInstructions_bexp : ∃ (k : Ctl) (f : ASY) (s : State) (x : View) (p : Int), s.view = some x ∧ x.has [7]
    ∧ f.bar.toNat < x.grp.barriers.length ∧ x.active k ≠ 0 ∧ (x.grp.barrier f.bar.toNat).init = true
    ∧ p = (x.grp.barrier f.bar.toNat).pend + (uniformOpd x f (x.active k)).toInt ∧ -2 ^ 63 ≤ p ∧ p ≤ 2 ^ 63 - 1 :=
  let s := (barrier3 armed).updCourse 0 0 (fun c => c.setS 0 ⟨0x7FFFFFFFFFFFFFFF, false⟩)
  ⟨pt, bar3, s, viewOf s, 2 ^ 63 - 1, view_viewOf (by decide +kernel), has_of (by decide +kernel), by decide +kernel, by decide +kernel,
    by decide +kernel, by decide +kernel, by decide, by decide⟩

theorem meets_BarrierPhaseCompletes : ∃ (s : State) (g i c n : Nat) (grp : Group) (b : Barrier), s.group g = some grp
    ∧ i < grp.barriers.length ∧ c < grp.courses.length ∧ n < 32 ∧ grp.barrier i = b ∧ b.init = true ∧ b.arrived = b.expect
    ∧ (b.cp = true → b.cpArr = true) ∧ b.pend = 0 ∧ ((grp.course c).lane n).hold = .barrier i b.phase :=
  let b : Barrier := { armed with arrived := 1, arrMask := 1, cp := true, cpArr := true }
  let s := (barrier3 b).updLane 0 0 31 (fun l => { l with hold := .barrier 3 false })
  ⟨s, 0, 3, 0, 31, grpOf s, b, group_of (by decide +kernel), by decide +kernel, by decide +kernel, by decide, by decide +kernel,
    rfl, rfl, fun _ => rfl, rfl, by decide +kernel⟩

/-- Events have fallen on barrier 3 alone. -/
def tested : State := barrier3 { armed with arrived := 1, arrMask := 1, due := true }

theorem meets_BarrierPhaseCompletes_due : ∃ (s : State) (g i : Nat) (grp : Group),
    s.groups.filter (fun e => e.2.state = .resident
      && (List.range e.2.barriers.length).any (fun j => (e.2.barrier j).due)) = [(g, grp)]
    ∧ s.group g = some grp ∧ i < grp.barriers.length ∧ (∀ j, j < grp.barriers.length → ((grp.barrier j).due = true ↔ j = i)) :=
  ⟨tested, 0, 3, grpOf tested, by rfl, group_of (by decide +kernel), by decide +kernel, by decide +kernel⟩

/-! ### The matrix engine -/

/-- The last tile, the last A register, a scratchpad operand from S0 and the slot FS1 twice. -/
def mat1 : MAT := { mat with zd := 1, va := 248, bcls := 1, sla := 1, slb := 1, vx := 255 }

theorem meets_MatrixInstructions_joins : ∀ op ∈ [MatOp.mma, .mmaz, .zld, .zst, .zmov, .zrmax, .zrscale],
    ∃ (k : Ctl) (f : MAT) (s : State) (x : View), s.view = some x ∧ x.active k ≠ 0
      ∧ (∀ n, inMask (x.active k) n = true → x.laneCause (matShape op f s x) n = none) ∧ x.matFull = false
      ∧ x.counterFull 1 1 = false ∧ matTouches op f x = false := by
  intro op hop
  have h : [MatOp.mma, .mmaz, .zld, .zst, .zmov, .zrmax, .zrscale].all (fun op => (List.range 32).all (fun n =>
      (w0.laneCause (matShape op mat1 world w0) n).isNone) && !matTouches op mat1 w0) = true := by decide +kernel
  have g := List.all_eq_true.mp h op hop
  simp only [Bool.and_eq_true, Bool.not_eq_true', List.all_eq_true, List.mem_range, Option.isNone_iff_eq_none] at g
  exact ⟨pt, mat1, world, w0, world_view, by decide +kernel, fun n hn => g.1 n (inMask_lt hn), by decide +kernel, by decide +kernel, g.2⟩

def entry : MatEntry := matEntry world w0 pt .mma mat1 1 0

/-- Core 31 of a device whose matrix queue holds an entry. -/
def queued (e : MatEntry) : State := world.setCore 31 { Core.reset with matQ := [e] }

theorem meets_MatrixInstructions_start : ∃ (s u : State) (c : Nat) (e r : MatEntry) (rest : List MatEntry),
    (s.core c).matQ = e :: rest ∧ e.started = false ∧ e.bHave = [] ∧ matMissing s c e = false ∧ pairBlocks s c e = false
    ∧ (u.core c).matQ = r :: rest ∧ r.started = false ∧ r.bHave ≠ [] ∧ matMissing u c r = false ∧ pairBlocks u c r = false :=
  ⟨queued entry, queued { entry with bHave := [0] }, 31, entry, { entry with bHave := [0] }, [], by rfl, by rfl, by decide +kernel,
    by decide +kernel, by decide +kernel, by rfl, by rfl, by decide, by decide +kernel, by decide +kernel⟩

theorem meets_MatrixInstructions_retire : ∃ (s : State) (c : Nat) (e : MatEntry) (rest : List MatEntry), (s.core c).matQ = e :: rest
    ∧ e.started = true :=
  ⟨queued { entry with started := true }, 31, { entry with started := true }, [], by rfl, by rfl⟩

/-! ### Branches and the other control instructions -/

/-- A target operand in V255, and the state in which V255 of lane 0 holds the marked slot's address. -/
def brV : BR := { br with xr := 255 }
def aimed : State := withLane (fun l => { l with v := l.v.set 255 (fetchBase + 4) })

theorem meets_BranchesGoToTargets_direct : ∃ (k : Ctl) (f : BR) (s : State) (x : View) (n : Nat), s.view = some x ∧ x.has [0]
    ∧ laneList x.sel.mask = [n] ∧ (x.crs.lane n).guardP k = false ∧ (x.crs.lane n).guard k = true ∧ Marked s x (branchTarget x.sel.pc f)
    ∧ (x.crs.lane n).depth.toNat ≠ x.grp.dlim
    ∧ ((s.laneAt x n).depth.toNat < 8 ∨ alGet (s.laneAt x n).entries ((s.laneAt x n).depth.toNat - 7) = none) :=
  ⟨pt, br, world, w0, 0, world_view, has_of (by decide +kernel), by decide +kernel, by decide +kernel, by decide +kernel,
    marked_of (by decide +kernel), by decide +kernel, by decide +kernel⟩

theorem meets_BranchesGoToTargets_register : ∃ (k : Ctl) (f : BR) (s : State) (x : View) (n : Nat), s.view = some x ∧ x.has [0]
    ∧ laneList x.sel.mask = [n] ∧ (x.crs.lane n).guardP k = false ∧ (x.crs.lane n).guard k = true
    ∧ (∀ r ∈ (targetOpd f).vregs, x.vOk n r = true) ∧ (x.opd 64 n (targetOpd f)).poison = false
    ∧ Marked s x (x.opd 64 n (targetOpd f)).val ∧ (x.crs.lane n).depth.toNat ≠ x.grp.dlim
    ∧ ((s.laneAt x n).depth.toNat < 8 ∨ alGet (s.laneAt x n).entries ((s.laneAt x n).depth.toNat - 7) = none) :=
  ⟨pt, brV, aimed, viewOf aimed, 0, view_viewOf (by decide +kernel), has_of (by decide +kernel), by decide +kernel, by decide +kernel,
    by decide +kernel, by decide +kernel, by decide +kernel, marked_of (by decide +kernel), by decide +kernel, by decide +kernel⟩

/-- Lane 0 is nine calls deep and its core holds the entries 1 to 9. -/
def nested : State := withLane (fun l => { l with depth := 9, entries := (List.range 9).map (fun i => (9 - i, ⟨fetchBase + 16, false⟩)) })

theorem meets_BranchesGoToTargets_return : ∃ (k : Ctl) (s : State) (x : View) (n : Nat) (e : PWord), s.view = some x ∧ x.has [0]
    ∧ laneList x.sel.mask = [n] ∧ (x.crs.lane n).guardP k = false ∧ (x.crs.lane n).guard k = true ∧ (s.laneAt x n).depth ≠ 0
    ∧ (s.laneAt x n).tx.state = .idle ∧ alGet (s.laneAt x n).entries (s.laneAt x n).depth.toNat = some e ∧ e.poison = false
    ∧ pcValid e.val = true ∧ (9 ≤ (s.laneAt x n).depth.toNat →
        (alGet (s.laneAt x n).entries ((s.laneAt x n).depth.toNat - 8)).isSome = true) :=
  ⟨pt, nested, viewOf nested, 0, ⟨fetchBase + 16, false⟩, view_viewOf (by decide +kernel), has_of (by decide +kernel), by decide +kernel,
    by decide +kernel, by decide +kernel, by decide +kernel, by decide +kernel, by decide +kernel, rfl, by decide +kernel,
    by decide +kernel⟩

theorem meets_BranchesGoToTargets_through : ∃ (k : Ctl) (f : BR) (s : State) (x : View) (n : Nat), s.view = some x ∧ x.has [0]
    ∧ laneList x.sel.mask = [n] ∧ (x.crs.lane n).guardP k = false ∧ (x.crs.lane n).guard k = false
    ∧ (∀ r ∈ (targetOpd f).vregs, x.vOk n r = true) :=
  ⟨{ pt with gneg := 1 }, brV, world, w0, 0, world_view, has_of (by decide +kernel), by decide +kernel, by decide +kernel,
    by decide +kernel, by decide +kernel⟩

theorem meets_ControlInstructions_exit : ∃ (k : Ctl) (s : State) (x : View) (n : Nat), s.view = some x ∧ x.only k n ∧ x.has [0]
    ∧ (x.crs.lane n).inHandler = false ∧ (x.crs.lane n).tx.state = .idle :=
  ⟨pt, world, w0, 0, world_view, only_of (by decide +kernel), has_of (by decide +kernel), by decide +kernel, by decide +kernel⟩

/-- A holder's EXIT. -/
theorem meets_ControlInstructions_holder : ∃ (k : Ctl) (s : State) (x : View) (n : Nat), s.view = some x ∧ x.only k n ∧ x.has [0]
    ∧ (x.crs.lane n).inHandler = false ∧ (x.crs.lane n).tx.state = .irrevocable :=
  let s := withLane (fun l => { l with tx := { l.tx with state := .irrevocable } })
  ⟨pt, s, viewOf s, 0, view_viewOf (by decide +kernel), only_of (by decide +kernel), has_of (by decide +kernel), by decide +kernel,
    by decide +kernel⟩

theorem meets_ControlInstructions_sleep : ∃ (k : Ctl) (f : SYS) (s : State) (x : View), s.view = some x ∧ x.has [0]
    ∧ x.reach k (if f.code.getLsbD 15 then (sleepOpd f).vregs else []) :=
  ⟨pt, { sys with code := 0x8000, a := 255 }, world, w0, world_view, has_of (by decide +kernel), reach_of (by decide +kernel)⟩

/-- A course with a quota of 8 columns in a role that has 256. -/
def small : State := withCourse (fun c => { c with quota := 8 })

theorem meets_ControlInstructions_regq : ∀ q ∈ [8, 256], ∃ (k : Ctl) (f : SYS) (s : State) (x : View), f.code = BitVec.ofNat 16 q
    ∧ s.view = some x ∧ x.has [0] ∧ x.active k ≠ 0 ∧ regqWaits x k = false
    ∧ (∀ n, inMask (x.active k) n = true → (x.crs.lane n).inHandler = false) ∧ f.code.toNat ≤ quotaMax x ∧ x.crs.quota = 8 := by
  intro q hq
  refine ⟨pt, { sys with code := BitVec.ofNat 16 q }, small, viewOf small, rfl, view_viewOf (by decide +kernel),
    has_of (by decide +kernel), by decide +kernel, by decide +kernel, fun n hn => ?_, ?_, by decide +kernel⟩
  · have h : (List.range 32).all (fun n => !((viewOf small).crs.lane n).inHandler) = true := by decide +kernel
    simp only [List.all_eq_true, List.mem_range, Bool.not_eq_true'] at h
    exact h n (inMask_lt hn)
  · have h : ∀ q ∈ [8, 256], (BitVec.ofNat 16 q).toNat ≤ quotaMax (viewOf small) := by decide +kernel
    exact h q hq

/-- Lane 0 asks for all 256 columns of its role. -/
def asking : State := (withGroup (fun g => { g with regq := [[⟨0, 256, 1⟩]] })).updCourse 0 0
  (fun c => { c.updLane 0 (fun l => { l with hold := .regq }) with quota := 8 })

theorem meets_WaitsEnd_regq : ∃ (s : State) (g role : Nat) (grp : Group) (r : RegqReq), s.group g = some grp ∧ role < grp.regq.length
    ∧ grp.regq.getD role [] = [r] ∧ r.course < grp.courses.length ∧ (grp.course r.course).quota ≤ r.quota ∧ r.quota ≤ 256
    ∧ r.quota ≤ (grp.course r.course).quota + roleFree grp role ∧ inMask r.mask 0 = true
    ∧ (s.lane g r.course 0).hold = .regq ∧ (s.courseAt g r.course).trap ≠ .handler :=
  ⟨asking, 0, 0, grpOf asking, ⟨0, 256, 1⟩, group_of (by decide +kernel), by decide +kernel, by decide +kernel, by decide +kernel,
    by decide +kernel, by decide, by decide +kernel, by decide, by decide +kernel, by decide +kernel⟩

/-- The lanes that wait are frozen, and a lane whose fill is on its way is. -/
theorem meets_WaitsEnd_frozen : ∃ (s u : State) (r : RegqReq), (s.courseAt 0 r.course).trap = .handler ∧ inMask r.mask 0 = true
    ∧ (s.lane 0 r.course 0).hold = .regq ∧ (u.courseAt 0 0).frozen 0 = true
    ∧ (match (u.lane 0 0 0).hold with | .fill _ _ _ _ => true | _ => false) = true :=
  ⟨asking.updCourse 0 0 (fun c => { c with trap := .handler }), (withLane (fun l => { l with depth := 1, hold := .fill none none 0 false })).updCourse
    0 0 (fun c => { c with trap := .handler }), ⟨0, 256, 1⟩, by decide +kernel, by decide, by decide +kernel, by decide +kernel, by decide +kernel⟩

theorem meets_WaitsEnd_sleep : ∀ w ∈ [0, 1], ∃ (s : State) (g c n k : Nat) (grp : Group), s.group g = some grp ∧ n < 32
    ∧ grp.core = some k ∧ ((grp.course c).lane n).hold = .sleep w ∧ s.cycle k = 0 := by
  intro w hw
  have hg (w : Nat) : ((world.updLane 0 0 31 (fun l => { l with hold := .sleep w })).group 0).isSome = true := by rfl
  rcases List.mem_cons.mp hw with rfl | hw
  · exact ⟨world.updLane 0 0 31 (fun l => { l with hold := .sleep 0 }), 0, 0, 31, 0, _, group_of (hg 0), by decide, by decide +kernel,
      by decide +kernel, by decide +kernel⟩
  · rcases List.mem_singleton.mp hw with rfl
    exact ⟨world.updLane 0 0 31 (fun l => { l with hold := .sleep 1 }), 0, 0, 31, 0, _, group_of (hg 1), by decide, by decide +kernel,
      by decide +kernel, by decide +kernel⟩

/-- Lane 0 is nine calls deep, its core holds the entry below the top, and a RET's two entries are on their way. -/
def returning : State := withLane (fun l => { l with
  depth := 9, entries := [(8, ⟨fetchBase + 16, false⟩)],
  hold := .fill (some ⟨⟨fetchBase + 4, false⟩, []⟩) (some ⟨⟨fetchBase + 28, false⟩, [.host]⟩) 5 false })

theorem meets_WaitsEnd_fill : ∃ (s : State) (g c n token : Nat) (grp : Group) (e below : Option StackFill) (b : StackFill) (counted : Bool)
    (v : PWord),
    s.group g = some grp ∧ n < 32 ∧ ((grp.course c).lane n).hold = .fill e below token counted ∧ fillTrains s e below = false
    ∧ (grp.course c).frozen n = false ∧ (e.map (·.word)).orElse (fun _ => alGet ((grp.course c).lane n).entries ((grp.course c).lane n).depth.toNat) = some v
    ∧ v.poison = false ∧ pcValid v.val = true
    ∧ (((grp.course c).lane n).tx.state = .irrevocable → ((grp.course c).lane n).tx.beginD ≠ ((grp.course c).lane n).depth)
    ∧ below = some b ∧ alGet ((grp.course c).lane n).entries (((grp.course c).lane n).depth.toNat - 8) = none :=
  ⟨returning, 0, 0, 0, 5, grpOf returning, some ⟨⟨fetchBase + 4, false⟩, []⟩, some ⟨⟨fetchBase + 28, false⟩, [.host]⟩,
    ⟨⟨fetchBase + 28, false⟩, [.host]⟩, false, ⟨fetchBase + 4, false⟩, group_of (by decide +kernel),
    by decide, by decide +kernel, by decide +kernel, by decide +kernel, rfl, rfl, by decide +kernel, by decide +kernel, rfl,
    by decide +kernel⟩

/-- The host's port trains meanwhile. -/
theorem meets_WaitsEnd_trains : ∃ (s : State) (g c n token : Nat) (grp : Group) (e below : Option StackFill) (counted : Bool),
    s.group g = some grp ∧ n < 32 ∧ ((grp.course c).lane n).hold = .fill e below token counted ∧ fillTrains s e below = true :=
  let s := returning.updPort 0 (fun p => { p with state := .training })
  ⟨s, 0, 0, 0, 5, grpOf s, some ⟨⟨fetchBase + 4, false⟩, []⟩, some ⟨⟨fetchBase + 28, false⟩, [.host]⟩, false,
    group_of (by decide +kernel), by decide, by decide +kernel, by decide +kernel⟩

/-- The issue groups of course 0 of group 0, which core 0 may pick. -/
def choice : List IssueGroup := (eligible world 0 0 0).map (·.1)

theorem meets_SelectionPicksIssueGroup_pick : ∃ (s : State) (core g c : Nat) (grp : Group) (i : IssueGroup), s.group g = some grp
    ∧ grp.state = .resident ∧ grp.core = some core ∧ grp.halting = false ∧ (grp.course c).ended = false
    ∧ ((s.core core).handler.isSome = true ∨ (s.core core).handlerQ = []) ∧ mayServe s core g c = true
    ∧ (∀ n, n < 32 → ((grp.course c).lane n).dropped ≠ .due) ∧ pick (grp.course c) ((eligible s core g c).map (·.1)) = some i
    ∧ ((s.core core).line (lineOf i.pc) (s.groupCtx grp)).isSome = true :=
  ⟨world, 0, 0, 0, grpOf world, (pick ((grpOf world).course 0) choice).getD ⟨0, 0, 0⟩, group_of (by decide +kernel), by decide +kernel,
    by decide +kernel, by decide +kernel, by decide +kernel, .inr (by decide +kernel), by decide +kernel, by decide +kernel,
    some_of (by decide +kernel), by decide +kernel⟩

theorem meets_SelectionPicksIssueGroup_order : ∃ c : Course, c.isForced = false ∧ choice ≠ [] :=
  ⟨(grpOf world).course 0, by decide +kernel, by decide +kernel⟩

/-- A FENCE is chosen in a lane with a load in flight that may still be performed. -/
def fencing : State := (worldOf 0x000F7A030000001300000000).updCourse 0 0 (fun c => { c with
  inflight := [⟨none, 1, [.late 0 255 ⟨7, false⟩ false 0 [⟨.hbm, 0x1000, 0, 64, 0⟩] false], []⟩] })

theorem meets_SelectionPicksIssueGroup_loads : ∃ (s : State) (x : View) (l : ILine) (i : Instr), s.view = some x
    ∧ lineSeen s x = some l ∧ slotDecode l (slotOf x.sel.pc) = .ok i ∧ ordersLoads i = true ∧ inMask x.sel.mask 0 = true
    ∧ x.crs.lateSectors 0 ≠ [] :=
  ⟨fencing, viewOf fencing, (lineSeen fencing (viewOf fencing)).getD ⟨0, false⟩,
    .fence pt { mem 0 0 0 with space := 0, order := 2, scope := 3, width := 0 }, view_viewOf (by decide +kernel),
    some_of (by decide +kernel), by decide +kernel, rfl, by decide +kernel, by decide +kernel⟩

-- R195, R197: what is in flight comes before the FENCE.
theorem test_order_loads : ((orderLoads fencing).courseAt 0 0).lateSectors 0 = [] := by decide +kernel

theorem fetch_ok {r : FetchRes × State} {t : Tgt} {pa : Nat}
    (h : (match r.1 with | .place u p => u == t && p == pa | _ => false) = true) : r = (.place t pa, r.2) := by
  obtain ⟨a, b⟩ := r
  cases a <;> simp_all

theorem fetch_bad {r : FetchRes × State} {c : Cause} (h : (match r.1 with | .bad d => d == c | _ => false) = true) :
    r = (.bad c, r.2) := by
  obtain ⟨a, b⟩ := r
  cases a <;> simp_all

theorem meets_CoreSteps_line : ∃ (s t : State) (core g : Nat) (line : Word) (grp : Group) (tgt : Tgt) (pa : Nat), s.group g = some grp
    ∧ grp.core = some core ∧ fetchPlace s grp line.toNat = (.place tgt pa, t) ∧ linkTrains t tgt = false :=
  ⟨world, (fetchPlace world (grpOf world) 0x100080).2, 0, 0, 0x100080, grpOf world, .hbm, 0x100080, group_of (by decide +kernel),
    by decide +kernel, fetch_ok (by decide +kernel), by decide +kernel⟩

/-- The line lies in host memory, whose port trains, or is down. -/
def hostPortIs (st : LinkState) : State := world.updPort 0 (fun p => { p with state := st })

/-- A place whose port trains. (Whether the host rejects the fetch is a free value, log entry 13.) -/
theorem meets_CoreSteps_trains : ∃ (s : State) (t : Tgt), linkTrains s t = true := ⟨hostPortIs .training, .host, by decide +kernel⟩

theorem meets_CoreSteps_lost : ∃ (s t : State) (core g : Nat) (line : Word) (grp : Group) (c : Cause), s.group g = some grp
    ∧ grp.core = some core ∧ fetchPlace s grp line.toNat = (.bad c, t) ∧ lineLost t grp line.toNat = true :=
  ⟨hostPortIs .down, (fetchPlace (hostPortIs .down) (grpOf (hostPortIs .down)) 0x40000000).2, 0, 0, 0x40000000,
    grpOf (hostPortIs .down), .pageFatal, group_of (by decide +kernel), by decide +kernel,
    fetch_bad (by decide +kernel), by decide +kernel⟩

/-- A result of a long-latency operation for V255 of lane 31, with the last flag. -/
def pending : State := withCourse (fun c => { c with
  inflight := [⟨some 11, 1, [.v 31 255 ⟨7, false⟩], []⟩], flags := c.flags.set 11 1 })

theorem meets_CoreSteps_result : ∃ (s : State) (g c i n r core : Nat) (grp : Group) (op : LongOp) (v : PWord) (j : Fin 12),
    s.group g = some grp ∧ grp.core = some core ∧ n < 32 ∧ r < 256
    ∧ (grp.course c).inflight[i % max 1 (grp.course c).inflight.length]? = some op ∧ op.writes = [.v n r v] ∧ op.flag = some j :=
  ⟨pending, 0, 0, 0, 31, 255, 0, grpOf pending, ⟨some 11, 1, [.v 31 255 ⟨7, false⟩], []⟩, ⟨7, false⟩, 11, group_of (by decide +kernel),
    by decide +kernel, by decide, by decide, by decide +kernel, rfl, rfl⟩

/-- A load for V255 of lane 31 that may still be performed, and a result for S63 behind an earlier one for it. -/
def lateIn : State := withCourse (fun c => { c with inflight := [⟨none, 1, [.late 31 255 ⟨7, false⟩ false 0 [⟨.hbm, 0x1000, 0, 64, 0⟩] false], []⟩] })
def twice : State := withCourse (fun c => { c with
  inflight := [⟨none, 1, [.s 63 ⟨1, false⟩], []⟩, ⟨none, 1, [.s 63 ⟨2, false⟩], []⟩] })

theorem meets_CoreSteps_late : (∃ (s : State) (i : Nat) (grp : Group) (op : LongOp) (v : PWord) (ps : List Piece), s.group 0 = some grp
      ∧ grp.core = some 0 ∧ (grp.course 0).inflight[i % max 1 (grp.course 0).inflight.length]? = some op
      ∧ op.writes = [.late 31 255 v false 0 ps false])
    ∧ ∃ (s : State) (i : Nat) (grp : Group) (op : LongOp) (v : PWord), s.group 0 = some grp ∧ grp.core = some 0
      ∧ (grp.course 0).inflight[i % max 1 (grp.course 0).inflight.length]? = some op ∧ op.writes = [.s 63 v]
      ∧ i % max 1 (grp.course 0).inflight.length = 1 :=
  ⟨⟨lateIn, 0, grpOf lateIn, ⟨none, 1, _, []⟩, _, _, group_of (by decide +kernel), by decide +kernel, by rfl, rfl⟩,
    ⟨twice, 1, grpOf twice, ⟨none, 1, _, []⟩, _, group_of (by decide +kernel), by decide +kernel, by rfl, rfl, by decide +kernel⟩⟩

/-- The later of two results for S63 lands: its value stands, and the earlier is gone with it (R136). -/
theorem test_s_order : (match exec (.longLatencyComplete 0 0 1) twice with
    | .next t => ((t.courseAt 0 0).getS 63, (t.courseAt 0 0).inflight.map (·.writes))
    | _ => (⟨0, false⟩, [])) = (⟨2, false⟩, [[]]) := by decide +kernel

def faulted : State := world.updLane 0 0 31 (fun l => { l with hold := .fault [3] })

theorem meets_CoreSteps_replay : ∃ (s : State) (g c n : Nat) (grp : Group), s.group g = some grp ∧ n < 32 ∧ c < grp.courses.length
    ∧ holdOver s ((grp.course c).lane n).hold = true :=
  ⟨faulted, 0, 0, 31, grpOf faulted, group_of (by decide +kernel), by decide, by decide +kernel, by decide +kernel⟩

/-! ### Traps and handler mode -/

theorem canTrap : CanTrap world w0 0 :=
  ⟨by decide +kernel, by decide +kernel, by decide +kernel, by decide +kernel, by decide +kernel⟩

theorem meets_TrapInstructionsAwaitHandler : ∃ (k : Ctl) (s : State) (x : View) (n core : Nat), s.view = some x ∧ x.only k n
    ∧ CanTrap s x n ∧ x.grp.core = some core ∧ x.grp.halting = false ∧ x.crs.trap ≠ .handler
    ∧ (s.core core).handlerQ.contains (x.sel.grp, x.sel.course) = false :=
  ⟨pt, world, w0, 0, 0, world_view, only_of (by decide +kernel), canTrap, by decide +kernel, by decide +kernel, by decide +kernel,
    by decide +kernel⟩

/-- Lanes 0 and 31 await the handler. -/
def awaiting : State :=
  let p : Lane → Lane := fun l => { l with pend := some ⟨.software, 3, fetchBase + 4, none⟩, depth := 7 }
  let s := (world.updLane 0 0 0 p).updLane 0 0 31 p
  (s.updCourse 0 0 (fun c => { c with trap := .waiting })).setCore 0 { s.core 0 with handlerQ := [(0, 0)] }

theorem meets_HandlerEntrySavesState : ∃ (s : State) (k g c : Nat) (rest : List (Nat × Nat)) (grp : Group), (s.core k).handler = none
    ∧ (s.core k).handlerQ = (g, c) :: rest ∧ s.group g = some grp ∧ c < grp.courses.length
    ∧ ∃ n p, n < 32 ∧ (s.lane g c n).pend = some p :=
  ⟨awaiting, 0, 0, 0, [], grpOf awaiting, by decide +kernel, by decide +kernel, group_of (by decide +kernel), by decide +kernel, 31,
    ⟨.software, 3, fetchBase + 4, none⟩, by decide, by decide +kernel⟩

/-- Lane 0, and maybe lane 31, is in the handler. -/
def handling (both : Bool) : State :=
  let p : Lane → Lane := fun l => { l with
    inHandler := true, depth := 0, entryD := 7, trapPc := ⟨fetchBase + 16, false⟩, trapCause := ⟨0x302, false⟩ }
  let s := (world.updLane 0 0 0 p).updLane 0 0 31 (if both then p else id)
  (s.updCourse 0 0 (fun c => { c with trap := .handler })).setCore 0 { s.core 0 with handler := some (0, 0) }

theorem meets_HandlerReturns : ∀ b, ∃ (k : Ctl) (s : State) (x : View) (n core : Nat), s.view = some x ∧ x.only k n
    ∧ x.crs.trap = .handler ∧ x.grp.core = some core ∧ badReturn (x.crs.lane n) = none
    ∧ (x.crs.lane n).trapCause.val.getLsbD 63 = false ∧ (x.crs.lane n).pend = none ∧ (x.crs.lane n).hold ≠ .regq
    ∧ (x.crs.lane 31).inHandler = b := by
  intro b
  refine ⟨pt, handling b, viewOf (handling b), 0, 0, view_viewOf ?_, only_of ?_, ?_, ?_, ?_, ?_, ?_, ?_, ?_⟩ <;>
    cases b <;> decide +kernel

/-- Lane 31 is not in the handler, and owes a trap, or not. -/
def trappedLater (b : Bool) : State := (handling false).updLane 0 0 31 (fun l => { l with
  pend := if b then some ⟨.software, 3, fetchBase + 4, none⟩ else none })

theorem meets_HandlerReturns_last : ∀ b, ∃ (k : Ctl) (s : State) (x : View) (n core : Nat), s.view = some x ∧ x.only k n
    ∧ x.crs.trap = .handler ∧ x.grp.core = some core ∧ badReturn (x.crs.lane n) = none
    ∧ (x.crs.lane n).trapCause.val.getLsbD 63 = false ∧ (x.crs.lane n).pend = none ∧ (x.crs.lane n).hold ≠ .regq
    ∧ (∀ m, m < 32 → m ≠ n → (x.crs.lane m).inHandler = false)
    ∧ (x.crs.lane 31).pend.isSome = b ∧ x.grp.alive = true ∧ x.grp.halting = false
    ∧ ((alGet s.ctxs (s.groupCtx x.grp)).map (·.trapBase)).getD 0 ≠ 0
    ∧ ((List.range 32).all fun m => match (x.crs.lane m).pend with
      | some p => (x.crs.lane m).live && (x.crs.lane m).tx.state != .active && p.cause != .poisonConsumed && p.cause != .codeIntegrity
      | none => true) = true
    ∧ (s.core core).handlerQ.contains (x.sel.grp, x.sel.course) = false := by
  intro b
  refine ⟨pt, trappedLater b, viewOf (trappedLater b), 0, 0, view_viewOf ?_, only_of ?_, ?_, ?_, ?_, ?_, ?_, ?_, ?_, ?_, ?_, ?_, ?_, ?_,
    ?_⟩ <;> cases b <;> decide +kernel

/-- What the frozen lane owes is taken when the course leaves HANDLER (R124, R367). -/
theorem test_owed : (match exec (.hret pt sys) (trappedLater true) with
    | .next t => ((t.courseAt 0 0).trap, (t.lane 0 0 31).pend.isSome, (t.core 0).handlerQ)
    | _ => (.ordinary, false, [])) = (.waiting, true, [(0, 0)]) := by decide +kernel

theorem meets_HandlerReturns_outside : ∃ (s : State) (x : View), s.view = some x ∧ x.crs.trap ≠ .handler :=
  ⟨world, w0, world_view, by decide +kernel⟩

/-! ### Transactions -/

def inTx (t : TxState) : State := withLane (fun l => { l with tx := { l.tx with state := t, target := fetchBase + 4, beginD := 3 } })

theorem meets_TransactionBegins : ∀ t ∈ [TxState.idle, .irrevocable], ∃ (k : Ctl) (f : BR) (s : State) (x : View) (n : Nat),
    s.view = some x ∧ x.has [12] ∧ laneList x.sel.mask = [n] ∧ (x.crs.lane n).guardP k = false ∧ (x.crs.lane n).guard k = true
    ∧ (x.crs.lane n).inHandler = false ∧ x.grp.mode = .ordinary ∧ Marked s x (branchTarget x.sel.pc f)
    ∧ x.sel.course < x.grp.courses.length ∧ (x.crs.lane n).tx.state = t ∧ (x.crs.lane n).tx.aborts.toNat < 4
    ∧ (x.crs.lane n).tx.nest ≠ 255 := by
  intro t ht
  refine ⟨pt, br, inTx t, viewOf (inTx t), 0, view_viewOf ?_, has_of ?_, ?_, ?_, ?_, ?_, ?_, marked_of ?_, ?_, ?_, ?_, ?_⟩ <;>
    rcases List.mem_cons.mp ht with rfl | ht <;> (try rcases List.mem_singleton.mp ht with rfl) <;> decide +kernel

theorem meets_TransactionEnds : ∀ t ∈ [TxState.idle, .active], ∃ (k : Ctl) (f : ASY) (s : State) (x : View) (n : Nat),
    s.view = some x ∧ x.has [12] ∧ x.only k n ∧ (x.crs.lane n).tx.state = t ∧ x.reach k (opdOf f.acls f.a).vregs
    ∧ x.reach k (dstOf f.dcls f.d).vregs := by
  intro t ht
  refine ⟨pt, { asy with a := 255, d := 255 }, inTx t, viewOf (inTx t), 0, view_viewOf ?_, has_of ?_, only_of ?_, ?_, reach_of ?_,
    reach_of ?_⟩ <;>
    rcases List.mem_cons.mp ht with rfl | ht <;> (try rcases List.mem_singleton.mp ht with rfl) <;> decide +kernel

/-- Lane 0 validates a transaction that read the last sector of HBM, as zero or not. -/
def validating (read : BitVec 256) : State :=
  (inTx .validating).updCourse 0 0 (fun c => { c.updLane 0 (fun l => { l with hold := .txend, tx := { l.tx with
    rlog := [⟨0x8000000000 / 32 - 1, read⟩] } }) with txends := [⟨1, 1, 0, none, 0⟩] })

def verdictOn (s : State) : State := drainCourse (s.updCourse 0 0 (fun x => { x with txends := [] })) 0 0

def verdictLane (s : State) : Lane := (((verdictOn s).group 0).map (·.course 0)).getD Course.reset |>.lane 0

theorem fst_of {α β : Type} {r : α × β} {a : α} (h : r.1 = a) : r = (a, r.2) := Prod.ext h rfl

theorem meets_TransactionVerdicts_verdict : ∀ e ∈ [(0#256, none), (1#256, some 1)], ∃ (s s0 s1 : State) (g c n : Nat) (grp : Group)
    (d : TxEnd) (rest : List TxEnd) (l : Lane), s.group g = some grp ∧ (grp.course c).txends = d :: rest ∧ laneList d.active = [n] ∧ d.done = 0
    ∧ s0 = drainCourse (s.updCourse g c (fun x => { x with txends := rest })) g c
    ∧ ((grp.course c).trap ≠ .handler ∨ grp.halting = true)
    ∧ (((s0.group g).map (·.course c)).getD Course.reset).lane n = l ∧ l.live = true ∧ l.tx.state = .validating
    ∧ verdictOf s0 g c n d.lanes (s0.groupPart grp) l.tx = (e.2, s1) := by
  have h (b : BitVec 256) (r : Option Nat) (hg : ((validating b).group 0).isSome = true)
      (hc : ((grpOf (validating b)).course 0).txends = [⟨1, 1, 0, none, 0⟩]) (hh : ((grpOf (validating b)).course 0).trap ≠ .handler)
      (hl : (verdictLane (validating b)).live = true)
      (ht : (verdictLane (validating b)).tx.state = .validating)
      (hv : (verdictOf (verdictOn (validating b)) 0 0 0 1 ((verdictOn (validating b)).groupPart (grpOf (validating b)))
        (verdictLane (validating b)).tx).1 = r) := (⟨validating b, verdictOn (validating b), _, 0, 0, 0, grpOf (validating b),
      ⟨1, 1, 0, none, 0⟩, [], verdictLane (validating b), group_of hg, hc, by decide +kernel,
      by decide, by rw [verdictOn], .inl hh, by rw [verdictLane], hl, ht, fst_of hv⟩ :
    ∃ (s s0 s1 : State) (g c n : Nat) (grp : Group)
    (d : TxEnd) (rest : List TxEnd) (l : Lane), s.group g = some grp ∧ (grp.course c).txends = d :: rest ∧ laneList d.active = [n] ∧ d.done = 0
    ∧ s0 = drainCourse (s.updCourse g c (fun x => { x with txends := rest })) g c
    ∧ ((grp.course c).trap ≠ .handler ∨ grp.halting = true)
    ∧ (((s0.group g).map (·.course c)).getD Course.reset).lane n = l ∧ l.live = true ∧ l.tx.state = .validating
    ∧ verdictOf s0 g c n d.lanes (s0.groupPart grp) l.tx = (r, s1))
  simp only [List.mem_cons, List.not_mem_nil, or_false]
  rintro e (rfl | rfl)
  · exact h 0 none (by decide +kernel) (by decide +kernel) (by decide +kernel) (by decide +kernel) (by decide +kernel) (by decide +kernel)
  · exact h 1 (some 1) (by decide +kernel) (by decide +kernel) (by decide +kernel) (by decide +kernel) (by decide +kernel) (by decide +kernel)

/-- The course is in HANDLER. -/
theorem meets_TransactionVerdicts_frozen : ∃ (s : State) (grp : Group), s.group 0 = some grp ∧ (grp.course 0).txends ≠ []
    ∧ (grp.course 0).trap = .handler ∧ grp.halting = false :=
  let s := (validating 0).updCourse 0 0 (fun c => { c with trap := .handler })
  ⟨s, grpOf s, group_of (by decide +kernel), by decide +kernel, by decide +kernel, by decide +kernel⟩

theorem meets_TransactionVerdicts_lane : ∃ (s : State) (g c n : Nat) (grp : Group), s.group g = some grp ∧ c < grp.courses.length
    ∧ n < 32 ∧ ((grp.course c).lane n).tx.wlog = [] ∧ ((grp.course c).lane n).tx.state = .validating :=
  ⟨validating 0, 0, 0, 0, grpOf (validating 0), group_of (by decide +kernel), by decide +kernel, by decide, by decide +kernel,
    by decide +kernel⟩

/-! ### Records, the dispenser and the launchers -/

def launch0 : Launch := (world.launch 0).getD emptyLaunch

def asking1 : State := (withLane (fun l => { l with v := (l.v.set 252 1).set 4 1 }))

def mode1 : Bool × Option Nat := drainMode asking1 0
def granted : State := grantWaiting asking1 0 mode1.1 mode1.2
def grantedLaunch : Launch := (granted.launch 0).getD launch0

/-- V252 asks for one record of node 1, the last of the graph; the result goes to V254 and V255. -/
def rres1 : ASY := { asy with node := 1, a := 252, d := 254 }

theorem meets_RecordInstructions_rres : ∃ (k : Ctl) (f : ASY) (s t u : State) (x : View) (n : Nat) (l : Launch) (o : Obj) (a : Word)
    (mode : Bool × Option Nat),
    s.view = some x ∧ x.only k n ∧ x.has [13] ∧ x.reach k ([f.d.toNat, f.d.toNat + 1] ++ (opdOf f.acls f.a).vregs)
    ∧ (x.crs.lane n).inHandler = false ∧ mode = drainMode s x.grp.launch ∧ u = grantWaiting s x.grp.launch mode.1 mode.2
    ∧ u.graphOf x = some (l, o) ∧ (u.laneAt x n).tx.state = .idle ∧ (u.laneAt x n).hold = .none
    ∧ f.node.toNat < o.nodes.length ∧ o.succ x.grp.node f.node.toNat = true ∧ (u.laneAt x n).run f.node.toNat = none
    ∧ (u.laneAt x n).recDepth.toNat + 1 ≤ ((o.node f.node.toNat).map (·.dmax)).getD 0
    ∧ min (x.opd 64 n (opdOf f.acls f.a)).val.toNat (o.cap f.node.toNat) ≠ 0
    ∧ requestStopped u x l o = false
    ∧ grantableIn mode.1 mode.2 l o x.grp.node f.node.toNat (min (x.opd 64 n (opdOf f.acls f.a)).val.toNat (o.cap f.node.toNat)) = true
    ∧ giveRun u x.grp.launch x.sel.grp x.sel.course n f.node.toNat
      (min (x.opd 64 n (opdOf f.acls f.a)).val.toNat (o.cap f.node.toNat)) = some (a, t) := by
  refine ⟨pt, rres1, asking1, ((giveRun granted 0 0 0 0 1 1).getD (0, world)).2, granted, viewOf asking1, 0, grantedLaunch, obj0,
    ((giveRun granted 0 0 0 0 1 1).getD (0, world)).1, mode1, view_viewOf ?_, only_of ?_, has_of ?_, reach_of ?_, ?_, rfl, rfl, ?_, ?_, ?_,
    ?_, ?_, ?_, ?_, ?_, ?_, ?_, ?_⟩
  case refine_16 => exact some_of (d := (0, world)) (by decide +kernel)
  all_goals decide +kernel

/-- Lane 0 holds a run of two records of node 1. -/
def holding : State := withLane (fun l => { l with runs := [⟨1, 0, 2, 2⟩], v := l.v.set 255 2 })

theorem meets_RecordInstructions_run : ∃ (k : Ctl) (f : ASY) (s : State) (x : View) (n : Nat) (r : Run), s.view = some x ∧ x.only k n
    ∧ x.has [13] ∧ (x.crs.lane n).tx.state = .idle ∧ (x.crs.lane n).run f.node.toNat = some r
    ∧ x.reach k ((opdOf f.acls f.a).vregs ++ (if f.mod.getLsbD 0 then (opdOf f.bcls f.b).vregs else []))
    ∧ min (x.opd 64 n (opdOf f.acls f.a)).val.toNat r.size ≠ 0 :=
  ⟨pt, { asy with node := 1, a := 255, b := 255, mod := 1 }, holding, viewOf holding, 0, ⟨1, 0, 2, 2⟩, view_viewOf (by decide +kernel),
    only_of (by decide +kernel), has_of (by decide +kernel), by decide +kernel, by decide +kernel, reach_of (by decide +kernel),
    by decide +kernel⟩

theorem meets_RecordInstructions_fetch : ∃ (k : Ctl) (f : ASY) (s : State) (x : View) (n : Nat), s.view = some x ∧ x.only k n
    ∧ x.has [13] ∧ (x.crs.lane n).inHandler = false ∧ (x.crs.lane n).tx.state = .idle ∧ f.dcls = 0 ∧ x.reach k [f.d.toNat] :=
  ⟨pt, { asy with d := 255 }, world, w0, 0, world_view, only_of (by decide +kernel), has_of (by decide +kernel), by decide +kernel,
    by decide +kernel, rfl, reach_of (by decide +kernel)⟩

/-- On a lent core an item that an overflow gave back is passed over for the next, or for the indexes not taken yet. -/
theorem meets_DispenserTakes : ∃ l l' l'' : Launch, (l.returns = [⟨7, 1, true⟩] ++ ⟨3, 2, false⟩ :: []
      ∧ ∀ e ∈ [(⟨7, 1, true⟩ : Returned)], true = true ∧ e.owned = true)
    ∧ ((∀ e ∈ l'.returns, true = true ∧ e.owned = true) ∧ l'.returns ≠ [] ∧ l'.next < l'.total)
    ∧ ((∀ e ∈ l''.returns, false = true ∧ e.owned = true) ∧ l''.total ≤ l''.next) :=
  ⟨{ launch0 with returns := [⟨7, 1, true⟩, ⟨3, 2, false⟩] }, { launch0 with returns := [⟨7, 1, true⟩], next := 9 },
    { launch0 with returns := [], next := 10 }, by decide +kernel, by decide +kernel, by decide +kernel⟩

def published : State := world.updLaunch 0 (fun l => { l with pubs := [⟨0, [(0, 0)]⟩] })

theorem meets_LauncherSteps_publication : ∃ (s : State) (i : Nat) (l : Launch) (p : Publication) (rest : List Publication),
    s.launch i = some l ∧ l.pubs = p :: rest :=
  ⟨published, 0, (published.launch 0).getD launch0, ⟨0, [(0, 0)]⟩, [], some_of (by decide +kernel), by decide +kernel⟩

theorem ticks_ge (r : Nat → Nat) (n : Nat) : n ≤ ticks r n := by
  induction n with
  | zero => exact Nat.zero_le _
  | succ n ih => rw [ticks]; omega

/-- The record of the GATHER node 1 has been pending as long as its timer says (R340). -/
def due : State := { world with time := 5 }

theorem meets_LauncherSteps_timer : ∃ (s : State) (i t : Nat) (l : Launch) (o : Obj) (nd : Node) (r : Record) (rest : List Record),
    s.launch i = some l ∧ s.launchObj l = some o ∧ o.node t = some nd ∧ nd.kind = .gather ∧ nd.timer ≠ 0 ∧ l.pending t = r :: rest
    ∧ r.age + nd.timer ≤ s.launcherCycle l.cluster :=
  ⟨due, 0, 1, launch0, obj0, { node0 with kind := .gather, timer := 5 }, rec0 1 .pending, [], some_of (by decide +kernel),
    by decide +kernel, rfl, rfl, by decide, by decide +kernel, ticks_ge _ 5⟩

theorem meets_LauncherSteps_record : ∃ (p : Publication) (l : Launch) (j : Nat) (r : Record), l.records[j]? = some r
    ∧ r.state = .written ∧ (r.block, r.slot) ∈ p.records :=
  ⟨⟨0, [(0, 0)]⟩, launch0, 0, rec0 0 .written, by decide +kernel, rfl, by decide⟩

/-! ### Groups, slots and code objects -/

/-- Group 0 waits to be placed, and the arbiter's visit is at its owner, which may spend. -/
def waiting : State :=
  (withGroup (fun g => { g with state := .pending, core := none, placed := false, saveLen := 4096 })).updPart 0 (fun p =>
    { p with visit := some 0, deficits := [(0, 1000000000)] })

def arbiter : List Nat × List Place × State :=
  match arbitrate waiting 0 0 with
  | .place u ps t => (u, ps, t)
  | _ => ([], [], world)

theorem meets_GroupSteps_place : ∃ (s t : State) (p : Place) (ps qs : List Place) (u : List Nat) (grp : Group), s.group p.grp = some grp
    ∧ arbitrate s (s.groupPart grp) 0 = .place u qs t ∧ placesOk s u (p :: ps) = true := by
  refine ⟨waiting, arbiter.2.2, ⟨0, 1, 0⟩, [], arbiter.2.1, arbiter.1, grpOf waiting, group_of (by decide +kernel), ?_, by decide +kernel⟩
  have h : (match arbitrate waiting (waiting.groupPart (grpOf waiting)) 0 with | .place _ _ _ => true | _ => false) = true := by
    decide +kernel
  have e : waiting.groupPart (grpOf waiting) = 0 := by decide +kernel
  rw [e] at h ⊢
  unfold arbiter
  cases hq : arbitrate waiting 0 0 <;> simp_all

theorem meets_GroupSteps_complete : ∀ b, ∃ (s : State) (g core : Nat) (grp : Group), s.group g = some grp ∧ grp.state = .placing
    ∧ grp.core = some core ∧ grp.placed = b := fun b =>
  ⟨withGroup (fun g => { g with state := .placing, placed := b }), 0, 0, _, group_of (by cases b <;> decide +kernel),
    by cases b <;> decide +kernel, by cases b <;> decide +kernel, by cases b <;> decide +kernel⟩

/-- Every lane of group 0 has ended. -/
def spent : State := withCourse (fun c => { c.mapLanes (fun _ l => { l with live := false }) with ended := true })
def overDrained : Group := grpOf (drainAll spent 0)

theorem meets_GroupSteps_retire : ∃ (s : State) (g : Nat) (grp h : Group), s.group g = some grp ∧ grp.state = .resident
    ∧ grp.halting = false ∧ grp.courses.all (·.ended) = true ∧ quiet s g grp = true ∧ (drainAll s g).group g = some h ∧ h.alive = true
    ∧ h.mode = .ordinary :=
  ⟨spent, 0, grpOf spent, overDrained, group_of (by decide +kernel), by decide +kernel, by decide +kernel, by decide +kernel,
    by decide +kernel, group_of (by decide +kernel), by decide +kernel, by decide +kernel⟩

theorem meets_PlacementAndRetirement_place : ∃ (s : State) (pl : Place) (grp : Group), s.group pl.grp = some grp ∧ grp.placed = false :=
  ⟨waiting, ⟨0, 1, 0⟩, grpOf waiting, group_of (by decide +kernel), by decide +kernel⟩

theorem meets_PlacementAndRetirement_retire : ∃ (s : State) (g core : Nat) (grp : Group), s.group g = some grp
    ∧ grp.core = some core := ⟨spent, 0, 0, grpOf spent, group_of (by decide +kernel), by decide +kernel⟩

def hdr0 : PktHdr := ⟨0, 5, 0, 9, 0⟩

theorem meets_FormatSlotSteps_packet : ∃ (s : State) (hdr : PktHdr) (q : Queue), alGet s.queues hdr.queue = some q
    ∧ (s.part q.part).slotJobs = [] ∧ q.part < 16 := ⟨world, hdr0, queue0, by decide +kernel, by decide +kernel, by decide⟩

/-- A slot job at the head of the list of partition 0, its slot 15 in a state. -/
def slotted (release : Bool) (st : SlotState) (acks : List Nat) : State := world.updPart 0 (fun p =>
  { p with slotJobs := [⟨15, release, 0x8000, 0, 5, hdr0, acks⟩], slots := p.slots.set 15 ⟨st, 0, none⟩ })

/-- The same with the job's packet in progress in its queue. -/
def binding (st : SlotState) : State :=
  { slotted false st [] with queues := [(0, { queue0 with widx := 1, started := [⟨5, hdr0, 3, none, none, none⟩] })] }

theorem meets_FormatSlotSteps_check : ∀ st ∈ [SlotState.loading, .bound], ∃ (s : State) (p slot : Nat) (j : FmtJob) (rest : List FmtJob),
    (s.part p).slotJobs = j :: rest ∧ j.slot = slot ∧ j.release = false ∧ jobGone s j = false ∧ ((s.part p).slot slot).state = st := by
  intro st hst
  refine ⟨binding st, 0, 15, ⟨15, false, 0x8000, 0, 5, hdr0, []⟩, [], by rfl, rfl, rfl, ?_, ?_⟩ <;> fin_cases hst <;> decide +kernel

theorem meets_FormatSlotSteps_gone : ∃ (s : State) (p slot : Nat) (j : FmtJob) (rest : List FmtJob), (s.part p).slotJobs = j :: rest
    ∧ j.slot = slot ∧ j.release = false ∧ jobGone s j = true :=
  ⟨slotted false .loading [], 0, 15, ⟨15, false, 0x8000, 0, 5, hdr0, []⟩, [], by rfl, rfl, rfl, by decide +kernel⟩

theorem meets_FormatSlotSteps_ack : ∀ b, ∃ (s : State) (p slot core : Nat) (j : FmtJob) (rest : List FmtJob),
    (s.part p).slotJobs = j :: rest ∧ j.slot = slot ∧ j.acks.contains core = true ∧ j.release = b := fun b =>
  ⟨slotted b .loading [1], 0, 15, 1, _, [], by rfl, rfl, rfl, rfl⟩

theorem meets_FormatSlotSteps_drain : ∃ (s : State) (p slot : Nat) (j : FmtJob) (rest : List FmtJob), (s.part p).slotJobs = j :: rest
    ∧ j.slot = slot ∧ j.release = true ∧ j.acks = [] ∧ ((s.part p).slot slot).state = .draining ∧ slotBusy s p slot = false :=
  ⟨slotted true .draining [], 0, 15, _, [], by rfl, rfl, rfl, rfl, by decide +kernel, by decide +kernel⟩

def loaded (st : ObjState) (p : PageState) : State :=
  { world with objects := world.objects ++ [(1, { obj0 with handle := 4, state := st, pages := [p] })] }

theorem meets_CodeObjectSteps : ∀ e ∈ [(ObjState.ready, PageState.loading), (.loading, .absent), (.draining, .present)],
    ∃ (s : State) (h : Nat) (o : Obj), alGet s.objects h = some o ∧ o.state = e.1 ∧ o.pages.getD 0 .absent = e.2
      ∧ o.state ≠ .unloaded ∧ drained s h = true := by
  intro e he
  refine ⟨loaded e.1 e.2, 1, { obj0 with handle := 4, state := e.1, pages := [e.2] }, ?_, rfl, rfl, ?_, ?_⟩ <;>
    fin_cases he <;> decide +kernel

/-- No other page of the object is being checked, or another one is. -/
theorem meets_CodeObjectSteps_pages : (∃ (page : Nat) (o : Obj), page < o.pages.length
      ∧ ∀ k, k < o.pages.length → k ≠ page → o.pages.getD k .absent ≠ .loading)
    ∧ ∃ (page k : Nat) (o : Obj), k ≠ page ∧ o.pages.getD k .absent = .loading ∧ o.pages.getD page .absent = .loading :=
  ⟨⟨0, obj0, by decide, by decide⟩, ⟨1, 0, { obj0 with pages := [.loading, .loading] }, by decide, rfl, rfl⟩⟩

/-! ### Contexts -/

theorem laneDone_of {r : LaneOut × State} (h : (match r.1 with | .done ws => ws.isEmpty | _ => false) = true) : r = (.done [], r.2) := by
  obtain ⟨a, b⟩ := r
  cases a <;> simp_all

/-- A queue that device code may post to, its ring with one place left or none; V255 of lane 0 names the packet at the scratchpad's end. -/
def posting (full : Bool) : State :=
  { withLane (fun l => { l with v := l.v.set 255 0xFFC0 }) with
    queues := [(0, { queue0 with devq := true, widx := if full then 64 else 63 })] }
def post0 : SYS := { sys with a := 255, code := 7 }

theorem meets_SystemInstructions_qpost : ∃ (k : Ctl) (f : SYS) (s t : State) (x : View) (n h : Nat) (u : Queue), s.view = some x
    ∧ x.only k n ∧ x.has [14] ∧ x.reach k [f.a.toNat] ∧ (x.crs.lane n).tx.state ≠ .active
    ∧ qpostCauses s x f.code.toNat (x.opd 64 n (.v f.a.toNat)).val.toNat = [] ∧ s.queueOf f.code.toNat = some (h, u) ∧ u.room (s.postedTo h) = true
    ∧ postPacket s x h u ⟨(x.opd 64 n (.v f.a.toNat)).val, (x.opd 64 n (.v f.a.toNat)).poison || (x.crs.lane n).guardP k⟩ = (.done [], t) :=
  ⟨pt, post0, posting false, _, viewOf (posting false), 0, 0, { queue0 with devq := true, widx := 63 }, view_viewOf (by decide +kernel),
    only_of (by decide +kernel), has_of (by decide +kernel), reach_of (by decide +kernel), by decide +kernel, by decide +kernel,
    by decide +kernel, by decide +kernel, laneDone_of (by decide +kernel)⟩

theorem meets_SystemInstructions_full : ∃ (k : Ctl) (f : SYS) (s : State) (x : View) (n h : Nat) (u : Queue), s.view = some x
    ∧ x.only k n ∧ x.has [14] ∧ x.reach k [f.a.toNat] ∧ (x.crs.lane n).tx.state ≠ .active
    ∧ qpostCauses s x f.code.toNat (x.opd 64 n (.v f.a.toNat)).val.toNat = [] ∧ s.queueOf f.code.toNat = some (h, u) ∧ u.room (s.postedTo h) = false
    ∧ (portsBusy s = true ∨ s.posts = [])
    ∧ x.sel.course < x.grp.courses.length :=
  ⟨pt, post0, posting true, viewOf (posting true), 0, 0, { queue0 with devq := true, widx := 64 }, view_viewOf (by decide +kernel),
    only_of (by decide +kernel), has_of (by decide +kernel), reach_of (by decide +kernel), by decide +kernel, by decide +kernel,
    by decide +kernel, by decide +kernel, .inr rfl, by decide +kernel⟩

/-- A packet on its way to a ring that is there, and to one that is not any more; a link port holds a write, or none. -/
theorem meets_SystemInstructions_posted : (∃ s : State, portsBusy s = true)
    ∧ ∀ st ∈ [QState.mapped, .destroyed], ∃ (s : State) (p : PostedPacket) (q : Queue), portsBusy s = false ∧ s.posts = [p]
      ∧ alGet s.queues p.queue = some q ∧ q.state = st :=
  ⟨⟨busy, by decide +kernel⟩, fun st _ => ⟨{ world with queues := [(0, { queue0 with state := st })], posts := [⟨0, 0, [], false⟩] },
    ⟨0, 0, [], false⟩, { queue0 with state := st }, by rfl, rfl, by rfl, rfl⟩⟩

theorem meets_SystemInstructions_ckpt : ∀ b, ∃ (k : Ctl) (f : SYS) (s : State) (x : View) (n : Nat), s.view = some x ∧ x.only k n
    ∧ x.has [15] ∧ (f.dcls = 0 ↔ b = true) ∧ x.reach k (dstOf f.dcls f.d).vregs ∧ (x.crs.lane n).tx.state ≠ .active
    ∧ ((alGet s.ctxs (s.groupCtx x.grp)).map (·.ckreq)).getD false = b ∧ x.grp.mode = .ordinary ∧ x.crs.trap ≠ .handler := by
  intro b
  refine ⟨pt, { sys with d := if b then 255 else 127, dcls := if b then 0 else 1 }, { world with ctxs := [(0, { ctx0 with ckreq := b })] },
    viewOf { world with ctxs := [(0, { ctx0 with ckreq := b })] }, 0, view_viewOf ?_, only_of ?_, has_of ?_, ?_, reach_of ?_, ?_, ?_, ?_,
    ?_⟩ <;> cases b <;> decide +kernel

/-- A checkpoint is requested, and the course is in HANDLER. -/
def asked : State := { withCourse (fun c => { c with trap := .handler }) with ctxs := [(0, { ctx0 with ckreq := true })] }

theorem meets_SystemInstructions_refused : ∃ (k : Ctl) (f : SYS) (s : State) (x : View) (n : Nat), s.view = some x ∧ x.only k n
    ∧ x.has [15] ∧ x.reach k (dstOf f.dcls f.d).vregs ∧ (x.crs.lane n).tx.state ≠ .active
    ∧ ((alGet s.ctxs (s.groupCtx x.grp)).map (·.ckreq)).getD false = true ∧ x.crs.trap = .handler :=
  ⟨pt, { sys with d := 127, dcls := 1 }, asked, viewOf asked, 0, view_viewOf (by decide +kernel), only_of (by decide +kernel),
    has_of (by decide +kernel), reach_of (by decide +kernel), by decide +kernel, by decide +kernel, by decide +kernel⟩

/-- Function 0 takes commands; the context is in a state, the last object handle and free places in host memory are at hand. -/
def commanded (st : CtxState) (arg : Word) : State :=
  { world with ctxs := [(0, { ctx0 with state := st })], fns := world.fns.set 0 { world.fn 0 with ctxArg := arg, qArg := 0x2000 } }

theorem ctxReady (st : CtxState) (arg : Word) : CtxReady (commanded st arg) 0 := ⟨rfl, rfl, rfl⟩

theorem meets_ContextCommands : ∀ st ∈ [CtxState.created, .active, .saved], ∃ (s : State) (fn i : Nat) (id : BitVec 16) (c : Ctx)
    (h : Nat) (o : Obj), CtxReady s fn ∧ findCtx s fn id.toNat = some (i, c) ∧ c.state = st ∧ c.state ≠ .destroyed
    ∧ findObj s i (s.fn fn).ctxArg.toNat = some (h, o) ∧ o.state ≠ .draining := by
  intro st hst
  refine ⟨commanded st 3, 0, 0, 1, { ctx0 with state := st }, 0, obj0, ctxReady _ _, ?_, rfl, ?_, ?_, ?_⟩ <;>
    fin_cases hst <;> decide +kernel

/-- A sound context descriptor in host memory, with the greatest error ring. -/
def describing : State :=
  { commanded .active 0x1000 with host := [(0x1000, 2, 2), (0x1008, 8, 0x4000), (0x1018, 8, 0x100000), (0x1020, 8, 0x10000),
      (0x1028, 8, 0x8000), (0x1030, 4, 65536)].foldl (fun m e => m.write e.1 e.2.1 e.2.2) Memory.empty }

theorem meets_ContextCommands_create : ∃ (s : State) (fn : Nat) (id : BitVec 16), CtxReady s fn ∧ (s.fn fn).ctxArg.toNat % 128 = 0
    ∧ fieldAt (s.host.read (s.fn fn).ctxArg.toNat 128) 0 2 = id.toNat ∧ findCtx s fn id.toNat = none
    ∧ ctxDescOk (s.host.read (s.fn fn).ctxArg.toNat 128) = true
    ∧ saveAreaOk s (s.part ((s.fn fn).part.getD 16)) (fieldAt (s.host.read (s.fn fn).ctxArg.toNat 128) 0x18 8)
      (fieldAt (s.host.read (s.fn fn).ctxArg.toNat 128) 0x20 8) = true :=
  ⟨describing, 0, 2, ⟨rfl, rfl, rfl⟩, by decide +kernel, by decide +kernel, by decide +kernel, by decide +kernel, by decide +kernel⟩

theorem meets_ContextCommandRefusals : (∃ (s : State) (fn : Nat), (s.fn fn).ctxStat.busy = true)
    ∧ (∃ (s : State) (fn : Nat) (id : BitVec 16), CtxReady s fn ∧ findCtx s fn id.toNat = none)
    ∧ (∀ e ∈ [(CtxState.destroyed, false), (.faulted, false), (.saving, true)], ∃ (s : State) (fn : Nat) (id : BitVec 16) (i : Nat) (c : Ctx),
      CtxReady s fn ∧ findCtx s fn id.toNat = some (i, c) ∧ c.state = e.1 ∧ c.saveFault = e.2)
    ∧ (∃ (s : State) (fn : Nat) (id : BitVec 16) (i : Nat) (c : Ctx), CtxReady s fn ∧ findCtx s fn id.toNat = some (i, c)
      ∧ c.state ∈ [CtxState.created, .active, .saved] ∧ (findObj s i (s.fn fn).ctxArg.toNat).isNone = true) := by
  refine ⟨⟨world.updFn 0 (fun f => { f with ctxStat := ⟨1, 0, true, 0, 5⟩ }), 0, by decide +kernel⟩,
    ⟨commanded .active 0, 0, 0xFFFF, ctxReady _ _, by decide +kernel⟩, fun e he => ?_,
    ⟨commanded .saved 0xFFFF, 0, 1, 0, { ctx0 with state := .saved }, ctxReady _ _, by decide +kernel, by decide, by decide +kernel⟩⟩
  refine ⟨{ commanded e.1 0 with ctxs := [(0, { ctx0 with state := e.1, saveFault := e.2 })] }, 0, 1, 0,
    { ctx0 with state := e.1, saveFault := e.2 }, ⟨rfl, rfl, rfl⟩, ?_, rfl, rfl⟩
  fin_cases he <;> decide +kernel

/-- CREATE: an address that is not aligned, a CTXID in use, and a descriptor of zeros but for its CTXID. -/
theorem meets_ContextCommandRefusals_create : (∃ (s : State) (fn : Nat), CtxReady s fn ∧ (s.fn fn).ctxArg.toNat % 128 ≠ 0)
    ∧ (∃ (s : State) (fn : Nat) (id : BitVec 16) (i : Nat) (c : Ctx), CtxReady s fn ∧ (s.fn fn).ctxArg.toNat % 128 = 0
      ∧ fieldAt (s.host.read (s.fn fn).ctxArg.toNat 128) 0 2 = id.toNat ∧ findCtx s fn id.toNat = some (i, c) ∧ c.state ≠ .destroyed)
    ∧ ∃ (s : State) (fn : Nat) (id : BitVec 16), CtxReady s fn ∧ (s.fn fn).ctxArg.toNat % 128 = 0
      ∧ fieldAt (s.host.read (s.fn fn).ctxArg.toNat 128) 0 2 = id.toNat ∧ findCtx s fn id.toNat = none
      ∧ ctxDescOk (s.host.read (s.fn fn).ctxArg.toNat 128) = false :=
  ⟨⟨commanded .active 0x1001, 0, ctxReady _ _, by decide +kernel⟩,
    ⟨{ commanded .active 0x1000 with host := Memory.empty.write 0x1000 2 1 }, 0, 1, 0, ctx0, ⟨rfl, rfl, rfl⟩, by decide +kernel,
      by decide +kernel, by decide +kernel, by decide⟩,
    ⟨{ commanded .active 0x1000 with host := Memory.empty.write 0x1000 2 2 }, 0, 2, ⟨rfl, rfl, rfl⟩, by decide +kernel,
      by decide +kernel, by decide +kernel, by decide +kernel⟩⟩

def halted : State := withGroup (fun g => { g with halting := true })

theorem meets_HaltSteps_save : ∃ (s : State) (h : Nat) (g : Group), s.group h = some g ∧ g.state = .resident ∧ g.halting = true
    ∧ saveReady s h g = true :=
  ⟨halted, 0, grpOf halted, group_of (by decide +kernel), by decide +kernel, by decide +kernel, by decide +kernel⟩

/-- The partition's one core is full, and a group of a launch of higher priority waits. -/
def crowded : State :=
  let s := (withGroup (fun g => { g with scratchKiB := 384 })).updPart 0 (fun p => { p with cores := [0] })
  { s with
    groups := s.groups ++ [(1, { grpOf s with state := .pending, core := none, placed := false, saveLen := 4096, launch := 1 })]
    launches := s.launches ++ [(1, { launch0 with prio := 7, records := [] })] }

theorem meets_HaltSteps_preempt : ∃ (s : State) (p h : Nat) (hs : List Nat), haltsOpen s p = false ∧ preemptChoice s p = some (h, hs) :=
  ⟨crowded, 0, 1, [0], by decide +kernel, by decide +kernel⟩

def sleeping : State := world.updLane 0 0 31 (fun l => { l with hold := .sleep 9 })

theorem meets_HaltSteps_halt : ∃ (s : State) (h k : Nat) (g : Group), s.group h = some g ∧ g.state = .resident ∧ g.halting = false
    ∧ g.core = some k ∧ (s.core k).matQ = [] ∧ retireNow s h = none
    ∧ (∀ c, c < g.courses.length → ∀ n, n < 32 → ((g.course c).lane n).tx.state ≠ .active)
    ∧ ((g.course 0).lane 31).hold = .sleep 9 := by
  refine ⟨sleeping, 0, 0, grpOf sleeping, group_of (by decide +kernel), by decide +kernel, by decide +kernel, by decide +kernel,
    by decide +kernel, ?_, by decide +kernel, by decide +kernel⟩
  rw [← Option.isNone_iff_eq_none]
  decide +kernel

/-! ### Queues and packets -/

def queuing (q : Queue) : State := { commanded .active 0 with queues := [(0, q)] }

theorem queueReady (q : Queue) : QueueReady (queuing q) 0 := ⟨rfl, rfl, rfl⟩

/-- A descriptor of a queue of 65536 packets in host memory. -/
def queueDesc : State :=
  { queuing queue0 with host := [(0x2000, 2, 9), (0x2002, 2, 1), (0x2004, 1, 7), (0x2005, 1, 7), (0x2006, 1, 10), (0x2007, 1, 1),
      (0x2008, 8, 0x10000)].foldl (fun m e => m.write e.1 e.2.1 e.2.2) Memory.empty }

theorem meets_QueueCommands_create : ∃ (s : State) (fn : Nat) (id : BitVec 16), QueueReady s fn ∧ (s.fn fn).qArg.toNat % 64 = 0
    ∧ fieldAt (s.host.read (s.fn fn).qArg.toNat 64) 0 2 = id.toNat ∧ s.queueOf id.toNat = none
    ∧ queueDescOk (beginQ s fn id 1) fn (s.host.read (s.fn fn).qArg.toNat 64) = true :=
  ⟨queueDesc, 0, 9, ⟨rfl, rfl, rfl⟩, by decide +kernel, by decide +kernel, by decide +kernel, by decide +kernel⟩

theorem meets_QueueCommands : ∃ (s : State) (fn h : Nat) (id : BitVec 16) (q : Queue), QueueReady s fn
    ∧ findQueue s fn id.toNat = some (h, q) ∧ q.state ≠ .destroyed ∧ q.state = .error :=
  ⟨queuing { queue0 with state := .error }, 0, 0, 7, { queue0 with state := .error }, queueReady _, by decide +kernel, by decide, rfl⟩

/-- The queue of a VF whose interface is locked. -/
def lockedQueue : State := (queuing { queue0 with fn := 1 }).updFn 1 (fun f => { f with tdi := .run })

theorem meets_QueueCommands_notify : ∀ w ∈ [64#32, 65#32], (∃ (s : State) (fn h : Nat) (id : BitVec 16) (q : Queue),
      s.queueOf id.toNat = some (h, q) ∧ q.fn = fn ∧ q.devq = false ∧ mmioReaches s fn false = true ∧ q.state ≠ .error
      ∧ ((w - q.ridx).toNat ≤ q.size ↔ w = 64))
    ∧ ∃ (s : State) (fn h : Nat) (id : BitVec 16) (q : Queue), s.queueOf id.toNat = some (h, q) ∧ q.fn = fn ∧ q.devq = false
      ∧ tdiLocked s fn = true ∧ mmioReaches s fn true = true ∧ q.state ≠ .error := by
  intro w hw
  refine ⟨⟨queuing queue0, 0, 0, 7, queue0, by decide +kernel, rfl, rfl, by decide +kernel, by decide, ?_⟩,
    ⟨lockedQueue, 1, 0, 7, { queue0 with fn := 1 }, by decide +kernel, rfl, rfl, by decide +kernel, by decide +kernel, by decide⟩⟩
  fin_cases hw <;> decide +kernel

theorem read_ok {r : Except TransN (Nat × Bool) × State} {e : Nat × Bool}
    (h : (match r.1 with | .ok x => x == e | _ => false) = true) : r = (.ok e, r.2) := by
  obtain ⟨a, b⟩ := r
  cases a <;> simp_all

def ready : Queue := { queue0 with widx := 1 }

theorem meets_PacketsStart_read : ∃ (s t : State) (h v : Nat) (q : Queue) (p : Bool), alGet s.queues h = some q ∧ q.state = .mapped
    ∧ q.thread = true ∧ q.launching = false ∧ q.reaches = true ∧ q.rptrDue = none ∧ q.widx ≠ q.ridx
    ∧ ctxRead s (seqReq q .read (ringAgent h)) ((q.ringVa + 64 * (q.ridx.toNat % max 1 q.size)) % 2 ^ 64) 64 = (.ok (v, p), t) :=
  ⟨queuing ready, _, 0, 0, ready, false, by decide +kernel, rfl, rfl, rfl, rfl, rfl, by decide, read_ok (by decide +kernel)⟩

/-- A LAUNCH_GRAPH and a FILL, as the 64 bytes of a packet (R417, R418). -/
def launchPacket : Nat := 1 + 3 * 256 ^ 0x10 + 1 * 256 ^ 0x20 + 2 * 256 ^ 0x24 + 0x20000 * 256 ^ 0x28
def fillPacket : Nat := 3 + 0x20000 * 256 ^ 0x10 + 32 * 256 ^ 0x18

def begun : Started := ⟨5, hdr0, 3, none, none, none⟩

theorem meets_PacketsStart_poison : ∃ q : Queue, q.poisoned.contains q.ridx = true := ⟨{ ready with poisoned := [0] }, by decide⟩

theorem meets_PacketsStart_take : ∃ (q r : Queue) (v w z : Nat), q.poisoned.contains q.ridx = false ∧ packetOk v = true ∧ q.started = []
    ∧ BitVec.ofNat 8 (fieldAt v 0 1) = (1 : BitVec 8) ∧ packetOk w = true ∧ BitVec.ofNat 8 (fieldAt w 0 1) = (3 : BitVec 8)
    ∧ packetOk z = false ∧ r.poisoned.contains r.ridx = false ∧ r.started ≠ [] ∧ (hdrOf 0 r.ridx (w + 256)).flags.getLsbD 0 = true
    ∧ packetOk (w + 256) = true :=
  ⟨ready, { ready with started := [begun] }, launchPacket, fillPacket, 0, rfl, by decide +kernel, rfl, by decide +kernel,
    by decide +kernel, by decide +kernel, by decide +kernel, rfl, by decide, by decide +kernel, by decide +kernel⟩

def launching : State := queuing { ready with launching := true }
def body0 : LaunchBody := ⟨3, 0, 0, 0, 0, 1, 66, 0x20000, 0⟩

theorem meets_LaunchChecksInOrder_object : ∃ (s : State) (hdr : PktHdr) (b : LaunchBody) (q : Queue), alGet s.queues hdr.queue = some q
    ∧ q.launching = true ∧ q.state = .mapped ∧ launchObject s q b = none := by
  refine ⟨launching, hdr0, { body0 with handle := 99 }, { ready with launching := true }, by decide +kernel, rfl, rfl, ?_⟩
  rw [← Option.isNone_iff_eq_none]
  decide +kernel

/-- The launching world, its kernel changed, its partition left a number of cores. -/
def launchingOn (k : Kernel) (cores : List Nat) : State :=
  { (launching.updPart 0 (fun p => { p with cores := cores })) with objects := [(0, { obj0 with kernels := [k] })] }

theorem meets_LaunchChecksInOrder : ∀ e ∈ [({ kernel0 with slotReq := List.replicate 11 0 ++ [99] }, [0, 1], body0, false, true, true),
      (kernel0, [0, 1], { body0 with nb := 65 }, true, false, true), ({ kernel0 with coresident := true }, [], body0, true, true, false),
      (kernel0, [0, 1], body0, true, true, true)],
    ∃ (s : State) (hdr : PktHdr) (q : Queue) (h : Nat) (o : Obj) (n : Node) (k : Kernel), alGet s.queues hdr.queue = some q
      ∧ q.launching = true ∧ q.state = .mapped ∧ launchObject s q e.2.2.1 = some (h, o, n)
      ∧ slotsMatch (s.part q.part) o e.2.2.1.node.toNat = e.2.2.2.1 ∧ poolOk o n e.2.2.1 = e.2.2.2.2.1
      ∧ o.kernel e.2.2.1.node.toNat = some k ∧ launchFits (s.part q.part) o n k e.2.2.1
        (hdr.flags.getLsbD 2 || k.coresident || n.kind == .persistent) = e.2.2.2.2.2 := by
  intro e he
  refine ⟨launchingOn e.1 e.2.1, hdr0, { ready with launching := true }, 0, { obj0 with kernels := [e.1] }, node0, e.1, ?_, rfl, rfl,
    ?_, ?_, ?_, ?_, ?_⟩ <;> fin_cases he <;> decide +kernel

/-! ### Packets in progress -/

theorem trans_ok {r : TransN × State} (h : (match r.1 with | .ok _ => true | _ => false) = true) :
    r = (.ok (match r.1 with | .ok ps => ps | _ => []), r.2) := by
  obtain ⟨a, b⟩ := r
  cases a <;> simp_all

theorem wait_of {r : Option (Except (BitVec 8) (Tgt × Nat)) × State} {e : Except (BitVec 8) (Tgt × Nat)}
    (h : (match r.1, e with | some (.ok a), .ok b => a == b | some (.error a), .error b => a == b | _, _ => false) = true) :
    r = (some e, r.2) := by
  obtain ⟨a, b⟩ := r
  rcases a with _ | (_ | _) <;> cases e <;> simp_all

/-- Packet 5 of the queue is in progress. -/
def running : State := queuing { ready with started := [begun] }

theorem fatal_of {r : TransN × State} {c : Cause} (h : (match r.1 with | .fatal d => d == c | _ => false) = true) :
    r = (.fatal c, r.2) := by
  obtain ⟨a, b⟩ := r
  cases a <;> simp_all

theorem meets_PacketActions_copy : ∀ e ∈ [(0x2001F#64, 0x30040#64), (0x20FC0, 0x20FFF)], ∃ (s t : State) (hdr : PktHdr) (len : Word)
    (ps : List (Tgt × Nat)), inProgress s hdr = true ∧ len ≠ 0 ∧ hasEngine s hdr = true
    ∧ ((¬(e.1 < e.2 ∧ e.2.toNat < e.1.toNat + len.toNat)
        ∧ moveBytes s hdr e.1.toNat e.2.toNat (min len.toNat (min (32 - e.1.toNat % 32) (32 - e.2.toNat % 32))) = (.ok ps, t))
      ∨ (e.1 < e.2 ∧ e.2.toNat < e.1.toNat + len.toNat
        ∧ moveBytes s hdr (e.1.toNat + len.toNat
            - min len.toNat (min ((e.1.toNat + len.toNat - 1) % 32 + 1) ((e.2.toNat + len.toNat - 1) % 32 + 1)))
          (e.2.toNat + len.toNat - min len.toNat (min ((e.1.toNat + len.toNat - 1) % 32 + 1) ((e.2.toNat + len.toNat - 1) % 32 + 1)))
          (min len.toNat (min ((e.1.toNat + len.toNat - 1) % 32 + 1) ((e.2.toNat + len.toNat - 1) % 32 + 1))) = (.ok ps, t))) := by
  intro e he
  simp only [List.mem_cons, List.not_mem_nil, or_false] at he
  rcases he with rfl | rfl
  · exact ⟨running, _, hdr0, 33, _, by decide +kernel, by decide, by decide +kernel, .inl ⟨by decide, trans_ok (by decide +kernel)⟩⟩
  · exact ⟨running, _, hdr0, 64, _, by decide +kernel, by decide, by decide +kernel, .inr ⟨by decide, by decide, trans_ok (by decide +kernel)⟩⟩

theorem meets_PacketActions_fill : ∃ (s t : State) (hdr : PktHdr) (dst len pat : Word) (ps : List (Tgt × Nat)), inProgress s hdr = true
    ∧ len ≠ 0 ∧ hasEngine s hdr = true ∧ ctxWrite s (bulkReq s hdr .write) dst.toNat (min len.toNat (32 - dst.toNat % 32))
      (fillBytes pat.toNat dst.toNat (min len.toNat (32 - dst.toNat % 32))) = (.ok ps, t) :=
  ⟨running, _, hdr0, 0x2001F, 2, 0x55, _, by decide +kernel, by decide, by decide +kernel, trans_ok (by decide +kernel)⟩

/-- Nothing is left of a packet that a fatal page has stopped; its address, of no page, is one that stops a COPY and a FILL. -/
theorem meets_PacketActions_stopped : (∃ (s : State) (hdr : PktHdr), inProgress s hdr = true ∧ portsBusy s = false
      ∧ ((startedOf s hdr).bind (·.status)).getD 0 = 6)
    ∧ ∃ (s t u : State) (hdr : PktHdr) (src dst : Word) (c d : Cause), inProgress s hdr = true ∧ hasEngine s hdr = true
      ∧ ¬(src < dst ∧ dst.toNat < src.toNat + 8) ∧ moveBytes s hdr src.toNat dst.toNat 8 = (.fatal c, t)
      ∧ ctxWrite s (bulkReq s hdr .write) dst.toNat 8 (fillBytes 0x55 dst.toNat 8) = (.fatal d, u) :=
  ⟨⟨queuing { ready with started := [{ begun with status := some 6 }] }, hdr0, by decide +kernel, by decide +kernel, by decide +kernel⟩,
    ⟨running, _, _, hdr0, 0x100000000000000, 0x100000000000000, .access, .access, by decide +kernel, by decide +kernel, by decide,
      fatal_of (by decide +kernel), fatal_of (by decide +kernel)⟩⟩

theorem meets_PacketActions_noEngine : ∃ (s : State) (hdr : PktHdr), inProgress s hdr = true ∧ hasEngine s hdr = false :=
  ⟨running.updPart 0 (fun p => { p with engines := [] }), hdr0, by decide +kernel, by decide +kernel⟩

theorem meets_PacketActions_finish : ∀ st ∈ [0#8, 0x0B], ∃ (s : State) (h : Nat) (q : Queue), alGet s.queues h = some q ∧ failing st = false :=
  fun st hst => ⟨running, 0, { ready with started := [begun] }, by decide +kernel, by revert st; decide⟩

def until_ (value : Word) : WaitBody := ⟨0x20000, value, 0xFFFFFFFF, 0, false, 1⟩

theorem meets_PacketActions_wait : ∃ (s t u : State) (hdr : PktHdr) (b d : WaitBody) (q : Queue) (st : BitVec 8) (place : Tgt × Nat),
    inProgress s hdr = true ∧ alGet s.queues hdr.queue = some q ∧ readWait s q hdr b = (some (.error st), t)
    ∧ readWait s q hdr d = (some (.ok place), u) :=
  ⟨running, _, _, hdr0, until_ 0, until_ 1, { ready with started := [begun] }, 0, (.hbm, 0x20000), by decide +kernel, by decide +kernel,
    wait_of (by decide +kernel), wait_of (by decide +kernel)⟩

/-- A queue held at an unmet WAIT_MEM whose timeout is spent. -/
def held (met : Option (BitVec 8)) (value : Word) : Queue :=
  { ready with started := [begun], state := .blocked, wait := some ⟨until_ value, hdr0, none, 1024, 0, met⟩ }

theorem meets_PacketActions_retest : (∃ (s : State) (h : Nat) (q : Queue) (x : Waiting) (st : BitVec 8), alGet s.queues h = some q
      ∧ q.wait = some x ∧ x.met = some st)
    ∧ (∃ (s t : State) (h : Nat) (q : Queue) (x : Waiting) (st : BitVec 8), alGet s.queues h = some q ∧ q.wait = some x ∧ x.met = none
      ∧ readWait s q x.hdr x.body = (some (.error st), t))
    ∧ ∃ (s : State) (h : Nat) (q : Queue) (x : Waiting), alGet s.queues h = some q ∧ q.wait = some x ∧ x.body.timeout ≠ 0
      ∧ x.met = none ∧ q.state = .blocked ∧ x.body.timeout.toNat * 1024 ≤ x.spent + (s.seqCycle q.seq - x.since) :=
  ⟨⟨queuing (held (some 0) 0), 0, held (some 0) 0, _, 0, by decide +kernel, rfl, rfl⟩,
    ⟨queuing (held none 0), _, 0, held none 0, _, 0, by decide +kernel, rfl, rfl, wait_of (by decide +kernel)⟩,
    ⟨queuing (held none 1), 0, held none 1, _, by decide +kernel, rfl, by decide, rfl, rfl, Nat.le_add_right _ _⟩⟩

theorem meets_PacketActions_signal : ∃ (s t : State) (hdr : PktHdr) (addr : Word) (wide : Bool) (q : Queue) (tgt : Tgt) (pa : Nat)
    (more : List (Tgt × Nat)), inProgress s hdr = true ∧ alGet s.queues hdr.queue = some q ∧ (startedOf s hdr).bind (·.signal) = none
    ∧ translateRange s (seqReq q .rw (packetAgent hdr.queue hdr.index)) addr.toNat (if wide then 8 else 4) = (.ok ((tgt, pa) :: more), t)
    ∧ portsBusy s = false ∧ linkTrains t tgt = false ∧ rejects t tgt pa = false :=
  ⟨running, _, hdr0, 0x20008, true, { ready with started := [begun] }, .hbm, 0x20008, [], by decide +kernel, by decide +kernel,
    by decide +kernel, fst_of (by decide +kernel), by decide +kernel, by decide +kernel, rfl⟩

/-- The atomic of a SIGNAL_MEM to a peer is out. -/
theorem meets_PacketActions_signalled : ∃ (s : State) (hdr : PktHdr) (q : Queue) (t : Tgt), inProgress s hdr = true
    ∧ alGet s.queues hdr.queue = some q ∧ (startedOf s hdr).bind (·.signal) = some t :=
  let q : Queue := { ready with started := [{ begun with signal := some (.peer 2) }] }
  ⟨queuing q, hdr0, q, .peer 2, by decide +kernel, by decide +kernel, by decide +kernel⟩

/-- A link port holds a write while a packet is in progress whose header asks for a completion word. -/
theorem meets_PacketActions_busy : ∃ (s : State) (hdr : PktHdr) (q : Queue) (e : Started), inProgress s hdr = true
    ∧ alGet s.queues hdr.queue = some q ∧ portsBusy s = true ∧ q.started.find? (fun e => e.index == hdr.index) = some e ∧ e.hdr.cpl ≠ 0
    ∧ e.hdr.cpl.toNat % 8 = 0 :=
  let e : Started := { begun with hdr := { hdr0 with cpl := 0x20008 } }
  ⟨{ busy with queues := [(0, { ready with started := [e] })] }, hdr0, { ready with started := [e] }, e, by decide +kernel,
    by rfl, by decide +kernel, by decide, by decide, by decide⟩

theorem meets_PacketActions_resync : ∃ (s t : State) (hdr : PktHdr) (buf : Word) (len : BitVec 32) (q : Queue) (ps : List (Tgt × Nat)),
    inProgress s hdr = true ∧ alGet s.queues hdr.queue = some q
    ∧ ctxWrite s (seqReq q .write (packetAgent hdr.queue hdr.index)) buf.toNat
        (0xC0 + 16 * ((resyncEntries s q.fn).take ((len.toNat - 0xC0) / 16)).length)
        (packFields ((resyncHeader s q.fn, 0xC0) :: ((resyncEntries s q.fn).take ((len.toNat - 0xC0) / 16)).map (fun e => (e, 16))))
      = (.ok ps, t) :=
  ⟨running, _, hdr0, 0x20000, 0xE0, { ready with started := [begun] }, _, by decide +kernel, by decide +kernel,
    trans_ok (by decide +kernel)⟩

theorem meets_PacketActions_complete : ∃ (s t : State) (h : Nat) (i : BitVec 32) (st : BitVec 8) (q : Queue) (e : Started)
    (ps : List (Tgt × Nat)), alGet s.queues h = some q ∧ q.started.find? (fun e => e.index == i) = some e ∧ e.hdr.cpl ≠ 0
    ∧ e.hdr.cpl.toNat % 8 = 0 ∧ portsBusy s = false ∧ ctxWrite s (seqReq q .write (wordAgent h i)) e.hdr.cpl.toNat 8 (cplWord i e.kind st).toNat = (.ok ps, t) :=
  let e : Started := { begun with hdr := { hdr0 with cpl := 0x20008 } }
  ⟨queuing { ready with started := [e] }, _, 0, 5, 0, { ready with started := [e] }, e, _, by decide +kernel, by decide +kernel,
    by decide, by decide, by decide +kernel, trans_ok (by decide +kernel)⟩

/-! ### Functions and pages -/

/-- Function 0 has an event ring of 64 records with one place left, and an event of it is next. -/
def eventful : State :=
  (world.updFn 0 (fun f => { f with evtBase := 0x1000, evtTail := 63 })).updPart 0 (fun p => { p with
    events := [⟨1, 2, 3, 7, 2, 0, 0, none, none⟩] })

theorem meets_FunctionSteps_event : ∃ (s : State) (p n : Nat) (e : Event) (rest : List Event), (s.part p).events = e :: rest
    ∧ e.gen = (s.fn e.fn).gen ∧ (s.fn e.fn).tdi ≠ .error ∧ (s.fn e.fn).evtSize = some n ∧ linkCarries s .host = true ∧ linkTrains s .host = false
    ∧ ((s.fn e.fn).evtTail - (s.fn e.fn).evtHead).toNat < n :=
  ⟨eventful, 0, 64, ⟨1, 2, 3, 7, 2, 0, 0, none, none⟩, [], by rfl, by decide +kernel, by decide +kernel, by decide +kernel,
    by decide +kernel, by decide +kernel, by decide +kernel⟩

theorem meets_FunctionSteps : (∃ (s : State) (fn p o : Nat), 0 < fn ∧ fn < 16 ∧ takesMmio s fn = true ∧ s.boot.recovery = false
      ∧ tdiLocked s fn = false ∧ p < 16 ∧ (s.part p).state = .active ∧ (s.part p).owners.contains o = true)
    ∧ ∃ (s : State) (vf : Nat) (v : Word), 0 < vf ∧ vf < 16 ∧ s.boot.recovery = false ∧ tdiLocked s vf = true
      ∧ (s.fn vf).pause = v.getLsbD 0 :=
  ⟨⟨world, 15, 0, 7, by decide, by decide, by decide +kernel, rfl, by decide +kernel, by decide, by decide +kernel, by decide +kernel⟩,
    ⟨world.updFn 15 (fun f => { f with tdi := .run }), 15, 0, by decide, by decide, rfl, by decide +kernel, by decide +kernel⟩⟩

def req0 (stage : Nat) (tag : Option (BitVec 12)) (pri : Option (BitVec 9)) : PageReq :=
  { id := 5, fn := 0, stage := stage, ctx := 0, ea := 0x3000, addr := 0x40000000, level := 2, need := 1, source := 0, pasid := 0,
    core := 0, tag := tag, pri := pri, priDue := false, waiters := [], payer := none }

/-- One request of function 0, and its stage-1 ring with one place left. -/
def requested (r : PageReq) : State :=
  { world.updFn 0 (fun f => { f with prq1 := { f.prq1 with base := 0x1000, tail := 62 } }) with reqs := [r] }

theorem freeTag_some {s : State} {fn stage free : Nat} (h : ((ringReqs s fn stage).filterMap (fun r => r.tag.map BitVec.toNat)) = []) :
    freeTag s fn stage free = some (free % 4096) := by
  have e : List.range 4096 = 0 :: (List.range 4095).map Nat.succ := List.range_succ_eq_map
  rw [freeTag, h, e]
  simp

theorem meets_PageRequests_entry : ∃ (s : State) (fn stage tag : Nat) (r : PageReq),
    (ringReqs s fn stage).find? (fun r => r.tag.isNone) = some r
    ∧ freeTag { s with free := s.free + 1 } fn stage (Config.freeNat s.free) = some tag ∧ (s.fn fn).tdi ≠ .error ∧ ((s.fn fn).ring stage).room = true
    ∧ linkCarries s .host = true ∧ linkTrains s .host = false :=
  ⟨requested (req0 1 none none), 0, 1, _, req0 1 none none, by decide +kernel, freeTag_some (by decide +kernel), by decide +kernel,
    by decide +kernel, by decide +kernel, by decide +kernel⟩

theorem meets_PageRequests_reply : ∀ v ∈ [0xFFF#64, 0x100FFF], ∃ (s : State) (fn stage : Nat) (r : PageReq), takesMmio s fn = true
    ∧ (ringReqs s fn stage).find? (fun r => r.tag.map BitVec.toNat == some (v.toNat % 4096)) = some r
    ∧ (v.toNat / 4096 = 0 ∨ v.toNat / 4096 = 256) := by
  intro v hv
  refine ⟨requested (req0 1 (some 0xFFF) none), 0, 1, req0 1 (some 0xFFF) none, ?_, ?_, ?_⟩ <;> fin_cases hv <;> decide +kernel

theorem meets_PageRequests_base : (∃ (s : State) (fn stage : Nat) (value : Word), fn < 16 ∧ takesMmio s fn = true ∧ value.toNat % 8 ≠ 7
      ∧ value.toNat % 4096 / 8 = 0 ∧ stage = 1 ∧ tdiLocked s fn = false)
    ∧ ∃ (s : State) (fn stage : Nat) (value : Word), fn < 16 ∧ takesMmio s fn = true ∧ value.toNat % 8 ≠ 7
      ∧ value.toNat % 4096 / 8 = 0 ∧ tdiLocked s fn = true ∧ value = ((s.fn fn).ring stage).base :=
  ⟨⟨world, 15, 1, 0x2006, by decide, by decide +kernel, by decide, by decide, rfl, by decide +kernel⟩,
    ⟨world.updFn 15 (fun f => { f with tdi := .run }), 15, 2, 0, by decide, by decide +kernel, by decide, by decide, by decide +kernel,
      by decide +kernel⟩⟩

/-- A command of function 0 on 2^63 pages of its context, with a walk cached that it covers, and no group. -/
def invalidating : State :=
  { (world.updFn 0 (fun f => { f with invs := [⟨1, 1, 0x3000, 63, 9⟩] })).updPart 0 (fun p => { p with tlb := [⟨0, 3, 0x40,
    0x1F, (0, 0), []⟩] }) with groups := [], queues := [] }

theorem meets_PageRequests_done : ∃ (s r : State) (fn : Nat) (c : InvCmd) (rest : List InvCmd), fn < 16 ∧ (s.fn fn).invs = c :: rest
    ∧ s.groups = [] ∧ s.queues = [] ∧ (s.part 0).tlb ≠ [] ∧ r = fixWhere (drainWhere s (fun g => decide (2 ≤ c.kind) || groupFn s g == fn))
      (fun g => decide (2 ≤ c.kind) || groupFn s g == fn)
    ∧ invWaits (abortHeldLogs r (fun g => invMeets r fn c (r.groupCtx g)) (invPages r fn c)) (fun g => invMeets r fn c (r.groupCtx g))
      (invPages r fn c) = false :=
  ⟨invalidating, _, 0, ⟨1, 1, 0x3000, 63, 9⟩, [], by decide, by decide +kernel, rfl, rfl, by decide +kernel, rfl, by decide +kernel⟩

/-- A lane of the context has a sector of the last page of HBM in its transaction's log, and a walk to it is cached; one that waits
on a page request meanwhile loses its transaction. -/
def logged (h : Hold) : State :=
  ((validating 0).updLane 0 0 0 (fun l => { l with hold := h })).updPart 0 (fun p => { p with tlb := [⟨0, 3, 0x40,
    (0x8000000000 / 4096 - 1) * 8, (0, 0), []⟩] })

theorem meets_PageRequests_waits : (∃ (s : State) (c : InvCmd), c.kind = 0
      ∧ invWaits (abortHeldLogs s (fun g => invMeets s 0 c (s.groupCtx g)) (invPages s 0 c)) (fun g => invMeets s 0 c (s.groupCtx g))
        (invPages s 0 c) = true)
    ∧ ∃ (s : State) (c : InvCmd), c.kind = 0 ∧ (s.lane 0 0 0).logsIn (invPages s 0 c) = true ∧ (s.lane 0 0 0).requested = true :=
  ⟨⟨logged .txend, ⟨0, 1, 0, 0, 9⟩, rfl, by decide +kernel⟩, ⟨logged (.fault [5]), ⟨0, 1, 0, 0, 9⟩, rfl, by decide +kernel, by decide +kernel⟩⟩

theorem meets_PageRequests_invalidate : (∃ s : State, linkTrains s .host = false ∧ s.posts = [] ∧ s.groups = [])
    ∧ ∃ s : State, linkTrains s .host = true :=
  ⟨⟨invalidating, by decide +kernel, rfl, rfl⟩, world.updPort 0 (fun p => { p with state := .training }), by decide +kernel⟩

theorem meets_PageRequests_ats : ∃ (s : State) (fn : Nat), (s.fn fn).ats = true :=
  ⟨world.updFn 0 (fun f => { f with ats := true }), 0, by decide +kernel⟩

theorem meets_PageRequests_group : ∃ (s : State) (fn : Nat) (i : BitVec 9) (r : PageReq),
    s.reqs.find? (fun r => r.fn == fn && r.stage == 3 && r.pri == some i) = some r :=
  ⟨requested (req0 3 none (some 511)), 0, 511, req0 3 none (some 511), by decide +kernel⟩

/-! ### The security processor, links, the mailbox -/

def block0 : CmdBlock := ⟨List.replicate 192 0⟩

theorem meets_SecurityCommands : (∃ s : State, s.spJob = none ∧ s.boot.recovery = false)
    ∧ (∃ (s : State) (j : Nat × CmdBlock), s.spJob = some j ∧ j ≠ (1, block0)) ∧ ∃ s : State, s.spJob = some (0, block0) :=
  ⟨⟨world, rfl, rfl⟩, ⟨{ world with spJob := some (0, block0) }, (0, block0), rfl, by decide⟩,
    ⟨{ world with spJob := some (0, block0) }, rfl⟩⟩

theorem meets_SecurityCommands_ways : ∃ (s : State) (k : Nat) (e : SliceShare), s.shares.find? (fun e => e.slice == k) = some e
    ∧ 2 ≤ e.owners.length ∧ (e.owners.map (·.1)).Nodup :=
  ⟨{ world with shares := [⟨3, [(0, 1, 16, 16), (1, 1, 16, 0)]⟩] }, 3, ⟨3, [(0, 1, 16, 16), (1, 1, 16, 0)]⟩, by decide +kernel, by decide,
    by decide⟩

/-- An access at the last place of channel 0. -/
def acc0 (kind : AccKind) (size : Nat) : HostAcc := ⟨kind, 0x80000000 - size, size, 7, 0xFF, 0, 0⟩

theorem meets_OutsideAccesses_host : ∀ e ∈ [(AccKind.read, 1), (.write, 1), (.atomic 0 3 true, 8)], ∃ (s : State) (p : Nat)
    (acc : HostAcc), acc.kind = e.1 ∧ accPcieOk acc = true ∧ devicePlace (s.part p) acc.addr e.2 = true := by
  intro e he
  refine ⟨world, 0, acc0 e.1 e.2, rfl, ?_, ?_⟩ <;> fin_cases he <;> decide +kernel

theorem meets_OutsideAccesses_refused : ∃ (s : State) (p : Nat) (a b : HostAcc), accPcieOk a = false ∧ accPcieOk b = true
    ∧ devicePlace (s.part p) b.addr (accBytes b) = false :=
  ⟨world, 0, acc0 (.atomic 1 3 true) 8, { acc0 .read 2 with addr := 0x7FFFFFFF }, by decide +kernel, by decide +kernel, by decide +kernel⟩

theorem meets_OutsideAccesses_peer : ∃ (s : State) (port : Nat) (acc bad : HostAcc) (pa : Nat), s.boot.peer.getLsbD port = true
    ∧ (s.port port).state = .up ∧ (portOwner s port).bind (fun i => peerPlace s (s.part i) acc) = some pa
    ∧ (portOwner s port).bind (fun i => peerPlace s (s.part i) bad) = none := by
  refine ⟨world, 2, { acc0 .read 8 with addr := 0x3FFFFFF8 }, { acc0 .read 8 with addr := 0x40000000 }, 0x3FFFFFF8, by decide +kernel,
    by decide +kernel, by decide +kernel, ?_⟩
  rw [← Option.isNone_iff_eq_none]
  decide +kernel

def ported (k : Nat) (st : LinkState) : State := world.updPort k (fun p => { p with state := st })

theorem meets_LinkStatesAndDumps_states : (∃ (s : State) (p k : Nat), (s.fn 0).part = some p ∧ (s.part p).ports.contains k = true
      ∧ k < 12 ∧ s.boot.recovery = false)
    ∧ (∃ (s : State) (k : Nat), portOn s k = true ∧ (s.port k).state = .down)
    ∧ (∃ (s : State) (k n : Nat), (s.port k).state = .training ∧ 4 ≤ n ∧ n < 8 ∧ s.boot.peer.getLsbD k = true)
    ∧ (∃ (s : State) (k n : Nat), (s.port k).state = .training ∧ n < 8 ∧ s.boot.peer.getLsbD k = false)
    ∧ (∃ (s : State) (k : Nat), (s.port k).state = .degraded)
    ∧ ∃ (s : State) (pair : Nat), s.boot.pcie.getLsbD (2 * pair) = true ∧ (s.port (2 * pair)).state = .up :=
  ⟨⟨world, 0, 2, by decide +kernel, by decide +kernel, by decide, rfl⟩, ⟨ported 2 .down, 2, by decide +kernel, by decide +kernel⟩,
    ⟨ported 2 .training, 2, 7, by decide +kernel, by decide, by decide, by decide +kernel⟩,
    ⟨ported 1 .training, 1, 7, by decide +kernel, by decide, by decide +kernel⟩, ⟨ported 2 .degraded, 2, by decide +kernel⟩,
    ⟨world, 0, by decide +kernel, by decide +kernel⟩⟩

theorem meets_LinkStatesAndDumps_flit : ∃ (s : State) (k : Nat) (old : BitVec 12), k < 12 ∧ s.boot.peer.getLsbD k = true
    ∧ (s.port k).state = .up ∧ old ≠ (s.port k).recvSeq ∧ ((s.port k).recvSeq - old).toNat ≤ 1024 ∧ (s.port k).tries < 63 :=
  ⟨world, 2, 0xC00, by decide, by decide +kernel, by decide +kernel, by decide +kernel, by decide +kernel, by decide +kernel⟩

theorem meets_LinkStatesAndDumps_retrain : ∃ (s : State) (k : Nat) (far : BitVec 12), k < 12 ∧ s.boot.peer.getLsbD k = true
    ∧ (s.port k).state = .up ∧ 1024 < ((s.port k).recvSeq - far).toNat ∧ 63 ≤ (s.port k).tries :=
  ⟨world.updPort 2 (fun p => { p with tries := 63 }), 2, 0xBFF, by decide, by decide +kernel, by decide +kernel, by decide +kernel,
    by decide +kernel⟩

theorem meets_LinkStatesAndDumps_ack : ∃ (s : State) (k : Nat) (ack other : BitVec 12) (old rest : List Flit) (f : Flit), k < 12
    ∧ (s.port k).replay = old ++ f :: rest ∧ f.seq = ack ∧ (∀ g ∈ old, g.seq ≠ ack) ∧ (∀ g ∈ (s.port k).replay, g.seq ≠ other)
    ∧ old ≠ [] ∧ rest ≠ [] :=
  ⟨world.updPort 2 (fun p => { p with replay := [⟨0xFFF, 0, 1, 0, [], true⟩, ⟨0, 0, 1, 0, [], true⟩, ⟨1, 0, 1, 0, [], true⟩] }), 2, 0, 2,
    [⟨0xFFF, 0, 1, 0, [], true⟩], [⟨1, 0, 1, 0, [], true⟩], ⟨0, 0, 1, 0, [], true⟩, by decide, by decide +kernel, rfl, by decide, by decide +kernel,
    by decide, by decide⟩

theorem meets_LinkStatesAndDumps_dump : ∀ e ∈ [(LinkState.up, TdiState.configUnlocked), (.degraded, .configUnlocked), (.up, .run)],
    ∃ (s : State) (k p : Nat) (v : Word), s.boot.dumpBusy = false ∧ s.boot.recovery = false ∧ v.toNat < 4 ∧ v.getLsbD 0 = true
      ∧ dumpPort s (v.getLsbD 1) = some k ∧ dumpPart s = some p ∧ (s.part p).funcs.any (tdiLocked s) = (e.2 == .run)
      ∧ (s.port k).state = e.1 := by
  intro e he
  refine ⟨(world.updPort 0 (fun p => { p with state := e.1 })).updFn 1 (fun f => { f with tdi := e.2 }), 0, 0, 1, ?_, ?_, ?_, ?_, ?_, ?_,
    ?_, ?_⟩ <;> fin_cases he <;> decide +kernel

theorem meets_LinkStatesAndDumps_image : ∀ n ∈ [channelSectors, channelSectors - 1], ∃ (s : State) (p : Nat), s.boot.dumpBusy = true
    ∧ dumpPart s = some p ∧ (sortBy (fun a b => decide (a ≤ b)) (s.part p).channels).length = 1 ∧ s.boot.dumpDone = n :=
  fun n _ => ⟨{ world with boot := { world.boot with dumpBusy := true, dumpDone := n } }, 0, rfl, rfl, rfl, rfl⟩

theorem meets_MailboxRequests : (∃ (s : State) (vf stream session : Nat), s.boot.recovery = false ∧ 1 ≤ vf ∧ vf < 16
      ∧ (streamsOf s).length < 8 ∧ (s.fn vf).tdi = .configUnlocked ∧ s.spdm.sessions.contains session = true
      ∧ s.spdm.ideKeys.any (fun e => e.1 == vf && e.2.1 == stream) = true ∧ dumpLocks s vf = false)
    ∧ (∃ (s : State) (vf : Nat), (s.fn vf).tdi = .configLocked ∧ tdiLocked s vf = true) ∧ ∃ i, measurements world i ≠ [] :=
  ⟨⟨{ world with spdm := { world.spdm with sessions := [2], ideKeys := [(15, 7, 1)] } }, 15, 7, 2, by decide +kernel, by decide, by decide,
      by decide +kernel, by decide +kernel, by decide +kernel, by decide +kernel, by decide +kernel⟩,
    ⟨world.updFn 15 (fun f => { f with tdi := .configLocked }), 15, by decide +kernel, by decide +kernel⟩,
    ⟨1, List.cons_ne_nil _ _⟩⟩

/-! ### Boot, errors, registers, the step -/

theorem meets_BootAndFirmware : State.reset.boot.done = false ∧ (world.boot.done = true ∧ world.boot.fwJob = none)
    ∧ (∀ j ∈ [(1, false), (1, true), (2, false), (2, true), (3, false), (4, false), (5, false)], ∃ s : State, s.boot.fwJob = some j)
    ∧ (∃ s : State, s.flash.ownerKey = some 5 ∧ s.boot.fwJob = some (4, false) ∧ linkTrains s .host = false)
    ∧ (∃ s : State, s.flash.ownerKey = none ∧ s.boot.fwJob = some (4, false) ∧ linkTrains s .host = false)
    ∧ (∀ j ∈ [(1, false), (1, true), (4, false), (5, false)], ∀ b, ∃ s : State, s.boot.fwJob = some j ∧ linkTrains s .host = b)
    ∧ (∃ (s : State) (j : Nat × Bool), s.boot.fwJob = some j ∧ j ≠ (1, true))
    ∧ ∀ e ∈ [(false, false), (true, false), (true, true)], ∃ f : Flash, f.markerValid false = e.1 ∧ f.markerValid true = e.2 :=
  ⟨rfl, ⟨rfl, rfl⟩, fun j _ => ⟨{ world with boot := { world.boot with fwJob := some j } }, rfl⟩,
    ⟨{ world with boot := { world.boot with fwJob := some (4, false) }, flash := { world.flash with ownerKey := some 5 } }, rfl, rfl, by decide +kernel⟩,
    ⟨{ State.reset with boot := { world.boot with fwJob := some (4, false) }, flash := { world.flash with ownerKey := none } }, rfl, rfl, by decide +kernel⟩,
    fun j hj b => ⟨{ hostPortIs (if b then .training else .up) with boot := { world.boot with fwJob := some j } }, rfl, by
      fin_cases hj <;> cases b <;> decide +kernel⟩,
    ⟨{ world with boot := { world.boot with fwJob := some (1, false) } }, (1, false), rfl, by decide⟩, by
      intro e he
      refine ⟨{ Flash.reset with marker0 := if e.1 then markerBytes false 5 else [], marker1 := if e.2 then markerBytes true 5 else [] },
        ?_, ?_⟩ <;> fin_cases he <;> decide +kernel⟩

theorem meets_ErrorsAndRegisters : (∃ (s : State) (k : Nat), s.MemoryOk ∧ 32 * k < 0x8000000000 ∧ k = 0x8000000000 / 32 - 1)
    ∧ (∃ (s : State) (g c n r : Nat) (grp : Group), s.group g = some grp ∧ c < grp.courses.length ∧ n < 32 ∧ r < 256 ∧ r = 255)
    ∧ (∃ (s : State) (k : Nat), k < 4 ∧ (presentBits s).getLsbD k = true)
    ∧ (∃ (s : State) (fn : Nat), fn < 16 ∧ fn ≠ 0 ∧ s.boot.recovery = false ∧ mmioReaches s fn false = true ∧ tdiLocked s fn = false
      ∧ (s.fn fn).spStat.busy = false ∧ (s.fn fn).spArg.toNat % 64 = 0 ∧ (s.fn fn).ctxStat.busy = false ∧ (s.fn fn).qStat.busy = false)
    ∧ (∃ (s : State) (fn : Nat) (page : Word), fn < 16 ∧ s.boot.recovery = false ∧ mmioReaches s fn true = true ∧ tdiLocked s fn = true
      ∧ page ≠ (s.fn fn).bar0)
    ∧ (∃ (s : State) (fn : Nat), (s.fn fn).spStat.busy = false ∧ (s.fn fn).spArg.toNat % 64 ≠ 0)
    ∧ (∃ s : State, s.boot.recovery = false ∧ takesMmio s 0 = true ∧ tdiLocked s 0 = false ∧ s.boot.fwJob = none)
    ∧ ∃ s : State, s.boot.recovery = true :=
  ⟨⟨world, 0x8000000000 / 32 - 1, world_memoryOk, by decide, rfl⟩,
    ⟨world, 0, 0, 31, 255, grpOf world, group_of (by decide +kernel), by decide +kernel, by decide, by decide, rfl⟩,
    ⟨world, 3, by decide, by decide +kernel⟩, ⟨world, 15, by decide, by decide, rfl, by decide +kernel, by decide +kernel,
      by decide +kernel, by decide +kernel, by decide +kernel, by decide +kernel⟩,
    ⟨world.updFn 15 (fun f => { f with tdi := .run }), 15, 0x1000, by decide, rfl, by decide +kernel, by decide +kernel, by decide +kernel⟩,
    ⟨world.updFn 15 (fun f => { f with spArg := 63 }), 15, by decide +kernel, by decide +kernel⟩,
    ⟨world, rfl, by decide +kernel, by decide +kernel, rfl⟩, ⟨{ world with boot := { world.boot with recovery := true } }, rfl⟩⟩

theorem line_of {s : State} {x : View} (h : (x.core.line (lineOf x.sel.pc) (s.groupCtx x.grp)).isSome = true) :
    x.core.line (lineOf x.sel.pc) (s.groupCtx x.grp) = some ((x.core.line (lineOf x.sel.pc) (s.groupCtx x.grp)).getD ⟨0, false⟩) :=
  some_of h

/-- The word that a view's slot holds. -/
def slotIn (s : State) : IWord :=
  slotWord (((viewOf s).core.line (lineOf (viewOf s).sel.pc) (s.groupCtx (viewOf s).grp)).getD ⟨0, false⟩) (slotOf (viewOf s).sel.pc)

theorem meets_StepRunsDecoded_slot : ∃ (s : State) (x : View) (i : Instr) (l : ILine), s.view = some x
    ∧ x.core.line (lineOf x.sel.pc) (s.groupCtx x.grp) = some l ∧ l.poisoned = false ∧ lineReserved l = false
    ∧ decode (slotWord l (slotOf x.sel.pc)) = .ok i :=
  ⟨world, w0, .nop pt sys, _, world_view, line_of (by decide +kernel), by decide +kernel, by decide +kernel, by decide +kernel⟩

theorem meets_StepRunsDecoded_miss : ∃ (s : State) (x : View), s.view = some x
    ∧ x.core.line (lineOf x.sel.pc) (s.groupCtx x.grp) = none := by
  refine ⟨{ world with sel := some ⟨0, 0, 0, 1, fetchBase + 68⟩ }, viewOf { world with sel := some ⟨0, 0, 0, 1, fetchBase + 68⟩ },
    view_viewOf (by decide +kernel), ?_⟩
  rw [← Option.isNone_iff_eq_none]
  decide +kernel

theorem meets_StepRunsDecoded_bad : ∃ (w v : IWord) (k : Ctl), decode w = .error (.illegalOpcode k) ∧ decode v = .error (.illegalForm k false)
    ∧ slotIn (worldOf w) = w ∧ slotIn (worldOf v) = v :=
  ⟨0x000F7FFF0000000000000000, 0x000F7C080000000000000001, pt, by decide +kernel, by decide +kernel, by decide +kernel, by decide +kernel⟩

/-- Two steps wait, no slot is chosen. -/
def idle (turn : Bool) : State := { world with sel := none, turn := turn, agenda := [.boot, .groupPlace []] }

theorem meets_StepRunsDecoded_agenda : (∃ (s : State) (i : Instr) (rest : List Instr), s.sel = none ∧ s.turn = false ∧ s.agenda = i :: rest)
    ∧ (∃ (s : State) (k g c : Nat), s.sel = none ∧ s.turn = true ∧
      let u := flushPosts (settleFences (speculate { s with time := s.time + 1 }))
      u.candidates[u.rr % u.candidates.length]? = some (k, g, c))
    ∧ (∃ (s : State), s.sel = none ∧ s.agenda = [] ∧ s.candidates = [])
    ∧ (∃ (s : State), s.inCycle.contains (0, 0) = true) ∧ ∃ (s : State), s.inCycle.contains (0, 0) = false := by
  refine ⟨⟨idle false, .boot, [.groupPlace []], rfl, rfl, rfl⟩, ⟨idle true, 0, 0, 0, rfl, rfl, ?_⟩,
    ⟨{ world with sel := none, agenda := [], groups := [] }, rfl, rfl, by decide +kernel⟩, ⟨{ world with inCycle := [(0, 0)] }, by decide +kernel⟩,
    world, by decide +kernel⟩
  dsimp only
  rw [settleFences_none (by rw [speculate_fenced]; rfl), flushPosts_none (by rw [speculate_posts]; rfl), speculate_candidates, speculate_rr]
  decide +kernel

theorem meets_DecodeOfEncode : ∃ (i : Instr) (w : IWord), i.WellFormed ∧ encode i = some w :=
  ⟨.nop pt sys, 0x000F7C080000000000000000, (by decide +kernel : formOk (.nop pt sys) = true), by decide +kernel⟩

theorem meets_EncodeOfDecode : ∃ (w : IWord) (i : Instr), decode w = .ok i := ⟨0x000F7C080000000000000000, .nop pt sys, by decide +kernel⟩

theorem meets_StepKeepsMemories : ∃ s t : State, s.MemoryOk ∧ step s = .next t :=
  ⟨world, stepped world, world_memoryOk, by
    have h : (match step world with | .next _ => true | _ => false) = true := by decide +kernel
    unfold stepped
    cases hs : step world <;> simp_all⟩

/-! ### One step on a small state: the worked examples of spec/ -/

/-- Lane 0 of course 0 of group 0 after an instruction. -/
def runs (i : Instr) (s : State) : Lane :=
  match exec i s with
  | .next t => t.lane 0 0 0
  | _ => Lane.reset

/-- The same course. -/
def runsCourse (i : Instr) (s : State) : Course :=
  match exec i s with
  | .next t => t.courseAt 0 0
  | _ => Course.reset

/-- Lane 0 with values in V registers. -/
def regs (vs : List (Nat × Word)) : State := withLane fun l => vs.foldl (fun l e => l.setV e.1 ⟨e.2, false⟩) l

/-- What a step writes in a register of lane 0 when its long-latency operation completes. -/
def later (i : Instr) (s : State) : List RegWrite := ((runsCourse i s).inflight.flatMap (·.writes))

-- The table of R141.
theorem test_iadd_n8 : (runs (.iadd pt { rrr 3 1 2 0 with es := 0, ty := 1 }) (regs [(1, 0xF0807F01), (2, 0x20800101)])).getV 3
    = ⟨0x10008002, false⟩ := by decide +kernel
theorem test_iadd_n8_sat : (runs (.iadd pt { rrr 3 1 2 0 with es := 0, ty := 1, sat := 1 }) (regs [(1, 0xF0807F01), (2, 0x20800101)])).getV 3
    = ⟨0xFFFF8002, false⟩ := by decide +kernel
theorem test_isub_self : (runs (.isub pt (rrr 3 3 2 0)) (regs [(3, 5), (2, 7)])).getV 3 = ⟨0xFFFFFFFFFFFFFFFE, false⟩ := by decide +kernel
-- R141: the high half of (−1) · 1 is −1 signed, and of (2^64 − 1) · (2^64 − 1) is 2^64 − 2 unsigned.
theorem test_imulh : (runs (.imulh pt (rrr 3 1 2 0)) (regs [(1, 0xFFFFFFFFFFFFFFFF), (2, 1)])).getV 3 = ⟨0xFFFFFFFFFFFFFFFF, false⟩ := by
  decide +kernel
theorem test_imulh_n : (runs (.imulh pt { rrr 3 1 1 0 with ty := 1 }) (regs [(1, 0xFFFFFFFFFFFFFFFF)])).getV 3
    = ⟨0xFFFFFFFFFFFFFFFE, false⟩ := by decide +kernel
-- R141: without .SAT the absolute value of −128 is −128, with it 127.
theorem test_iabs : (runs (.iabs pt { rrr 3 1 0 0 with es := 0 }) (regs [(1, 0x80)])).getV 3 = ⟨0x80, false⟩ := by decide +kernel
theorem test_iabs_sat : (runs (.iabs pt { rrr 3 1 0 0 with es := 0, sat := 1 }) (regs [(1, 0x80)])).getV 3 = ⟨0x7F, false⟩ := by
  decide +kernel
-- R142: a shift by 20 leaves the sign of a 16-bit element; a rotation by 9 is one by 1.
theorem test_ishr : (runs (.ishr pt { rrr 3 1 20 0 with es := 1, bcls := 3 }) (regs [(1, 0x80007FFF)])).getV 3 = ⟨0xFFFF0000, false⟩ := by
  decide +kernel
theorem test_irot : (runs (.irot pt { rrr 3 1 9 0 with es := 0, ty := 1, bcls := 3 }) (regs [(1, 0x8180)])).getV 3 = ⟨0x0301, false⟩ := by
  decide +kernel
-- R143.
theorem test_clz_zero : (runs (.clz pt { rrr 3 1 0 0 with es := 2 }) (regs [(1, 0)])).getV 3 = ⟨0x2000000020, false⟩ := by decide +kernel
theorem test_brev : (runs (.brev pt { rrr 3 1 0 0 with es := 0 }) (regs [(1, 0x0113)])).getV 3 = ⟨0x80C8, false⟩ := by decide +kernel
-- The examples of R144, R145 and R147.
theorem test_bfx : (runs (.bfx pt { rrr 6 5 4 8 with es := 2, bcls := 3, ccls := 3 }) (regs [(5, 0xF8000000A50)])).getV 6
    = ⟨0xFFFFFFF8FFFFFFA5, false⟩ := by decide +kernel
theorem test_bfx_n : (runs (.bfx pt { rrr 6 5 4 8 with es := 2, ty := 1, bcls := 3, ccls := 3 }) (regs [(5, 0xF8000000A50)])).getV 6
    = ⟨0xF8000000A5, false⟩ := by decide +kernel
theorem test_icmp_p : (runs (.icmp pt { rrr 1 5 0 0 with es := 2, ty := 1, bcls := 3, dcls := 2 }) (regs [(5, 0x100000000)])).pred 1 = true := by
  decide +kernel
theorem test_lea : (runs (.lea pt { rrr 7 4 3 0 with es := 2, acls := 1, tyb := 2 })
    ((regs [(3, 0xFFFFFFFE)]).updCourse 0 0 (fun c => c.setS 4 ⟨0x1000000000, false⟩))).getV 7 = ⟨0xFFFFFFFF8, false⟩ := by decide +kernel
-- R148: MOVI extends by its sign; MOVI.HI keeps the low half.
theorem test_movi : (runs (.movi pt (rri 1 0 0x80000000)) world).getV 1 = ⟨0xFFFFFFFF80000000, false⟩ := by decide +kernel
theorem test_movi_hi : (runs (.movi pt { rri 1 0 7 with mod := 1 }) (regs [(1, 0x9ABCDEF0)])).getV 1 = ⟨0x79ABCDEF0, false⟩ := by
  decide +kernel
-- R126, R137: a false guard writes nothing; poison passes on, and PCLR stops it (R158).
theorem test_guard : (runs (.mov { pt with gneg := 1 } (rrr 1 2 0 0)) (regs [(1, 8), (2, 9)])).getV 1 = ⟨8, false⟩ := by decide +kernel
theorem test_poison : (runs (.iadd pt (rrr 1 2 2 0)) (withLane (fun l => l.setV 2 ⟨3, true⟩))).getV 1 = ⟨6, true⟩ := by decide +kernel
theorem test_pclr : (runs (.pclr pt (rrr 1 2 0 0)) (withLane (fun l => l.setV 2 ⟨3, true⟩))).getV 1 = ⟨3, false⟩ := by decide +kernel
-- R95: a register at the quota traps, and the lane stays where it is.
theorem test_reg_bound : (runs (.mov pt (rrr 8 0 0 0)) small).pend = some ⟨.regBound, 0, fetchBase + 4, none⟩ := by decide +kernel
-- The examples of R168 to R172 with F16 in FS2.
theorem test_fma : (runs (.fma pt { flt 7 1 2 3 with ty := 2 }) (regs [(1, 0x3C01), (2, 0x3C02), (3, 0xBC00)])).getV 7 = ⟨0x1A01, false⟩ := by
  decide +kernel
theorem test_fmul : (runs (.fmul pt { flt 6 1 2 0 with ty := 2 }) (regs [(1, 0x3C01), (2, 0x3C02)])).getV 6 = ⟨0x3C03, false⟩ := by
  decide +kernel
theorem test_fscale : (runs (.fscale pt { flt 5 4 0xFD 0 with ty := 2, bcls := 3 }) (regs [(4, 0x4A00)])).getV 5 = ⟨0x3E00, false⟩ := by
  decide +kernel
theorem test_fscale_sat : (runs (.fscale pt { flt 5 4 20 0 with ty := 2, bcls := 3, sat := 1 }) (regs [(4, 0x4A00)])).getV 5
    = ⟨0x7BFF, false⟩ := by decide +kernel
theorem test_fdiv : later (.fdiv pt { flt 5 1 2 0 with ty := 1 }) (regs [(1, 0x3F800000), (2, 0x4040000040400000)])
    = [.v 0 5 ⟨0x3EAAAAAB, false⟩] := by decide +kernel
theorem test_fdiv_rdn : later (.fdiv pt { flt 5 1 2 0 with ty := 1, rm := 3 }) (regs [(1, 0x3F800000), (2, 0x4040000040400000)])
    = [.v 0 5 ⟨0x3EAAAAAA, false⟩] := by decide +kernel
theorem test_fmax : (runs (.fmax pt { flt 5 5 0 0 with ty := 2, bcls := 3 }) (regs [(5, 0x7E00BC003C00)])).getV 5 = ⟨0x3C00, false⟩ := by
  decide +kernel
-- The examples of R176, R177 and R180: E4M3 stands in FS4 here.
def e4m3 : State := (fp8.setCore 0 { fp8.core 0 with home := (fp8.core 0).home.set 4 (fixedSlot 0x15) }).updLane 0 0 0
  (fun l => ((l.setV 1 ⟨0xFF, false⟩).setV 2 ⟨0x44, false⟩).setV 3 ⟨0x7C, false⟩)
theorem test_fmin : (runs (.fmin pt { flt 5 1 0x38 0 with ty := 4, bcls := 3 }) e4m3).getV 5 = ⟨0x38, false⟩ := by decide +kernel
theorem test_fmin_prop : (runs (.fmin pt { flt 5 1 0x38 0 with ty := 4, bcls := 3, mod := 1 }) e4m3).getV 5 = ⟨0x7F, false⟩ := by
  decide +kernel
theorem test_cvti : (runs (.cvti pt { flt 5 1 0 0 with ty := 2, tyb := 2, sat := 1 }) (regs [(1, 70000)])).getV 5 = ⟨0x7BFF, false⟩ := by
  decide +kernel
theorem test_cvti_inf : (runs (.cvti pt { flt 5 1 0 0 with ty := 2, tyb := 2 }) (regs [(1, 70000)])).getV 5 = ⟨0x7C00, false⟩ := by decide +kernel
-- R81, R127, R128: the branch of the example goes back to slot 1 of its line; CALL pushes, EXIT ends the lane.
theorem test_branch_target : branchTarget 0x0010041C { br with loff := 0xFFFFFFFD, slot := 1 } = 0x00100350 := by decide
theorem test_bra : (runs (.bra pt br) world).pc = 0x00100004 := by decide +kernel
theorem test_bra_unmarked : (runs (.bra pt { br with slot := 2 }) world).pend = some ⟨.targetAlign, 0, fetchBase + 4, none⟩ := by decide +kernel
theorem test_call : (runs (.call pt br) world).entries = [(1, ⟨0x00100010, false⟩)] := by decide +kernel
theorem test_ret : (runs (.ret pt br) nested).pc = 0x00100010 := by decide +kernel
theorem test_ret_depth : (runs (.ret pt br) nested).depth = 8 := by decide +kernel
theorem test_exit : (runs (.exit pt sys) world).live = false := by decide +kernel
theorem test_nop : (runs (.nop pt sys) world).pc = 0x00100010 := by decide +kernel
-- R367: TRAP 3 awaits the handler with its code.
theorem test_trap : (runs (.trap pt { sys with code := 3 }) world).pend = some ⟨.software, 3, 0x00100004, none⟩ := by decide +kernel
-- R378: HRET goes to %TRAPPC.
theorem test_hret : (runs (.hret pt sys) (handling false)).pc = 0x00100010 := by decide +kernel
-- R309, R313, R314: TXBEGIN remembers its target; TXABORT −1 leaves EXPLICIT with USER 0xFF; the example of R314.
theorem test_txbegin : (runs (.txbegin pt br) world).tx.state = .active := by decide +kernel
theorem test_txabort : (runs (.txabort pt { asy with a := 0xFF, acls := 3 }) (inTx .active)).tx.record = 0xFF0004 := by decide +kernel
theorem test_abort_record : abortRecord 5 0 0 true = 0x105 := by decide
-- R182: a store of 64 bits at an odd address traps.
theorem test_st_misaligned : (runs (.st pt { mem 1 2 0 with off := 4 }) world).pend = some ⟨.misaligned, 0, 0x00100004, none⟩ := by
  decide +kernel
-- R183: a 64-bit load at the end of the scratchpad less 4 bytes traps ACCESS, where its alignment is 4.
theorem test_ld_outside : (runs (.ld pt { mem 1 2 0 with off := 0x10000 }) world).pend = some ⟨.access, 0, 0x00100004, none⟩ := by
  decide +kernel
-- R112: a group that is in no set has rank 0 alone; its .C address on core 0 is its offset.
theorem test_mapc : (runs (.mapc pt (flt 10 3 0 0)) (regs [(3, 0)])).getV 10 = ⟨0, false⟩ := by decide +kernel
theorem test_mapc_absent : (runs (.mapc pt (flt 10 3 0 0)) (regs [(3, 1)])).getV 10 = ⟨0xFFFFFFFFFFFFFFFF, false⟩ := by decide +kernel
-- R109: a lower quota takes effect at once.
theorem test_regq : (runsCourse (.regq pt { sys with code := 96 }) world).quota = 96 := by decide +kernel
-- R121: YIELD forces the next selection.
theorem test_yield : (runsCourse (.yield pt sys) world).forced = true := by decide +kernel

end Sys2Proof.Tests
end

section
/-!
PROOFS. The integer instructions (spec/07_integer.md). Every form computes a word from the words of its sources and writes it
at issue. That is said once for each of the chapter's layouts, with three registers and with an immediate; a statement then
cites, form by form, the meaning that the instruction calls.
-/

namespace Sys2Proof.Machine

/-! ### Results from source words -/

/-- An instruction that has no feature and no cause of its own, and computes its result from source words (R135 to R137). -/
theorem compute_fromWords {s : State} {x : View} (hv : s.view = some x) (k : Ctl) (w : Nat) (d : Dst) (srcs : List Opd)
    (val : Nat → List Word → Word) {rs : List Nat} (hr : x.reach k rs) :
    compute k false (fun _ => Shape.plain [] rs) (fun x => x.fromWords k w d srcs val) s
      = .next (written s x k d (fun n => x.value w srcs (val n) n)) :=
  compute_short hv k _ _ rfl (laneCause_plain x k [] rs (List.forall_mem_nil _) hr)

/-- An RRR instruction that does not read its destination (R135 to R138). -/
theorem intRRR_sources {k : Ctl} {f : RRR} {s : State} {x : View} (hv : s.view = some x) {arity : Nat}
    (val : Nat → List Word → Word)
    (hr : x.reach k ((dstOf f.dcls f.d).vregs ++ (rrrSrcs f arity).flatMap (·.vregs))) :
    intRRR k f arity false val s = .next (written s x k (dstOf f.dcls f.d)
      (fun n => x.value (widthOf f.es) (rrrSrcs f arity) (val n) n)) := by
  rw [intRRR_reach k f s x hv arity false val hr]
  simp only [Bool.false_eq_true, if_false, List.append_nil]

/-- An instruction with the meaning of an RRR form has the result that the form computes, the same in every lane. -/
theorem resultRRR_of_intRRR {mk : Ctl → RRR → Instr} {arity : Nat} {g : RRR → List Word → Word}
    (h : ∀ k f s, exec (mk k f) s = intRRR k f arity false (fun _ => g f) s) : ResultRRR mk arity g :=
  fun k f s _ hv hr => (h k f s).trans (intRRR_sources hv _ hr)

/-- An instruction with the meaning of an RRI form has the result that the form computes (R139). -/
theorem resultRRI_of_intRRI {mk : Ctl → RRI → Instr} {g : RRI → Word → Word → Word}
    (h : ∀ k f s, exec (mk k f) s = intRRI k f (g f) s) : ResultRRI mk g :=
  fun k f s x hv hr => (h k f s).trans (intRRI_reach k f s x hv _ hr)

/-! ### Arithmetic, shifts, logic and bit counts -/

/-- Settles O1, form by form: arithmetic with registers and with an immediate, then shifts, logic and bit counts. -/
theorem integerArithmeticAndLogic : Obligations.IntegerArithmeticAndLogic :=
  ⟨⟨resultRRR_of_intRRR exec_iadd, resultRRR_of_intRRR exec_isub, resultRRR_of_intRRR exec_imul,
      resultRRR_of_intRRR exec_imad, resultRRR_of_intRRR exec_imulh, resultRRR_of_intRRR exec_ineg,
      resultRRR_of_intRRR exec_iabs, resultRRR_of_intRRR exec_imin, resultRRR_of_intRRR exec_imax,
      resultRRI_of_intRRI exec_iaddImm, resultRRI_of_intRRI exec_isubImm, resultRRI_of_intRRI exec_imulImm,
      resultRRI_of_intRRI exec_iminImm, resultRRI_of_intRRI exec_imaxImm⟩,
    ⟨resultRRR_of_intRRR exec_ishl, resultRRR_of_intRRR exec_ishr, resultRRR_of_intRRR exec_irot,
      resultRRR_of_intRRR exec_and, resultRRI_of_intRRI exec_andImm,
      resultRRR_of_intRRR exec_or, resultRRI_of_intRRI exec_orImm,
      resultRRR_of_intRRR exec_xor, resultRRI_of_intRRI exec_xorImm,
      resultRRR_of_intRRR exec_andn, resultRRI_of_intRRI exec_andnImm,
      resultRRR_of_intRRR exec_not, resultRRR_of_intRRR exec_brev, resultRRR_of_intRRR exec_popc,
      resultRRR_of_intRRR exec_clz, resultRRR_of_intRRR exec_ctz⟩⟩

/-! ### Fields, compares, selection, addresses, moves and predicates -/

/-- Settles O2: BFI and MOVI.HI also read their destination, PSET.LANE its lane's number, MOVI no register; the other
forms compute from their sources alone. -/
theorem integerFieldsAndPredicates : Obligations.IntegerFieldsAndPredicates := by
  refine ⟨resultRRR_of_intRRR exec_bfx, resultRRR_of_intRRR exec_icmp, resultRRI_of_intRRI exec_icmpImm,
    resultRRR_of_intRRR exec_isel, resultRRR_of_intRRR exec_lea, resultRRI_of_intRRI exec_leaImm,
    resultRRR_of_intRRR exec_mov, resultRRR_of_intRRR exec_plop, fun k f s x hv hr => ?bfi,
    fun k f s x hv hbit hr => ?psetBit, fun k f s x hv hlane hr => ?psetLane, fun k f s x hv hlow hr => ?movi,
    fun k f s x hv hhi hr => ?moviHi⟩
  case bfi => exact (exec_bfi k f s).trans (intRRR_reach k f s x hv 3 true _ hr)
  case psetBit =>
    simp only [exec_pset, execPset, hbit, if_true]
    exact intRRR_sources hv _ hr
  case psetLane =>
    simp only [exec_pset, execPset, hlane, if_false]
    exact intRRR_sources hv _ hr
  case movi =>
    simp only [exec_movi, execMovi, beq_iff_eq, hlow, if_false]
    exact compute_fromWords hv k 64 _ [] _ hr
  case moviHi =>
    simp only [exec_movi, execMovi, beq_iff_eq, hhi, if_true]
    exact compute_fromWords hv k 64 _ _ _ hr

end Sys2Proof.Machine
end

section
/-!
PROOFS. The float tests, the conversions, block scaling and FMTQ (spec/08_float.md). What every float instruction does in an
issue that traps in no lane is said once, over its shape (floatShape); the tests share one meaning (floatTest), the
conversions and BSCALE another (convert), and each statement cites, form by form, the meaning that the instruction calls.
-/

namespace Sys2Proof.Machine

/-! ### An issue of a float instruction -/

/-- No lane of Active reports a cause of a float instruction: its feature is there, its registers are within reach, its
slots are BOUND, and what it needs besides holds (R160, R161). -/
theorem laneCause_floatShape (x : View) (k : Ctl) (f : RRR) (feat : Nat) (rs slots : List Nat) (hf : x.has [feat])
    (hr : x.reach k rs) (hb : ∀ i ∈ slots, (x.core.slotImage i).isSome = true) (n : Nat)
    (hn : inMask (x.active k) n = true) : x.laneCause (floatShape x f feat rs slots true) n = none := by
  have noOwnCause : (floatShape x f feat rs slots true).causes n = [] := by
    simp only [floatShape, List.all_eq_true.mpr hb, Bool.and_true, if_true]
  calc x.laneCause (floatShape x f feat rs slots true) n
      = x.laneCause (Shape.plain [feat] rs) n := by rw [View.laneCause, noOwnCause]; rfl
    _ = none := laneCause_plain x k [feat] rs hf hr n hn

/-- A float instruction that computes register results, in an issue that traps in no lane: it delivers its results, and
steps the LFSRs of Active under STOCH (R45). -/
theorem compute_float {s : State} {x : View} (hv : s.view = some x) (k : Ctl) (f : RRR) (long : Bool) {feat : Nat}
    {rs slots : List Nat} {need : View → Bool} (body : View → LaneMask → List RegWrite) (hf : x.has [feat])
    (hr : x.reach k rs) (hb : ∀ i ∈ slots, (x.core.slotImage i).isSome = true) (hneed : need x = true) :
    compute k long (fun x => floatShape x f feat rs slots (need x)) body s
      = .next (rounded s x k f long slots (body x (x.active k))) := by
  have hclear : ∀ n, inMask (x.active k) n = true → x.laneCause (floatShape x f feat rs slots (need x)) n = none := by
    rw [hneed]
    exact laneCause_floatShape x k f feat rs slots hf hr hb
  rw [compute, issue_view hv, finishCompute, finishEffect_clear s x k _ _ hclear]
  rfl

/-- The image that an instruction works with is the one that its BOUND slot holds. -/
theorem image_of_slotImage {x : View} {slot : Nat} {im : Image} (h : x.core.slotImage slot = some im) :
    x.image slot = im := by
  rw [View.image, h, Option.getD_some]

/-! ### Tests and conversions -/

/-- An instruction with the meaning of a float test has the outcomes that the test gives on elements of its slot's width
(R173, R174). -/
theorem resultTest_of_floatTest {mk : Ctl → RRR → Instr} {test : RRR → Image → Nat → List Word → Nat → Bool}
    {outcome : RRR → Image → List Word → Nat → Bool}
    (h : ∀ k f s, exec (mk k f) s = floatTest k f (rrrSrcs f 2) (test f) s)
    (hwidth : ∀ f im, test f im (descWidth im.desc) = outcome f im) : ResultTest mk outcome := by
  intro k f s x im hv hfeat hr him
  have bound : ∀ i ∈ [f.ty.toNat], (x.core.slotImage i).isSome = true := by
    simp only [List.mem_singleton, forall_eq, him, Option.isSome_some]
  rw [h, floatTest, compute_float hv k f false _ hfeat hr bound rfl]
  simp only [image_of_slotImage him, hwidth]
  rfl

/-- What a conversion does in an issue that traps in no lane, where its slots are BOUND, its part is legal, and what it
needs besides holds (R175). -/
theorem convert_reach {k : Ctl} {f : RRR} {s : State} {x : View} (hv : s.view = some x) {more : List Opd}
    {slots : List Nat} {need : View → Bool} {ws wd : View → Nat} (el : View → Nat → Nat → List Word → Nat → Nat)
    (hfeat : x.has [4]) (hr : x.reach k ((dstOf f.dcls f.d).vregs ++ (opdOf f.acls f.a :: more).flatMap (·.vregs)))
    (hb : ∀ i ∈ slots, (x.core.slotImage i).isSome = true) (hneed : need x = true)
    (hpart : partOk (64 / ws x) (64 / wd x) f.mod.toNat = true) :
    convert k f more slots need ws wd el s = .next (rounded s x k f false slots
      (x.result k (x.active k) (dstOf f.dcls f.d) (fun n =>
        let ps := (opdOf f.acls f.a :: more).map (x.opd (ws x) n)
        let old := x.opd 64 n (dstOf f.dcls f.d).asOpd
        stochPoison x f n ⟨convertWord (wd x) (64 / ws x) (64 / wd x) f.mod.toNat old.val
            (fun i j => el x n i (ps.map (·.val)) j),
          ps.any (·.poison) || (decide (64 / ws x < 64 / wd x) && old.poison)⟩))) :=
  compute_float hv k f false _ hfeat hr hb (Bool.and_eq_true_iff.mpr ⟨hneed, hpart⟩)

/-- An instruction with the meaning of a conversion that needs nothing besides its slots and its part. -/
theorem resultConvert_of_convert {mk : Ctl → RRR → Instr} {more : RRR → List Opd} {slots : RRR → List Nat}
    {ws wd : RRR → View → Nat} {el : RRR → View → Nat → Nat → List Word → Nat → Nat}
    (h : ∀ k f s, exec (mk k f) s = convert k f (more f) (slots f) (fun _ => true) (ws f) (wd f) (el f) s) :
    ResultConvert mk more slots ws wd el :=
  fun k f s _ hv hfeat hr hb hpart => (h k f s).trans (convert_reach hv _ hfeat hr hb rfl hpart)

/-- Settles O9, form by form: FCMP and FCLASS are tests, CVT, CVTI and CVTF conversions; FMTQ is long-latency and rounds
nothing, and BSCALE is a conversion that also needs source elements of at most 8 bits. -/
theorem floatTestsAndConversions : Obligations.FloatTestsAndConversions := by
  refine ⟨resultTest_of_floatTest exec_fcmp fun _ _ => rfl, resultTest_of_floatTest exec_fclass fun _ _ => rfl,
    resultConvert_of_convert exec_cvt, resultConvert_of_convert exec_cvti, resultConvert_of_convert exec_cvtf, fun k f s x hv hfeat hr => ?fmtq,
    fun k f s x hv hfeat hr hb hnarrow hpart => ?bscale⟩
  case fmtq => exact (exec_fmtq k f s).trans (compute_long hv k _ _ rfl (laneCause_plain x k [4] _ hfeat hr))
  case bscale =>
    exact (exec_bscale k f s).trans (convert_reach hv _ hfeat hr hb (decide_eq_true hnarrow) hpart)

end Sys2Proof.Machine
end

section
/-!
PROOFS. The decoder and the encoder undo each other (spec/04_encoding.md, R70 to R86). That a word holds what the encoder put
into it stands in Laws/PerInstr; here it is shown that the encoder puts back together what the decoder took apart: a word is
the appended row of the fields cut out of it.
-/

namespace Sys2Proof.Laws

/-! ### Fields put together again -/

/-- A field appended below what stands above it is the longer field. -/
theorem join {w a b c i : Nat} {x : BitVec a} {p : BitVec w} (hc : c = i + b) (h : x = p.extractLsb' c a) :
    x ++ p.extractLsb' i b = p.extractLsb' i (a + b) :=
  h ▸ BitVec.extractLsb'_append_extractLsb'_eq_extractLsb' hc

theorem wrRRR_rdRRR (p : BitVec 64) : wrRRR (rdRRR p) = p := by
  refine Eq.trans ?_ (extract_all p)
  iterate 15 refine join rfl ?_
  rfl

theorem wrRRI_rdRRI (p : BitVec 64) : wrRRI (rdRRI p) = p := by
  refine Eq.trans ?_ (extract_all p)
  iterate 6 refine join rfl ?_
  rfl

theorem wrMEM_rdMEM (p : BitVec 64) : wrMEM (rdMEM p) = p := by
  refine Eq.trans ?_ (extract_all p)
  iterate 9 refine join rfl ?_
  rfl

theorem wrBR_rdBR (p : BitVec 64) : wrBR (rdBR p) = p := by
  refine Eq.trans ?_ (extract_all p)
  iterate 5 refine join rfl ?_
  rfl

theorem wrMAT_rdMAT (p : BitVec 64) : wrMAT (rdMAT p) = p := by
  refine Eq.trans ?_ (extract_all p)
  iterate 15 refine join rfl ?_
  rfl

theorem wrASY_rdASY (p : BitVec 64) : wrASY (rdASY p) = p := by
  refine Eq.trans ?_ (extract_all p)
  iterate 11 refine join rfl ?_
  rfl

theorem wrSYS_rdSYS (p : BitVec 64) : wrSYS (rdSYS p) = p := by
  refine Eq.trans ?_ (extract_all p)
  iterate 6 refine join rfl ?_
  rfl

theorem wrWord_parts (w : IWord) : wrWord (rdCtl w) (w.extractLsb' 64 11) (w.extractLsb' 0 64) = w := by
  refine Eq.trans ?_ (extract_all w)
  iterate 5 refine join rfl ?_
  rfl

/-! ### Every instruction and every opcode -/

/-- A well-formed instruction is what the decoder reads from its word; a step of the device has no word. -/
theorem roundTrip (i : Instr) : RoundTrip.Statement i := by
  cases i with
  | iadd k f => exact RoundTrip.iadd k f
  | iaddImm k f => exact RoundTrip.iaddImm k f
  | isub k f => exact RoundTrip.isub k f
  | isubImm k f => exact RoundTrip.isubImm k f
  | imul k f => exact RoundTrip.imul k f
  | imulImm k f => exact RoundTrip.imulImm k f
  | imulh k f => exact RoundTrip.imulh k f
  | imad k f => exact RoundTrip.imad k f
  | ineg k f => exact RoundTrip.ineg k f
  | iabs k f => exact RoundTrip.iabs k f
  | imin k f => exact RoundTrip.imin k f
  | iminImm k f => exact RoundTrip.iminImm k f
  | imax k f => exact RoundTrip.imax k f
  | imaxImm k f => exact RoundTrip.imaxImm k f
  | ishl k f => exact RoundTrip.ishl k f
  | ishr k f => exact RoundTrip.ishr k f
  | irot k f => exact RoundTrip.irot k f
  | and k f => exact RoundTrip.and k f
  | andImm k f => exact RoundTrip.andImm k f
  | or k f => exact RoundTrip.or k f
  | orImm k f => exact RoundTrip.orImm k f
  | xor k f => exact RoundTrip.xor k f
  | xorImm k f => exact RoundTrip.xorImm k f
  | andn k f => exact RoundTrip.andn k f
  | andnImm k f => exact RoundTrip.andnImm k f
  | not k f => exact RoundTrip.not k f
  | bfx k f => exact RoundTrip.bfx k f
  | bfi k f => exact RoundTrip.bfi k f
  | brev k f => exact RoundTrip.brev k f
  | popc k f => exact RoundTrip.popc k f
  | clz k f => exact RoundTrip.clz k f
  | ctz k f => exact RoundTrip.ctz k f
  | icmp k f => exact RoundTrip.icmp k f
  | icmpImm k f => exact RoundTrip.icmpImm k f
  | isel k f => exact RoundTrip.isel k f
  | lea k f => exact RoundTrip.lea k f
  | leaImm k f => exact RoundTrip.leaImm k f
  | mov k f => exact RoundTrip.mov k f
  | movi k f => exact RoundTrip.movi k f
  | pset k f => exact RoundTrip.pset k f
  | plop k f => exact RoundTrip.plop k f
  | shfl k f => exact RoundTrip.shfl k f
  | qxch k f => exact RoundTrip.qxch k f
  | vote k f => exact RoundTrip.vote k f
  | perm k f => exact RoundTrip.perm k f
  | pack k f => exact RoundTrip.pack k f
  | unpack k f => exact RoundTrip.unpack k f
  | movs k f => exact RoundTrip.movs k f
  | movss k f => exact RoundTrip.movss k f
  | pchk k f => exact RoundTrip.pchk k f
  | pclr k f => exact RoundTrip.pclr k f
  | fadd k f => exact RoundTrip.fadd k f
  | fsub k f => exact RoundTrip.fsub k f
  | fmul k f => exact RoundTrip.fmul k f
  | fma k f => exact RoundTrip.fma k f
  | fmin k f => exact RoundTrip.fmin k f
  | fmax k f => exact RoundTrip.fmax k f
  | fcmp k f => exact RoundTrip.fcmp k f
  | fclass k f => exact RoundTrip.fclass k f
  | frnd k f => exact RoundTrip.frnd k f
  | fscale k f => exact RoundTrip.fscale k f
  | frcp k f => exact RoundTrip.frcp k f
  | frsq k f => exact RoundTrip.frsq k f
  | fsqrt k f => exact RoundTrip.fsqrt k f
  | fexp2 k f => exact RoundTrip.fexp2 k f
  | flog2 k f => exact RoundTrip.flog2 k f
  | fsin k f => exact RoundTrip.fsin k f
  | fcos k f => exact RoundTrip.fcos k f
  | ftanh k f => exact RoundTrip.ftanh k f
  | fdiv k f => exact RoundTrip.fdiv k f
  | cvt k f => exact RoundTrip.cvt k f
  | cvti k f => exact RoundTrip.cvti k f
  | cvtf k f => exact RoundTrip.cvtf k f
  | bscale k f => exact RoundTrip.bscale k f
  | fmtq k f => exact RoundTrip.fmtq k f
  | ld k f => exact RoundTrip.ld k f
  | st k f => exact RoundTrip.st k f
  | cas k f => exact RoundTrip.cas k f
  | fence k f => exact RoundTrip.fence k f
  | pref k f => exact RoundTrip.pref k f
  | cctl k f => exact RoundTrip.cctl k f
  | probe k f => exact RoundTrip.probe k f
  | mapc k f => exact RoundTrip.mapc k f
  | atomAdd k f => exact RoundTrip.atomAdd k f
  | atomMin k f => exact RoundTrip.atomMin k f
  | atomMax k f => exact RoundTrip.atomMax k f
  | atomAnd k f => exact RoundTrip.atomAnd k f
  | atomOr k f => exact RoundTrip.atomOr k f
  | atomXor k f => exact RoundTrip.atomXor k f
  | atomXchg k f => exact RoundTrip.atomXchg k f
  | redAdd k f => exact RoundTrip.redAdd k f
  | redMin k f => exact RoundTrip.redMin k f
  | redMax k f => exact RoundTrip.redMax k f
  | redAnd k f => exact RoundTrip.redAnd k f
  | redOr k f => exact RoundTrip.redOr k f
  | redXor k f => exact RoundTrip.redXor k f
  | wbind k f => exact RoundTrip.wbind k f
  | wtouch k f => exact RoundTrip.wtouch k f
  | wstat k f => exact RoundTrip.wstat k f
  | wdrop k f => exact RoundTrip.wdrop k f
  | wflush k f => exact RoundTrip.wflush k f
  | cntwait k f => exact RoundTrip.cntwait k f
  | binit k f => exact RoundTrip.binit k f
  | barr k f => exact RoundTrip.barr k f
  | bwait k f => exact RoundTrip.bwait k f
  | barw k f => exact RoundTrip.barw k f
  | bexp k f => exact RoundTrip.bexp k f
  | binv k f => exact RoundTrip.binv k f
  | mma k f => exact RoundTrip.mma k f
  | mmaz k f => exact RoundTrip.mmaz k f
  | zld k f => exact RoundTrip.zld k f
  | zst k f => exact RoundTrip.zst k f
  | zmov k f => exact RoundTrip.zmov k f
  | zrmax k f => exact RoundTrip.zrmax k f
  | zrscale k f => exact RoundTrip.zrscale k f
  | bra k f => exact RoundTrip.bra k f
  | brx k f => exact RoundTrip.brx k f
  | call k f => exact RoundTrip.call k f
  | callx k f => exact RoundTrip.callx k f
  | ret k f => exact RoundTrip.ret k f
  | exit k f => exact RoundTrip.exit k f
  | yield k f => exact RoundTrip.yield k f
  | sleep k f => exact RoundTrip.sleep k f
  | nop k f => exact RoundTrip.nop k f
  | regq k f => exact RoundTrip.regq k f
  | rres k f => exact RoundTrip.rres k f
  | remit k f => exact RoundTrip.remit k f
  | rcancel k f => exact RoundTrip.rcancel k f
  | fetch k f => exact RoundTrip.fetch k f
  | txbegin k f => exact RoundTrip.txbegin k f
  | txend k f => exact RoundTrip.txend k f
  | txabort k f => exact RoundTrip.txabort k f
  | txstat k f => exact RoundTrip.txstat k f
  | trap k f => exact RoundTrip.trap k f
  | bkpt k f => exact RoundTrip.bkpt k f
  | hret k f => exact RoundTrip.hret k f
  | qpost k f => exact RoundTrip.qpost k f
  | ckpt k f => exact RoundTrip.ckpt k f
  | _ => exact RoundTrip.of_none _ rfl

/-- The instruction that an opcode names has that opcode and the payload it was read from. -/
theorem parts_of_ofOpcode {op : BitVec 11} {k : Ctl} {p : BitVec 64} {i : Instr} (h : ofOpcode op k p = some i) :
    parts i = some (k, op, p) := by
  unfold ofOpcode at h
  split at h <;> cases h
  all_goals
    simp only [parts, wrRRR_rdRRR, wrRRI_rdRRI, wrMEM_rdMEM, wrBR_rdBR, wrMAT_rdMAT, wrASY_rdASY, wrSYS_rdSYS]
    exact congrArg (fun o => some (k, o, p)) (BitVec.eq_of_toNat_eq (Eq.symm ‹_›))

/-- Settles O57, instruction by instruction. -/
theorem decodeOfEncode : Obligations.DecodeOfEncode :=
  fun i w ok hw => roundTrip i ok w hw

/-- Settles O58: a word that decodes is put together again from the parts that name its instruction. -/
theorem encodeOfDecode : Obligations.EncodeOfDecode := by
  intro w i h
  simp only [decode] at h
  split at h
  · cases h
  · split at h
    next j hop hform =>
      cases h
      refine ⟨?_, hform⟩
      rw [encode, parts_of_ofOpcode hop]
      exact congrArg some (wrWord_parts w)
    · cases h

end Sys2Proof.Laws
end

section
/-!
PROOFS. Packed words, cross-lane instructions, special registers and the float instructions on one slot (spec/02_numbers.md,
spec/07_integer.md, spec/08_float.md).
-/

namespace Sys2Proof.Machine

/-! ### Packed words (R7, R35) -/

/-- The number whose digits of w bits are g 0, g 1 and so on, n of them. -/
def packSum (w n : Nat) (g : Nat → Nat) : Nat :=
  (List.range n).foldl (fun acc i => acc + g i % 2 ^ w * 2 ^ (i * w)) 0

theorem packSum_succ (w n : Nat) (g : Nat → Nat) :
    packSum w (n + 1) g = packSum w n g + g n % 2 ^ w * 2 ^ (n * w) := by
  simp only [packSum, List.range_succ, List.foldl_append, List.foldl_cons, List.foldl_nil]

theorem packSum_lt (w n : Nat) (g : Nat → Nat) : packSum w n g < 2 ^ (n * w) := by
  induction n with
  | zero => simp [packSum]
  | succ n ih =>
    have digit : g n % 2 ^ w + 1 ≤ 2 ^ w := Nat.mod_lt _ (by positivity)
    calc packSum w (n + 1) g
        < 2 ^ (n * w) + g n % 2 ^ w * 2 ^ (n * w) := by rw [packSum_succ]; omega
      _ = (g n % 2 ^ w + 1) * 2 ^ (n * w) := by ring
      _ ≤ 2 ^ w * 2 ^ (n * w) := Nat.mul_le_mul_right _ digit
      _ = 2 ^ ((n + 1) * w) := by ring

/-- Digit i of the sum is g i: the digits below stay below it, the digits above are multiples of the next power. -/
theorem packSum_digit (w n i : Nat) (g : Nat → Nat) (h : i < n) :
    packSum w n g / 2 ^ (i * w) % 2 ^ w = g i % 2 ^ w := by
  induction n with
  | zero => omega
  | succ n ih =>
    rw [packSum_succ]
    rcases Nat.lt_succ_iff_lt_or_eq.mp h with lt | rfl
    · obtain ⟨d, rfl⟩ := Nat.exists_eq_add_of_lt lt
      have power : g (i + d + 1) % 2 ^ w * 2 ^ ((i + d + 1) * w)
          = 2 ^ (i * w) * (2 ^ w * (g (i + d + 1) % 2 ^ w * 2 ^ (d * w))) := by ring
      rw [power, Nat.add_mul_div_left _ _ (by positivity), Nat.add_mul_mod_self_left, ih lt]
    · rw [Nat.add_mul_div_right _ _ (by positivity), Nat.div_eq_of_lt (packSum_lt w i g), Nat.zero_add, Nat.mod_mod]

/-- A packed word is the sum of its elements: they fit in its 64 bits. -/
theorem pack_toNat (w : Nat) (g : Nat → Nat) : (pack w g).toNat = packSum w (64 / w) g := by
  have fits : packSum w (64 / w) g < 2 ^ 64 :=
    (packSum_lt w (64 / w) g).trans_le (Nat.pow_le_pow_right (by decide) (Nat.div_mul_le_self 64 w))
  exact (BitVec.toNat_ofNat _ _).trans (Nat.mod_eq_of_lt fits)

/-- Settles O3: the elements are the digits of the sum. -/
theorem packedElements : Obligations.PackedElements := by
  intro w g _ _
  refine ⟨fun i hi => ?_, ?_⟩
  · rw [field, pack_toNat, packSum_digit w _ i g hi]
  · rw [pack_toNat]
    exact packSum_lt w _ g

/-! ### Cross-lane instructions (R150 to R156) -/

/-- An instruction with the meaning of a cross-lane form has the result gathered from the lanes of Active. -/
theorem resultGather_of_crossLane {mk : Ctl → RRR → Instr} {r : RRR → View → LaneMask → Nat → Gather}
    (h : ∀ k f s, exec (mk k f) s = crossLane k f (r f) s) : ResultGather mk r :=
  fun k f s x hv hf hr => (h k f s).trans (compute_long hv k _ _ rfl (laneCause_plain x k [1] _ hf hr))

/-- VOTE asks for no register. -/
theorem reach_nil (x : View) (k : Ctl) : x.reach k [] := fun _ _ _ h => absurd h List.not_mem_nil

/-- Settles O4: SHFL, PERM, PACK and UNPACK are cross-lane forms; QXCH and VOTE are long-latency in their own ways. -/
theorem crossLaneGathers : Obligations.CrossLaneGathers := by
  refine ⟨resultGather_of_crossLane exec_shfl, resultGather_of_crossLane exec_perm, resultGather_of_crossLane exec_pack,
    resultGather_of_crossLane exec_unpack, fun k f s x hv hf hr => ?qxch, fun k f s x hv hf => ?vote⟩
  case qxch => exact (exec_qxch k f s).trans (compute_long hv k _ _ rfl (laneCause_plain x k [1] _ hf hr))
  case vote =>
    refine (exec_vote k f s).trans ((compute_long hv k _ _ rfl (laneCause_plain x k [1] [] hf (reach_nil x k))).trans ?_)
    generalize f.tyb.toNat = kind
    match kind with
    | 0 => rfl
    | 1 => rfl
    | _ + 2 => rfl

/-! ### Special registers (R157, R158) -/

/-- Every instruction has the features of an empty list. -/
theorem has_nil (x : View) : x.has [] := fun _ h => absurd h List.not_mem_nil

/-- No lane of Active reports a cause of MOVSS, but for %TRAPPC and %TRAPCAUSE outside the handler. -/
theorem laneCause_movss {x : View} {k : Ctl} {rs : List Nat} {spr : Nat} (hr : x.reach k rs)
    (hh : (spr = 0x0C ∨ spr = 0x0D) → ∀ n, inMask (x.active k) n = true → (x.crs.lane n).inHandler = true) (n : Nat)
    (hn : inMask (x.active k) n = true) :
    x.laneCause ⟨[], rs, fun n => if (spr = 0x0C ∨ spr = 0x0D) ∧ !(x.crs.lane n).inHandler then [.illegalForm] else [],
      false, []⟩ n = none := by
  have noOwnCause : ¬((spr = 0x0C ∨ spr = 0x0D) ∧ !(x.crs.lane n).inHandler) := fun ⟨hs, hi⟩ => by simp [hh hs n hn] at hi
  simp only [View.laneCause, if_neg noOwnCause]
  exact laneCause_plain x k [] rs (has_nil x) hr n hn

/-- Settles O5: MOVS, PCHK and PCLR write a result; MOVSS writes a special register in the lanes of Active. -/
theorem specialRegisterMoves : Obligations.SpecialRegisterMoves := by
  refine ⟨fun k f s x hv hr => ?movs, fun k f s x hv hr => ?pchk, fun k f s x hv hr => ?pclr, fun k f s x hv hr hh => ?movss⟩
  case movs => exact (exec_movs k f s).trans (compute_short hv k _ _ rfl (laneCause_plain x k [] _ (has_nil x) hr))
  case pchk => exact (exec_pchk k f s).trans (compute_short hv k _ _ rfl (laneCause_plain x k [] _ (has_nil x) hr))
  case pclr => exact (exec_pclr k f s).trans (compute_short hv k _ _ rfl (laneCause_plain x k [] _ (has_nil x) hr))
  case movss =>
    rw [exec_movss, execMovss, issue_view hv, finishEffect_clear s x k _ _ (laneCause_movss hr hh)]
    rfl

/-! ### Float arithmetic and functions (R167 to R172) -/

/-- An instruction with the meaning of a float form on one slot has the result that the form computes on its elements. -/
theorem resultFloat_of_floatRRR {mk : Ctl → RRR → Instr} {feat : Nat} {long : Bool} {arity : Nat}
    {g : RRR → Image → RoundMode → List Nat → Nat}
    (h : ∀ k f s, exec (mk k f) s = floatRRR k f feat long arity (g f) s) : ResultFloat mk feat long arity g := by
  intro k f s x im hv hfeat hr him
  have bound : ∀ i ∈ [f.ty.toNat], (x.core.slotImage i).isSome = true := by
    simp only [List.mem_singleton, forall_eq, him, Option.isSome_some]
  rw [h, floatRRR, compute_float hv k f long _ hfeat hr bound rfl]
  simp only [image_of_slotImage him]

/-- Settles O8, form by form. -/
theorem floatArithmeticAndFunctions : Obligations.FloatArithmeticAndFunctions :=
  ⟨⟨resultFloat_of_floatRRR exec_fadd, resultFloat_of_floatRRR exec_fsub, resultFloat_of_floatRRR exec_fmul,
      resultFloat_of_floatRRR exec_fma, resultFloat_of_floatRRR exec_fmin, resultFloat_of_floatRRR exec_fmax,
      resultFloat_of_floatRRR exec_frnd, resultFloat_of_floatRRR exec_fscale⟩,
    ⟨resultFloat_of_floatRRR exec_fdiv, resultFloat_of_floatRRR exec_frcp, resultFloat_of_floatRRR exec_frsq,
      resultFloat_of_floatRRR exec_fsqrt, resultFloat_of_floatRRR exec_fexp2, resultFloat_of_floatRRR exec_flog2,
      resultFloat_of_floatRRR exec_fsin, resultFloat_of_floatRRR exec_fcos, resultFloat_of_floatRRR exec_ftanh⟩⟩

end Sys2Proof.Machine
end

section
/-!
PROOFS. The machine as a whole: the state after reset, sample words, the order of steps, and takes from the dispenser
(spec/04_encoding.md, spec/06_courses.md, spec/16_stage_graphs.md, spec/28_boot_ras.md).
-/

namespace Sys2Proof.Machine

/-! ### Reset and sample words -/

/-- Settles O60. -/
theorem resetState : Obligations.ResetState := by
  refine ⟨⟨wf_empty, wf_empty, List.forall_mem_nil _, List.forall_mem_nil _, List.forall_mem_nil _⟩, rfl, rfl, rfl, by decide, by decide, fun t a => ?_, rfl⟩
  cases t with
  | peer p =>
    have idle : (State.reset.port p).writes = [] := by
      unfold State.port
      split
      · simp only [State.reset, Vector.getElem_replicate]
        rfl
      · rfl
    simp only [State.mem, idle]
    rfl
  | _ => rfl

/-- Settles O56: the decoder is run on each word. -/
theorem decodeSanity : Obligations.DecodeSanity := by
  unfold Obligations.DecodeSanity
  decide

/-! ### The dispenser (R349, R355) -/

/-- The items that an overflow gave back are passed over by a group on a lent core (R214). -/
theorem takeBack_skip {lent : Bool} {c : Nat} {pre rest : List Returned} (h : ∀ e ∈ pre, lent = true ∧ e.owned = true) :
    takeBack lent c (pre ++ rest) = (takeBack lent c rest).map (fun t => (t.1, pre ++ t.2)) := by
  induction pre with
  | nil => simp
  | cons e pre ih =>
    obtain ⟨hl, he⟩ := h e List.mem_cons_self
    rw [List.cons_append, takeBack, if_pos (by rw [hl, he]; rfl), ih fun e' h' => h e' (List.mem_cons_of_mem _ h'),
      Option.map_map]
    rfl

/-- A list of nothing but such items gives nothing back. -/
theorem takeBack_none {lent : Bool} {c : Nat} {l : List Returned} (h : ∀ e ∈ l, lent = true ∧ e.owned = true) :
    takeBack lent c l = none := by
  have := takeBack_skip (c := c) (rest := []) h
  rwa [List.append_nil, takeBack, Option.map_none] at this

/-- The head of what came back, as far as it reaches. -/
theorem takeBack_head {lent : Bool} {c : Nat} {r : Returned} {rest : List Returned} (h : (lent && r.owned) = false) :
    takeBack lent c (r :: rest) = some ((r.first, min c r.count),
      if r.count ≤ c then rest else { r with first := r.first + c, count := r.count - c } :: rest) := by
  rw [takeBack, if_neg (by rw [h]; decide)]
  by_cases le : r.count ≤ c
  · simp only [Nat.min_eq_right le, if_true, if_pos le]
  · have ne : c ≠ r.count := by omega
    simp only [Nat.min_eq_left (Nat.le_of_not_le le), if_neg ne, if_neg le]

theorem take_of_takeBack {l : Launch} {lent : Bool} {c : Nat} (hc : 0 < c) {t : (Nat × Nat) × List Returned}
    (h : takeBack lent c l.returns = some t) : l.take true lent c = (t.1, { l with returns := t.2 }) := by
  have : ¬((!true || c == 0) = true) := by simp; omega
  rw [Launch.take, if_neg this, h]

theorem take_of_none {l : Launch} {lent : Bool} {c : Nat} (hc : 0 < c) (h : takeBack lent c l.returns = none) :
    l.take true lent c = if min c (l.total - l.next) = 0 then ((2 ^ 64 - 1, 0), l)
      else ((l.next, min c (l.total - l.next)), { l with next := l.next + min c (l.total - l.next) }) := by
  have : ¬((!true || c == 0) = true) := by simp; omega
  rw [Launch.take, if_neg this, h]

/-- A take changes neither the total nor the records. -/
theorem take_keeps (l : Launch) (p lent : Bool) (c : Nat) :
    (l.take p lent c).2.total = l.total ∧ (l.take p lent c).2.records = l.records := by
  unfold Launch.take
  split
  · exact ⟨rfl, rfl⟩
  · split
    · exact ⟨rfl, rfl⟩
    · dsimp only
      split <;> exact ⟨rfl, rfl⟩

/-- Settles O33, by whether something that the group may take came back, and whether indexes are left. -/
theorem dispenserTakes : Obligations.DispenserTakes := by
  refine fun l lent c hc => ⟨fun pre r rest hl hpre hr _ => ?back, fun hall hlt => ?next, fun hall hle => ?empty,
    take_keeps l true lent c⟩
  case back =>
    have found := takeBack_skip (c := c) (rest := r :: rest) hpre
    rw [takeBack_head hr, Option.map_some, ← hl] at found
    rw [take_of_takeBack hc found]
    exact ⟨rfl, rfl, rfl⟩
  case next =>
    have some_left : ¬(min c (l.total - l.next) = 0) := by omega
    rw [take_of_none hc (takeBack_none hall), if_neg some_left]
    exact ⟨rfl, by dsimp only; omega, rfl⟩
  case empty => rw [take_of_none hc (takeBack_none hall), if_pos (by omega)]

/-! ### What a step runs -/

/-- The outcome of what a step does. -/
def Up.out : Up → Out
  | .run i t => exec i t
  | .done t => .next t

theorem step_out (s : State) : step s = (nextUp s).out := by
  unfold step
  cases nextUp s <;> rfl

/-- With a slot chosen the next step is on that slot, charged to its group's owner. -/
theorem step_view {s : State} {x : View} (hv : s.view = some x) :
    step s = (fetchUp { s with time := s.time + 1, payer := groupOwner s x.sel.grp } x).out := by
  have hv' : ({ s with time := s.time + 1 } : State).view = some x := hv
  rw [step_out, nextUp]
  simp only [hv']
  rfl

/-- With no slot chosen the next step is the agenda's, or a selection. -/
theorem step_noView {s : State} (hs : s.sel = none) :
    step s = (if s.turn || s.agenda.isEmpty then selectUp { s with time := s.time + 1 }
      else agendaUp { s with time := s.time + 1 }).out := by
  have hv : ({ s with time := s.time + 1 } : State).view = none := by simp [State.view, hs]
  have hd : ({ s with time := s.time + 1 } : State).deselect = { s with time := s.time + 1 } := by
    simp [State.deselect, ← hs]
  rw [step_out, nextUp]
  simp only [hv, hd]

theorem fetchUp_miss {s : State} {x : View} (h : x.core.line (lineOf x.sel.pc) (s.groupCtx x.grp) = none) :
    fetchUp s x = .done (s.deselect.postOnce (.lineFill x.sel.core x.sel.grp (lineOf x.sel.pc))) := by
  rw [fetchUp, h]

theorem fetchUp_poisoned {s : State} {x : View} {l : ILine}
    (h : x.core.line (lineOf x.sel.pc) (s.groupCtx x.grp) = some l) (hp : l.poisoned = true) :
    fetchUp s x = .done (trapLanes (dropLine s x.sel.core (lineOf x.sel.pc) (s.groupCtx x.grp)) x.sel x.sel.mask
      ⟨.poisonConsumed, 0, x.sel.pc, none⟩) := by
  rw [fetchUp, h]
  exact if_pos hp

section held
variable {s : State} {x : View} {l : ILine} (h : x.core.line (lineOf x.sel.pc) (s.groupCtx x.grp) = some l)
  (hp : l.poisoned = false)
include h hp

/-- A slot of a line that the core holds, unpoisoned, runs what it decodes to. -/
theorem fetchUp_decodes {i : Instr} (hd : slotDecode l (slotOf x.sel.pc) = .ok i) : fetchUp s x = .run i s := by
  simp only [fetchUp, h, hp, hd, Bool.false_eq_true, if_false]

/-- A slot that does not decode traps in the lanes of Active, a branch in every lane that issues it (R86, R87). -/
theorem fetchUp_illegal {c : Cause} {k : Ctl} {branch : Bool}
    (hd : slotDecode l (slotOf x.sel.pc) = .error (c, k, branch)) :
    fetchUp s x = .done (trapLanes s x.sel (if branch then x.sel.mask else x.active k) ⟨c, 0, x.sel.pc, none⟩) := by
  simp only [fetchUp, h, hp, hd, Bool.false_eq_true, if_false]

end held

/-- A slot whose word decodes still breaks its form where the line word's reserved field is not zero (R69). -/
theorem slotDecode_ok {l : ILine} {slot : Nat} {i : Instr} (h : decode (slotWord l slot) = .ok i) :
    slotDecode l slot = if lineReserved l then .error (.illegalForm, rdCtl (slotWord l slot), isBranch i) else .ok i := by
  rw [slotDecode, h]

theorem slotDecode_error {l : ILine} {slot : Nat} :
    (∀ k, decode (slotWord l slot) = .error (.illegalOpcode k) → slotDecode l slot = .error (.illegalOpcode, k, false))
    ∧ (∀ k b, decode (slotWord l slot) = .error (.illegalForm k b) → slotDecode l slot = .error (.illegalForm, k, b)) :=
  ⟨fun k h => by rw [slotDecode, h], fun k b h => by rw [slotDecode, h]⟩

theorem agendaUp_cons {s : State} {i : Instr} {rest : List Instr} (h : s.agenda = i :: rest) :
    agendaUp s = .run i { chargeHostWrite s i with agenda := rest, turn := true, payer := payerOf s i } := by
  rw [agendaUp, h]

theorem agendaUp_nil {s : State} (h : s.agenda = []) : agendaUp s = .done s := by rw [agendaUp, h]

/-- Settles O55: the chosen slot by its line and its word, the agenda's head, the selection, and the end of a cycle. -/
theorem stepRunsDecoded : Obligations.StepRunsDecoded := by
  refine ⟨fun s x i hv => ?slot, fun s i rest hs ht ha => ?agenda, fun s hs ht => ?select, fun s g c => ?cycle⟩
  case slot =>
    intro u
    have up {v : Up} (h : fetchUp u x = v) : step s = v.out := (step_view hv).trans (congrArg Up.out h)
    refine ⟨fun hl => up (fetchUp_miss hl), fun l hl => ⟨fun hp => up (fetchUp_poisoned hl hp), fun hp =>
      ⟨fun hd hr => ?_, fun hd hr => ?_, fun k hd => up (fetchUp_illegal (s := u) hl hp (slotDecode_error.1 k hd)),
        fun k b hd => up (fetchUp_illegal (s := u) hl hp (slotDecode_error.2 k b hd))⟩⟩⟩
    · have decodes := slotDecode_ok hd
      rw [hr] at decodes
      exact up (fetchUp_decodes (s := u) hl hp decodes)
    · have reserved := slotDecode_ok hd
      rw [hr] at reserved
      exact up (fetchUp_illegal (s := u) hl hp reserved)
  case agenda =>
    intro u
    have hu : u.agenda = i :: rest := ha
    have turn : ¬((s.turn || s.agenda.isEmpty) = true) := by simp [ht, ha]
    rw [step_noView hs, if_neg turn]
    exact (congrArg Up.out (agendaUp_cons hu)).trans rfl
  case select =>
    intro u
    have hstep : step s = (selectUp { s with time := s.time + 1 }).out := by
      rw [step_noView hs, if_pos (by rcases ht with h | h <;> simp [h])]
    refine ⟨fun k g c hc => ?_, fun hc => ?_⟩
    · rw [hstep, selectUp]
      simp only [show (flushPosts (settleFences (speculate { s with time := s.time + 1 }))) = u from rfl, hc]
      rfl
    · have hag : selectUp { s with time := s.time + 1 } = agendaUp (endCycle u) := by
        rw [selectUp]
        simp only [show (flushPosts (settleFences (speculate { s with time := s.time + 1 }))) = u from rfl, hc]
        rfl
      refine ⟨fun i rest ha => ?_, fun ha => ?_⟩
      · rw [hstep, hag, agendaUp_cons ha]
        rfl
      · rw [hstep, hag, agendaUp_nil ha]
        rfl
  case cycle =>
    refine ⟨fun h => ?_, fun h hf => ?_⟩
    · rw [joinCycle]
      simp only [State.takeFree, h, Bool.true_or, if_true]
      rfl
    · rw [joinCycle]
      simp only [State.takeFree, h, hf, Bool.false_or, beq_iff_eq, Nat.zero_ne_one, if_false]

end Sys2Proof.Machine
end

section
/-!
PROOFS. What stays as it is: the relation of two states with the same memories, the parts of a state that an update of
another field leaves alone, and the meters.
-/

namespace Sys2Proof.Machine

/-! ### Memories that a step leaves alone -/

/-- From s to t no memory has changed, nor what the link ports hold of writes to one. -/
structure SameMem (s t : State) : Prop where
  hbm : t.hbm = s.hbm
  host : t.host = s.host
  peers : t.peers = s.peers
  scratch : ∀ c, (t.core c).scratch = (s.core c).scratch
  writes : ∀ k, (t.port k).writes = (s.port k).writes
  pcie : t.boot.pcie = s.boot.pcie

theorem SameMem.mem {s t : State} (h : SameMem s t) (a : Tgt) : t.mem a = s.mem a := by
  have hp : hostPort t = hostPort s := by simp only [hostPort, h.pcie]
  cases a with
  | hbm => exact h.hbm
  | host => simp only [State.mem, h.host, hp, h.writes]
  | peer p => simp only [State.mem, h.peers, h.writes]
  | scratch c => exact h.scratch c

theorem SameMem.refl (s : State) : SameMem s s := ⟨rfl, rfl, rfl, fun _ => rfl, fun _ => rfl, rfl⟩

theorem SameMem.trans {s t u : State} (h : SameMem s t) (k : SameMem t u) : SameMem s u :=
  ⟨k.hbm.trans h.hbm, k.host.trans h.host, k.peers.trans h.peers, fun c => (k.scratch c).trans (h.scratch c),
    fun p => (k.writes p).trans (h.writes p), k.pcie.trans h.pcie⟩

/-- A change that touches neither memories nor cores, ports or the boot. -/
theorem SameMem.of_eq {s t : State} (h1 : t.hbm = s.hbm) (h2 : t.host = s.host) (h3 : t.peers = s.peers)
    (h4 : t.cores = s.cores) (h5 : t.ports = s.ports) (h6 : t.boot = s.boot) : SameMem s t :=
  ⟨h1, h2, h3, fun c => by simp only [State.core, h4], fun k => by simp only [State.port, h5], by rw [h6]⟩

theorem SameMem.foldl {α : Type} (f : State → α → State) (hf : ∀ s a, SameMem s (f s a)) (l : List α) (s : State) :
    SameMem s (l.foldl f s) := by
  induction l generalizing s with
  | nil => exact .refl s
  | cons a l ih => exact (hf s a).trans (ih (f s a))

/-- A change of one core that keeps its scratchpad. -/
theorem SameMem.setCore (s : State) (c : Nat) (k : Core) (h : k.scratch = (s.core c).scratch) : SameMem s (s.setCore c k) := by
  refine ⟨rfl, rfl, rfl, fun d => ?_, fun _ => rfl, rfl⟩
  by_cases e : d = c
  · rw [e, core_setCore_same, h]
  · rw [core_setCore_other _ _ _ _ e]

theorem SameMem.post (s : State) (i : Instr) : SameMem s (s.post i) := .of_eq rfl rfl rfl rfl rfl rfl
theorem SameMem.postOnce (s : State) (i : Instr) : SameMem s (s.postOnce i) := by apply SameMem.of_eq <;> simp
theorem SameMem.updGroup (s : State) (g : Nat) (f : Group → Group) : SameMem s (s.updGroup g f) := by
  apply SameMem.of_eq <;> simp
theorem SameMem.updCourse (s : State) (g c : Nat) (f : Course → Course) : SameMem s (s.updCourse g c f) := .updGroup ..
theorem SameMem.updLane (s : State) (g c n : Nat) (f : Lane → Lane) : SameMem s (s.updLane g c n f) := .updCourse ..
theorem SameMem.updLaunch (s : State) (i : Nat) (f : Launch → Launch) : SameMem s (s.updLaunch i f) := by
  apply SameMem.of_eq <;> simp
theorem SameMem.updCtx (s : State) (i : Nat) (f : Ctx → Ctx) : SameMem s (s.updCtx i f) := by apply SameMem.of_eq <;> simp
theorem SameMem.updObj (s : State) (i : Nat) (f : Obj → Obj) : SameMem s (s.updObj i f) := by apply SameMem.of_eq <;> simp
theorem SameMem.updQueue (s : State) (i : Nat) (f : Queue → Queue) : SameMem s (s.updQueue i f) := by
  apply SameMem.of_eq <;> simp
theorem SameMem.updFn (s : State) (i : Nat) (f : Fn → Fn) : SameMem s (s.updFn i f) := by apply SameMem.of_eq <;> simp
theorem SameMem.updPart (s : State) (i : Nat) (f : Part → Part) : SameMem s (s.updPart i f) := by apply SameMem.of_eq <;> simp
theorem SameMem.charge (s : State) (o k n : Nat) : SameMem s (charge s o k n) := .of_eq rfl rfl rfl rfl rfl rfl

/-- A byte of a memory that has not changed. -/
theorem SameMem.byte {s t : State} (h : SameMem s t) (a : Tgt) (y : Nat) : (t.mem a).byte y = (s.mem a).byte y := by
  rw [h.mem]

/-! ### What an update of one field leaves of the others -/

@[simp] theorem core_postOnce (s : State) (i : Instr) (k : Nat) : (s.postOnce i).core k = s.core k := by simp [State.core]
@[simp] theorem group_postOnce (s : State) (i : Instr) (k : Nat) : (s.postOnce i).group k = s.group k := by simp [State.group]
@[simp] theorem part_postOnce (s : State) (i : Instr) (k : Nat) : (s.postOnce i).part k = s.part k := by simp [State.part]
@[simp] theorem fn_postOnce (s : State) (i : Instr) (k : Nat) : (s.postOnce i).fn k = s.fn k := by simp [State.fn]
@[simp] theorem port_postOnce (s : State) (i : Instr) (k : Nat) : (s.postOnce i).port k = s.port k := by simp [State.port]
@[simp] theorem launch_postOnce (s : State) (i : Instr) (k : Nat) : (s.postOnce i).launch k = s.launch k := by simp [State.launch]
@[simp] theorem core_postFirst (s : State) (i : Instr) (k : Nat) : (s.postFirst i).core k = s.core k := by simp [State.core]
@[simp] theorem group_postFirst (s : State) (i : Instr) (k : Nat) : (s.postFirst i).group k = s.group k := by simp [State.group]
@[simp] theorem part_postFirst (s : State) (i : Instr) (k : Nat) : (s.postFirst i).part k = s.part k := by simp [State.part]
@[simp] theorem fn_postFirst (s : State) (i : Instr) (k : Nat) : (s.postFirst i).fn k = s.fn k := by simp [State.fn]
@[simp] theorem port_postFirst (s : State) (i : Instr) (k : Nat) : (s.postFirst i).port k = s.port k := by simp [State.port]
@[simp] theorem launch_postFirst (s : State) (i : Instr) (k : Nat) : (s.postFirst i).launch k = s.launch k := by simp [State.launch]
@[simp] theorem core_updPart (s : State) (i : Nat) (f : Part → Part) (k : Nat) : (s.updPart i f).core k = s.core k := by simp [State.core]
@[simp] theorem group_updPart (s : State) (i : Nat) (f : Part → Part) (k : Nat) : (s.updPart i f).group k = s.group k := by simp [State.group]
@[simp] theorem fn_updPart (s : State) (i : Nat) (f : Part → Part) (k : Nat) : (s.updPart i f).fn k = s.fn k := by simp [State.fn]
@[simp] theorem port_updPart (s : State) (i : Nat) (f : Part → Part) (k : Nat) : (s.updPart i f).port k = s.port k := by simp [State.port]
@[simp] theorem launch_updPart (s : State) (i : Nat) (f : Part → Part) (k : Nat) : (s.updPart i f).launch k = s.launch k := by simp [State.launch]
@[simp] theorem core_updCtx (s : State) (i : Nat) (f : Ctx → Ctx) (k : Nat) : (s.updCtx i f).core k = s.core k := by simp [State.core]
@[simp] theorem group_updCtx (s : State) (i : Nat) (f : Ctx → Ctx) (k : Nat) : (s.updCtx i f).group k = s.group k := by simp [State.group]
@[simp] theorem part_updCtx (s : State) (i : Nat) (f : Ctx → Ctx) (k : Nat) : (s.updCtx i f).part k = s.part k := by simp [State.part]
@[simp] theorem fn_updCtx (s : State) (i : Nat) (f : Ctx → Ctx) (k : Nat) : (s.updCtx i f).fn k = s.fn k := by simp [State.fn]
@[simp] theorem port_updCtx (s : State) (i : Nat) (f : Ctx → Ctx) (k : Nat) : (s.updCtx i f).port k = s.port k := by simp [State.port]
@[simp] theorem launch_updCtx (s : State) (i : Nat) (f : Ctx → Ctx) (k : Nat) : (s.updCtx i f).launch k = s.launch k := by simp [State.launch]
@[simp] theorem core_updObj (s : State) (i : Nat) (f : Obj → Obj) (k : Nat) : (s.updObj i f).core k = s.core k := by simp [State.core]
@[simp] theorem group_updObj (s : State) (i : Nat) (f : Obj → Obj) (k : Nat) : (s.updObj i f).group k = s.group k := by simp [State.group]
@[simp] theorem part_updObj (s : State) (i : Nat) (f : Obj → Obj) (k : Nat) : (s.updObj i f).part k = s.part k := by simp [State.part]
@[simp] theorem fn_updObj (s : State) (i : Nat) (f : Obj → Obj) (k : Nat) : (s.updObj i f).fn k = s.fn k := by simp [State.fn]
@[simp] theorem port_updObj (s : State) (i : Nat) (f : Obj → Obj) (k : Nat) : (s.updObj i f).port k = s.port k := by simp [State.port]
@[simp] theorem launch_updObj (s : State) (i : Nat) (f : Obj → Obj) (k : Nat) : (s.updObj i f).launch k = s.launch k := by simp [State.launch]
@[simp] theorem core_updQueue (s : State) (i : Nat) (f : Queue → Queue) (k : Nat) : (s.updQueue i f).core k = s.core k := by simp [State.core]
@[simp] theorem group_updQueue (s : State) (i : Nat) (f : Queue → Queue) (k : Nat) : (s.updQueue i f).group k = s.group k := by simp [State.group]
@[simp] theorem part_updQueue (s : State) (i : Nat) (f : Queue → Queue) (k : Nat) : (s.updQueue i f).part k = s.part k := by simp [State.part]
@[simp] theorem fn_updQueue (s : State) (i : Nat) (f : Queue → Queue) (k : Nat) : (s.updQueue i f).fn k = s.fn k := by simp [State.fn]
@[simp] theorem port_updQueue (s : State) (i : Nat) (f : Queue → Queue) (k : Nat) : (s.updQueue i f).port k = s.port k := by simp [State.port]
@[simp] theorem launch_updQueue (s : State) (i : Nat) (f : Queue → Queue) (k : Nat) : (s.updQueue i f).launch k = s.launch k := by simp [State.launch]
@[simp] theorem core_updFn (s : State) (i : Nat) (f : Fn → Fn) (k : Nat) : (s.updFn i f).core k = s.core k := by simp [State.core]
@[simp] theorem group_updFn (s : State) (i : Nat) (f : Fn → Fn) (k : Nat) : (s.updFn i f).group k = s.group k := by simp [State.group]
@[simp] theorem part_updFn (s : State) (i : Nat) (f : Fn → Fn) (k : Nat) : (s.updFn i f).part k = s.part k := by simp [State.part]
@[simp] theorem port_updFn (s : State) (i : Nat) (f : Fn → Fn) (k : Nat) : (s.updFn i f).port k = s.port k := by simp [State.port]
@[simp] theorem launch_updFn (s : State) (i : Nat) (f : Fn → Fn) (k : Nat) : (s.updFn i f).launch k = s.launch k := by simp [State.launch]
@[simp] theorem core_updLaunch (s : State) (i : Nat) (f : Launch → Launch) (k : Nat) : (s.updLaunch i f).core k = s.core k := by simp [State.core]
@[simp] theorem group_updLaunch (s : State) (i : Nat) (f : Launch → Launch) (k : Nat) : (s.updLaunch i f).group k = s.group k := by simp [State.group]
@[simp] theorem part_updLaunch (s : State) (i : Nat) (f : Launch → Launch) (k : Nat) : (s.updLaunch i f).part k = s.part k := by simp [State.part]
@[simp] theorem fn_updLaunch (s : State) (i : Nat) (f : Launch → Launch) (k : Nat) : (s.updLaunch i f).fn k = s.fn k := by simp [State.fn]
@[simp] theorem port_updLaunch (s : State) (i : Nat) (f : Launch → Launch) (k : Nat) : (s.updLaunch i f).port k = s.port k := by simp [State.port]
@[simp] theorem part_updGroup (s : State) (g : Nat) (f : Group → Group) (k : Nat) : (s.updGroup g f).part k = s.part k := by simp [State.part]
@[simp] theorem fn_updGroup (s : State) (g : Nat) (f : Group → Group) (k : Nat) : (s.updGroup g f).fn k = s.fn k := by simp [State.fn]
@[simp] theorem port_updGroup (s : State) (g : Nat) (f : Group → Group) (k : Nat) : (s.updGroup g f).port k = s.port k := by simp [State.port]
@[simp] theorem launch_updGroup (s : State) (g : Nat) (f : Group → Group) (k : Nat) : (s.updGroup g f).launch k = s.launch k := by simp [State.launch]
@[simp] theorem part_updCourse (s : State) (g c : Nat) (f : Course → Course) (k : Nat) : (s.updCourse g c f).part k = s.part k := by simp [State.part]
@[simp] theorem fn_updCourse (s : State) (g c : Nat) (f : Course → Course) (k : Nat) : (s.updCourse g c f).fn k = s.fn k := by simp [State.fn]
@[simp] theorem port_updCourse (s : State) (g c : Nat) (f : Course → Course) (k : Nat) : (s.updCourse g c f).port k = s.port k := by simp [State.port]
@[simp] theorem launch_updCourse (s : State) (g c : Nat) (f : Course → Course) (k : Nat) : (s.updCourse g c f).launch k = s.launch k := by simp [State.launch]
@[simp] theorem part_updLane (s : State) (g c n : Nat) (f : Lane → Lane) (k : Nat) : (s.updLane g c n f).part k = s.part k := by simp [State.part]
@[simp] theorem fn_updLane (s : State) (g c n : Nat) (f : Lane → Lane) (k : Nat) : (s.updLane g c n f).fn k = s.fn k := by simp [State.fn]
@[simp] theorem port_updLane (s : State) (g c n : Nat) (f : Lane → Lane) (k : Nat) : (s.updLane g c n f).port k = s.port k := by simp [State.port]
@[simp] theorem launch_updLane (s : State) (g c n : Nat) (f : Lane → Lane) (k : Nat) : (s.updLane g c n f).launch k = s.launch k := by simp [State.launch]
@[simp] theorem part_setCore (s : State) (c : Nat) (x : Core) (k : Nat) : (s.setCore c x).part k = s.part k := by simp [State.part]
@[simp] theorem fn_setCore (s : State) (c : Nat) (x : Core) (k : Nat) : (s.setCore c x).fn k = s.fn k := by simp [State.fn]
@[simp] theorem port_setCore (s : State) (c : Nat) (x : Core) (k : Nat) : (s.setCore c x).port k = s.port k := by simp [State.port]
@[simp] theorem launch_setCore (s : State) (c : Nat) (x : Core) (k : Nat) : (s.setCore c x).launch k = s.launch k := by simp [State.launch]
@[simp] theorem part_post (s : State) (i : Instr) (k : Nat) : (s.post i).part k = s.part k := by simp [State.part]
@[simp] theorem fn_post (s : State) (i : Instr) (k : Nat) : (s.post i).fn k = s.fn k := by simp [State.fn]
@[simp] theorem port_post (s : State) (i : Instr) (k : Nat) : (s.post i).port k = s.port k := by simp [State.port]
@[simp] theorem launch_post (s : State) (i : Instr) (k : Nat) : (s.post i).launch k = s.launch k := by simp [State.launch]

/-! ### Functions and parts after an update -/

theorem fn_updFn_same (s : State) (i : Nat) (f : Fn → Fn) (h : i < 16) : (s.updFn i f).fn i = f (s.fn i) := by
  simp [State.updFn, State.fn, h]

theorem fn_updFn_other (s : State) (i j : Nat) (f : Fn → Fn) (h : j ≠ i) : (s.updFn i f).fn j = s.fn j := by
  unfold State.updFn State.fn
  by_cases hi : i < 16
  · by_cases hj : j < 16
    · simp [hi, hj, Vector.getElem_set_ne, Ne.symm h]
    · simp [hj]
  · simp [hi]

theorem part_updPart_same (s : State) (i : Nat) (f : Part → Part) (h : i < 16) : (s.updPart i f).part i = f (s.part i) := by
  simp [State.updPart, State.part, h]

theorem part_updPart_other (s : State) (i j : Nat) (f : Part → Part) (h : j ≠ i) : (s.updPart i f).part j = s.part j := by
  unfold State.updPart State.part
  by_cases hi : i < 16
  · by_cases hj : j < 16
    · simp [hi, hj, Vector.getElem_set_ne, Ne.symm h]
    · simp [hj]
  · simp [hi]

/-- What an update of a function does not change of it. -/
theorem fn_updFn_keep {α : Type} (s : State) (i j : Nat) (f : Fn → Fn) (q : Fn → α) (hq : ∀ x, q (f x) = q x) :
    q ((s.updFn i f).fn j) = q (s.fn j) := by
  by_cases e : j = i
  · subst e
    by_cases h : j < 16
    · rw [fn_updFn_same s j f h, hq]
    · simp [State.fn, h]
  · rw [fn_updFn_other s i j f e]

/-! ### Meters -/

theorem charge_rest (s : State) (o k n : Nat) : { charge s o k n with meters := s.meters } = s := rfl

theorem foldl_charge_rest (s : State) (n : Nat) (l : List Nat) :
    { l.foldl (fun s o => charge s o 0 n) s with meters := s.meters } = s := by
  induction l generalizing s with
  | nil => rfl
  | cons o l ih =>
    have h := ih (charge s o 0 n)
    exact (congrArg (fun t => { t with meters := s.meters }) h :)

/-- A charge of a core's cycles changes meters and the core's own account of them. -/
theorem chargeCore_eq (s : State) (c : Nat) :
    ∃ m, chargeCore s c = ({ s with meters := m } : State).setCore c { s.core c with charged := s.time } := by
  unfold chargeCore
  simp only
  generalize ht : (residentOwners s c).foldl _ s = t
  have h : { t with meters := s.meters } = s := ht ▸ foldl_charge_rest s _ _
  have e : t = { s with meters := t.meters } := by rw [← h]
  rw [e]
  exact ⟨t.meters, rfl⟩

theorem SameMem.chargeCore (s : State) (c : Nat) : SameMem s (chargeCore s c) := by
  obtain ⟨m, e⟩ := chargeCore_eq s c
  rw [e]
  refine SameMem.trans (t := { s with meters := m }) (.of_eq rfl rfl rfl rfl rfl rfl) ?_
  exact .setCore _ _ _ rfl

@[simp] theorem group_chargeCore (s : State) (c g : Nat) : (chargeCore s c).group g = s.group g := by
  obtain ⟨m, e⟩ := chargeCore_eq s c
  rw [e]
  rfl

end Sys2Proof.Machine
end

section
/-!
PROOFS. The launcher's steps, groups that are placed and that retire, and the format manager (O34, O36, O37).
-/

namespace Sys2Proof.Machine

/-! ### The launcher -/

/-- What a publication of an ordinary group makes of one record. -/
theorem publish_ordinary (now : Nat) (p : Publication) (l : Launch) (alive : Bool) (j : Nat) (r : Record)
    (h : l.records[j]? = some r) :
    (publish now .ordinary alive p l).records[j]? = some
      (if r.state = .written ∧ (r.block, r.slot) ∈ p.records then { r with state := .pending, age := now, grp := none }
       else r) := by
  simp only [publish, mapRecords, List.getElem?_map, h, Option.map_some]
  congr 1
  simp only [Bool.and_eq_true, beq_iff_eq, List.contains_eq_mem, decide_eq_true_eq]

/-- A GATHER node has one bin, of all its pending records. -/
theorem binsOf_gather (nd : Node) (ps : List Record) (h : nd.kind = .gather) : binsOf nd ps = [ps] := by
  simp [binsOf, h]

/-- Settles O34: each step is its one branch that the hypotheses leave. -/
theorem launcherSteps : Obligations.LauncherSteps := by
  unfold Obligations.LauncherSteps
  refine ⟨⟨fun s i l p rest hl hp => ?_, fun s i t key l o nd r rest hl ho hn hk ht hr ha => ?_, fun s i => rfl⟩,
    fun now p l alive j r h => publish_ordinary now p l alive j r h⟩
  · intro u
    rw [exec_recordPublished]
    simp only [execRecordPublished, hl, hp]
    rfl
  · rw [exec_coalescingTimerExpire]
    simp only [execCoalescingTimerExpire, hl, ho, Option.bind_some, hn, binsOf_gather nd _ hk, hr, hk]
    simp [ht, ha]

/-! ### Groups that are placed and groups that retire -/

@[simp] theorem core_chargeCore (s : State) (c : Nat) : (chargeCore s c).core c = { s.core c with charged := s.time } := by
  obtain ⟨m, e⟩ := chargeCore_eq s c
  rw [e, core_setCore_same]

/-- A group that leaves its core has none, and no other group changes. -/
theorem group_leaveCore (s : State) (g core : Nat) (grp : Group) (hc : grp.core = some core) (j : Nat) :
    (leaveCore s g grp).group j
      = if j = g then (s.group g).map (fun x => { x with core := none, regq := x.regq.map (fun _ => []) }) else s.group j := by
  cases hh : (s.core core).handler with
  | none => simp [leaveCore, hc, hh, group_updGroup]
  | some p => by_cases e : p.1 = g <;> simp [leaveCore, hc, hh, e, group_updGroup]

theorem rehead_grp (now : Nat) (old new : List MatEntry) (e : MatEntry) (h : e ∈ rehead now old new) :
    ∃ d ∈ new, e.grp = d.grp := by
  unfold rehead at h
  split at h
  next o t a l =>
    split at h
    · exact ⟨e, h, rfl⟩
    · obtain rfl | h := List.mem_cons.1 h
      · exact ⟨a, List.mem_cons_self, rfl⟩
      · exact ⟨e, List.mem_cons_of_mem _ h, rfl⟩
  next => exact ⟨e, h, rfl⟩

/-- What a core keeps when a group leaves it. -/
theorem core_leaveCore_fields (s : State) (g core : Nat) (grp : Group) (hc : grp.core = some core) :
    ((leaveCore s g grp).core core).matQ
        = rehead (chargeCore s core).time (s.core core).matQ ((s.core core).matQ.filter (fun e => e.grp != g))
      ∧ ((leaveCore s g grp).core core).handlerQ = (s.core core).handlerQ.filter (fun e => e.1 != g)
      ∧ ((leaveCore s g grp).core core).handler
        = (s.core core).handler.filter (fun p => p.1 != g) := by
  cases hh : (s.core core).handler with
  | none => simp [leaveCore, hc, hh]
  | some p => by_cases e : p.1 = g <;> simp [leaveCore, hc, hh, e, Option.filter]

/-- The core that a group leaves has none of its matrix entries and no claim of it to the handler. -/
theorem core_leaveCore (s : State) (g core : Nat) (grp : Group) (hc : grp.core = some core) :
    (∀ e ∈ ((leaveCore s g grp).core core).matQ, e.grp ≠ g) ∧ (∀ e ∈ ((leaveCore s g grp).core core).handlerQ, e.1 ≠ g)
      ∧ ∀ c, ((leaveCore s g grp).core core).handler ≠ some (g, c) := by
  obtain ⟨hm, hq, hh⟩ := core_leaveCore_fields s g core grp hc
  rw [hm, hq, hh]
  refine ⟨fun e he => ?_, fun e he => ?_, fun c h => ?_⟩
  · obtain ⟨d, hd, hg⟩ := rehead_grp _ _ _ _ he
    rw [hg]
    simpa using (List.mem_filter.1 hd).2
  · simpa using (List.mem_filter.1 he).2
  · simpa using (Option.filter_eq_some_iff.1 h).2

@[simp] theorem group_dropToken (s : State) (p g : Nat) (who : Nat × Nat × Nat → Bool) :
    (dropToken s p who).group g = s.group g := group_updPart ..

@[simp] theorem core_dropToken (s : State) (p c : Nat) (who : Nat × Nat × Nat → Bool) :
    (dropToken s p who).core c = s.core c := core_updPart ..

@[simp] theorem group_releaseReserved (s : State) (x : Group) (g : Nat) : (releaseReserved s x).group g = s.group g := by
  unfold releaseReserved
  split
  · rfl
  · exact group_updCtx ..

@[simp] theorem core_releaseReserved (s : State) (x : Group) (c : Nat) : (releaseReserved s x).core c = s.core c := by
  unfold releaseReserved
  split
  · rfl
  · exact core_updCtx ..

@[simp] theorem group_noteSave (s : State) (h : Nat) (x : Group) (g : Nat) : (noteSave s h x).group g = s.group g := by
  unfold noteSave
  split
  · split <;> rfl
  · rfl

@[simp] theorem core_noteSave (s : State) (h : Nat) (x : Group) (c : Nat) : (noteSave s h x).core c = s.core c := by
  unfold noteSave
  split
  · split <;> rfl
  · rfl

theorem group_placeOn (s : State) (pl : Place) (grp : Group) (hg : s.group pl.grp = some grp) (g : Nat) :
    (placeOn s pl).group g = if g = pl.grp then some { grp with
      core := some pl.core, state := .placing, allocBase := pl.base, copied := 0
      mode := if grp.placed then grp.mode else if (s.core pl.core).lentTo.isSome && grp.mode == .ordinary then .revocable
        else grp.mode } else s.group g := by
  simp only [placeOn, hg]
  rw [group_updGroup]
  split <;> split <;> simp [hg]

theorem SameMem.placeOn (s : State) (pl : Place) : SameMem s (placeOn s pl) := by
  unfold Machine.placeOn
  split
  · exact .refl s
  · refine SameMem.trans ?_ (.updGroup ..)
    split
    · exact .setCore _ _ _ rfl
    · exact .refl s

/-- Settles O36: by what each operation on groups and cores does to the one group and the one core it names. -/
theorem placementAndRetirement : Obligations.PlacementAndRetirement := by
  unfold Obligations.PlacementAndRetirement
  refine ⟨fun s pl grp hg => ?_, fun s g core grp hg hc => ?_⟩
  · refine ⟨_, (group_placeOn s pl grp hg pl.grp).trans (if_pos rfl), rfl, rfl, rfl, rfl, rfl, ?_, fun g hn => ?_,
      (SameMem.placeOn s pl).byte⟩
    · cases hp : grp.placed <;> simp
    · rw [group_placeOn s pl grp hg, if_neg hn]
  · obtain ⟨hq, hh, hr⟩ := core_leaveCore (dropToken s (s.groupPart grp) (fun e => e.1 == g)) g core grp hc
    simp only [finishGroup, group_noteSave, core_noteSave, group_updGroup, core_updGroup, group_releaseReserved,
      core_releaseReserved, group_leaveCore _ _ _ _ hc, group_dropToken, if_true, hg, Option.map_some]
    exact ⟨⟨_, rfl, rfl, rfl, rfl⟩, hq, hh, hr, fun j hj => by simp only [if_neg hj]⟩

/-! ### The format manager -/

/-- A slot packet that finds no other before it begins at once. -/
theorem acceptJob_idle (s : State) (hdr : PktHdr) (slot image : Nat) (release : Bool) (q : Queue)
    (hq : alGet s.queues hdr.queue = some q) (h : (s.part q.part).slotJobs = []) :
    acceptJob s hdr slot image release = nextJobs (s.updPart q.part (fun p =>
      { p with slotJobs := p.slotJobs ++ [⟨slot, release, image, hdr.queue, hdr.index, hdr, []⟩] })) q.part := by
  simp only [acceptJob, hq, h, List.isEmpty_nil, if_true]

/-- Settles O37: each step passes its tests, and what it does then is its last branch. -/
theorem formatSlotSteps : Obligations.FormatSlotSteps := by
  unfold Obligations.FormatSlotSteps
  refine ⟨fun s hdr slot image q hq hj _ => ?_, fun s p slot j rest hj hs hr hg hl => ?_,
    fun s p slot j rest hj hs hr hg hb => ?_, fun s p slot j rest hj hs hr hg => ?_,
    fun s p slot core j rest hj hs ha => ?_, fun s p slot j rest hj hs hr ha hd hb => ?_⟩
  · exact ⟨congrArg Host.Outcome.next (acceptJob_idle s hdr _ _ _ q hq hj), congrArg Host.Outcome.next (acceptJob_idle s hdr _ _ _ q hq hj)⟩
  · rw [exec_fmtVerifyComplete]
    simp only [execFmtVerifyComplete, hj, hs, hr, hg, hl, reduceCtorEq, ne_eq, not_true_eq_false, Bool.false_eq_true,
      or_self, if_false, if_true]
    obtain ⟨(_ | _) | _ | _, _⟩ := checkImage s (queueCtx s j.queue) j.image (s.part p) <;> rfl
  · rw [exec_fmtVerifyComplete]
    simp only [execFmtVerifyComplete, hj, hs, hr, hg, hb, ne_eq, not_true_eq_false, Bool.false_eq_true,
      or_self, if_false, if_true]
    obtain ⟨_ | _ | _, _⟩ := sameImage s (queueCtx s j.queue) j.image <;> rfl
  · rw [exec_fmtVerifyComplete]
    simp only [execFmtVerifyComplete, hj, hs, hr, hg, ne_eq, not_true_eq_false, Bool.false_eq_true, or_self, if_false,
      if_true]
  · rw [exec_fmtSlotEnable, exec_fmtSlotDisable]
    constructor <;> intro hr <;>
      simp only [execFmtSlotEnable, execFmtSlotDisable, hj, hs, hr, ha, Bool.not_false, and_self, if_true]
  · rw [exec_fmtDrainComplete]
    simp [execFmtDrainComplete, hj, hs, hr, hd, ha, hb]

end Sys2Proof.Machine
end

section
/-!
PROOFS. The context commands and their refusals (O40, O41).
-/

namespace Sys2Proof.Machine

/-! ### A command on a context -/

theorem fn_lt_of_active {s : State} {fn : Nat} (h : fnActive s fn = true) : fn < 16 := by
  by_contra hn
  simp [fnActive, State.fn, hn, Fn.reset] at h

theorem fnActive_beginCtx (s : State) (fn : Nat) (id : BitVec 16) (op : BitVec 8) :
    fnActive (beginCtx s fn id op) fn = fnActive s fn := by
  have h : ((beginCtx s fn id op).fn fn).part = (s.fn fn).part := fn_updFn_keep s fn fn _ Fn.part (fun _ => rfl)
  simp only [fnActive, h]
  simp [beginCtx]

theorem findCtx_congr {s t : State} (h : t.ctxs = s.ctxs) (fn id : Nat) : findCtx t fn id = findCtx s fn id := by
  simp only [findCtx, h]

/-- A command on a context that allows it has its effect (R399). -/
theorem ctxCommand_allowed {s : State} {fn i : Nat} {id : BitVec 16} {op : BitVec 8} {legal : List CtxState} {c : Ctx}
    (hr : CtxReady s fn) (hf : findCtx s fn id.toNat = some (i, c)) (hl : legal.contains c.state = true)
    (effect : State → Nat → Ctx → State) :
    ctxCommand s fn id op legal effect = .next (effect (beginCtx s fn id op) i c) := by
  have hc : findCtx (beginCtx s fn id op) fn id.toNat = some (i, c) := (findCtx_congr (by simp [beginCtx]) ..).trans hf
  simp only [ctxCommand, hr.idle, hr.takes, fnActive_beginCtx, hr.active, hc, hl, Bool.not_true, Bool.or_self,
    Bool.false_eq_true, if_false, if_true]

/-- One on a CTXID that names no context (R399). -/
theorem ctxCommand_none {s : State} {fn : Nat} {id : BitVec 16} {op : BitVec 8} {legal : List CtxState}
    (hr : CtxReady s fn) (hf : findCtx s fn id.toNat = none) (effect : State → Nat → Ctx → State) :
    ctxCommand s fn id op legal effect = .next (endCtx (beginCtx s fn id op) fn 2) := by
  have hc : findCtx (beginCtx s fn id op) fn id.toNat = none := (findCtx_congr (by simp [beginCtx]) ..).trans hf
  simp only [ctxCommand, hr.idle, hr.takes, fnActive_beginCtx, hr.active, hc, Bool.not_true, Bool.or_self,
    Bool.false_eq_true, if_false]

/-- One on a context whose state does not allow it (R399, R402). -/
theorem ctxCommand_refused {s : State} {fn i : Nat} {id : BitVec 16} {op : BitVec 8} {legal : List CtxState} {c : Ctx}
    (hr : CtxReady s fn) (hf : findCtx s fn id.toNat = some (i, c)) (hl : legal.contains c.state = false)
    (effect : State → Nat → Ctx → State) :
    ctxCommand s fn id op legal effect = .next (if c.saveFault then
      endCtx ((beginCtx s fn id op).updCtx i (fun c => { c with saveFault := false })) fn 4
      else endCtx (beginCtx s fn id op) fn 3) := by
  have hc : findCtx (beginCtx s fn id op) fn id.toNat = some (i, c) := (findCtx_congr (by simp [beginCtx]) ..).trans hf
  simp only [ctxCommand, hr.idle, hr.takes, fnActive_beginCtx, hr.active, hc, hl, Bool.not_true, Bool.or_self,
    Bool.false_eq_true, if_false]
  split <;> rfl

theorem ctxCommand_busy {s : State} {fn : Nat} (h : (s.fn fn).ctxStat.busy = true) (id : BitVec 16) (op : BitVec 8)
    (legal : List CtxState) (effect : State → Nat → Ctx → State) : ctxCommand s fn id op legal effect = .next s := by
  simp only [ctxCommand, h, Bool.true_or, if_true]

/-- CTX_STATUS once a command has ended. -/
theorem ctxStat_endCtx (s t : State) (fn : Nat) (id : BitVec 16) (op st : BitVec 8) (h : fn < 16)
    (ht : (t.fn fn).ctxStat = ((beginCtx s fn id op).fn fn).ctxStat) :
    ((endCtx t fn st).fn fn).ctxStat = ⟨id, 0, false, st, op⟩ := by
  rw [endCtx, fn_updFn_same _ _ _ h, ht, beginCtx, fn_updFn_same _ _ _ h]

/-- The six commands on an existing context, each with its OP and the states that allow it (R399). -/
def ctxCommands (fn : Nat) (id : BitVec 16) : List (Instr × BitVec 8 × List CtxState) :=
  [(.ctxDestroy fn id, 2, [.created, .active, .saving, .saved, .restoring, .faulted]),
   (.loadObject fn id, 3, [.created, .active]), (.unloadObject fn id, 4, [.created, .active, .saved]),
   (.save fn id, 5, [.active]), (.restore fn id, 6, [.active, .saved]), (.checkpoint fn id, 7, [.active])]

theorem exec_ctxCommands (fn : Nat) (id : BitVec 16) (e : Instr × BitVec 8 × List CtxState) (h : e ∈ ctxCommands fn id) :
    ∃ effect, ∀ s, exec e.1 s = ctxCommand s fn id e.2.1 e.2.2 effect := by
  simp only [ctxCommands, List.mem_cons, List.not_mem_nil, or_false] at h
  rcases h with rfl | rfl | rfl | rfl | rfl | rfl
  · exact ⟨_, fun s => by rw [exec_ctxDestroy, execCtxDestroy]⟩
  · exact ⟨_, fun s => by rw [exec_loadObject, execLoadObject]⟩
  · exact ⟨_, fun s => by rw [exec_unloadObject, execUnloadObject]⟩
  · exact ⟨_, fun s => by rw [exec_save, execSave]⟩
  · exact ⟨_, fun s => by rw [exec_restore, execRestore]⟩
  · exact ⟨_, fun s => by rw [exec_checkpoint, execCheckpoint]⟩

/-! ### Stage 2 reads device HBM alone -/

theorem walk2_congr {s t : State} (h : t.hbm = s.hbm) (p : Part) (x : Nat) (ls : List Nat) (r : Nat) :
    walk2 t p x ls r = walk2 s p x ls r := by
  induction ls generalizing r with
  | nil => rfl
  | cons lv ls ih => simp only [walk2, h, ih]

theorem translate2_congr {s t : State} (h : t.hbm = s.hbm) (p : Part) (x : Nat) : translate2 t p x = translate2 s p x := by
  simp only [translate2, walk2_congr h]

theorem saveAreaOk_congr {s t : State} (h : t.hbm = s.hbm) (p : Part) (a n : Nat) : saveAreaOk t p a n = saveAreaOk s p a n := by
  simp only [saveAreaOk, savePlaces, translate2_congr h]

/-- A CREATE of a function that takes it (R397): the chain of its checks. -/
theorem execCtxCreate_ready {s : State} {fn : Nat} {id : BitVec 16} (hr : CtxReady s fn) :
    let d := s.host.read (s.fn fn).ctxArg.toNat 128
    let u := beginCtx s fn id 1
    execCtxCreate fn id s
      = if (s.fn fn).ctxArg.toNat % 128 ≠ 0 ∨ fieldAt d 0 2 ≠ id.toNat then .next (endCtx u fn 1)
        else if ((findCtx s fn id.toNat).map (·.2.state != .destroyed)).getD false then .next (endCtx u fn 5)
        else if !ctxDescOk d || !saveAreaOk s (s.part ((s.fn fn).part.getD 16)) (fieldAt d 0x18 8) (fieldAt d 0x20 8) then
          .next (endCtx u fn 1)
        else .next (endCtx { u with ctxs := alSet u.ctxs u.nextReq (ctxOf fn d), nextReq := u.nextReq + 1 } fn 0) := by
  intro d u
  simp only [execCtxCreate, hr.idle, hr.takes, fnActive_beginCtx, hr.active, Bool.not_true, Bool.or_self,
    Bool.false_eq_true, if_false]
  have h1 : (beginCtx s fn id 1).host = s.host := by simp [beginCtx]
  have h2 : (beginCtx s fn id 1).hbm = s.hbm := by simp [beginCtx]
  have h3 : ∀ p, (beginCtx s fn id 1).part p = s.part p := fun p => part_updFn ..
  have h4 : findCtx (beginCtx s fn id 1) fn id.toNat = findCtx s fn id.toNat := findCtx_congr (by simp [beginCtx]) ..
  rw [h1, h4, h3, saveAreaOk_congr h2]

/-- A context that is not DESTROYED is the one a CTXID names. -/
theorem findCtx_used (o : Option (Nat × Ctx)) :
    (o.map (·.2.state != .destroyed)).getD false = true ↔ ∃ i c, o = some (i, c) ∧ c.state ≠ .destroyed := by
  cases o with
  | none => simp
  | some e => simp [Prod.ext_iff]

/-- Settles O41: by the branches of a command on a context and of CREATE's checks. -/
theorem contextCommandRefusals : Obligations.ContextCommandRefusals := by
  unfold Obligations.ContextCommandRefusals
  intro s fn id
  refine ⟨fun hb => ⟨fun e he => ?_, ?_⟩, fun hr e he => ⟨fun hf => ?_, fun i c hf hn => ?_⟩,
    fun hr i c hf hs ho => ?_, fun hr => ?_⟩
  · obtain ⟨effect, h⟩ := exec_ctxCommands fn id e he
    rw [h, ctxCommand_busy hb]
  · rw [exec_ctxCreate]
    simp only [execCtxCreate, hb, Bool.true_or, if_true]
  · obtain ⟨effect, h⟩ := exec_ctxCommands fn id e he
    refine ⟨_, (h s).trans (ctxCommand_none hr hf effect), ctxStat_endCtx s _ fn id _ _ (fn_lt_of_active hr.active) rfl, ?_, ?_⟩
      <;> simp [endCtx, beginCtx]
  · obtain ⟨effect, h⟩ := exec_ctxCommands fn id e he
    have hl : e.2.2.contains c.state = false := by simpa using hn
    refine ⟨_, (h s).trans (ctxCommand_refused hr hf hl effect), ?_, ?_, fun hc => ?_⟩
    · cases c.saveFault with
      | false => exact ctxStat_endCtx s _ fn id _ _ (fn_lt_of_active hr.active) rfl
      | true => exact ctxStat_endCtx s _ fn id _ _ (fn_lt_of_active hr.active) (by simp)
    · split <;> simp [endCtx, beginCtx]
    · simp [hc, endCtx, beginCtx]
  · have hl : [CtxState.created, .active, .saved].contains c.state = true := by simpa using hs
    have ha : ((beginCtx s fn id 4).fn fn).ctxArg = (s.fn fn).ctxArg := fn_updFn_keep s fn fn _ Fn.ctxArg (fun _ => rfl)
    have hn : findObj (beginCtx s fn id 4) i ((beginCtx s fn id 4).fn fn).ctxArg.toNat = none := by
      rw [ha]
      simpa [findObj, beginCtx] using ho
    have he : exec (.unloadObject fn id) s = .next (endCtx (beginCtx s fn id 4) fn 7) := by
      rw [exec_unloadObject, execUnloadObject, ctxCommand_allowed hr hf hl, hn]
    refine ⟨_, he, ctxStat_endCtx s _ fn id _ _ (fn_lt_of_active hr.active) rfl, ?_, ?_, ?_⟩ <;> simp [endCtx, beginCtx]
  · intro d head used ends
    have hends (st : BitVec 8) (h : exec (.ctxCreate fn id) s = .next (endCtx (beginCtx s fn id 1) fn st)) : ends st :=
      ⟨_, h, ctxStat_endCtx s _ fn id _ _ (fn_lt_of_active hr.active) rfl, by simp [endCtx, beginCtx],
        by simp [endCtx, beginCtx]⟩
    have hc := (exec_ctxCreate fn id s).trans (execCtxCreate_ready (id := id) hr)
    refine ⟨fun hh => hends 1 ?_, fun hh hu => hends 5 ?_, fun hh hu hd => hends 1 ?_⟩
    · rw [hc, if_pos (by simpa only [head, not_and_or] using hh)]
    · rw [hc, if_neg (by simpa only [head, not_or, not_not] using hh), if_pos ((findCtx_used _).2 hu)]
    · rw [hc, if_neg (by simpa only [head, not_or, not_not] using hh), if_neg (fun h => hu ((findCtx_used _).1 h)),
        if_pos (by simpa only [Bool.or_eq_true, Bool.not_eq_true'] using hd)]


theorem fn_beginCtx (s : State) (fn : Nat) (id : BitVec 16) (op : BitVec 8) (h : fn < 16) :
    (beginCtx s fn id op).fn fn = { s.fn fn with ctxStat := ⟨id, 0, true, 0, op⟩ } := fn_updFn_same _ _ _ h

/-- The object that LOAD_OBJECT registers (R399). -/
def loadingObj (s : State) (fn i : Nat) : Obj :=
  { fn := fn, ctx := i, handle := (s.fn fn).handles % 65536, state := .loading, image := (s.fn fn).ctxArg.toNat, textVa := 0,
    textOff := 0, ranges := [], pages := [], askers := [], digests := [], emulation := false, emul := [], features := 0,
    bound := [], kernels := [], nodes := [], report := [], dataDigest := 0, manifestDigest := 0, revocations := 0 }

/-- The state that LOAD_OBJECT leaves. -/
def loadObjectDone (s : State) (fn i : Nat) (id : BitVec 16) : State :=
  let u := beginCtx s fn id 3
  (({ u with objects := alSet u.objects s.nextReq (loadingObj s fn i), nextReq := s.nextReq + 1 }).updFn fn (fun f => { f with
    handles := f.handles + 1
    ctxStat := { f.ctxStat with handle := BitVec.ofNat 16 (loadingObj s fn i).handle } })).post (.objectLoadComplete s.nextReq)

theorem execLoadObject_ready {s : State} {fn i : Nat} {id : BitVec 16} {c : Ctx} (hr : CtxReady s fn)
    (hf : findCtx s fn id.toNat = some (i, c)) (hs : c.state = .created ∨ c.state = .active) :
    execLoadObject fn id s = .next (loadObjectDone s fn i id) := by
  have hl : [CtxState.created, .active].contains c.state = true := by simpa using hs
  have hn : (beginCtx s fn id 3).nextReq = s.nextReq := updFn_nextReq ..
  have ho : loadingObj (beginCtx s fn id 3) fn i = loadingObj s fn i := by
    simp only [loadingObj, fn_beginCtx _ _ _ _ (fn_lt_of_active hr.active)]
  rw [execLoadObject, ctxCommand_allowed hr hf hl, loadObjectDone, ← ho, ← hn]
  rfl

/-- The state that a CREATE of a sound descriptor leaves (R397). -/
def ctxCreated (s : State) (fn : Nat) (id : BitVec 16) (d : Nat) : State :=
  let u := beginCtx s fn id 1
  endCtx { u with ctxs := alSet u.ctxs u.nextReq (ctxOf fn d), nextReq := u.nextReq + 1 } fn 0

/-- Settles O40: each command is its effect on the state that shows it in progress. -/
theorem contextCommands : Obligations.ContextCommands := by
  unfold Obligations.ContextCommands
  refine ⟨fun s fn i id c hr hf => ⟨fun hs => ?_, fun hs => ?_, fun h o hs ho hd => ?_, fun hs => ⟨?_, ?_⟩, fun hs => ?_⟩,
    fun s fn id hr => ?_⟩
  · have hl : [CtxState.created, .active, .saving, .saved, .restoring, .faulted].contains c.state = true := by
      cases h : c.state <;> simp_all
    rw [exec_ctxDestroy, execCtxDestroy, ctxCommand_allowed hr hf hl]
  · have hl : [CtxState.created, .active].contains c.state = true := by simpa using hs
    have hi := fn_lt_of_active hr.active
    rw [exec_loadObject, execLoadObject_ready hr hf hs]
    refine ⟨_, loadingObj s fn i, rfl, ?_, rfl, rfl, rfl, rfl, rfl, ?_, ?_, fun a => ?_⟩
    · simp [loadObjectDone]
    · simp only [loadObjectDone, fn_post, fn_updFn_same _ _ _ hi]
      exact congrArg (fun x : Fn => (⟨x.ctxStat.id, BitVec.ofNat 16 (loadingObj s fn i).handle, x.ctxStat.busy,
        x.ctxStat.status, x.ctxStat.op⟩ : CmdStat)) (fn_beginCtx s fn id 3 hi)
    · simp [loadObjectDone, beginCtx]
    · exact SameMem.mem (.of_eq (by simp [loadObjectDone, beginCtx]) (by simp [loadObjectDone, beginCtx])
        (by simp [loadObjectDone, beginCtx]) (by simp [loadObjectDone, beginCtx]) (by simp [loadObjectDone, beginCtx])
        (by simp [loadObjectDone, beginCtx])) a
  · have hl : [CtxState.created, .active, .saved].contains c.state = true := by simpa using hs
    have ha : ((beginCtx s fn id 4).fn fn).ctxArg = (s.fn fn).ctxArg := by rw [fn_beginCtx _ _ _ _ (fn_lt_of_active hr.active)]
    have hn : findObj (beginCtx s fn id 4) i ((beginCtx s fn id 4).fn fn).ctxArg.toNat = some (h, o) := by
      rw [ha]
      simpa [findObj, beginCtx] using ho
    rw [exec_unloadObject, execUnloadObject, ctxCommand_allowed hr hf hl, hn]
    simp only [if_neg hd]
  · rw [exec_save, execSave, ctxCommand_allowed hr hf (by rw [hs]; rfl)]
  · rw [exec_checkpoint, execCheckpoint, ctxCommand_allowed hr hf (by rw [hs]; rfl)]
  · have hl : [CtxState.active, .saved].contains c.state = true := by
      rcases hs with h | h <;> rw [h] <;> rfl
    rw [exec_restore, execRestore, ctxCommand_allowed hr hf hl]
  · intro d ha hi hn hd hs
    have hlt := fn_lt_of_active hr.active
    have he : exec (.ctxCreate fn id) s = .next (ctxCreated s fn id d) := by
      refine (exec_ctxCreate fn id s).trans ((execCtxCreate_ready (id := id) hr).trans ?_)
      rw [if_neg (by simp [ha, d, hi]), hn]
      simp only [Option.map_none, Option.getD_none, Bool.false_eq_true, if_false]
      rw [if_neg (by simp only [d] at hd hs; simp [hd, hs])]
      rfl
    refine ⟨_, he, ?_, ctxStat_endCtx s _ fn id _ _ hlt rfl, fun a => SameMem.mem ?_ a, ?_⟩
    · simp [ctxCreated, endCtx, beginCtx]
    · apply SameMem.of_eq <;> simp [ctxCreated, endCtx, beginCtx]
    · simp [ctxCreated, endCtx, beginCtx]

end Sys2Proof.Machine
end

section
/-!
PROOFS. The queue commands and the start of a packet (O43, O44).
-/

namespace Sys2Proof.Machine

/-! ### Queue commands -/

theorem fnActive_beginQ (s : State) (fn : Nat) (id : BitVec 16) (op : BitVec 8) :
    fnActive (beginQ s fn id op) fn = fnActive s fn := by
  have h : ((beginQ s fn id op).fn fn).part = (s.fn fn).part := fn_updFn_keep s fn fn _ Fn.part (fun _ => rfl)
  simp only [fnActive, h]
  simp [beginQ]

theorem findQueue_congr {s t : State} (h : t.queues = s.queues) (fn id : Nat) : findQueue t fn id = findQueue s fn id := by
  simp only [findQueue, h]

/-- A command on a queue that allows it has its effect (R413). -/
theorem queueCommand_allowed {s : State} {fn h : Nat} {id : BitVec 16} {op : BitVec 8} {legal : QState → Bool} {q : Queue}
    (hr : QueueReady s fn) (hf : findQueue s fn id.toNat = some (h, q)) (hl : legal q.state = true)
    (effect : State → Nat → Queue → State) :
    queueCommand s fn id op legal effect = .next (endQ (effect (beginQ s fn id op) h q) fn 0) := by
  have hc : findQueue (beginQ s fn id op) fn id.toNat = some (h, q) := (findQueue_congr (by simp [beginQ]) ..).trans hf
  simp only [queueCommand, hr.idle, hr.takes, fnActive_beginQ, hr.active, hc, hl, Bool.not_true, Bool.or_self,
    Bool.false_eq_true, if_false, if_true]

/-- Settles O43: each command and each write is the branch that the hypotheses leave. -/
theorem queueCommands : Obligations.QueueCommands := by
  unfold Obligations.QueueCommands
  refine ⟨⟨fun s fn id hr ha => ?_, fun s fn h id q hr hf => ⟨fun hs => ?_, fun hs => ?_⟩⟩,
    fun s fn h id w q tb hq hfn hd hm => ⟨fun hw => ?_, fun hw he => ?_⟩, fun s p => rfl⟩
  · intro d hi hn hd u
    have h1 : u.host = s.host := updFn_host ..
    have h2 : u.queueOf id.toNat = none := by
      simp only [State.queueOf, u, beginQ, updFn_queues] at hn ⊢
      exact hn
    rw [exec_qCreate]
    simp only [execQCreate, hr.idle, hr.takes, fnActive_beginQ, hr.active, Bool.not_true, Bool.or_self,
      Bool.false_eq_true, if_false]
    change (if (s.fn fn).qArg.toNat % 64 ≠ 0 ∨ fieldAt (u.host.read (s.fn fn).qArg.toNat 64) 0 2 ≠ id.toNat then _
      else if (u.queueOf id.toNat).isSome = true then _
      else if (!queueDescOk u fn (u.host.read (s.fn fn).qArg.toNat 64)) = true then _ else _) = _
    rw [h1, h2, if_neg (fun h => h.elim (fun h => h ha) (fun h => h hi))]
    simp only [Option.isSome_none, Bool.false_eq_true, if_false]
    rw [if_neg (by rw [hd]; decide)]
  · rw [exec_qDestroy, execQDestroy, queueCommand_allowed hr hf (by simpa using hs)]
  · rw [exec_qClear, execQClear, queueCommand_allowed hr hf (by simpa using hs)]
    simp only [beginQ, updFn_time]
  · rw [exec_notifyWrite]
    simp only [execNotifyWrite, hq]
    simp only [hfn, hd, hm, ne_eq, not_true_eq_false, Bool.not_true, Bool.false_eq_true, or_self, if_false]
    rw [if_neg (Nat.not_lt.2 hw)]
  · rw [exec_notifyWrite]
    simp only [execNotifyWrite, hq]
    simp only [hfn, hd, hm, ne_eq, not_true_eq_false, Bool.not_true, Bool.false_eq_true, or_self, if_false]
    rw [if_pos hw, if_neg he]

/-! ### The packet at RIDX -/

/-- Settles O44: a step of the thread, and the branches of what it takes. -/
theorem packetsStart : Obligations.PacketsStart := by
  unfold Obligations.PacketsStart
  refine ⟨fun s t h v q p hq hs ht hl hr hd hw hc => ?_, fun s h v q r => ?_⟩
  · have hret : retryReport s h = s := by simp only [retryReport, hq, Option.bind_some, hd]
    rw [exec_packetStart]
    simp only [execPacketStart, hret, hq, hs, ht, hl, hr, hw, hc]
    simp
  · intro hdr kind p
    have hgo (hp : p = false) (hk : packetOk v = true) : takePacket s h q v r
        = if (hdr.flags.getLsbD 0 || decide (4 ≤ kind.toNat)) && !q.started.isEmpty then s
          else if kind = 1 then (s.updQueue h (fun q => { q with launching := true })).post (packetStep hdr v)
          else ((startPacket s h hdr kind none).post (packetStep hdr v)).post (.packetStart h) := by
      rw [takePacket]
      exact (if_neg (by simpa only [p, Bool.not_eq_true] using hp)).trans (if_neg (by rw [hk]; decide))
    refine ⟨fun hp => ?_, fun hp hk => ?_, fun hp hk ho hn => ?_, fun hp hk ho h1 => ?_, fun hp hk ho h1 => ?_⟩
    · rw [takePacket]
      exact if_pos hp
    · rw [takePacket]
      exact (if_neg (by simpa only [p, Bool.not_eq_true] using hp)).trans (if_pos (by rw [hk]; rfl))
    · have ho' : (hdr.flags.getLsbD 0 || decide (4 ≤ kind.toNat)) = true := by simpa using ho
      rw [hgo hp hk, ho', if_pos (by simpa using hn)]
    · have h4 : decide (4 ≤ kind.toNat) = false := by rw [h1]; rfl
      rw [hgo hp hk, h4, Bool.or_false, if_neg, if_pos h1]
      rcases ho with h | h
      · simp [h]
      · rw [h]
        exact Bool.false_ne_true
    · rw [hgo hp hk, if_neg, if_neg h1]
      rcases ho with h | ⟨h, h'⟩
      · simp [h]
      · rw [h, show decide (4 ≤ kind.toNat) = false by simpa using h']
        exact Bool.false_ne_true

end Sys2Proof.Machine
end

section
/-!
PROOFS. What packets do, and the steps of functions (O45 to O47).
-/

namespace Sys2Proof.Machine

/-! ### The checks of a launch -/

/-- Settles O45: the chain of checks, cut where each first fails. -/
theorem launchChecksInOrder : Obligations.LaunchChecksInOrder := by
  unfold Obligations.LaunchChecksInOrder
  intro s hdr b q hq hl hm
  rw [exec_launchGraph]
  simp only [execLaunchGraph, hq, hl, hm, Bool.not_true, Bool.false_eq_true, if_false, ne_eq, not_true_eq_false]
  refine ⟨fun ho => by rw [ho], fun h o n ho => ?_⟩
  simp only [ho]
  refine ⟨fun hs => by rw [if_pos (by rw [hs]; rfl)], fun hs => ?_⟩
  rw [if_neg (by rw [hs]; decide)]
  refine ⟨fun hp => by rw [if_pos (by rw [hp]; rfl)], fun k hp hk => ?_⟩
  rw [if_neg (by rw [hp]; decide)]
  simp only [hk]
  exact ⟨fun hf => if_pos (by rw [hf]; rfl), fun hf => if_neg (by rw [hf]; decide)⟩

/-! ### COPY and FILL -/

theorem endBulk_idle {s : State} (h : portsBusy s = false) (hdr : PktHdr) (again : Instr) :
    endBulk s hdr again = s.post (.packetComplete hdr.queue hdr.index (((startedOf s hdr).bind (·.status)).getD 0)) := by
  simp only [endBulk, h, Bool.false_eq_true, if_false]

theorem endBulk_busy {s : State} (h : portsBusy s = true) (hdr : PktHdr) (again : Instr) :
    endBulk s hdr again = s.post again := by
  simp only [endBulk, h, if_true]

section
variable {s : State} {hdr : PktHdr} {src dst len pat : Word}

/-- A COPY with bytes left, in a partition that owns an engine: one move and what follows it. -/
theorem execCopy_moves (hp : inProgress s hdr = true) (hl : len ≠ 0) (he : hasEngine s hdr = true) :
    execCopy hdr src dst len s
      = let n := len.toNat
        let back : Bool := decide (src.toNat < dst.toNat ∧ dst.toNat < src.toNat + n)
        let m := if back then min n (min (fromStart (src.toNat + n - 1)) (fromStart (dst.toNat + n - 1)))
          else min n (min (toEnd src.toNat) (toEnd dst.toNat))
        let r := if back then moveBytes s hdr (src.toNat + n - m) (dst.toNat + n - m) m
          else moveBytes s hdr src.toNat dst.toNat m
        match r.1 with
        | .fault _ => .next (r.2.post (.copy hdr src dst len))
        | .fatal _ => .next (stopBulk r.2 hdr (.copy hdr src dst 0))
        | .ok _ =>
          if back then .next (r.2.post (.copy hdr src dst (BitVec.ofNat 64 (n - m))))
          else .next (r.2.post (.copy hdr (src + BitVec.ofNat 64 m) (dst + BitVec.ofNat 64 m) (BitVec.ofNat 64 (n - m)))) := by
  have h0 : len.toNat ≠ 0 := fun h => hl (BitVec.eq_of_toNat_eq h)
  simp only [execCopy, hp, he, Bool.not_true, Bool.false_eq_true, if_false, h0] <;> rfl

/-- A FILL with bytes left, in a partition that owns an engine. -/
theorem execFill_writes (hp : inProgress s hdr = true) (hl : len ≠ 0) (he : hasEngine s hdr = true) :
    execFill hdr dst len pat s
      = let m := min len.toNat (toEnd dst.toNat)
        let r := ctxWrite s (bulkReq s hdr .write) dst.toNat m (fillBytes pat.toNat dst.toNat m)
        match r.1 with
        | .fault _ => .next (r.2.post (.fill hdr dst len pat))
        | .fatal _ => .next (stopBulk r.2 hdr (.fill hdr dst 0 pat))
        | .ok _ => .next (r.2.post (.fill hdr (dst + BitVec.ofNat 64 m) (BitVec.ofNat 64 (len.toNat - m)) pat)) := by
  have h0 : len.toNat ≠ 0 := fun h => hl (BitVec.eq_of_toNat_eq h)
  simp only [execFill, hp, he, Bool.not_true, Bool.false_eq_true, if_false, h0] <;> rfl

end

/-! ### Waits, signals and completions

A function that walks page tables stands in the steps below as an unknown function R: the kernel would else unfold it when it
compares two branches of a step. -/

theorem alGet_updQueue_same (s : State) (h : Nat) (f : Queue → Queue) :
    alGet (s.updQueue h f).queues h = (alGet s.queues h).map f := by
  unfold State.updQueue
  cases hq : alGet s.queues h with
  | none => simp [hq]
  | some q => simp

theorem queueEvent_queues (s : State) (q : Queue) (kind : BitVec 8) (d : Word) (tag : BitVec 32) :
    (queueEvent s q kind d tag).queues = s.queues := by
  unfold queueEvent
  split
  · simp [submitEvent]
  · rfl

/-- A completion that fails neither its queue nor its word (R420, R428). -/
theorem finishPacket_ok (s : State) (h : Nat) (q : Queue) (e : Started) (st : BitVec 8) (hq : alGet s.queues h = some q)
    (hf : failing st = false) :
    let u := { q with started := q.started.filter (fun x => x.index != e.index), lastStatus := st }
    let own (t : State) : State := match e.event with
      | some d => queueEvent t u 1 d e.hdr.tag
      | none => t
    let asked (t : State) : State :=
      if e.hdr.flags.getLsbD 1 then queueEvent t u 2 (cplWord e.index e.kind st) e.hdr.tag else t
    finishPacket s h e st false = ((asked (own (s.updQueue h (fun _ => u)))).postOnce (.packetStart h)).postOnce
      (.queueMap q.part) := by
  intro u own asked
  have hs : s.updQueue h (fun q => { q with started := q.started.filter (fun x => x.index != e.index), lastStatus := st })
      = s.updQueue h (fun _ => u) := by simp only [State.updQueue, hq, u]
  have h0 : alGet (s.updQueue h (fun _ => u)).queues h = some u := by rw [alGet_updQueue_same, hq]; rfl
  simp only [finishPacket, hs, hf, Bool.false_eq_true, if_false, own, asked]
  cases e.event <;> cases e.hdr.flags.getLsbD 1 <;> simp [h0, queueEvent_queues] <;> rfl

/-- Settles O46: each step is the branch that the hypotheses leave. -/
theorem packetActions : Obligations.PacketActions := by
  unfold Obligations.PacketActions
  refine ⟨fun s hdr src dst len pat hp => ?_, ⟨fun s t hdr b q hp hq => ⟨fun st hw => ?_, fun place hw => ?_⟩,
    fun s h q x hq hx => ⟨fun st hm => ?_, fun st t hm hw => ?_, fun ht hm hb hs => ?_⟩,
    fun s t hdr addr value add wide q tgt pa more hp hq hsig => ?_,
    fun s hdr addr value add wide q hp hq => ⟨fun hsig hb => ?_, fun t hsig => ?_⟩⟩,
    fun s hdr data q hp hq => ?_, fun s h q e st hq hf => finishPacket_ok s h q e st hq hf,
    fun s t hdr buf len q ps hp hq => ?_, fun s h i st q e hq he => ⟨fun hc => ?_, fun h0 h8 hb => ?_, fun t ps h0 h8 hb hw => ?_⟩⟩
  · rw [exec_copy, exec_fill]
    have hdone (h : len = 0) : execCopy hdr src dst len s = .next (endBulk s hdr (.copy hdr src dst len))
        ∧ execFill hdr dst len pat s = .next (endBulk s hdr (.fill hdr dst len pat)) := by
      subst h
      simp [execCopy, execFill, hp]
    have hup (h : ¬(src < dst ∧ dst.toNat < src.toNat + len.toNat)) :
        decide (src.toNat < dst.toNat ∧ dst.toNat < src.toNat + len.toNat) = false := by
      simpa only [decide_eq_false_iff_not, BitVec.lt_def] using h
    refine ⟨fun h hb => ?_, fun h hb => ?_, fun h hb => ?_, fun t ps hl he hd => ?_, fun t ps hl he h1 h2 => ?_,
      fun t ps hl he => ?_, fun t c hl he => ⟨fun hd hm => ?_, fun hm => ?_⟩⟩
    · rw [(hdone h).1, (hdone h).2, endBulk_idle hb, endBulk_idle hb]
      exact ⟨rfl, rfl⟩
    · rw [(hdone h).1, (hdone h).2, endBulk_busy hb, endBulk_busy hb]
      exact ⟨rfl, rfl⟩
    · have h0 : len.toNat ≠ 0 := fun e => h (BitVec.eq_of_toNat_eq e)
      simp [execCopy, execFill, hp, hb, h0]
    · intro m hm
      simp only [execCopy_moves hp hl he, hup hd, Bool.false_eq_true, if_false, toEnd]
      simp only [m] at hm
      rw [hm]
    · intro n m hm
      have hb : decide (src.toNat < dst.toNat ∧ dst.toNat < src.toNat + len.toNat) = true :=
        decide_eq_true ⟨h1, h2⟩
      simp only [execCopy_moves hp hl he, hb, if_true, fromStart]
      simp only [m, n] at hm
      rw [hm]
    · intro m hm
      simp only [execFill_writes hp hl he, toEnd]
      simp only [m] at hm
      rw [hm]
    · simp only [execCopy_moves hp hl he, hup hd, Bool.false_eq_true, if_false, toEnd, hm, stopBulk]
    · simp only [execFill_writes hp hl he, toEnd, hm, stopBulk]
  · obtain ⟨R, hR⟩ : ∃ R, R = readWait := ⟨_, rfl⟩
    rw [exec_waitMem, execWaitMem, ← hR]
    rw [← hR] at hw
    simp only [hp, Bool.not_true, Bool.false_eq_true, if_false, hq, hw]
  · obtain ⟨R, hR⟩ : ∃ R, R = readWait := ⟨_, rfl⟩
    rw [exec_waitMem, execWaitMem, ← hR]
    rw [← hR] at hw
    simp only [hp, Bool.not_true, Bool.false_eq_true, if_false, hq, hw]
  · rw [exec_waitMemRetest, exec_waitMemPoll]
    obtain ⟨R, hR⟩ : ∃ R, R = readWait := ⟨_, rfl⟩
    rw [execWaitMemRetest, execWaitMemPoll, retest, retest, ← hR]
    simp only [hq, hx, hm, and_self]
  · rw [exec_waitMemRetest, exec_waitMemPoll]
    obtain ⟨R, hR⟩ : ∃ R, R = readWait := ⟨_, rfl⟩
    rw [← hR] at hw
    rw [execWaitMemRetest, execWaitMemPoll, retest, retest, ← hR]
    simp only [hq, hx, hm, hw, and_self]
  · rw [exec_waitMemTimeout]
    simp only [execWaitMemTimeout, hq, hx, hm, Option.isSome_none, Bool.false_eq_true, or_false, if_neg ht,
      if_pos (And.intro hb hs)]
  · intro n hr hb hl hj u
    obtain ⟨R, hR⟩ : ∃ R, R = translateRange := ⟨_, rfl⟩
    have he : exec (.signalMem hdr addr value add wide) s = .next (sendSignal t hdr (.signalMem hdr addr value add wide) tgt pa n
        (((if add then t.load tgt pa n else 0) + value.toNat) % 256 ^ n)) := by
      rw [exec_signalMem, execSignalMem, ← hR]
      rw [← hR] at hr
      simp only [hp, Bool.not_true, Bool.false_eq_true, if_false, hq, hsig, hb, wordBytes]
      simp only [n] at hr
      simp only [hr, hl, hj, Bool.false_eq_true, if_false, n]
    refine ⟨fun ha => he.trans ?_, fun ha => he.trans ?_⟩
    · exact congrArg Host.Outcome.next (if_neg (by rw [← Bool.not_eq_true] at ha; exact ha))
    · exact congrArg Host.Outcome.next (if_pos ha)
  · obtain ⟨R, hR⟩ : ∃ R, R = translateRange := ⟨_, rfl⟩
    rw [exec_signalMem, execSignalMem, ← hR]
    simp only [hp, Bool.not_true, Bool.false_eq_true, if_false, hq, hsig, hb, if_true]
  · obtain ⟨R, hR⟩ : ∃ R, R = translateRange := ⟨_, rfl⟩
    rw [exec_signalMem, execSignalMem, ← hR]
    simp only [hp, Bool.not_true, Bool.false_eq_true, if_false, hq, hsig]
  · rw [exec_event]
    simp only [execEvent, hp, Bool.not_true, Bool.false_eq_true, if_false, hq, updStarted]
  · intro es out hw
    obtain ⟨R, hR⟩ : ∃ R, R = @ctxWrite := ⟨_, rfl⟩
    rw [exec_resync, execResync, ← hR]
    rw [← hR] at hw
    simp only [out, es] at hw
    simp only [hp, Bool.not_true, Bool.false_eq_true, if_false, hq, hw, es]
  · have h0 : e.hdr.cpl.toNat = 0 ∨ e.hdr.cpl.toNat % 8 ≠ 0 := hc.imp (fun h => by rw [h]; rfl) id
    obtain ⟨R, hR⟩ : ∃ R, R = @ctxWrite := ⟨_, rfl⟩
    rw [exec_packetComplete, execPacketComplete, ← hR]
    simp only [hq, he, if_pos h0]
  · have hn : ¬(e.hdr.cpl.toNat = 0 ∨ e.hdr.cpl.toNat % 8 ≠ 0) := fun h => h.elim (fun h => h0 (BitVec.eq_of_toNat_eq h)) (fun h => h h8)
    obtain ⟨R, hR⟩ : ∃ R, R = @ctxWrite := ⟨_, rfl⟩
    rw [exec_packetComplete, execPacketComplete, ← hR]
    simp only [hq, he, if_neg hn, hb, if_true]
  · have hn : ¬(e.hdr.cpl.toNat = 0 ∨ e.hdr.cpl.toNat % 8 ≠ 0) := fun h => h.elim (fun h => h0 (BitVec.eq_of_toNat_eq h)) (fun h => h h8)
    obtain ⟨R, hR⟩ : ∃ R, R = @ctxWrite := ⟨_, rfl⟩
    rw [exec_packetComplete, execPacketComplete, ← hR]
    rw [← hR] at hw
    simp only [hq, he, if_neg hn, hb, hw, Bool.false_eq_true, if_false]

theorem paused_changes (p v : Bool) : (v != p) = false ↔ p = v := by cases p <;> cases v <;> decide

/-- Settles O47: each step is the branch that the hypotheses leave. -/
theorem functionSteps : Obligations.FunctionSteps := by
  unfold Obligations.FunctionSteps
  refine ⟨fun s p n e rest he hg ht hn hc hl hr => ?_, fun s fn v hfn hm => ?_, fun s vf v h0 h16 hb hp => ?_,
    fun s fn => rfl, fun s p o v hp ha ho hb => ?_⟩
  · intro u
    have hf : u.fn e.fn = s.fn e.fn := fn_updPart ..
    have hl' : linkTrains u .host = false := by simpa [linkTrains, hostPort, u] using hl
    have hc' : linkCarries u .host = true := by simpa [linkCarries, portCarries, hostPort, u] using hc
    rw [exec_eventRecordWrite]
    simp only [execEventRecordWrite, he]
    change (if e.gen ≠ (u.fn e.fn).gen ∨ (u.fn e.fn).tdi = .error then _ else _) = _
    rw [hf, if_neg (by simp [hg, ht])]
    simp only [hn]
    have hgo : ¬(!linkCarries u .host || linkTrains u .host) = true := by rw [hc', hl']; decide
    exact (if_neg hgo).trans (if_neg (Nat.not_le.2 hr))
  · have ht : takesMmio s fn = true := hm
    refine ⟨s.updFn fn (fun f => { f with evtHead := v, msix0Busy := false }), ?_, ?_, ?_, ?_, fun j hj => fn_updFn_other _ _ _ _ hj,
      (SameMem.updFn ..).mem⟩
    · rw [exec_evtHeadWrite]
      simp only [execEvtHeadWrite, hm, Bool.not_true, Bool.false_eq_true, if_false]
    all_goals rw [fn_updFn_same _ _ _ hfn]
  · intro u
    have hfz : (tdiLocked s vf && (v.getLsbD 0 != (s.fn vf).pause)) = false := by
      rcases hp with h | h
      · rw [h, Bool.false_and]
      · rw [(paused_changes _ _).2 h, Bool.and_false]
    rw [exec_fnPauseWrite]
    simp only [execFnPauseWrite]
    rw [if_neg (by simp [hb]; omega), frozenWrite, hfz]
    rfl
  · refine ⟨s.updPart p (fun q => { q with weights := alSet q.weights o (if v = 0 then 1 else v.toNat) }), ?_, ?_, fun j hj => ?_,
      fun j hj => part_updPart_other _ _ _ _ hj⟩
    · rw [exec_weightWrite]
      simp only [execWeightWrite, ha, ho, hb, Bool.not_false, and_self, if_true]
    · rw [part_updPart_same _ _ _ hp, alGet_alSet_same]
    · rw [part_updPart_same _ _ _ hp, alGet_alSet_other _ _ _ _ hj]

end Sys2Proof.Machine
end

section
/-!
PROOFS. The security processor: its ten commands as the order of R438 has them, and the epochs that move ways.
-/

namespace Sys2Proof.Machine

/-! ### Commands of the security processor -/

/-- What the body rules of a command say, as its beginning: the status of the first breach, or the state it begins with. -/
def begins (rule : State → Nat → Option (BitVec 8)) (start : State → Nat → State) (s : State) (d : Nat) :
    Except (BitVec 8) State :=
  match rule s d with
  | some st => .error st
  | none => .ok (start s d)

/-- A command taken further: to its end, or not yet. -/
def goesOn (more : State → Nat → Option State) (s : State) (d : Nat) : Bool × State :=
  match more s d with
  | some u => (true, u)
  | none => (false, s)

/-- A command whose beginning is its rules and its start, and which goes on as `more` says, is in the order of R438. -/
theorem spCommand_order {mk : Nat → CmdBlock → Instr} {op : Nat} {rule : State → Nat → Option (BitVec 8)}
    {start : State → Nat → State} {more : Nat → State → Nat → Option State}
    (hx : ∀ fn b s, exec (mk fn b) s = spCommand op (mk fn b) fn b s (begins rule start) (goesOn (more fn))) :
    SpCommand mk op rule start more := by
  intro fn b s d waits go
  have hgo : ∀ t, (match goesOn (more fn) t d with
      | (true, s) => (.next (spEnd s fn 0) : Out)
      | (false, s) => .next ({ s with spJob := some (fn, b) }.post (mk fn b))) = .next (go t) := by
    intro t
    simp only [go, goesOn]
    cases more fn t d <;> rfl
  refine ⟨fun j hj hne => ?_, fun h0 hr hb => ?_, fun hj => ?_, fun h0 hr hb => ?_⟩
  · rw [hx]; simp only [spCommand, hj, hne, if_false, waits]
  · rw [hx]; simp only [spCommand, h0, hr, hb, Bool.false_eq_true, if_false, if_true, waits]
  · rw [hx]; simp only [spCommand, hj, if_true]; exact hgo s
  · rw [hx]
    unfold spCommand
    dsimp only
    generalize spBegin { s with spWait := s.spWait.drop 1 } fn b = u
    simp only [h0, hr, hb, Bool.false_eq_true, if_false]
    cases hc : spCheck u op b with
    | some st => rfl
    | none =>
      simp only [begins]
      cases hq : rule { u with spSeq := u.spSeq + 1 } (spBody op b) with
      | some st => rfl
      | none => simp only [d]; exact hgo _

/-- The same for a command written with a beginning and a continuation of its own, which agree with its rules. -/
theorem spCommand_of {mk : Nat → CmdBlock → Instr} {op : Nat} {rule : State → Nat → Option (BitVec 8)}
    {start : State → Nat → State} {more : Nat → State → Nat → Option State}
    {begin_ : State → Nat → Except (BitVec 8) State} {further : Nat → State → Nat → Bool × State}
    (hx : ∀ fn b s, exec (mk fn b) s = spCommand op (mk fn b) fn b s begin_ (further fn))
    (hb : ∀ s d, begin_ s d = begins rule start s d) (hf : ∀ fn s d, further fn s d = goesOn (more fn) s d) :
    SpCommand mk op rule start more :=
  spCommand_order fun fn b s => by rw [hx, funext₂ hb, funext₂ (hf fn)]

/-- A rule that names a status where its condition holds. -/
theorem begins_whenBad {p : State → Nat → Bool} {st : BitVec 8} {rest : State → Nat → Option (BitVec 8)}
    {start : State → Nat → State} (s : State) (d : Nat) :
    begins (fun s d => whenBad (p s d) st (rest s d)) start s d
      = if p s d = true then .error st else begins rest start s d := by
  simp only [begins, whenBad]
  cases p s d <;> rfl

theorem begins_none {start : State → Nat → State} (s : State) (d : Nat) :
    begins (fun _ _ => none) start s d = .ok (start s d) := rfl

/-! ### Ways that move between the owners of a slice -/

theorem mem_insertBy {α : Type} {le : α → α → Bool} {x y : α} {l : List α} (h : y ∈ insertBy le x l) :
    y = x ∨ y ∈ l := by
  induction l with
  | nil => exact .inl (List.mem_singleton.1 h)
  | cons z l ih =>
    simp only [insertBy] at h
    split at h
    · exact List.mem_cons.1 h
    · rcases List.mem_cons.1 h with rfl | h
      · exact .inr List.mem_cons_self
      · exact (ih h).imp_right (List.mem_cons_of_mem _)

theorem mem_sortBy {α : Type} {le : α → α → Bool} {y : α} {l : List α} (h : y ∈ sortBy le l) : y ∈ l := by
  induction l with
  | nil => exact h
  | cons z l ih =>
    rcases mem_insertBy h with rfl | h
    · exact List.mem_cons_self
    · exact List.mem_cons_of_mem _ (ih h)

/-- The owner picked is one of those named. -/
theorem bestOwner_mem {os : List (Nat × Nat × Nat × Nat)} {p : Nat × Nat × Nat × Nat → Bool}
    {value : Nat × Nat × Nat × Nat → Int} {a : Nat} (h : bestOwner os p value = some a) :
    ∃ o ∈ os, p o = true ∧ o.1 = a := by
  obtain ⟨o, ho, rfl⟩ := Option.map_eq_some_iff.1 h
  exact ⟨o, List.mem_filter.1 (mem_sortBy (List.mem_of_mem_head? ho)) |>.1,
    List.mem_filter.1 (mem_sortBy (List.mem_of_mem_head? ho)) |>.2, rfl⟩

/-- A move of a way is from an owner that has one to another owner. -/
structure MovesWay (os : List (Nat × Nat × Nat × Nat)) (a b : Nat) : Prop where
  apart : a ≠ b
  giver : ∃ o ∈ os, 0 < o.2.2.2 ∧ o.1 = a
  taker : ∃ o ∈ os, o.1 = b

theorem complianceMove_moves {os : List (Nat × Nat × Nat × Nat)} {a b : Nat} (h : complianceMove os = some (a, b)) :
    MovesWay os a b := by
  unfold complianceMove at h
  split at h
  · next o ho =>
    obtain ⟨c, hc, he⟩ := Option.map_eq_some_iff.1 h
    obtain ⟨rfl, rfl⟩ := Prod.mk.inj he
    obtain ⟨x, hx, hp, rfl⟩ := bestOwner_mem hc
    simp only [Bool.and_eq_true, bne_iff_ne, decide_eq_true_eq] at hp
    exact ⟨hp.1, ⟨x, hx, hp.2, rfl⟩, ⟨o, List.mem_of_find?_eq_some ho, rfl⟩⟩
  · split at h
    · next o ho =>
      obtain ⟨c, hc, he⟩ := Option.map_eq_some_iff.1 h
      obtain ⟨rfl, rfl⟩ := Prod.mk.inj he
      obtain ⟨x, hx, hp, rfl⟩ := bestOwner_mem hc
      have hway : o.2.2.1 < o.2.2.2 := by simpa using List.find?_some ho
      exact ⟨(bne_iff_ne.1 hp).symm, ⟨o, List.mem_of_find?_eq_some ho, by omega, rfl⟩, ⟨x, hx, rfl⟩⟩
    · exact nomatch h

theorem monitorMove_moves {os : List (Nat × Nat × Nat × Nat)} {gain loss : Nat → Nat} {a b : Nat}
    (h : monitorMove os gain loss = some (a, b)) : MovesWay os a b := by
  unfold monitorMove at h
  split at h
  · next c d hc hd =>
    split_ifs at h with hne
    obtain ⟨rfl, rfl⟩ := Prod.mk.inj (Option.some.inj h)
    obtain ⟨x, hx, hp, rfl⟩ := bestOwner_mem hc
    obtain ⟨y, hy, -, rfl⟩ := bestOwner_mem hd
    have hway : x.2.1 < x.2.2.2 := of_decide_eq_true hp
    exact ⟨hne.1, ⟨x, hx, by omega, rfl⟩, ⟨y, hy, rfl⟩⟩
  · exact nomatch h

/-- The ways after a move, with the one that an owner of the list gives and the one that an owner of it takes. -/
theorem moveWay_total {os : List (Nat × Nat × Nat × Nat)} {a b : Nat} (hab : a ≠ b) (hn : (os.map (·.1)).Nodup)
    (hw : ∀ o ∈ os, o.1 = a → 0 < o.2.2.2) :
    ((moveWay os a b).map (·.2.2.2)).sum + (if a ∈ os.map (·.1) then 1 else 0)
      = (os.map (·.2.2.2)).sum + (if b ∈ os.map (·.1) then 1 else 0) := by
  induction os with
  | nil => rfl
  | cons o os ih =>
    obtain ⟨hno, hn⟩ := List.nodup_cons.1 hn
    have ih := ih hn fun o ho => hw o (List.mem_cons_of_mem _ ho)
    have hpos := hw o List.mem_cons_self
    simp only [moveWay, List.map_cons, List.sum_cons, List.mem_cons] at ih ⊢
    by_cases ha : o.1 = a
    · subst ha
      simp only [hno, if_false, if_true, true_or, Ne.symm hab, false_or] at ih ⊢
      have := hpos rfl
      omega
    · by_cases hb : o.1 = b
      · subst hb
        simp only [hno, if_false, if_true, true_or, hab, ha, false_or] at ih ⊢
        omega
      · simp only [ha, hb, Ne.symm ha, Ne.symm hb, if_false, false_or] at ih ⊢
        omega

/-- With one entry for each owner, a move keeps the slice's total. -/
theorem MovesWay.total {os : List (Nat × Nat × Nat × Nat)} {a b : Nat} (h : MovesWay os a b)
    (hn : (os.map (·.1)).Nodup) : ((moveWay os a b).map (·.2.2.2)).sum = (os.map (·.2.2.2)).sum := by
  obtain ⟨hab, ⟨x, hx, hw, rfl⟩, ⟨y, hy, rfl⟩⟩ := h
  have := moveWay_total hab hn fun o ho he => by rwa [List.inj_on_of_nodup_map hn ho hx he]
  rw [if_pos (List.mem_map_of_mem hx), if_pos (List.mem_map_of_mem hy)] at this
  omega

/-- An epoch of a shared slice moves at most one way, and the next one is due. -/
theorem wayMoveEpoch_moves {s : State} {k : Nat} {e : SliceShare}
    (hf : s.shares.find? (fun e => e.slice == k) = some e) (hl : 2 ≤ e.owners.length) :
    ∃ m : Option (Nat × Nat), (∀ a b, m = some (a, b) → MovesWay e.owners a b) ∧
      exec (.wayMoveEpoch k) s = .next ((match m with
        | some (a, b) => moveAt s.takeFree.2 k a b
        | none => s.takeFree.2).post (.wayMoveEpoch k)) := by
  rw [exec_wayMoveEpoch]
  simp only [execWayMoveEpoch, hf, Nat.not_lt.2 hl, if_false]
  refine ⟨_, fun a b hm => ?_, rfl⟩
  rcases Option.or_eq_some_iff.1 hm with h | ⟨-, h⟩
  · exact complianceMove_moves h
  · exact monitorMove_moves h

/-- Settles O49: each command is the order of R438 for its own rules, and an epoch makes one of the two moves of R448. -/
theorem securityCommands : Obligations.SecurityCommands := by
  unfold Obligations.SecurityCommands
  refine ⟨⟨spCommand_of exec_partCreate (fun s d => ?_) (fun _ _ _ => rfl),
    spCommand_of exec_partDestroy (fun s d => ?_) (fun _ s d => ?_),
    spCommand_of exec_partGrow (fun s d => ?_) (fun _ s d => ?_),
    spCommand_of exec_partShrink (fun s d => ?_) (fun _ s d => ?_),
    spCommand_of exec_shareSet (fun s d => ?_) (fun _ _ _ => rfl),
    spCommand_of exec_lend (fun s d => ?_) (fun _ s d => ?_),
    spCommand_of exec_recall (fun s d => ?_) (fun _ s d => ?_),
    spCommand_of exec_keyEnroll (fun s d => ?_) (fun _ _ _ => rfl),
    spCommand_of exec_meterReport (fun s d => ?_) (fun _ _ _ => rfl),
    spCommand_of exec_meterSeed (fun s d => ?_) (fun _ _ _ => rfl)⟩, ?_⟩
  · simp only [begins_whenBad, begins_none, bne_iff_ne]
  · simp only [begins_whenBad, begins_none, bne_iff_ne, Bool.or_eq_true, decide_eq_true_eq]
  · simp only [goesOn]; split_ifs <;> rfl
  · simp only [begins_whenBad, begins_none, bne_iff_ne]
  · simp only [goesOn]
    cases (s.part (partDescOf d).pid).slotJobs <;> rfl
  · simp only [begins_whenBad, begins_none, bne_iff_ne]
  · simp only [goesOn]
    cases shrinkDone s (partDescOf d) <;> rfl
  · simp only [begins_whenBad, begins_none]
  · dsimp only
    simp only [begins_whenBad, begins_none, bne_iff_ne, Bool.or_eq_true, decide_eq_true_eq, beq_iff_eq, or_assoc]
  · simp only [goesOn]
    cases (s.part (fieldAt d 1 1)).slotJobs <;> cases vacated s (fieldAt d 0 1) (bodyCores d) <;> rfl
  · dsimp only
    simp only [begins_whenBad, begins_none, bne_iff_ne, Bool.or_eq_true, decide_eq_true_eq]
  · simp only [goesOn]; split_ifs <;> rfl
  · dsimp only
    simp only [begins_whenBad, begins_none, bne_iff_ne, Bool.or_eq_true, decide_eq_true_eq, or_assoc]
  · simp only [begins_whenBad, begins_none, bne_iff_ne, Bool.or_eq_true, decide_eq_true_eq]
  · simp only [begins_whenBad, begins_none, bne_iff_ne, Bool.or_eq_true]
  · intro s k e hf hl hn
    obtain ⟨m, hm, hx⟩ := wayMoveEpoch_moves hf hl
    refine ⟨_, hx, ?_⟩
    rcases m with _ | ⟨a, b⟩
    · exact ⟨rfl, .inl rfl, fun _ => rfl, rfl⟩
    · have h := hm a b rfl
      exact ⟨rfl, .inr ⟨a, b, h.apart, h.total hn, rfl⟩, fun _ => rfl, rfl⟩

end Sys2Proof.Machine
end

section
/-!
PROOFS. Links: accesses from outside, the states of a port, flits and dumps, and what the mailbox carries.
-/

namespace Sys2Proof.Machine

/-! ### Accesses from outside -/

theorem accBytes_read {acc : HostAcc} (h : acc.kind = .read) : accBytes acc = acc.size := by simp only [accBytes, h]

theorem accBytes_write {acc : HostAcc} (h : acc.kind = .write) : accBytes acc = acc.size := by simp only [accBytes, h]

theorem accBytes_atomic {acc : HostAcc} {op ty : Nat} {r : Bool} (h : acc.kind = .atomic op ty r) :
    accBytes acc = atomBits ty / 8 := by simp only [accBytes, h]

/-- An access of the host that PCIe carries to memory of the partition is performed. -/
theorem exec_hostAccess_placed {s : State} {p : Nat} {acc : HostAcc} (hok : accPcieOk acc = true)
    (hpl : devicePlace (s.part p) acc.addr (accBytes acc) = true) :
    exec (.hostAccess p acc) s = match performAccess s acc acc.addr with
      | (some r, t) => .next (reply t r)
      | (none, t) => .next t := by
  rw [exec_hostAccess, execHostAccess, if_neg (by rw [hok]; decide), if_neg (by rw [hpl]; decide)] <;> rfl

/-- The old value that the read-modify-write of an access gives, and the poison of its sector. -/
theorem accAtomic_old (s : State) (op : AtomOp) (ty : Nat) (acc : HostAcc) (pa : Nat) :
    (accAtomic s op ty acc pa).1 = (s.hbm.read pa (atomBits ty / 8), s.hbm.isPoisoned (pa / 32)) := by
  unfold accAtomic
  dsimp only
  split_ifs <;> rfl

/-- A peer's request is taken on a port in use. -/
theorem exec_peerRequestReceive_open {s : State} {port : Nat} (acc : HostAcc) (hp : s.boot.peer.getLsbD port = true)
    (hst : (s.port port).state = .up ∨ (s.port port).state = .degraded) :
    exec (.peerRequestReceive port acc) s
      = let v := ((portOwner s port).map (fun i => peerWalk s (s.part i) acc)).getD s
        match (portOwner s port).bind (fun i => peerPlace s (s.part i) acc) with
        | none => .next (replyPeer (rejectPeer v port acc) port ⟨true, 0, 0⟩)
        | some pa => .next (replyPeer (performAccess v acc pa).2 port ((performAccess v acc pa).1.getD ⟨false, 0, 0⟩)) := by
  have hopen : (!s.boot.peer.getLsbD port || !((s.port port).state == .up || (s.port port).state == .degraded)) = false := by
    rcases hst with h | h <;> rw [hp, h] <;> decide
  rw [exec_peerRequestReceive, execPeerRequestReceive, hopen] <;> rfl

/-- Settles O50: each access by its kind, with its place known. -/
theorem outsideAccesses : Obligations.OutsideAccesses := by
  unfold Obligations.OutsideAccesses
  intro s p port acc u
  refine ⟨fun hk hpl => ?_, fun hk hpl => ?_, fun op ty hk hok hpl => ?_, fun hok => ?_, fun hok hpl => ?_, fun hp hst => ?_⟩
  · rw [exec_hostAccess_placed (by simp only [accPcieOk, hk]) (by rw [accBytes_read hk]; exact hpl)]
    simp only [performAccess, hk, linkBytes_hbm, u]
  · rw [exec_hostAccess_placed (by simp only [accPcieOk, hk]) (by rw [accBytes_write hk]; exact hpl)]
    simp only [performAccess, hk, u]
  · intro r
    rw [exec_hostAccess_placed hok (by rw [accBytes_atomic hk]; exact hpl)]
    simp only [performAccess, hk, if_true, accAtomic_old, linkBytes_hbm, r, u]
  · rw [exec_hostAccess, execHostAccess, if_pos (by rw [hok]; rfl)]
  · rw [exec_hostAccess, execHostAccess, if_neg (by rw [hok]; decide), if_pos (by rw [hpl]; rfl)]
  · intro v
    rw [exec_peerRequestReceive_open acc hp hst]
    refine ⟨fun pa hpa => ?_, fun hnone => ?_⟩
    · simp only [hpa, v]
    · simp only [hnone, v] <;> rfl

/-! ### Traffic of the slices -/

/-- Nothing has changed but what slices hold, their meters and mixed-size records. -/
def OnlySlices (s t : State) : Prop := ∃ l m r, t = { s with l2 := l, meters := m, accessRecords := r }

theorem OnlySlices.refl (s : State) : OnlySlices s s := ⟨_, _, _, rfl⟩

theorem OnlySlices.trans {s t u : State} (h : OnlySlices s t) (h' : OnlySlices t u) : OnlySlices s u := by
  obtain ⟨_, _, _, rfl⟩ := h
  obtain ⟨l, m, r, rfl⟩ := h'
  exact ⟨l, m, r, rfl⟩

theorem OnlySlices.l2Access (s : State) (k : Nat) (use : L2Use) : OnlySlices s (s.l2Access k use) := ⟨_, _, _, rfl⟩

theorem OnlySlices.linkBytes (s : State) (n : Nat) : OnlySlices s (linkBytes s n) := by
  unfold Machine.linkBytes State.chargePayer
  cases s.payer with
  | none => exact .refl s
  | some o => exact ⟨_, _, _, rfl⟩

theorem OnlySlices.foldl {α : Type} {f : State → α → State} (hf : ∀ s a, OnlySlices s (f s a)) (xs : List α) (s : State) :
    OnlySlices s (xs.foldl f s) := by
  induction xs generalizing s with
  | nil => exact .refl s
  | cons a xs ih => exact (hf s a).trans (ih _)

/-! ### Ports -/

theorem port_updPort_same {s : State} {k : Nat} (hk : k < 12) (f : Port → Port) : (s.updPort k f).port k = f (s.port k) := by
  simp [State.port, State.updPort, hk]

/-- What an update does to a port depends only on its result there. -/
theorem updPort_congr {s : State} {k : Nat} {f g : Port → Port} (h : f (s.port k) = g (s.port k)) :
    s.updPort k f = s.updPort k g := by
  unfold State.updPort
  split
  · next hk =>
    have hp : s.port k = s.ports[k] := by simp [State.port, hk]
    rw [← hp, h]
  · rfl

/-- The states in which a port carries traffic are the ones that a flit is taken in. -/
theorem inUse_of {st : LinkState} (h : st = .up ∨ st = .degraded) : (st == .up || st == .degraded) = true := by
  rcases h with rfl | rfl <;> rfl

/-- An acknowledgement of no flit in the replay buffer does nothing. -/
theorem ackFlits_none {s : State} {k : Nat} {ack : BitVec 12} (h : ∀ f ∈ (s.port k).replay, f.seq ≠ ack) :
    ackFlits s k ack = s := by
  refine if_neg ?_
  simpa using h

/-- An acknowledgement takes the flit that it names, and those before it, out of the replay buffer. -/
theorem ackFlits_split {s : State} {k : Nat} {ack : BitVec 12} {old rest : List Flit} {f : Flit}
    (hr : (s.port k).replay = old ++ f :: rest) (hf : f.seq = ack) (ho : ∀ g ∈ old, g.seq ≠ ack) :
    ackFlits s k ack = ((old ++ [f]).foldl deliverFlit
      (s.updPort k (fun p => { p with replay := rest, tries := 0 }))).updPort k Port.send := by
  have hgo : ∀ g ∈ old, (g.seq != ack) = true := fun g hg => bne_iff_ne.2 (ho g hg)
  have hstop : ¬ (f.seq != ack) = true := by rw [hf]; simp
  have htake : (old ++ f :: rest).takeWhile (fun f => f.seq != ack) = old := by
    rw [List.takeWhile_append_of_pos hgo, List.takeWhile_cons_of_neg (p := fun f : Flit => f.seq != ack) hstop, List.append_nil]
  have hdrop : (old ++ f :: rest).dropWhile (fun f => f.seq != ack) = f :: rest := by
    rw [List.dropWhile_append_of_pos hgo, List.dropWhile_cons_of_neg (p := fun f : Flit => f.seq != ack) hstop]
  have hany : (old ++ f :: rest).any (fun f => f.seq == ack) = true := by
    rw [List.any_append, List.any_cons, beq_iff_eq.2 hf, Bool.true_or, Bool.or_true]
  simp only [ackFlits, hr, hany, htake, hdrop, if_true]
  rfl

/-- A flit received on a peer port in use. -/
theorem exec_flitReceive_open {s : State} {k : Nat} {seq ack : BitVec 12} {kind : BitVec 8} {ok : Bool}
    (hp : s.boot.peer.getLsbD k = true) (hst : (s.port k).state = .up ∨ (s.port k).state = .degraded) :
    exec (.flitReceive k seq ack kind ok) s
      = if ok = false then
          .next (if 64 ≤ ((s.updPort k countReplay).port k).tries then linkRetrain (s.updPort k countReplay) k
            else s.updPort k countReplay)
        else if seq = (s.port k).recvSeq then
          .next (ackFlits (s.updPort k (fun q =>
            { q with recvSeq := q.recvSeq + 1, tries := if kind = 0 then q.tries else 0 })) k ack)
        else if ((s.port k).recvSeq - seq).toNat ≤ 1024 then .next (ackFlits s k ack)
        else .next (linkRetrain s k) := by
  have hopen : (!s.boot.peer.getLsbD k || !((s.port k).state == .up || (s.port k).state == .degraded)) = false := by
    rw [hp, inUse_of hst]; rfl
  rw [exec_flitReceive, execFlitReceive, hopen]
  cases ok <;> rfl

/-! ### Dumps -/

theorem dumpTraffic_slices (s : State) (sector n : Nat) : OnlySlices s (dumpTraffic s sector n) :=
  .trans (.foldl (fun s _ => .l2Access s _ _) _ s) (.linkBytes _ _)

/-- What a step of a dump leaves: more of the image is done, and nothing else of the device has changed. -/
theorem dumpSome_keeps (s : State) (cs : List Nat) {i n : Nat} (hn : 0 < n) :
    let t := (dumpSome s cs i n).2
    i < t.boot.dumpDone ∧ t.boot.dumpBusy = s.boot.dumpBusy ∧ t.hbm = s.hbm ∧ t.groups = s.groups ∧ t.agenda = s.agenda := by
  have hm : 0 < min n (channelSectors - i % channelSectors) :=
    lt_min hn (Nat.sub_pos_of_lt (Nat.mod_lt _ (by decide)))
  obtain ⟨l, m, r, h⟩ := dumpTraffic_slices s ((cs.getD (i / channelSectors) 0 * 0x80000000 + 32 * (i % channelSectors)) / 32)
    (min n (channelSectors - i % channelSectors))
  simp only [dumpSome, h, and_self, and_true]
  exact Nat.lt_add_of_pos_right hm

/-- A DUMP_CMD of the PF that starts a dump, on a link and a partition that exist. -/
theorem execDump_taken {s : State} {k p : Nat} {v : Word} (hb : s.boot.dumpBusy = false) (hr : s.boot.recovery = false)
    (hv : v.toNat < 4) (h0 : v.getLsbD 0 = true) (hd : dumpPort s (v.getLsbD 1) = some k) (hp : dumpPart s = some p) :
    execDump 0 v s
      = if (s.part p).funcs.any (tdiLocked s) = true then .next (dumpEnd s 3)
        else if (s.port k).state ≠ .up then .next (dumpEnd s 2)
        else .next ({ s with boot := { s.boot with
          dumpAt := s.boot.dumpHost, dumpBusy := true, dumpLink := v.getLsbD 1, dumpStatus := 0, dumpPoisoned := 0,
          dumpDone := 0 } }.post .dumpComplete) := by
  simp only [execDump, hb, hr, hd, hp, h0, Nat.not_le.2 hv, if_false]
  rfl

/-- Settles O51: the states of a port, then flits, then dumps. -/
theorem linkStatesAndDumps : Obligations.LinkStatesAndDumps := by
  unfold Obligations.LinkStatesAndDumps
  refine ⟨⟨fun s p k hp hk hlt hr => ?_, fun s k remote hon hd => ?_, fun s k n ht => ⟨fun h8 => ?_, fun h4 h8 hp => ?_,
      fun hn => ?_, ?_⟩, fun s k hst => ⟨?_, ?_⟩, fun s pair hp hst => ?_, fun s k seq ack kind hk hp hst => ?_,
      fun s k ack _ => ⟨ackFlits_none, fun _ _ _ hr hf ho => ackFlits_split hr hf ho⟩⟩,
    fun s k p v hb hr hv h0 hd hp => ⟨fun hl => ?_, fun hl => ⟨fun hst => ?_, fun hst => ?_⟩⟩, fun s p hb hp => ?_⟩
  · rw [exec_lnkReset]
    simp only [execLnkReset, hp, Option.map_some, Option.getD_some, hk, hlt, hr]
    rfl
  · rw [exec_partnerDetect]
    simp only [execPartnerDetect, hon, hd]
    rfl
  · rw [exec_trainingComplete, execTrainingComplete, if_neg (not_not_intro ht), if_pos h8]
  · rw [exec_trainingComplete, execTrainingComplete, if_neg (not_not_intro ht), if_neg (Nat.not_le.2 h8),
      if_pos (by rw [hp, decide_eq_true h4]; rfl)]
  · rw [exec_trainingComplete, execTrainingComplete, if_neg (not_not_intro ht), if_neg (by omega), if_neg]
    simp only [Bool.and_eq_true, decide_eq_true_eq]
    rintro ⟨h4, hp⟩
    rcases hn with h | ⟨-, h⟩
    · omega
    · rw [hp] at h; exact nomatch h
  · rw [exec_trainingTimeout, execTrainingTimeout, if_pos ht]
  · rw [exec_linkFailure]
    simp only [execLinkFailure, if_true]
    rw [if_pos (.inr hst)]
  · rw [exec_linkFailure]
    simp only [execLinkFailure, Bool.false_eq_true, if_false]
    rw [if_pos hst]
  · rw [exec_pcieLinkDown]
    simp only [execPcieLinkDown, hp, hst]
    rfl
  · refine ⟨fun h => ?_, fun hne hle => ?_, fun hlt => ?_, fun hlt => ?_, fun hle => ?_⟩ <;>
      rw [exec_flitReceive_open hp hst]
    · subst h
      rw [if_neg (by decide), if_pos rfl]
      exact congrArg (fun t => Host.Outcome.next (ackFlits t k ack)) (updPort_congr rfl)
    · rw [if_neg (by decide), if_neg hne, if_pos hle]
    · have hne : seq ≠ (s.port k).recvSeq := by
        rintro rfl
        simp at hlt
      rw [if_neg (by decide), if_neg hne, if_neg (Nat.not_le.2 hlt)]
    · rw [if_pos rfl, port_updPort_same hk, if_neg (by simp only [countReplay]; omega)]
    · rw [if_pos rfl, port_updPort_same hk, if_pos (by simp only [countReplay]; omega)]
  · rw [exec_dump, execDump_taken hb hr hv h0 hd hp, if_pos hl]
  · rw [exec_dump, execDump_taken hb hr hv h0 hd hp, if_neg (by rw [hl]; decide), if_pos hst]
  · rw [exec_dump, execDump_taken hb hr hv h0 hd hp, if_neg (by rw [hl]; decide), if_neg (not_not_intro hst)]
  · intro cs
    rw [exec_dumpComplete]
    refine ⟨fun hle => ?_, fun hlt => ?_⟩
    · simp only [execDumpComplete, hb, hp, Bool.not_true, Bool.false_eq_true, if_false, Option.map_some, Option.getD_some]
      exact if_pos hle
    · obtain ⟨hd, hbusy, hhbm, hg, ha⟩ := dumpSome_keeps s.takeFree.2 cs (i := s.boot.dumpDone)
        (Nat.succ_pos (Config.freeNat s.free))
      refine ⟨(dumpSome s.takeFree.2 cs s.boot.dumpDone (Config.freeNat s.free + 1)).2.post .dumpComplete, ?_, hd, hbusy.trans hb, hhbm, hg, congrArg (· ++ _) ha⟩
      simp only [execDumpComplete, hb, hp, Bool.not_true, Bool.false_eq_true, if_false, Option.map_some, Option.getD_some]
      exact if_neg (Nat.not_le.2 hlt)

theorem mem_setInsert_iff {x y : Nat} {l : List Nat} : y ∈ setInsert x l ↔ y = x ∨ y ∈ l := by
  induction l with
  | nil => simp only [setInsert, List.mem_singleton, List.not_mem_nil, or_false]
  | cons z l ih =>
    simp only [setInsert]
    split_ifs with h h
    · exact List.mem_cons
    · subst h
      rw [List.mem_cons, ← or_assoc, or_self]
    · rw [List.mem_cons, ih, List.mem_cons, or_left_comm]

/-- The state after a session is established. -/
def sessionUp (s : State) (session : Nat) : State :=
  { s with spdm := { s.spdm with sessions := setInsert session s.spdm.sessions } }

/-- The state after a stream's keys are programmed. -/
def keysProgrammed (s : State) (vf stream : Nat) (key : BitVec 256) : State :=
  let others := s.spdm.ideKeys.filter (fun e => !(e.1 == vf && e.2.1 == stream))
  respond { s with spdm := { s.spdm with ideKeys := others ++ [(vf, stream, key)] } } .accepted

/-- The keys of a stream that is programmed replace those that it had. -/
theorem ideKeys_replaced {vf stream : Nat} {key : BitVec 256} {ks : List (Nat × Nat × BitVec 256)} {k : BitVec 256}
    (h : (vf, stream, k) ∈ ks.filter (fun e => !(e.1 == vf && e.2.1 == stream)) ++ [(vf, stream, key)]) : k = key := by
  rcases List.mem_append.1 h with h | h
  · have hne := (List.mem_filter.1 h).2
    simp only [beq_self_eq_true, Bool.and_self, Bool.not_true, Bool.false_eq_true] at hne
  · simpa using h

theorem isVf_of {vf : Nat} (h1 : 1 ≤ vf) (h2 : vf < 16) : isVf vf = true := decide_eq_true ⟨h1, h2⟩

/-- Settles O52: each request in the state that accepts it. -/
theorem mailboxRequests : Obligations.MailboxRequests := by
  unfold Obligations.MailboxRequests
  intro s vf stream session key hr
  refine ⟨?_, ⟨sessionUp s session, ?_, mem_setInsert_iff.2 (.inl rfl), fun x hx => mem_setInsert_iff.2 (.inr hx), rfl, fun _ => rfl⟩,
    fun hvf hl => ⟨keysProgrammed s vf stream key, ?_, List.mem_append_right _ (List.mem_singleton.2 rfl), fun k hk => ideKeys_replaced hk, rfl⟩,
    fun h1 h2 => ⟨fun ht hs hk hd => ?_, fun ht => ?_, ?_, fun ht => ⟨?_, ?_⟩⟩, ?_, fun i hi => ?_⟩
  · rw [exec_securedSpdmSession]
    simp only [execSecuredSpdmSession, hr, Bool.false_eq_true, if_false]
  · rw [exec_securedSpdmSession]
    simp only [execSecuredSpdmSession, hr, Bool.false_eq_true, if_false, if_true]
    rfl
  · rw [exec_ideKmKeyProg, execIdeKmKeyProg, if_neg (by rw [hr]; decide), if_neg (by omega)]
    rfl
  · rw [exec_lockInterfaceRequest, execLockInterfaceRequest, if_pos (by rw [isVf_of h1 h2, ht, hs, hk, hd]; rfl)]
  · rw [exec_startInterfaceRequest, execStartInterfaceRequest, if_pos (by rw [isVf_of h1 h2, ht]; rfl)]
  · rw [exec_stopInterfaceRequest, execStopInterfaceRequest, if_pos (isVf_of h1 h2)]
  · refine ⟨Config.sm2Sign (attestKey s) (Config.sm3 (bytesOf 16 (packFields
      [((s.fn vf).bar0.toNat, 8), ((s.fn vf).bar2.toNat, 8)]) ++ reportInfo s vf)), ?_⟩
    rw [exec_getDeviceInterfaceReport, execGetDeviceInterfaceReport, if_pos (by rw [isVf_of h1 h2, ht]; rfl)]
    rfl
  · rw [exec_tdiError, execTdiError, if_pos ht]
  · rw [exec_getCertificate, execGetCertificate, if_neg (by rw [hr]; decide)]
  · rw [exec_getMeasurements, execGetMeasurements, if_neg (by rw [hr]; decide)]
    simp only [List.isEmpty_eq_false_iff.2 hi, Bool.false_eq_true, if_false]

end Sys2Proof.Machine
end

section
/-!
PROOFS. Boot, the firmware commands and the loss of power.
-/

namespace Sys2Proof.Machine

/-! ### Firmware commands -/

section
variable {s : State} {op : Nat} {b : Bool} {self : Instr} {effect : State → State}

theorem fwCommand_begins (hd : s.boot.done = true) (hj : s.boot.fwJob = none) :
    fwCommand op b self effect s
      = .next ({ s with boot := { s.boot with fwJob := some (op, b), fwStatus := 0 } }.post self) := by
  simp only [fwCommand, hj, hd, if_true]

theorem fwCommand_dropped {j : Nat × Bool} (hj : s.boot.fwJob = some j) (hne : j ≠ (op, b)) :
    fwCommand op b self effect s = .next s := by
  simp only [fwCommand, hj]
  rw [if_pos hne]

theorem fwCommand_waits (hj : s.boot.fwJob = some (op, b)) (hr : fwReads op = true) (hl : linkTrains s .host = true) :
    fwCommand op b self effect s = .next (s.post self) := by
  simp only [fwCommand, hj, ne_eq, not_true_eq_false, if_false, hr, hl, Bool.and_self, if_true]

theorem fwCommand_effect (hj : s.boot.fwJob = some (op, b)) (hl : (fwReads op && linkTrains s .host) = false) :
    fwCommand op b self effect s = .next (effect s) := by
  simp only [fwCommand, hj, ne_eq, not_true_eq_false, if_false, hl, Bool.false_eq_true]

end

/-- The firmware commands, each with its operation and slot. -/
def fwCommands : List (Instr × Nat × Bool) :=
  [(.writeSlot false, 1, false), (.writeSlot true, 1, true), (.setMarker false, 2, false), (.setMarker true, 2, true),
    (.commitSvn, 3, false), (.ownerFuse, 4, false), (.writeConfig, 5, false)]

/-- Each of them is a firmware command with an effect of its own. -/
theorem exec_fwCommands {e : Instr × Nat × Bool} (he : e ∈ fwCommands) :
    ∃ effect, ∀ s, exec e.1 s = fwCommand e.2.1 e.2.2 e.1 effect s := by
  simp only [fwCommands, List.mem_cons, List.not_mem_nil, or_false] at he
  rcases he with rfl | rfl | rfl | rfl | rfl | rfl | rfl
  · exact ⟨_, exec_writeSlot false⟩
  · exact ⟨_, exec_writeSlot true⟩
  · exact ⟨_, exec_setMarker false⟩
  · exact ⟨_, exec_setMarker true⟩
  · exact ⟨_, exec_commitSvn⟩
  · exact ⟨_, exec_ownerFuse⟩
  · exact ⟨_, exec_writeConfig⟩

/-- The commands among them that read the host's memory. -/
theorem fwReaders : ∀ e ∈ [(Instr.writeSlot false, 1, false), (Instr.writeSlot true, 1, true), (Instr.ownerFuse, 4, false),
    (Instr.writeConfig, 5, false)], e ∈ fwCommands ∧ fwReads e.2.1 = true := by
  decide

/-! ### Power loss -/

/-- Nothing has changed but the meters and what the cores have been charged up to. -/
def OnlyMetered (s t : State) : Prop := ∃ m ks, t = { s with meters := m, cores := ks }

theorem OnlyMetered.chargeCore (s : State) (c : Nat) : OnlyMetered s (chargeCore s c) := by
  obtain ⟨m, h⟩ := chargeCore_eq s c
  exact ⟨_, _, h⟩

theorem settleMeters_metered (s : State) : OnlyMetered s (settleMeters s) := by
  unfold settleMeters
  generalize s.cores = ks
  induction ks generalizing s with
  | nil => exact ⟨_, _, rfl⟩
  | cons k ks ih =>
    obtain ⟨m, cs, h⟩ := OnlyMetered.chargeCore s k.1
    obtain ⟨m', cs', h'⟩ := ih (chargeCore s k.1)
    exact ⟨m', cs', h'.trans (by rw [h])⟩

theorem fwWrites_none {s : State} (h : s.boot.fwJob = none) : fwWrites s = false := by
  simp only [fwWrites, h]

/-- What a loss of power leaves of the state with its meters settled and a free value taken. -/
def powerLost (s : State) (flash : Flash) : State :=
  { State.reset with
    cores := (List.range 768).map (fun c => (c, { Core.reset with since := s.time, charged := s.time }))
    time := s.time
    free := s.free
    turn := s.turn
    host := s.host
    peers := s.peers
    meters := s.meters
    spSeq := s.spSeq
    flash := flash }

/-- An interrupted command leaves the fuses. -/
theorem interrupted_fuses (f : Flash) (j : Option (Nat × Bool)) :
    (interrupted f j).minSvn = f.minSvn ∧ (interrupted f j).ownerKey = f.ownerKey ∧ (interrupted f j).fused = f.fused := by
  unfold interrupted
  split
  · unfold Flash.setSlot
    split <;> exact ⟨rfl, rfl, rfl⟩
  · unfold Flash.setMarker
    split <;> exact ⟨rfl, rfl, rfl⟩
  · exact ⟨rfl, rfl, rfl⟩
  · exact ⟨rfl, rfl, rfl⟩

theorem exec_powerLoss_lost (s : State) : ∃ flash,
    exec .powerLoss s = .next (powerLost (settleMeters s).takeFree.2 flash)
      ∧ (s.boot.fwJob = none → flash = s.flash) ∧ (flash = s.flash ∨ flash = interrupted s.flash s.boot.fwJob) := by
  obtain ⟨m, ks, h⟩ := settleMeters_metered s
  have hf : (settleMeters s).flash = s.flash := by rw [h]
  have hb : (settleMeters s).boot = s.boot := by rw [h]
  let u := (settleMeters s).takeFree.2
  refine ⟨if fwWrites u && (settleMeters s).takeFree.1 % 2 == 1 then interrupted u.flash u.boot.fwJob else u.flash, rfl,
    fun hj => ?_, ?_⟩
  · rw [fwWrites_none (show u.boot.fwJob = none from (congrArg Booted.fwJob hb).trans hj)]
    exact hf
  · split_ifs
    · exact .inr (congrArg₂ interrupted hf (congrArg Booted.fwJob hb))
    · exact .inl hf

/-- The marker copy to write, by which of the two are valid. -/
theorem markerToWrite_cases (f : Flash) :
    (f.markerValid false = false → markerToWrite f = false)
    ∧ (f.markerValid false = true → f.markerValid true = false → markerToWrite f = true)
    ∧ (f.markerValid false = true → f.markerValid true = true →
      (markerToWrite f = true ↔ markerSeq f.marker1 ≤ markerSeq f.marker0)) := by
  refine ⟨fun h => ?_, fun h h' => ?_, fun h h' => ?_⟩ <;> simp [markerToWrite, *]

/-- Settles O53: boot, then each firmware command by the job in progress, then the loss of power. -/
theorem bootAndFirmware : Obligations.BootAndFirmware := by
  unfold Obligations.BootAndFirmware
  refine ⟨fun s => ⟨fun h => ?_, fun h => ?_⟩, fun s e he => ⟨fun hd hj => ?_, fun j hj hne => ?_⟩, fun s b hj hl => ?_,
    fun s e he hj hl => ?_, fun s b hj => ?_, markerToWrite_cases, fun s hj => ?_, fun s hj hl => ⟨fun k hk => ?_, fun hk => ?_⟩,
    fun s hj hl => ?_, fun s a n => rfl, fun s => ?_⟩
  · rw [exec_boot, execBoot, if_neg (by rw [h]; decide)]
  · rw [exec_boot, execBoot, if_pos h]
  · obtain ⟨effect, hx⟩ := exec_fwCommands he
    rw [hx, fwCommand_begins hd hj]
  · obtain ⟨effect, hx⟩ := exec_fwCommands he
    rw [hx, fwCommand_dropped hj hne]
  · rw [exec_writeSlot, execWriteSlot, fwCommand_effect hj (by rw [hl]; rfl)]
  · obtain ⟨hmem, hreads⟩ := fwReaders e he
    obtain ⟨effect, hx⟩ := exec_fwCommands hmem
    rw [hx, fwCommand_waits hj hreads hl]
  · rw [exec_setMarker, execSetMarker, fwCommand_effect hj rfl]
    cases slotVerifies s.flash b <;> rfl
  · rw [exec_commitSvn, execCommitSvn, fwCommand_effect hj rfl]
  · rw [exec_ownerFuse, execOwnerFuse, fwCommand_effect hj (by rw [hl]; rfl), if_pos (by rw [hk]; rfl)]
  · rw [exec_ownerFuse, execOwnerFuse, fwCommand_effect hj (by rw [hl]; rfl), if_neg (by rw [hk]; decide)]
  · rw [exec_writeConfig, execWriteConfig, fwCommand_effect hj (by rw [hl]; rfl)]
    cases h : recordSigned s.flash (hostDma s s.boot.fwArg.toNat 0x80) <;> simp only [h] <;> rfl
  · obtain ⟨flash, hx, hnone, hone⟩ := exec_powerLoss_lost s
    obtain ⟨m, ks, h⟩ := settleMeters_metered s
    obtain ⟨hmin, hkey, hfused⟩ : flash.minSvn = s.flash.minSvn ∧ flash.ownerKey = s.flash.ownerKey
        ∧ flash.fused = s.flash.fused := by
      rcases hone with rfl | rfl
      · exact ⟨rfl, rfl, rfl⟩
      · exact interrupted_fuses _ _
    exact ⟨_, hx, by rw [h]; rfl, by rw [h]; rfl, by rw [h]; rfl, rfl, rfl, rfl, rfl, rfl, rfl, rfl, rfl, rfl, hmin, hkey, hfused,
      hnone, hone⟩

end Sys2Proof.Machine
end

section
/-!
PROOFS. Errors: what they strike, what counts them.
-/

namespace Sys2Proof.Machine

/-! ### Poison of sectors, and what a soft error strikes -/

theorem isPoisoned_setPoison (m : Memory) (k : Nat) : (m.setPoison k true).isPoisoned k = true :=
  List.contains_iff_mem.2 (mem_setInsert_iff.2 (.inl rfl))

theorem isPoisoned_setPoison_other (m : Memory) {k j : Nat} (h : j ≠ k) :
    (m.setPoison k true).isPoisoned j = m.isPoisoned j := by
  rw [Bool.eq_iff_iff, Memory.isPoisoned, Memory.isPoisoned, List.contains_iff_mem, List.contains_iff_mem]
  exact mem_setInsert_iff.trans (or_iff_right h)

theorem byte_setPoison (m : Memory) (k : Nat) (p : Bool) (y : Nat) : (m.setPoison k p).byte y = m.byte y := rfl

/-- A core whose scratchpad keeps its bytes leaves every byte of every memory. -/
theorem byte_setCore (s : State) (c : Nat) (k : Core) (h : ∀ y, k.scratch.byte y = (s.core c).scratch.byte y)
    (a : Tgt) (y : Nat) : ((s.setCore c k).mem a).byte y = (s.mem a).byte y := by
  cases a with
  | scratch d =>
    by_cases hd : d = c
    · subst hd
      exact (congrArg (fun x : Core => x.scratch.byte y) (core_setCore_same s d k)).trans (h y)
    · exact congrArg (fun x : Core => x.scratch.byte y) (core_setCore_other s c d k hd)
  | hbm => rfl
  | host => rfl
  | peer _ => rfl

theorem setReserve_scratch (k : Core) (n i : Nat) (x : PWord) : (k.setReserve n i x).scratch = k.scratch := by
  unfold Core.setReserve
  split <;> rfl

/-- An error changes no byte of memory. -/
theorem strike_byte (s : State) (e : ErrSite) (a : Tgt) (y : Nat) : ((strike s e).mem a).byte y = (s.mem a).byte y := by
  cases e with
  | corrected => rfl
  | hbm k =>
    simp only [strike]
    split
    · cases a <;> rfl
    · rfl
  | scratch c k =>
    simp only [strike]
    split
    · refine byte_setCore s c _ ?_ a y; exact fun _ => rfl
    · rfl
  | vReg g c n r => exact (SameMem.updLane s g c n _).byte a y
  | sReg g c r => exact (SameMem.updCourse s g c _).byte a y
  | pReg g c n r => exact (SameMem.updLane s g c n _).byte a y
  | special g c n spr =>
    simp only [strike, poisonSpecial]
    split
    · exact (SameMem.updLane s g c n _).byte a y
    · exact (SameMem.updCourse s g c _).byte a y
    · exact (SameMem.updLane s g c n _).byte a y
    · exact (SameMem.updLane s g c n _).byte a y
    · rfl
  | reserve c n r =>
    refine byte_setCore s c _ (fun x => ?_) a y
    rw [setReserve_scratch]
  | tile g i => exact (SameMem.updGroup s g _).byte a y
  | l1 c => refine byte_setCore s c _ ?_ a y; exact fun _ => rfl
  | icache c => refine byte_setCore s c _ ?_ a y; exact fun _ => rfl
  | flash p => cases a <;> rfl

/-- A page of the flash that is bad, in the list. -/
theorem strike_flash (s : State) (k : Nat) :
    ∃ b, strike s (.flash k) = { s with flash := { s.flash with bad := b } } ∧ k ∈ b
      ∧ ∀ j, j ≠ k → (j ∈ b ↔ j ∈ s.flash.bad) := by
  refine ⟨_, rfl, ?_⟩
  split
  · next h => exact ⟨List.contains_iff_mem.1 h, fun _ _ => Iff.rfl⟩
  · exact ⟨List.mem_append_right _ (List.mem_singleton.2 rfl), fun j hj => by simp [hj]⟩

/-! ### RAS_STAT -/

/-- A counter of RAS_STAT. -/
def rasCounter (s : State) (i : Nat) : Nat := bitsNat s.boot.ras.toNat (16 * i + 15) (16 * i)

theorem rasCounter_eq (s : State) (i : Nat) : rasCounter s i = s.boot.ras.toNat / 2 ^ (16 * i) % 65536 := by
  unfold rasCounter bitsNat
  rw [Nat.shiftRight_eq_div_pow, show 16 * i + 15 + 1 - 16 * i = 16 by omega] <;> rfl

theorem countRas_counter (s : State) {k j : Nat} (hk : k < 4) (hj : j < 4) :
    rasCounter (countRas s k) j = if j = k then min 0xFFFF (rasCounter s j + 1) else rasCounter s j := by
  have hv : bitsNat s.boot.ras.toNat (16 * k + 15) (16 * k) = s.boot.ras.toNat / 2 ^ (16 * k) % 65536 := rasCounter_eq s k
  have hlt := s.boot.ras.isLt
  unfold countRas
  rw [hv]
  dsimp only
  split_ifs with hfull hjk hjk
  · subst hjk
    rw [rasCounter_eq]; omega
  · rfl
  · subst hjk
    rw [rasCounter_eq, rasCounter_eq, BitVec.toNat_add, BitVec.toNat_ofNat]
    interval_cases j <;> omega
  · rw [rasCounter_eq, rasCounter_eq, BitVec.toNat_add, BitVec.toNat_ofNat]
    interval_cases j <;> interval_cases k <;> omega

theorem countRas_parts (s : State) (k : Nat) : (countRas s k).parts = s.parts := by
  unfold countRas
  dsimp only
  split <;> rfl

/-- A confirmed failure of a core array: the log has its entry, and the partitions with cores there have the event. -/
theorem katConfirmed_logs {s : State} {k : Nat} (hk : k < 4) (hp : (presentBits s).getLsbD k = true) :
    let ps := (List.range 16).filter (fun p =>
      (s.part p).state != .free && (s.part p).cores.any (fun c => c / 192 == k))
    ∃ ds, (k, false) ∈ ds ∧ (∀ d ∈ s.flash.defects, d ∈ ds) ∧ (∀ d ∈ ds, d = (k, false) ∨ d ∈ s.flash.defects)
      ∧ exec (.katConfirmed k) s = .next (ps.foldl (fun u p => partEvent u p 5 (BitVec.ofNat 64 k))
          (countRas { s with flash := { s.flash with defects := ds } } 2)) := by
  intro ps
  have hno : ¬ (4 ≤ k ∨ (!(presentBits s).getLsbD k) = true) := by
    rw [hp]
    rintro (h | h)
    · omega
    · exact nomatch h
  refine ⟨if s.flash.defects.contains (k, false) then s.flash.defects else s.flash.defects ++ [(k, false)], ?_, ?_, ?_, ?_⟩
  · split
    · next h => exact List.contains_iff_mem.1 h
    · exact List.mem_append_right _ (List.mem_singleton.2 rfl)
  · intro d hd
    split
    · exact hd
    · exact List.mem_append_left _ hd
  · intro d hd
    split at hd
    · exact .inr hd
    · exact (List.mem_append.1 hd).symm.imp_left List.mem_singleton.1
  · rw [exec_katConfirmed, execKatConfirmed, if_neg hno]
    have hpart : ∀ ds p, (countRas { s with flash := { s.flash with defects := ds } } 2).part p = s.part p := fun ds p =>
      congrArg (fun x : Vector Part 16 => if h : p < 16 then x[p] else Part.reset) (countRas_parts { s with flash := { s.flash with defects := ds } } 2)
    simp only [hpart]
    rfl

end Sys2Proof.Machine
end

section
/-!
PROOFS. Register writes: the path of a write, and each register's effect.
-/

namespace Sys2Proof.Machine

/-! ### Register writes -/

/-- The offset of a register, with the T bit above it (log entry 100). -/
def regOff (tb : Bool) (x : Nat) : BitVec 20 := BitVec.ofNat 20 (if tb then 0x80000 + x else x)

theorem regOff_toNat (tb : Bool) {x : Nat} (hx : x < 0x80000) : (regOff tb x).toNat % 0x80000 = x := by
  unfold regOff
  cases tb <;> simp only [BitVec.toNat_ofNat, Bool.false_eq_true, if_false, if_true] <;> omega

theorem regOff_msb (tb : Bool) {x : Nat} (hx : x < 0x80000) : (regOff tb x).msb = tb := by
  unfold regOff
  rw [BitVec.msb_eq_decide]
  cases tb <;> simp only [BitVec.toNat_ofNat, Bool.false_eq_true, if_false, if_true, decide_eq_true_eq, decide_eq_false_iff_not] <;> omega

section
variable {s : State} {fn x : Nat} {tb : Bool} {v : Word}

/-- A write of a function's own register. -/
theorem registerWrite_own (hfn : fn < 16) (hr : s.boot.recovery = false) (hm : mmioReaches s fn tb = true)
    (hx : x < 0x10000) (hp : pfOnly x = false) :
    exec (.registerWrite fn (regOff tb x) v) s = writeOwn fn x v s := by
  have hx' : x < 0x80000 := by omega
  simp only [exec_registerWrite, execRegisterWrite, regOff_toNat tb hx', regOff_msb tb hx', hr, hm, hp]
  rw [if_neg (by omega), if_neg (by decide), if_neg (by omega), if_neg (by omega)]
  rfl

/-- A write of a register of the PF alone. -/
theorem registerWrite_pfOnly (hfn : fn < 16) (hr : s.boot.recovery = false) (hm : mmioReaches s fn tb = true)
    (hx : x < 0x10000) (hp : pfOnly x = true) :
    exec (.registerWrite fn (regOff tb x) v) s = if fn = 0 then writePf x v s else .next s := by
  have hx' : x < 0x80000 := by omega
  simp only [exec_registerWrite, execRegisterWrite, regOff_toNat tb hx', regOff_msb tb hx', hr, hm, hp]
  rw [if_neg (by omega), if_neg (by decide), if_neg (by omega), if_neg (by omega)]
  rfl

/-- A write of configuration space. -/
theorem registerWrite_config (hfn : fn < 16) (hr : s.boot.recovery = false) (hx : 0x10000 ≤ x) (hx' : x < 0x80000) :
    exec (.registerWrite fn (regOff tb x) v) s = .next (writeConfigSpace fn x v s) := by
  simp only [exec_registerWrite, execRegisterWrite, regOff_toNat tb hx', hr]
  rw [if_neg (by omega), if_neg (by decide), if_neg (by omega), if_pos hx]

/-- A write in RECOVERY, which presents the firmware registers of the PF. -/
theorem registerWrite_recovery (hr : s.boot.recovery = true) (hx : x < 0x80000) :
    exec (.registerWrite fn (regOff tb x) v) s = if fn = 0 ∧ 0x800 ≤ x ∧ x < 0x828 then writeFw x v s else .next s := by
  simp only [exec_registerWrite, execRegisterWrite, regOff_toNat tb hx, hr, if_true]
  by_cases h : 17 ≤ fn
  · rw [if_pos h, if_neg (by omega)]
  · rw [if_neg h]

end

theorem frozenWrite_unlocked {s : State} {fn : Nat} (h : tdiLocked s fn = false) (c : Bool) (effect : State → State) :
    frozenWrite s fn c effect = effect s := if_neg (by rw [h]; exact Bool.false_ne_true)

/-- Outside RECOVERY a function presents every register. -/
theorem presents_of {s : State} {fn : Nat} (hr : s.boot.recovery = false) (hfn : fn < 16) (x : Nat) :
    presents s fn x = true := by
  unfold presents
  rw [hr, if_neg (by decide), if_neg (by omega)]

/-- What a write leaves: the register reads as given, and no group and no memory has changed. -/
def WriteReads (out : Out) (s : State) (fn x : Nat) (w : Word) : Prop :=
  ∃ t, out = .next t ∧ readRegister t fn x = w ∧ t.groups = s.groups ∧ ∀ a, t.mem a = s.mem a

theorem writeReads_updFn {s : State} {fn x : Nat} {w : Word} {f : Fn → Fn} {out : Out} (h : out = .next (s.updFn fn f))
    (hr : readRegister (s.updFn fn f) fn x = w) : WriteReads out s fn x w :=
  ⟨_, h, hr, updFn_groups s fn f, (SameMem.updFn s fn f).mem⟩

section
variable {s : State} {fn : Nat} (hr : s.boot.recovery = false) (hfn : fn < 16)
include hr hfn

theorem read_invAddr : readRegister s fn 0x280 = (s.fn fn).invAddr := by
  unfold readRegister; rw [presents_of hr hfn]; rfl
theorem read_ctxArg : readRegister s fn 0x300 = (s.fn fn).ctxArg := by
  unfold readRegister; rw [presents_of hr hfn]; rfl
theorem read_qArg : readRegister s fn 0x340 = (s.fn fn).qArg := by
  unfold readRegister; rw [presents_of hr hfn]; rfl
theorem read_evtBase : readRegister s fn 0x380 = (s.fn fn).evtBase := by
  unfold readRegister; rw [presents_of hr hfn]; rfl
theorem read_evtHead : readRegister s fn 0x390 = (s.fn fn).evtHead := by
  unfold readRegister; rw [presents_of hr hfn]; rfl
theorem read_spArg : readRegister s fn 0x400 = (s.fn fn).spArg := by
  unfold readRegister; rw [presents_of hr hfn]; rfl
theorem read_ringBase : readRegister s fn 0x200 = (s.fn fn).prq1.base := by
  unfold readRegister; rw [presents_of hr hfn]; rfl
theorem read_ringHead : readRegister s fn 0x210 = (s.fn fn).prq1.head.setWidth 64 := by
  unfold readRegister; rw [presents_of hr hfn]; rfl
theorem read_msix {k : Nat} (hk : k < 4) :
    readRegister s fn (0xF000 + 8 * k) = getMsix (s.fn fn) (8 * k + 4) ++ getMsix (s.fn fn) (8 * k) := by
  unfold readRegister; rw [presents_of hr hfn]; interval_cases k <;> rfl

end

/-! ### The registers of a function -/

theorem and_allOnes (v : Word) : v &&& 0xFFFFFFFFFFFFFFFF#64 = v := BitVec.and_allOnes

/-- The two words of an entry of the MSI-X table, read back as written. -/
theorem msix_word (f : Fn) (o : Nat) (v : Word) :
    getMsix (putMsix (putMsix f o (v.setWidth 32)) (o + 4) (v.extractLsb' 32 32)) (o + 4)
      ++ getMsix (putMsix (putMsix f o (v.setWidth 32)) (o + 4) (v.extractLsb' 32 32)) o = v := by
  have hhi : getMsix (putMsix (putMsix f o (v.setWidth 32)) (o + 4) (v.extractLsb' 32 32)) (o + 4) = v.extractLsb' 32 32 := by
    simp only [getMsix, putMsix, alGet_alSet_same, Option.getD_some]
  have hlo : getMsix (putMsix (putMsix f o (v.setWidth 32)) (o + 4) (v.extractLsb' 32 32)) o = v.setWidth 32 := by
    simp only [getMsix, putMsix, alGet_alSet_other _ _ _ _ (show o ≠ o + 4 by omega), alGet_alSet_same, Option.getD_some]
  rw [hhi, hlo]
  apply BitVec.eq_of_toNat_eq
  rw [BitVec.toNat_append, BitVec.extractLsb'_toNat, BitVec.toNat_setWidth, Nat.shiftRight_eq_div_pow,
    ← Nat.shiftLeft_add_eq_or_of_lt (Nat.mod_lt _ (by decide)), Nat.shiftLeft_eq]
  have := v.isLt
  omega

theorem writeMsix_unlocked {s : State} {fn : Nat} (h : tdiLocked s fn = false) (o : Nat) (v : Word) :
    writeMsix s fn o v
      = s.updFn fn (fun f => putMsix (putMsix f o (v.setWidth 32)) (o + 4) (v.extractLsb' 32 32)) := by
  unfold writeMsix
  exact frozenWrite_unlocked h _ _

/-- A block whose address is not aligned has no MAGIC. -/
theorem spBlock_magic (b : CmdBlock) (arg : Nat) :
    (arg % 64 = 0 → (spBlock b arg).bytes = b.bytes) ∧ (arg % 64 ≠ 0 → fieldAt (natOfBytes (spBlock b arg).bytes) 0 4 = 0) := by
  refine ⟨fun h => by rw [spBlock, if_pos h], fun h => ?_⟩
  rw [spBlock, if_neg h]
  simp only [fieldAt, natOfBytes]
  simp
  omega

theorem and_low16 (v : Word) : (v.setWidth 16).setWidth 64 = v &&& 0xFFFF#64 := by
  apply BitVec.eq_of_toNat_eq
  rw [BitVec.toNat_and, BitVec.toNat_setWidth, BitVec.toNat_setWidth, show (0xFFFF#64).toNat = 2 ^ 16 - 1 from rfl,
    Nat.and_two_pow_sub_one_eq_mod]
  omega

section
variable {s : State} {fn : Nat} {tb : Bool} (v : Word) (hfn : fn < 16) (hr : s.boot.recovery = false)
  (hm : mmioReaches s fn tb = true)
include hfn hr hm

/-- The registers that hold a value, whatever the interface. -/
theorem registerWrite_holds :
    ∀ e ∈ [(0x280, 0xFFFFFFFFFFFFF000#64), (0x300, 0xFFFFFFFFFFFFFFFF#64), (0x340, 0xFFFFFFFFFFFFFFFF#64),
      (0x390, 0xFFFFFFFFFFFFFFFF#64), (0x400, 0xFFFFFFFFFFFFFFFF#64), (0x210, 0xFFFF#64)],
      WriteReads (exec (.registerWrite fn (regOff tb e.1) v) s) s fn e.1 (v &&& e.2) := by
  have hrec : ∀ f : Fn → Fn, (s.updFn fn f).boot.recovery = false := fun f => by rw [updFn_boot]; exact hr
  have htakes : takesMmio s fn = true := (Bool.and_eq_true_iff.1 hm).1
  have hown : ∀ x, x < 0x10000 → pfOnly x = false → exec (.registerWrite fn (regOff tb x) v) s = writeOwn fn x v s :=
    fun x hx hp => registerWrite_own hfn hr hm hx hp
  simp only [List.forall_mem_cons]
  refine ⟨?_, ?_, ?_, ?_, ?_, ?_, List.forall_mem_nil _⟩
  · exact writeReads_updFn (hown _ (by decide) rfl) (by rw [read_invAddr (hrec _) hfn, fn_updFn_same _ _ _ hfn]; rfl)
  · exact writeReads_updFn (hown _ (by decide) rfl) (by rw [read_ctxArg (hrec _) hfn, fn_updFn_same _ _ _ hfn, and_allOnes])
  · exact writeReads_updFn (hown _ (by decide) rfl) (by rw [read_qArg (hrec _) hfn, fn_updFn_same _ _ _ hfn, and_allOnes])
  · refine writeReads_updFn ((hown _ (by decide) rfl).trans (if_neg (by rw [htakes]; decide)))
      (by rw [read_evtHead (hrec _) hfn, fn_updFn_same _ _ _ hfn, and_allOnes])
  · exact writeReads_updFn (hown _ (by decide) rfl) (by rw [read_spArg (hrec _) hfn, fn_updFn_same _ _ _ hfn, and_allOnes])
  · refine ⟨_, hown _ (by decide) rfl, ?_, updFn_groups s fn _, (SameMem.updFn s fn _).mem⟩
    refine (read_ringHead (hrec _) hfn).trans ?_
    exact (congrArg (fun f : Fn => f.prq1.head.setWidth 64) (fn_updFn_same s fn _ hfn)).trans (and_low16 v)

/-- Those that a locked interface freezes. -/
theorem registerWrite_frozen (hl : tdiLocked s fn = false) :
    WriteReads (exec (.registerWrite fn (regOff tb 0x380) v) s) s fn 0x380 (v &&& 0xFFFFFFFFFFFFF007#64)
    ∧ (∀ k, k < 4 → WriteReads (exec (.registerWrite fn (regOff tb (0xF000 + 8 * k)) v) s) s fn (0xF000 + 8 * k) v)
    ∧ (v.toNat % 8 ≠ 7 → v.toNat % 4096 / 8 = 0 →
      WriteReads (exec (.registerWrite fn (regOff tb 0x200) v) s) s fn 0x200 v) := by
  have hrec : ∀ f : Fn → Fn, (s.updFn fn f).boot.recovery = false := fun f => by rw [updFn_boot]; exact hr
  have htakes : takesMmio s fn = true := (Bool.and_eq_true_iff.1 hm).1
  have hown : ∀ x, x < 0x10000 → pfOnly x = false → exec (.registerWrite fn (regOff tb x) v) s = writeOwn fn x v s :=
    fun x hx hp => registerWrite_own hfn hr hm hx hp
  refine ⟨?_, fun k hk => ?_, fun h7 h0 => ?_⟩
  · refine writeReads_updFn ((hown _ (by decide) rfl).trans (congrArg Host.Outcome.next (frozenWrite_unlocked hl _ _))) ?_
    rw [read_evtBase (hrec _) hfn, fn_updFn_same _ _ _ hfn]
    rfl
  · have hw : exec (.registerWrite fn (regOff tb (0xF000 + 8 * k)) v) s = .next (writeMsix s fn (8 * k) v) := by
      rw [hown _ (by omega) (by interval_cases k <;> rfl)]
      interval_cases k <;> rfl
    refine writeReads_updFn (hw.trans (congrArg Host.Outcome.next (writeMsix_unlocked hl _ _))) ?_
    rw [read_msix (hrec _) hfn hk, fn_updFn_same _ _ _ hfn]
    exact msix_word _ _ _
  · have hw : exec (.registerWrite fn (regOff tb 0x200) v) s
        = .next ((updRing s fn 1 (fun r => { r with base := v, seq := 0 })).post (.prqEntryWrite fn 1)) := by
      rw [hown _ (by decide) rfl]
      refine (if_neg (by omega)).trans ((if_neg (by rw [htakes, hr]; decide)).trans ?_)
      exact congrArg Host.Outcome.next (frozenWrite_unlocked hl _ _)
    refine ⟨_, hw, ?_, updFn_groups s fn _, (SameMem.updFn s fn _).mem⟩
    refine (read_ringBase (hrec _) hfn).trans ?_
    exact congrArg (fun f : Fn => f.prq1.base) (fn_updFn_same s fn _ hfn)

/-- Those that take no write, and the commands of the security processor. -/
theorem registerWrite_nothing :
    (∀ x ∈ [0x008, 0x208, 0x220, 0x290, 0x310, 0x350, 0x388, 0x398, 0x410, 0x418, 0x420, 0x500, 0x1000, 0x8000, 0xF800],
      exec (.registerWrite fn (regOff tb x) v) s = .next s)
    ∧ (∀ x, fn ≠ 0 → x < 0x10000 → pfOnly x = true → exec (.registerWrite fn (regOff tb x) v) s = .next s) := by
  refine ⟨?_, fun x hne hx hp => (registerWrite_pfOnly hfn hr hm hx hp).trans (if_neg hne)⟩
  have hown : ∀ x, x < 0x10000 → pfOnly x = false → exec (.registerWrite fn (regOff tb x) v) s = writeOwn fn x v s :=
    fun x hx hp => registerWrite_own hfn hr hm hx hp
  simp only [List.forall_mem_cons]
  refine ⟨?_, ?_, ?_, ?_, ?_, ?_, ?_, ?_, ?_, ?_, ?_, ?_, ?_, ?_, ?_, List.forall_mem_nil _⟩ <;>
    exact hown _ (by decide) rfl

/-- A write of SP_CMD. -/
theorem registerWrite_spCmd :
    (v.getLsbD 0 = false ∨ (s.fn fn).spStat.busy = true → exec (.registerWrite fn (regOff tb 0x408) v) s = .next s)
    ∧ (v.getLsbD 0 = true → (s.fn fn).spStat.busy = false →
      let b := spBlock ⟨s.host.bytes (s.fn fn).spArg.toNat 384⟩ (s.fn fn).spArg.toNat
      exec (.registerWrite fn (regOff tb 0x408) v) s = .next ((spBegin s fn b).post (spStep fn b))) := by
  have hw : exec (.registerWrite fn (regOff tb 0x408) v) s = writeSpCmd fn v s :=
    registerWrite_own hfn hr hm (by decide) rfl
  rw [hw]
  refine ⟨fun h => if_pos ?_, fun h0 hb => if_neg ?_⟩
  · rcases h with h | h <;> rw [h] <;> simp
  · rw [h0, hb]; decide

end

/-! ### Commands by register -/

section
variable (id : BitVec 16) (rest : BitVec 40) (op : BitVec 8)

/-- The fields of a command word. -/
theorem command_fields : (id ++ rest ++ op).extractLsb' 48 16 = id ∧ (id ++ rest ++ op).extractLsb' 8 40 = rest
    ∧ (id ++ rest ++ op).setWidth 8 = op := by
  have hn : (id ++ rest ++ op).toNat = (id.toNat * 2 ^ 40 + rest.toNat) * 2 ^ 8 + op.toNat := by
    rw [BitVec.toNat_append, BitVec.toNat_append, ← Nat.shiftLeft_add_eq_or_of_lt rest.isLt,
      ← Nat.shiftLeft_add_eq_or_of_lt op.isLt, Nat.shiftLeft_eq, Nat.shiftLeft_eq]
  have hid := id.isLt
  have hrest := rest.isLt
  have hop := op.isLt
  refine ⟨?_, ?_, ?_⟩ <;> apply BitVec.eq_of_toNat_eq
  · rw [BitVec.extractLsb'_toNat, Nat.shiftRight_eq_div_pow, hn]; omega
  · rw [BitVec.extractLsb'_toNat, Nat.shiftRight_eq_div_pow, hn]; omega
  · rw [BitVec.toNat_setWidth, hn]; omega

/-- A reserved bit or an unlisted OP of CTX_CMD. -/
theorem writeCtxCmd_bad {s : State} {fn : Nat} (hb : (s.fn fn).ctxStat.busy = false) (h : rest ≠ 0 ∨ op = 0 ∨ 8 ≤ op.toNat) :
    writeCtxCmd fn (id ++ rest ++ op) s = .next (endCtx (beginCtx s fn id op) fn 6) := by
  obtain ⟨hid, hrest, hop⟩ := command_fields id rest op
  simp only [writeCtxCmd, hid, hrest, hop]
  rw [if_pos h, hb, if_neg (by decide)]

theorem writeQCmd_bad {s : State} {fn : Nat} (hb : (s.fn fn).qStat.busy = false) (h : rest ≠ 0 ∨ op = 0 ∨ 4 ≤ op.toNat) :
    writeQCmd fn (id ++ rest ++ op) s = .next (endQ (beginQ s fn id op) fn 6) := by
  obtain ⟨hid, hrest, hop⟩ := command_fields id rest op
  simp only [writeQCmd, hid, hrest, hop]
  rw [if_pos h, hb, if_neg (by decide)]

end

/-- CTX_CMD with a listed OP runs its command. -/
theorem writeCtxCmd_runs (fn : Nat) (id : BitVec 16) (s : State) :
    writeCtxCmd fn (id ++ (0 : BitVec 40) ++ (1 : BitVec 8)) s = execCtxCreate fn id s
    ∧ writeCtxCmd fn (id ++ (0 : BitVec 40) ++ (2 : BitVec 8)) s = execCtxDestroy fn id s
    ∧ writeCtxCmd fn (id ++ (0 : BitVec 40) ++ (3 : BitVec 8)) s = execLoadObject fn id s
    ∧ writeCtxCmd fn (id ++ (0 : BitVec 40) ++ (4 : BitVec 8)) s = execUnloadObject fn id s
    ∧ writeCtxCmd fn (id ++ (0 : BitVec 40) ++ (5 : BitVec 8)) s = execSave fn id s
    ∧ writeCtxCmd fn (id ++ (0 : BitVec 40) ++ (6 : BitVec 8)) s = execRestore fn id s
    ∧ writeCtxCmd fn (id ++ (0 : BitVec 40) ++ (7 : BitVec 8)) s = execCheckpoint fn id s := by
  refine ⟨?_, ?_, ?_, ?_, ?_, ?_, ?_⟩ <;>
    (unfold writeCtxCmd; rw [(command_fields id 0 _).1, (command_fields id 0 _).2.1, (command_fields id 0 _).2.2]; rfl)

theorem writeQCmd_runs (fn : Nat) (id : BitVec 16) (s : State) :
    writeQCmd fn (id ++ (0 : BitVec 40) ++ (1 : BitVec 8)) s = execQCreate fn id s
    ∧ writeQCmd fn (id ++ (0 : BitVec 40) ++ (2 : BitVec 8)) s = execQDestroy fn id s
    ∧ writeQCmd fn (id ++ (0 : BitVec 40) ++ (3 : BitVec 8)) s = execQClear fn id s := by
  refine ⟨?_, ?_, ?_⟩ <;>
    (unfold writeQCmd; rw [(command_fields id 0 _).1, (command_fields id 0 _).2.1, (command_fields id 0 _).2.2]; rfl)

/-- The fields of an invalidation command. -/
theorem invCmd_fields (id seq : BitVec 16) (pages : BitVec 6) (kind : BitVec 2) :
    let w := id ++ seq ++ pages ++ kind ++ (0 : BitVec 24)
    w.extractLsb' 48 16 = id ∧ w.extractLsb' 32 16 = seq ∧ w.extractLsb' 26 6 = pages
      ∧ bitsNat w.toNat 25 24 = kind.toNat := by
  intro w
  have hn : w.toNat = (((id.toNat * 2 ^ 16 + seq.toNat) * 2 ^ 6 + pages.toNat) * 2 ^ 2 + kind.toNat) * 2 ^ 24 := by
    simp only [w]
    rw [BitVec.toNat_append, BitVec.toNat_append, BitVec.toNat_append, BitVec.toNat_append,
      ← Nat.shiftLeft_add_eq_or_of_lt seq.isLt, ← Nat.shiftLeft_add_eq_or_of_lt pages.isLt,
      ← Nat.shiftLeft_add_eq_or_of_lt kind.isLt, ← Nat.shiftLeft_add_eq_or_of_lt (BitVec.isLt (0 : BitVec 24)),
      Nat.shiftLeft_eq, Nat.shiftLeft_eq, Nat.shiftLeft_eq, Nat.shiftLeft_eq,
      show (0 : BitVec 24).toNat = 0 from rfl, Nat.add_zero]
  have hid := id.isLt
  have hseq := seq.isLt
  have hpages := pages.isLt
  have hkind := kind.isLt
  refine ⟨?_, ?_, ?_, ?_⟩
  · apply BitVec.eq_of_toNat_eq
    rw [BitVec.extractLsb'_toNat, Nat.shiftRight_eq_div_pow, hn]; omega
  · apply BitVec.eq_of_toNat_eq
    rw [BitVec.extractLsb'_toNat, Nat.shiftRight_eq_div_pow, hn]; omega
  · apply BitVec.eq_of_toNat_eq
    rw [BitVec.extractLsb'_toNat, Nat.shiftRight_eq_div_pow, hn]; omega
  · rw [bitsNat, Nat.shiftRight_eq_div_pow, hn]; omega

theorem writeInvCmd_runs (fn : Nat) (id seq : BitVec 16) (pages : BitVec 6) (s : State) :
    writeInvCmd fn (id ++ seq ++ pages ++ (0 : BitVec 2) ++ (0 : BitVec 24)) s = execInvContextAll fn id seq s
    ∧ writeInvCmd fn (id ++ seq ++ pages ++ (1 : BitVec 2) ++ (0 : BitVec 24)) s = execInvContextRange fn id pages seq s
    ∧ writeInvCmd fn (id ++ seq ++ pages ++ (2 : BitVec 2) ++ (0 : BitVec 24)) s = execInvStage2All fn seq s
    ∧ writeInvCmd fn (id ++ seq ++ pages ++ (3 : BitVec 2) ++ (0 : BitVec 24)) s = execInvStage2Range fn pages seq s := by
  obtain ⟨hid0, hseq0, -, hk0⟩ := invCmd_fields id seq pages 0
  obtain ⟨hid1, hseq1, hpages1, hk1⟩ := invCmd_fields id seq pages 1
  obtain ⟨-, hseq2, -, hk2⟩ := invCmd_fields id seq pages 2
  obtain ⟨-, hseq3, hpages3, hk3⟩ := invCmd_fields id seq pages 3
  refine ⟨?_, ?_, ?_, ?_⟩
  · simp only [writeInvCmd, hid0, hseq0, hk0]; rfl
  · simp only [writeInvCmd, hid1, hseq1, hpages1, hk1]; rfl
  · simp only [writeInvCmd, hseq2, hk2]; rfl
  · simp only [writeInvCmd, hseq3, hpages3, hk3]; rfl

/-! ### The registers of the PF alone -/

section
variable {s : State} (v : Word) (hr : s.boot.recovery = false) (ht : takesMmio s 0 = true) (hl : tdiLocked s 0 = false)
include hr ht hl

/-- A write of one of them by the PF. -/
theorem registerWrite_pf {x : Nat} (hx : x < 0x10000) (hp : pfOnly x = true) :
    exec (.registerWrite 0 (BitVec.ofNat 20 x) v) s = writePf x v s :=
  registerWrite_pfOnly (tb := false) (by decide) hr (by rw [mmioReaches, ht, hl]; rfl) hx hp

/-- The dump and firmware registers that hold a value. -/
theorem registerWrite_pfHolds :
    (∃ t, exec (.registerWrite 0 (BitVec.ofNat 20 0x700) v) s = .next t
      ∧ readRegister t 0 0x700 = v &&& 0xFFFFFFFFFFFFF000#64 ∧ t.groups = s.groups)
    ∧ ∃ t, exec (.registerWrite 0 (BitVec.ofNat 20 0x800) v) s = .next t ∧ readRegister t 0 0x800 = v ∧ t.groups = s.groups := by
  refine ⟨⟨{ s with boot := { s.boot with dumpHost := pageBits v } }, registerWrite_pf v hr ht hl (by decide) rfl, ?_, rfl⟩,
    ⟨{ s with boot := { s.boot with fwArg := v } }, registerWrite_pf v hr ht hl (by decide) rfl, ?_, rfl⟩⟩
  · unfold readRegister
    rw [presents_of (by exact hr) (by decide)]
    rfl
  · unfold readRegister
    rw [presents_of (by exact hr) (by decide)]
    rfl

/-- Those that take no write. -/
theorem registerWrite_pfNothing :
    ∀ x ∈ [0x600, 0x640, 0x710, 0x810, 0x820], exec (.registerWrite 0 (BitVec.ofNat 20 x) v) s = .next s := by
  simp only [List.forall_mem_cons]
  refine ⟨?_, ?_, ?_, ?_, ?_, List.forall_mem_nil _⟩ <;> exact registerWrite_pf v hr ht hl (by decide) rfl

/-- The registers of the functions and partitions, by their number. -/
theorem registerWrite_pfBanks (k : Nat) :
    (k < 12 → exec (.registerWrite 0 (BitVec.ofNat 20 (0x6A0 + 8 * k)) v) s
      = if v.getLsbD 0 then exec (.lnkReset 0 k) s else .next s)
    ∧ (1 ≤ k → k < 16 → exec (.registerWrite 0 (BitVec.ofNat 20 (0x4800 + 8 * k)) v) s = exec (.fnPauseWrite k v) s)
    ∧ (k < 16 → exec (.registerWrite 0 (BitVec.ofNat 20 (0x4000 + 0x40 * k)) v) s = exec (.prqBaseWrite k 2 v) s
      ∧ exec (.registerWrite 0 (BitVec.ofNat 20 (0x4018 + 0x40 * k)) v) s = exec (.prqReply k 2 v) s
      ∧ ∀ o, o < 256 → exec (.registerWrite 0 (BitVec.ofNat 20 (0x5000 + 0x100 * k + o)) v) s
        = exec (.weightWrite k o (v.setWidth 8)) s) := by
  have hpf : ∀ {x}, x < 0x10000 → (0x600 ≤ x ∧ x < 0x830) ∨ (0x4000 ≤ x ∧ x < 0x6000) →
      exec (.registerWrite 0 (BitVec.ofNat 20 x) v) s = writePf x v s :=
    fun hx hp => registerWrite_pf v hr ht hl hx (decide_eq_true hp)
  refine ⟨fun hk => ?_, fun h1 hk => ?_, fun hk => ⟨?_, ?_, fun o ho => ?_⟩⟩
  · rw [hpf (by omega) (.inl (by omega)), exec_lnkReset, writePf, if_pos (by omega), Nat.add_sub_cancel_left,
      Nat.mul_div_cancel_left _ (by decide)]
  · rw [hpf (by omega) (.inr (by omega)), exec_fnPauseWrite, writePf, if_neg (by omega), if_neg (by omega), if_neg (by omega),
      if_neg (by omega), if_pos (by omega), Nat.add_sub_cancel_left, Nat.mul_div_cancel_left _ (by decide)]
  · rw [hpf (by omega) (.inr (by omega)), exec_prqBaseWrite, writePf, if_neg (by omega), if_neg (by omega), if_neg (by omega),
      if_pos (by omega), Nat.add_sub_cancel_left, Nat.mul_div_cancel_left _ (by decide), Nat.mul_mod_right]
    rfl
  · rw [hpf (by omega) (.inr (by omega)), exec_prqReply, writePf, if_neg (by omega), if_neg (by omega), if_neg (by omega),
      if_pos (by omega), show (0x4018 + 0x40 * k - 0x4000) / 0x40 = k by omega,
      show (0x4018 + 0x40 * k - 0x4000) % 0x40 = 0x18 by omega]
    rfl
  · rw [hpf (by omega) (.inr (by omega)), exec_weightWrite, writePf, if_neg (by omega), if_neg (by omega), if_neg (by omega),
      if_neg (by omega), if_neg (by omega), if_pos (by omega), show (0x5000 + 0x100 * k + o - 0x5000) / 0x100 = k by omega,
      show (0x5000 + 0x100 * k + o - 0x5000) % 0x100 = o by omega]

end

/-- FW_CMD while no command is in progress. -/
theorem writeFwCmd_runs {s : State} (hj : s.boot.fwJob = none) :
    writeFwCmd 1 s = execWriteSlot false s ∧ writeFwCmd 0x101 s = execWriteSlot true s
    ∧ writeFwCmd 2 s = execSetMarker false s ∧ writeFwCmd 0x102 s = execSetMarker true s
    ∧ writeFwCmd 3 s = execCommitSvn s ∧ writeFwCmd 4 s = execOwnerFuse s ∧ writeFwCmd 5 s = execWriteConfig s := by
  refine ⟨?_, ?_, ?_, ?_, ?_, ?_, ?_⟩ <;> (simp only [writeFwCmd, hj, Option.isSome_none, Bool.false_eq_true, if_false]; rfl)

theorem writeFwCmd_bad {s : State} {v : Word} (hj : s.boot.fwJob = none)
    (h : v.toNat / 512 ≠ 0 ∨ v.toNat % 256 = 0 ∨ 6 ≤ v.toNat % 256) : writeFwCmd v s = .next (fwEnd s 1) := by
  simp only [writeFwCmd, hj, Option.isSome_none, Bool.false_eq_true, if_false]
  exact if_pos h

/-- Settles O54: what errors strike and count, then the writes of registers by their offsets. -/
theorem errorsAndRegisters : Obligations.ErrorsAndRegisters := by
  unfold Obligations.ErrorsAndRegisters
  refine ⟨⟨fun s => ⟨?_, fun e he => ?_⟩, fun s c g n r k => ?_,
      fun m k => ⟨isPoisoned_setPoison m k, fun j hj => isPoisoned_setPoison_other m hj, fun _ => rfl⟩,
      fun s k j hk hj => countRas_counter s hk hj, fun s k hk => ?_, fun s k hk hp => katConfirmed_logs hk hp⟩,
    fun s fn v tb hfn hr hm => ?_, fun s fn id tb hfn hr hm => ?_, fun s v k hr ht hl => ?_, fun s fn v hfn hr => ?_,
    fun s fn x v hr hx => ⟨fun h => ?_, ?_⟩⟩
  · rw [exec_softError, execSoftError, if_pos rfl]
  · rw [exec_softError, execSoftError, if_neg he]
  · exact ⟨fun h => if_pos (by omega), fun h => if_pos h, rfl, rfl, rfl, rfl, rfl, rfl, rfl, rfl, rfl, rfl, rfl,
      strike_flash s k, strike_byte s⟩
  · rw [exec_patrolScrub, execPatrolScrub, if_pos (by omega)]
    rfl
  · have hown : ∀ x, x < 0x10000 → pfOnly x = false → exec (.registerWrite fn (regOff tb x) v) s = writeOwn fn x v s :=
      fun x hx hp => registerWrite_own hfn hr hm hx hp
    obtain ⟨hsp, hsp'⟩ := registerWrite_spCmd v hfn hr hm
    obtain ⟨hno, hpf⟩ := registerWrite_nothing v hfn hr hm
    obtain ⟨hal, hun⟩ := spBlock_magic ⟨s.host.bytes (s.fn fn).spArg.toNat 384⟩ (s.fn fn).spArg.toNat
    exact ⟨registerWrite_holds v hfn hr hm, fun hl => registerWrite_frozen v hfn hr hm hl,
      fun h => (hown 0x200 (by decide) rfl).trans (if_pos h), hown 0x218 (by decide) rfl, hsp,
      fun h0 hb => ⟨hsp' h0 hb, hal, hun⟩, hno, hpf⟩
  · have hown : ∀ x v, x < 0x10000 → pfOnly x = false → exec (.registerWrite fn (regOff tb x) v) s = writeOwn fn x v s :=
      fun x v hx hp => registerWrite_own hfn hr hm hx hp
    have hctx : ∀ v, exec (.registerWrite fn (regOff tb 0x308) v) s = writeCtxCmd fn v s := fun v => hown _ v (by decide) rfl
    have hq : ∀ v, exec (.registerWrite fn (regOff tb 0x348) v) s = writeQCmd fn v s := fun v => hown _ v (by decide) rfl
    have hinv : ∀ v, exec (.registerWrite fn (regOff tb 0x288) v) s = writeInvCmd fn v s := fun v => hown _ v (by decide) rfl
    obtain ⟨c1, c2, c3, c4, c5, c6, c7⟩ := writeCtxCmd_runs fn id s
    obtain ⟨q1, q2, q3⟩ := writeQCmd_runs fn id s
    exact ⟨⟨(hctx _).trans c1, (hctx _).trans c2, (hctx _).trans c3, (hctx _).trans c4, (hctx _).trans c5, (hctx _).trans c6,
        (hctx _).trans c7⟩, ⟨(hq _).trans q1, (hq _).trans q2, (hq _).trans q3⟩,
      fun rest op hb h => (hctx _).trans (writeCtxCmd_bad id rest op hb h),
      fun rest op hb h => (hq _).trans (writeQCmd_bad id rest op hb h), fun seq pages => by
        obtain ⟨i0, i1, i2, i3⟩ := writeInvCmd_runs fn id seq pages s
        cases tb <;> exact ⟨(hinv _).trans i0, (hinv _).trans i1, (hinv _).trans i2, (hinv _).trans i3⟩⟩
  · obtain ⟨h700, h800⟩ := registerWrite_pfHolds v hr ht hl
    obtain ⟨hlnk, hpause, hbanks⟩ := registerWrite_pfBanks v hr ht hl k
    have hfw : exec (.registerWrite 0 (BitVec.ofNat 20 0x808) v) s = writeFwCmd v s := registerWrite_pf v hr ht hl (by decide) rfl
    refine ⟨h700, h800, registerWrite_pf v hr ht hl (by decide) rfl, fun hj => ?_, hlnk, hpause, hbanks,
      registerWrite_pfNothing v hr ht hl⟩
    obtain ⟨w1, w2, w3, w4, w5, w6, w7⟩ := writeFwCmd_runs hj
    exact ⟨fun h => hfw.trans (h ▸ w1), fun h => hfw.trans (h ▸ w2), fun h => hfw.trans (h ▸ w3), fun h => hfw.trans (h ▸ w4), fun h => hfw.trans (h ▸ w5), fun h => hfw.trans (h ▸ w6), fun h => hfw.trans (h ▸ w7),
      fun h => hfw.trans (writeFwCmd_bad hj h)⟩
  · have hcfg : ∀ x, 0x10000 ≤ x → x < 0x80000 →
        exec (.registerWrite fn (BitVec.ofNat 20 x) v) s = .next (writeConfigSpace fn x v s) :=
      fun x hx hx' => registerWrite_config (tb := false) hfn hr hx hx'
    refine ⟨fun hl => ⟨?_, ?_⟩, fun hl hne => ?_⟩
    · refine (hcfg _ (by decide) (by decide)).trans (congrArg Host.Outcome.next ?_)
      unfold writeConfigSpace
      exact frozenWrite_unlocked hl _ _
    · refine (hcfg _ (by decide) (by decide)).trans (congrArg Host.Outcome.next ?_)
      unfold writeConfigSpace
      exact frozenWrite_unlocked hl _ _
    · exact (hcfg _ (by decide) (by decide)).trans (congrArg Host.Outcome.next (if_pos (by rw [hl]; exact bne_iff_ne.2 hne)))
  · exact (registerWrite_recovery (tb := false) hr (by omega)).trans (if_neg (by omega))
  · refine ⟨{ s with boot := { s.boot with fwArg := v } }, registerWrite_recovery (tb := false) hr (by decide), ?_⟩
    unfold readRegister presents
    rw [show ({ s with boot := { s.boot with fwArg := v } } : State).boot.recovery = true from hr]
    rfl

end Sys2Proof.Machine
end

section
/-!
PROOFS. Code objects: the check of a page, and the ends of a load and of an object.
-/

namespace Sys2Proof.Machine

/-! ### What wakes lanes -/

/-- Nothing has changed but the steps due. -/
def OnlyAgenda (s t : State) : Prop := ∃ a, t = { s with agenda := a }

theorem OnlyAgenda.refl (s : State) : OnlyAgenda s s := ⟨_, rfl⟩

theorem OnlyAgenda.trans {s t u : State} (h : OnlyAgenda s t) (h' : OnlyAgenda t u) : OnlyAgenda s u := by
  obtain ⟨_, rfl⟩ := h
  obtain ⟨a, rfl⟩ := h'
  exact ⟨a, rfl⟩

theorem OnlyAgenda.foldl {α : Type} {f : State → α → State} (hf : ∀ s a, OnlyAgenda s (f s a)) (xs : List α) (s : State) :
    OnlyAgenda s (xs.foldl f s) := by
  induction xs generalizing s with
  | nil => exact .refl s
  | cons a xs ih => exact (hf s a).trans (ih _)

theorem OnlyAgenda.wakeGroup (s : State) (g : Nat) : OnlyAgenda s (wakeGroup s g) := by
  unfold Machine.wakeGroup
  split
  · exact .refl s
  · refine .foldl (fun s c => .foldl (fun s n => ?_) _ s) _ s
    dsimp only
    split
    · exact ⟨_, rfl⟩
    · exact .refl s

theorem OnlyAgenda.wakeAll (s : State) : OnlyAgenda s (wakeAll s) := by
  refine .foldl (fun s e => ?_) _ s
  split
  · exact .wakeGroup s e.1
  · exact .refl s

/-! ### The check of a page -/

section
variable {s t : State} {h page : Nat} {o : Obj}

theorem codePageCheck_of (ho : alGet s.objects h = some o) (hp : o.pages.getD page .absent = .loading)
    (hu : o.state ≠ .unloaded) :
    (checkPage s h page o = (.wait, t) →
      exec (.codePageCheckComplete h page) s = .next (t.post (.codePageCheckComplete h page)))
    ∧ (checkPage s h page o = (.good, t) → exec (.codePageCheckComplete h page) s = .next (wakeAll (setPage t h page .present)))
    ∧ (checkPage s h page o = (.failed, t) → exec (.codePageCheckComplete h page) s = .next (failPages t h page o)) := by
  rw [exec_codePageCheckComplete]
  unfold execCodePageCheckComplete
  generalize @checkPage = R
  simp only [ho, hp, hu, ne_eq, not_true_eq_false, or_self, if_false]
  exact ⟨fun hc => by rw [hc], fun hc => by rw [hc], fun hc => by rw [hc]⟩

end

/-- Of the pages given, those that fail are among them. -/
theorem failingPages_sub (h : Nat) (o : Obj) (ks : List Nat) (s : State) : ∀ k ∈ (failingPages h o ks s).1, k ∈ ks := by
  induction ks generalizing s with
  | nil => exact fun k hk => hk
  | cons j ks ih =>
    intro k hk
    simp only [failingPages] at hk
    split at hk
    · rcases List.mem_cons.1 hk with rfl | hk
      · exact List.mem_cons_self
      · exact List.mem_cons_of_mem _ (ih _ k hk)
    · exact List.mem_cons_of_mem _ (ih _ k hk)

/-! ### The end of an object -/

theorem alGet_map_snd {α β : Type} (l : List (Nat × α)) (f : α → β) (k : Nat) :
    alGet (l.map (fun e => (e.1, f e.2))) k = (alGet l k).map f := by
  induction l with
  | nil => rfl
  | cons e l ih =>
    simp only [List.map_cons, alGet]
    split_ifs
    · rfl
    · exact ih

/-- An object with its text, data and bindings released. -/
def Obj.unload (o : Obj) : Obj := { o with state := .unloaded, bound := [], ranges := [], pages := [] }

theorem unloadNow_eq {s : State} {h : Nat} {o : Obj} (ho : alGet s.objects h = some o) :
    ∃ a, unloadNow s h = { dropLines s o with objects := alSet s.objects h o.unload, agenda := a } := by
  have hu : (dropLines s o).updObj h Obj.unload = { dropLines s o with objects := alSet s.objects h o.unload } := by
    unfold State.updObj
    rw [show alGet (dropLines s o).objects h = some o from ho]
    rfl
  obtain ⟨a, hw⟩ := OnlyAgenda.wakeAll { dropLines s o with objects := alSet s.objects h o.unload }
  refine ⟨a, ?_⟩
  unfold unloadNow
  rw [ho]
  exact (congrArg wakeAll hu).trans hw

/-- A core without an object's lines. -/
def Core.withoutLines (o : Obj) (c : Core) : Core :=
  { c with icache := c.icache.filter (fun l =>
      !(l.1.2 == o.ctx && decide (o.textVa ≤ l.1.1 ∧ l.1.1 < o.textVa + 65536 * o.pages.length))) }

theorem core_dropLines (s : State) (o : Obj) (k : Nat) : (dropLines s o).core k = (s.core k).withoutLines o := by
  have h : alGet (dropLines s o).cores k = (alGet s.cores k).map (Core.withoutLines o) := alGet_map_snd s.cores (Core.withoutLines o) k
  unfold State.core
  rw [h]
  cases alGet s.cores k <;> rfl

/-- No line of the object is left in an instruction cache. -/
theorem line_dropLines {s : State} {o : Obj} (k : Nat) {line : Word} (h1 : o.textVa ≤ line.toNat)
    (h2 : line.toNat < o.textVa + 65536 * o.pages.length) : ((dropLines s o).core k).line line o.ctx = none := by
  rw [core_dropLines, Core.line, Option.map_eq_none_iff, List.find?_eq_none]
  intro e he hl
  have hkeep := (List.mem_filter.1 he).2
  simp only [Bool.and_eq_true, beq_iff_eq] at hl
  simp [hl.1, hl.2, h1, h2] at hkeep

theorem mem_dropLines (s : State) (o : Obj) (a : Tgt) : (dropLines s o).mem a = s.mem a := by
  cases a with
  | scratch k => exact (congrArg Core.scratch (core_dropLines s o k) : _)
  | hbm => rfl
  | host => rfl
  | peer _ => rfl

/-- The check of a page, with the reading and the writing of it given. -/
def checkPageWith (read : Except TransN (Nat × Bool) × State) (write : State → Nat → TransN × State) (want : BitVec 256) :
    PageCheck × State :=
  match read with
  | (.error (.fault _), s) => (.wait, s)
  | (.error _, s) => (.failed, s)
  | (.ok (v, _), s) =>
    match write s v with
    | (.fault _, s) => (.wait, s)
    | (.fatal _, s) => (.failed, s)
    | (.ok _, s) => (if Config.sm3 (bytesOf 65536 v) = want then .good else .failed, s)

theorem checkPage_eq : @checkPage = fun s obj page o =>
    checkPageWith (ctxRead s ⟨o.ctx, .read, 8, none, pageAgent obj page⟩ ((o.image + o.textOff + 65536 * page) % 2 ^ 64) 65536)
      (fun s v => ctxWrite s ⟨o.ctx, .exec, 8, none, pageAgent obj page⟩ (o.textVa + 65536 * page) 65536 v)
      (o.digests.getD page 0) := by
  obtain ⟨R, hR⟩ : ∃ R, R = @ctxRead := ⟨_, rfl⟩
  obtain ⟨W, hW⟩ : ∃ W, W = @ctxWrite := ⟨_, rfl⟩
  obtain ⟨C, hC⟩ : ∃ C, C = @checkPage := ⟨_, rfl⟩
  rw [← hC, ← hR, ← hW]
  delta checkPage at hC
  rw [← hR, ← hW] at hC
  rw [hC]
  rfl

section
variable {read : Except TransN (Nat × Bool) × State} {write : State → Nat → TransN × State} {t u : State} {v : Nat} {bad : Bool}

theorem checkPageWith_error {e : TransN} (hr : read = (.error e, t)) (write : State → Nat → TransN × State) (want : BitVec 256) :
    checkPageWith read write want = ((match (generalizing := false) e with
      | .fault _ => .wait
      | _ => .failed), t) := by
  subst hr
  cases e <;> rfl

theorem checkPageWith_fault {r : List Nat} (hr : read = (.ok (v, bad), t)) (hw : write t v = (.fault r, u)) (want : BitVec 256) :
    checkPageWith read write want = (.wait, u) := by
  simp only [checkPageWith, hr, hw]

theorem checkPageWith_fatal {c : Cause} (hr : read = (.ok (v, bad), t)) (hw : write t v = (.fatal c, u)) (want : BitVec 256) :
    checkPageWith read write want = (.failed, u) := by
  simp only [checkPageWith, hr, hw]

theorem checkPageWith_ok {a : List (Tgt × Nat)} (hr : read = (.ok (v, bad), t)) (hw : write t v = (.ok a, u))
    (want : BitVec 256) :
    checkPageWith read write want = (if Config.sm3 (bytesOf 65536 v) = want then .good else .failed, u) := by
  simp only [checkPageWith, hr, hw]

end

/-- A page that fails, alone or together with others. -/
theorem failPages_of (t : State) (h page : Nat) (o : Obj) :
    let u : State := { t with free := t.free + 1 }
    let others := (List.range o.pages.length).filter (fun k => k != page && o.pages.getD k .absent == .loading)
    let r := failingPages h o others u
    (Config.freeNat t.free % 2 = 0 → failPages t h page o = wakeAll (revoke (setPage u h page .failed) h page))
    ∧ (Config.freeNat t.free % 2 = 1 → failPages t h page o
        = wakeAll (revoke ((page :: r.1).foldl (fun s k => setPage s h k .failed) r.2) h (r.1.foldl min page)))
    ∧ (∀ k ∈ r.1, k ≠ page ∧ o.pages.getD k .absent = .loading) ∧ (others = [] → r = ([], u)) := by
  intro u others r
  refine ⟨fun h0 => ?_, fun h1 => ?_, fun k hk => ?_, fun hn => ?_⟩
  · rw [failPages]
    simp only [State.takeFree, h0, Nat.zero_ne_one, if_false]
    rfl
  · rw [failPages]
    simp only [State.takeFree, h1, if_true]
    rfl
  · have := (List.mem_filter.1 (failingPages_sub h o others u k hk)).2
    simpa using this
  · simp only [r, hn]
    rfl

/-- Settles O38: the check of a page by its outcome, the load by its own, and the end of an object. -/
theorem codeObjectSteps : Obligations.CodeObjectSteps := by
  unfold Obligations.CodeObjectSteps
  refine ⟨fun s t h page o ho hp hu => codePageCheck_of ho hp hu, fun s t u h page o v bad => ?_, fun t h page o => ?_,
    fun s t h o ho hl => ?_, fun s h o ho hd hdr => ?_⟩
  · rw [checkPage_eq]
    intro src dst from_ to_
    refine ⟨fun e hr => ?_, fun hr => ⟨fun r hw => ?_, fun c hw => ?_, fun a hw => ⟨fun hd => ?_, fun hd => ?_⟩⟩⟩
    · exact checkPageWith_error hr _ _
    · exact checkPageWith_fault hr hw _
    · exact checkPageWith_fatal hr hw _
    · exact (checkPageWith_ok hr hw _).trans (by rw [if_pos hd])
    · exact (checkPageWith_ok hr hw _).trans (by rw [if_neg hd])
  · exact failPages_of t h page o
  · intro p
    rw [exec_objectLoadComplete]
    unfold execObjectLoadComplete
    generalize @loadCheck = R
    generalize @writeMany = W
    simp only [ho, hl, ne_eq, not_true_eq_false, if_false]
    refine ⟨fun hc => by rw [hc], fun c hc => by rw [hc], fun q ws hc u => ⟨fun hw => ?_, fun hw => ?_, fun hw => ?_⟩⟩ <;>
      (rw [hc]; dsimp only; rw [hw])
  · refine ⟨unloadNow s h, ?_, ?_⟩
    · rw [exec_objectDrainComplete]
      simp only [execObjectDrainComplete, ho, hd, hdr, ne_eq, not_true_eq_false, if_false, if_true]
    · obtain ⟨a, ht⟩ := unloadNow_eq ho
      rw [ht]
      exact ⟨alGet_alSet_same _ _ _, fun j hj => alGet_alSet_other _ _ _ _ hj, fun k line h1 h2 => line_dropLines k h1 h2,
        mem_dropLines s o⟩

end Sys2Proof.Machine
end

section
/-!
PROOFS. Issues whose lanes report no cause, and the barriers.
-/

namespace Sys2Proof.Machine

/-! ### Issues whose lanes report no cause -/

/-- A lane reports no cause when the features are there, its registers are within reach and the instruction has no cause of
its own for it. -/
theorem laneCause_none {x : View} {k : Ctl} {sh : Shape} (hf : x.has sh.feats) (hr : x.reach k sh.vregs)
    (hc : ∀ n, inMask (x.active k) n = true → sh.causes n = []) (n : Nat) (hn : inMask (x.active k) n = true) :
    x.laneCause sh n = none := by
  have hl : x.lacking sh.feats = none := by
    simp only [View.lacking, List.find?_eq_none]
    intro b hb
    simp [hf b hb]
  have hv : sh.vregs.all (x.vOk n) = true := List.all_eq_true.2 fun r h => hr n hn r h
  simp [View.laneCause, hl, hv, hc n hn, lowestCause]

/-- An instruction with an effect of its own, in an issue whose lanes report no cause. -/
theorem issue_effect {s : State} {x : View} (hv : s.view = some x) (k : Ctl) (sh : View → Shape)
    (eff : View → LaneMask → State → State) (hs : (sh x).stoch = false)
    (hc : ∀ n, inMask (x.active k) n = true → x.laneCause (sh x) n = none) :
    (s.issue fun x => finishEffect s x k (sh x) (eff x)) = .next (afterIssue x (eff x (x.active k) s)) := by
  rw [issue_view hv, finishEffect_clear s x k _ _ hc, hs, if_neg Bool.false_ne_true]

/-! ### Barrier instructions -/

/-- A barrier instruction on a barrier of the allocation, in the state that it needs. -/
theorem barrier_clear {x : View} {k : Ctl} {f : ASY} {vregs : List Nat} {handler needInit breach : Bool} (hf : x.has [7])
    (hb : f.bar.toNat < x.grp.barriers.length) (hr : x.reach k vregs)
    (hh : handler = true → ∀ n, inMask (x.active k) n = true → (x.crs.lane n).inHandler = false)
    (hi : needInit = true → (x.grp.barrier f.bar.toNat).init = true) (hbr : breach = false) :
    ∀ n, inMask (x.active k) n = true → x.laneCause (barrierShape x f vregs handler needInit breach) n = none := by
  refine laneCause_none hf hr fun n hn => ?_
  have h1 : (handler && (x.crs.lane n).inHandler) = false := by
    cases handler with
    | false => rfl
    | true => exact hh rfl n hn
  have h2 : (needInit && !(x.grp.barrier f.bar.toNat).init) = false := by
    cases needInit with
    | false => rfl
    | true => rw [hi rfl]; rfl
  simp only [barrierShape, h1, h2, hbr, Nat.not_le.2 hb, decide_false, Bool.or_self, Bool.false_eq_true, if_false, List.append_nil]

/-- Settles O18: each instruction is its effect, on a barrier that gives no cause. -/
theorem barrierInstructions : Obligations.BarrierInstructions := by
  unfold Obligations.BarrierInstructions
  refine ⟨fun k f s x hv hf hb ha hi => ?_, fun k f s x hv hf hb ha hi ho hh hr => ?_, fun k f s x hv hf hb hi hr hh => ?_,
    fun k f s x hv hf hb ha hi ho hh => ?_, fun k f s x p hv hf hb ha hi hp h1 h2 => ?_, fun k f s x hv hf hb ha hi => ?_⟩
  · intro n h1 h32 hc
    have hbad : ((x.grp.barrier f.bar.toNat).init || decide (n < 1) || decide (32 < n) || decide (x.grp.courses.length < n)) = false := by
      simp only [hi, Nat.not_lt.2 h1, Nat.not_lt.2 h32, Nat.not_lt.2 hc, decide_false, Bool.or_self]
    rw [exec_binit]
    refine (issue_effect hv k _ _ rfl (barrier_clear (handler := false) (needInit := false) hf hb (reach_nil x k) (fun h => nomatch h) (fun h => nomatch h) hbad)).trans ?_
    rw [if_neg ha]
  · rw [exec_barr]
    refine (issue_effect hv k _ _ rfl (barrier_clear hf hb hr (fun _ => hh) (fun _ => hi) ho)).trans ?_
    rw [if_neg ha]
    rfl
  · rw [exec_bwait]
    exact issue_effect hv k _ _ rfl (barrier_clear hf hb hr (fun _ => hh) (fun _ => hi) rfl)
  · rw [exec_barw]
    refine (issue_effect hv k _ _ rfl (barrier_clear hf hb (reach_nil x k) (fun _ => hh) (fun _ => hi) ho)).trans ?_
    rw [if_neg ha]
  · have he : expected (x.grp.barrier f.bar.toNat) (uniformOpd x f (x.active k)) = some p := by
      rw [hp] at h1 h2 ⊢
      exact if_pos ⟨h1, h2⟩
    rw [exec_bexp]
    refine (issue_effect hv k _ _ rfl (barrier_clear (handler := false) hf hb (reach_nil x k) (fun h => nomatch h) (fun _ => hi)
      (congrArg Option.isNone he))).trans ?_
    rw [if_neg ha, he]
    rfl
  · rw [exec_binv]
    refine (issue_effect hv k _ _ rfl (barrier_clear (handler := false) hf hb (reach_nil x k) (fun h => nomatch h) (fun _ => hi) rfl)).trans ?_
    rw [if_neg ha]

/-! ### The completion of a phase -/

theorem barrier_modify (x : Group) (i j : Nat) (f : Barrier → Barrier) (hi : i < x.barriers.length) :
    ({ x with barriers := x.barriers.modify i f } : Group).barrier j = if j = i then f (x.barrier i) else x.barrier j := by
  simp only [Group.barrier, List.getD_eq_getElem?_getD, List.getElem?_modify]
  by_cases h : i = j
  · subst h
    simp [List.getElem?_eq_getElem hi]
  · simp [h, Ne.symm h]

theorem course_map (x : Group) (f : Course → Course) {c : Nat} (hc : c < x.courses.length) :
    ({ x with courses := x.courses.map f } : Group).course c = f (x.course c) := by
  simp [Group.course, List.getD_eq_getElem?_getD, List.getElem?_eq_getElem hc]

/-- A group whose barrier i has completed its phase. -/
def Group.phaseDone (x : Group) (i : Nat) : Group :=
  { x with
    barriers := x.barriers.modify i Barrier.nextPhase
    courses := x.courses.map (fun c => c.mapLanes (fun _ l => releaseLane i (!(x.barrier i).phase) l)) }

theorem barrierTest_complete {s : State} {g i : Nat} {grp : Group} (hg : s.group g = some grp)
    (hc : (grp.barrier i).complete = true) : (barrierTest s g i).group g = some (grp.phaseDone i) := by
  simp only [barrierTest, hg, hc, if_true, State.updBarrier, group_updGroup_same, Option.map_some]
  rfl

/-- A lane that waits with the old phase is released. -/
theorem releaseLane_old {l : Lane} {i : Nat} {p : Bool} (h : l.hold = .barrier i p) : (releaseLane i (!p) l).hold = .none := by
  have hp : p ≠ !p := by cases p <;> decide
  simp only [releaseLane, h, hp, ne_eq, not_false_eq_true, and_self, if_true]

/-! ### The end of a cycle -/

/-- A fold that acts only on what satisfies a condition is the fold over that part. -/
theorem foldl_guard {α β : Type} (p : α → Bool) (f : β → α → β) (l : List α) (b : β) :
    l.foldl (fun b a => if p a = true then f b a else b) b = (l.filter p).foldl f b := by
  rw [List.foldl_filter]

theorem foldl_skip {α β : Type} {f : β → α → β} {l : List α} (h : ∀ b, ∀ a ∈ l, f b a = b) (b : β) : l.foldl f b = b := by
  induction l generalizing b with
  | nil => rfl
  | cons a l ih =>
    rw [List.foldl_cons, h b a List.mem_cons_self]
    exact ih (fun b x hx => h b x (List.mem_cons_of_mem _ hx)) b

/-- The barriers of a group on which events have fallen. -/
theorem settleGroup_due (s : State) (g : Nat) (grp : Group) :
    settleGroup s g grp = ((List.range grp.barriers.length).filter (fun i => (grp.barrier i).due)).foldl
      (fun s i => barrierTest (s.updBarrier g i (fun b => { b with due := false, acted := false })) g i) s :=
  foldl_guard _ _ _ _

/-- A group none of whose barriers is due has nothing to settle. -/
theorem settleGroup_none {s : State} {g : Nat} {grp : Group}
    (h : (List.range grp.barriers.length).any (fun j => (grp.barrier j).due) = false) : settleGroup s g grp = s := by
  rw [settleGroup_due, List.filter_eq_nil_iff.2 (by simpa using h)]
  rfl

/-- The groups that the end of a cycle settles are those on cores with a barrier due. -/
theorem settleBarriers_due (s : State) :
    settleBarriers s = (s.groups.filter (fun e => e.2.state = .resident
      && (List.range e.2.barriers.length).any (fun j => (e.2.barrier j).due))).foldl (fun s e => settleGroup s e.1 e.2) s := by
  rw [← foldl_guard]
  refine congrFun (congrArg (fun f : State → Nat × Group → State => List.foldl f s) (funext₂ fun s e => ?_)) _
  by_cases hr : e.2.state = .resident
  · cases hd : (List.range e.2.barriers.length).any (fun j => (e.2.barrier j).due) with
    | true => simp only [hr, decide_true, Bool.and_self, if_true]
    | false => simp only [hr, decide_true, Bool.and_false, if_true, Bool.false_eq_true, if_false, settleGroup_none hd]
  · simp only [hr, decide_false, Bool.false_and, if_false, Bool.false_eq_true]

theorem filter_range_single {n i : Nat} {p : Nat → Bool} (hi : i < n) (hp : ∀ j, j < n → (p j = true ↔ j = i)) :
    (List.range n).filter p = [i] := by
  have h : (List.range n).filter p = (List.range n).filter (· == i) :=
    List.filter_congr fun j hj => by
      rw [Bool.eq_iff_iff, beq_iff_eq]
      exact hp j (List.mem_range.1 hj)
  rw [h, List.filter_beq, List.count_eq_one_of_mem List.nodup_range (List.mem_range.2 hi)]
  rfl

/-- Settles O19: a complete phase inverts, and the end of a cycle tests the one barrier that is due. -/
theorem barrierPhaseCompletes : Obligations.BarrierPhaseCompletes := by
  unfold Obligations.BarrierPhaseCompletes
  refine ⟨fun s g i c n grp b hg hi hc hn hb hinit harr hcp hpend => ?_, fun s g i grp hs hg hi hd => ?_⟩
  · subst hb
    have hcomp : (grp.barrier i).complete = true := by
      have hcp' : (!(grp.barrier i).cp || (grp.barrier i).cpArr) = true := by
        cases h : (grp.barrier i).cp with
        | false => rfl
        | true => exact hcp h
      simp only [Barrier.complete, hinit, harr, hcp', hpend, beq_self_eq_true, decide_true, Bool.and_self]
    refine ⟨_, barrierTest_complete hg hcomp, ?_, fun hh => ?_, fun j hj => ?_⟩
    · exact (barrier_modify grp i i _ hi).trans (if_pos rfl)
    · have hcourse : (grp.phaseDone i).course c
          = (grp.course c).mapLanes (fun _ l => releaseLane i (!(grp.barrier i).phase) l) := course_map grp _ hc
      rw [hcourse, lane_mapLanes _ _ _ hn]
      exact releaseLane_old hh
    · exact (barrier_modify grp i j _ hi).trans (if_neg hj)
  · rw [settleBarriers_due, hs]
    exact (settleGroup_due s g grp).trans (by rw [filter_range_single hi hd]; rfl)

end Sys2Proof.Machine
end

section
/-!
PROOFS. The window instructions.
-/

namespace Sys2Proof.Machine

/-! ### Window instructions -/

theorem window_clear {x : View} {k : Ctl} {f : ASY} {vregs : List Nat} {more : List Cause} (hf : x.has [6])
    (hw : f.win.toNat < x.grp.windows.length) (hr : x.reach k vregs) (hm : more = []) :
    ∀ n, inMask (x.active k) n = true → x.laneCause (windowShape x f vregs more) n = none := by
  refine laneCause_none hf hr fun n _ => ?_
  simp only [windowShape, Nat.not_le.2 hw, if_false, hm, List.append_nil]

theorem counterFull_zero (x : View) (cls : Nat) : x.counterFull cls 0 = false := rfl

theorem lacking_none {x : View} {fs : List Nat} (h : x.has fs) : x.lacking fs = none := by
  simp only [View.lacking, List.find?_eq_none]
  intro b hb
  simp [h b hb]

/-- Settles O16: each instruction past what would hold it, on a window that gives no cause. -/
theorem windowInstructions : Obligations.WindowInstructions := by
  unfold Obligations.WindowInstructions
  refine ⟨fun k f s x hv hf hw ha => ?_, fun k f s x hv hf hw ha hb hc hcl => ?_, fun k f s x hv hf hw hr => ?_,
    fun k f s x hv hf hw ha hb hst => ?_, fun k f s x hv hf hw ha hst hc hp hcl => ?_, fun k f s x hv hf hc => ?_⟩
  · intro t ht hm hcauses
    have hlack : (x.lacking [6]).isSome = false := by rw [lacking_none hf]; rfl
    rw [exec_wbind, execWbind, issue_view hv]
    simp only [ha, hlack, if_false, Bool.false_eq_true, or_self]
    rw [show touched (drainCourse s x.sel.grp x.sel.course) (wbindSectors (drainCourse s x.sel.grp x.sel.course) x f) = [] from ht,
      show missingSectors (drainCourse s x.sel.grp x.sel.course) (wbindSectors (drainCourse s x.sel.grp x.sel.course) x f) = []
        from hm, List.length_nil, counterFull_zero, if_neg Bool.false_ne_true, List.isEmpty_nil, Bool.not_true, Bool.false_and,
      if_neg Bool.false_ne_true]
    rw [finishEffect_clear _ x k _ _ (window_clear hf hw (reach_nil x k) hcauses)]
    exact congrArg (fun u => Host.Outcome.next (afterIssue x u)) (if_neg ha)
  · have hclear : ∀ n, inMask (x.active k) n = true → x.laneCause (wtouchShape s x f) n = none :=
      window_clear hf hw (reach_nil x k) (by rw [hb, hcl]; rfl)
    have hwait : wtouchWaits s x k f = false := by
      by_cases h : (x.grp.window f.win.toNat).state = .absent
      · rw [wtouchWaits, hc h, Bool.and_false]
      · rw [wtouchWaits, beq_eq_false_iff_ne.2 h, Bool.and_false, Bool.false_and]
    rw [exec_wtouch, execWtouch, issue_view hv]
    simp only [hwait, Bool.false_eq_true, if_false]
    rw [finishEffect_clear s x k _ _ hclear]
    simp only [ne_eq, ha, not_false_eq_true, true_and]
    rfl
  · rw [exec_wstat]
    exact compute_short hv k (fun x => windowShape x f (dstOf f.dcls f.d).vregs []) _ rfl (window_clear hf hw hr rfl)
  · rw [exec_wdrop]
    refine (issue_effect hv k _ _ rfl (window_clear hf hw (reach_nil x k) (if_pos ⟨hb, hst⟩))).trans ?_
    rw [if_neg ha]
  · have hclear : ∀ n, inMask (x.active k) n = true → x.laneCause (wflushShape x f) n = none :=
      window_clear hf hw (reach_nil x k) (if_pos hst)
    have hwait : wflushWaits x k f = false := by rw [wflushWaits, hc, Bool.and_false]
    have hstop : flushStop (drainCourse s x.sel.grp x.sel.course) x (x.grp.window f.win.toNat)
        = (none, drainCourse s x.sel.grp x.sel.course) := by
      simp only [flushStop, flushCheck, hp, hcl, Bool.false_eq_true, if_false]
    rw [exec_wflush, execWflush, issue_view hv]
    simp only [clear_eq x _ _ hclear, ha, hwait, hstop, Bool.false_eq_true, if_false]
    rw [finishEffect_clear _ x k _ _ hclear]
    rfl
  · have hwait : cntwaitWaits x k f = false := by
      rw [cntwaitWaits, decide_eq_false (Nat.not_lt.2 hc), Bool.and_false]
    rw [exec_cntwait, execCntwait, issue_view hv]
    simp only [hwait, Bool.false_eq_true, if_false]
    rw [finishEffect_clear s x k _ _ (laneCause_plain x k _ _ hf (reach_nil x k))]
    rfl

end Sys2Proof.Machine
end

section
/-!
PROOFS. FENCE, PREF, CCTL, PROBE and MAPC.
-/

namespace Sys2Proof.Machine

/-! ### FENCE -/

theorem toNat_eq_iff {w : Nat} (a : BitVec w) (n : Nat) (hn : n < 2 ^ w) : a.toNat = n ↔ a = BitVec.ofNat w n := by
  constructor
  · intro h
    exact BitVec.eq_of_toNat_eq (by rw [h, BitVec.toNat_ofNat, Nat.mod_eq_of_lt hn])
  · rintro rfl
    rw [BitVec.toNat_ofNat, Nat.mod_eq_of_lt hn]

/-- The state after a fence's release and acquire. -/
def fenced (s : State) (x : View) (f : MEM) : State :=
  let t := if (f.order == 3 || f.order == 4) = true then drainCourse s x.sel.grp x.sel.course else s
  if f.order ≠ 3 ∧ 2 ≤ f.scope.toNat then clearL1 t x.sel.core else t

theorem fenceAt_eq (s : State) (x : View) (ns : List Nat) (f : MEM) :
    fenceAt s x ns f.order.toNat f.scope.toNat
      = if (f.order == 3 || f.order == 4) = true ∧ f.scope = 4 ∧ portsBusy (fenced s x f) = true then
          { fenced s x f with fenced := (fenced s x f).fenced ++ ns.map (fun n => ⟨x.sel.grp, x.sel.course, n, f.order == 4⟩) }
        else fenced s x f := by
  have h3 : f.order.toNat = 3 ↔ f.order = 3 := toNat_eq_iff f.order 3 (by decide)
  have h4 : f.order.toNat = 4 ↔ f.order = 4 := toNat_eq_iff f.order 4 (by decide)
  have hs : f.scope.toNat = 4 ↔ f.scope = 4 := toNat_eq_iff f.scope 4 (by decide)
  have hr : (f.order = 3 ∨ f.order = 4) ↔ (f.order == 3 || f.order == 4) = true := by
    rw [Bool.or_eq_true, beq_iff_eq, beq_iff_eq]
  have hacq : (f.order.toNat == 4) = (f.order == 4) := by rw [Bool.eq_iff_iff, beq_iff_eq, beq_iff_eq, h4]
  have ht : ∀ t : State, (if f.order = 3 then t else acquireAt t x.sel.core f.scope.toNat)
      = if f.order ≠ 3 ∧ 2 ≤ f.scope.toNat then clearL1 t x.sel.core else t := by
    intro t
    by_cases h : f.order = 3
    · rw [if_pos h, if_neg (fun hh => hh.1 h)]
    · rw [if_neg h, acquireAt]
      simp only [ne_eq, h, not_false_eq_true, true_and]
  simp only [fenceAt, h3, h4, hr, hs, hacq, ht]
  rfl

/-- A fence of lanes with the feature, by those of them in no transaction. -/
theorem exec_fence_clear {k : Ctl} {f : MEM} {s : State} {x : View} (hv : s.view = some x) (hf : x.has [0]) :
    exec (.fence k f) s = .next (afterIssue x (
      let ns := (laneList (x.active k)).filter (fun n => (x.crs.lane n).tx.state != .active)
      if ns.isEmpty then s else fenceAt s x ns f.order.toNat f.scope.toNat)) := by
  rw [exec_fence]
  exact issue_effect hv k (fun _ => Shape.plain [0] []) _ rfl (laneCause_plain x k _ _ hf (reach_nil x k))

theorem fenceWaits_iff (s : State) (x : View) (m : LaneMask) :
    fenceWaits s x m = true ↔ portsBusy s = true ∧ ∃ n, inMask m n = true
      ∧ ∃ e ∈ s.fenced, e.grp = x.sel.grp ∧ e.course = x.sel.course ∧ e.lane = n := by
  simp only [fenceWaits, Bool.and_eq_true, List.any_eq_true, mem_laneList, beq_iff_eq, and_assoc]

/-- Settles O15: FENCE by its release and its acquire; the others are their effects lane by lane. -/
theorem fenceCacheAndProbe : Obligations.FenceCacheAndProbe := by
  unfold Obligations.FenceCacheAndProbe
  refine ⟨fun k f s x hv hf => ?_, fenceWaits_iff, fun k f s x hv hf hr => ?_, fun k f s x hv hf hr => ?_,
    fun k f s x hv hf hr => ?_, fun k f s x hv hf hr => ?_⟩
  · intro ns release t0 t
    rw [exec_fence_clear hv hf]
    refine ⟨fun h => ?_, fun h hor => ?_, fun h hr hsc hb => ?_⟩
    · exact congrArg (fun u => Host.Outcome.next (afterIssue x u)) (if_pos (List.isEmpty_iff.2 h))
    · refine congrArg (fun u => Host.Outcome.next (afterIssue x u)) ((if_neg (by rw [List.isEmpty_iff]; exact h)).trans ?_)
      refine (fenceAt_eq s x ns f).trans (if_neg ?_)
      rintro ⟨h1, h2, h3⟩
      rcases hor with h' | h' | h'
      · exact absurd (h1.symm.trans h') (by decide)
      · exact h' h2
      · exact absurd (h3.symm.trans h') (by decide)
    · refine congrArg (fun u => Host.Outcome.next (afterIssue x u)) ((if_neg (by rw [List.isEmpty_iff]; exact h)).trans ?_)
      exact (fenceAt_eq s x ns f).trans (if_pos ⟨hr, hsc, hb⟩)
  · rw [exec_pref]
    exact issue_effect hv k _ _ rfl (laneCause_plain x k _ _ hf hr)
  · rw [exec_cctl]
    exact issue_effect hv k _ _ rfl (laneCause_plain x k _ _ hf hr)
  · rw [exec_probe]
    refine (issue_effect hv k _ _ rfl (laneCause_plain x k _ _ hf hr)).trans ?_
    simp only [deliver, started, ite_self, if_true]
  · have hcl := laneCause_plain x k _ _ hf hr
    rw [exec_mapc, execMapc, issue_view hv]
    simp only [finishCompute]
    rw [finishEffect_clear _ x k _ _ hcl]
    rfl

end Sys2Proof.Machine
end

section
/-!
PROOFS. The matrix engine: how an instruction joins the queue, and the steps of the entry at its head.
-/

namespace Sys2Proof.Machine

/-! ### Joining the queue -/

/-- A matrix instruction whose lanes report no cause, with room in the queue and in its counters, joins the queue. -/
theorem matExec_joins {op : MatOp} {k : Ctl} {f : MAT} {s : State} {x : View} (hv : s.view = some x) (ha : x.active k ≠ 0)
    (hc : ∀ n, inMask (x.active k) n = true → x.laneCause (matShape op f s x) n = none) (hq : x.matFull = false)
    (hm : (op = .zmov ∨ op = .zrmax) ∨ x.counterFull 1 1 = false)
    (hg : matTouches op f x = true → x.counterFull 2 1 = false) (hs : (matShape op f s x).stoch = false) :
    matExec op k f s = .next (afterIssue x (matJoin
      (if matTouches op f x then
        startFill s x.sel.grp f.bidx.toNat (x.sel.grp, x.sel.course) ((lowLane (x.active k)).getD 0) else s)
      x k op f (x.active k))) := by
  have hmac : ((op != .zmov && op != .zrmax) && x.counterFull 1 1) = false := by
    rcases hm with (rfl | rfl) | h
    · rfl
    · rfl
    · rw [h, Bool.and_false]
  have hgath : (matTouches op f x && x.counterFull 2 1) = false := by
    cases h : matTouches op f x with
    | false => rfl
    | true => exact hg h
  have hwait : matWaits op s x k f = false := by
    simp only [matWaits, hq, hmac, hgath, Bool.or_self, Bool.and_false]
  rw [matExec, issue_view hv]
  simp only [hwait, Bool.false_eq_true, if_false]
  rw [finishEffect_clear s x k _ _ hc, hs]
  simp only [ha, Bool.false_eq_true, if_false]

theorem matShape_stoch (op : MatOp) (f : MAT) (s : State) (x : View) : (matShape op f s x).stoch = false := by
  cases op <;> rfl

theorem matrixJoins_of {mk : Ctl → MAT → Instr} {op : MatOp} (h : ∀ k f s, exec (mk k f) s = matExec op k f s) :
    MatrixJoins mk op := fun k f s _ hv ha hc hq hm hg =>
  (h k f s).trans (matExec_joins hv ha hc hq hm hg (matShape_stoch op f s _))

/-! ### Starting -/

/-- The digits of a number built from its bytes, lowest first. -/
theorem foldr_digit {α : Type} (f : α → Nat) (l : List α) (hf : ∀ a ∈ l, f a < 256) {i : Nat} (hi : i < l.length) :
    l.foldr (fun a acc => f a + 256 * acc) 0 / 256 ^ i % 256 = f l[i] := by
  induction l generalizing i with
  | nil => exact absurd hi (Nat.not_lt_zero i)
  | cons a l ih =>
    have ha := hf a List.mem_cons_self
    cases i with
    | zero =>
      simp only [List.foldr_cons, pow_zero, Nat.div_one, List.getElem_cons_zero]
      omega
    | succ i =>
      rw [List.foldr_cons, pow_succ', ← Nat.div_div_eq_div_mul, Nat.add_mul_div_left _ _ (by decide), Nat.div_eq_of_lt ha,
        Nat.zero_add, List.getElem_cons_succ]
      exact ih (fun b hb => hf b (List.mem_cons_of_mem _ hb)) (Nat.lt_of_succ_lt_succ hi)

/-- Of the bytes that an entry reads, those it has yet to read lie in the sectors it has not. -/
theorem mem_unread {s : State} {e : MatEntry} {j : Nat} (hj : j < e.reads) :
    (e.unread s).contains ((matAddr s e + j) / 32) = !e.bHave.contains ((matAddr s e + j) / 32) := by
  have hr : e.reads ≠ 0 := by omega
  rw [Bool.eq_iff_iff, List.contains_iff_mem]
  simp only [MatEntry.unread, hr, if_false, List.mem_filter, List.mem_map, List.mem_range]
  constructor
  · exact fun h => h.2
  · exact fun h => ⟨⟨(matAddr s e + j) / 32 - matAddr s e / 32, by omega, by omega⟩, h⟩

/-- The bytes of an entry that starts, of which some were read before. -/
theorem matTake_byte {s : State} {c : Nat} {e : MatEntry} {j : Nat} (hj : j < e.reads) :
    (matTake s c e (e.unread s)).bData / 256 ^ j % 256
      = if e.bHave.contains ((matAddr s e + j) / 32) then e.bData / 256 ^ j % 256
        else ((s.core c).scratch.byte (matAddr s e + j)).toNat := by
  have hlt : ∀ i ∈ List.range e.reads, (if (e.unread s).contains ((matAddr s e + i) / 32) then
      ((s.core c).scratch.byte (matAddr s e + i)).toNat else e.bData / 256 ^ i % 256) < 256 := by
    intro i _
    split
    · exact BitVec.isLt _
    · exact Nat.mod_lt _ (by decide)
  refine (foldr_digit _ (List.range e.reads) hlt (by rw [List.length_range]; exact hj)).trans ?_
  rw [List.getElem_range, mem_unread hj]
  cases e.bHave.contains ((matAddr s e + j) / 32) <;> rfl

section
variable {s : State} {c : Nat} {e : MatEntry} {rest : List MatEntry}

theorem matrixEntryStart_starts (hq : (s.core c).matQ = e :: rest) (hs : e.started = false) (hp : pairBlocks s c e = false)
    (hm : matMissing s c e = false) :
    exec (.matrixEntryStart c) s = .next ((s.setCore c { s.core c with
      matQ := { matRead s c e with started := true } :: rest }).post (.matrixEntryRetire c)) := by
  rw [exec_matrixEntryStart]
  simp only [execMatrixEntryStart, hq, hs, hp, hm, Bool.or_self, Bool.false_eq_true, if_false]

theorem matrixEntryStart_waits (hq : (s.core c).matQ = e :: rest) (hs : e.started = false)
    (h : matMissing s c e = true ∨ pairBlocks s c e = true) :
    exec (.matrixEntryStart c) s = .next (s.post (.matrixEntryStart c)) := by
  have hb : (matMissing s c e || pairBlocks s c e) = true := Bool.or_eq_true_iff.2 h
  rw [exec_matrixEntryStart]
  simp only [execMatrixEntryStart, hq, hs, hb, Bool.false_eq_true, if_false, if_true]

end

/-- Settles O20: how an instruction joins the queue, and the steps of the entry at its head. -/
theorem matrixInstructions : Obligations.MatrixInstructions := by
  unfold Obligations.MatrixInstructions
  refine ⟨⟨matrixJoins_of exec_mma, matrixJoins_of exec_mmaz, matrixJoins_of exec_zld, matrixJoins_of exec_zst,
    matrixJoins_of exec_zmov, matrixJoins_of exec_zrmax, matrixJoins_of exec_zrscale⟩,
    fun s c e rest hq hs hp hm => ?_, fun s c e rest hq hs h => matrixEntryStart_waits hq hs h, fun s c e rest hq hs => ?_⟩
  · intro a m
    refine ⟨fun hb => ?_, fun hb => ⟨{ matTake s c e (e.unread s) with started := true }, ?_, rfl, rfl,
      fun j hj => matTake_byte hj⟩⟩
    · rw [matrixEntryStart_starts hq hs hp hm, matRead, if_pos (by rw [hb]; rfl)]
      rfl
    · rw [matrixEntryStart_starts hq hs hp hm, matRead, if_neg (by rw [List.isEmpty_iff]; exact hb)]
  · rw [exec_matrixEntryRetire]
    simp only [execMatrixEntryRetire, hq, hs, if_true] <;> rfl

end Sys2Proof.Machine
end

section
/-!
PROOFS. Branches, calls and returns of one lane.
-/

namespace Sys2Proof.Machine

/-! ### A branch of one lane -/

section
variable {s u : State} {x : View} {k : Ctl} {n : Nat} {vregs : List Nat} {body : State → Nat → List Cause → Turn × State}

/-- A branch of one lane with the feature and a sound guard: what its one turn comes to. -/
theorem finishBranch_only {feats : List Nat} (hf : x.has feats) (ho : laneList x.sel.mask = [n])
    (hp : (x.crs.lane n).guardP k = false) :
    finishBranch s x k feats vregs body = (
      let r := if (x.crs.lane n).guard k = true then body s.newToken.2 n (if vregs.all (x.vOk n) then [] else [.regBound])
        else (.fall, s.newToken.2)
      let a := (⟨false, false, [], [], []⟩ : Turns).add x s.nextReq n r.2 r.1
      let v := settleLanes a.1 x.sel a.2.moved a.2.aborts a.2.traps
      (if backward a.1 x.sel a.2.moved a.2.aborts a.2.traps then countFills v x.sel.grp x.sel.course s.nextReq else v,
        a.2.taken)) := by
  have hl : (x.lacking feats).isSome = false := by rw [lacking_none hf]; rfl
  simp only [finishBranch, hl, Bool.false_eq_true, if_false, ho, runTurns, hp]
  cases (x.crs.lane n).guard k <;> rfl

theorem settleLanes_plain (s : State) (x : Sel) (m : Bool) : settleLanes s x m [] [] = (bumpIf s x.grp x.course m).deselect := by
  simp only [settleLanes, abortLanes, takeTraps, List.foldl_nil, Bool.or_false]

theorem backward_plain (s : State) (x : Sel) (m : Bool) : backward s x m [] [] = m := by
  simp only [backward, abortLanes, takeTraps, List.foldl_nil, Bool.or_false]

/-- One whose lane goes to a target. -/
theorem finishBranch_goes {feats : List Nat} {t : Word} (hf : x.has feats) (ho : laneList x.sel.mask = [n])
    (hp : (x.crs.lane n).guardP k = false) (hg : (x.crs.lane n).guard k = true) (hr : ∀ r ∈ vregs, x.vOk n r = true)
    (hb : body s.newToken.2 n [] = (.go t, u)) :
    finishBranch s x k feats vregs body = (goesTo u x n s.nextReq t, true) := by
  rw [finishBranch_only hf ho hp, if_pos hg, if_pos (List.all_eq_true.2 hr), hb]
  simp only [Turns.add, Bool.false_or, settleLanes_plain, backward_plain]
  rfl

/-- One whose guard is false. -/
theorem finishBranch_falls {feats : List Nat} (hf : x.has feats) (ho : laneList x.sel.mask = [n])
    (hp : (x.crs.lane n).guardP k = false) (hg : (x.crs.lane n).guard k = false) :
    finishBranch s x k feats vregs body = (fallsThrough s x n, false) := by
  rw [finishBranch_only hf ho hp, if_neg (by rw [hg]; decide)]
  simp only [Turns.add, settleLanes_plain, backward_plain, bumpIf, Bool.false_eq_true, if_false]
  rfl

end

/-! ### Targets and return addresses -/

/-- A target with its mark in a line that the core holds. -/
theorem branchTo_marked {s : State} {x : View} {t : Word} {act : State → Word → Turn × State} (h : Marked s x t) :
    branchTo s x t [] act = act s t := by
  obtain ⟨hv, l, hl, -, hm⟩ := h
  have hmark : targetMark s x t = (.mark true, s) := by simp only [targetMark, hl, hm]
  simp only [branchTo, hv, hmark, Bool.not_true, Bool.false_eq_true, if_false, if_true, goOr, lowestCause]

theorem Marked.newToken {s : State} {x : View} {t : Word} (h : Marked s x t) : Marked s.newToken.2 x t := h

theorem targetCauses_none {p : PWord} (h : p.poison = false) : targetCauses p = [] := by
  rw [targetCauses, h, if_neg Bool.false_ne_true]

theorem callCauses_none {x : View} {n : Nat} (h : (x.crs.lane n).depth.toNat ≠ x.grp.dlim) : callCauses x n = [] := if_neg h

/-- A call whose ninth entry is not in the core pushes its return address there. -/
theorem pushReturn_here {s : State} {x : View} {n : Nat} (ret t : Word)
    (h : (s.laneAt x n).depth.toNat < 8 ∨ alGet (s.laneAt x n).entries ((s.laneAt x n).depth.toNat - 7) = none) :
    pushReturn s x n ret t = (.go t, pushed s x n (s.laneAt x n).depth.toNat ret) := by
  have hs : (if 8 ≤ (s.laneAt x n).depth.toNat then (s.laneAt x n).entry ((s.laneAt x n).depth.toNat - 7) else none) = none := by
    rcases h with h | h
    · exact if_neg (Nat.not_le.2 h)
    · rw [Lane.entry, h, ite_self]
  simp only [pushReturn, hs]
  rfl

/-- A return to an entry that the core holds, with the one below it there too. -/
theorem retLane_here {s : State} {x : View} {n : Nat} {e : PWord} (hd : (s.laneAt x n).depth ≠ 0)
    (ht : (s.laneAt x n).tx.state = .idle) (he : alGet (s.laneAt x n).entries (s.laneAt x n).depth.toNat = some e)
    (hp : e.poison = false) (hv : pcValid e.val = true)
    (hb : 9 ≤ (s.laneAt x n).depth.toNat → (alGet (s.laneAt x n).entries ((s.laneAt x n).depth.toNat - 8)).isSome = true) :
    retLane x s n [] = (.go e.val, popped s x n) := by
  have hd' : (s.laneAt x n).depth.toNat ≠ 0 := fun h => hd (BitVec.eq_of_toNat_eq h)
  have hact : ¬ ((s.laneAt x n).tx.state = .active ∧ (s.laneAt x n).tx.beginD.toNat = (s.laneAt x n).depth.toNat) := by
    rw [ht]; exact fun h => nomatch h.1
  have hcs : entryCauses e = [] := by simp only [entryCauses, hp, hv, Bool.false_eq_true, if_false, if_true, List.append_nil]
  have hbelow : fillBelow s x n (s.laneAt x n).depth.toNat (s.laneAt x n) = none := by
    refine if_neg ?_
    rintro ⟨h9, hn⟩
    rw [Lane.entry, Option.isNone_iff_eq_none] at hn
    have := hb h9
    rw [hn] at this
    exact nomatch this
  have htx : ¬ ((s.laneAt x n).tx.state = .irrevocable ∧ (s.laneAt x n).tx.beginD.toNat = (s.laneAt x n).depth.toNat) := by
    rw [ht]; exact fun h => nomatch h.1
  have hgo : retBelow x s n (s.laneAt x n).depth.toNat (s.laneAt x n) e none = (.go e.val, popped s x n) := by
    simp only [retBelow, hbelow, Option.isNone_none, if_true, hcs, retGo, lowestCause, retTx, htx, if_false]
    rfl
  rw [retLane, if_neg hd', if_neg hact]
  simp only [Lane.entry, he]
  exact hgo

/-- Settles O21: each branch as the one turn of its lane. -/
theorem branchesGoToTargets : Obligations.BranchesGoToTargets := by
  unfold Obligations.BranchesGoToTargets
  refine ⟨fun k f s x n hv hf ho hp hg hm => ?_, fun k f s x n hv hf ho hp hg hr hpo hm => ?_,
    fun k f s x n hv hf ho hp hg hm hd he => ?_, fun k f s x n hv hf ho hp hg hr hpo hm hd he => ?_,
    fun k f s x n e hv hf ho hp hg => ?_, fun k f s x n hv hf ho hp hg => ⟨?_, ?_, ?_, ?_, ?_⟩⟩
  · rw [exec_bra, execBra, issue_view hv, finishBranch_goes hf ho hp hg (List.forall_mem_nil _) (branchTo_marked hm.newToken)]
    simp only [setForced, Bool.and_true, beq_iff_eq]
  · rw [exec_brx, execBrx, issue_view hv]
    rw [finishBranch_goes hf ho hp hg hr (by dsimp only; rw [targetCauses_none hpo]; exact branchTo_marked hm.newToken)]
  · have hpush := pushReturn_here (s := s.newToken.2) (pcNext x.sel.pc) (branchTarget x.sel.pc f) he
    rw [exec_call, execCall, issue_view hv, finishBranch_goes hf ho hp hg (List.forall_mem_nil _)
      (by rw [callCauses_none hd]; exact (branchTo_marked hm.newToken).trans hpush)]
    rfl
  · have hpush := pushReturn_here (s := s.newToken.2) (pcNext x.sel.pc) (x.opd 64 n (targetOpd f)).val he
    rw [exec_callx, execCallx, issue_view hv, finishBranch_goes hf ho hp hg hr
      (by dsimp only; rw [targetCauses_none hpo, callCauses_none hd]; exact (branchTo_marked hm.newToken).trans hpush)]
    rfl
  · intro l hd ht he hpo hval hb
    rw [exec_ret, execRet, issue_view hv, finishBranch_goes hf ho hp hg (List.forall_mem_nil _)
      (retLane_here (s := s.newToken.2) hd ht he hpo hval hb)]
  · rw [exec_bra, execBra, issue_view hv, finishBranch_falls hf ho hp hg]
    simp only [setForced, Bool.and_false, Bool.false_eq_true, if_false]
  · rw [exec_call, execCall, issue_view hv, finishBranch_falls hf ho hp hg]
  · rw [exec_ret, execRet, issue_view hv, finishBranch_falls hf ho hp hg]
  · rw [exec_brx, execBrx, issue_view hv, finishBranch_falls hf ho hp hg]
  · rw [exec_callx, execCallx, issue_view hv, finishBranch_falls hf ho hp hg]

end Sys2Proof.Machine
end

section
/-!
PROOFS. What a view shows, and EXIT, YIELD, SLEEP, NOP and REGQ.
-/

namespace Sys2Proof.Machine

/-! ### What a view shows -/

theorem view_eq {s : State} {x : View} (hv : s.view = some x) :
    s.sel = some x.sel ∧ s.group x.sel.grp = some x.grp ∧ x.crs = x.grp.course x.sel.course
      ∧ x.core = s.core x.sel.core := by
  unfold State.view at hv
  split at hv
  · exact nomatch hv
  · next sel hsel =>
    split at hv
    · exact nomatch hv
    · next g hg =>
      obtain rfl := Option.some.inj hv
      exact ⟨hsel, hg, rfl, rfl⟩

/-- A lane of the issuing course, as the state has it. -/
theorem laneAt_view {s : State} {x : View} (hv : s.view = some x) (n : Nat) : s.laneAt x n = x.crs.lane n := by
  obtain ⟨-, hg, hc, -⟩ := view_eq hv
  rw [State.laneAt, hg, Option.getD_some, hc]

/-! ### Instructions that act lane by lane -/

/-- One lane of Active, which reports no cause and completes without a register result. -/
theorem finishLanes_done {s t : State} {x : View} {k : Ctl} {n : Nat} {sh : Shape} {body : State → Nat → LaneOut × State}
    (ho : x.only k n) (hs : sh.stoch = false) (hc : x.laneCause sh n = none) (hb : body s n = (.done [], t)) :
    finishLanes s x k false sh body = afterIssue x t :=
  finishLanes_only false sh body [] ho hs hc hb

/-- A lane outside the handler reports no cause of an instruction that is illegal there. -/
theorem noHandler_clear {x : View} {k : Ctl} {n : Nat} {feats vregs : List Nat} (ho : x.only k n) (hf : x.has feats)
    (hr : x.reach k vregs) (hh : (x.crs.lane n).inHandler = false) : x.laneCause (noHandler x feats vregs) n = none := by
  refine laneCause_none hf hr (fun m hm => ?_) n (laneList_only ho)
  have hmn : m = n := by
    have := (mem_laneList _ _).2 hm
    rwa [ho, List.mem_singleton] at this
  subst hmn
  exact if_neg (by rw [hh]; decide)

/-- Settles O22: each instruction as its effect, lane by lane or for the whole issue. -/
theorem controlInstructions : Obligations.ControlInstructions := by
  unfold Obligations.ControlInstructions
  refine ⟨fun k f s x n hv ho hf hh ht => ?_, fun k f s x n hv ho hf hh ht => ?_, fun k f s x hv hf ha => ?_,
    fun k f s x hv hf hr => ?_, fun k f s x hv hf => ?_, fun k f s x hv hf ha hw hh hq => ⟨fun hle => ?_, fun hlt => ?_⟩⟩
  · rw [exec_exit, execExit, issue_view hv]
    refine congrArg Host.Outcome.next (finishLanes_done ho rfl (noHandler_clear ho hf (reach_nil x k) hh) ?_)
    simp only [exitLane, laneAt_view hv, ht]
  · rw [exec_exit, execExit, issue_view hv]
    refine congrArg Host.Outcome.next (finishLanes_done ho rfl (noHandler_clear ho hf (reach_nil x k) hh) ?_)
    simp only [exitLane, laneAt_view hv, ht]
  · rw [exec_yield]
    refine (issue_effect hv k (fun _ => Shape.plain [0] []) _ rfl (laneCause_plain x k _ _ hf (reach_nil x k))).trans ?_
    rw [setForced, if_pos (bne_iff_ne.2 ha)]
  · rw [exec_sleep]
    exact issue_effect hv k _ _ rfl (laneCause_plain x k _ _ hf hr)
  · rw [exec_nop]
    exact issue_effect hv k (fun _ => Shape.plain [0] []) _ rfl (laneCause_plain x k _ _ hf (reach_nil x k))
  all_goals
    have hclear : ∀ n, inMask (x.active k) n = true → x.laneCause (regqShape x f.code.toNat) n = none :=
      laneCause_none hf (reach_nil x k) fun n hn => by
        simp only [regqShape, hh n hn, Nat.not_lt.2 hq, Bool.false_eq_true, if_false, List.append_nil]
    rw [exec_regq, execRegq, issue_view hv]
    simp only [hw, Bool.false_eq_true, if_false, clear_eq x _ _ hclear]
  · rw [if_neg (fun h => Nat.not_lt.2 hle h.2), finishEffect_clear s x k _ _ hclear]
    exact congrArg (fun u => Host.Outcome.next (afterIssue x u)) (if_neg ha)
  · rw [if_pos ⟨ha, hlt⟩]

end Sys2Proof.Machine
end

section
/-!
PROOFS. Courses and lanes of a state after an update, traps that go to the handler, and entry to it.
-/

namespace Sys2Proof.Machine

/-! ### Courses and lanes of a state after an update -/

/-- The group is there and has the course. -/
def State.hasCourse (s : State) (g c : Nat) : Prop := ∃ grp, s.group g = some grp ∧ c < grp.courses.length

@[simp] theorem courses_length_updCourse (x : Group) (c : Nat) (f : Course → Course) :
    (x.updCourse c f).courses.length = x.courses.length := by
  simp [Group.updCourse]

theorem courseAt_of_group {s : State} {g : Nat} {grp : Group} (hg : s.group g = some grp) (c : Nat) :
    s.courseAt g c = grp.course c := by
  simp [State.courseAt, hg]

theorem lane_of_group {s : State} {g : Nat} {grp : Group} (hg : s.group g = some grp) (c n : Nat) :
    s.lane g c n = (grp.course c).lane n := by
  rw [State.lane, courseAt_of_group hg]

theorem group_updCourse_of {s : State} {g : Nat} {grp : Group} (hg : s.group g = some grp) (c : Nat) (f : Course → Course) :
    (s.updCourse g c f).group g = some (grp.updCourse c f) := by
  rw [State.updCourse, group_updGroup_same, hg, Option.map_some]

theorem hasCourse_updCourse {s : State} {g c : Nat} (h : s.hasCourse g c) (d e : Nat) (f : Course → Course) :
    (s.updCourse d e f).hasCourse g c := by
  obtain ⟨grp, hg, hc⟩ := h
  by_cases k : g = d
  · subst k
    exact ⟨_, group_updCourse_of hg e f, by simpa using hc⟩
  · exact ⟨grp, (group_updGroup_other _ _ _ _ k).trans hg, hc⟩

theorem hasCourse_updLane {s : State} {g c : Nat} (h : s.hasCourse g c) (d e n : Nat) (f : Lane → Lane) :
    (s.updLane d e n f).hasCourse g c := hasCourse_updCourse h _ _ _

/-- A course that has a live lane is one of its group. -/
theorem hasCourse_of_live {s : State} {g c n : Nat} {grp : Group} (hg : s.group g = some grp)
    (hl : ((grp.course c).lane n).live = true) : s.hasCourse g c := by
  refine ⟨grp, hg, ?_⟩
  by_contra hc
  have : grp.course c = Course.reset := by
    simp only [Group.course, List.getD_eq_getElem?_getD, List.getElem?_eq_none (Nat.not_lt.1 hc), Option.getD_none]
  rw [this] at hl
  by_cases hn : n < 32 <;> simp [Course.lane, Course.reset, hn, Lane.reset] at hl

theorem courseAt_updCourse_same {s : State} {g c : Nat} (h : s.hasCourse g c) (f : Course → Course) :
    (s.updCourse g c f).courseAt g c = f (s.courseAt g c) := by
  obtain ⟨grp, hg, hc⟩ := h
  rw [courseAt_of_group (group_updCourse_of hg c f), courseAt_of_group hg, course_updCourse_same _ _ _ hc]

theorem lane_updCourse_same {s : State} {g c : Nat} (h : s.hasCourse g c) (f : Course → Course) (n : Nat) :
    (s.updCourse g c f).lane g c n = (f (s.courseAt g c)).lane n := by
  rw [State.lane, courseAt_updCourse_same h]

theorem lane_updLane_here {s : State} {g c n : Nat} (h : s.hasCourse g c) (hn : n < 32) (f : Lane → Lane) :
    (s.updLane g c n f).lane g c n = f (s.lane g c n) := by
  rw [State.updLane, lane_updCourse_same h, lane_updLane_same _ _ _ hn]; rfl

theorem lane_mapLanes_here {s : State} {g c n : Nat} (h : s.hasCourse g c) (hn : n < 32) (f : Nat → Lane → Lane) :
    (s.updCourse g c (fun x => x.mapLanes f)).lane g c n = f n (s.lane g c n) := by
  rw [lane_updCourse_same h, lane_mapLanes _ _ _ hn]; rfl

/-- What an update of a course does not change of it. -/
theorem courseAt_updCourse_keep {α : Type} (s : State) (g c h d : Nat) {f : Course → Course} (q : Course → α)
    (hq : ∀ x, q (f x) = q x) : q ((s.updCourse g c f).courseAt h d) = q (s.courseAt h d) := by
  obtain e | ⟨-, -, e⟩ := courseAt_updCourse s g c h d f
  · rw [e]
  · rw [e, hq]

theorem lane_updCourse_keep (s : State) (g c h d n : Nat) {f : Course → Course} (hf : ∀ x, (f x).lane n = x.lane n) :
    (s.updCourse g c f).lane h d n = s.lane h d n :=
  courseAt_updCourse_keep s g c h d (fun x => x.lane n) hf

theorem lane_updLane_else (s : State) (g c h d : Nat) {n m : Nat} (f : Lane → Lane) (hm : m ≠ n) :
    (s.updLane g c n f).lane h d m = s.lane h d m :=
  lane_updCourse_keep s g c h d m fun x => lane_updLane_other x n m f hm

/-- What a change of every lane does not change of a lane. -/
theorem lane_mapLanes_keep {α : Type} (s : State) (g c h d n : Nat) {f : Nat → Lane → Lane} (q : Lane → α)
    (hq : ∀ l, q (f n l) = q l) : q ((s.updCourse g c (fun x => x.mapLanes f)).lane h d n) = q (s.lane h d n) := by
  refine courseAt_updCourse_keep s g c h d (fun x => q (x.lane n)) fun x => ?_
  by_cases hn : n < 32
  · rw [lane_mapLanes x f n hn, hq]
  · simp [Course.lane, hn]

theorem lane_updLane_keep {α : Type} (s : State) (g c n h d m : Nat) {f : Lane → Lane} (q : Lane → α)
    (hq : ∀ l, q (f l) = q l) : q ((s.updLane g c n f).lane h d m) = q (s.lane h d m) := by
  by_cases e : m = n
  · subst e
    refine courseAt_updCourse_keep s g c h d (fun x => q (x.lane m)) fun x => ?_
    by_cases hm : m < 32
    · rw [lane_updLane_same x m f hm, hq]
    · simp [Course.lane, hm]
  · rw [lane_updLane_else s g c h d f e]

@[simp] theorem courseAt_post (s : State) (i : Instr) (g c : Nat) : (s.post i).courseAt g c = s.courseAt g c := rfl
@[simp] theorem courseAt_deselect (s : State) (g c : Nat) : s.deselect.courseAt g c = s.courseAt g c := rfl
@[simp] theorem courseAt_setCore (s : State) (k : Nat) (x : Core) (g c : Nat) :
    (s.setCore k x).courseAt g c = s.courseAt g c := rfl
@[simp] theorem lane_post (s : State) (i : Instr) (g c n : Nat) : (s.post i).lane g c n = s.lane g c n := rfl
@[simp] theorem lane_deselect (s : State) (g c n : Nat) : s.deselect.lane g c n = s.lane g c n := rfl
@[simp] theorem lane_setCore (s : State) (k : Nat) (x : Core) (g c n : Nat) :
    (s.setCore k x).lane g c n = s.lane g c n := rfl
theorem hasCourse_setCore {s : State} {g c : Nat} (h : s.hasCourse g c) (k : Nat) (x : Core) : (s.setCore k x).hasCourse g c := h

/-- The context that a group runs under is the same after an update of courses. -/
theorem groupCtx_updCourse (s : State) (g c : Nat) (f : Course → Course) (x : Group) (d : Nat) (h : Course → Course) :
    (s.updCourse g c f).groupCtx (x.updCourse d h) = s.groupCtx x := by
  simp only [State.groupCtx, launch_updCourse]; rfl

/-! ### Advancing -/

theorem SameMem.advance (s : State) (x : Sel) (m : LaneMask) : SameMem s (advance s x m) := .updCourse ..
theorem SameMem.deselect (s : State) : SameMem s s.deselect := .of_eq rfl rfl rfl rfl rfl rfl

theorem lane_advance {s : State} {x : Sel} (h : s.hasCourse x.grp x.course) (m : LaneMask) {n : Nat} (hn : n < 32) :
    (advance s x m).lane x.grp x.course n
      = if inMask m n then { s.lane x.grp x.course n with pc := pcNext x.pc } else s.lane x.grp x.course n :=
  lane_mapLanes_here h hn _

theorem inMask_without (m a : LaneMask) {n : Nat} (hn : n < 32) : inMask (m &&& ~~~a) n = (inMask m n && !inMask a n) := by
  simp [inMask, hn]

/-! ### Traps that go to the handler -/

/-- What a trap of a lane asks for to go to its context's handler: the group and the lane are live, the lane is not
frozen, in no ACTIVE transaction and not in the handler, and TRAPBASE is not zero. -/
structure Traps (s : State) (g c n : Nat) (grp : Group) : Prop where
  group : s.group g = some grp
  alive : grp.alive = true
  live : ((grp.course c).lane n).live = true
  frozen : (grp.course c).frozen n = false
  noTx : ((grp.course c).lane n).tx.state ≠ .active
  outside : ((grp.course c).lane n).inHandler = false
  base : ((alGet s.ctxs (s.groupCtx grp)).map (·.trapBase)).getD 0 ≠ 0

theorem takeTrap_awaits {s : State} {g c n : Nat} {grp : Group} {t : PendTrap} (h : Traps s g c n grp)
    (h1 : t.cause ≠ .codeIntegrity) (h2 : t.cause ≠ .poisonConsumed) :
    takeTrap s g c n t = (awaitHandler s g c n t, false) := by
  have hb : (((alGet s.ctxs (s.groupCtx grp)).map (·.trapBase)).getD 0 == 0 && t.routine.isNone) = false := by
    rw [beq_eq_false_iff_ne.2 h.base, Bool.false_and]
  simp only [takeTrap, h.group, h.alive, h.live, Bool.not_true, Bool.or_self, Bool.false_eq_true, if_false, h1, h.frozen,
    h.noTx, h.outside, h2, hb]

/-- A lane has begun to wait for the handler. -/
def pendingLane (s : State) (g c n : Nat) (t : PendTrap) : State :=
  s.updLane g c n (fun l => { l with pend := some t, hold := .none })

/-- A course has joined the handler queue of a core. -/
def queuedCourse (s : State) (g c k : Nat) : State :=
  ((s.updCourse g c (fun x => { x with trap := .waiting })).setCore k
    { s.core k with handlerQ := (s.core k).handlerQ ++ [(g, c)] }).post (.handlerEntry k)

theorem awaitHandler_joins {s : State} {g c n k : Nat} {grp : Group} {t : PendTrap} (hg : s.group g = some grp)
    (hk : grp.core = some k) (hq : (s.core k).handlerQ.contains (g, c) = false) (hh : grp.halting = false) :
    awaitHandler s g c n t = queuedCourse (pendingLane s g c n t) g c k := by
  simp only [awaitHandler, hg, hk, Option.getD_some, core_updLane, hq, hh, Bool.false_eq_true, if_false, queuedCourse, pendingLane]

theorem awaitHandler_waits {s : State} {g c n k : Nat} {grp : Group} {t : PendTrap} (hg : s.group g = some grp)
    (hk : grp.core = some k) (hq : (s.core k).handlerQ.contains (g, c) = true) :
    awaitHandler s g c n t = pendingLane s g c n t := by
  simp only [awaitHandler, hg, hk, Option.getD_some, core_updLane, hq, if_true, pendingLane]

theorem SameMem.pendingLane (s : State) (g c n : Nat) (t : PendTrap) : SameMem s (pendingLane s g c n t) := .updLane ..
theorem SameMem.queuedCourse (s : State) (g c k : Nat) : SameMem s (queuedCourse s g c k) :=
  (SameMem.updCourse ..).trans ((SameMem.setCore _ _ _ (by simp)).trans (.post ..))

/-- A trap of the lanes of Active, where the one lane of Active goes to the handler. -/
theorem trapLanes_only {s : State} {x : Sel} {act : LaneMask} {n k : Nat} {grp : Group} {t : PendTrap}
    (ho : laneList act = [n]) (h : Traps (advance s x (x.mask &&& ~~~act)) x.grp x.course n grp)
    (h1 : t.cause ≠ .codeIntegrity) (h2 : t.cause ≠ .poisonConsumed) (hk : grp.core = some k)
    (hq : (s.core k).handlerQ.contains (x.grp, x.course) = false) (hh : grp.halting = false) :
    trapLanes s x act t
      = (queuedCourse (pendingLane (advance s x (x.mask &&& ~~~act)) x.grp x.course n t) x.grp x.course k).deselect := by
  have hq' : ((advance s x (x.mask &&& ~~~act)).core k).handlerQ.contains (x.grp, x.course) = false := by
    rw [advance, core_updCourse, hq]
  simp only [trapLanes, ho, List.map_cons, List.map_nil, raiseTraps, takeTraps, List.foldl_cons, List.foldl_nil,
    takeTrap_awaits h h1 h2, awaitHandler_joins h.group hk hq' hh, Bool.or_self, bumpIf, Bool.false_eq_true, if_false]

/-- The lane of an issue that can trap still can when other lanes have advanced. -/
theorem CanTrap.traps {s : State} {x : View} {n : Nat} (hv : s.view = some x) (h : CanTrap s x n) (hn : n < 32)
    (ht : x.crs.trap ≠ .handler) (m : LaneMask) (hm : inMask m n = false) :
    Traps (advance s x.sel m) x.sel.grp x.sel.course n (x.grp.updCourse x.sel.course (fun c =>
      c.mapLanes (fun n l => if inMask m n then { l with pc := pcNext x.sel.pc } else l))) := by
  obtain ⟨-, hg, hcrs, -⟩ := view_eq hv
  have hlive := h.live
  rw [hcrs] at hlive
  obtain ⟨grp', hg', hc⟩ := hasCourse_of_live hg hlive
  obtain rfl : x.grp = grp' := Option.some.inj (hg.symm.trans hg')
  have hlane : ((x.grp.updCourse x.sel.course (fun c => c.mapLanes (fun n l =>
      if inMask m n then { l with pc := pcNext x.sel.pc } else l))).course x.sel.course).lane n = x.crs.lane n := by
    rw [course_updCourse_same _ _ _ hc, lane_mapLanes _ _ _ hn, hm, if_neg Bool.false_ne_true, hcrs]
  refine ⟨group_updCourse_of hg _ _, h.alive, hlane ▸ h.live, ?_, hlane ▸ h.noTx, hlane ▸ h.outside, ?_⟩
  · rw [Course.frozen, course_updCourse_same _ _ _ hc]
    have : (x.grp.course x.sel.course).trap ≠ .handler := hcrs ▸ ht
    simp [Course.mapLanes, this]
  · rw [advance, groupCtx_updCourse]
    simpa using h.base

/-- Settles O26: the trap is taken by the one lane of Active, after the others have advanced. -/
theorem trapInstructionsAwaitHandler : Obligations.TrapInstructionsAwaitHandler := by
  unfold Obligations.TrapInstructionsAwaitHandler
  intro k f s x n core hv ho hcan hcore hhalt htrap hq
  obtain ⟨-, hg, hcrs, -⟩ := view_eq hv
  have hn : n < 32 := inMask_lt (laneList_only ho)
  have hact : inMask (x.sel.mask &&& ~~~x.active k) n = false := by rw [inMask_without _ _ hn, laneList_only ho]; simp
  have hother : ∀ m, m < 32 → m ≠ n → inMask x.sel.mask m = true → inMask (x.sel.mask &&& ~~~x.active k) m = true := by
    intro m hm hne hin
    have : inMask (x.active k) m = false := by
      by_contra hc
      have := (mem_laneList _ _).2 (Bool.not_eq_false _ ▸ hc)
      rw [ho, List.mem_singleton] at this
      exact hne this
    rw [inMask_without _ _ hm, hin, this]; rfl
  have hcourse : s.hasCourse x.sel.grp x.sel.course := hasCourse_of_live hg (hcrs ▸ hcan.live)
  have hlane (m : Nat) : s.lane x.sel.grp x.sel.course m = x.crs.lane m := by rw [lane_of_group hg, hcrs]
  have main (c : Cause) (h1 : c ≠ .codeIntegrity) (h2 : c ≠ .poisonConsumed) :
      let t := trapLanes s x.sel (x.active k) ⟨c, f.code, x.sel.pc, none⟩
      (t.lane x.sel.grp x.sel.course n).pend = some ⟨c, f.code, x.sel.pc, none⟩
      ∧ (t.lane x.sel.grp x.sel.course n).pc = (x.crs.lane n).pc
      ∧ (t.courseAt x.sel.grp x.sel.course).trap = .waiting
      ∧ (t.core core).handlerQ = (s.core core).handlerQ ++ [(x.sel.grp, x.sel.course)]
      ∧ t.agenda = s.agenda ++ [.handlerEntry core] ∧ t.sel = none
      ∧ (∀ m, m < 32 → m ≠ n → inMask x.sel.mask m = true → (t.lane x.sel.grp x.sel.course m).pc = pcNext x.sel.pc)
      ∧ (∀ a y, (t.mem a).byte y = (s.mem a).byte y) := by
    intro t
    have ht : t = (queuedCourse (pendingLane (advance s x.sel (x.sel.mask &&& ~~~x.active k)) x.sel.grp x.sel.course n
        ⟨c, f.code, x.sel.pc, none⟩) x.sel.grp x.sel.course core).deselect :=
      trapLanes_only ho (hcan.traps hv hn htrap _ hact) h1 h2 hcore hq hhalt
    have ha : (advance s x.sel (x.sel.mask &&& ~~~x.active k)).hasCourse x.sel.grp x.sel.course := hasCourse_updCourse hcourse _ _ _
    have hl (m : Nat) : t.lane x.sel.grp x.sel.course m = (pendingLane (advance s x.sel (x.sel.mask &&& ~~~x.active k))
        x.sel.grp x.sel.course n ⟨c, f.code, x.sel.pc, none⟩).lane x.sel.grp x.sel.course m := by
      rw [ht]; exact lane_updCourse_keep _ _ _ _ _ m fun _ => rfl
    have hln : t.lane x.sel.grp x.sel.course n = { x.crs.lane n with pend := some ⟨c, f.code, x.sel.pc, none⟩, hold := .none } := by
      rw [hl, pendingLane, lane_updLane_here ha hn, lane_advance hcourse _ hn, hact, if_neg Bool.false_ne_true, hlane]
    refine ⟨by rw [hln], by rw [hln], ?_, ?_, ?_, by rw [ht]; rfl, fun m hm hne hin => ?_, fun a y => ?_⟩
    · rw [ht]
      exact congrArg Course.trap (courseAt_updCourse_same (hasCourse_updLane ha _ _ _ _) _)
    · rw [ht, queuedCourse, core_deselect, core_post, core_setCore_same]
      simp only [pendingLane, core_updLane, advance, core_updCourse]
    · rw [ht]
      simp [queuedCourse, pendingLane, advance, State.deselect, State.post]
    · rw [hl, pendingLane, lane_updLane_else _ _ _ _ _ _ hne, lane_advance hcourse _ hm, hother m hm hne hin, if_pos rfl]
    · rw [ht]
      exact ((SameMem.advance ..).trans ((SameMem.pendingLane ..).trans ((SameMem.queuedCourse ..).trans (.deselect _)))).byte a y
  simp only [List.forall_mem_cons]
  refine ⟨⟨_, ?_, main .software (by decide) (by decide)⟩, ⟨_, ?_, main .breakpoint (by decide) (by decide)⟩, List.forall_mem_nil _⟩
  · rw [exec_trap, execTrap, issue_view hv]
  · rw [exec_bkpt, execBkpt, issue_view hv]

/-! ### Entry to handler mode -/

/-- A lane after entry to handler mode at a base. -/
def Lane.enter (base : Word) (l : Lane) : Lane :=
  match l.pend with
  | some t => { l with
      inHandler := true, entryD := l.depth, trapPc := ⟨t.pc, false⟩, trapCause := ⟨trapCauseWord t, false⟩
      handled := BitVec.ofNat 8 (causeCode t.cause)
      dropped := if l.dropped = .due then .afterHandler else l.dropped
      pc := t.routine.getD base, pend := none, hold := .none }
  | none => l

theorem getV_enter (base : Word) (l : Lane) (i : Nat) : (l.enter base).getV i = l.getV i := by
  unfold Lane.enter; split <;> rfl

/-- A course after entry to handler mode at a base. -/
def Course.enter (base : Word) (x : Course) : Course := { x.mapLanes (fun _ l => l.enter base) with trap := .handler }

theorem lane_enter (base : Word) (x : Course) {n : Nat} (hn : n < 32) : (x.enter base).lane n = (x.lane n).enter base := by
  rw [Course.lane, dif_pos hn]
  simp only [Course.enter, Course.mapLanes, Vector.getElem_ofFn]
  rw [Course.lane, dif_pos hn]

/-- A core whose handler takes a course, its reserve registers zero. -/
def Core.take (k : Core) (g c : Nat) (rest : List (Nat × Nat)) : Core :=
  { k with
    handler := some (g, c), handlerQ := rest
    reserve := Vector.replicate 32 (Vector.replicate 32 0), reserveP := Vector.replicate 32 0 }

theorem getReserve_take (k : Core) (g c : Nat) (rest : List (Nat × Nat)) (n i : Nat) :
    (k.take g c rest).getReserve n i = ⟨0, false⟩ := by
  unfold Core.getReserve Core.take
  split
  · simp
  · rfl

theorem enterHandler_takes {s : State} {k g c : Nat} {rest : List (Nat × Nat)} {grp : Group} (h1 : (s.core k).handler = none)
    (h2 : (s.core k).handlerQ = (g, c) :: rest) (hg : s.group g = some grp) :
    enterHandler s k = (s.setCore k ((s.core k).take g c rest)).updCourse g c
      (Course.enter (((alGet s.ctxs (s.groupCtx grp)).map (·.trapBase)).getD 0)) := by
  unfold enterHandler
  simp only [h1, h2, hg]
  rfl

/-- Settles O27: the one update of the core and of the course's lanes. -/
theorem handlerEntrySavesState : Obligations.HandlerEntrySavesState := by
  unfold Obligations.HandlerEntrySavesState
  intro s k g c rest grp h1 h2 hg hc
  have hcourse : s.hasCourse g c := ⟨grp, hg, hc⟩
  generalize ht : enterHandler s k = t
  refine ⟨t, congrArg Host.Outcome.next ht, ?_⟩
  rw [enterHandler_takes h1 h2 hg] at ht
  generalize ((alGet s.ctxs (s.groupCtx grp)).map (·.trapBase)).getD 0 = base at ht ⊢
  have hcore : t.core k = (s.core k).take g c rest := by rw [← ht, core_updCourse, core_setCore_same]
  have hl : ∀ n, n < 32 → t.lane g c n = (s.lane g c n).enter base := fun n hn => by
    rw [← ht, lane_updCourse_same (hasCourse_setCore hcourse _ _), courseAt_setCore]
    exact lane_enter base _ hn
  refine ⟨by rw [hcore]; rfl, by rw [hcore]; rfl, fun n i => by rw [hcore, getReserve_take], ?_, fun n hn p hp => ?_,
    fun n hn hp => ?_, fun n i hn => by rw [hl n hn, getV_enter]⟩
  · rw [← ht, courseAt_updCourse_same (hasCourse_setCore hcourse _ _)]; rfl
  · rw [hl n hn, Lane.enter, hp]
    exact ⟨rfl, rfl, rfl, rfl, rfl, rfl⟩
  · rw [hl n hn, Lane.enter, hp]

end Sys2Proof.Machine
end

section
/-!
PROOFS. Masked writes of a sector.
-/

namespace Sys2Proof.Machine

/-! ### Masked writes of a sector -/

/-- A masked write touches the bytes whose mask is not zero, each by its own bits. -/
theorem byte_writeMasked (m : Memory) (a n d k x : Nat) (h : m.wf = true) :
    (writeMasked m a n d k).byte x = if a ≤ x ∧ x < a + n then
      (m.byte x &&& ~~~BitVec.ofNat 8 (k / 256 ^ (x - a))) ||| (BitVec.ofNat 8 (d / 256 ^ (x - a)) &&& BitVec.ofNat 8 (k / 256 ^ (x - a)))
    else m.byte x := by
  induction n generalizing m a d k with
  | zero => rw [if_neg (by omega)]; rfl
  | succ n ih =>
    have hstep (y : Nat) : (if BitVec.ofNat 8 k = 0 then m else
        m.setByte a ((m.byte a &&& ~~~BitVec.ofNat 8 k) ||| (BitVec.ofNat 8 d &&& BitVec.ofNat 8 k))).byte y
        = if y = a then (m.byte a &&& ~~~BitVec.ofNat 8 k) ||| (BitVec.ofNat 8 d &&& BitVec.ofNat 8 k) else m.byte y := by
      by_cases hk : BitVec.ofNat 8 k = 0
      · rw [if_pos hk, show BitVec.ofNat 8 k = 0#8 from hk]
        by_cases e : y = a
        · subst e
          rw [if_pos rfl, BitVec.and_zero, BitVec.or_zero, BitVec.not_zero, BitVec.and_allOnes]
        · rw [if_neg e]
      · rw [if_neg hk, byte_setByte m a y _ h]
    have hwf : (if BitVec.ofNat 8 k = 0 then m else
        m.setByte a ((m.byte a &&& ~~~BitVec.ofNat 8 k) ||| (BitVec.ofNat 8 d &&& BitVec.ofNat 8 k))).wf = true := by
      split
      · exact h
      · exact wf_setByte _ _ _ h
    rw [writeMasked]
    rw [ih _ _ _ _ hwf, hstep]
    by_cases e : x = a
    · subst e
      rw [if_neg (by omega), if_pos rfl, if_pos (by omega), Nat.sub_self, Nat.pow_zero, Nat.div_one, Nat.div_one]
    · rw [if_neg e]
      by_cases hx : a + 1 ≤ x ∧ x < a + 1 + n
      · have hp : x - a = (x - (a + 1)) + 1 := by omega
        rw [if_pos hx, if_pos (by omega), hp, Nat.pow_succ, Nat.mul_comm (256 ^ _), ← Nat.div_div_eq_div_mul, ← Nat.div_div_eq_div_mul]
      · rw [if_neg hx, if_neg (by omega)]

/-- Byte j of a number is its eight bits from 8 j. -/
theorem ofNat_div_pow (x : BitVec 256) (j : Nat) : BitVec.ofNat 8 (x.toNat / 256 ^ j) = x.extractLsb' (8 * j) 8 := by
  apply BitVec.eq_of_toNat_eq
  rw [BitVec.toNat_ofNat, BitVec.extractLsb'_toNat, Nat.shiftRight_eq_div_pow, Nat.pow_mul]

theorem byte_apply (m : Memory) (w : SecWrite) (a : Nat) (h : m.wf = true) :
    (m.apply w).byte a = if a / 32 = w.sector then
      (m.byte a &&& ~~~(w.mask.extractLsb' (8 * (a % 32)) 8))
        ||| (w.data.extractLsb' (8 * (a % 32)) 8 &&& w.mask.extractLsb' (8 * (a % 32)) 8)
    else m.byte a := by
  have hb : (m.apply w).byte a = (writeMasked m (32 * w.sector) 32 w.data.toNat w.mask.toNat).byte a := by
    unfold Memory.apply
    simp only
    split
    · rfl
    · split <;> rfl
  rw [hb, byte_writeMasked _ _ _ _ _ _ h]
  by_cases e : a / 32 = w.sector
  · have hj : a - 32 * w.sector = a % 32 := by omega
    rw [if_pos (by omega), if_pos e, hj, ofNat_div_pow, ofNat_div_pow]
  · rw [if_neg (by omega), if_neg e]

/-- A byte outside the sector of a masked write is as before. -/
theorem byte_apply_other (m : Memory) (w : SecWrite) (a : Nat) (h : m.wf = true) (ha : a / 32 ≠ w.sector) :
    (m.apply w).byte a = m.byte a := by
  rw [byte_apply m w a h, if_neg ha]

theorem isPoisoned_writeMasked (m : Memory) (a n d k s : Nat) : (writeMasked m a n d k).isPoisoned s = m.isPoisoned s := by
  induction n generalizing m a d k with
  | zero => rfl
  | succ n ih =>
    rw [writeMasked]
    rw [ih]
    split <;> rfl

theorem isPoisoned_clean (m : Memory) (k j : Nat) :
    (m.setPoison k false).isPoisoned j = if j = k then false else m.isPoisoned j := by
  apply Bool.eq_iff_iff.2
  simp only [Memory.setPoison, Memory.isPoisoned, Bool.false_eq_true, if_false, List.contains_eq_mem, decide_eq_true_eq,
    List.mem_filter, bne_iff_ne]
  by_cases e : j = k <;> simp [e]

theorem isPoisoned_dirty (m : Memory) (k j : Nat) :
    (m.setPoison k true).isPoisoned j = if j = k then true else m.isPoisoned j := by
  by_cases e : j = k
  · rw [if_pos e, e, isPoisoned_setPoison]
  · rw [if_neg e, isPoisoned_setPoison_other m e]

theorem isPoisoned_apply (m : Memory) (w : SecWrite) (k : Nat) :
    (m.apply w).isPoisoned k = if k = w.sector then
      (if w.poison then true else if w.mask = BitVec.allOnes 256 then false else m.isPoisoned k)
    else m.isPoisoned k := by
  unfold Memory.apply
  simp only
  by_cases hp : w.poison = true
  · rw [if_pos hp, isPoisoned_dirty, isPoisoned_writeMasked, if_pos hp]
  · rw [if_neg hp, if_neg hp]
    by_cases hm : w.mask = BitVec.allOnes 256
    · rw [if_pos hm, if_pos hm, isPoisoned_clean, isPoisoned_writeMasked]
    · rw [if_neg hm, if_neg hm, isPoisoned_writeMasked, ite_self]

/-- Settles O12. -/
theorem sectorWrites : Obligations.SectorWrites :=
  ⟨byte_apply, fun m w k _ => isPoisoned_apply m w k⟩

end Sys2Proof.Machine
end

section
/-!
PROOFS. What reads at their homes, walks and page requests leave as it is.
-/

namespace Sys2Proof.Machine

/-! ### What reads leave as it is -/

/-- The state t with what reads touch as s has it. -/
def withReads (s t : State) : State :=
  { t with
    l2 := s.l2, meters := s.meters, accessRecords := s.accessRecords, ports := s.ports, parts := s.parts
    agenda := s.agenda, reqs := s.reqs, nextReq := s.nextReq, failed := s.failed, free := s.free }

/-- From s to t only what reads at their homes, walks and page requests touch has changed: the slices, the meters, the
records of accesses, the ports but for the writes they hold, the partitions, the requests, the agenda and the model's
counters. -/
structure Reads (s t : State) : Prop where
  writes : ∀ k, (t.port k).writes = (s.port k).writes
  rest : withReads s t = s

theorem Reads.refl (s : State) : Reads s s := ⟨fun _ => rfl, rfl⟩

theorem Reads.trans {s t u : State} (h : Reads s t) (k : Reads t u) : Reads s u := by
  refine ⟨fun p => (k.writes p).trans (h.writes p), ?_⟩
  have a := h.rest
  rw [← k.rest] at a
  exact a

theorem Reads.of_ports {s t : State} (hp : t.ports = s.ports)
    (h : withReads s t = s) :
    Reads s t := ⟨fun k => by simp only [State.port, hp], h⟩

theorem Reads.foldl {α : Type} (f : State → α → State) (hf : ∀ s a, Reads s (f s a)) (l : List α) (s : State) :
    Reads s (l.foldl f s) := by
  induction l generalizing s with
  | nil => exact .refl s
  | cons a l ih => exact (hf s a).trans (ih _)

theorem Reads.sameMem {s t : State} (h : Reads s t) : SameMem s t :=
  ⟨(congrArg State.hbm h.rest :), (congrArg State.host h.rest :), (congrArg State.peers h.rest :),
    fun c => congrArg (fun k : List (Nat × Core) => ((alGet k c).getD Core.reset).scratch) (congrArg State.cores h.rest :),
    h.writes, congrArg Booted.pcie (congrArg State.boot h.rest :)⟩

theorem Reads.groups {s t : State} (h : Reads s t) : t.groups = s.groups := (congrArg State.groups h.rest :)
theorem Reads.cores {s t : State} (h : Reads s t) : t.cores = s.cores := (congrArg State.cores h.rest :)
theorem Reads.launches {s t : State} (h : Reads s t) : t.launches = s.launches := (congrArg State.launches h.rest :)
theorem Reads.ctxs {s t : State} (h : Reads s t) : t.ctxs = s.ctxs := (congrArg State.ctxs h.rest :)
theorem Reads.memoryOk {s t : State} (h : Reads s t) (k : s.MemoryOk) : t.MemoryOk :=
  MemoryOk.of_eq k (congrArg State.hbm h.rest :) (congrArg State.host h.rest :) (congrArg State.peers h.rest :) h.cores h.groups

theorem Reads.l2Access (s : State) (k : Nat) (u : L2Use) : Reads s (s.l2Access k u) := .of_ports rfl rfl
theorem Reads.takeFree (s : State) : Reads s s.takeFree.2 := .of_ports rfl rfl
theorem Reads.post (s : State) (i : Instr) : Reads s (s.post i) := .of_ports rfl rfl

theorem Reads.chargePayer (s : State) (k n : Nat) : Reads s (s.chargePayer k n) := by
  unfold State.chargePayer
  split
  · exact .of_ports rfl rfl
  · exact .refl s

/-! ### Flits of a port -/

theorem writes_pump (p : Port) (fs : List Flit) : (p.pump fs).writes = p.replay.flatMap (·.writes) ++ fs.flatMap (·.writes) := by
  induction fs generalizing p with
  | nil => simp [Port.pump, Port.writes]
  | cons f fs ih =>
    rw [Port.pump]
    split
    · rw [ih]; simp
    · simp [Port.writes]

theorem writes_send (p : Port) : p.send.writes = p.writes := by
  unfold Port.send
  split
  · rw [writes_pump, Port.writes, List.flatMap_append]
  · rfl

theorem updPort_rest (s : State) (k : Nat) (f : Port → Port) : { s.updPort k f with ports := s.ports } = s := by
  unfold State.updPort; split <;> rfl

theorem port_updPort (s : State) (k j : Nat) (f : Port → Port) :
    (s.updPort k f).port j = if j = k ∧ k < 12 then f (s.port j) else s.port j := by
  by_cases hk : k < 12
  · by_cases e : j = k
    · subst e
      rw [if_pos ⟨rfl, hk⟩]
      simp [State.updPort, State.port, hk]
    · rw [if_neg (fun h => e h.1)]
      by_cases hj : j < 12
      · simp [State.updPort, State.port, hk, hj, Vector.getElem_set_ne, Ne.symm e]
      · simp [State.port, hj]
  · rw [if_neg (fun h => hk h.2)]
    simp [State.updPort, hk]

/-- The writes of a flit join those that its port holds. -/
theorem writes_sendFlit (s : State) (k kind : Nat) (po : BitVec 8) (ws : List SecWrite) (posted : Bool) (j : Nat) :
    ((sendFlit s k kind po ws posted).port j).writes = (s.port j).writes ++ if j = k ∧ k < 12 then ws else [] := by
  rw [sendFlit, port_updPort]
  split
  · rw [writes_send, Port.writes, Port.writes, ← List.append_assoc, List.flatMap_append]
    simp
  · simp

theorem Reads.request (s : State) (k kind : Nat) (po : BitVec 8) (posted : Bool) : Reads s (sendFlit s k kind po [] posted) := by
  refine ⟨fun j => by rw [writes_sendFlit, ite_self, List.append_nil], ?_⟩
  have h := updPort_rest s k (fun p => Port.send { p with waiting := p.waiting ++ [⟨0, 0, BitVec.ofNat 8 kind, po, [], posted⟩] })
  exact (congrArg (withReads s) h :)

/-- A read at a home. -/
theorem Reads.readAt (s : State) (t : Tgt) (a n : Nat) : Reads s (s.readAt t a n) := by
  cases t with
  | hbm =>
    simp only [State.readAt]
    split
    · exact .refl s
    · exact .foldl _ (fun _ _ => .l2Access ..) _ _
  | host => exact .chargePayer ..
  | peer k => exact (Reads.chargePayer s 3 n).trans (.request ..)
  | scratch c => exact .refl s

/-! ### Walks and page requests -/

theorem Reads.cacheWalk (s : State) (ctx va : Nat) : Reads s (cacheWalk s ctx va) := by
  have h := cacheWalk_rest s ctx va
  exact .of_ports (congrArg State.ports h :) (congrArg (withReads s) h :)

theorem Reads.walkTraffic (s : State) (p : Part) (r va : Nat) : Reads s (walkTraffic s p r va) :=
  .foldl _ (fun _ _ => .l2Access ..) _ _

theorem Reads.freshWalk (s : State) (ctx : Nat) (c : Ctx) (va : Nat) (need : Need) : Reads s (freshWalk s ctx c va need).2 :=
  (Reads.cacheWalk s ctx va).trans (.walkTraffic ..)

theorem Reads.translate (s : State) (ctx va : Nat) (need : Need) : Reads s (translate s ctx va need).2 := by
  obtain ⟨F, hF⟩ : ∃ F, F = @Machine.freshWalk := ⟨_, rfl⟩
  have hfresh : ∀ s ctx c va need, Reads s (F s ctx c va need).2 := hF ▸ Reads.freshWalk
  unfold Machine.translate
  rw [← hF]
  split
  · exact .refl s
  · split
    · exact .refl s
    · dsimp only
      split
      · split
        · exact .takeFree s
        · exact (Reads.takeFree s).trans (hfresh ..)
      · exact hfresh ..

theorem Reads.raiseReq (s : State) (i : ReqInfo) (st lv ea a : Nat) : Reads s (raiseReq s i st lv ea a).2 := by
  unfold Machine.raiseReq
  split
  · exact .refl s
  · dsimp only
    split
    · exact .of_ports rfl rfl
    · dsimp only
      split
      · exact .of_ports rfl rfl
      · exact .of_ports rfl rfl

theorem Reads.translateList (s : State) (i : ReqInfo) (vs : List Nat) : Reads s (translateList s i vs).2 := by
  induction vs generalizing s with
  | nil => exact .refl s
  | cons va vs ih =>
    have h0 := Reads.translate s i.ctx va i.need
    rw [Machine.translateList]
    generalize Machine.translate s i.ctx va i.need = r at h0 ⊢
    obtain ⟨t, s₀⟩ := r
    have h1 := h0.trans (ih s₀)
    dsimp only at h1 ⊢
    generalize Machine.translateList s₀ i vs = q at h1 ⊢
    obtain ⟨rest, s₁⟩ := q
    cases t with
    | ok => exact h1
    | fatal => exact h0
    | fault st lv ea a =>
      cases rest with
      | fatal => exact h0
      | ok => exact h1.trans (.raiseReq ..)
      | fault => exact h1.trans (.raiseReq ..)

theorem Reads.translateRange (s : State) (i : ReqInfo) (va n : Nat) : Reads s (translateRange s i va n).2 := by
  unfold Machine.translateRange
  dsimp only
  split
  · exact .of_ports rfl rfl
  · split
    · exact .refl s
    · exact .translateList ..

theorem Reads.ctxRead (s : State) (i : ReqInfo) (va n : Nat) : Reads s (ctxRead s i va n).2 := by
  have h0 := Reads.translateRange s i va n
  unfold Machine.ctxRead
  dsimp only
  generalize Machine.translateRange s i va n = r at h0 ⊢
  obtain ⟨t, s₀⟩ := r
  cases t with
  | ok places =>
    dsimp only
    split
    · exact h0
    · exact h0.trans (.foldl _ (fun _ _ => .readAt ..) _ _)
  | fault => exact h0
  | fatal => exact h0

/-- The places of an access are found. -/
theorem Reads.resolve (s : State) (g : Group) (core c n : Nat) (a : Access) (need : Need) (source : Nat) :
    Reads s (resolve s g core c n a need source).2 := by
  unfold Machine.resolve
  split
  · exact .refl s
  · exact .refl s
  · have h0 := Reads.translateList s (laneReq s g need source) (pagesOf ((virtParts g c n a).map (·.1)))
    dsimp only
    generalize Machine.translateList s (laneReq s g need source) (pagesOf ((virtParts g c n a).map (·.1))) = r at h0 ⊢
    obtain ⟨t, s₀⟩ := r
    cases t <;> exact h0

end Sys2Proof.Machine
end

section
/-!
PROOFS. What writes at their homes leave as it is, and the agents that read and write a context's memory.
-/

namespace Sys2Proof.Machine

/-! ### What writes leave as it is -/

/-- The state t with what writes at their homes touch as s has it. -/
def withWrites (s t : State) : State :=
  { withReads s t with
    hbm := s.hbm, host := s.host, peers := s.peers, cores := s.cores, queues := s.queues, ctxs := s.ctxs }

/-- From s to t only what reads and writes at their homes touch has changed, and the memories keep their canonical form:
every group and every launch is as before. -/
structure Writes (s t : State) : Prop where
  rest : withWrites s t = s
  ok : s.MemoryOk → t.MemoryOk

theorem Writes.refl (s : State) : Writes s s := ⟨rfl, id⟩

theorem Writes.trans {s t u : State} (h : Writes s t) (k : Writes t u) : Writes s u := by
  refine ⟨?_, k.ok ∘ h.ok⟩
  have a := h.rest
  rw [← k.rest] at a
  exact a

theorem Writes.foldl {α : Type} (f : State → α → State) (hf : ∀ s a, Writes s (f s a)) (l : List α) (s : State) :
    Writes s (l.foldl f s) := by
  induction l generalizing s with
  | nil => exact .refl s
  | cons a l ih => exact (hf s a).trans (ih _)

theorem Reads.toWrites {s t : State} (h : Reads s t) : Writes s t := ⟨(congrArg (withWrites s) h.rest :), h.memoryOk⟩

theorem Writes.groups {s t : State} (h : Writes s t) : t.groups = s.groups := (congrArg State.groups h.rest :)
theorem Writes.launches {s t : State} (h : Writes s t) : t.launches = s.launches := (congrArg State.launches h.rest :)
theorem Writes.group {s t : State} (h : Writes s t) (g : Nat) : t.group g = s.group g := by
  simp only [State.group, h.groups]

theorem Writes.updPort (s : State) (k : Nat) (f : Port → Port) : Writes s (s.updPort k f) :=
  ⟨(congrArg (withWrites s) (updPort_rest s k f) :), (MemoryOk.updPort · k f)⟩

theorem updPart_rest (s : State) (i : Nat) (f : Part → Part) : { s.updPart i f with parts := s.parts } = s := by
  unfold State.updPart; split <;> rfl

theorem Writes.updPart (s : State) (i : Nat) (f : Part → Part) : Writes s (s.updPart i f) :=
  ⟨(congrArg (withWrites s) (updPart_rest s i f) :), fun h => MemoryOk.of_eq h (by simp) (by simp) (by simp) (by simp) (by simp)⟩

theorem Writes.post (s : State) (i : Instr) : Writes s (s.post i) := (Reads.post s i).toWrites
theorem Writes.chargePayer (s : State) (k n : Nat) : Writes s (s.chargePayer k n) := (Reads.chargePayer s k n).toWrites
theorem Writes.setMem (s : State) (t : Tgt) (m : Memory) (h : s.MemoryOk → m.wf = true) : Writes s (s.setMem t m) :=
  ⟨by cases t <;> rfl, fun k => MemoryOk.setMem k t m (h k)⟩

theorem Writes.setCore (s : State) (c : Nat) (k : Core) (h : s.MemoryOk → k.scratch.wf = true) : Writes s (s.setCore c k) :=
  ⟨rfl, fun j => MemoryOk.setCore j c k (h j)⟩

theorem Writes.linkEvent (s : State) (k : Nat) (lost : Bool) : Writes s (linkEvent s k lost) := by
  unfold Machine.linkEvent
  split
  · exact .refl s
  · split
    · exact .refl s
    · exact (Writes.updPart ..).trans (.post ..)

theorem Writes.addLost (s : State) (k n : Nat) : Writes s (addLost s k n) := by
  unfold Machine.addLost
  dsimp only
  split
  · exact .refl s
  · exact (Writes.updPort ..).trans (.linkEvent ..)

theorem Writes.sendFlit (s : State) (k kind : Nat) (po : BitVec 8) (ws : List SecWrite) (p : Bool) :
    Writes s (sendFlit s k kind po ws p) := .updPort ..

theorem Writes.far (s : State) (w : SecWrite) : Writes s (s.setMem w.tgt ((s.far w.tgt).apply w)) :=
  .setMem _ _ _ fun h => wf_apply _ _ (MemoryOk.far h _)

theorem Writes.deliverWrite (s : State) (w : SecWrite) : Writes s (deliverWrite s w) := by
  unfold Machine.deliverWrite
  split
  · split
    · exact .addLost ..
    · exact .refl s
  · exact .far s w

theorem Writes.deliverFlit (s : State) (f : Flit) : Writes s (deliverFlit s f) := by
  refine .foldl _ (fun s w => ?_) _ _
  split
  · exact .deliverWrite s w
  · exact .far s w

theorem Writes.noteWaits (s : State) (w : SecWrite) : Writes s (s.noteWaits w) :=
  ⟨by unfold State.noteWaits; split <;> rfl, (MemoryOk.noteWaits · w)⟩

/-- A write at its home. -/
theorem Writes.sendWrite (s : State) (posted : Bool) (w : SecWrite) : Writes s (s.sendWrite posted w) := by
  have hm : Writes s (s.setMem w.tgt ((s.mem w.tgt).apply w)) := .setMem _ _ _ fun h => wf_apply _ _ (MemoryOk.mem h _)
  unfold State.sendWrite
  split
  · split
    · split
      · exact .addLost ..
      · exact .refl s
    · exact (Writes.chargePayer ..).trans (.sendFlit ..)
  · split
    · split
      · exact .addLost ..
      · exact .refl s
    · dsimp only
      split
      · exact (Writes.chargePayer s 3 _).trans (.updPort ..)
      · exact (Writes.chargePayer s 3 _).trans (.deliverFlit ..)
  · exact hm.trans ((Writes.noteWaits ..).trans (Reads.l2Access ..).toWrites)
  · exact hm

theorem Writes.applyWrites (s : State) (ws : List SecWrite) : Writes s (s.applyWrites ws) :=
  .foldl _ (fun s w => .sendWrite s true w) _ _

theorem Writes.store (s : State) (t : Tgt) (a n v : Nat) (p : Bool) : Writes s (s.store t a n v p) := .applyWrites ..

theorem Writes.homeWrite (s : State) (core : Nat) (w : SecWrite) : Writes s (homeWrite s core w) := by
  have h := Writes.sendWrite s true w
  unfold Machine.homeWrite
  dsimp only
  split
  · exact h
  · split
    · exact h.trans (.setCore _ _ _ fun k => MemoryOk.core k _)
    · exact h

theorem updCtx_rest (s : State) (i : Nat) (f : Ctx → Ctx) : { s.updCtx i f with ctxs := s.ctxs } = s := by
  unfold State.updCtx; split <;> rfl

theorem Writes.updCtx (s : State) (i : Nat) (f : Ctx → Ctx) : Writes s (s.updCtx i f) :=
  ⟨(congrArg (withWrites s) (updCtx_rest s i f) :), fun h => MemoryOk.of_eq h (by simp) (by simp) (by simp) (by simp) (by simp)⟩

/-! ### Agents of the device that read and write a context's memory -/

theorem Writes.ctxRead (s : State) (i : ReqInfo) (va n : Nat) : Writes s (ctxRead s i va n).2 := (Reads.ctxRead ..).toWrites

theorem foldl_fst {α β : Type} (f : State × α → β → State × α) (hf : ∀ a b, Writes a.1 (f a b).1) (l : List β) (a : State × α) :
    Writes a.1 (l.foldl f a).1 := by
  induction l generalizing a with
  | nil => exact .refl _
  | cons b l ih => exact (hf a b).trans (ih _)

theorem Writes.ctxWrite (s : State) (i : ReqInfo) (va n v : Nat) (p : Bool) : Writes s (ctxWrite s i va n v p).2 := by
  have h0 := (Reads.translateRange s i va n).toWrites
  unfold Machine.ctxWrite
  dsimp only
  generalize Machine.translateRange s i va n = r at h0 ⊢
  obtain ⟨t, s₀⟩ := r
  cases t with
  | ok places => exact h0.trans (foldl_fst _ (fun a e => .store ..) _ (s₀, v))
  | fault => exact h0
  | fatal => exact h0

theorem Writes.errLose (s : State) (i : Nat) (c : Ctx) (info : ReqInfo) : Writes s (errLose s i c info) := by
  unfold Machine.errLose
  have h0 := Writes.ctxRead s info (c.errBase + 0x10) 8
  dsimp only
  generalize Machine.ctxRead s info (c.errBase + 0x10) 8 = rd at h0 ⊢
  obtain ⟨r, s₀⟩ := rd
  cases r with
  | error => exact h0.trans (.updCtx ..)
  | ok v =>
    have h1 := h0.trans (.ctxWrite s₀ { info with need := .write } (c.errBase + 0x10) 8 (v.1 + c.errLost + 1) false)
    dsimp only at h1 ⊢
    generalize Machine.ctxWrite s₀ { info with need := .write } (c.errBase + 0x10) 8 (v.1 + c.errLost + 1) = w at h1 ⊢
    obtain ⟨q, s₁⟩ := w
    cases q <;> exact h1.trans (.updCtx ..)

theorem Writes.writeErr (s : State) (i : Nat) (rec : BitVec 256) : Writes s (writeErr s i rec) := by
  unfold Machine.writeErr
  split
  · exact .refl s
  next c _ =>
    have h0 := Writes.ctxRead s ⟨i, .read, 8, none, errorAgent i⟩ (c.errBase + 8) 8
    dsimp only
    generalize Machine.ctxRead s ⟨i, .read, 8, none, errorAgent i⟩ (c.errBase + 8) 8 = hd at h0 ⊢
    obtain ⟨r, s₀⟩ := hd
    dsimp only at h0 ⊢
    split
    · exact h0.trans (.updCtx ..)
    · exact h0.trans (.updCtx ..)
    next head _ _ =>
      have h1 := h0.trans (Reads.translateRange s₀ ⟨i, .write, 8, none, errorAgent i⟩ c.errBase 8).toWrites
      generalize Machine.translateRange s₀ ⟨i, .write, 8, none, errorAgent i⟩ c.errBase 8 = q at h1 ⊢
      obtain ⟨p, s₁⟩ := q
      cases p with
      | fault => exact h1.trans (.updCtx ..)
      | fatal => exact h1.trans (.updCtx ..)
      | ok places =>
        dsimp only at h1 ⊢
        split
        · exact h1.trans (.errLose ..)
        · have h2 := h1.trans (.ctxWrite s₁ ⟨i, .write, 8, none, errorAgent i⟩
            (c.errBase + 64 + 32 * (c.errTail % max 1 c.errCount)) 32 rec.toNat false)
          generalize Machine.ctxWrite s₁ ⟨i, .write, 8, none, errorAgent i⟩
            (c.errBase + 64 + 32 * (c.errTail % max 1 c.errCount)) 32 rec.toNat false = w at h2 ⊢
          obtain ⟨o, s₂⟩ := w
          cases o with
          | fault => exact h2.trans (.updCtx ..)
          | fatal => exact h2.trans (.errLose ..)
          | ok ps =>
            have h3 := h2.trans ((Writes.foldl (fun s (e : Tgt × Nat) => s.store e.1 e.2 8 (c.errTail + 1)) (fun s e => .store ..)
              places s₂).trans (.updCtx _ i (fun c => { c with errTail := c.errTail + 1 })))
            dsimp only at h3 ⊢
            split
            · exact h3
            · generalize State.updCtx (List.foldl _ s₂ places) i _ = s₃ at h3 ⊢
              have h4 := h3.trans (.ctxRead s₃ ⟨i, .read, 8, none, errorAgent i⟩ (c.errBase + 0x10) 8)
              generalize Machine.ctxRead s₃ ⟨i, .read, 8, none, errorAgent i⟩ (c.errBase + 0x10) 8 = rd at h4 ⊢
              obtain ⟨v, s₄⟩ := rd
              cases v with
              | error => exact h4
              | ok v =>
                have h5 := h4.trans (.ctxWrite s₄ ⟨i, .write, 8, none, errorAgent i⟩ (c.errBase + 0x10) 8 (v.1 + c.errLost) false)
                dsimp only at h5 ⊢
                generalize Machine.ctxWrite s₄ ⟨i, .write, 8, none, errorAgent i⟩ (c.errBase + 0x10) 8 (v.1 + c.errLost) = w at h5 ⊢
                obtain ⟨o, s₅⟩ := w
                cases o with
                | ok => exact h5.trans (.updCtx ..)
                | fault => exact h5
                | fatal => exact h5

end Sys2Proof.Machine
end

section
/-!
PROOFS. What stores that reach their homes, and the ends of lanes and groups, keep; and the steps of groups.
-/

namespace Sys2Proof.Machine

/-! ### What the ends of lanes and groups keep -/

/-- What a lane keeps when it ends, or its group does: its PC, its depth and its V registers; and it enters no handler. -/
structure LaneKept (l r : Lane) : Prop where
  pc : r.pc = l.pc
  depth : r.depth = l.depth
  v : r.v = l.v
  vP : r.vP = l.vP
  outside : l.inHandler = false → r.inHandler = false

theorem LaneKept.refl (l : Lane) : LaneKept l l := ⟨rfl, rfl, rfl, rfl, id⟩
theorem LaneKept.trans {l r q : Lane} (h : LaneKept l r) (k : LaneKept r q) : LaneKept l q :=
  ⟨k.pc.trans h.pc, k.depth.trans h.depth, k.v.trans h.v, k.vP.trans h.vP, k.outside ∘ h.outside⟩
theorem LaneKept.getV {l r : Lane} (h : LaneKept l r) (i : Nat) : r.getV i = l.getV i := by
  simp only [Lane.getV, h.v, h.vP]

/-- What a group keeps when stores reach their homes, records of errors are written, and lanes and groups end: its launch,
and what its lanes keep. -/
structure GroupKept (x y : Group) : Prop where
  launch : y.launch = x.launch
  lanes : ∀ c n, LaneKept ((x.course c).lane n) ((y.course c).lane n)

theorem GroupKept.refl (x : Group) : GroupKept x x := ⟨rfl, fun _ _ => .refl _⟩
theorem GroupKept.trans {x y z : Group} (h : GroupKept x y) (k : GroupKept y z) : GroupKept x z :=
  ⟨k.launch.trans h.launch, fun c n => (h.lanes c n).trans (k.lanes c n)⟩

/-- Every group of s is one of t and is kept, and the memories keep their canonical form. -/
structure Keeps (s t : State) : Prop where
  group : ∀ g x, s.group g = some x → ∃ y, t.group g = some y ∧ GroupKept x y
  ok : s.MemoryOk → t.MemoryOk

theorem Keeps.refl (s : State) : Keeps s s := ⟨fun _ x h => ⟨x, h, .refl x⟩, id⟩

theorem Keeps.trans {s t u : State} (h : Keeps s t) (k : Keeps t u) : Keeps s u := by
  refine ⟨fun g x hx => ?_, k.ok ∘ h.ok⟩
  obtain ⟨y, hy, a⟩ := h.group g x hx
  obtain ⟨z, hz, b⟩ := k.group g y hy
  exact ⟨z, hz, a.trans b⟩

theorem Keeps.foldl {α : Type} (f : State → α → State) (hf : ∀ s a, Keeps s (f s a)) (l : List α) (s : State) :
    Keeps s (l.foldl f s) := by
  induction l generalizing s with
  | nil => exact .refl s
  | cons a l ih => exact (hf s a).trans (ih _)

theorem Keeps.of_groups {s t : State} (h : t.groups = s.groups) (ok : s.MemoryOk → t.MemoryOk) : Keeps s t :=
  ⟨fun g x hx => ⟨x, by rw [← hx]; simp only [State.group, h], .refl x⟩, ok⟩

theorem Writes.keeps {s t : State} (h : Writes s t) : Keeps s t := .of_groups h.groups h.ok

/-- A change of neither groups nor anything that holds a memory. -/
theorem Keeps.of_eq {s t : State} (h1 : t.hbm = s.hbm) (h2 : t.host = s.host) (h3 : t.peers = s.peers)
    (h4 : t.cores = s.cores) (h5 : t.groups = s.groups) : Keeps s t :=
  .of_groups h5 fun h => MemoryOk.of_eq h h1 h2 h3 h4 h5

theorem Keeps.lane {s t : State} (h : Keeps s t) {g : Nat} {x : Group} (hg : s.group g = some x) (c n : Nat) :
    LaneKept (s.lane g c n) (t.lane g c n) := by
  obtain ⟨y, hy, k⟩ := h.group g x hg
  rw [lane_of_group hg, lane_of_group hy]
  exact k.lanes c n

theorem MemoryOk.updGroup {s : State} (h : s.MemoryOk) (g : Nat) (f : Group → Group)
    (hf : ∀ x, x.savedScratch.wf = true → (f x).savedScratch.wf = true) : (s.updGroup g f).MemoryOk := by
  unfold State.updGroup
  split
  next x hx => exact MemoryOk.setGroup h g _ (hf x (h.saved _ (mem_of_alGet _ _ _ hx)))
  · exact h

theorem updGroup_keeps (s : State) (g : Nat) (f : Group → Group) (hk : ∀ x, GroupKept x (f x))
    (hs : ∀ x, (f x).savedScratch = x.savedScratch) : Keeps s (s.updGroup g f) := by
  refine ⟨fun h x hx => ?_, fun ok => MemoryOk.updGroup ok g f fun x hx => (hs x).symm ▸ hx⟩
  rw [group_updGroup]
  by_cases e : h = g
  · rw [if_pos e, ← e, hx]
    exact ⟨f x, rfl, hk x⟩
  · rw [if_neg e, hx]
    exact ⟨x, rfl, .refl x⟩

theorem GroupKept.updCourse (x : Group) (c : Nat) (f : Course → Course) (hf : ∀ y n, LaneKept (Course.lane y n) ((f y).lane n)) :
    GroupKept x (x.updCourse c f) := by
  refine ⟨rfl, fun d n => ?_⟩
  rw [course_updCourse]
  split
  next h => rw [h.1]; exact hf _ n
  · exact .refl _

theorem LaneKept.updLane (x : Course) (m n : Nat) (f : Lane → Lane) (hf : ∀ l, LaneKept l (f l)) :
    LaneKept (x.lane n) ((x.updLane m f).lane n) := by
  by_cases e : n = m
  · subst e
    by_cases hn : n < 32
    · rw [lane_updLane_same _ _ _ hn]; exact hf _
    · simp only [Course.lane, hn, dif_neg, not_false_eq_true]; exact .refl _
  · rw [lane_updLane_other _ _ _ _ e]; exact .refl _

theorem LaneKept.mapLanes (x : Course) (n : Nat) (f : Nat → Lane → Lane) (hf : ∀ m l, LaneKept l (f m l)) :
    LaneKept (x.lane n) ((x.mapLanes f).lane n) := by
  by_cases hn : n < 32
  · rw [lane_mapLanes _ _ _ hn]; exact hf _ _
  · simp only [Course.lane, hn, dif_neg, not_false_eq_true]; exact .refl _

section
variable {s t : State}

theorem Keeps.updGroup (h : Keeps s t) (g : Nat) (f : Group → Group) (hk : ∀ x, GroupKept x (f x))
    (hs : ∀ x, (f x).savedScratch = x.savedScratch) : Keeps s (t.updGroup g f) := h.trans (updGroup_keeps t g f hk hs)

theorem Keeps.updCourse (h : Keeps s t) (g c : Nat) (f : Course → Course)
    (hf : ∀ y n, LaneKept (Course.lane y n) ((f y).lane n)) : Keeps s (t.updCourse g c f) :=
  h.updGroup g _ (fun x => .updCourse x c f hf) fun _ => rfl

theorem Keeps.updLane (h : Keeps s t) (g c n : Nat) (f : Lane → Lane) (hf : ∀ l, LaneKept l (f l)) :
    Keeps s (t.updLane g c n f) := h.updCourse g c _ fun y m => .updLane y n m f hf

theorem Keeps.post (h : Keeps s t) (i : Instr) : Keeps s (t.post i) := h.trans (.of_eq rfl rfl rfl rfl rfl)
theorem Keeps.ite_post (h : Keeps s t) (b : Bool) (i : Instr) : Keeps s (if b then t.post i else t) := by
  cases b
  · exact h
  · exact h.post i
theorem Keeps.postOnce (h : Keeps s t) (i : Instr) : Keeps s (t.postOnce i) := h.trans (by apply Keeps.of_eq <;> simp)
theorem Keeps.updPart (h : Keeps s t) (i : Nat) (f : Part → Part) : Keeps s (t.updPart i f) :=
  h.trans (by apply Keeps.of_eq <;> simp)
theorem Keeps.updCtx (h : Keeps s t) (i : Nat) (f : Ctx → Ctx) : Keeps s (t.updCtx i f) :=
  h.trans (by apply Keeps.of_eq <;> simp)
theorem Keeps.updLaunch (h : Keeps s t) (i : Nat) (f : Launch → Launch) : Keeps s (t.updLaunch i f) :=
  h.trans (by apply Keeps.of_eq <;> simp)
theorem Keeps.setCore (h : Keeps s t) (k : Nat) (x : Core) (hx : x.scratch = (t.core k).scratch) : Keeps s (t.setCore k x) :=
  h.trans (.of_groups rfl fun ok => MemoryOk.setCore ok k x (hx ▸ MemoryOk.core ok k))
theorem Keeps.dropToken (h : Keeps s t) (p : Nat) (who : Nat × Nat × Nat → Bool) : Keeps s (dropToken t p who) := h.updPart ..
theorem Keeps.payer (h : Keeps s t) (o : Option Nat) : Keeps s { t with payer := o } := h.trans (.of_eq rfl rfl rfl rfl rfl)

theorem Keeps.paid (h : Keeps s t) (o : Option Nat) (f : State → State) (hf : ∀ t, Keeps t (f t)) : Keeps s (t.paid o f) :=
  ((h.payer o).trans (hf _)).payer _

end

/-! ### Stores of a course that reach their homes -/

theorem drainPlain_keeps (s : State) (g : Nat) (grp : Group) (c : Nat) : Keeps s (drainPlain s g grp c) := by
  refine Keeps.updCourse (.foldl _ (fun s e => .foldl _ (fun s w => (Writes.homeWrite s _ w).keeps) _ s) _ s) _ _ _ ?_
  exact fun _ _ => .refl _

theorem drainScratch_keeps (s : State) (g : Nat) (grp : Group) (c : Nat) : Keeps s (drainScratch s g grp c) := by
  refine Keeps.updCourse (.foldl _ (fun s e => .foldl _ (fun s w => ?_) _ s) _ s) _ _ _ ?_
  · split
    · exact (Writes.sendWrite s true w).keeps
    · exact .refl s
  · exact fun _ _ => .refl _

theorem drainGroup_keeps (s : State) (g : Nat) : Keeps s (drainGroup s g) := by
  unfold Machine.drainGroup
  split
  · refine (Keeps.refl s).paid _ _ fun t => .foldl _ (fun t c => ?_) _ t
    split
    · exact drainPlain_keeps ..
    · exact drainScratch_keeps ..
  · exact .refl s

/-! ### The ends of lanes and groups -/

theorem courseCheck_keeps (s : State) (g c : Nat) : Keeps s (courseCheck s g c) := by
  unfold Machine.courseCheck
  split
  next grp _ =>
    dsimp only
    split
    · have h := (Keeps.refl s).updCourse g c (fun x => { x with ended := true }) fun _ _ => .refl _
      have h := h.post (.regqGrant g (grp.course c).role)
      split
      · split
        · exact h.post _
        · exact h
      · exact h
    · exact .refl s
  · exact .refl s

theorem LaneKept.ended (l : Lane) : LaneKept l { l with
    live := false, entries := [], hold := .none, pend := none, inHandler := false
    tx := { l.tx with state := .idle, rlog := [], wlog := [] } } := ⟨rfl, rfl, rfl, rfl, fun _ => rfl⟩

theorem endLane_keeps (s : State) (g c n : Nat) : Keeps s (endLane s g c n) := by
  unfold Machine.endLane
  split
  next grp _ =>
    refine Keeps.trans ?_ (courseCheck_keeps ..)
    refine Keeps.updLane (.dropToken ?_ _ _) _ _ _ _ .ended
    split
    · exact (Keeps.refl s).paid _ _ fun t => drainPlain_keeps ..
    · exact .refl s
  · exact .refl s

theorem chargeCore_keeps (s : State) (c : Nat) : Keeps s (chargeCore s c) := by
  obtain ⟨m, e⟩ := chargeCore_eq s c
  have h : Keeps s { s with meters := m } := .of_eq rfl rfl rfl rfl rfl
  rw [e]
  exact h.setCore _ _ rfl

theorem GroupKept.off (x : Group) : GroupKept x { x with core := none, regq := x.regq.map (fun _ => []) } :=
  ⟨rfl, fun _ _ => .refl _⟩

theorem leaveCore_keeps (s : State) (g : Nat) (grp : Group) : Keeps s (leaveCore s g grp) := by
  unfold Machine.leaveCore
  split
  · exact .refl s
  next k _ =>
    refine Keeps.ite_post (.postOnce (.postOnce (.postOnce (.updGroup (.setCore (chargeCore_keeps s k) _ _ ?_) g _ .off
      fun _ => rfl) _) _) _) _ _
    rfl

theorem releaseReserved_keeps (s : State) (grp : Group) : Keeps s (releaseReserved s grp) := by
  unfold Machine.releaseReserved
  split
  · exact .refl s
  · exact (Keeps.refl s).updCtx ..

theorem noteSave_keeps (s : State) (g : Nat) (grp : Group) : Keeps s (noteSave s g grp) := by
  unfold Machine.noteSave
  split
  · split
    · exact (Keeps.refl s).post _
    · exact .refl s
  · exact .refl s

theorem launchCheck_keeps (s : State) (i : Nat) : Keeps s (launchCheck s i) := by
  unfold Machine.launchCheck
  split
  · split
    · exact .of_eq rfl rfl rfl rfl rfl
    · exact .refl s
  · exact .refl s

theorem LaneKept.gone (l : Lane) : LaneKept l l.gone := ⟨rfl, rfl, rfl, rfl, id⟩

/-- A course of a group that has ended. -/
theorem LaneKept.over (c : Course) (n : Nat) :
    LaneKept (c.lane n) (({ c.mapLanes (fun _ l => l.gone) with ended := true, fifo := [], inflight := [] } : Course).lane n) := by
  have h := LaneKept.mapLanes c n (fun _ l => l.gone) fun _ => .gone
  simpa only [Course.lane] using h

theorem GroupKept.mapCourses (x y : Group) (f : Course → Course) (hl : y.launch = x.launch) (hc : y.courses = x.courses.map f)
    (hf : ∀ c n, LaneKept (Course.lane c n) ((f c).lane n)) : GroupKept x y := by
  refine ⟨hl, fun c n => ?_⟩
  by_cases h : c < x.courses.length
  · simp only [Group.course, hc, List.getD_eq_getElem?_getD, List.getElem?_map, List.getElem?_eq_getElem h, Option.map_some,
      Option.getD_some]
    exact hf _ n
  · simp only [Group.course, hc, List.getD_eq_getElem?_getD, List.getElem?_map, List.getElem?_eq_none (Nat.not_lt.1 h),
      Option.map_none, Option.getD_none]
    exact .refl _

theorem terminateOne_keeps (s : State) (g : Nat) : Keeps s (terminateOne s g) := by
  unfold Machine.terminateOne
  split
  next grp _ =>
    split
    · exact .refl s
    · refine Keeps.trans ?_ (launchCheck_keeps ..)
      refine Keeps.post (.trans (.updLaunch (.updGroup ?_ g _ ?_ ?_) _ _) (noteSave_keeps ..)) _
      · exact .trans (.trans (.dropToken (drainGroup_keeps s g) _ _) (leaveCore_keeps ..)) (releaseReserved_keeps ..)
      · exact fun x => .mapCourses _ _ _ rfl rfl .over
      · exact fun _ => rfl
  · exact .refl s

theorem terminateGroup_keeps (s : State) (g : Nat) : Keeps s (terminateGroup s g) := by
  unfold Machine.terminateGroup
  split
  · split
    · exact (terminateOne_keeps ..).trans (terminateOne_keeps ..)
    · exact terminateOne_keeps ..
  · exact .refl s

theorem terminateWith_keeps (s : State) (g kind cause first : Nat) (pc : Word) (course lane : Nat) :
    Keeps s (terminateWith s g kind cause first pc course lane) := by
  unfold Machine.terminateWith
  split
  · exact (terminateGroup_keeps s g).trans (.foldl _ (fun s r => (Writes.writeErr ..).keeps) _ _)
  · exact .refl s

theorem LaneKept.trapRegisters (l : Lane) (a b : PWord) : LaneKept l { l with trapPc := a, trapCause := b } :=
  ⟨rfl, rfl, rfl, rfl, id⟩
theorem LaneKept.pend (l : Lane) (t : Option PendTrap) : LaneKept l { l with pend := t, hold := .none } :=
  ⟨rfl, rfl, rfl, rfl, id⟩

theorem endTrapped_keeps (s : State) (g c n : Nat) (t : PendTrap) (kind : Nat) : Keeps s (endTrapped s g c n t kind) := by
  unfold Machine.endTrapped
  split
  · exact (((Keeps.refl s).updLane _ _ _ _ fun l => .trapRegisters l _ _).trans (endLane_keeps ..)).trans (Writes.writeErr ..).keeps
  · exact .refl s

theorem bumpIf_keeps (s : State) (g c : Nat) (m : Bool) : Keeps s (bumpIf s g c m) := by
  unfold Machine.bumpIf
  split
  · exact (Keeps.refl s).updCourse _ _ _ fun _ _ => .refl _
  · exact .refl s

theorem awaitHandler_keeps (s : State) (g c n : Nat) (t : PendTrap) : Keeps s (awaitHandler s g c n t) := by
  unfold Machine.awaitHandler
  split
  · have h := (Keeps.refl s).updLane g c n (fun l => { l with pend := some t, hold := .none }) fun l => .pend l _
    dsimp only
    split
    · exact h
    · have h := h.updCourse g c (fun x => { x with trap := .waiting }) fun _ _ => .refl _
      split
      · exact h
      · exact (h.setCore _ _ (by simp)).post _
  · exact .refl s

/-! ### Discarded groups and held stores -/

theorem discardGroup_keeps (s : State) (g : Nat) (owned : Bool) : Keeps s (discardGroup s g owned) := by
  unfold Machine.discardGroup
  split
  · exact .refl s
  · split
    · exact .refl s
    · refine Keeps.trans ?_ (launchCheck_keeps ..)
      refine Keeps.post (.trans (.updLaunch (.updGroup ?_ g _ ?_ ?_) _ _) (noteSave_keeps ..)) _
      · exact .trans (.trans (.dropToken (.refl s) _ _) (leaveCore_keeps ..)) (releaseReserved_keeps ..)
      · exact fun x => .mapCourses _ _ _ rfl rfl .over
      · exact fun _ => rfl

theorem overflowGroup_keeps (s : State) (g : Nat) : Keeps s (overflowGroup s g) := by
  unfold Machine.overflowGroup
  split
  · exact .refl s
  · split
    · exact terminateWith_keeps ..
    · exact discardGroup_keeps ..

theorem holdEntry_keeps (s : State) (g : Nat) (h : Held) : Keeps s (holdEntry s g h) := by
  unfold Machine.holdEntry
  split
  · exact .refl s
  next grp hg =>
    split
    · exact .refl s
    · split
      · exact overflowGroup_keeps ..
      · have e : s.setGroup g { grp with held := grp.held ++ [h] } = s.updGroup g fun x => { x with held := x.held ++ [h] } := by
          simp only [State.updGroup, hg]
        rw [e]
        exact (Keeps.refl s).updGroup _ _ (fun x => ⟨rfl, fun _ _ => .refl _⟩) fun _ => rfl

theorem acceptStore_keeps (s : State) (g c : Nat) (e : FifoStore) : Keeps s (acceptStore s g c e) := by
  unfold Machine.acceptStore
  split
  · exact .refl s
  · refine (Keeps.refl s).paid _ _ fun t => .foldl _ (fun t w => ?_) _ t
    split
    · exact (Writes.sendWrite t true w).keeps
    · exact holdEntry_keeps ..
    · exact (Writes.homeWrite ..).keeps

theorem acceptOne_keeps (s : State) (g c : Nat) : Keeps s (acceptOne s g c) := by
  unfold Machine.acceptOne
  split
  · exact .refl s
  · split
    · exact .refl s
    · refine Keeps.trans (.updCourse (.refl s) g c _ ?_) (acceptStore_keeps ..)
      exact fun _ _ => .refl _

theorem drainCourse_keeps (s : State) (g c : Nat) : Keeps s (drainCourse s g c) := by
  unfold Machine.drainCourse
  split
  · exact .refl s
  · exact .foldl _ (fun s _ => acceptOne_keeps s g c) _ s

theorem drainAll_keeps (s : State) (g : Nat) : Keeps s (drainAll s g) := by
  unfold Machine.drainAll
  split
  · exact .refl s
  · exact .foldl _ (fun s c => drainCourse_keeps s g c) _ s

/-- Settles O35: each step is its one branch that the hypotheses leave. -/
theorem groupSteps : Obligations.GroupSteps := by
  unfold Obligations.GroupSteps
  refine ⟨fun s => rfl, fun s t p ps qs u grp hg ha hp => ?_, fun s g core grp hg hs hc => ?_,
    fun s g grp h hg hs hh hc hq hd hl hm => ?_⟩
  · rw [exec_groupPlace]
    simp only [execGroupPlace, hg, ha, hp, if_true]
  · rw [exec_groupPlacementComplete]
    constructor <;> intro hp <;> simp [execGroupPlacementComplete, hg, hs, hc, hp]
  · obtain ⟨y, hy, hk⟩ := (drainAll_keeps s g).group g grp hg
    have hr : retireNow s g = some (reportRetire (finishGroup (drainAll s g) g h) h.launch [g] []) := by
      simp [retireNow, hg, hs, hh, hq, hd, hl, hm]
    have hlaunch : h.launch = grp.launch := by
      obtain rfl : h = y := Option.some.inj (hd.symm.trans hy)
      exact hk.launch
    rw [exec_groupRetire]
    simp [execGroupRetire, hg, hs, hh, hc, hr, afterRetire, hlaunch]

end Sys2Proof.Machine
end

section
/-!
PROOFS. Traps that frozen lanes owe, and the return from the handler.
-/

namespace Sys2Proof.Machine

/-! ### A trap of another lane -/

/-- What an abort of one lane leaves of the others. -/
theorem abortLane_other (s : State) (g c n code user cause : Nat) (pf : Bool) {m : Nat} (hm : m ≠ n) :
    (abortLane s g c n code user cause pf).1.lane g c m = s.lane g c m := by
  unfold abortLane
  split
  · exact lane_updLane_else _ _ _ _ _ _ hm
  · rfl

theorem abortLane_group {s : State} {g : Nat} {x : Group} (hg : s.group g = some x) (c n code user cause : Nat) (pf : Bool) :
    ∃ y, (abortLane s g c n code user cause pf).1.group g = some y := by
  unfold abortLane
  rw [hg]
  exact ⟨_, group_updCourse_of hg _ _⟩

/-- A trap of one lane keeps the other lanes of its course. -/
theorem takeTrap_other {s : State} {g : Nat} {x : Group} (hg : s.group g = some x) (c n : Nat) (t : PendTrap) {m : Nat}
    (hm : m ≠ n) : (∃ y, (takeTrap s g c n t).1.group g = some y)
      ∧ LaneKept (s.lane g c m) ((takeTrap s g c n t).1.lane g c m) := by
  have keep {u : State} (h : Keeps s u) : (∃ y, u.group g = some y) ∧ LaneKept (s.lane g c m) (u.lane g c m) := by
    obtain ⟨y, hy, -⟩ := h.group g x hg
    exact ⟨⟨y, hy⟩, h.lane hg c m⟩
  unfold takeTrap
  rw [hg]
  dsimp only
  split
  · exact keep (.refl s)
  · split
    · exact keep (terminateWith_keeps ..)
    · split
      · refine keep ((Keeps.refl s).updLane _ _ _ _ ?_)
        exact fun l => .pend l _
      · split
        · exact ⟨abortLane_group hg .., abortLane_other s g c n _ _ _ _ hm ▸ .refl _⟩
        · split
          · exact keep (terminateWith_keeps ..)
          · split
            · exact keep (endTrapped_keeps ..)
            · split
              · exact keep (endTrapped_keeps ..)
              · exact keep (awaitHandler_keeps ..)

/-- Traps of other lanes of a course. -/
theorem trapMany_other {g c m : Nat} (l : List (Nat × Nat × Nat × PendTrap)) (hl : ∀ e ∈ l, e.1 = g ∧ e.2.1 = c ∧ m ≠ e.2.2.1) :
    ∀ (counted : List (Nat × Nat × Word)) (s : State) (x : Group), s.group g = some x →
      LaneKept (s.lane g c m) ((trapMany l counted s).lane g c m) := by
  induction l with
  | nil => exact fun _ _ _ _ => .refl _
  | cons e l ih =>
    intro counted s x hg
    obtain ⟨h, d, n, t⟩ := e
    obtain ⟨rfl, rfl, hm⟩ := hl _ List.mem_cons_self
    have ih := ih fun e he => hl e (List.mem_cons_of_mem _ he)
    obtain ⟨⟨y, hy⟩, hk⟩ := takeTrap_other hg d n t hm
    rw [trapMany]
    split
    · obtain ⟨z, hz, -⟩ := (bumpIf_keeps (takeTrap s h d n t).1 h d true).group h y hy
      exact (hk.trans ((bumpIf_keeps _ h d true).lane hy d m)).trans (ih _ _ z hz)
    · exact hk.trans (ih _ _ y hy)

/-! ### Traps that frozen lanes owe -/

/-- A lane that can trap still can after a change of its course that keeps what a trap asks of it. -/
theorem Traps.updCourse {s : State} {g c m : Nat} {grp : Group} (h : Traps s g c m grp) (f : Course → Course)
    (hf : ∀ y : Course, ((f y).lane m).live = (y.lane m).live ∧ ((f y).lane m).tx = (y.lane m).tx
      ∧ ((f y).lane m).inHandler = (y.lane m).inHandler)
    (hz : ∀ y : Course, y.frozen m = false → (f y).frozen m = false) :
    Traps (s.updCourse g c f) g c m (grp.updCourse c f) := by
  obtain ⟨grp', hg', hc⟩ := hasCourse_of_live h.group h.live
  obtain rfl : grp = grp' := Option.some.inj (h.group.symm.trans hg')
  obtain ⟨h1, h2, h3⟩ := hf (grp.course c)
  have he := course_updCourse_same grp c f hc
  refine ⟨group_updCourse_of h.group _ _, h.alive, ?_, ?_, ?_, ?_, ?_⟩
  · rw [he, h1, h.live]
  · rw [he, hz _ h.frozen]
  · rw [he, h2]; exact h.noTx
  · rw [he, h3, h.outside]
  · rw [groupCtx_updCourse, State.updCourse, updGroup_ctxs]; exact h.base

theorem Traps.pendingLane {s : State} {g c n m : Nat} {grp : Group} (h : Traps s g c m grp) (t : PendTrap) :
    Traps (pendingLane s g c n t) g c m (grp.updCourse c (·.updLane n fun l => { l with pend := some t, hold := .none })) := by
  have hl (y : Course) : ∃ l : Lane, (y.updLane n fun l => { l with pend := some t, hold := .none }).lane m = { y.lane m with
      pend := l.pend, hold := l.hold } := by
    by_cases e : m = n
    · subst e
      by_cases hm : m < 32
      · exact ⟨{ y.lane m with pend := some t, hold := .none }, by rw [lane_updLane_same _ _ _ hm]⟩
      · exact ⟨y.lane m, by simp [Course.lane, hm]⟩
    · exact ⟨y.lane m, by rw [lane_updLane_other _ _ _ _ e]⟩
  refine h.updCourse _ (fun y => ?_) fun y hy => ?_
  · obtain ⟨l, e⟩ := hl y
    rw [e]
    exact ⟨rfl, rfl, rfl⟩
  · obtain ⟨l, e⟩ := hl y
    rw [Course.frozen, e]
    have ht : (y.updLane n fun l => { l with pend := some t, hold := .none }).trap = y.trap := by
      unfold Course.updLane; split <;> rfl
    rw [ht]
    exact hy

theorem Traps.queuedCourse {s : State} {g c m : Nat} {grp : Group} (h : Traps s g c m grp) (k : Nat) :
    Traps (queuedCourse s g c k) g c m (grp.updCourse c fun x => { x with trap := .waiting }) := by
  have h1 := h.updCourse (fun x => { x with trap := .waiting }) (fun _ => ⟨rfl, rfl, rfl⟩) fun _ _ => rfl
  exact ⟨h1.group, h1.alive, h1.live, h1.frozen, h1.noTx, h1.outside, h1.base⟩

/-- Lanes have begun to wait for the handler. -/
def pendingLanes (s : State) (g c : Nat) (l : List (Nat × PendTrap)) : State :=
  l.foldl (fun s e => pendingLane s g c e.1 e.2) s

theorem core_pendingLanes (s : State) (g c k : Nat) (l : List (Nat × PendTrap)) :
    (pendingLanes s g c l).core k = s.core k := by
  induction l generalizing s with
  | nil => rfl
  | cons e l ih => exact (ih _).trans (core_updLane ..)

theorem agenda_pendingLanes (s : State) (g c : Nat) (l : List (Nat × PendTrap)) : (pendingLanes s g c l).agenda = s.agenda := by
  induction l generalizing s with
  | nil => rfl
  | cons e l ih => exact (ih _).trans (updLane_agenda ..)

theorem trap_pendingLanes (s : State) (g c : Nat) (l : List (Nat × PendTrap)) :
    ((pendingLanes s g c l).courseAt g c).trap = (s.courseAt g c).trap := by
  induction l generalizing s with
  | nil => rfl
  | cons e l ih =>
    refine (ih _).trans (courseAt_updCourse_keep _ _ _ _ _ Course.trap fun x => ?_)
    unfold Course.updLane; split <;> rfl

/-- A lane that the list names waits for the trap that the list gives it. -/
theorem pend_pendingLanes {g c m : Nat} {p : PendTrap} (hm : m < 32) (l : List (Nat × PendTrap)) (hp : ∀ e ∈ l, e.1 = m → e.2 = p) :
    ∀ s : State, s.hasCourse g c → ((∃ e ∈ l, e.1 = m) ∨ (s.lane g c m).pend = some p) →
      ((pendingLanes s g c l).lane g c m).pend = some p := by
  induction l with
  | nil => exact fun s _ h => h.resolve_left (fun ⟨_, he, _⟩ => absurd he List.not_mem_nil)
  | cons e l ih =>
    intro s hs h
    refine ih (fun e he => hp e (List.mem_cons_of_mem _ he)) (pendingLane s g c e.1 e.2) (hasCourse_updLane hs ..) ?_
    by_cases he : e.1 = m
    · right
      rw [pendingLane, he, lane_updLane_here hs hm, hp e List.mem_cons_self he]
    · rcases h with ⟨d, hd, hdm⟩ | h
      · rcases List.mem_cons.1 hd with rfl | hd
        · exact absurd hdm he
        · exact .inl ⟨d, hd, hdm⟩
      · right
        rw [pendingLane, lane_updLane_else _ _ _ _ _ _ (Ne.symm he), h]

/-- What the owed traps of a list ask for: each lane can trap, for a cause that a handler takes, in a group on a core. -/
structure Owing (s : State) (g c k : Nat) (l : List (Nat × PendTrap)) : Prop where
  lanes : ∀ e ∈ l, e.2.cause ≠ .codeIntegrity ∧ e.2.cause ≠ .poisonConsumed
    ∧ ∃ grp, Traps s g c e.1 grp ∧ grp.core = some k ∧ grp.halting = false

theorem Owing.pendingLane {s : State} {g c k : Nat} {l : List (Nat × PendTrap)} (h : Owing s g c k l) (n : Nat) (t : PendTrap) :
    Owing (pendingLane s g c n t) g c k l :=
  ⟨fun e he => by
    obtain ⟨h1, h2, grp, ht, hk, hh⟩ := h.lanes e he
    exact ⟨h1, h2, _, ht.pendingLane t, hk, hh⟩⟩

theorem Owing.queuedCourse {s : State} {g c k : Nat} {l : List (Nat × PendTrap)} (h : Owing s g c k l) :
    Owing (queuedCourse s g c k) g c k l :=
  ⟨fun e he => by
    obtain ⟨h1, h2, grp, ht, hk, hh⟩ := h.lanes e he
    exact ⟨h1, h2, _, ht.queuedCourse k, hk, hh⟩⟩

/-- Owed traps of a course that is in the core's queue. -/
theorem trapMany_waits {g c k : Nat} (l : List (Nat × PendTrap)) : ∀ (s : State) (counted : List (Nat × Nat × Word)),
    Owing s g c k l → (s.core k).handlerQ.contains (g, c) = true →
    trapMany (l.map fun e => (g, c, e.1, e.2)) counted s = pendingLanes s g c l := by
  induction l with
  | nil => exact fun _ _ _ _ => rfl
  | cons e l ih =>
    intro s counted h hq
    obtain ⟨h1, h2, grp, ht, hk, hh⟩ := h.lanes e List.mem_cons_self
    have hrest : Owing s g c k l := ⟨fun d hd => h.lanes d (List.mem_cons_of_mem _ hd)⟩
    rw [List.map_cons, trapMany]
    simp only [takeTrap_awaits ht h1 h2, awaitHandler_waits ht.group hk hq, Bool.false_eq_true, false_and, if_false]
    exact ih _ _ (hrest.pendingLane _ _) (by rw [pendingLane, core_updLane]; exact hq)

/-- Owed traps of a course that is not: the first takes it there. -/
theorem trapMany_joins {g c k : Nat} {e : Nat × PendTrap} {l : List (Nat × PendTrap)} {s : State}
    {counted : List (Nat × Nat × Word)} (h : Owing s g c k (e :: l)) (hq : (s.core k).handlerQ.contains (g, c) = false) :
    trapMany ((e :: l).map fun e => (g, c, e.1, e.2)) counted s
      = pendingLanes (queuedCourse (pendingLane s g c e.1 e.2) g c k) g c l := by
  obtain ⟨h1, h2, grp, ht, hk, hh⟩ := h.lanes e List.mem_cons_self
  have hrest : Owing s g c k l := ⟨fun d hd => h.lanes d (List.mem_cons_of_mem _ hd)⟩
  rw [List.map_cons, trapMany]
  simp only [takeTrap_awaits ht h1 h2, awaitHandler_joins ht.group hk hq hh, Bool.false_eq_true, false_and, if_false]
  refine trapMany_waits l _ _ (hrest.pendingLane _ _).queuedCourse ?_
  rw [queuedCourse, core_post, core_setCore_same]
  simp

/-! ### Return from the handler -/

/-- A lane that has left the handler. -/
def Lane.restored (l : Lane) : Lane :=
  { l with
    depth := l.entryD, inHandler := false
    dropped := if l.dropped = .afterHandler then .due else l.dropped
    entries := l.entries.filter (fun e => decide (e.1 ≤ l.entryD.toNat)) }

/-- A lane that goes on where %TRAPPC says. -/
def Lane.resumed (l : Lane) : Lane := { l with pc := l.trapPc.val }

/-- HRET in a lane that does not end. -/
theorem hretLane_resumes {s : State} {x : View} {n : Nat} (hv : s.view = some x)
    (he : (x.crs.lane n).trapCause.val.getLsbD 63 = false) :
    hretLane x s n = (s.updLane x.sel.grp x.sel.course n Lane.restored).updLane x.sel.grp x.sel.course n Lane.resumed := by
  obtain ⟨-, hg, hc, -⟩ := view_eq hv
  have hl : (s.laneAt x n).trapCause.val.getLsbD 63 = false := laneAt_view hv n ▸ he
  have hr : ((x.grp.course x.sel.course).lane n).trapCause.val.getLsbD 63 = false := hc ▸ he
  simp only [hretLane, hl, Bool.false_and, Bool.false_eq_true, if_false, returnLane, hg, hr]
  rfl

/-- The state in which the course may leave the handler: the lane n has returned and the rest of the issue has advanced. -/
structure HretDone (s t : State) (x : View) (n : Nat) : Prop where
  group : ∃ grp, t.group x.sel.grp = some grp ∧ grp.core = x.grp.core ∧ grp.alive = x.grp.alive
    ∧ grp.halting = x.grp.halting ∧ s.groupCtx x.grp = t.groupCtx grp ∧ x.sel.course < grp.courses.length
  lane : t.lane x.sel.grp x.sel.course n = (x.crs.lane n).restored.resumed
  others : ∀ m, m < 32 → m ≠ n → ∃ pc, t.lane x.sel.grp x.sel.course m = { x.crs.lane m with pc := pc }
  trap : (t.courseAt x.sel.grp x.sel.course).trap = x.crs.trap
  same : SameMem s t
  agenda : t.agenda = s.agenda
  cores : ∀ k, t.core k = s.core k
  ctxs : t.ctxs = s.ctxs

theorem trap_updLane (s : State) (g c n : Nat) (f : Lane → Lane) (h d : Nat) :
    ((s.updLane g c n f).courseAt h d).trap = (s.courseAt h d).trap :=
  courseAt_updCourse_keep _ _ _ _ _ Course.trap fun y => by unfold Course.updLane; split <;> rfl

@[simp] theorem trap_mapLanes (x : Course) (f : Nat → Lane → Lane) : (x.mapLanes f).trap = x.trap := by simp only [Course.mapLanes]

theorem trap_advance (s : State) (x : Sel) (m : LaneMask) (h d : Nat) :
    ((advance s x m).courseAt h d).trap = (s.courseAt h d).trap :=
  courseAt_updCourse_keep _ _ _ _ _ Course.trap fun _ => trap_mapLanes ..

theorem hretDone_of {s : State} {x : View} {n : Nat} (hv : s.view = some x) (hn : n < 32)
    (hc : s.hasCourse x.sel.grp x.sel.course) (m : LaneMask) (hm : inMask m n = false) :
    HretDone s (advance ((s.updLane x.sel.grp x.sel.course n Lane.restored).updLane x.sel.grp x.sel.course n Lane.resumed)
      x.sel m) x n := by
  obtain ⟨-, hg, hcrs, -⟩ := view_eq hv
  have hlane (j : Nat) : s.lane x.sel.grp x.sel.course j = x.crs.lane j := by rw [lane_of_group hg, hcrs]
  have h1 : (s.updLane x.sel.grp x.sel.course n Lane.restored).hasCourse x.sel.grp x.sel.course := hasCourse_updLane hc ..
  have h2 : ((s.updLane x.sel.grp x.sel.course n Lane.restored).updLane x.sel.grp x.sel.course n Lane.resumed).hasCourse
    x.sel.grp x.sel.course := hasCourse_updLane h1 ..
  have hlen : x.sel.course < x.grp.courses.length := by
    obtain ⟨grp, hg', hlen⟩ := hc
    obtain rfl : x.grp = grp := Option.some.inj (hg.symm.trans hg')
    exact hlen
  refine ⟨⟨_, group_updCourse_of (group_updCourse_of (group_updCourse_of hg _ _) _ _) _ _, rfl, rfl, rfl, ?_, by simpa using hlen⟩,
    ?_, fun j hj hne => ?_, ?_, .trans (.trans (.updLane ..) (.updLane ..)) (.advance ..), by simp, fun k => by simp [advance],
    by simp⟩
  · rw [advance, groupCtx_updCourse, State.updLane, groupCtx_updCourse, State.updLane, groupCtx_updCourse]
  · rw [lane_advance h2 _ hn, hm, if_neg Bool.false_ne_true, lane_updLane_here h1 hn, lane_updLane_here hc hn, hlane]
  · rw [lane_advance h2 _ hj, lane_updLane_else _ _ _ _ _ _ hne, lane_updLane_else _ _ _ _ _ _ hne, hlane]
    split
    · exact ⟨_, rfl⟩
    · exact ⟨(x.crs.lane j).pc, rfl⟩
  · rw [trap_advance, trap_updLane, trap_updLane, courseAt_of_group hg, hcrs]

/-! ### The course leaves the handler -/

/-- From s to t the lanes of a course may have gone on, and nothing has changed of what traps ask for. -/
structure Thawed (s t : State) (g c : Nat) : Prop where
  group : ∀ x, s.group g = some x → ∃ y, t.group g = some y ∧ y.core = x.core ∧ y.alive = x.alive ∧ y.halting = x.halting
    ∧ t.groupCtx y = s.groupCtx x ∧ y.courses.length = x.courses.length
  lanes : ∀ m, (t.lane g c m).live = (s.lane g c m).live ∧ (t.lane g c m).tx = (s.lane g c m).tx
    ∧ (t.lane g c m).inHandler = (s.lane g c m).inHandler
  still : ∀ m, (s.lane g c m).pend = none → (s.lane g c m).hold ≠ .regq → t.lane g c m = s.lane g c m
  trap : (t.courseAt g c).trap = (s.courseAt g c).trap
  same : SameMem s t
  agenda : t.agenda = s.agenda
  cores : ∀ k, t.core k = s.core k
  ctxs : t.ctxs = s.ctxs

theorem Thawed.refl (s : State) (g c : Nat) : Thawed s s g c :=
  ⟨fun x hx => ⟨x, hx, rfl, rfl, rfl, rfl, rfl⟩, fun _ => ⟨rfl, rfl, rfl⟩, fun _ _ _ => rfl, rfl, .refl s, rfl, fun _ => rfl, rfl⟩

theorem Thawed.trans {s t u : State} {g c : Nat} (h : Thawed s t g c) (k : Thawed t u g c) : Thawed s u g c := by
  refine ⟨fun x hx => ?_, fun m => ?_, fun m h1 h2 => ?_, k.trap.trans h.trap, h.same.trans k.same, k.agenda.trans h.agenda,
    fun j => (k.cores j).trans (h.cores j), k.ctxs.trans h.ctxs⟩
  · obtain ⟨y, hy, h1, h2, h3, h4, h5⟩ := h.group x hx
    obtain ⟨z, hz, k1, k2, k3, k4, k5⟩ := k.group y hy
    exact ⟨z, hz, k1.trans h1, k2.trans h2, k3.trans h3, k4.trans h4, k5.trans h5⟩
  · obtain ⟨h1, h2, h3⟩ := h.lanes m
    obtain ⟨k1, k2, k3⟩ := k.lanes m
    exact ⟨k1.trans h1, k2.trans h2, k3.trans h3⟩
  · have e := h.still m h1 h2
    exact (k.still m (e ▸ h1) (e ▸ h2)).trans e

theorem Thawed.mapLanes (s : State) (g c : Nat) (f : Nat → Lane → Lane)
    (hf : ∀ n l, (f n l).live = l.live ∧ (f n l).tx = l.tx ∧ (f n l).inHandler = l.inHandler)
    (hs : ∀ n l, l.pend = none → l.hold ≠ .regq → f n l = l) :
    Thawed s (s.updCourse g c (fun x => x.mapLanes f)) g c := by
  have hl (m : Nat) : (s.updCourse g c (fun x => x.mapLanes f)).lane g c m = s.lane g c m
      ∨ (s.updCourse g c (fun x => x.mapLanes f)).lane g c m = f m (s.lane g c m) := by
    rcases courseAt_updCourse s g c g c (fun x => x.mapLanes f) with e | ⟨-, -, e⟩
    · left; rw [State.lane, e]; rfl
    · by_cases hm : m < 32
      · right; rw [State.lane, e, lane_mapLanes _ _ _ hm]; rfl
      · left; simp [State.lane, Course.lane, hm]
  refine ⟨fun x hx => ⟨_, group_updCourse_of hx _ _, rfl, rfl, rfl, groupCtx_updCourse .., courses_length_updCourse ..⟩, fun m => ?_,
    fun m h1 h2 => ?_, courseAt_updCourse_keep _ _ _ _ _ Course.trap fun _ => trap_mapLanes .., .updCourse .., by simp, fun k => by simp, by simp⟩
  · rcases hl m with e | e
    · rw [e]; exact ⟨rfl, rfl, rfl⟩
    · rw [e]; exact hf _ _
  · rcases hl m with e | e
    · exact e
    · rw [e, hs _ _ h1 h2]

/-- A lane that waited for a grant that has come passes its REGQ. -/
def Lane.passRegq (l : Lane) : Lane := if l.hold = .regq then { l with hold := .none, pc := pcNext l.pc } else l

/-- A lane stands at the instruction of the trap that it owes. -/
def Lane.atTrap (l : Lane) : Lane := { l with pc := (l.pend.map (·.pc)).getD l.pc, pend := none }

/-- A course's lanes when they go on, before the traps that they owe. -/
def thawed (s : State) (g c : Nat) (grp : Group) : State :=
  (if regqPending grp c then s else s.updCourse g c (fun x => x.mapLanes (fun _ => Lane.passRegq))).updCourse g c
    (fun x => x.mapLanes (fun _ => Lane.atTrap))

/-- The traps that the lanes of a course owe. -/
def Course.owed (x : Course) : List (Nat × PendTrap) := (List.range 32).filterMap fun n => (x.lane n).pend.map fun t => (n, t)

theorem mem_owed (x : Course) (e : Nat × PendTrap) : e ∈ x.owed ↔ e.1 < 32 ∧ (x.lane e.1).pend = some e.2 := by
  simp only [Course.owed, List.mem_filterMap, List.mem_range, Option.map_eq_some_iff]
  constructor
  · rintro ⟨n, hn, t, ht, rfl⟩
    exact ⟨hn, ht⟩
  · rintro ⟨hn, ht⟩
    exact ⟨e.1, hn, e.2, ht, rfl⟩

theorem thaw_eq {s : State} {g c : Nat} {grp : Group} (hg : s.group g = some grp) :
    thaw s g c = trapMany ((grp.course c).owed.map fun e => (g, c, e.1, e.2)) [] (thawed s g c grp) := by
  have he : (List.range 32).filterMap (fun n => ((grp.course c).lane n).pend.map (fun t => (g, c, n, t)))
      = (grp.course c).owed.map fun e => (g, c, e.1, e.2) := by
    rw [Course.owed, List.map_filterMap]
    simp only [Option.map_map]
    rfl
  simp only [thaw, hg, he]
  rfl

theorem thawed_thawed (s : State) (g c : Nat) (grp : Group) : Thawed s (thawed s g c grp) g c := by
  refine Thawed.trans (t := if regqPending grp c then s else s.updCourse g c (fun x => x.mapLanes (fun _ => Lane.passRegq)))
    ?_ (.mapLanes _ _ _ _ (fun _ _ => ⟨rfl, rfl, rfl⟩) fun _ l h _ => ?_)
  · split
    · exact .refl ..
    · refine .mapLanes _ _ _ _ (fun _ l => ?_) fun _ l _ h => if_neg h
      unfold Lane.passRegq
      split <;> exact ⟨rfl, rfl, rfl⟩
  · cases l
    cases h
    rfl

/-- The course is in the handler no more: what was to be written to the reserve is written nowhere. -/
def leftHandler (s : State) (g c k : Nat) : State :=
  (s.updCourse g c (fun x => { x.dropReserve with trap := .ordinary })).setCore k
    { s.core k with handler := none, matQ := (s.core k).matQ.map (MatEntry.dropReserve g c) }

theorem leaveHandler_stays {s : State} {g c m : Nat} (hm : m < 32) (h : (s.lane g c m).inHandler = true) :
    leaveHandler s g c = s := by
  unfold leaveHandler
  split
  next grp hg =>
    refine if_neg fun hc => ?_
    have := List.all_eq_true.1 hc.2 m (List.mem_range.2 hm)
    rw [← lane_of_group hg, h] at this
    exact absurd this (by decide)
  · rfl

theorem leaveHandler_leaves {s : State} {g c k : Nat} {grp : Group} (hg : s.group g = some grp) (hk : grp.core = some k)
    (ht : (s.courseAt g c).trap = .handler) (h : ∀ m, m < 32 → (s.lane g c m).inHandler = false) :
    leaveHandler s g c = (thaw (leftHandler s g c k) g c).post (.handlerEntry k) := by
  have hc : (grp.course c).trap = .handler ∧ (List.range 32).all (fun n => !((grp.course c).lane n).inHandler) = true := by
    refine ⟨courseAt_of_group hg c ▸ ht, List.all_eq_true.2 fun m hm => ?_⟩
    rw [← lane_of_group hg, h m (List.mem_range.1 hm)]; rfl
  unfold leaveHandler
  rw [hg]
  dsimp only
  rw [if_pos hc, hk, Option.getD_some, core_updCourse]
  rfl

theorem lane_leftHandler (s : State) (g c k m : Nat) : (leftHandler s g c k).lane g c m = s.lane g c m :=
  lane_updCourse_keep s g c g c m fun _ => rfl


/-- What the course has once it has left the handler: the traps that its lanes owe are still to be taken. -/
theorem leaveHandler_trapMany {s : State} {g c k : Nat} {grp : Group} (hg : s.group g = some grp) (hk : grp.core = some k)
    (hlen : c < grp.courses.length) (ht : (s.courseAt g c).trap = .handler)
    (h : ∀ m, m < 32 → (s.lane g c m).inHandler = false) :
    ∃ u y, leaveHandler s g c = (trapMany ((grp.course c).owed.map fun e => (g, c, e.1, e.2)) [] u).post (.handlerEntry k)
      ∧ u.group g = some y ∧ y.core = some k ∧ y.alive = grp.alive ∧ y.halting = grp.halting
      ∧ u.groupCtx y = s.groupCtx grp ∧ c < y.courses.length
      ∧ (∀ m, (u.lane g c m).live = (s.lane g c m).live ∧ (u.lane g c m).tx = (s.lane g c m).tx
        ∧ (u.lane g c m).inHandler = (s.lane g c m).inHandler)
      ∧ (∀ m, (s.lane g c m).pend = none → (s.lane g c m).hold ≠ .regq → u.lane g c m = s.lane g c m)
      ∧ (u.courseAt g c).trap = .ordinary ∧ SameMem s u ∧ u.agenda = s.agenda ∧ (u.core k).handler = none
      ∧ (u.core k).handlerQ = (s.core k).handlerQ ∧ u.ctxs = s.ctxs := by
  have hg1 : (leftHandler s g c k).group g = some (grp.updCourse c fun x => { x.dropReserve with trap := .ordinary }) :=
    group_updCourse_of hg _ _
  have hcourse : (leftHandler s g c k).hasCourse g c := ⟨_, hg1, by simpa using hlen⟩
  obtain ⟨hgroup, hlanes, hstill, htrap, hsame, hag, hcores, hctx⟩ := thawed_thawed (leftHandler s g c k) g c
    (grp.updCourse c fun x => { x.dropReserve with trap := .ordinary })
  obtain ⟨y, hy, h1, h2, h3, h4, h5⟩ := hgroup _ hg1
  have howed : ((grp.updCourse c fun x => { x.dropReserve with trap := .ordinary }).course c).owed = (grp.course c).owed := by
    rw [course_updCourse_same _ _ _ hlen]
    rfl
  refine ⟨_, y, ?_, hy, h1.trans hk, h2, h3, ?_, ?_, fun m => ?_, fun m hp hh => ?_, ?_, ?_, ?_, ?_, ?_, ?_⟩
  · rw [leaveHandler_leaves hg hk ht h, thaw_eq hg1, howed]
  · rw [h4, leftHandler]
    exact groupCtx_updCourse s g c _ grp c _
  · rw [h5]; simpa using hlen
  · rw [← lane_leftHandler s g c k m]
    exact hlanes m
  · rw [← lane_leftHandler s g c k m] at hp hh ⊢
    exact hstill m hp hh
  · rw [htrap, leftHandler, courseAt_setCore, courseAt_updCourse_same ⟨grp, hg, hlen⟩]
  · exact .trans (.trans (.updCourse ..) (.setCore _ _ _ (by simp))) hsame
  · rw [hag]; simp [leftHandler]
  · rw [hcores, leftHandler, core_setCore_same]
  · rw [hcores, leftHandler, core_setCore_same]
  · rw [hctx]; simp [leftHandler]

theorem badReturn_only {x : View} {n : Nat} (h : badReturn (x.crs.lane n) = none) :
    [n].findSome? (fun n => (badReturn (x.crs.lane n)).map (fun c => (n, c))) = none := by
  simp only [List.findSome?_cons, h, Option.map_none, List.findSome?_nil]

/-- HRET of the one lane of Active. -/
theorem exec_hret_only {k : Ctl} {f : SYS} {s : State} {x : View} {n : Nat} (hv : s.view = some x) (ho : x.only k n)
    (ht : x.crs.trap = .handler) (hb : badReturn (x.crs.lane n) = none)
    (he : (x.crs.lane n).trapCause.val.getLsbD 63 = false) :
    exec (.hret k f) s = .next (leaveHandler (advance ((s.updLane x.sel.grp x.sel.course n Lane.restored).updLane
      x.sel.grp x.sel.course n Lane.resumed) x.sel (x.sel.mask &&& ~~~x.active k)) x.sel.grp x.sel.course).deselect := by
  rw [exec_hret, execHret, issue_view hv]
  have ho' : laneList (x.active k) = [n] := ho
  simp only [ht, ne_eq, not_true, if_false, ho', badReturn_only hb, List.foldl_cons, List.foldl_nil, hretLane_resumes hv he]

/-- The traps that lanes owe take their course to the core's queue, each lane waiting there for its own. -/
theorem trapMany_owed {u : State} {g c k : Nat} {owed : List (Nat × PendTrap)} (hc : u.hasCourse g c) (hQ : Owing u g c k owed)
    (hq : (u.core k).handlerQ.contains (g, c) = false) (hne : owed ≠ []) (hd : ∀ e ∈ owed, ∀ d ∈ owed, e.1 = d.1 → e.2 = d.2) :
    let t := trapMany (owed.map fun e => (g, c, e.1, e.2)) [] u
    (t.core k).handler = (u.core k).handler ∧ (t.courseAt g c).trap = .waiting
      ∧ (t.core k).handlerQ = (u.core k).handlerQ ++ [(g, c)] ∧ ∀ e ∈ owed, e.1 < 32 → (t.lane g c e.1).pend = some e.2 := by
  intro t
  cases owed with
  | nil => exact absurd rfl hne
  | cons e l =>
    have ht : t = pendingLanes (queuedCourse (pendingLane u g c e.1 e.2) g c k) g c l := trapMany_joins hQ hq
    have hcq : (queuedCourse (pendingLane u g c e.1 e.2) g c k).hasCourse g c :=
      hasCourse_updCourse (hasCourse_updLane hc ..) ..
    rw [ht]
    refine ⟨?_, ?_, ?_, fun d hdl hlt => pend_pendingLanes hlt l (fun b hb hbd => ?_) _ hcq ?_⟩
    · rw [core_pendingLanes, queuedCourse, core_post, core_setCore_same]
      simp [pendingLane]
    · rw [trap_pendingLanes]
      exact congrArg Course.trap (courseAt_updCourse_same (hasCourse_updLane hc ..) _)
    · rw [core_pendingLanes, queuedCourse, core_post, core_setCore_same]
      simp only [pendingLane, core_updLane]
    · exact hd b (List.mem_cons_of_mem _ hb) d hdl hbd
    · rcases List.mem_cons.1 hdl with rfl | hin
      · right
        have hl : (queuedCourse (pendingLane u g c d.1 d.2) g c k).lane g c d.1 = (pendingLane u g c d.1 d.2).lane g c d.1 :=
          lane_updCourse_keep _ _ _ _ _ d.1 fun _ => rfl
        rw [hl, pendingLane, lane_updLane_here hc hlt]
      · exact .inl ⟨d, hin, rfl⟩

/-- Settles O28: the course stays in the handler, or leaves it and its owed traps are taken. -/
theorem handlerReturns : Obligations.HandlerReturns := by
  unfold Obligations.HandlerReturns
  refine ⟨fun k f s x n core hv ho ht hcore hb he hpend hhold => ?_, fun k f s x hv ht => ?_⟩
  · have hn : n < 32 := inMask_lt (laneList_only ho)
    obtain ⟨-, hg0, hcrs, -⟩ := view_eq hv
    have hcourse : s.hasCourse x.sel.grp x.sel.course := by
      refine ⟨x.grp, hg0, ?_⟩
      by_contra hc
      rw [hcrs, Group.course, List.getD_eq_getElem?_getD, List.getElem?_eq_none (Nat.not_lt.1 hc)] at ht
      exact nomatch ht
    have hact : inMask (x.sel.mask &&& ~~~x.active k) n = false := by rw [inMask_without _ _ hn, laneList_only ho]; simp
    have hd := hretDone_of hv hn hcourse _ hact
    rw [exec_hret_only hv ho ht hb he]
    refine ⟨_, rfl, ?_⟩
    generalize advance _ x.sel _ = r at hd ⊢
    obtain ⟨⟨grp, hg, hgc, hga, hgh, hctx, hlen⟩, hlane, hothers, htrap, hsame, hag, hcores, hctxs⟩ := hd
    have hout : (r.lane x.sel.grp x.sel.course n).inHandler = false := by rw [hlane]; rfl
    have hpn : (r.lane x.sel.grp x.sel.course n).pend = none := by rw [hlane]; exact hpend
    have hhn : (r.lane x.sel.grp x.sel.course n).hold ≠ .regq := by rw [hlane]; exact hhold
    have hpendm (m : Nat) (hm : m < 32) : (r.lane x.sel.grp x.sel.course m).pend = (x.crs.lane m).pend := by
      by_cases e : m = n
      · rw [e, hpn, hpend]
      · obtain ⟨pc, hp⟩ := hothers m hm e
        rw [hp]
    by_cases hstay : ∃ m, m < 32 ∧ m ≠ n ∧ (x.crs.lane m).inHandler = true
    · obtain ⟨m, hm, hne, hin⟩ := hstay
      obtain ⟨pc, hp⟩ := hothers m hm hne
      rw [leaveHandler_stays hm (by rw [hp]; exact hin)]
      refine ⟨by rw [lane_deselect, hlane]; rfl, by rw [lane_deselect, hlane]; rfl, hout, fun i => by rw [lane_deselect, hlane]; rfl,
        fun hall => ?_, fun _ _ _ _ => ⟨htrap.trans ht, by rw [core_deselect, hcores]⟩, fun _ => (hsame.trans (.deselect _)).byte⟩
      exact absurd (hall m hm hne) (by rw [hin]; decide)
    · have hall : ∀ m, m < 32 → m ≠ n → (x.crs.lane m).inHandler = false := fun m hm hne => by
        by_contra hc
        exact hstay ⟨m, hm, hne, Bool.not_eq_false _ ▸ hc⟩
      have hleave : ∀ m, m < 32 → (r.lane x.sel.grp x.sel.course m).inHandler = false := fun m hm => by
        by_cases e : m = n
        · rw [e, hout]
        · obtain ⟨pc, hp⟩ := hothers m hm e
          rw [hp]; exact hall m hm e
      obtain ⟨u, y, hu, hy, hyc, hya, hyh, hyctx, hylen, hlanes, hstill, hutrap, husame, huag, huh, huq, huctx⟩ :=
        leaveHandler_trapMany hg (hgc.trans hcore) hlen (htrap.trans ht) hleave
      rw [hu]
      have howed : ∀ e, e ∈ (grp.course x.sel.course).owed ↔ e.1 < 32 ∧ (x.crs.lane e.1).pend = some e.2 := fun e => by
        rw [mem_owed, ← lane_of_group hg]
        exact and_congr_right fun hlt => by rw [hpendm _ hlt]
      generalize (grp.course x.sel.course).owed = owed at howed ⊢
      have hnone : (∀ m, m < 32 → (x.crs.lane m).pend = none) → owed = [] := fun hp =>
        List.eq_nil_iff_forall_not_mem.2 fun e he => by
          obtain ⟨h1, h2⟩ := (howed e).1 he
          rw [hp _ h1] at h2
          exact nomatch h2
      have hln : u.lane x.sel.grp x.sel.course n = (x.crs.lane n).restored.resumed := (hstill n hpn hhn).trans hlane
      have hk : LaneKept ((x.crs.lane n).restored.resumed)
          ((trapMany (owed.map fun e => (x.sel.grp, x.sel.course, e.1, e.2)) [] u).lane x.sel.grp x.sel.course n) := by
        rw [← hln]
        refine trapMany_other _ (fun e he => ?_) [] u y hy
        obtain ⟨d, hd, rfl⟩ := List.mem_map.1 he
        refine ⟨rfl, rfl, fun hnd => ?_⟩
        have := ((howed d).1 hd).2
        rw [show d.1 = n from hnd.symm, hpend] at this
        exact nomatch this
      refine ⟨hk.pc, hk.depth, hk.outside rfl, fun i => hk.getV i, fun _ => ⟨fun hp => ?_, ?_⟩, fun m hm hne hin => ?_,
        fun hor => ?_⟩
      · rw [hnone hp]
        refine ⟨huh, ?_, hutrap, ?_⟩
        · exact congrArg (· ++ [Instr.handlerEntry core]) (huag.trans hag)
        · exact huq.trans (by rw [hcores])
      · rintro ⟨m, hm, hpm⟩ halive hhalt hbase hok hq
        have hQ : Owing u x.sel.grp x.sel.course core owed := ⟨fun e he => by
          obtain ⟨h1, h2⟩ := (howed e).1 he
          obtain ⟨hlive, htx, hc1, hc2⟩ := hok e.1 e.2 h1 h2
          obtain ⟨l1, l2, l3⟩ := hlanes e.1
          have hne : e.1 ≠ n := fun hen => by rw [hen, hpend] at h2; exact nomatch h2
          obtain ⟨pc, hp⟩ := hothers e.1 h1 hne
          have hlane' (j : Nat) : (y.course x.sel.course).lane j = u.lane x.sel.grp x.sel.course j := (lane_of_group hy _ _).symm
          refine ⟨hc2, hc1, y, ⟨hy, (hya.trans hga).trans halive, ?_, ?_, ?_, ?_, ?_⟩, hyc, (hyh.trans hgh).trans hhalt⟩
          · rw [hlane', l1, hp]; exact hlive
          · rw [Course.frozen, ← courseAt_of_group hy, hutrap]; rfl
          · rw [hlane', l2, hp]; exact htx
          · rw [hlane', l3, hleave _ h1]
          · rw [huctx, hctxs, hyctx, ← hctx]; exact hbase⟩
        have hq' : (u.core core).handlerQ.contains (x.sel.grp, x.sel.course) = false := by rw [huq, hcores]; exact hq
        obtain ⟨p, hp⟩ := Option.ne_none_iff_exists'.1 hpm
        obtain ⟨t1, t2, t3, t4⟩ := trapMany_owed ⟨y, hy, hylen⟩ hQ hq' (List.ne_nil_of_mem ((howed (m, p)).2 ⟨hm, hp⟩))
          fun e he d hd hed => Option.some.inj (((howed e).1 he).2.symm.trans (hed ▸ ((howed d).1 hd).2))
        refine ⟨t1.trans huh, List.mem_append_right _ (List.mem_singleton.2 rfl), t2, ?_, fun j q hj hjq => ?_⟩
        · exact t3.trans (by rw [huq, hcores])
        · exact t4 (j, q) ((howed (j, q)).2 ⟨hj, hjq⟩) hj
      · exact absurd hin (by rw [hall m hm hne]; decide)
      · have hp : ∀ m, m < 32 → (x.crs.lane m).pend = none := hor.resolve_right hstay
        rw [hnone hp]
        exact (hsame.trans (husame.trans ((SameMem.post ..).trans (.deselect _)))).byte
  · rw [exec_hret, execHret, issue_view hv]
    simp only [ht, ne_eq, not_false_eq_true, if_true]

end Sys2Proof.Machine
end

section
/-!
PROOFS. The instructions of transactions and their verdicts.
-/

namespace Sys2Proof.Machine

/-! ### TXBEGIN of one lane -/

/-- A branch of one lane whose guard is true and which falls through. -/
theorem finishBranch_stays {s u : State} {x : View} {k : Ctl} {n : Nat} {feats vregs : List Nat}
    {body : State → Nat → List Cause → Turn × State} (hf : x.has feats) (ho : laneList x.sel.mask = [n])
    (hp : (x.crs.lane n).guardP k = false) (hg : (x.crs.lane n).guard k = true) (hr : ∀ r ∈ vregs, x.vOk n r = true)
    (hb : body s.newToken.2 n [] = (.fall, u)) :
    (finishBranch s x k feats vregs body).1
      = (u.updLane x.sel.grp x.sel.course n (fun l => { l with pc := pcNext x.sel.pc })).deselect := by
  rw [finishBranch_only hf ho hp, if_pos hg, if_pos (List.all_eq_true.2 hr), hb]
  simp only [Turns.add, settleLanes_plain, backward_plain, bumpIf, Bool.false_eq_true, if_false]

theorem laneAt_newToken (s : State) (x : View) (n : Nat) : s.newToken.2.laneAt x n = s.laneAt x n := rfl
theorem SameMem.newToken (s : State) : SameMem s s.newToken.2 := .of_eq rfl rfl rfl rfl rfl rfl

/-- The one lane of an issue group has new transaction logs and falls through. -/
theorem setTx_falls {s : State} {x : View} {n : Nat} (hc : s.hasCourse x.sel.grp x.sel.course) (hn : n < 32) (t : Tx) :
    (((setTx s.newToken.2 x n t).updLane x.sel.grp x.sel.course n (fun l => { l with pc := pcNext x.sel.pc })).deselect).lane
      x.sel.grp x.sel.course n = { s.lane x.sel.grp x.sel.course n with tx := t, pc := pcNext x.sel.pc } := by
  have h : s.newToken.2.hasCourse x.sel.grp x.sel.course := hc
  rw [lane_deselect, setTx, lane_updLane_here (hasCourse_updLane h ..) hn, lane_updLane_here h hn]
  rfl

/-- Settles O29: TXBEGIN is a branch that falls through with new logs. -/
theorem transactionBegins : Obligations.TransactionBegins := by
  unfold Obligations.TransactionBegins
  intro k f s x n hv hf ho hp hg hh hm hmark hlen
  have hn : n < 32 := inMask_lt ((mem_laneList x.sel.mask n).1 (by rw [ho]; exact List.mem_singleton.2 rfl))
  obtain ⟨-, hgrp, hcrs, -⟩ := view_eq hv
  have hc : s.hasCourse x.sel.grp x.sel.course := ⟨x.grp, hgrp, hlen⟩
  have hl : s.newToken.2.laneAt x n = x.crs.lane n := laneAt_view hv n
  have hlane : s.lane x.sel.grp x.sel.course n = x.crs.lane n := by rw [lane_of_group hgrp, hcrs]
  have hsame (t : Tx) : SameMem s ((setTx s.newToken.2 x n t).updLane x.sel.grp x.sel.course n
      (fun l => { l with pc := pcNext x.sel.pc })).deselect :=
    (SameMem.newToken s).trans ((SameMem.updLane ..).trans ((SameMem.updLane ..).trans (.deselect _)))
  refine ⟨fun hi ha => ?_, fun hi hnest => ?_⟩
  · have hb : txbeginLane x f s.newToken.2 n [] = (.fall, setTx s.newToken.2 x n { (x.crs.lane n).tx with
        state := .active, beginD := (x.crs.lane n).depth, nest := 0, target := branchTarget x.sel.pc f, rlog := [], wlog := [] }) := by
      have hna : ¬ (4 : BitVec 4) ≤ (x.crs.lane n).tx.aborts := Nat.not_le.2 ha
      simp only [txbeginLane, hl, hh, hm, ne_eq, not_true, if_false, Bool.false_eq_true, branchTo_marked hmark.newToken, hi, beginTx,
        hna, false_and]
    rw [exec_txbegin, execTxbegin, issue_view hv, finishBranch_stays hf ho hp hg (List.forall_mem_nil _) hb]
    exact ⟨_, rfl, by rw [setTx_falls hc hn], by rw [setTx_falls hc hn], fun i => by rw [setTx_falls hc hn, hlane]; rfl,
      (hsame _).mem⟩
  · have hb : txbeginLane x f s.newToken.2 n [] = (.fall, setTx s.newToken.2 x n { (x.crs.lane n).tx with
        nest := (x.crs.lane n).tx.nest + 1 }) := by
      simp only [txbeginLane, hl, hh, hm, ne_eq, not_true, if_false, Bool.false_eq_true, branchTo_marked hmark.newToken, hi, hnest]
    rw [exec_txbegin, execTxbegin, issue_view hv, finishBranch_stays hf ho hp hg (List.forall_mem_nil _) hb]
    exact ⟨_, rfl, by rw [setTx_falls hc hn], by rw [setTx_falls hc hn], (hsame _).mem⟩

/-! ### Masks of the one lane of Active -/

theorem maskOf_false : maskOf (fun _ => false) = 0 := by decide

theorem eq_of_inMask_only {x : View} {k : Ctl} {n m : Nat} (ho : x.only k n) (hm : inMask (x.active k) m = true) : m = n := by
  have h := (mem_laneList _ _).2 hm
  rw [ho, List.mem_singleton] at h
  exact h

/-- The lanes of Active that satisfy a predicate: all or none. -/
theorem maskOf_active {x : View} {k : Ctl} {n : Nat} (ho : x.only k n) (p : Nat → Bool) :
    maskOf (fun m => inMask (x.active k) m && p m) = if p n then x.active k else 0 := by
  have hz : inMask 0#32 = fun _ => false := by funext m; simp [inMask]
  refine mask_ext fun m hm => ?_
  rw [inMask_maskOf]
  by_cases h : inMask (x.active k) m = true
  · obtain rfl := eq_of_inMask_only ho h
    cases hp : p m <;> simp [h, hm, hz]
  · rw [Bool.not_eq_true] at h
    cases hp : p n <;> simp [h, hz]

theorem active_ne_zero {x : View} {k : Ctl} {n : Nat} (ho : x.only k n) : x.active k ≠ 0 := by
  intro h
  have := laneList_only ho
  rw [h] at this
  simp [inMask] at this

/-! ### An issue of one lane that is held or aborts -/

section
variable {s t : State} {x : View} {k : Ctl} {n : Nat} {sh : Shape} {body : State → Nat → LaneOut × State}

/-- The end of an issue whose one lane of Active does not complete. -/
theorem finishLanes_apart (ho : x.only k n) (hs : sh.stoch = false) (hc : x.laneCause sh n = none) (o : LaneOut)
    (hb : body s n = (o, t)) (hk : (Gathered.empty.add x n o).ok = []) (hw : (Gathered.empty.add x n o).ws = []) :
    finishLanes s x k false sh body = settleLanes (holdLanes (advance t x.sel (x.sel.mask &&& ~~~x.active k)) x.sel
      (Gathered.empty.add x n o).holds) x.sel false (Gathered.empty.add x n o).aborts (Gathered.empty.add x n o).traps := by
  have hcl : x.clear sh (x.active k) = x.active k := clear_eq x sh _ (fun m hm => eq_of_inMask_only ho hm ▸ hc)
  have hl : laneList (x.active k) = [n] := ho
  have hz : x.sel.mask &&& ~~~x.active k ||| maskOf (fun m => ([] : List Nat).contains m) = x.sel.mask &&& ~~~x.active k := by
    rw [show maskOf (fun m => ([] : List Nat).contains m) = 0#32 from maskOf_false, BitVec.or_zero]
  simp only [finishLanes, hcl, hl, runLanes, hb, hk, hw, hz, hs, and_not_self, traps_zero, List.nil_append, deliver, applyRegs,
    List.foldl_nil, Bool.false_eq_true, if_false]

theorem finishLanes_held (ho : x.only k n) (hs : sh.stoch = false) (hc : x.laneCause sh n = none) {h : Hold}
    (hb : body s n = (.hold h, t)) :
    finishLanes s x k false sh body = ((advance t x.sel (x.sel.mask &&& ~~~x.active k)).updLane x.sel.grp x.sel.course n
      (fun l => { l with hold := h })).deselect := by
  rw [finishLanes_apart ho hs hc _ hb rfl rfl]
  simp only [Gathered.add, Gathered.empty, List.nil_append, settleLanes_plain, bumpIf, holdLanes, List.foldl_cons, List.foldl_nil,
    Bool.false_eq_true, if_false]

theorem finishLanes_aborted (ho : x.only k n) (hs : sh.stoch = false) (hc : x.laneCause sh n = none) {a : AbortInfo}
    (hb : body s n = (.abort a, t)) :
    finishLanes s x k false sh body = (
      let r := abortLane (advance t x.sel (x.sel.mask &&& ~~~x.active k)) x.sel.grp x.sel.course n a.code a.user a.cause a.pf
      (bumpIf r.1 x.sel.grp x.sel.course r.2).deselect) := by
  rw [finishLanes_apart ho hs hc _ hb rfl rfl]
  simp only [Gathered.add, Gathered.empty, List.nil_append, settleLanes, abortLanes, takeTraps, holdLanes, List.foldl_cons,
    List.foldl_nil, Bool.false_or, Bool.or_false]

end


/-! ### TXEND -/

/-- What waits for a verdict once an S destination lands is what waited, by what waited. -/
theorem txends_landDst_congr {a b : Course} (hi : a.inflight = b.inflight) (ht : a.txends = b.txends)
    (d : Option (BitVec 2 × BitVec 8)) : (a.landDst d).txends = (b.landDst d).txends := by
  unfold Course.landDst
  split
  · split
    · unfold Course.landS
      dsimp only
      rw [hi]
      split
      · unfold Course.setS
        split
        · dsimp only; rw [ht]
        · exact ht
      · exact ht
    · exact ht
  · exact ht

theorem txLanes_only {x : View} {k : Ctl} {n : Nat} (ho : x.only k n) (p : TxState → Bool) :
    txLanes x (x.active k) p = if p (x.crs.lane n).tx.state then x.active k else 0 :=
  maskOf_active ho fun m => p (x.crs.lane m).tx.state

theorem txLanes_zero (x : View) (p : TxState → Bool) : txLanes x 0 p = 0 := by
  refine Eq.trans (congrArg maskOf (funext fun m => ?_)) maskOf_false
  simp [inMask]

theorem txWaiting_only {x : View} {k : Ctl} {n : Nat} (ho : x.only k n) (h : (x.crs.lane n).tx.state = .active) :
    txWaiting x (x.active k) = x.active k :=
  (maskOf_active ho fun m => ((x.crs.lane m).tx.state == .active
    || ((x.crs.lane m).tx.state == .irrevocable && (x.crs.lane m).tx.nest == 0))).trans (if_pos (by rw [h]; rfl))

/-- The lane of a TXEND that waits for its verdict. -/
def awaitingVerdict (s : State) (x : View) (k : Ctl) (n : Nat) (t : Tx) : State :=
  ((advance (setTx s x n t) x.sel (x.sel.mask &&& ~~~x.active k)).updLane x.sel.grp x.sel.course n
    (fun l => { l with hold := .txend })).deselect

theorem lane_awaitingVerdict {s : State} {x : View} {k : Ctl} {n : Nat} (ho : x.only k n) (hc : s.hasCourse x.sel.grp x.sel.course)
    (t : Tx) : (awaitingVerdict s x k n t).lane x.sel.grp x.sel.course n
      = { s.lane x.sel.grp x.sel.course n with tx := t, hold := .txend } := by
  have hn : n < 32 := inMask_lt (laneList_only ho)
  have hm : inMask (x.sel.mask &&& ~~~x.active k) n = false := by rw [inMask_without _ _ hn, laneList_only ho]; simp
  have h1 : (setTx s x n t).hasCourse x.sel.grp x.sel.course := hasCourse_updLane hc ..
  have h2 : (advance (setTx s x n t) x.sel (x.sel.mask &&& ~~~x.active k)).hasCourse x.sel.grp x.sel.course :=
    hasCourse_updCourse h1 ..
  rw [awaitingVerdict, lane_deselect, lane_updLane_here h2 hn, lane_advance h1 _ hn, hm, if_neg Bool.false_ne_true, setTx,
    lane_updLane_here hc hn]

theorem courseAt_awaitingVerdict {α : Type} (s : State) (x : View) (k : Ctl) (n : Nat) (t : Tx) (h d : Nat) (q : Course → α)
    (hq : ∀ (c : Course) (ls : Vector Lane 32), q { c with lanes := ls } = q c) :
    q ((awaitingVerdict s x k n t).courseAt h d) = q (s.courseAt h d) := by
  have hl (n : Nat) (f : Lane → Lane) (y : Course) : q (y.updLane n f) = q y := by
    unfold Course.updLane
    split
    · exact hq _ _
    · rfl
  exact (courseAt_updCourse_keep _ _ _ h d q (hl n _)).trans ((courseAt_updCourse_keep _ _ _ h d q fun y => hq _ _).trans
    (courseAt_updCourse_keep _ _ _ h d q (hl n _)))

theorem SameMem.awaitsVerdict (s : State) (x : View) (k : Ctl) (n : Nat) (t : Tx) : SameMem s (awaitingVerdict s x k n t) :=
  (SameMem.updLane ..).trans ((SameMem.advance ..).trans ((SameMem.updLane ..).trans (.deselect _)))

/-- A course has a TXEND more that waits for its verdict. -/
def Course.awaits (e : TxEnd) (c : Course) : Course := { c.landDst e.dst with txends := (c.landDst e.dst).txends ++ [e] }

theorem lanes_awaits (e : TxEnd) (c : Course) : (c.awaits e).lanes = c.lanes := by
  unfold Course.awaits Course.landDst Course.landS Course.setS
  dsimp only
  split
  · split
    · split
      · split <;> rfl
      · rfl
    · rfl
  · rfl

theorem lane_awaits (e : TxEnd) (c : Course) (n : Nat) : (c.awaits e).lane n = c.lane n := by
  simp only [Course.lane, lanes_awaits]

/-- TXEND of a lane of an ACTIVE transaction. -/
theorem exec_txend_active {k : Ctl} {f : ASY} {s : State} {x : View} {n : Nat} (hv : s.view = some x) (hf : x.has [12])
    (ho : x.only k n) (ha : (x.crs.lane n).tx.state = .active) :
    exec (.txend k f) s = .next (((awaitingVerdict s x k n { (x.crs.lane n).tx with state := .validating }).updCourse
      x.sel.grp x.sel.course (Course.awaits ⟨x.active k, x.active k, 0, if f.mod.getLsbD 0 then some (f.dcls, f.d) else none,
        maskOf fun m => inMask (x.active k) m && (x.crs.lane m).guardP k⟩)).post (.txVerdict x.sel.grp x.sel.course)) := by
  have hclear := laneCause_plain x k [12] [] hf (reach_nil x k)
  have hb : txendWait k f x s n = (.hold .txend, setTx s x n { (x.crs.lane n).tx with state := .validating }) := by
    simp only [txendWait, laneAt_view hv, ha]
  have hlanes : txLanes x (x.active k) (· == .active) = x.active k := (txLanes_only ho _).trans (if_pos (by rw [ha]; rfl))
  rw [exec_txend, execTxend, issue_view hv]
  simp only [clear_eq x _ _ hclear, hlanes, active_ne_zero ho, if_false, txWaiting_only ho ha, and_not_self, txLanes_zero,
    finishLanes_held ho rfl (hclear n (laneList_only ho)) hb]
  rfl

/-- TXEND of an IDLE lane. -/
theorem exec_txend_idle {k : Ctl} {f : ASY} {s : State} {x : View} {n : Nat} (hv : s.view = some x) (hf : x.has [12])
    (ho : x.only k n) (hi : (x.crs.lane n).tx.state = .idle) :
    exec (.txend k f) s = .next (applyRegs (afterIssue x s) x.sel.core x.sel.grp x.sel.course (txendWrites
      ⟨0, x.active k, 0, if f.mod.getLsbD 0 then some (f.dcls, f.d) else none,
        maskOf fun m => inMask (x.active k) m && (x.crs.lane m).guardP k⟩)) := by
  have hclear := laneCause_plain x k [12] [] hf (reach_nil x k)
  have hb : txendLane x s n = (.done [], s) := by simp only [txendLane, laneAt_view hv, hi]
  have h1 : txLanes x (x.active k) (· == .active) = 0 := (txLanes_only ho _).trans (if_neg (by rw [hi]; decide))
  have h2 : txLanes x (x.active k) (· == .irrevocable) = 0 := (txLanes_only ho _).trans (if_neg (by rw [hi]; decide))
  rw [exec_txend, execTxend, issue_view hv]
  simp only [clear_eq x _ _ hclear, h1, h2, if_true, finishLanes_done ho rfl (hclear n (laneList_only ho)) hb]

/-! ### Aborts -/

/-- A lane as an abort leaves it (R302). -/
def Lane.aborted (code user cause : Nat) (pf : Bool) (l : Lane) : Lane :=
  { l with
    pc := l.tx.target, depth := l.tx.beginD, entries := l.entries.filter (fun e => decide (e.1 ≤ l.tx.beginD.toNat))
    hold := .none, pend := none
    tx := { l.tx with
      state := .idle, beginD := 0, rlog := [], wlog := [], record := abortRecord code user cause pf
      aborts := if code = 4 then l.tx.aborts else if l.tx.aborts = 15 then 15 else l.tx.aborts + 1 } }

theorem abortLane_eq {s : State} {g : Nat} {grp : Group} (hg : s.group g = some grp) (c n code user cause : Nat) (pf : Bool) :
    (abortLane s g c n code user cause pf).1 = s.updLane g c n (Lane.aborted code user cause pf) := by
  simp only [abortLane, hg]
  rfl

theorem lane_abortLane {s : State} {g c n : Nat} (h : s.hasCourse g c) (hn : n < 32) (code user cause : Nat) (pf : Bool) :
    (abortLane s g c n code user cause pf).1.lane g c n = (s.lane g c n).aborted code user cause pf := by
  obtain ⟨grp, hg, hc⟩ := h
  rw [abortLane_eq hg, lane_updLane_here ⟨grp, hg, hc⟩ hn]

theorem SameMem.abortLane (s : State) (g c n code user cause : Nat) (pf : Bool) :
    SameMem s (abortLane s g c n code user cause pf).1 := by
  unfold Machine.abortLane
  split
  · exact .updLane ..
  · exact .refl s

theorem SameMem.bumpIf (s : State) (g c : Nat) (m : Bool) : SameMem s (bumpIf s g c m) := by
  unfold Machine.bumpIf
  split
  · exact .updCourse ..
  · exact .refl s

theorem lane_bumpIf (s : State) (g c : Nat) (m : Bool) (h d n : Nat) : (bumpIf s g c m).lane h d n = s.lane h d n := by
  unfold bumpIf
  split
  · exact lane_updCourse_keep _ _ _ _ _ _ fun _ => rfl
  · rfl

/-! ### TXEND, TXABORT and TXSTAT -/

theorem hasCourse_advance {s : State} {g c : Nat} (h : s.hasCourse g c) (x : Sel) (m : LaneMask) : (advance s x m).hasCourse g c :=
  hasCourse_updCourse h ..

/-- A course with a lane that is no reset one is a course of its group. -/
theorem hasCourse_of_lane {s : State} {g c n : Nat} {grp : Group} (hg : s.group g = some grp)
    (h : (grp.course c).lane n ≠ Lane.reset) : s.hasCourse g c := by
  refine ⟨grp, hg, ?_⟩
  by_contra hc
  have hr : grp.course c = Course.reset := by
    rw [Group.course, List.getD_eq_getElem?_getD, List.getElem?_eq_none (Nat.not_lt.1 hc), Option.getD_none]
  refine h ?_
  by_cases hn : n < 32 <;> simp [hr, Course.lane, Course.reset, hn]

theorem hasCourse_of_active {s : State} {g c n : Nat} {grp : Group} (hg : s.group g = some grp)
    (h : ((grp.course c).lane n).tx.state = .active) : s.hasCourse g c :=
  hasCourse_of_lane hg fun e => by rw [e] at h; exact nomatch h

/-- Settles O30: TXEND waits or advances, TXABORT aborts or advances, TXSTAT writes the record. -/
theorem transactionEnds : Obligations.TransactionEnds := by
  unfold Obligations.TransactionEnds
  refine ⟨fun k f s x n hv hf ho => ?_, fun k f s x n hv hf ho hr => ⟨fun hi => ?_, fun ha => ?_⟩, fun k f s x hv hf hr => ?_⟩
  · intro dst guardP
    refine ⟨fun hi => exec_txend_idle hv hf ho hi, fun ha => ⟨_, exec_txend_active hv hf ho ha, ?_⟩⟩
    obtain ⟨-, hg, hcrs, -⟩ := view_eq hv
    have hc : s.hasCourse x.sel.grp x.sel.course := hasCourse_of_active hg (hcrs ▸ ha)
    have hlane : s.lane x.sel.grp x.sel.course n = x.crs.lane n := by rw [lane_of_group hg, hcrs]
    have hvc : (awaitingVerdict s x k n { (x.crs.lane n).tx with state := .validating }).hasCourse x.sel.grp x.sel.course :=
      hasCourse_updCourse (hasCourse_updCourse (hasCourse_updLane hc ..) ..) ..
    have hl : ∀ e, (((awaitingVerdict s x k n { (x.crs.lane n).tx with state := .validating }).updCourse x.sel.grp x.sel.course
        (Course.awaits e)).post (.txVerdict x.sel.grp x.sel.course)).lane x.sel.grp x.sel.course n
        = { x.crs.lane n with tx := { (x.crs.lane n).tx with state := .validating }, hold := .txend } := fun e => by
      rw [lane_post, lane_updCourse_keep _ _ _ _ _ n (lane_awaits e · n), lane_awaitingVerdict ho hc, hlane]
    refine ⟨by rw [hl], by rw [hl], by rw [hl], ?_, ?_, ?_⟩
    · rw [courseAt_post, courseAt_updCourse_same hvc]
      refine congrArg (· ++ [_]) (txends_landDst_congr ?_ ?_ _)
      · rw [courseAt_awaitingVerdict s x k n _ _ _ Course.inflight fun _ _ => rfl, courseAt_of_group hg, hcrs]
      · rw [courseAt_awaitingVerdict s x k n _ _ _ Course.txends fun _ _ => rfl, courseAt_of_group hg, hcrs]
    · simp [State.post, awaitingVerdict, setTx, State.deselect, advance]
    · exact ((SameMem.awaitsVerdict ..).trans ((SameMem.updCourse ..).trans (.post ..))).mem
  · have hclear := laneCause_plain x k [12] _ hf hr
    have hna : laneActive s x n = false := by rw [laneActive, laneAt_view hv]; exact beq_eq_false_iff_ne.2 hi
    rw [exec_txabort, execTxabort, issue_view hv]
    refine congrArg Host.Outcome.next (finishLanes_done ho rfl (hclear n (laneList_only ho)) ?_)
    rw [hna, if_neg Bool.false_ne_true]
  · have hclear := laneCause_plain x k [12] _ hf hr
    have hn : n < 32 := inMask_lt (laneList_only ho)
    have hact : laneActive s x n = true := by rw [laneActive, laneAt_view hv, ha]; rfl
    obtain ⟨-, hg, hcrs, -⟩ := view_eq hv
    have hc : s.hasCourse x.sel.grp x.sel.course := hasCourse_of_active hg (hcrs ▸ ha)
    have hm : inMask (x.sel.mask &&& ~~~x.active k) n = false := by rw [inMask_without _ _ hn, laneList_only ho]; simp
    rw [exec_txabort, execTxabort, issue_view hv]
    simp only
    rw [finishLanes_aborted ho rfl (hclear n (laneList_only ho)) (by rw [hact, if_pos rfl])]
    refine ⟨_, rfl, ?_⟩
    generalize (x.opd 64 n (opdOf f.acls f.a)).val.toNat % 256 = user
    have hl : ((bumpIf (abortLane (advance s x.sel (x.sel.mask &&& ~~~x.active k)) x.sel.grp x.sel.course n 4 user 0 false).1
        x.sel.grp x.sel.course (abortLane (advance s x.sel (x.sel.mask &&& ~~~x.active k)) x.sel.grp x.sel.course n 4 user 0 false).2).deselect).lane
        x.sel.grp x.sel.course n = (x.crs.lane n).aborted 4 user 0 false := by
      rw [lane_deselect, lane_bumpIf, lane_abortLane (hasCourse_advance hc ..) hn, lane_advance hc _ hn, hm,
        if_neg Bool.false_ne_true, lane_of_group hg, hcrs]
    refine ⟨by rw [hl]; rfl, by rw [hl]; rfl, by rw [hl]; rfl, by rw [hl]; rfl, by rw [hl]; rfl, ?_⟩
    exact ((SameMem.advance ..).trans ((SameMem.abortLane ..).trans ((SameMem.bumpIf ..).trans (.deselect _)))).mem
  · rw [exec_txstat, execTxstat, issue_view hv]
    simp only [finishCompute]
    rw [finishEffect_clear s x k _ _ (laneCause_plain x k [12] _ hf hr)]
    rfl


/-! ### Verdicts -/

theorem one_shl_ne_zero {n : Nat} (h : n < 32) : (1#32 <<< n) ≠ 0 := by
  intro e
  have := congrArg (fun b : BitVec 32 => b.getLsbD n) e
  simp [h] at this

/-- The verdict of the one lane of a TXEND that waits for it. -/
theorem verdicts_only (core g c part : Nat) (mask : LaneMask) {n : Nat} {s : State} {l : Lane}
    (h : (((s.group g).map (·.course c)).getD Course.reset).lane n = l) (hl : l.live = true) (ht : l.tx.state = .validating) :
    verdicts core g c part mask [n] (s, 0, []) = match verdictOf s g c n mask part l.tx with
      | (some code, s) => (s, 0, [(n, ⟨code, 0, 0, false⟩)])
      | (none, s) => (commitTx s core g c n part l.tx, 0 ||| (1#32 <<< n), []) := by
  have hc : (l.live && l.tx.state == .validating) = true := by rw [hl, ht]; rfl
  simp only [verdicts, h, hc, if_true]
  generalize verdictOf s g c n mask part l.tx = r
  obtain ⟨_ | code, t⟩ := r <;> rfl

/-- A lane as a commit leaves it (R304). -/
def Lane.committed (l : Lane) : Lane :=
  { l with
    pc := pcNext l.pc, hold := .none
    tx := { l.tx with state := .idle, beginD := 0, rlog := [], wlog := [], aborts := 0 } }

theorem lane_commitTx {s : State} {g c n : Nat} (h : s.hasCourse g c) (hn : n < 32) (core part : Nat) {t : Tx} (ht : t.wlog = []) :
    (commitTx s core g c n part t).lane g c n = (s.lane g c n).committed := by
  have hp : ∀ f : Part → Part, (s.updPart part f).hasCourse g c := fun f => by
    obtain ⟨grp, hg, hc⟩ := h
    exact ⟨grp, by rw [group_updPart, hg], hc⟩
  rw [commitTx, ht, List.foldl_nil, lane_updLane_here (hp _) hn]
  simp only [State.lane, State.courseAt, group_updPart]
  rfl

/-- Settles O31: the verdict of one lane, and what it makes of the lane. -/
theorem transactionVerdicts : Obligations.TransactionVerdicts := by
  unfold Obligations.TransactionVerdicts
  refine ⟨fun s s0 s1 g c n grp e rest l hg ht hn hd hs0 htrap hl hlive hstate => ?_, fun s g c grp hg ht htrap hh => ?_,
    fun s g c n grp hg hc hn => ?_⟩
  · have hn32 : n < 32 := inMask_lt ((mem_laneList e.active n).1 (by rw [hn]; exact List.mem_singleton.2 rfl))
    have hgo : ¬ ((grp.course c).trap = .handler ∧ (!grp.halting) = true) := fun hc => by
      rcases htrap with h | h
      · exact h hc.1
      · rw [h] at hc; exact nomatch hc.2
    intro core
    refine ⟨fun hv => ?_, fun code hv => ?_⟩
    · have hne : (0#32 ||| 1#32 <<< n) ||| 0#32 ≠ 0#32 := by
        rw [BitVec.or_zero, BitVec.zero_or]
        exact one_shl_ne_zero hn32
      rw [exec_txVerdict]
      simp only [execTxVerdict, hg, ht, hgo, if_false, hn, ← hs0, verdicts_only _ _ _ _ _ hl hlive hstate, hv, hd,
        List.foldl_nil, bumpIf, Bool.false_eq_true]
      exact congrArg (fun t => Host.Outcome.next (verdictWrites t core g c _)) (if_neg hne)
    · intro a
      rw [exec_txVerdict]
      simp only [execTxVerdict, hg, ht, hgo, if_false, hn, ← hs0, verdicts_only _ _ _ _ _ hl hlive hstate, hv, hd,
        List.foldl_cons, List.foldl_nil]
      rfl
  · obtain ⟨e, rest, he⟩ := List.exists_cons_of_ne_nil ht
    rw [exec_txVerdict]
    simp only [execTxVerdict, hg, he, htrap, hh, Bool.not_false, and_self, if_true]
  · intro l
    have hcourse : s.hasCourse g c := ⟨grp, hg, hc⟩
    have hlane : s.lane g c n = l := lane_of_group hg c n
    refine ⟨fun core part hw => ?_, fun code user cause pf => ?_⟩
    · intro r
      have hr : r = l.committed := (lane_commitTx hcourse hn core part hw).trans (congrArg _ hlane)
      rw [hr]
      exact ⟨rfl, rfl, rfl, rfl, rfl, rfl, fun _ => rfl⟩
    · intro r
      have hr : r = l.aborted code user cause pf := (lane_abortLane hcourse hn ..).trans (congrArg _ hlane)
      rw [hr]
      exact ⟨rfl, rfl, rfl, rfl, rfl, rfl, rfl, rfl, fun _ => rfl⟩

end Sys2Proof.Machine
end

section
/-!
PROOFS. The record instructions of a stage graph.
-/

namespace Sys2Proof.Machine

/-! ### Records of a stage graph -/

/-- RRES of a lane whose grant is made now. -/
theorem rresLane_gives {x : View} {k : Ctl} {f : ASY} {mode : Bool × Option Nat} {u t : State} {n : Nat} {l : Launch} {o : Obj}
    {a : Word} (hg : u.graphOf x = some (l, o)) (ht : (u.laneAt x n).tx.state = .idle) (hh : (u.laneAt x n).hold = .none)
    (hn : f.node.toNat < o.nodes.length) (hs : o.succ x.grp.node f.node.toNat = true)
    (hr : (u.laneAt x n).run f.node.toNat = none)
    (hd : (u.laneAt x n).recDepth.toNat + 1 ≤ ((o.node f.node.toNat).map (·.dmax)).getD 0)
    (hc : min (x.opd 64 n (opdOf f.acls f.a)).val.toNat (o.cap f.node.toNat) ≠ 0) (hstop : requestStopped u x l o = false)
    (hgr : grantableIn mode.1 mode.2 l o x.grp.node f.node.toNat
      (min (x.opd 64 n (opdOf f.acls f.a)).val.toNat (o.cap f.node.toNat)) = true)
    (hgive : giveRun u x.grp.launch x.sel.grp x.sel.course n f.node.toNat
      (min (x.opd 64 n (opdOf f.acls f.a)).val.toNat (o.cap f.node.toNat)) = some (a, t)) :
    rresLane x k f mode u n = (.done (rresWrites x k f n a
      (rresResult 0 (min (x.opd 64 n (opdOf f.acls f.a)).val.toNat (o.cap f.node.toNat)))), t) := by
  have hbad : ¬ (o.nodes.length ≤ f.node.toNat ∨ (!o.succ x.grp.node f.node.toNat) = true) := by
    rw [hs]
    exact fun h => h.elim (Nat.not_le.2 hn) (fun h => nomatch h)
  simp only [rresLane, ht, hh, hg, hbad, hr, Nat.not_lt.2 hd, hc, hstop, hgr, rresGive, hgive, reduceCtorEq, if_false, if_true,
    Option.isSome_none, Bool.false_eq_true, Bool.not_false, Bool.true_and]

/-- A lane that is in no ACTIVE transaction. -/
theorem laneActive_idle {s : State} {x : View} {n : Nat} (hv : s.view = some x) (h : (x.crs.lane n).tx.state = .idle) :
    laneActive s x n = false := by
  rw [laneActive, laneAt_view hv, h]
  rfl

theorem laneAt_takeItems (s : State) (x : View) (c n : Nat) : (takeItems s x c).2.laneAt x n = s.laneAt x n := by
  unfold takeItems
  split <;> rfl

/-- Settles O32: each instruction is the turn of its one lane. -/
theorem recordInstructions : Obligations.RecordInstructions := by
  unfold Obligations.RecordInstructions
  refine ⟨fun k f s t x n l o a hv ho hf hr hh => ?_, fun k f s x n r hv ho hf ht hrun => ⟨fun hr => ?_, ?_⟩,
    fun k f s x n hv ho hf hh ht => ⟨fun hd hr => ?_, fun hd => ?_⟩⟩
  · intro mode u c hg hi hnone hnode hsucc hnorun hdepth hc hstop hgr hgive
    have hcl := noHandler_clear ho hf hr hh
    rw [exec_rres, execRres, issue_view hv]
    refine congrArg (fun u => Host.Outcome.next ((launcherTriggers u x.grp.launch mode.1 mode.2).postOnce _)) ?_
    exact finishLanes_only true _ _ _ ho rfl hcl (rresLane_gives hg hi hnone hnode hsucc hnorun hdepth hc hstop hgr hgive)
  · intro c key hc
    have hcl := laneCause_plain x k [13] _ hf hr n (laneList_only ho)
    rw [exec_remit, execRemit, issue_view hv]
    refine congrArg Host.Outcome.next (finishLanes_done ho rfl hcl ?_)
    simp only [remitLane, laneAt_view hv, ht, hrun, reduceCtorEq, if_false]
    rw [if_neg hc]
    refine congrArg (fun e => (LaneOut.done [], ((closeRun s x n f.node.toNat).updLaunch x.grp.launch e).post (.recordPublished x.grp.launch))) (funext fun q => ?_)
    exact if_neg hc
  · have hcl := laneCause_plain x k [13] [] hf (reach_nil x k) n (laneList_only ho)
    rw [exec_rcancel, execRcancel, issue_view hv]
    refine congrArg Host.Outcome.next (finishLanes_done ho rfl hcl ?_)
    simp only [rcancelLane, laneAt_view hv, ht, hrun, reduceCtorEq, if_false]
  · rw [exec_fetch, execFetch, issue_view hv]
    simp only [hd, if_true]
    refine congrArg Host.Outcome.next (finishLanes_only true _ _ _ ho rfl (noHandler_clear ho hf hr hh) ?_)
    simp only [fetchLane, laneActive_idle hv ht, Bool.false_eq_true, if_false]
  · intro r p
    have hcl := noHandler_clear ho hf (reach_nil x k) hh
    have hclear : x.clear (noHandler x [13] []) (x.active k) = x.active k :=
      clear_eq x _ _ fun m hm => eq_of_inMask_only ho hm ▸ hcl
    have hlead : (laneList (x.active k)).find? (fun n => !laneActive s x n) = some n := by
      rw [show laneList (x.active k) = [n] from ho, List.find?_cons, laneActive_idle hv ht]; rfl
    rw [exec_fetch, execFetch, issue_view hv]
    simp only [hd, if_false, hclear, hlead]
    refine congrArg Host.Outcome.next (finishLanes_only true _ _ _ ho rfl hcl ?_)
    have hact : laneActive (takeItems s x (x.opd 64 n (opdOf f.acls f.a)).val.toNat).2 x n = false := by
      rw [laneActive, laneAt_takeItems, ← laneActive, laneActive_idle hv ht]
    simp only [fetchShared, hact, Bool.false_eq_true, if_false, if_true]
    rfl

end Sys2Proof.Machine
end

section
/-!
PROOFS. QPOST, CKPT and the packets on their way.
-/

namespace Sys2Proof.Machine

/-! ### Queues while their words are written -/

/-- Every queue of s is one of t with the same WIDX. -/
def SameWidx (s t : State) : Prop := ∀ k q, alGet s.queues k = some q → ∃ r, alGet t.queues k = some r ∧ r.widx = q.widx

theorem SameWidx.of_eq {s t : State} (h : t.queues = s.queues) : SameWidx s t := fun _ q hq => ⟨q, h ▸ hq, rfl⟩
theorem SameWidx.trans {s t u : State} (h : SameWidx s t) (k : SameWidx t u) : SameWidx s u := fun i q hq => by
  obtain ⟨r, hr, e⟩ := h i q hq
  obtain ⟨p, hp, f⟩ := k i r hr
  exact ⟨p, hp, f.trans e⟩

theorem SameWidx.foldl {α : Type} (f : State → α → State) (hf : ∀ s a, SameWidx s (f s a)) (l : List α) (s : State) :
    SameWidx s (l.foldl f s) := by
  induction l generalizing s with
  | nil => exact .of_eq rfl
  | cons a l ih => exact (hf s a).trans (ih _)

theorem SameWidx.noteWaits (s : State) (w : SecWrite) : SameWidx s (s.noteWaits w) := by
  unfold State.noteWaits
  split
  · intro k q hq
    refine ⟨if q.watches w.sector then q.test s.hbm else q, ?_, by split <;> rfl⟩
    have h : s.queues.map (fun e => if e.2.watches w.sector then (e.1, e.2.test s.hbm) else e)
        = s.queues.map (fun e => (e.1, if e.2.watches w.sector then e.2.test s.hbm else e.2)) :=
      congrArg (List.map · s.queues) (funext fun e => by split <;> rfl)
    dsimp only
    rw [h]
    exact (alGet_map_snd s.queues (fun q : Queue => if q.watches w.sector then q.test s.hbm else q) k).trans (by rw [hq, Option.map_some])
  · exact .of_eq rfl

theorem queues_linkEvent (s : State) (k : Nat) (lost : Bool) : (linkEvent s k lost).queues = s.queues := by
  unfold linkEvent
  split
  · rfl
  · split <;> simp

theorem queues_addLost (s : State) (k n : Nat) : (addLost s k n).queues = s.queues := by
  unfold addLost
  dsimp only
  split
  · rfl
  · rw [queues_linkEvent, updPort_queues]

theorem queues_setMem (s : State) (t : Tgt) (m : Memory) : (s.setMem t m).queues = s.queues := by cases t <;> rfl

theorem queues_deliverWrite (s : State) (w : SecWrite) : (deliverWrite s w).queues = s.queues := by
  unfold deliverWrite
  split
  · split
    · exact queues_addLost ..
    · rfl
  · exact queues_setMem ..

theorem queues_deliverFlit (s : State) (f : Flit) : (deliverFlit s f).queues = s.queues := by
  unfold deliverFlit
  generalize f.writes = ws
  induction ws generalizing s with
  | nil => rfl
  | cons w ws ih =>
    rw [List.foldl_cons, ih]
    split
    · exact queues_deliverWrite ..
    · exact queues_setMem ..

/-- A write at its home may be one that a queue waits for, and changes no WIDX. -/
theorem SameWidx.sendWrite (s : State) (posted : Bool) (w : SecWrite) : SameWidx s (s.sendWrite posted w) := by
  unfold State.sendWrite
  split
  · refine .of_eq ?_
    split
    · split
      · exact queues_addLost ..
      · rfl
    · simp [sendFlit]
  · refine .of_eq ?_
    split
    · split
      · exact queues_addLost ..
      · rfl
    · dsimp only
      split
      · simp
      · rw [queues_deliverFlit, linkBytes_queues]
  · exact SameWidx.trans (.of_eq (queues_setMem ..)) (SameWidx.trans (SameWidx.noteWaits _ w) (.of_eq rfl))
  · exact .of_eq (queues_setMem ..)

/-! ### QPOST -/

/-- A packet that enters its ring raises WIDX. -/
theorem enterRing_widx {s : State} {p : PostedPacket} {q : Queue} (hq : alGet s.queues p.queue = some q)
    (hs : q.state ≠ .destroyed) : (∃ u, alGet (enterRing s p).queues p.queue = some u ∧ u.widx = q.widx + 1)
      ∧ (enterRing s p).agenda.getLast? = some (.queueMap q.part) := by
  have hw : SameWidx s (s.paid (groupOwner s p.grp) (·.applyWrites p.writes)) :=
    SameWidx.foldl State.applyWrite (fun s w => .sendWrite s true w) p.writes { s with payer := groupOwner s p.grp }
  obtain ⟨r, hr, hwidx⟩ := hw _ q hq
  simp only [enterRing, hq, hs, if_false]
  refine ⟨⟨{ r with
    widx := r.widx + 1, waitSince := if r.widx = r.ridx then s.time else r.waitSince
    poisoned := if p.poisoned then r.poisoned ++ [r.widx] else r.poisoned }, ?_, congrArg (· + 1) hwidx⟩, ?_⟩
  · rw [post_queues, alGet_updQueue_same, hr, Option.map_some]
  · simp [State.post]

theorem portsBusy_congr {s t : State} (h : t.ports = s.ports) : portsBusy t = portsBusy s := by rw [portsBusy, portsBusy, h]

/-- Nothing enters a ring while a port holds a write, or when no packet is on its way. -/
theorem flushPosts_still {s t : State} (hp : t.ports = s.ports) (hq : t.posts = s.posts) (h : portsBusy s = true ∨ s.posts = []) :
    flushPosts t = t := by
  rcases h with h | h
  · exact flushPosts_busy ((portsBusy_congr hp).trans h)
  · exact flushPosts_none (hq.trans h)

/-- QPOST of a lane with no cause of its own. -/
theorem qpostLane_eq {s : State} {x : View} {k : Ctl} {f : SYS} {n h : Nat} {u : Queue} (hv : s.view = some x)
    (ht : (x.crs.lane n).tx.state ≠ .active) (hc : qpostCauses s x f.code.toNat (x.opd 64 n (.v f.a.toNat)).val.toNat = [])
    (hq : s.queueOf f.code.toNat = some (h, u)) : qpostLane x k f s n =
      if u.room (s.postedTo h) then postPacket s x h u ⟨(x.opd 64 n (.v f.a.toNat)).val,
        (x.opd 64 n (.v f.a.toNat)).poison || (x.crs.lane n).guardP k⟩ else (.hold (.qpost h), s) := by
  have hna : laneActive s x n = false := by rw [laneActive, laneAt_view hv]; exact beq_eq_false_iff_ne.2 ht
  simp only [qpostLane, hna, Bool.false_eq_true, if_false, hc, lowestCause, hq]

theorem clear_only {x : View} {k : Ctl} {n : Nat} {sh : Shape} (ho : x.only k n) (hc : x.laneCause sh n = none) :
    x.clear sh (x.active k) = x.active k :=
  clear_eq x _ _ fun _ hm => eq_of_inMask_only ho hm ▸ hc

/-- What CKPT leaves where it answers v. -/
def answered (s : State) (x : View) (k : Ctl) (f : SYS) (n : Nat) (v : Word) : State :=
  if f.dcls = 0 then afterIssue x (putRegs x s [x.putV n f.d.toNat ⟨v, (x.crs.lane n).guardP k⟩])
  else (afterIssue x s).updCourse x.sel.grp x.sel.course (fun c => c.setS f.d.toNat ⟨v, (x.crs.lane n).guardP k⟩)

/-- CKPT of one lane that is in no ACTIVE transaction. -/
theorem exec_ckpt_only {k : Ctl} {f : SYS} {s : State} {x : View} {n : Nat} (hv : s.view = some x) (ho : x.only k n)
    (hf : x.has [15]) (hr : x.reach k (dstOf f.dcls f.d).vregs) (ht : (x.crs.lane n).tx.state ≠ .active) (yes : Bool)
    (hy : (((alGet s.ctxs (s.groupCtx x.grp)).map (·.ckreq)).getD false && x.grp.mode == .ordinary
      && x.crs.trap != .handler) = yes) :
    exec (.ckpt k f) s = .next (let t := answered s x k f n (if yes then 1 else 0)
      if yes then requestHalt (t.updGroup x.sel.grp (fun g => { g with tag := f.code })) (haltUnit t x.sel.grp) .command else t) := by
  have hcl := laneCause_plain x k [15] _ hf hr n (laneList_only ho)
  have hna : laneActive s x n = false := by rw [laneActive, laneAt_view hv]; exact beq_eq_false_iff_ne.2 ht
  have hlead : (laneList (x.active k)).find? (fun n => !laneActive s x n) = some n := by
    rw [show laneList (x.active k) = [n] from ho, List.find?_cons, hna]; rfl
  rw [exec_ckpt, execCkpt, issue_view hv]
  simp only [clear_only ho hcl, hlead, hy]
  have hfin (d : Word) : (if f.dcls = 0 then finishLanes s x k false (Shape.plain [15] (dstOf f.dcls f.d).vregs) (ckptLane x k f d)
      else (finishLanes s x k false (Shape.plain [15] (dstOf f.dcls f.d).vregs) (ckptLane x k f d)).updCourse x.sel.grp x.sel.course
        (fun c => c.setS f.d.toNat ⟨d, (x.crs.lane n).guardP k⟩)) = answered s x k f n d := by
    unfold answered
    by_cases hd : f.dcls = 0
    · rw [if_pos hd, if_pos hd]
      exact finishLanes_only false _ _ _ ho rfl hcl (by simp only [ckptLane, hna, hd, Bool.false_eq_true, if_false, if_true])
    · rw [if_neg hd, if_neg hd]
      exact congrArg (State.updCourse · _ _ _)
        (finishLanes_done ho rfl hcl (by simp only [ckptLane, hna, hd, Bool.false_eq_true, if_false]))
  rw [hfin]

/-- Settles O39: QPOST takes its packet or is held, packets enter their rings, CKPT answers. -/
theorem systemInstructions : Obligations.SystemInstructions := by
  unfold Obligations.SystemInstructions
  refine ⟨fun k f s t x n h u hv ho hf hr ht hc hq => ⟨fun hroom hpost => ?_, fun hroom hstill hlen => ?_⟩,
    fun s p q => ⟨flushPosts_busy, fun hb hp => ?_, enterRing_widx, fun hq hs => ?_⟩, fun k f s x n hv ho hf hr ht => ?_⟩
  · have hcl := laneCause_plain x k [14] _ hf hr n (laneList_only ho)
    rw [exec_qpost, execQpost, issue_view hv]
    refine congrArg (fun u => Host.Outcome.next (flushPosts u)) (finishLanes_done ho rfl hcl ?_)
    rw [qpostLane_eq hv ht hc hq, hroom, if_pos rfl, hpost]
  · have hcl := laneCause_plain x k [14] _ hf hr n (laneList_only ho)
    have hn : n < 32 := inMask_lt (laneList_only ho)
    have hm : inMask (x.sel.mask &&& ~~~x.active k) n = false := by rw [inMask_without _ _ hn, laneList_only ho]; simp
    obtain ⟨-, hg, hcrs, -⟩ := view_eq hv
    have hcourse : s.hasCourse x.sel.grp x.sel.course := ⟨x.grp, hg, hlen⟩
    rw [exec_qpost, execQpost, issue_view hv, finishLanes_held ho rfl hcl (by rw [qpostLane_eq hv ht hc hq, hroom, if_neg Bool.false_ne_true]),
      flushPosts_still (s := s) (by simp) (by simp) hstill]
    refine ⟨_, rfl, ?_, ?_, ?_⟩
    · rw [lane_deselect, lane_updLane_here (hasCourse_advance hcourse ..) hn]
    · rw [lane_deselect, lane_updLane_here (hasCourse_advance hcourse ..) hn, lane_advance hcourse _ hn, hm,
        if_neg Bool.false_ne_true, lane_of_group hg, hcrs]
    · exact ((SameMem.advance ..).trans ((SameMem.updLane ..).trans (.deselect _))).mem
  · simp only [flushPosts, hb, Bool.false_eq_true, if_false, hp, List.foldl_cons, List.foldl_nil]
  · simp only [enterRing, hq, hs, if_true]
  · intro ckreq out
    refine ⟨fun hno => ?_, fun h1 h2 h3 => ?_⟩
    · have hy : (ckreq && x.grp.mode == .ordinary && x.crs.trap != .handler) = false := by
        rcases hno with h | h | h
        · rw [h]; rfl
        · rw [beq_eq_false_iff_ne.2 h, Bool.and_false, Bool.false_and]
        · rw [h]; exact Bool.and_false _
      exact exec_ckpt_only hv ho hf hr ht false hy
    · have hy : (ckreq && x.grp.mode == .ordinary && x.crs.trap != .handler) = true := by
        rw [h1, h2, bne_iff_ne.2 h3]; rfl
      exact exec_ckpt_only hv ho hf hr ht true hy

end Sys2Proof.Machine
end

section
/-!
PROOFS. Quota grants, wake-ups and the fills of a return stack.
-/

namespace Sys2Proof.Machine

/-! ### A granted quota -/

/-- A lane whose n columns from a on read zero without poison. -/
def Lane.zeroed (l : Lane) (a n : Nat) : Lane := (List.range n).foldl (fun l i => l.setV (a + i) ⟨0, false⟩) l

theorem zeroed_succ (l : Lane) (a n : Nat) : l.zeroed a (n + 1) = (l.zeroed a n).setV (a + n) ⟨0, false⟩ := by
  simp only [Lane.zeroed, List.range_succ, List.foldl_append, List.foldl_cons, List.foldl_nil]

theorem getV_zeroed (l : Lane) (a n : Nat) {i : Nat} (hi : i < 256) :
    (l.zeroed a n).getV i = if a ≤ i ∧ i < a + n then ⟨0, false⟩ else l.getV i := by
  induction n with
  | zero => exact (if_neg (by omega)).symm
  | succ n ih =>
    rw [zeroed_succ]
    by_cases h : i = a + n
    · subst h
      rw [getV_setV_same _ _ _ hi, if_pos (by omega)]
    · rw [getV_setV_other _ _ _ _ h, ih]
      exact if_congr (by omega) rfl rfl

/-- What clearing columns does not change of a lane. -/
theorem zeroed_keep {α : Type} (q : Lane → α) (hq : ∀ l i x, q (Lane.setV l i x) = q l) (l : Lane) (a n : Nat) :
    q (l.zeroed a n) = q l := by
  induction n with
  | zero => rfl
  | succ n ih => rw [zeroed_succ, hq, ih]

theorem hold_setV (l : Lane) (i : Nat) (x : PWord) : (l.setV i x).hold = l.hold := by unfold Lane.setV; split <;> rfl
theorem pc_setV (l : Lane) (i : Nat) (x : PWord) : (l.setV i x).pc = l.pc := by unfold Lane.setV; split <;> rfl

/-- What a grant makes of a lane of its course. -/
def Course.grantLane (x : Course) (r : RegqReq) (n : Nat) (l : Lane) : Lane :=
  let l := l.zeroed x.quota (r.quota - x.quota)
  if inMask r.mask n ∧ l.hold = .regq ∧ x.trap ≠ .handler then { l with hold := .none, pc := pcNext l.pc } else l

theorem lane_grantCourse (r : RegqReq) (x : Course) {n : Nat} (hn : n < 32) :
    (grantCourse r x).lane n = x.grantLane r n (x.lane n) := by
  rw [Course.lane, dif_pos hn]
  simp only [grantCourse, Course.mapLanes, Vector.getElem_ofFn]
  rw [Course.lane, dif_pos hn]
  rfl

theorem getV_grantLane (x : Course) (r : RegqReq) (n : Nat) (l : Lane) {i : Nat} (hi : i < 256) (hq : x.quota ≤ r.quota) :
    (x.grantLane r n l).getV i = if x.quota ≤ i ∧ i < r.quota then ⟨0, false⟩ else l.getV i := by
  have h := getV_zeroed l x.quota (r.quota - x.quota) hi
  rw [Nat.add_sub_cancel' hq] at h
  rw [← h, Course.grantLane]
  split <;> rfl

theorem grantLane_waiting (x : Course) {r : RegqReq} {n : Nat} {l : Lane} (hm : inMask r.mask n = true) (hl : l.hold = .regq) :
    (x.trap ≠ .handler → (x.grantLane r n l).hold = .none ∧ (x.grantLane r n l).pc = pcNext l.pc)
    ∧ (x.trap = .handler → (x.grantLane r n l).hold = .regq ∧ (x.grantLane r n l).pc = l.pc) := by
  have h1 := zeroed_keep Lane.hold hold_setV l x.quota (r.quota - x.quota)
  have h2 := zeroed_keep Lane.pc pc_setV l x.quota (r.quota - x.quota)
  refine ⟨fun ht => ?_, fun ht => ?_⟩
  · rw [Course.grantLane, if_pos ⟨hm, h1.trans hl, ht⟩]
    exact ⟨rfl, congrArg pcNext h2⟩
  · rw [Course.grantLane, if_neg fun h => h.2.2 ht]
    exact ⟨h1.trans hl, h2⟩

/-- The one request of a role's FIFO is granted where the pool holds its columns. -/
theorem grantRole_one {s : State} {g role : Nat} {grp : Group} {r : RegqReq} (hg : s.group g = some grp)
    (hr : r.quota ≤ (grp.course r.course).quota + roleFree grp role) :
    grantRole s g role [r]
      = (s.updGroup g (fun x => { x with regq := x.regq.set role [] })).updCourse g r.course (grantCourse r) := by
  simp only [grantRole, hg, if_pos hr]

/-! ### A fill that has returned -/

theorem alGet_filter {α : Type} (p : Nat → Bool) (l : List (Nat × α)) (k : Nat) :
    alGet (l.filter fun e => p e.1) k = if p k then alGet l k else none := by
  induction l with
  | nil => simp [alGet]
  | cons e l ih =>
    obtain ⟨j, v⟩ := e
    by_cases hj : j = k
    · subst hj
      by_cases hp : p j = true
      · simp [hp, alGet]
      · simpa [hp] using ih
    · by_cases hp : p j = true
      · simp [hp, alGet, hj, ih]
      · simp [hp, alGet, hj, ih]

theorem alGet_append {α : Type} (l m : List (Nat × α)) (k : Nat) : alGet (l ++ m) k = (alGet l k).orElse fun _ => alGet m k := by
  induction l with
  | nil => rfl
  | cons e l ih =>
    obtain ⟨j, v⟩ := e
    by_cases hj : j = k <;> simp [alGet, hj, ih]

/-- The lane after a pop of its return stack. -/
def Lane.popped (l : Lane) (below : Option PWord) : Lane :=
  let d := l.depth.toNat
  let es := l.entries.filter (fun e => decide (e.1 < d))
  { l with
    depth := l.depth - 1
    entries := match below with
      | some b => es ++ [(d - 8, b)]
      | none => es }

theorem entries_popped_below (l : Lane) (below : Option PWord) {i : Nat} {a : PWord} (hi : i < l.depth.toNat)
    (h : alGet l.entries i = some a) : alGet (l.popped below).entries i = some a := by
  have hf : alGet (l.entries.filter fun e => decide (e.1 < l.depth.toNat)) i = some a := by
    rw [alGet_filter (fun k => decide (k < l.depth.toNat)), if_pos (decide_eq_true hi), h]
  cases below with
  | none => exact hf
  | some b => exact (alGet_append ..).trans (by rw [hf]; rfl)

theorem entries_popped_new (l : Lane) (b : PWord) (h : alGet l.entries (l.depth.toNat - 8) = none) :
    alGet (l.popped (some b)).entries (l.depth.toNat - 8) = some b := by
  refine (alGet_append ..).trans ?_
  rw [alGet_filter (fun k => decide (k < l.depth.toNat)), h, ite_self]
  simp [alGet]

/-- The backward transfer of a fill that returns is counted in what lanes wait for alone. -/
theorem lane_counted {α : Type} (s : State) (g c token h d n : Nat) (q : Lane → α) (hq : ∀ l k, q { l with hold := k } = q l) :
    q ((countFills (s.updCourse g c bumpBc) g c token).lane h d n) = q (s.lane h d n) := by
  refine (lane_mapLanes_keep _ g c h d n q fun l => ?_).trans (congrArg q (lane_updCourse_keep s g c h d n fun _ => rfl))
  split
  · split <;> exact hq _ _
  · rfl

theorem hold_counted (s : State) (g c token h d n : Nat) :
    (((countFills (s.updCourse g c bumpBc) g c token).lane h d n).hold = .none) = ((s.lane h d n).hold = .none) := by
  refine (lane_mapLanes_keep _ g c h d n (fun l => l.hold = .none) fun l => ?_).trans
    (congrArg (fun l => Lane.hold l = .none) (lane_updCourse_keep s g c h d n fun _ => rfl))
  cases hl : l.hold with
  | fill e b t k => simp only; split <;> simp
  | _ => simp only [hl]

/-- A lane whose RET has its entries. -/
def Lane.returned (l : Lane) (top : Word) (below : Option PWord) : Lane :=
  { { l with hold := .none }.popped below with pc := top }

/-- The state in which a RET has taken effect, but for the count of its backward transfer. -/
def returnedTo (s : State) (g c n : Nat) (below : Option PWord) (top : Word) : State :=
  (popReturn (s.updLane g c n fun l => { l with hold := .none }) g c n below).updLane g c n fun l => { l with pc := top }

theorem lane_returnedTo {s : State} {g c n : Nat} (h : s.hasCourse g c) (hn : n < 32) (below : Option PWord) (top : Word) :
    (returnedTo s g c n below top).lane g c n = (s.lane g c n).returned top below := by
  have h1 := hasCourse_updLane h g c n fun l => { l with hold := .none }
  have h2 : (popReturn (s.updLane g c n fun l => { l with hold := .none }) g c n below).lane g c n
      = ({ s.lane g c n with hold := .none } : Lane).popped below :=
    (lane_updLane_here h1 hn _).trans (congrArg (Lane.popped · below) (lane_updLane_here h hn _))
  have h3 : (popReturn (s.updLane g c n fun l => { l with hold := .none }) g c n below).hasCourse g c := hasCourse_updLane h1 ..
  rw [returnedTo, lane_updLane_here h3 hn, h2]
  rfl

theorem fillReturned_sound {s : State} {g c n token : Nat} {l : Lane} {e below : Option StackFill} {counted : Bool}
    {v : PWord} (hv : (e.map (·.word)).orElse (fun _ => alGet l.entries l.depth.toNat) = some v) (hp : v.poison = false)
    (hpc : pcValid v.val = true) (ht : l.tx.state = .irrevocable → l.tx.beginD ≠ l.depth) :
    fillReturned s g c n l e below token counted =
      let u := returnedTo s g c n (below.map (·.word)) v.val
      if v.val ≤ l.pc ∧ !counted then countFills (u.updCourse g c bumpBc) g c token else u := by
  have hc : lowestCause (entryCauses v) = none := by rw [entryCauses, hp, hpc]; rfl
  have hr : ∀ u, retTx u g c n l.depth.toNat l = u := fun u => by
    refine if_neg fun h => ht h.1 (BitVec.eq_of_toNat_eq h.2)
  simp only [fillReturned, Lane.entry, hv, hc, hr]
  rfl

/-- Settles O23: each wait's end as an update of its course's lanes. -/
theorem waitsEnd : Obligations.WaitsEnd := by
  unfold Obligations.WaitsEnd
  refine ⟨⟨fun s g role grp r hg _ hreg hc hq _ hfree => ?_, fun s g c n k w grp hg hn hk hl => ?_⟩,
    fun s g c n token grp e below counted hg hn => ?_⟩
  · obtain ⟨u, hu⟩ : ∃ u, u = s.updGroup g (fun x => { x with regq := x.regq.set role [] }) := ⟨_, rfl⟩
    have hug : u.group g = some { grp with regq := grp.regq.set role [] } := by rw [hu, group_updGroup_same, hg]; rfl
    have hcu : u.hasCourse g r.course := ⟨_, hug, hc⟩
    have hca : ∀ c, u.courseAt g c = s.courseAt g c := fun c => by
      rw [courseAt_of_group hug, courseAt_of_group hg]; rfl
    have hqs : (s.courseAt g r.course).quota = (grp.course r.course).quota := by rw [courseAt_of_group hg]
    have ht : ∀ n, n < 32 → (u.updCourse g r.course (grantCourse r)).lane g r.course n
        = (s.courseAt g r.course).grantLane r n (s.lane g r.course n) := fun n hn => by
      rw [lane_updCourse_same hcu, lane_grantCourse r _ hn, hca]; rfl
    refine ⟨u.updCourse g r.course (grantCourse r), ?_, ?_, fun n i hn hi => ?_, fun n hn hm hh => ?_, fun c hne => ?_⟩
    · simp only [exec_regqGrant, execRegqGrant, hg, hreg, grantRole_one hg hfree, hu]
    · rw [courseAt_updCourse_same hcu]; rfl
    · rw [ht n hn, getV_grantLane _ _ _ _ hi (hqs ▸ hq), hqs]
    · rw [ht n hn]
      exact grantLane_waiting _ hm hh
    · obtain e | ⟨-, e, -⟩ := courseAt_updCourse u g r.course g c (grantCourse r)
      · rw [e, hca]
      · exact absurd e hne
  · have hcs : s.hasCourse g c := hasCourse_of_lane hg fun e => by rw [e] at hl; exact nomatch hl
    refine ⟨fun hw => ?_, fun hw => ?_⟩
    · refine ⟨s.updCourse g c fun x => x.mapLanes fun _ l => if l.hold.slept (s.cycle k) then { l with hold := .none } else l,
        ?_, ?_⟩
      · simp only [exec_sleepExpire, execSleepExpire, hg, hl, hk, Option.getD_some, if_pos hw]
      · have hs : (s.lane g c n).hold.slept (s.cycle k) = true := by
          rw [lane_of_group hg, hl]; exact decide_eq_true hw
        rw [lane_mapLanes_here hcs hn, if_pos hs]
        exact ⟨rfl, rfl⟩
    · simp only [exec_sleepExpire, execSleepExpire, hg, hl, hk, Option.getD_some, if_neg (Nat.not_le.2 hw)]
  · intro l hl
    have hcs : s.hasCourse g c := hasCourse_of_lane hg fun e => by
      have : l.hold = .none := by rw [show l = Lane.reset from e]; rfl
      rw [this] at hl; exact nomatch hl
    have hlane : s.lane g c n = l := lane_of_group hg c n
    have hx : exec (.returnStackFillReturn g c n) s = .next (if fillTrains s e below || (grp.course c).frozen n
        then s.post (.returnStackFillReturn g c n) else fillReturned s g c n l e below token counted) := by
      simp only [exec_returnStackFillReturn, execReturnStackFillReturn, hg]
      rw [show ((grp.course c).lane n).hold = .fill e below token counted from hl]
    refine ⟨fun h => ?_, fun v hft hfr hv hp hpc htx => ?_⟩
    · rw [hx, if_pos (by rw [Bool.or_eq_true]; exact h)]
    · rw [hft, hfr, fillReturned_sound hv hp hpc htx] at hx
      have hu := lane_returnedTo hcs hn (below.map (·.word)) v.val
      rw [hlane] at hu
      refine ⟨_, hx, ?_⟩
      simp only [Bool.or_self, Bool.false_eq_true, if_false]
      obtain ⟨u, hue⟩ : ∃ u, u = returnedTo s g c n (below.map (·.word)) v.val := ⟨_, rfl⟩
      have hm : SameMem s u := hue ▸ (SameMem.updLane ..).trans ((SameMem.updLane ..).trans (.updLane ..))
      rw [← hue] at hu ⊢
      obtain ⟨t, ht⟩ : ∃ t, t = if v.val ≤ l.pc ∧ (!counted) = true then countFills (u.updCourse g c bumpBc) g c token else u :=
        ⟨_, rfl⟩
      have hk : ∀ {α : Type} (q : Lane → α), (∀ l k, q { l with hold := k } = q l) → q (t.lane g c n) = q (l.returned v.val (below.map (·.word))) :=
        fun q hq => by
          rw [ht, ← hu]; split
          · exact lane_counted u g c token g c n q hq
          · rfl
      have hh : (t.lane g c n).hold = .none := by
        have h0 : (u.lane g c n).hold = .none := by rw [hu]; rfl
        rw [ht]; split
        · exact (hold_counted u g c token g c n).mpr h0
        · exact h0
      have hmt : SameMem s t := by
        rw [ht]; split
        · exact hm.trans ((SameMem.updCourse ..).trans (.updCourse ..))
        · exact hm
      rw [← ht]
      refine ⟨hk Lane.pc fun _ _ => rfl, hk Lane.depth fun _ _ => rfl, hh, fun i a hi h => ?_, fun b hb h => ?_,
        hk Lane.live fun _ _ => rfl, fun i => hk (·.getV i) fun _ _ => rfl, hmt.mem⟩
      · rw [hk Lane.entries fun _ _ => rfl]
        exact entries_popped_below { l with hold := .none } _ hi h
      · rw [hk Lane.entries fun _ _ => rfl, hb]
        exact entries_popped_new { l with hold := .none } _ h

end Sys2Proof.Machine
end

section
/-!
PROOFS. The selection of an issue group: the pick of the lowest key, and the loads that an instruction is ordered after.
-/

namespace Sys2Proof.Machine

/-! ### The pick -/

theorem keyBefore_iff (a b : IssueGroup) :
    keyBefore a b = true ↔ b.depth < a.depth ∨ (a.depth = b.depth ∧ a.pc.toNat < b.pc.toNat) := by
  simp only [keyBefore, Bool.or_eq_true, Bool.and_eq_true, decide_eq_true_eq, beq_iff_eq, BitVec.lt_def]

theorem lowestKey_eq_none {gs : List IssueGroup} : lowestKey gs = none ↔ gs = [] := by
  cases gs with
  | nil => exact ⟨fun _ => rfl, fun _ => rfl⟩
  | cons i l =>
    refine ⟨fun h => ?_, fun h => nomatch h⟩
    rw [lowestKey] at h
    split at h
    · exact nomatch h
    · split at h <;> exact nomatch h

/-- The lowest key is one of the groups', and no group comes before it. -/
theorem lowestKey_least {gs : List IssueGroup} : ∀ {i : IssueGroup}, lowestKey gs = some i →
    i ∈ gs ∧ ∀ j ∈ gs, keyBefore j i = false := by
  induction gs with
  | nil => exact fun h => nomatch h
  | cons a l ih =>
    intro i h
    have hself : keyBefore a a = false := by
      rw [← Bool.not_eq_true, keyBefore_iff]; omega
    rw [lowestKey] at h
    split at h
    · next hl =>
      obtain rfl := Option.some.inj h
      rw [lowestKey_eq_none] at hl
      subst hl
      exact ⟨List.mem_cons_self, fun j hj => by rw [List.mem_singleton.1 hj]; exact hself⟩
    · next b hb =>
      obtain ⟨hbm, hbl⟩ := ih hb
      by_cases hk : keyBefore b a = true
      · rw [if_pos hk] at h
        obtain rfl := Option.some.inj h
        refine ⟨List.mem_cons_of_mem _ hbm, fun j hj => ?_⟩
        obtain rfl | hj := List.mem_cons.1 hj
        · rw [← Bool.not_eq_true, keyBefore_iff]
          rw [keyBefore_iff] at hk
          omega
        · exact hbl j hj
      · rw [if_neg hk] at h
        obtain rfl := Option.some.inj h
        refine ⟨List.mem_cons_self, fun j hj => ?_⟩
        obtain rfl | hj := List.mem_cons.1 hj
        · exact hself
        · have hj := hbl j hj
          rw [← Bool.not_eq_true, keyBefore_iff] at hj ⊢
          rw [keyBefore_iff] at hk
          omega

theorem pick_unforced {c : Course} (h : c.isForced = false) (gs : List IssueGroup) : pick c gs = lowestKey gs := by
  rw [pick, h]; rfl

/-! ### Loads that an instruction is ordered after -/

theorem lateSectors_fixLoads (c : Course) {m : LaneMask} {n : Nat} (hn : inMask m n = true) : (c.fixLoads m).lateSectors n = [] := by
  simp only [Course.lateSectors, List.flatMap_eq_nil_iff]
  intro w hw
  simp only [Course.fixLoads, List.mem_flatMap, List.mem_map] at hw
  obtain ⟨o, ⟨p, -, rfl⟩, hwo⟩ := hw
  obtain ⟨v, -, rfl⟩ := List.mem_map.1 hwo
  cases v with
  | late k r x res idx ps guard =>
    rw [RegWrite.fixed]
    by_cases hm : inMask m k = true
    · rw [if_pos hm]; cases res <;> rfl
    · rw [if_neg hm]
      have hk : ¬ k = n := fun e => hm (e ▸ hn)
      exact if_neg hk
  | _ => rfl

theorem orderLoads_idle {s : State} {x : View} (hv : s.view = some x)
    (h : ((List.range 32).all fun n => (x.crs.lateSectors n).isEmpty) = true) : orderLoads s = s := by
  simp only [orderLoads, hv, if_pos h]

/-- The loads in flight of the issue group are performed where the instruction orders all of them. -/
theorem orderLoads_fixes {s : State} {x : View} {l : ILine} {i : Instr} (hv : s.view = some x) (hl : lineSeen s x = some l)
    (hd : slotDecode l (slotOf x.sel.pc) = .ok i) (ho : ordersLoads i = true)
    (h : ¬ ((List.range 32).all fun n => (x.crs.lateSectors n).isEmpty) = true) :
    orderLoads s = s.updCourse x.sel.grp x.sel.course (·.fixLoads x.sel.mask) := by
  simp only [orderLoads, hv, if_neg h, hl, hd, orderedLanes, ho, Bool.true_or, if_true]

theorem lateSectors_orderLoads {s : State} {x : View} {l : ILine} {i : Instr} {n : Nat} (hv : s.view = some x)
    (hl : lineSeen s x = some l) (hd : slotDecode l (slotOf x.sel.pc) = .ok i) (ho : ordersLoads i = true) (hn : n < 32)
    (hm : inMask x.sel.mask n = true) : ((orderLoads s).courseAt x.sel.grp x.sel.course).lateSectors n = [] := by
  obtain ⟨-, hg, hcrs, -⟩ := view_eq hv
  by_cases h : ((List.range 32).all fun n => (x.crs.lateSectors n).isEmpty) = true
  · rw [orderLoads_idle hv h, courseAt_of_group hg, ← hcrs]
    exact List.isEmpty_iff.1 (List.all_eq_true.1 h n (List.mem_range.2 hn))
  · rw [orderLoads_fixes hv hl hd ho h]
    obtain e | ⟨-, -, e⟩ := courseAt_updCourse s x.sel.grp x.sel.course x.sel.grp x.sel.course (·.fixLoads x.sel.mask)
    · by_cases hc : x.sel.course < x.grp.courses.length
      · rw [courseAt_updCourse_same ⟨_, hg, hc⟩, lateSectors_fixLoads _ hm]
      · rw [e, courseAt_of_group hg, Group.course, List.getD_eq_getElem?_getD, List.getElem?_eq_none (Nat.not_lt.1 hc)]
        rfl
    · rw [e, lateSectors_fixLoads _ hm]

/-! ### A selection -/

theorem owedTraps_none {s : State} {x : Sel} {c : Course} (h : ∀ n, n < 32 → (c.lane n).dropped ≠ .due) :
    owedTraps s x c = none := by
  unfold owedTraps
  dsimp only
  rw [if_pos]
  rw [List.isEmpty_iff, List.filter_eq_nil_iff]
  intro n hn
  have := h n (inMask_lt ((mem_laneList _ _).1 hn))
  simpa using this

theorem execIssueSelection_serves {s : State} {core g c : Nat} {grp : Group} (hg : s.group g = some grp)
    (hr : grp.state = .resident) (hk : grp.core = some core) (hh : grp.halting = false) (he : (grp.course c).ended = false)
    (hq : (s.core core).handler.isSome = true ∨ (s.core core).handlerQ = []) (hm : mayServe s core g c = true)
    (hd : ∀ n, n < 32 → ((grp.course c).lane n).dropped ≠ .due) :
    execIssueSelection core g c s = .next (selectFrom s grp core g c) := by
  have h1 : ¬ (grp.state ≠ .resident ∨ grp.core ≠ some core ∨ grp.halting = true ∨ (grp.course c).ended = true) := by
    simp [hr, hk, hh, he]
  have h2 : ¬ ((s.core core).handler.isNone = true ∧ (!(s.core core).handlerQ.isEmpty) = true) := by
    rintro ⟨ha, hb⟩
    obtain h | h := hq
    · rw [Option.isNone_iff_eq_none] at ha; rw [ha] at h; exact nomatch h
    · rw [h] at hb; exact nomatch hb
  simp only [execIssueSelection, hg, if_neg h1, if_neg h2, hm, Bool.not_true, Bool.false_eq_true, if_false,
    owedTraps_none hd]

theorem line_markServed (s : State) (core g c : Nat) (a : Word) (ctx : Nat) :
    ((markServed s core g c).core core).line a ctx = (s.core core).line a ctx := by
  rw [markServed, core_setCore_same]; rfl

/-- Settles O24: the selection's choice, the lowest key, and the loads that the choice performs. -/
theorem selectionPicksIssueGroup : Obligations.SelectionPicksIssueGroup := by
  unfold Obligations.SelectionPicksIssueGroup
  refine ⟨fun s core g c grp i hg hr hk hh he hq hm hd => ?_, fun c gs hf => ?_,
    fun s x l i n hv hl hdec ho hn hmn => lateSectors_orderLoads hv hl hdec ho hn hmn, fun s x hv h => ?_⟩
  · intro gs hp x
    rw [exec_issueSelection, execIssueSelection_serves hg hr hk hh he hq hm hd]
    refine ⟨fun hline => ?_, fun hline => ?_⟩
    · intro u
      have hnone : ¬ (((markServed s core g c).core core).line (lineOf i.pc) (s.groupCtx grp)).isNone = true := by
        rw [line_markServed, Option.isNone_iff_eq_none]
        intro e
        rw [e] at hline
        exact nomatch hline
      by_cases hb : (markServed s core g c).takeFree.1 % 2 = 1
      · right
        refine congrArg Host.Outcome.next ?_
        simp only [selectFrom]
        rw [show pick (grp.course c) ((eligible s core g c).map (·.1)) = some i from hp]
        simp only [if_neg hnone, if_pos hb]
        rfl
      · left
        refine congrArg Host.Outcome.next ?_
        simp only [selectFrom]
        rw [show pick (grp.course c) ((eligible s core g c).map (·.1)) = some i from hp]
        simp only [if_neg hnone, if_neg hb]
        rfl
    · refine congrArg Host.Outcome.next ?_
      simp only [selectFrom]
      rw [show pick (grp.course c) ((eligible s core g c).map (·.1)) = some i from hp]
      simp only [line_markServed, hline, Option.isNone_none, if_true]
      rfl
  · rw [pick_unforced hf]
    exact ⟨lowestKey_eq_none, fun i => lowestKey_least⟩
  · exact orderLoads_idle hv (List.all_eq_true.2 fun n hn => by rw [h n (List.mem_range.1 hn)]; rfl)

end Sys2Proof.Machine
end

section
/-!
PROOFS. What a load changes, and the steps of a core: a line that arrives, an operation's result, a hold that is over.
-/

namespace Sys2Proof.Machine

/-! ### What a load changes -/

/-- From s to t no memory, no group and no step due has changed: a load reads its places and fills an L1. -/
structure Loaded (s t : State) : Prop where
  same : SameMem s t
  groups : t.groups = s.groups
  agenda : t.agenda = s.agenda

theorem Loaded.refl (s : State) : Loaded s s := ⟨.refl s, rfl, rfl⟩

theorem Loaded.trans {s t u : State} (h : Loaded s t) (k : Loaded t u) : Loaded s u :=
  ⟨h.same.trans k.same, k.groups.trans h.groups, k.agenda.trans h.agenda⟩

theorem Loaded.foldl {α : Type} (f : State → α → State) (hf : ∀ s a, Loaded s (f s a)) (l : List α) (s : State) :
    Loaded s (l.foldl f s) := by
  induction l generalizing s with
  | nil => exact .refl s
  | cons a l ih => exact (hf s a).trans (ih _)

theorem Loaded.group {s t : State} (h : Loaded s t) (g : Nat) : t.group g = s.group g := by simp only [State.group, h.groups]

theorem Loaded.takeFree (s : State) : Loaded s s.takeFree.2 := ⟨.of_eq rfl rfl rfl rfl rfl rfl, rfl, rfl⟩

theorem Loaded.setCore (s : State) (c : Nat) (k : Core) (h : k.scratch = (s.core c).scratch) : Loaded s (s.setCore c k) :=
  ⟨.setCore s c k h, rfl, rfl⟩

theorem Loaded.l1Insert (s : State) (core k : Nat) (d : BitVec 256) : Loaded s (l1Insert s core k d) := by
  unfold Machine.l1Insert
  dsimp only
  split
  · exact .setCore _ _ _ rfl
  · exact (Loaded.takeFree s).trans (.setCore _ _ _ rfl)

theorem Loaded.keepL1 (s : State) (core k : Nat) : Loaded s (keepL1 s core k) := by
  unfold Machine.keepL1
  dsimp only
  split
  · exact .setCore _ _ _ rfl
  · exact .l1Insert ..

theorem agenda_chargePayer (s : State) (k n : Nat) : (s.chargePayer k n).agenda = s.agenda := by
  unfold State.chargePayer; split <;> rfl

theorem agenda_updPort (s : State) (k : Nat) (f : Port → Port) : (s.updPort k f).agenda = s.agenda :=
  (congrArg State.agenda (updPort_rest s k f) :)

theorem agenda_readAt (s : State) (t : Tgt) (a n : Nat) : (s.readAt t a n).agenda = s.agenda := by
  cases t with
  | hbm =>
    simp only [State.readAt]
    split
    · rfl
    · generalize List.range _ = l
      induction l generalizing s with
      | nil => rfl
      | cons j l ih => exact (ih _).trans rfl
  | host => exact agenda_chargePayer ..
  | peer k => exact (agenda_updPort ..).trans (agenda_chargePayer ..)
  | scratch c => rfl

theorem Loaded.readAt (s : State) (t : Tgt) (a n : Nat) : Loaded s (s.readAt t a n) :=
  ⟨(Reads.readAt s t a n).sameMem, (Reads.readAt s t a n).groups, agenda_readAt ..⟩

theorem Loaded.fillL1 (s : State) (core k : Nat) : Loaded s (fillL1 s core k) :=
  Loaded.trans ⟨(Reads.l2Access s k .read).sameMem, rfl, rfl⟩ (.keepL1 ..)

theorem Loaded.loadSector (s : State) (x : View) (n : Nat) (weak : Bool) (t : Tgt) (k : Nat) :
    Loaded s (loadSector s x n weak t k).2 := by
  unfold Machine.loadSector
  dsimp only
  split
  · exact .refl s
  · split
    · split
      · split
        · exact .takeFree s
        · exact (Loaded.takeFree s).trans (.fillL1 ..)
      · exact .fillL1 ..
    · exact .fillL1 ..

theorem Loaded.readFar (s : State) (p : Piece) : Loaded s (readFar s p) := by
  unfold Machine.readFar
  split
  · exact .refl s
  · exact .readAt ..

theorem Loaded.loadPieces (x : View) (n : Nat) (weak : Bool) (ps : List Piece) :
    ∀ s : State, Loaded s (loadPieces s x n weak ps).2 := by
  induction ps with
  | nil => exact fun s => .refl s
  | cons p ps ih =>
    intro s
    exact (Loaded.readFar s p).trans ((Loaded.loadSector ..).trans (ih _))

theorem Loaded.refill (s : State) (core : Nat) (now : Bool) (w : RegWrite) : Loaded s (w.refill s core now) := by
  unfold RegWrite.refill
  split
  · split
    · exact .foldl _ (fun _ _ => .keepL1 ..) _ _
    · exact .refl s
  · exact .refl s

/-- What the places of a late load hold is the same where no memory and no group has changed. -/
theorem Loaded.lateWord {s t : State} (h : Loaded s t) (g c n idx : Nat) (ps : List Piece) (guard : Bool) :
    lateWord t g c n idx ps guard = lateWord s g c n idx ps guard := by
  simp only [Machine.lateWord, homeSector, h.group, h.same.mem]

/-! ### An operation in flight with one result -/

theorem hasCourse_of_inflight {s : State} {g c i : Nat} {grp : Group} {op : LongOp} (hg : s.group g = some grp)
    (h : (grp.course c).inflight[i]? = some op) : s.hasCourse g c := by
  refine ⟨grp, hg, ?_⟩
  by_contra hc
  have hr : grp.course c = Course.reset := by
    rw [Group.course, List.getD_eq_getElem?_getD, List.getElem?_eq_none (Nat.not_lt.1 hc), Option.getD_none]
  rw [hr] at h
  exact nomatch h

/-- An operation leaves those in flight with its result as they stand before its index. -/
def Course.finish (flag : Option (Fin 12)) (ops : List LongOp) (x : Course) : Course := { x.lowerFlag flag with inflight := ops }

/-- A state in which one result w of the operation i of a course has been written. -/
def finished (s : State) (core g c i : Nat) (op : LongOp) (w : RegWrite) (ops : List LongOp) : State :=
  (applyReg (s.updCourse g c fun x => { x with inflight := x.inflight.set i { op with writes := [w] } }) core g c w).updCourse g c
    (Course.finish op.flag ((landBefore i [w] (ops.set i { op with writes := [w] })).eraseIdx i))

theorem finishLong_one {s : State} {g c i : Nat} {grp : Group} {op : LongOp} (hg : s.group g = some grp)
    (hi : (grp.course c).inflight[i]? = some op) (w : RegWrite) :
    finishLong (s.updCourse g c fun x => { x with inflight := x.inflight.set i { op with writes := [w] } }) g c i
      = finished s (grp.core.getD 0) g c i op w (grp.course c).inflight := by
  obtain ⟨grp', hg', hc⟩ := hasCourse_of_inflight hg hi
  obtain rfl := Option.some.inj (hg.symm.trans hg')
  have hlt : i < (grp.course c).inflight.length := (List.getElem?_eq_some_iff.1 hi).1
  have hcrs : (grp.updCourse c fun x => { x with inflight := x.inflight.set i { op with writes := [w] } }).course c
      = { grp.course c with inflight := (grp.course c).inflight.set i { op with writes := [w] } } :=
    course_updCourse_same _ _ _ hc
  simp only [finishLong, group_updCourse_of hg, hcrs, List.getElem?_set_self hlt]
  rfl

/-- The step of an operation with one result that does not wait: the result is written as it stands, or as the places of a
late load hold it now. -/
theorem stepLong_one {s : State} {g c i : Nat} {grp : Group} {op : LongOp} {w : RegWrite} (hg : s.group g = some grp)
    (hi : (grp.course c).inflight[i]? = some op) (hw : op.writes = [w]) (hn : op.waits s = false) (hb : op.batch 0 w = 0) :
    ∃ now t, Loaded { s with free := s.free + 2 } t
      ∧ stepLong s g c i = finished t (grp.core.getD 0) g c i op (w.perform t g c now) (grp.course c).inflight := by
  obtain ⟨now, hnow⟩ : ∃ now, now = decide (s.takeFree.2.takeFree.1 % 2 = 1) := ⟨_, rfl⟩
  obtain ⟨t, ht⟩ : ∃ t, t = w.refill { s with free := s.free + 2 } (grp.core.getD 0) now := ⟨_, rfl⟩
  have hl : Loaded { s with free := s.free + 2 } t := ht ▸ .refill ..
  have htg : t.group g = some grp := (hl.group g).trans hg
  refine ⟨now, t, hl, ?_⟩
  rw [← finishLong_one htg hi]
  unfold stepLong
  simp only [hg, hi, hn, hw]
  simp [hb]
  rw [ht, hnow]
  rfl


/-! ### A register after its result is written -/

theorem getV_written {s : State} {g c n r : Nat} (h : s.hasCourse g c) (hn : n < 32) (hr : r < 256) (v : PWord) :
    ((s.updLane g c n fun l => l.setV r v).lane g c n).getV r = v := by
  rw [lane_updLane_here h hn, getV_setV_same _ _ _ hr]

theorem getV_unwritten (s : State) (g c n r : Nat) (v : PWord) {m q : Nat} (h : (m, q) ≠ (n, r)) :
    ((s.updLane g c n fun l => l.setV r v).lane g c m).getV q = (s.lane g c m).getV q := by
  by_cases hm : m = n
  · subst hm
    have hq : q ≠ r := fun e => h (by rw [e])
    exact lane_updLane_keep s g c m g c m (Lane.getV · q) fun l => getV_setV_other l r q v hq
  · rw [lane_updLane_else _ _ _ _ _ _ hm]

theorem lane_finish (flag : Option (Fin 12)) (ops : List LongOp) (x : Course) (n : Nat) :
    (x.finish flag ops).lane n = x.lane n := by
  cases flag with
  | none => rfl
  | some j => simp only [Course.finish, Course.lowerFlag, Course.setFlag, j.isLt, dite_true]; rfl

theorem getS_finish (flag : Option (Fin 12)) (ops : List LongOp) (x : Course) (i : Nat) :
    (x.finish flag ops).getS i = x.getS i := by
  cases flag with
  | none => rfl
  | some j => simp only [Course.finish, Course.lowerFlag, Course.setFlag, j.isLt, dite_true]; rfl

theorem inflight_finish (flag : Option (Fin 12)) (ops : List LongOp) (x : Course) : (x.finish flag ops).inflight = ops := rfl

theorem flag_finish (j : Fin 12) (ops : List LongOp) (x : Course) : (x.finish (some j) ops).flag j.val = x.flag j.val - 1 := by
  simp only [Course.finish, Course.lowerFlag, Course.setFlag, j.isLt, dite_true, Course.flag, Vector.getElem_set_self]

theorem finished_v (s : State) (core g c i : Nat) (op : LongOp) (n r : Nat) (v : PWord) (ops : List LongOp) :
    finished s core g c i op (.v n r v) ops
      = ((s.updCourse g c fun x => { x with inflight := x.inflight.set i { op with writes := [.v n r v] } }).updLane g c n
          fun l => l.setV r v).updCourse g c (Course.finish op.flag (ops.eraseIdx i)) := by
  rw [finished, show landBefore i [.v n r v] = id from rfl, id_eq, List.eraseIdx_set_eq]
  rfl

theorem lane_finished_v (s : State) (core g c i : Nat) (op : LongOp) (n r : Nat) (v : PWord) (ops : List LongOp) (m : Nat) :
    (finished s core g c i op (.v n r v) ops).lane g c m = ((s.updCourse g c fun x => { x with
      inflight := x.inflight.set i { op with writes := [.v n r v] } }).updLane g c n fun l => l.setV r v).lane g c m := by
  rw [finished_v, lane_updCourse_keep _ _ _ _ _ _ fun x => lane_finish ..]

/-- A V register whose result is written: it holds it, and no other V register of the course has changed. -/
theorem finished_v_lanes {s : State} {core g c i : Nat} {op : LongOp} {n r : Nat} {v : PWord} {ops : List LongOp}
    (hc : s.hasCourse g c) (hn : n < 32) (hr : r < 256) :
    ((finished s core g c i op (.v n r v) ops).lane g c n).getV r = v
      ∧ ∀ m q, (m, q) ≠ (n, r) →
        ((finished s core g c i op (.v n r v) ops).lane g c m).getV q = (s.lane g c m).getV q := by
  refine ⟨?_, fun m q h => ?_⟩
  · rw [lane_finished_v, getV_written (hasCourse_updCourse hc ..) hn hr]
  · rw [lane_finished_v, getV_unwritten _ _ _ _ _ _ h]
    exact congrArg (Lane.getV · q) (lane_updCourse_keep s g c g c m fun _ => rfl)

theorem flag_setInflight (x : Course) (ops : List LongOp) (j : Nat) : ({ x with inflight := ops } : Course).flag j = x.flag j := rfl
theorem flag_updLane (x : Course) (n : Nat) (f : Lane → Lane) (j : Nat) : (x.updLane n f).flag j = x.flag j := by
  unfold Course.updLane; split <;> rfl

theorem courseAt_finished_v {s : State} {core g c i : Nat} {op : LongOp} {n r : Nat} {v : PWord} {ops : List LongOp}
    (hc : s.hasCourse g c) : (finished s core g c i op (.v n r v) ops).courseAt g c
      = (({ s.courseAt g c with inflight := (s.courseAt g c).inflight.set i { op with writes := [.v n r v] } } : Course).updLane n
          fun l => l.setV r v).finish op.flag (ops.eraseIdx i) := by
  have h1 := hasCourse_updCourse hc g c fun x => { x with inflight := x.inflight.set i { op with writes := [.v n r v] } }
  rw [finished_v, courseAt_updCourse_same (hasCourse_updLane h1 ..), State.updLane, courseAt_updCourse_same h1,
    courseAt_updCourse_same hc]

theorem flag_finished_v {s : State} {core g c i : Nat} {op : LongOp} {n r : Nat} {v : PWord} {ops : List LongOp} {j : Fin 12}
    (hc : s.hasCourse g c) (hf : op.flag = some j) :
    ((finished s core g c i op (.v n r v) ops).courseAt g c).flag j.val = (s.courseAt g c).flag j.val - 1 := by
  rw [courseAt_finished_v hc, hf, flag_finish, flag_updLane, flag_setInflight]

theorem inflight_finished_v {s : State} {core g c i : Nat} {op : LongOp} {n r : Nat} {v : PWord} {ops : List LongOp}
    (hc : s.hasCourse g c) : ((finished s core g c i op (.v n r v) ops).courseAt g c).inflight = ops.eraseIdx i := by
  rw [courseAt_finished_v hc, inflight_finish]

theorem SameMem.finished_v (s : State) (core g c i : Nat) (op : LongOp) (n r : Nat) (v : PWord) (ops : List LongOp) :
    SameMem s (finished s core g c i op (.v n r v) ops) := by
  rw [Machine.finished_v]
  exact (SameMem.updCourse ..).trans ((SameMem.updLane ..).trans (.updCourse ..))

/-! ### A result for an S register -/

theorem eraseIdx_map_before {α : Type} (f : α → α) (l : List α) (i : Nat) (a : α) :
    (((l.set i a).zipIdx).map fun e => if e.2 < i then f e.1 else e.1).eraseIdx i = (l.take i).map f ++ l.drop (i + 1) := by
  have ht : ∀ j, (((l.set i a).zipIdx).map fun e => if e.2 < i then f e.1 else e.1)[j]?
      = ((l.set i a)[j]?).map fun b => if j < i then f b else b := fun j => by
    simp only [List.getElem?_map, List.getElem?_zipIdx, Option.map_map, Nat.zero_add]; rfl
  refine List.ext_getElem? fun j => ?_
  rw [List.getElem?_eraseIdx, List.getElem?_append, List.length_map, List.length_take, ht, ht]
  by_cases hj : j < i
  · have h1 : ¬ i = j := by omega
    rw [if_pos hj, List.getElem?_set_ne h1]
    by_cases hl : j < l.length
    · rw [if_pos (by omega), List.getElem?_map, List.getElem?_take_of_lt hj]
      simp only [if_pos hj]
    · rw [if_neg (by omega), List.getElem?_drop, List.getElem?_eq_none (by omega), List.getElem?_eq_none (by omega)]; rfl
  · have h1 : ¬ i = j + 1 := by omega
    rw [if_neg hj, if_neg (by omega), List.getElem?_set_ne h1, List.getElem?_drop]
    have h2 : ¬ j + 1 < i := by omega
    simp only [if_neg h2, Option.map_id_fun', id_eq]
    by_cases hl : i < l.length
    · rw [show i + 1 + (j - min i l.length) = j + 1 by omega]
    · rw [List.getElem?_eq_none (by omega), List.getElem?_eq_none (by omega)]

theorem finished_s (s : State) (core g c i : Nat) (op : LongOp) (r : Nat) (v : PWord) (ops : List LongOp) :
    finished s core g c i op (.s r v) ops
      = ((s.updCourse g c fun x => { x with inflight := x.inflight.set i { op with writes := [.s r v] } }).updCourse g c
          fun x => x.setS r v).updCourse g c
            (Course.finish op.flag ((ops.take i).map (LongOp.landed r) ++ ops.drop (i + 1))) := by
  have h : (landBefore i [.s r v] (ops.set i { op with writes := [.s r v] })).eraseIdx i
      = (ops.take i).map (LongOp.landed r) ++ ops.drop (i + 1) := eraseIdx_map_before (LongOp.landed r) ops i _
  rw [finished, h]
  rfl

/-- Settles O25: a line that arrives, an operation's one result, and a hold that is over. -/
theorem coreSteps : Obligations.CoreSteps := by
  unfold Obligations.CoreSteps
  refine ⟨fun s t core g line grp tgt pa hg hk hf => ⟨fun hl => ?_, fun hl => ?_⟩, fun s t core g line grp c hg hk hf hl => ?_,
    fun s g c i n r core grp op v j hg hk hn hr hi hw hflag => ?_,
    fun s g c i n r core idx grp op v ps guard hg hk hn hr hi hw => ?_,
    fun s g c i r core grp op v hg hk hr hc hi hw => ?_, fun s g c n grp hg hn hc hh => ?_⟩
  · simp only [exec_lineFill, execLineFill, hg, hk, ne_eq, not_true_eq_false, if_false, hf, hl, if_true]
  · simp only [exec_lineFill, execLineFill, hg, hk, ne_eq, not_true_eq_false, if_false, hf, hl, Bool.false_eq_true]
  · simp only [exec_lineFill, execLineFill, hg, hk, ne_eq, not_true_eq_false, if_false, hf, hl, if_true]
  · obtain ⟨now, t, hl, ht⟩ := stepLong_one hg hi hw (by simp [LongOp.waits, hw]) rfl
    have hx : exec (.longLatencyComplete g c i) s = .next (stepLong s g c (i % max 1 (grp.course c).inflight.length)) := by
      simp only [exec_longLatencyComplete, execLongLatencyComplete, hg]
    rw [ht] at hx
    have htg : t.group g = some grp := (hl.group g).trans hg
    have hc : t.hasCourse g c := hasCourse_of_inflight htg hi
    have hcs : t.courseAt g c = s.courseAt g c := by rw [courseAt_of_group htg, courseAt_of_group hg]
    have hls : ∀ m, t.lane g c m = s.lane g c m := fun m => by rw [State.lane, hcs]; rfl
    obtain ⟨h1, h2⟩ := finished_v_lanes (core := grp.core.getD 0) (i := i % max 1 (grp.course c).inflight.length) (op := op)
      (v := v) (ops := (grp.course c).inflight) hc hn hr
    refine ⟨_, hx, h1, ?_, ?_, fun m q h => (h2 m q h).trans (by rw [hls]), fun a => ?_⟩
    · exact (flag_finished_v hc hflag).trans (by rw [hcs])
    · exact (inflight_finished_v hc).trans (by rw [courseAt_of_group hg])
    · exact (SameMem.finished_v ..).mem a |>.trans (hl.same.mem a)
  · obtain ⟨now, t, hl, ht⟩ := stepLong_one hg hi hw (by simp [LongOp.waits, hw]) rfl
    have hx : exec (.longLatencyComplete g c i) s = .next (stepLong s g c (i % max 1 (grp.course c).inflight.length)) := by
      simp only [exec_longLatencyComplete, execLongLatencyComplete, hg]
    have hp : RegWrite.perform t g c now (.late n r v false idx ps guard)
        = .v n r (if now then lateWord { s with free := s.free + 2 } g c n idx ps guard else v) := by
      rw [← hl.lateWord]; rfl
    rw [ht, hp] at hx
    have htg : t.group g = some grp := (hl.group g).trans hg
    have hc : t.hasCourse g c := hasCourse_of_inflight htg hi
    have hls : ∀ m, t.lane g c m = s.lane g c m := fun m => by rw [lane_of_group htg, lane_of_group hg]
    obtain ⟨h1, h2⟩ := finished_v_lanes (core := grp.core.getD 0) (i := i % max 1 (grp.course c).inflight.length) (op := op)
      (v := if now then lateWord { s with free := s.free + 2 } g c n idx ps guard else v) (ops := (grp.course c).inflight) hc hn hr
    refine ⟨_, hx, ?_, fun m q h => (h2 m q h).trans (by rw [hls]), fun a => (SameMem.finished_v ..).mem a |>.trans (hl.same.mem a)⟩
    rw [h1]
    cases now with
    | false => exact .inl rfl
    | true => exact .inr rfl
  · obtain ⟨now, t, hl, ht⟩ := stepLong_one hg hi hw (by simp [LongOp.waits, hw]) rfl
    have hx : exec (.longLatencyComplete g c i) s = .next (stepLong s g c (i % max 1 (grp.course c).inflight.length)) := by
      simp only [exec_longLatencyComplete, execLongLatencyComplete, hg]
    rw [ht, show RegWrite.perform t g c now (.s r v) = .s r v from rfl, finished_s] at hx
    have hct : t.hasCourse g c := ⟨grp, (hl.group g).trans hg, hc⟩
    have h1 := hasCourse_updCourse hct g c fun x => { x with
      inflight := x.inflight.set (i % max 1 (grp.course c).inflight.length) { op with writes := [.s r v] } }
    have h2 := hasCourse_updCourse h1 g c fun x => x.setS r v
    refine ⟨_, hx, ?_, ?_⟩
    · rw [courseAt_updCourse_same h2, getS_finish, courseAt_updCourse_same h1, getS_setS_same _ _ _ hr]
    · rw [courseAt_updCourse_same h2, inflight_finish]
  · have hcs : s.hasCourse g c := ⟨grp, hg, hc⟩
    refine ⟨s.updCourse g c fun x => x.mapLanes fun _ l => if holdOver s l.hold then { l with hold := .none } else l,
      ?_, ?_, ?_, fun m i => ?_, (SameMem.updCourse ..).mem⟩
    · simp only [exec_laneReplay, execLaneReplay, hg, hh, if_true]
    · rw [lane_mapLanes_here hcs hn, lane_of_group hg, if_pos hh]
    · exact lane_mapLanes_keep s g c g c n Lane.pc fun l => by split <;> rfl
    · exact lane_mapLanes_keep s g c g c m (Lane.getV · i) fun l => by split <;> rfl

end Sys2Proof.Machine
end

section
/-!
PROOFS. Which bytes of memory a write at its home, an atomic and a matrix result leave.
-/

namespace Sys2Proof.Machine

/-! ### Bytes that a masked write leaves -/

/-- A masked write leaves a byte of a target: it is another target's or another sector's, or its bits are not masked. -/
def SecWrite.leaves (w : SecWrite) (t : Tgt) (y : Nat) : Prop :=
  t ≠ w.tgt ∨ y / 32 ≠ w.sector ∨ w.mask.extractLsb' (8 * (y % 32)) 8 = 0#8

theorem byte_apply_leaves {m : Memory} {w : SecWrite} {t : Tgt} {y : Nat} (h : m.wf = true) (ht : t = w.tgt) (hl : w.leaves t y) :
    (m.apply w).byte y = m.byte y := by
  rw [byte_apply m w y h]
  obtain hl | hl | hl := hl
  · exact absurd ht hl
  · rw [if_neg hl]
  · rw [hl, BitVec.and_zero, BitVec.or_zero, BitVec.not_zero, BitVec.and_allOnes, ite_self]

/-- A byte under the writes of a port depends on that byte alone. -/
theorem byte_under_congr {m m' : Memory} {y : Nat} (ws : List SecWrite) (h : m.wf = true) (h' : m'.wf = true)
    (hb : m.byte y = m'.byte y) : (m.under ws).byte y = (m'.under ws).byte y := by
  unfold Memory.under
  induction ws generalizing m m' with
  | nil => exact hb
  | cons w ws ih =>
    refine ih (wf_apply _ _ h) (wf_apply _ _ h') ?_
    rw [byte_apply _ _ _ h, byte_apply _ _ _ h', hb]

theorem byte_under_leaves {m : Memory} {t : Tgt} {y : Nat} {ws : List SecWrite} (h : m.wf = true)
    (hl : ∀ w ∈ ws, t = w.tgt ∧ w.leaves t y) : (m.under ws).byte y = m.byte y := by
  unfold Memory.under
  induction ws generalizing m with
  | nil => rfl
  | cons w ws ih =>
    obtain ⟨ht, hw⟩ := hl w List.mem_cons_self
    exact (ih (wf_apply _ _ h) fun v hv => hl v (List.mem_cons_of_mem _ hv)).trans (byte_apply_leaves h ht hw)

/-- More writes in a port, each of which leaves the byte. -/
theorem byte_under_append {m : Memory} {t : Tgt} {y : Nat} (ws vs : List SecWrite) (h : m.wf = true)
    (hl : ∀ w ∈ vs, w.leaves t y) :
    (m.under ((ws ++ vs).filter (·.tgt == t))).byte y = (m.under (ws.filter (·.tgt == t))).byte y := by
  rw [List.filter_append, Memory.under, List.foldl_append]
  refine byte_under_leaves (t := t) (wf_under h _) fun w hw => ?_
  obtain ⟨hm, ht⟩ := List.mem_filter.1 hw
  exact ⟨(eq_of_beq ht).symm, hl w hm⟩

/-! ### Bytes that a write at its home leaves -/

/-- The memories are the same but for writes that have joined a port, each w. -/
structure Queued (s t : State) (w : SecWrite) : Prop where
  hbm : t.hbm = s.hbm
  host : t.host = s.host
  peers : t.peers = s.peers
  cores : t.cores = s.cores
  boot : t.boot = s.boot
  writes : ∀ k, ∃ vs, (t.port k).writes = (s.port k).writes ++ vs ∧ ∀ v ∈ vs, v = w

theorem Queued.byte {s t : State} {w : SecWrite} (h : Queued s t w) (ok : s.MemoryOk) {m : Tgt} {y : Nat} (hl : w.leaves m y) :
    (t.mem m).byte y = (s.mem m).byte y := by
  have hp : hostPort t = hostPort s := by simp only [hostPort, h.boot]
  cases m with
  | hbm => simp only [State.mem, h.hbm]
  | scratch c => simp only [State.mem, State.core, h.cores]
  | host =>
    obtain ⟨vs, hv, hw⟩ := h.writes (hostPort s)
    simp only [State.mem, h.host, hp, hv]
    exact byte_under_append _ _ ok.host fun v hm => hw v hm ▸ hl
  | peer p =>
    obtain ⟨vs, hv, hw⟩ := h.writes p
    simp only [State.mem, h.peers, hv]
    exact byte_under_append _ _ (MemoryOk.far ok (.peer p)) fun v hm => hw v hm ▸ hl

theorem Queued.of_updPort (s : State) (k : Nat) {f : Port → Port} {w : SecWrite}
    (hf : ∀ p : Port, (f p).writes = p.writes ++ [w]) : Queued s (s.updPort k f) w := by
  have h := updPort_rest s k f
  refine ⟨(congrArg State.hbm h :), (congrArg State.host h :), (congrArg State.peers h :), (congrArg State.cores h :),
    (congrArg State.boot h :), fun j => ?_⟩
  rw [port_updPort]
  split
  · exact ⟨[w], hf _, fun v hv => List.mem_singleton.1 hv⟩
  · exact ⟨[], (List.append_nil _).symm, fun v hv => nomatch hv⟩

theorem Queued.of_sendFlit (s : State) (k kind : Nat) (po : BitVec 8) (w : SecWrite) (posted : Bool) :
    Queued s (sendFlit s k kind po [w] posted) w := by
  refine .of_updPort s k fun p => ?_
  rw [writes_send, Port.writes, Port.writes, ← List.append_assoc, List.flatMap_append]
  rfl

theorem Queued.of_waiting (s : State) (k : Nat) (f : Flit) (w : SecWrite) (hf : f.writes = [w]) :
    Queued s (s.updPort k fun p => { p with waiting := p.waiting ++ [f] }) w := by
  refine .of_updPort s k fun p => ?_
  rw [Port.writes, Port.writes, ← List.append_assoc, List.flatMap_append, List.flatMap_singleton, hf]

theorem SameMem.updPort (s : State) (k : Nat) {f : Port → Port} (hf : ∀ p : Port, (f p).writes = p.writes) :
    SameMem s (s.updPort k f) := by
  have h := updPort_rest s k f
  refine ⟨(congrArg State.hbm h :), (congrArg State.host h :), (congrArg State.peers h :), fun c => ?_, fun j => ?_,
    (congrArg Booted.pcie (congrArg State.boot h :) :)⟩
  · rw [State.core, (congrArg State.cores h :)]; rfl
  · rw [port_updPort]; split
    · exact hf _
    · rfl

theorem SameMem.linkEvent (s : State) (k : Nat) (lost : Bool) : SameMem s (linkEvent s k lost) := by
  unfold Machine.linkEvent
  split
  · exact .refl s
  · split
    · exact .refl s
    · exact (SameMem.updPart ..).trans (.post ..)

theorem SameMem.addLost (s : State) (k n : Nat) : SameMem s (addLost s k n) := by
  unfold Machine.addLost
  dsimp only
  split
  · exact .refl s
  · refine SameMem.trans ?_ (.linkEvent ..)
    exact .updPort s k fun _ => rfl

theorem SameMem.noteWaits (s : State) (w : SecWrite) : SameMem s (s.noteWaits w) := by
  unfold State.noteWaits
  split
  · exact .of_eq rfl rfl rfl rfl rfl rfl
  · exact .refl s

theorem SameMem.chargePayer (s : State) (k n : Nat) : SameMem s (s.chargePayer k n) := (Reads.chargePayer s k n).sameMem

/-- A memory after another one has been set. -/
theorem mem_setMem_other (s : State) (t m : Tgt) (x : Memory) (h : m ≠ t) : (s.setMem t x).mem m = s.mem m := by
  cases t with
  | hbm => cases m <;> first | rfl | exact absurd rfl h
  | host => cases m <;> first | rfl | exact absurd rfl h
  | peer p =>
    cases m with
    | peer q =>
      have hq : q ≠ p := fun e => h (e ▸ rfl)
      simp only [State.mem, State.setMem, alGet_alSet_other _ _ _ _ hq]; rfl
    | _ => rfl
  | scratch c =>
    cases m with
    | scratch d =>
      have hd : d ≠ c := fun e => h (e ▸ rfl)
      simp only [State.mem, State.setMem, core_setCore_other _ _ _ _ hd]
    | _ => rfl

/-- A write performed on a memory of the device leaves every byte that it does not mask. -/
theorem byte_setMem_local {s : State} (ok : s.MemoryOk) {w : SecWrite} {m : Tgt} {y : Nat} (hl : w.leaves m y)
    (ht : w.tgt = .hbm ∨ ∃ c, w.tgt = .scratch c) :
    ((s.setMem w.tgt ((s.mem w.tgt).apply w)).mem m).byte y = (s.mem m).byte y := by
  by_cases hm : m = w.tgt
  · have hs : (s.setMem w.tgt ((s.mem w.tgt).apply w)).mem w.tgt = (s.mem w.tgt).apply w := by
      obtain e | ⟨c, e⟩ := ht
      · rw [e]; rfl
      · rw [e]; simp only [State.mem, State.setMem, core_setCore_same]
    rw [hm, hs]
    exact byte_apply_leaves (MemoryOk.mem ok _) rfl (hm ▸ hl)
  · rw [mem_setMem_other _ _ _ _ hm]

/-- A write that the host takes leaves every byte that it does not mask. -/
theorem byte_setMem_host {s : State} (ok : s.MemoryOk) {w : SecWrite} {m : Tgt} {y : Nat} (hl : w.leaves m y) (ht : w.tgt = .host) :
    ((s.setMem w.tgt ((s.far w.tgt).apply w)).mem m).byte y = (s.mem m).byte y := by
  by_cases hm : m = w.tgt
  · subst hm
    rw [ht] at hl ⊢
    exact byte_under_congr _ (wf_apply _ _ ok.host) ok.host (byte_apply_leaves ok.host ht.symm hl)
  · rw [mem_setMem_other _ _ _ _ hm]

theorem byte_deliverFlit_host {s : State} (ok : s.MemoryOk) {w : SecWrite} {m : Tgt} {y : Nat} (hl : w.leaves m y)
    (ht : w.tgt = .host) (po : BitVec 8) (posted : Bool) :
    ((deliverFlit s ⟨0, 0, 1, po, [w], posted⟩).mem m).byte y = (s.mem m).byte y := by
  have h := byte_setMem_host ok hl ht
  simp only [deliverFlit, List.foldl_cons, List.foldl_nil]
  split
  · rw [deliverWrite]
    split
    · rw [ht]
    · exact h
  · exact h

/-- A write at its home, posted or not, leaves every byte that it does not mask. -/
theorem byte_sendWrite {s : State} (ok : s.MemoryOk) (posted : Bool) {w : SecWrite} {m : Tgt} {y : Nat} (hl : w.leaves m y) :
    ((s.sendWrite posted w).mem m).byte y = (s.mem m).byte y := by
  have hc (n : Nat) : ((linkBytes s n).mem m).byte y = (s.mem m).byte y := by rw [linkBytes, (SameMem.chargePayer s 3 n).mem]
  have hok (n : Nat) : (linkBytes s n).MemoryOk := MemoryOk.linkBytes ok n
  cases ht : w.tgt with
  | peer k =>
    simp only [State.sendWrite, ht]
    split
    · split
      · rw [(SameMem.addLost ..).mem]
      · rfl
    · exact ((Queued.of_sendFlit ..).byte (hok _) hl).trans (hc _)
  | host =>
    simp only [State.sendWrite, ht]
    split
    · split
      · rw [(SameMem.addLost ..).mem]
      · rfl
    · split
      · exact ((Queued.of_waiting _ _ ⟨0, 0, 1, poisonBits [w], [w], posted⟩ w rfl).byte (hok _) hl).trans (hc _)
      · exact (byte_deliverFlit_host (hok _) hl ht _ posted).trans (hc _)
  | hbm =>
    have h := byte_setMem_local ok hl (.inl ht)
    simp only [State.sendWrite, ht]
    rw [((SameMem.noteWaits ..).trans (Reads.l2Access ..).sameMem).mem]
    rw [ht] at h
    exact h
  | scratch c =>
    have h := byte_setMem_local ok hl (.inr ⟨c, ht⟩)
    simp only [State.sendWrite, ht]
    rw [ht] at h
    exact h

theorem byte_applyWrites {s : State} (ok : s.MemoryOk) {ws : List SecWrite} {m : Tgt} {y : Nat} (hl : ∀ w ∈ ws, w.leaves m y) :
    ((s.applyWrites ws).mem m).byte y = (s.mem m).byte y := by
  unfold State.applyWrites
  induction ws generalizing s with
  | nil => rfl
  | cons w ws ih =>
    refine (ih (MemoryOk.applyWrite ok w) fun v hv => hl v (List.mem_cons_of_mem _ hv)).trans ?_
    exact byte_sendWrite ok true (hl w List.mem_cons_self)

/-! ### Masks of bit ranges -/

/-- A byte outside a range of bits has none of its bits in the range's mask. -/
theorem byte_of_mask (n lo j : Nat) (h : 8 * j + 8 ≤ lo ∨ lo + n ≤ 8 * j) :
    (BitVec.ofNat 256 ((2 ^ n - 1) * 2 ^ lo)).extractLsb' (8 * j) 8 = 0#8 := by
  refine BitVec.eq_of_getLsbD_eq fun i hi => ?_
  rw [BitVec.getLsbD_extractLsb', BitVec.getLsbD_ofNat, Nat.testBit_mul_two_pow, Nat.testBit_two_pow_sub_one]
  simp only [BitVec.getLsbD_zero, hi, decide_true, Bool.true_and, Bool.and_eq_false_iff, decide_eq_false_iff_not]
  omega

/-- The writes of a value's bytes leave every other byte. -/
theorem secWrites_leave {t m : Tgt} {a n v y : Nat} {poison : Bool} (h : m ≠ t ∨ y < a ∨ a + n ≤ y) :
    ∀ w ∈ secWrites t (8 * a) (8 * n) v poison, w.leaves m y := by
  intro w hw
  unfold secWrites at hw
  dsimp only at hw
  split at hw
  · exact nomatch hw
  · obtain ⟨j, hj, rfl⟩ := List.mem_map.1 hw
    by_cases hk : y / 32 = 8 * a / 256 + j
    · by_cases hm : m = t
      · refine .inr (.inr (byte_of_mask _ _ _ ?_))
        have := h.resolve_left (not_not.2 hm)
        have hj := List.mem_range.1 hj
        omega
      · exact .inl hm
    · exact .inr (.inl hk)


/-! ### Register writes and matrix results -/

theorem SameMem.applyReg (s : State) (core g c : Nat) (w : RegWrite) : SameMem s (applyReg s core g c w) := by
  unfold Machine.applyReg
  cases w with
  | v => exact .updLane ..
  | p => exact .updLane ..
  | s => exact .updCourse ..
  | reserve n r x =>
    exact .setCore _ _ _ (by simp only [Core.setReserve]; split <;> rfl)
  | far n r x res ts =>
    cases res
    · exact .updLane ..
    · exact .setCore _ _ _ (by simp only [Core.setReserve]; split <;> rfl)
  | late n r x res idx ps guard =>
    cases res
    · exact .updLane ..
    · exact .setCore _ _ _ (by simp only [Core.setReserve]; split <;> rfl)

theorem SameMem.applyRegs (s : State) (core g c : Nat) (ws : List RegWrite) : SameMem s (applyRegs s core g c ws) :=
  .foldl _ (fun s w => .applyReg s core g c w) _ _

theorem SameMem.mmaTile (s : State) (e : MatEntry) (a b : Image) (g col : Nat) : SameMem s (mmaTile s e a b g col) := by
  unfold Machine.mmaTile
  split
  · exact .refl s
  · dsimp only
    split
    · exact (SameMem.updGroup ..).trans (.updGroup ..)
    · exact .updGroup ..

theorem SameMem.matResult (s : State) (core : Nat) {e : MatEntry} (h : e.op ≠ .zst) : SameMem s (matResult s core e) := by
  unfold Machine.matResult
  split
  · exact .refl s
  · dsimp only
    split
    · exact .updGroup ..
    · next hop _ => exact absurd hop h
    · exact .applyRegs ..
    · exact .applyRegs ..
    · exact .updGroup ..
    · split
      · split
        · exact (SameMem.mmaTile ..).trans (.mmaTile ..)
        · exact .mmaTile ..
      · exact .mmaTile ..
    · exact .refl s

/-- An atomic at a place of the device leaves every group and every byte that is not its operand's. -/
theorem atomAt_frame {s : State} (ok : s.MemoryOk) (core : Nat) (op : AtomOp) (ty : Nat) {p : Piece} (v w : Nat)
    (vp wp returns : Bool) :
    (atomAt s core op ty p v w vp wp returns).2.groups = s.groups
      ∧ ∀ m y, (m ≠ p.tgt ∨ 8 * y + 8 ≤ 256 * p.sector + p.lo ∨ 256 * p.sector + p.lo + p.nbits ≤ 8 * y) →
          ((atomAt s core op ty p v w vp wp returns).2.mem m).byte y = (s.mem m).byte y := by
  unfold atomAt
  dsimp only
  have h1 := Reads.readAt s p.tgt (32 * p.sector + p.lo / 8) (p.nbits / 8)
  generalize s.readAt p.tgt (32 * p.sector + p.lo / 8) (p.nbits / 8) = u at h1 ⊢
  generalize hw : (⟨p.tgt, p.sector, BitVec.ofNat 256 (_ % 2 ^ p.nbits * 2 ^ p.lo), bitMask p.lo p.nbits, _⟩ : SecWrite) = wr
  obtain ⟨z, hz⟩ : ∃ z, z = if op = .cas ∧ (homeSector s p.tgt p.sector).data.toNat / 2 ^ p.lo % 2 ^ p.nbits ≠ v then u
      else u.sendWrite (!returns) wr := ⟨_, rfl⟩
  rw [← hz]
  have hg : z.groups = s.groups := by
    rw [hz]
    split
    · exact h1.groups
    · exact (Writes.sendWrite ..).groups.trans h1.groups
  have hb : ∀ m y, (m ≠ p.tgt ∨ 8 * y + 8 ≤ 256 * p.sector + p.lo ∨ 256 * p.sector + p.lo + p.nbits ≤ 8 * y) →
      (z.mem m).byte y = (s.mem m).byte y := by
    intro m y h
    have hl : wr.leaves m y := by
      rw [← hw]
      by_cases hm : m = p.tgt
      · by_cases hk : y / 32 = p.sector
        · refine .inr (.inr (byte_of_mask _ _ _ ?_))
          have := h.resolve_left (not_not.2 hm)
          omega
        · exact .inr (.inl hk)
      · exact .inl hm
    rw [hz]
    split
    · rw [h1.sameMem.mem]
    · rw [byte_sendWrite (h1.memoryOk ok) _ hl, h1.sameMem.mem]
  split
  · refine ⟨hg, fun m y h => Eq.trans (congrArg (Memory.byte · y) (SameMem.mem ?_ m)) (hb m y h)⟩
    exact .setCore z core _ rfl
  · exact ⟨hg, hb⟩

/-- Settles O13: bytes that no write masks are as before. -/
theorem memoryFrames : Obligations.MemoryFrames := by
  unfold Obligations.MemoryFrames
  refine ⟨fun s w t a ok h => ?_, fun s g core c n a need source => ?_, fun s x n weak ps => ?_,
    fun s core op ty p v w vp wp returns ok _ => atomAt_frame ok core op ty v w vp wp returns, fun s core e ok => ?_⟩
  · refine byte_sendWrite ok true ?_
    by_cases ht : t = w.tgt
    · exact .inr (.inl fun hk => h ⟨ht, hk⟩)
    · exact .inl ht
  · have h := Reads.resolve s g core c n a need source
    exact ⟨h.groups, h.cores, h.sameMem.mem⟩
  · have h := Loaded.loadPieces x n weak ps s
    exact ⟨h.groups, h.agenda, h.same.mem⟩
  · refine ⟨fun hop m y => by rw [(SameMem.matResult s core hop).mem], fun im hop him m y h => ?_⟩
    unfold matResult
    split
    · rfl
    · simp only [hop, him]
      exact byte_applyWrites ok (secWrites_leave h)

end Sys2Proof.Machine
end

section
/-!
PROOFS. Loads at their places, and what their results take.
-/

namespace Sys2Proof.Machine

/-! ### Accesses that report no cause -/

theorem accessCauses_nil {s : State} {x : View} {a : Access} {poison : Bool} (h : AccessOk s x a poison) :
    accessCauses s x a poison = [] := by
  simp only [accessCauses, h.clean, h.aligned, h.inside, Bool.false_eq_true, if_true, if_false, List.append_nil]

theorem mixCheck_off {s : State} {x : View} (h : mixDebug s x = false) (strong : Bool) (ps : List Piece) :
    mixCheck s x strong ps = (true, s) := by
  rw [mixCheck, h, Bool.and_false]; rfl

theorem placed_ok {s t : State} {x : View} {n : Nat} {a : Access} {need : Need} {ps : List Piece} (ha : laneActive s x n = false)
    (hr : resolve s x.grp x.sel.core x.sel.course n a need 0 = (.ok ps, t)) (act : State → List Piece → LaneOut × State) :
    placed s x n a need act = act t ps := by
  simp only [placed, ha, Bool.false_eq_true, if_false, hr]

/-! ### A load at its places -/

theorem loadAt_plain {k : Ctl} {f : MEM} {x : View} {n : Nat} {a : Access} {t u : State} {ps : List Piece}
    {r : Nat × List (Nat × Nat × Bool)} (hw : NoWindow t x ps) (ha : laneActive t x n = false)
    (hl : loadPieces t x n ((f.order == 0 || decide (f.scope.toNat < 2)) && !crosses f ps) ps = (r, u))
    (hv : laneActive (markSectors u (u.groupPart x.grp) (x.sel.grp, x.sel.course, n) ps) x n = false) :
    loadAt k f x n a t ps =
      let v := markSectors u (u.groupPart x.grp) (x.sel.grp, x.sel.course, n) ps
      let v := if f.order = 2 then acquireAt v x.sel.core f.scope.toNat else v
      (.done (ldWrites v x k n f ps r), v) := by
  simp only [loadAt, hw.absent, List.any_nil, touchAll, List.foldl_nil, hw.missing, windowHold, ha, Bool.false_and, mixCheck_off hw.debug,
    hl, hv, Bool.not_false, Bool.and_true, Bool.false_eq_true, if_false]
  by_cases h : f.order = 2 <;> simp [h]

theorem ldWaits_false {s t : State} {x : View} {k : Ctl} {f : MEM} {n : Nat} {ps : List Piece} (ho : x.only k n)
    (hc : x.laneCause (ldShape s x f) n = none)
    (hr : resolve s x.grp x.sel.core x.sel.course n (x.memAccess f n) .read 0 = (.ok ps, t)) (hw : NoWindow s x ps) :
    ldWaits s x k f = false := by
  have hcl : x.clear (ldShape s x f) (x.active k) = x.active k := clear_eq x _ _ fun m hm => eq_of_inMask_only ho hm ▸ hc
  have ht : ldTouches s x k f = [] := by
    have hl : laneList (x.active k) = [n] := ho
    unfold ldTouches
    split
    · simp only [hcl, hl, List.flatMap_cons, List.flatMap_nil, hr, hw.absent]; rfl
    · rfl
  rw [ldWaits, ht]; rfl

/-- A load issues as a long-latency operation with the results that its places hold. -/
theorem exec_ld_one {k : Ctl} {f : MEM} {s t u : State} {x : View} {n : Nat} {ps : List Piece} {r : Nat × List (Nat × Nat × Bool)}
    (hv : s.view = some x) (ho : x.only k n) (hf : x.has [0])
    (hreach : x.reach k ((List.range (widthRegs f.width.toNat)).map (f.d.toNat + ·) ++ (baseOpd f).vregs
      ++ (if f.ixen = 1 then [f.index.toNat] else [])))
    (hok : AccessOk s x (x.memAccess f n) (x.addrPoison f true n)) (hs : laneActive s x n = false) (ht : laneActive t x n = false)
    (hr : resolve s x.grp x.sel.core x.sel.course n (x.memAccess f n) .read 0 = (.ok ps, t)) (hwt : NoWindow t x ps)
    (hws : NoWindow s x ps)
    (hl : loadPieces t x n ((f.order == 0 || decide (f.scope.toNat < 2)) && !crosses f ps) ps = (r, u))
    (ha : laneActive (markSectors u (u.groupPart x.grp) (x.sel.grp, x.sel.course, n) ps) x n = false) :
    exec (.ld k f) s =
      let v := markSectors u (u.groupPart x.grp) (x.sel.grp, x.sel.course, n) ps
      let v := if f.order = 2 then acquireAt v x.sel.core f.scope.toNat else v
      .next (afterIssue x (startLong v x.sel.grp x.sel.course ⟨setfFlag k.setf, x.active k, ldWrites v x k n f ps r, []⟩)) := by
  have hc : x.laneCause (ldShape s x f) n = none :=
    laneCause_none hf hreach (fun m hm => eq_of_inMask_only ho hm ▸ accessCauses_nil hok) n (laneList_only ho)
  rw [exec_ld, execLd, issue_view hv]
  refine congrArg Host.Outcome.next ?_
  rw [ldWaits_false ho hc hr hws]
  refine (finishLanes_only true _ _ _ ho rfl hc ((placed_ok hs hr _).trans (loadAt_plain hwt ht hl ha))).trans ?_
  simp only [deliver, if_true, if_neg (active_ne_zero ho)]
  rfl

/-! ### The results of a load -/

theorem over_nil (w : RegWrite) : w.over [] = w := rfl

/-- The writes of a register to which a load delivers. -/
theorem perform_asLate (s : State) (x : View) (n r : Nat) (w : PWord) (g c idx : Nat) (ps : List Piece) (guard : Bool) :
    ((x.putV n r w).asLate ps guard idx).perform s g c false = x.putV n r w
      ∧ ((x.putV n r w).asLate ps guard idx).perform s g c true = x.putV n r (lateWord s g c n idx ps guard) := by
  unfold View.putV
  split <;> exact ⟨rfl, rfl⟩

theorem perform_over (s : State) (x : View) (n r : Nat) (w : PWord) (g c : Nat) (ps : List Piece) (now : Bool) :
    ((x.putV n r w).over ps).perform s g c now = (x.putV n r w).over ps := by
  by_cases hr : x.reserved n r = true
  · simp only [View.putV, if_pos hr, RegWrite.over]
    split <;> rfl
  · simp only [View.putV, if_neg hr, RegWrite.over]
    split <;> rfl

/-- A sector as a load reads it at its home: under the lane's stores in the FIFO and its group's held ones. -/
def homeView (s : State) (x : View) (n : Nat) (t : Tgt) (k : Nat) : SecView :=
  let g := (s.group x.sel.grp).getD x.grp
  fifoOver (g.course x.sel.course) n t k (if g.holds then heldOver g t k (homeSector s t k) else homeSector s t k)

theorem Loaded.homeView {s t : State} (h : Loaded s t) (x : View) (n : Nat) (a : Tgt) (k : Nat) :
    homeView t x n a k = homeView s x n a k := by
  simp only [Machine.homeView, h.group, homeSector, h.same.mem]

theorem loadSector_home (s : State) (x : View) (n : Nat) (t : Tgt) (k : Nat) : (loadSector s x n false t k).1 = homeView s x n t k := by
  unfold loadSector
  dsimp only
  split
  · rfl
  · split <;> rfl

theorem loadPieces_home (x : View) (n : Nat) (ps : List Piece) : ∀ s : State,
    (loadPieces s x n false ps).1 = ((ps.map fun p => p.read (homeView s x n p.tgt p.sector).data).sum,
      ps.map fun p => (p.off, p.nbits, (homeView s x n p.tgt p.sector).poison)) := by
  induction ps with
  | nil => exact fun s => rfl
  | cons p ps ih =>
    intro s
    have h1 := Loaded.readFar s p
    have h2 := h1.trans (Loaded.loadSector (readFar s p) x n false p.tgt p.sector)
    simp only [loadPieces, loadSector_home, ih, h1.homeView, h2.homeView, List.map_cons, List.sum_cons]

/-- Settles O10: the load's places, what each register takes, and what a load at the homes reads. -/
theorem loads : Obligations.Loads := by
  unfold Obligations.Loads
  refine ⟨fun k f s t u x n ps r hv ho hf hreach hok hs ht hr hwt hws hl => ?_, fun s x k n f ps r i hi => ?_,
    fun s x n ps => loadPieces_home x n ps s⟩
  · intro v ha
    exact exec_ld_one hv ho hf hreach hok hs ht hr hwt hws hl ha
  · intro w
    have hg : (loadResult x k n f.d.toNat (widthRegs f.width.toNat) r.1 r.2)[i]? = some (x.putV n (f.d.toNat + i) w) := by
      rw [loadResult, List.getElem?_map, List.getElem?_range hi]; rfl
    by_cases h : lateLoad s x n f ps = true
    · have hp := perform_asLate s x n (f.d.toNat + i) w x.sel.grp x.sel.course i ps ((x.crs.lane n).guardP k)
      refine ⟨_, ?_, hp.1.trans ?_, fun _ => hp.2⟩
      · rw [ldWrites]
        simp only [h, if_true, List.getElem?_map, List.getElem?_zipIdx, hg, Option.map_some, Nat.zero_add]
      · rw [h]; rfl
    · refine ⟨_, ?_, (perform_over s x n (f.d.toNat + i) w x.sel.grp x.sel.course ps false).trans ?_, fun e => absurd e h⟩
      · rw [ldWrites]
        simp only [h, Bool.false_eq_true, if_false, List.getElem?_map, hg, Option.map_some]
      · rw [if_neg h]

end Sys2Proof.Machine
end

section
/-!
PROOFS. Atomics at their homes: what the drain before one keeps of every lane.
-/

namespace Sys2Proof.Machine

/-! ### The stores of an ordinary group -/

/-- Every lane is as before, and every group has its mode. -/
structure LanesKept (s t : State) : Prop where
  lanes : ∀ g c n, t.lane g c n = s.lane g c n
  modes : ∀ g, (t.group g).map (·.mode) = (s.group g).map (·.mode)

theorem LanesKept.refl (s : State) : LanesKept s s := ⟨fun _ _ _ => rfl, fun _ => rfl⟩
theorem LanesKept.trans {s t u : State} (h : LanesKept s t) (k : LanesKept t u) : LanesKept s u :=
  ⟨fun g c n => (k.lanes g c n).trans (h.lanes g c n), fun g => (k.modes g).trans (h.modes g)⟩

theorem LanesKept.of_groups {s t : State} (h : t.groups = s.groups) : LanesKept s t := by
  have hg : ∀ g, t.group g = s.group g := fun g => by simp only [State.group, h]
  exact ⟨fun g c n => by simp only [State.lane, State.courseAt, hg], fun g => by rw [hg]⟩

theorem LanesKept.updCourse (s : State) (g c : Nat) {f : Course → Course} (hf : ∀ x n, (f x).lane n = x.lane n) :
    LanesKept s (s.updCourse g c f) := by
  refine ⟨fun h d n => lane_updCourse_keep s g c h d n fun x => hf x n, fun h => ?_⟩
  by_cases e : h = g
  · subst e
    rw [State.updCourse, group_updGroup_same, Option.map_map]; rfl
  · rw [State.updCourse, group_updGroup_other _ _ _ _ e]

theorem holds_ordinary {s : State} {g : Nat} {grp : Group} (hm : (s.group g).map (·.mode) = some .ordinary)
    (hg : s.group g = some grp) : grp.holds = false := by
  rw [hg] at hm
  simp only [Group.holds, Option.some.inj hm]; rfl

theorem groups_acceptStore {s : State} {g : Nat} (hm : (s.group g).map (·.mode) = some .ordinary) (c : Nat) (e : FifoStore) :
    (acceptStore s g c e).groups = s.groups := by
  unfold acceptStore
  split
  · rfl
  · next grp hg =>
    rw [holds_ordinary hm hg]
    refine Writes.groups (Writes.foldl _ (fun t w => ?_) _ { s with payer := groupOwner s g }) |>.trans rfl
    split
    · exact .sendWrite t true w
    · next h _ => exact nomatch h
    · exact .homeWrite ..

theorem LanesKept.acceptOne {s : State} {g : Nat} (hm : (s.group g).map (·.mode) = some .ordinary) (c : Nat) :
    LanesKept s (acceptOne s g c) := by
  unfold Machine.acceptOne
  split
  · exact .refl s
  · split
    · exact .refl s
    · next rest _ =>
      have h := LanesKept.updCourse s g c (f := fun x => { x with fifo := rest }) fun _ _ => rfl
      exact h.trans (.of_groups (groups_acceptStore ((h.modes g).trans hm) c _))

theorem LanesKept.drainCourse {s : State} {g : Nat} (hm : (s.group g).map (·.mode) = some .ordinary) (c : Nat) :
    LanesKept s (drainCourse s g c) := by
  unfold Machine.drainCourse
  split
  · exact .refl s
  · next grp _ =>
    generalize (grp.course c).fifo = l
    clear * - hm
    induction l generalizing s with
    | nil => exact .refl s
    | cons e l ih =>
      have h := LanesKept.acceptOne hm c
      exact h.trans (ih ((h.modes g).trans hm))

theorem laneActive_kept {s t : State} (h : LanesKept s t) {x : View} (hg : (s.group x.sel.grp).isSome = true) (n : Nat) :
    laneActive t x n = laneActive s x n := by
  obtain ⟨a, ha⟩ := Option.isSome_iff_exists.1 hg
  have hm := h.modes x.sel.grp
  rw [ha] at hm
  obtain ⟨b, hb, -⟩ := Option.map_eq_some_iff.1 hm
  have hl := h.lanes x.sel.grp x.sel.course n
  rw [lane_of_group ha, lane_of_group hb] at hl
  simp only [laneActive, State.laneAt, ha, hb, Option.getD_some, hl]

theorem groups_atomAt (s : State) (core : Nat) (op : AtomOp) (ty : Nat) (p : Piece) (v w : Nat) (vp wp returns : Bool) :
    (atomAt s core op ty p v w vp wp returns).2.groups = s.groups := by
  unfold atomAt
  dsimp only
  have h1 := (Reads.readAt s p.tgt (32 * p.sector + p.lo / 8) (p.nbits / 8)).groups
  generalize s.readAt p.tgt (32 * p.sector + p.lo / 8) (p.nbits / 8) = u at h1 ⊢
  have h2 : ∀ (b : Prop) [Decidable b] (wr : SecWrite), (if b then u else u.sendWrite (!returns) wr).groups = s.groups :=
    fun b _ wr => by
      split
      · exact h1
      · exact (Writes.sendWrite ..).groups.trans h1
  split <;> exact h2 ..


/-! ### An atomic at its place -/

theorem LanesKept.atomDrain {s : State} {x : View} (hm : (s.group x.sel.grp).map (·.mode) = some .ordinary) (n : Nat) (f : MEM)
    (p : Piece) : LanesKept s (atomDrain s x n f p) := by
  unfold Machine.atomDrain
  split
  · exact .drainCourse hm _
  · exact .refl s

theorem groups_markSectors (s : State) (part : Nat) (who : Nat × Nat × Nat) (ps : List Piece) :
    (markSectors s part who ps).groups = s.groups := (Writes.updPart ..).groups

/-- An atomic's drain, its access and its marks leave the lane outside a transaction. -/
theorem laneActive_atomic {t : State} {x : View} {n : Nat} (hg : t.group x.sel.grp = some x.grp) (hm : x.grp.mode = .ordinary)
    (ha : laneActive t x n = false) (f : MEM) (p : Piece) (core : Nat) (op : AtomOp) (ty v w : Nat) (vp wp returns : Bool)
    (part : Nat) (who : Nat × Nat × Nat) :
    laneActive (markSectors (atomAt (atomDrain t x n f p) core op ty p v w vp wp returns).2 part who [p]) x n = false := by
  have h1 : LanesKept t (atomDrain t x n f p) := .atomDrain (by rw [hg, Option.map_some, hm]) n f p
  have h2 := h1.trans (.of_groups (groups_atomAt (atomDrain t x n f p) core op ty p v w vp wp returns))
  rw [laneActive_kept (h2.trans (.of_groups (groups_markSectors ..))) (by rw [hg]; rfl), ha]

theorem atomLane_plain {k : Ctl} {op : AtomOp} {returns : Bool} {f : MEM} {x : View} {n : Nat} {a : Access} {t : State} {p : Piece}
    (hw : NoWindow t x [p]) (ha : laneActive t x n = false) (hm : x.grp.mode = .ordinary) (hg : t.group x.sel.grp = some x.grp)
    (hp : p.tgt = .hbm ∨ p.tgt = .scratch x.sel.core) :
    atomLane k ⟨op, returns⟩ f x n a t [p] = (.done (atomDone k op returns f x n t p).1, (atomDone k op returns f x n t p).2) := by
  have hu := laneActive_atomic hg hm ha f p x.sel.core op f.width.toNat
  have hmode : ¬ (x.grp.mode = .revocable ∧ a.global = true) := fun h => by rw [hm] at h; exact nomatch h.1
  simp only [atomLane, hw.writable, ha, Bool.false_and, mixCheck_off hw.debug, if_neg hmode, hu, and_true, Bool.false_eq_true, if_false]
  obtain hp | hp := hp <;> simp only [hp, rejects, Bool.and_false, reduceCtorEq, false_and, if_false, Bool.false_eq_true,
    show (Tgt.hbm == Tgt.host) = false from rfl, show (Tgt.scratch x.sel.core == Tgt.host) = false from rfl, Bool.or_self,
    Bool.false_and] <;> rfl

theorem atomCompletes_of {mk : Ctl → MEM → Instr} {op : AtomOp} {returns : Bool}
    (hx : ∀ k f s, exec (mk k f) s = atomExec ⟨op, returns⟩ k f s) : AtomCompletes mk op returns := by
  intro k f s t x n p hv ho hf hreach hok hm hsys hs ht hr hw hp
  have hc : x.laneCause (atomShape ⟨op, returns⟩ f s x) n = none :=
    laneCause_none hf hreach (fun m hmk => eq_of_inMask_only ho hmk ▸ by
      simp only [atomShape, accessCauses_nil hok, atomMode, hm, List.append_nil]) n (laneList_only ho)
  have hg : t.group x.sel.grp = some x.grp := by
    have h := (Reads.resolve s x.grp x.sel.core x.sel.course n (x.atomAccess f n) .rw 0).groups
    rw [hr] at h
    rw [State.group, h]
    exact (view_eq hv).2.1
  rw [hx, atomExec, issue_view hv]
  refine congrArg Host.Outcome.next ?_
  rw [hsys]
  exact finishLanes_only returns _ _ _ ho rfl hc ((placed_ok hs hr _).trans (atomLane_plain hw ht hm hg hp))

/-- Settles O14: each instruction is one operation of the same kind of issue. -/
theorem atomicsComplete : Obligations.AtomicsComplete := by
  unfold Obligations.AtomicsComplete
  refine ⟨?_, ?_, ?_, ?_, ?_, ?_, ?_, ?_, ?_, ?_, ?_, ?_, ?_, ?_⟩ <;> exact atomCompletes_of fun _ _ _ => rfl

end Sys2Proof.Machine
end

section
/-!
PROOFS. Stores: their places, the log of an ACTIVE transaction, and the FIFO.
-/

namespace Sys2Proof.Machine

/-! ### A store of one lane -/

theorem mixDebug_congr {s t : State} (h1 : t.ctxs = s.ctxs) (h2 : t.launches = s.launches) (x : View) :
    mixDebug t x = mixDebug s x := by
  simp only [mixDebug, groupMixDebug, State.groupCtx, State.launch, h1, h2]

/-- The context of a group watches its accesses as before once the sectors are marked and the store is in the FIFO. -/
theorem mixDebug_pushStore (s : State) (x : View) (part : Nat) (who : Nat × Nat × Nat) (ps : List Piece) (g c n : Nat)
    (ws : List SecWrite) : mixDebug (pushStore (markSectors s part who ps) g c n ws) x = mixDebug s x := by
  refine mixDebug_congr ?_ ?_ x
  · simp [pushStore, markSectors]
  · simp [pushStore, markSectors]

theorem SameMem.markSectors (s : State) (part : Nat) (who : Nat × Nat × Nat) (ps : List Piece) :
    SameMem s (markSectors s part who ps) := .updPart ..

theorem SameMem.pushStore (s : State) (g c n : Nat) (ws : List SecWrite) : SameMem s (pushStore s g c n ws) :=
  (SameMem.updCourse ..).trans (.post ..)

theorem SameMem.afterIssue (x : View) (s : State) : SameMem s (afterIssue x s) := (SameMem.advance ..).trans (.deselect _)

theorem stShape_clear {s : State} {x : View} {k : Ctl} {f : MEM} {n : Nat} (ho : x.only k n) (hf : x.has [0])
    (hreach : x.reach k ((List.range (widthRegs f.width.toNat)).map (f.d.toNat + ·) ++ (baseOpd f).vregs
      ++ (if f.ixen = 1 then [f.index.toNat] else [])))
    (hok : AccessOk s x (x.memAccess f n) (x.addrPoison f true n))
    (hm : x.grp.mode = .revocable → outsideOwn x (x.memAccess f n) = false) : x.laneCause (stShape s x f) n = none := by
  have hmode : modeCause x (x.memAccess f n) = [] := if_neg fun h => by
    have := hm h.1
    rw [h.2] at this
    exact nomatch this
  exact laneCause_none hf hreach (fun m hmk => eq_of_inMask_only ho hmk ▸ by
    simp only [stShape, accessCauses_nil hok, hmode, List.append_nil]) n (laneList_only ho)

theorem storeAt_plain {k : Ctl} {f : MEM} {x : View} {n : Nat} {a : Access} {t : State} {ps : List Piece} (hw : NoWindow t x ps)
    (ha : laneActive t x n = false)
    (hp : ∀ w ∈ ps.map (fun p => p.write (storeData x k f n).1 (piecePoison (storeData x k f n).2 p)),
      (w.tgt = .host ∨ ∃ p, w.tgt = .peer p) → w.poison = false) :
    storeAt k f x n a t ps = (.done [], pushStore (markSectors t (t.groupPart x.grp) (x.sel.grp, x.sel.course, n) ps)
      x.sel.grp x.sel.course n (ps.map (fun p => p.write (storeData x k f n).1 (piecePoison (storeData x k f n).2 p)))) := by
  have hany : ((ps.map (fun p => p.write (storeData x k f n).1 (piecePoison (storeData x k f n).2 p))).any fun w =>
      w.poison && (w.tgt == .host || match w.tgt with | .peer _ => true | _ => false)) = false := by
    refine List.any_eq_false.2 fun w hm h => ?_
    rw [Bool.and_eq_true, Bool.or_eq_true] at h
    have hout : w.tgt = .host ∨ ∃ p, w.tgt = .peer p := by
      cases ht : w.tgt with
      | host => exact .inl rfl
      | peer p => exact .inr ⟨p, rfl⟩
      | hbm => rw [ht] at h; exact absurd h.2 (by decide)
      | scratch c => rw [ht] at h; exact absurd h.2 (by simp)
    rw [hp w hm hout] at h
    exact nomatch h.1
  simp only [storeAt, hw.writable, ha, Bool.false_and, mixCheck_off hw.debug, mixDebug_pushStore, hw.debug, Bool.and_false,
    Bool.false_eq_true, if_false]
  exact if_neg (by rw [Bool.not_eq_true]; exact hany)

/-- A store of a lane in an ACTIVE transaction joins its write log. -/
theorem storeAt_logged {k : Ctl} {f : MEM} {x : View} {n : Nat} {a : Access} {t : State} {ps : List Piece} {u : Tx}
    (hw : NoWindow t x ps) (ha : laneActive t x n = true) (hg : a.global = true)
    (hu : txAccess t x n ps false true
      ((ps.map (fun p => p.write (storeData x k f n).1 (piecePoison (storeData x k f n).2 p))).any (·.poison)) = .ok u) :
    storeAt k f x n a t ps = (.done [], setTx t x n
      ((ps.map (fun p => p.write (storeData x k f n).1 (piecePoison (storeData x k f n).2 p))).foldl Tx.logWrite u)) := by
  simp only [storeAt, hw.writable, ha, hg, Bool.and_self, Bool.false_eq_true, if_false, if_true, hu]

theorem placed_active {s t : State} {x : View} {n : Nat} {a : Access} {need : Need} {ps : List Piece} (ha : laneActive s x n = true)
    (hr : resolve s x.grp x.sel.core x.sel.course n a need 3 = (.ok ps, t)) (act : State → List Piece → LaneOut × State) :
    placed s x n a need act = act t ps := by
  simp only [placed, ha, if_true, hr]

/-- A store outside a SYSTEM-scope release that waits. -/
theorem exec_st_done {k : Ctl} {f : MEM} {s t : State} {x : View} {n : Nat} (hv : s.view = some x) (ho : x.only k n)
    (hsys : systemWait s x k f [0] = none) (hc : x.laneCause (stShape s x f) n = none)
    (hb : placed s x n (x.memAccess f n) .write (storeAt k f x n (x.memAccess f n)) = (.done [], t)) :
    exec (.st k f) s = .next (afterIssue x t) := by
  rw [exec_st, execSt, issue_view hv]
  refine congrArg Host.Outcome.next ?_
  rw [hsys]
  exact finishLanes_done ho rfl hc hb

/-- No release at SYSTEM scope waits for a lane in an ACTIVE transaction. -/
theorem systemWait_active {s : State} {x : View} {k : Ctl} {n : Nat} (ho : x.only k n) (ha : laneActive s x n = true) (f : MEM)
    (feats : List Nat) : systemWait s x k f feats = none := by
  have hl : laneList (x.active k) = [n] := ho
  have hr : systemRelease s x k f feats = false := by
    simp only [systemRelease, hl, List.any_cons, List.any_nil, ha, Bool.not_true, Bool.or_self, Bool.and_false]
  rw [systemWait, hr]; rfl

theorem systemRelease_true {s : State} {x : View} {k : Ctl} {f : MEM} {n : Nat} (hf : x.has [0]) (ho : f.order = 3 ∨ f.order = 4)
    (hs : f.scope = 4) (hn : inMask (x.active k) n = true) (ha : laneActive s x n = false) : systemRelease s x k f [0] = true := by
  have hl : x.lacking [0] = none := by
    simp only [View.lacking, List.find?_eq_none]
    intro b hb
    simp [hf b hb]
  have h1 : (f.order == 3 || f.order == 4) = true := by
    obtain h | h := ho <;> rw [h] <;> rfl
  have h2 : ((laneList (x.active k)).any fun m => !laneActive s x m) = true :=
    List.any_eq_true.2 ⟨n, (mem_laneList _ _).2 hn, by rw [ha]; rfl⟩
  rw [systemRelease, hl, h1, h2, hs]; rfl

/-! ### A write to a port in TRAINING -/

theorem hostPort_lt (s : State) : hostPort s < 12 := by
  unfold hostPort
  cases h : (List.range 12).find? fun k => s.boot.pcie.getLsbD k with
  | none => decide
  | some k => exact List.mem_range.1 (List.mem_of_find?_eq_some h)

theorem port_chargePayer (s : State) (k n j : Nat) : (s.chargePayer k n).port j = s.port j := by
  unfold State.chargePayer; split <;> rfl

theorem applyWrite_trains {s : State} {w : SecWrite} (ht : linkTrains s w.tgt = true) (hc : linkCarries s w.tgt = true)
    (hp : ∀ p, w.tgt = .peer p → p < 12) :
    let k := match w.tgt with
      | .peer p => p
      | _ => hostPort s
    ((s.applyWrite w).port k).waiting = (s.port k).waiting ++ [⟨0, 0, 1, poisonBits [w], [w], true⟩]
      ∧ (s.applyWrite w).host = s.host ∧ (s.applyWrite w).peers = s.peers := by
  cases hw : w.tgt with
  | hbm => rw [hw] at ht; exact nomatch ht
  | scratch c => rw [hw] at ht; exact nomatch ht
  | peer p =>
    rw [hw] at ht hc
    have hst : (s.port p).state = .training := eq_of_beq ht
    simp only [State.applyWrite, State.sendWrite, hw, hc, Bool.not_true, Bool.false_eq_true, if_false, sendFlit]
    refine ⟨?_, by simp [linkBytes], by simp [linkBytes]⟩
    rw [port_updPort, if_pos ⟨rfl, hp p hw⟩, linkBytes, port_chargePayer, Port.send, if_neg (by simp [hst])]
    rfl
  | host =>
    rw [hw] at ht hc
    have hb (n : Nat) : hostPort (linkBytes s n) = hostPort s := by
      simp only [hostPort, linkBytes, chargePayer_boot]
    have htr (n : Nat) : linkTrains (linkBytes s n) .host = true := by
      rw [linkTrains, hb, linkBytes, port_chargePayer]; exact ht
    simp only [State.applyWrite, State.sendWrite, hw, hc, Bool.not_true, Bool.false_eq_true, if_false, htr, if_true, hb]
    refine ⟨?_, by simp [linkBytes], by simp [linkBytes]⟩
    rw [port_updPort, if_pos ⟨rfl, hostPort_lt s⟩, linkBytes, port_chargePayer]

/-! ### The oldest store of a course -/

theorem acceptOne_head {s : State} {g c : Nat} {grp : Group} {e : FifoStore} {rest : List FifoStore} (hg : s.group g = some grp)
    (hf : (grp.course c).fifo = e :: rest) :
    acceptOne s g c = (s.updCourse g c (fun y => { y with fifo := rest })).paid (groupOwner s g) (fun u => e.writes.foldl (fun t w =>
        match w.tgt with
        | .scratch _ => t.applyWrite w
        | _ => if grp.holds then holdEntry t g ⟨c, e.lane, w, none, e.item⟩ else homeWrite t (grp.core.getD 0) w) u) := by
  have hg' : (s.updCourse g c fun y => { y with fifo := rest }).group g = some (grp.updCourse c fun y => { y with fifo := rest }) :=
    group_updCourse_of hg c _
  have ho : groupOwner (s.updCourse g c fun y => { y with fifo := rest }) g = groupOwner s g := by
    simp only [groupOwner, hg', hg, launch_updCourse]; rfl
  have hh : (grp.updCourse c fun y => { y with fifo := rest }).holds = grp.holds := rfl
  simp only [acceptOne, hg, hf, acceptStore, hg', ho, hh]
  congr 1
  funext u
  congr 1
  funext t w
  cases w.tgt <;> cases grp.holds <;> rfl

/-- Settles O11: a store's places, its wait, and the steps by which it reaches its home. -/
theorem stores : Obligations.Stores := by
  unfold Obligations.Stores
  refine ⟨fun k f s t x n ps hv ho hf hreach hok hm hsys hs ht hr hw => ?_, fun k f s t x n ps u hv ho hf hreach hok hm hgl hs ht hr hw => ?_,
    fun k f s x hv hf hord hsc hn => ?_, fun s g c grp hg hc => ⟨fun he => ?_, fun e rest he => ?_⟩,
    fun s w ht hc hp => applyWrite_trains ht hc hp⟩
  · intro ws hp v
    refine ⟨exec_st_done hv ho hsys (stShape_clear ho hf hreach hok hm) ((placed_ok hs hr _).trans (storeAt_plain hw ht hp)), ?_⟩
    exact ((SameMem.markSectors ..).trans ((SameMem.pushStore ..).trans (.afterIssue ..))).mem
  · intro ws hu
    refine exec_st_done hv ho (systemWait_active ho hs f [0]) (stShape_clear ho hf hreach hok fun h => ?_)
      ((placed_active hs hr _).trans (storeAt_logged hw ht hgl hu))
    rw [hm] at h
    exact nomatch h
  · intro t hb
    obtain ⟨n, hn, ha⟩ := hn
    rw [exec_st, execSt, issue_view hv]
    refine congrArg Host.Outcome.next ?_
    rw [systemWait, if_pos (systemRelease_true hf hord hsc hn ha)]
    exact congrArg (fun o => Option.getD o _) (if_pos hb)
  · rw [exec_storeAcceptedAtHome, execStoreAcceptedAtHome]
    simp only [acceptOne, hg, he]
  · exact congrArg Host.Outcome.next (acceptOne_head hg he)

end Sys2Proof.Machine
end

section
/-!
PROOFS. Sectors that arrive in a window, and flushes.
-/

namespace Sys2Proof.Machine

/-! ### A whole sector after a write -/

theorem read_of_bytes (m : Memory) (n : Nat) : ∀ (a v : Nat), (∀ i, i < n → m.byte (a + i) = BitVec.ofNat 8 (v / 256 ^ i)) →
    m.read a n = v % 256 ^ n := by
  induction n with
  | zero => exact fun a v _ => (Nat.mod_one v).symm
  | succ n ih =>
    intro a v h
    have h0 : (m.byte a).toNat = v % 256 := by
      have := h 0 (by omega)
      rw [Nat.add_zero, Nat.pow_zero, Nat.div_one] at this
      rw [this, BitVec.toNat_ofNat]
    have hs : m.read (a + 1) n = v / 256 % 256 ^ n := by
      refine ih (a + 1) (v / 256) fun i hi => ?_
      rw [show a + 1 + i = a + (i + 1) by omega, h (i + 1) (by omega), Nat.pow_succ, Nat.mul_comm, Nat.div_div_eq_div_mul]
    rw [Memory.read, h0, hs, Nat.pow_succ, Nat.mul_comm (256 ^ n), Nat.mod_mul]

/-- A write of a whole sector leaves its data there. -/
theorem sector_apply {m : Memory} (w : SecWrite) (h : m.wf = true) (hw : w.mask = BitVec.allOnes 256) :
    (m.apply w).sector w.sector = w.data := by
  have hb : ∀ i, i < 32 → (m.apply w).byte (32 * w.sector + i) = BitVec.ofNat 8 (w.data.toNat / 256 ^ i) := by
    intro i hi
    have hm : (BitVec.allOnes 256).extractLsb' (8 * i) 8 = BitVec.allOnes 8 := by
      refine BitVec.eq_of_getLsbD_eq fun j hj => ?_
      rw [BitVec.getLsbD_extractLsb', BitVec.getLsbD_allOnes, BitVec.getLsbD_allOnes]
      simp only [hj, decide_true, Bool.true_and, decide_eq_true_eq]
      omega
    rw [byte_apply _ _ _ h, if_pos (by omega), show (32 * w.sector + i) % 32 = i by omega, hw, hm, ofNat_div_pow, BitVec.not_allOnes,
      BitVec.and_zero, BitVec.zero_or, BitVec.and_allOnes]
  rw [Memory.sector, read_of_bytes _ 32 _ _ hb]
  refine BitVec.eq_of_toNat_eq ?_
  have := w.data.isLt
  rw [BitVec.toNat_ofNat]
  omega

/-! ### Steps of groups alone -/

/-- From s to t only groups, the steps due and the courses selected in the cycle have changed. -/
def OnlyGroups (s t : State) : Prop := ∃ gs a c, t = { s with groups := gs, agenda := a, inCycle := c }

theorem OnlyGroups.refl (s : State) : OnlyGroups s s := ⟨_, _, _, rfl⟩

theorem OnlyGroups.trans {s t u : State} (h : OnlyGroups s t) (k : OnlyGroups t u) : OnlyGroups s u := by
  obtain ⟨_, _, _, rfl⟩ := h
  obtain ⟨a, b, c, rfl⟩ := k
  exact ⟨a, b, c, rfl⟩

theorem OnlyGroups.foldl {α : Type} {f : State → α → State} (hf : ∀ s a, OnlyGroups s (f s a)) (xs : List α) (s : State) :
    OnlyGroups s (xs.foldl f s) := by
  induction xs generalizing s with
  | nil => exact .refl s
  | cons a xs ih => exact (hf s a).trans (ih _)

theorem OnlyGroups.updGroup (s : State) (g : Nat) (f : Group → Group) : OnlyGroups s (s.updGroup g f) := by
  unfold State.updGroup
  split
  · exact ⟨_, _, _, rfl⟩
  · exact .refl s

theorem OnlyAgenda.onlyGroups {s t : State} (h : OnlyAgenda s t) : OnlyGroups s t := by
  obtain ⟨a, rfl⟩ := h
  exact ⟨_, _, _, rfl⟩

theorem OnlyGroups.sameMem {s t : State} (h : OnlyGroups s t) : SameMem s t := by
  obtain ⟨_, _, _, rfl⟩ := h
  exact .of_eq rfl rfl rfl rfl rfl rfl

theorem OnlyGroups.core {s t : State} (h : OnlyGroups s t) (c : Nat) : t.core c = s.core c := by
  obtain ⟨_, _, _, rfl⟩ := h
  rfl

theorem OnlyGroups.barrierTest (s : State) (g i : Nat) : OnlyGroups s (barrierTest s g i) := by
  unfold Machine.barrierTest
  split
  · exact .refl s
  · dsimp only
    split
    · exact (OnlyGroups.updGroup ..).trans (.updGroup ..)
    · exact .refl s

theorem OnlyGroups.endCycle (s : State) : OnlyGroups s (endCycle s) := by
  have h : OnlyGroups s (settleBarriers s) := by
    refine .foldl (fun s e => ?_) _ s
    split
    · refine .foldl (fun s i => ?_) _ s
      split
      · exact (OnlyGroups.updGroup ..).trans (.barrierTest ..)
      · exact .refl s
    · exact .refl s
  exact h.trans ⟨_, _, _, rfl⟩

theorem OnlyGroups.countSector (s : State) (g i : Nat) : OnlyGroups s (countSector s g i) := by
  unfold Machine.countSector
  dsimp only
  refine OnlyGroups.trans ?_ (.updGroup ..)
  split
  · exact .endCycle s
  · exact .refl s

/-! ### The arrival of a sector -/

theorem sectorValid_setValid (s : State) (c sec j : Nat) (hs : sec < 12288) :
    ((setValid s c sec 1 true).core c).sectorValid j = (decide (j = sec) || (s.core c).sectorValid j) := by
  have hm : (BitVec.ofNat 12288 ((2 ^ 1 - 1) * 2 ^ sec)).getLsbD j = decide (j = sec) := by
    rw [BitVec.getLsbD_ofNat, Nat.testBit_mul_two_pow, Nat.testBit_two_pow_sub_one]
    by_cases e : j = sec
    · subst e; simp [hs]
    · simp only [e, decide_false, Bool.and_eq_false_iff, decide_eq_false_iff_not]; omega
  rw [setValid, core_setCore_same]
  simp only [Core.sectorValid, if_true, BitVec.getLsbD_or, hm, Bool.or_comm]

/-- The state in which a sector of a scratchpad has arrived. -/
def sectorIn (s : State) (c sec : Nat) (data : BitVec 256) (poison : Bool) : State :=
  setValid (s.applyWrite ⟨.scratch c, sec, data, BitVec.allOnes 256, poison⟩) c sec 1 true

theorem arriveSector_in {s : State} {g : Nat} {grp : Group} {c : Nat} (hg : s.group g = some grp) (hc : grp.core = some c)
    (i k : Nat) (data : BitVec 256) (poison err : Bool) :
    OnlyGroups (sectorIn s c (grp.winFirst (grp.window i) + k) data poison) (arriveSector s g i k data poison err) := by
  unfold arriveSector
  simp only [hg, hc]
  refine OnlyGroups.trans ?_ (OnlyAgenda.onlyGroups ((OnlyAgenda.wakeAll _).trans ⟨_, rfl⟩))
  have h1 := OnlyGroups.updGroup (sectorIn s c (grp.winFirst (grp.window i) + k) data poison) g fun x => { x with
    windows := x.windows.modify i fun w => { w with pend := w.pend.filter (fun e => e.1 != k), err := w.err || err } }
  split
  · exact h1.trans (.countSector ..)
  · exact h1

theorem SameMem.setValid (s : State) (c k n : Nat) (v : Bool) : SameMem s (setValid s c k n v) := .setCore _ _ _ rfl

/-- The scratchpad with the sector that has arrived. -/
theorem mem_sectorIn (s : State) (c sec : Nat) (data : BitVec 256) (poison : Bool) :
    (sectorIn s c sec data poison).mem (.scratch c)
      = (s.mem (.scratch c)).apply ⟨.scratch c, sec, data, BitVec.allOnes 256, poison⟩ := by
  rw [sectorIn, (SameMem.setValid ..).mem]
  simp only [State.applyWrite, State.sendWrite, State.setMem, State.mem, core_setCore_same]

theorem valid_applyWrite_scratch (s : State) (c sec : Nat) (data : BitVec 256) (poison : Bool) (j : Nat) :
    ((s.applyWrite ⟨.scratch c, sec, data, BitVec.allOnes 256, poison⟩).core c).sectorValid j = (s.core c).sectorValid j := by
  simp only [State.applyWrite, State.sendWrite, State.setMem, core_setCore_same]
  rfl

theorem sector_arrives {s : State} (ok : s.MemoryOk) (c : Nat) {sec : Nat} (hs : sec < 12288) (data : BitVec 256) (poison : Bool) :
    let t := sectorIn s c sec data poison
    ((t.mem (.scratch c)).sector sec) = data ∧ ((t.mem (.scratch c)).isPoisoned sec) = poison
      ∧ (t.core c).sectorValid sec = true
      ∧ (∀ j, j ≠ sec → (t.core c).sectorValid j = (s.core c).sectorValid j)
      ∧ (∀ a y, ¬(a = .scratch c ∧ y / 32 = sec) → (t.mem a).byte y = (s.mem a).byte y) := by
  intro t
  have hwf := MemoryOk.mem ok (.scratch c)
  have hv : ∀ j, (t.core c).sectorValid j = (decide (j = sec) || (s.core c).sectorValid j) := fun j =>
    (sectorValid_setValid _ c sec j hs).trans (by rw [valid_applyWrite_scratch])
  refine ⟨?_, ?_, ?_, fun j hj => ?_, fun a y h => ?_⟩
  · rw [mem_sectorIn]
    exact sector_apply ⟨.scratch c, sec, data, BitVec.allOnes 256, poison⟩ hwf rfl
  · rw [mem_sectorIn, isPoisoned_apply, if_pos rfl]
    cases poison <;> rfl
  · rw [hv, decide_eq_true rfl, Bool.true_or]
  · rw [hv, decide_eq_false hj, Bool.false_or]
  · have hl : (⟨.scratch c, sec, data, BitVec.allOnes 256, poison⟩ : SecWrite).leaves a y := by
      by_cases ha : a = .scratch c
      · exact .inr (.inl fun hy => h ⟨ha, hy⟩)
      · exact .inl ha
    show ((sectorIn s c sec data poison).mem a).byte y = _
    rw [sectorIn, (SameMem.setValid ..).mem]
    exact byte_sendWrite ok true hl


/-! ### Flushes none of whose sectors waits -/

theorem filter_none_left {α : Type} {l : List (Nat × α)} {ks : List Nat} (h : ∀ e ∈ l, e.1 ∈ ks) :
    l.filter (fun e => !ks.contains e.1) = [] := by
  refine List.filter_eq_nil_iff.2 fun e he => ?_
  rw [List.contains_iff_mem.2 (h e he)]
  exact Bool.false_ne_true

section
variable {s t : State} {g win og oc tok : Nat} {grp : Group} {r : Flushing}

/-- A flush whose sectors are all ready writes them and is complete. -/
theorem flushStep_written (hg : s.group g = some grp) (hs : (grp.window win).state = .flushing)
    (ho : (grp.window win).owner = some (og, oc, tok)) (hr : r.pend = []) (hm : ∀ b o, grp.mode ≠ .redundant b o)
    (hw : ∀ e ∈ (grp.window win).pend, flushWaits s e = false)
    (hf : flushSectors grp (grp.window win) ((grp.window win).pend.map (·.1)).eraseDups s = (r, t)) :
    flushStep s g win = endFlush (((r.writes.foldr insertFlush []).foldl (flushWrite g oc (grp.window win).lane) t).updWindow g win
      (fun w => { w with pend := [], waits := w.waits ++ r.waits, err := w.err || r.err })) g win og oc tok := by
  have hready : (grp.window win).pend.filter (fun e => !flushWaits s e) = (grp.window win).pend :=
    List.filter_eq_self.2 fun e he => by rw [hw e he]; rfl
  have hstill : (grp.window win).pend.filter (fun e => !((grp.window win).pend.map (·.1)).eraseDups.contains e.1) = [] :=
    filter_none_left fun e he => List.mem_eraseDups.2 (List.mem_map_of_mem he)
  cases hmode : grp.mode with
  | redundant b o => exact absurd hmode (hm b o)
  | _ =>
    simp only [flushStep, hg, hs, ho, hmode, hready, hstill, hf, hr, List.append_nil, List.isEmpty_nil, Bool.false_eq_true, if_false,
      Bool.not_false, if_true]

/-- The flush of a redundant copy is written into its stores whole. -/
theorem flushStep_held (hg : s.group g = some grp) (hs : (grp.window win).state = .flushing)
    (ho : (grp.window win).owner = some (og, oc, tok)) (hr : r.pend = []) (hm : ∃ b o, grp.mode = .redundant b o)
    (hk : ∀ e ∈ (grp.window win).pend, e.1 < (grp.window win).sectors)
    (hf : flushSectors grp (grp.window win) (List.range (grp.window win).sectors) s = (r, t)) :
    flushStep s g win = endFlush ((holdFlush t g win oc (grp.window win).lane tok (r.writes.foldr insertFlush [])).updWindow g win
      (fun w => { w with pend := [], waits := w.waits ++ r.waits, err := w.err || r.err })) g win og oc tok := by
  have hstill : (grp.window win).pend.filter (fun e => !(List.range (grp.window win).sectors).contains e.1) = [] :=
    filter_none_left fun e he => List.mem_range.2 (hk e he)
  obtain ⟨b, o, hmode⟩ := hm
  simp only [flushStep, hg, hs, ho, hmode, hstill, hf, hr, List.append_nil, List.isEmpty_nil, if_true, Bool.not_true,
    Bool.false_eq_true, if_false]

end

/-- Settles O17: the step of a sector by what its places come to, the end of a flush, and the sector that has arrived. -/
theorem windowSteps : Obligations.WindowSteps := by
  unfold Obligations.WindowSteps
  refine ⟨⟨fun s g win k grp hg hm hp => ⟨fun hb => ?_, fun off n bit ps t hb hpl => ⟨fun ht => ?_, fun ht => ?_⟩,
    fun off n bit rs t hb hpl => ?_⟩, fun s t g win og oc tok grp r hg hs ho hr => ?_⟩,
    fun s g win k core grp data poison err ok hg hc hk => ?_⟩
  · simp only [exec_windowSectorArrival, execWindowSectorArrival, hg, hm, hp, Bool.not_false, Bool.and_self, if_true, hb]
  · have ha : (ps.any fun p => linkTrains t p.tgt) = true := List.any_eq_true.2 ht
    simp only [exec_windowSectorArrival, execWindowSectorArrival, hg, hm, hp, Bool.not_false, Bool.and_self, if_true, hb, hpl, ha]
  · have ha : (ps.any fun p => linkTrains t p.tgt) = false := List.any_eq_false.2 fun p hp => by rw [ht p hp]; exact Bool.false_ne_true
    simp only [exec_windowSectorArrival, execWindowSectorArrival, hg, hm, hp, Bool.not_false, Bool.and_self, if_true, hb, hpl, ha,
      Bool.false_eq_true, if_false]
  · simp only [exec_windowSectorFault, execWindowSectorFault, hg, hm, hp, Bool.not_false, Bool.and_self, if_true, hb, hpl]
  · intro done ws
    exact ⟨fun hmode hw hf => congrArg Host.Outcome.next (flushStep_written hg hs ho hr hmode hw hf),
      fun hmode hk hf => congrArg Host.Outcome.next (flushStep_held hg hs ho hr hmode hk hf)⟩
  · intro sec t
    have h : OnlyGroups (sectorIn s core sec data poison) t := arriveSector_in hg hc win k data poison err
    obtain ⟨h1, h2, h3, h4, h5⟩ := sector_arrives ok core hk data poison
    refine ⟨?_, ?_, ?_, fun j hj => ?_, fun a y hay => ?_⟩
    · rw [h.sameMem.mem]; exact h1
    · rw [h.sameMem.mem]; exact h2
    · rw [h.core]; exact h3
    · rw [h.core]; exact h4 j hj
    · rw [h.sameMem.mem]; exact h5 a y hay

end Sys2Proof.Machine
end

section
/-!
PROOFS. What the effects of an issue leave unchanged.
-/

namespace Sys2Proof.Machine

/-! ### Updates within the frame of the engines -/

theorem Course.eq_raiseFlag (x : Course) (f : Option (Fin 12)) :
    { x.raiseFlag f with flags := x.flags, inflight := x.inflight, engines := x.engines } = x := by
  cases f with
  | none => rfl
  | some i => simp only [Course.raiseFlag, Course.setFlag, i.isLt, dite_true]

theorem Course.eq_engineStart (x : Course) (cls token : Nat) :
    { x.engineStart cls token with flags := x.flags, inflight := x.inflight, engines := x.engines } = x := by
  unfold Course.engineStart; split <;> rfl

theorem Course.eq_engineDone (x : Course) (cls token : Nat) :
    { x.engineDone cls token with flags := x.flags, inflight := x.inflight, engines := x.engines } = x := by
  unfold Course.engineDone; split <;> rfl

theorem OnlyAgenda.onlyEngines {s t : State} (h : OnlyAgenda s t) : OnlyEngines s t := by
  obtain ⟨a, rfl⟩ := h
  exact .of_rest rfl rfl rfl

theorem OnlyEngines.setValid (s : State) (c k n : Nat) (v : Bool) : OnlyEngines s (setValid s c k n v) := .setCore _ _ _ rfl

theorem OnlyEngines.startLong (s : State) (g c : Nat) (op : LongOp) : OnlyEngines s (startLong s g c op) := by
  refine (OnlyEngines.takeFree s).trans (OnlyEngines.trans (.updCourse _ g c _ fun x => ?_) (.post ..))
  exact Course.eq_raiseFlag x op.flag

theorem OnlyEngines.unbind (s : State) (x : View) (g : Group) (i : Nat) : OnlyEngines s (unbind s x g i) := by
  unfold Machine.unbind
  dsimp only
  split
  · exact (OnlyEngines.setValid ..).trans (.updWindow ..)
  · exact .updWindow ..

theorem OnlyEngines.bindWindow (s : State) (x : View) (f : ASY) : OnlyEngines s (bindWindow s x f) :=
  (OnlyEngines.unbind s x x.grp f.win.toNat).trans
    ((OnlyEngines.updWindow ..).trans ((OnlyEngines.setValid ..).trans (OnlyAgenda.wakeAll _).onlyEngines))

theorem OnlyEngines.readAtDrop (s : State) (core g i : Nat) : OnlyEngines s (readAtDrop s core g i) := by
  unfold Machine.readAtDrop
  split
  · exact .refl s
  · dsimp only
    split
    · exact .refl s
    · exact .setCore _ _ _ rfl

theorem OnlyEngines.dropWindow (s : State) (x : View) (i : Nat) : OnlyEngines s (dropWindow s x i) := by
  unfold Machine.dropWindow
  dsimp only
  have h := (OnlyEngines.readAtDrop s x.sel.core x.sel.grp i).trans (.unbind _ x x.grp i)
  split
  · next og oc t _ =>
    exact h.trans ((OnlyEngines.updCourse _ og oc _ fun y => y.eq_engineDone 2 t).trans (OnlyAgenda.wakeAll _).onlyEngines)
  · exact h.trans (OnlyAgenda.wakeAll _).onlyEngines

theorem drainCourse_empty {s : State} {g c : Nat} (h : (s.courseAt g c).fifo = []) : drainCourse s g c = s := by
  unfold drainCourse
  split
  · rfl
  · next grp hg =>
    rw [courseAt_of_group hg] at h
    rw [h, List.foldl_nil]

/-- The context of a group, as the engines leave it. -/
theorem OnlyEngines.groupMixDebug {s t : State} (h : OnlyEngines s t) (g : Group) : groupMixDebug t g = groupMixDebug s g := by
  have h1 : t.ctxs = s.ctxs := (congrArg State.ctxs h.rest :)
  have h2 : t.launches = s.launches := (congrArg State.launches h.rest :)
  simp only [Machine.groupMixDebug, State.groupCtx, State.launch, h1, h2]

/-- No group of the number is watched, whatever the engines have done. -/
theorem OnlyEngines.unwatched {s t : State} {g : Nat} (h : OnlyEngines s t)
    (hs : ∀ grp, s.group g = some grp → Machine.groupMixDebug s grp = false) {grp : Group} (hg : t.group g = some grp) :
    Machine.groupMixDebug t grp = false := by
  have he := h.groups g
  rw [hg, Option.map_some] at he
  obtain ⟨a, ha, hb⟩ := Option.map_eq_some_iff.1 he.symm
  have hl : a.launch = grp.launch := (congrArg Group.launch hb :)
  rw [h.groupMixDebug]
  refine Eq.trans ?_ (hs a ha)
  simp only [Machine.groupMixDebug, State.groupCtx, hl]

theorem readAtTouch_unwatched {s : State} {g : Nat} (h : ∀ grp, s.group g = some grp → groupMixDebug s grp = false) (i : Nat) :
    readAtTouch s g i = s := by
  unfold readAtTouch
  split
  · rfl
  · next grp hg => rw [h grp hg]; rfl

theorem OnlyEngines.startFill {s : State} {g c : Nat} (hf : (s.courseAt g c).fifo = [])
    (hm : ∀ grp, s.group g = some grp → Machine.groupMixDebug s grp = false) (i lane : Nat) :
    OnlyEngines s (startFill s g i (g, c) lane) := by
  unfold Machine.startFill
  split
  · exact .refl s
  · dsimp only
    rw [drainCourse_empty hf]
    have h1 : OnlyEngines s (s.updCourse g c (·.fixLoads (maskOf (· == lane)))) := .updCourse _ _ _ _ fun x => rfl
    have h2 := h1.trans (.newToken _)
    have h3 := h2.trans (.updCourse _ g c (fun x => x.engineStart 2 (s.updCourse g c (·.fixLoads (maskOf (· == lane)))).newToken.1)
      fun x => x.eq_engineStart 2 _)
    have h4 := h3.trans (.updWindow _ g i fun w => { w with
      state := .filling, owner := some (g, c, (s.updCourse g c (·.fixLoads (maskOf (· == lane)))).newToken.1), lane := lane, seen := [] })
    rw [readAtTouch_unwatched fun grp hg => h4.unwatched hm hg]
    exact h4.trans (.foldl _ (fun _ _ => .post ..) _ _)

theorem OnlyEngines.startFlush {s : State} {x : View} (hf : (s.courseAt x.sel.grp x.sel.course).fifo = [])
    (hm : Machine.groupMixDebug s x.grp = false) (i lane : Nat) : OnlyEngines s (startFlush s x i lane) := by
  unfold Machine.startFlush
  dsimp only
  rw [drainCourse_empty hf]
  have h1 := (OnlyEngines.newToken s).trans (.updCourse _ x.sel.grp x.sel.course (fun c => c.engineStart 0 s.newToken.1)
    fun c => c.eq_engineStart 0 _)
  generalize State.updCourse s.newToken.2 x.sel.grp x.sel.course _ = u at h1 ⊢
  have h2 := h1.trans (OnlyEngines.trans (.updWindow u x.sel.grp i fun w => { w with
    state := .flushing, owner := some (x.sel.grp, x.sel.course, s.newToken.1), lane := lane
    pend := (List.range w.sectors).map (fun k => (k, s.newToken.1)), waits := [], lost := []
    mark := ((u.group x.sel.grp).map (fun g => g.held.length)).getD 0 }) (.post _ (.wflushComplete x.sel.grp i)))
  rw [if_neg (by rw [h2.groupMixDebug, hm]; exact Bool.false_ne_true)]
  exact h2

theorem OnlyEngines.chargeMac (s : State) (x : View) (e : MatEntry) : OnlyEngines s (chargeMac s x e) := by
  unfold Machine.chargeMac
  split
  · exact .setMeter ..
  · exact .setMeter ..
  · exact .refl s

theorem OnlyEngines.matJoin {s : State} {x : View} (hf : (s.courseAt x.sel.grp x.sel.course).fifo = []) (k : Ctl) (op : MatOp)
    (f : MAT) (ok : LaneMask) : OnlyEngines s (matJoin s x k op f ok) := by
  unfold Machine.matJoin
  dsimp only
  rw [drainCourse_empty hf, ite_self]
  generalize matEntry s.newToken.2 x k op f ok s.newToken.1 = e
  have h1 : OnlyEngines s (s.newToken.2.updCourse x.sel.grp x.sel.course fun c =>
      if (op != .zmov && op != .zrmax) = true then c.engineStart 1 s.newToken.1 else c.raiseFlag e.flag) := by
    refine (OnlyEngines.newToken s).trans (.updCourse _ _ _ _ fun c => ?_)
    split
    · exact c.eq_engineStart 1 _
    · exact c.eq_raiseFlag e.flag
  refine h1.trans ((OnlyEngines.chargeMac _ x e).trans (OnlyEngines.trans (.setCore _ _ _ ?_) (.post ..)))
  rfl


/-! ### Updates within the frame of the holds -/

/-- A change of what lanes of a group's courses wait for. -/
theorem OnlyHolds.updGroup (s : State) (g : Nat) (f : Group → Group)
    (hg : ∀ x, { f x with courses := [], barriers := [] } = { x with courses := [], barriers := [] })
    (hc : ∀ x c, { (f x).course c with lanes := (x.course c).lanes } = x.course c)
    (hl : ∀ x c n, { ((f x).course c).lane n with hold := ((x.course c).lane n).hold } = (x.course c).lane n) :
    OnlyHolds s (s.updGroup g f) := by
  have h : ∀ h d, (s.updGroup g f).courseAt h d = s.courseAt h d
      ∨ ∃ x, s.courseAt h d = x.course d ∧ (s.updGroup g f).courseAt h d = (f x).course d := by
    intro h d
    by_cases e : h = g
    · subst e
      cases hx : s.group h with
      | none =>
        left
        simp only [State.courseAt, group_updGroup_same, hx, Option.map_none]
      | some x =>
        refine .inr ⟨x, courseAt_of_group hx d, ?_⟩
        simp only [State.courseAt, group_updGroup_same, hx, Option.map_some, Option.getD_some]
    · left
      simp only [State.courseAt, group_updGroup_other _ _ _ _ e]
  refine ⟨fun k => map_updGroup s g k f _ hg, fun k d => ?_, fun k d n => ?_, updGroup_rest s g f⟩
  · obtain e | ⟨x, e1, e2⟩ := h k d
    · rw [e]
    · rw [e1, e2]; exact hc x d
  · obtain e | ⟨x, e1, e2⟩ := h k d
    · simp only [State.lane, e]
    · simp only [State.lane, e1, e2]; exact hl x d n

theorem releaseLane_hold (i : Nat) (phase : Bool) (l : Lane) : { releaseLane i phase l with hold := l.hold } = l := by
  unfold releaseLane
  split
  · split <;> rfl
  · rfl

/-- Lanes of a course that change what they wait for. -/
theorem lane_mapLanes_hold (x : Course) {f : Nat → Lane → Lane} (hf : ∀ n l, { f n l with hold := l.hold } = l) (n : Nat) :
    { (x.mapLanes f).lane n with hold := (x.lane n).hold } = x.lane n := by
  by_cases hn : n < 32
  · rw [lane_mapLanes x f n hn, hf]
  · simp [Course.lane, hn]

theorem Course.eq_mapLanes (x : Course) (f : Nat → Lane → Lane) : { x.mapLanes f with lanes := x.lanes } = x := by
  simp only [Course.mapLanes]

theorem course_map_or (x : Group) (f : Course → Course) (c : Nat) :
    ({ x with courses := x.courses.map f } : Group).course c = x.course c
      ∨ ({ x with courses := x.courses.map f } : Group).course c = f (x.course c) := by
  by_cases hc : c < x.courses.length
  · exact .inr (course_map x f hc)
  · left
    simp only [Group.course, List.getD_eq_getElem?_getD, List.getElem?_map, List.getElem?_eq_none (Nat.not_lt.1 hc), Option.map_none]

/-- Every lane of a group changes what it waits for. -/
theorem OnlyHolds.mapCourses (s : State) (g : Nat) {f : Nat → Lane → Lane} (hf : ∀ n l, { f n l with hold := l.hold } = l) :
    OnlyHolds s (s.updGroup g fun x => { x with courses := x.courses.map fun c => c.mapLanes f }) := by
  refine .updGroup s g _ (fun x => rfl) (fun x c => ?_) fun x c n => ?_
  · obtain e | e := course_map_or x (fun c => c.mapLanes f) c
    · rw [e]
    · rw [e]; exact Course.eq_mapLanes _ f
  · obtain e | e := course_map_or x (fun c => c.mapLanes f) c
    · rw [e]
    · rw [e]; exact lane_mapLanes_hold _ hf n

theorem OnlyHolds.barrierTest (s : State) (g i : Nat) : OnlyHolds s (barrierTest s g i) := by
  unfold Machine.barrierTest
  split
  · exact .refl s
  · dsimp only
    split
    · exact OnlyHolds.trans (.updBarrier s g i Barrier.nextPhase) (.mapCourses _ g fun _ l => releaseLane_hold i _ l)
    · exact .refl s

theorem OnlyHolds.updCourse (s : State) (g c : Nat) {f : Nat → Lane → Lane} (hf : ∀ n l, { f n l with hold := l.hold } = l) :
    OnlyHolds s (s.updCourse g c fun x => x.mapLanes f) := by
  refine ⟨fun h => map_updGroup s g h _ _ fun x => rfl, fun h d => ?_, fun h d n => ?_, updGroup_rest s g _⟩
  · obtain e | ⟨-, -, e⟩ := courseAt_updCourse s g c h d fun x => x.mapLanes f
    · rw [e]
    · rw [e]; exact Course.eq_mapLanes _ f
  · obtain e | ⟨-, -, e⟩ := courseAt_updCourse s g c h d fun x => x.mapLanes f
    · simp only [State.lane, e]
    · simp only [State.lane, e]; exact lane_mapLanes_hold _ hf n

theorem OnlyHolds.waitLanes (s : State) (x : View) (i : Nat) (phase : Bool) (m : LaneMask) (token : Nat → Bool) :
    OnlyHolds s (waitLanes s x i phase m token) := by
  refine .updCourse _ _ _ fun n l => ?_
  split <;> rfl

/-! ### Updates within the frame of control -/

/-- A change of lanes within the frame of control. -/
theorem OnlyControl.mapLanes (s : State) (g c : Nat) {f : Nat → Lane → Lane}
    (hf : ∀ n l, { f n l with pc := l.pc, depth := l.depth, entries := l.entries, hold := l.hold } = l) :
    OnlyControl s (s.updCourse g c fun x => x.mapLanes f) := by
  refine .updCourse s g c _ (fun x => by simp only [Course.mapLanes]) fun x n => ?_
  by_cases hn : n < 32
  · rw [lane_mapLanes x f n hn, hf]
  · simp [Course.lane, hn]

theorem Course.eq_updLane (x : Course) (n : Nat) (f : Lane → Lane) : { x.updLane n f with lanes := x.lanes, bc := x.bc } = x := by
  unfold Course.updLane; split <;> rfl

theorem OnlyControl.updLane (s : State) (g c n : Nat) {f : Lane → Lane}
    (hf : ∀ l, { f l with pc := l.pc, depth := l.depth, entries := l.entries, hold := l.hold } = l) :
    OnlyControl s (s.updLane g c n f) := by
  refine .updCourse s g c _ (fun x => x.eq_updLane n f) fun x m => ?_
  by_cases hm : m = n
  · subst hm
    by_cases hn : m < 32
    · rw [lane_updLane_same x m f hn, hf]
    · simp [Course.lane, hn]
  · rw [lane_updLane_other x n m f hm]

theorem OnlyControl.advance (s : State) (x : Sel) (m : LaneMask) : OnlyControl s (advance s x m) := by
  refine .mapLanes _ _ _ fun n l => ?_
  split <;> rfl

theorem OnlyControl.bumpIf (s : State) (g c : Nat) (m : Bool) : OnlyControl s (bumpIf s g c m) := by
  unfold Machine.bumpIf
  split
  · exact .updCourse s g c bumpBc (fun x => rfl) fun x n => rfl
  · exact .refl s

theorem OnlyControl.countFills (s : State) (g c token : Nat) : OnlyControl s (countFills s g c token) := by
  refine .mapLanes _ _ _ fun n l => ?_
  split
  · split <;> rfl
  · rfl

/-- The lane's PC, depth and entries are as before, in every lane but one. -/
def OthersStay (s t : State) (g c n : Nat) : Prop := ∀ h d m, (h, d, m) ≠ (g, c, n) →
  (t.lane h d m).pc = (s.lane h d m).pc ∧ (t.lane h d m).depth = (s.lane h d m).depth
    ∧ (t.lane h d m).entries = (s.lane h d m).entries

theorem OthersStay.updLane (s : State) (g c n : Nat) (f : Lane → Lane) : OthersStay s (s.updLane g c n f) g c n := by
  intro h d m hne
  have e : (s.updLane g c n f).lane h d m = s.lane h d m := by
    obtain e | ⟨rfl, rfl, e⟩ := courseAt_updCourse s g c h d fun x => x.updLane n f
    · simp only [State.lane, State.updLane, e]
    · have hm : m ≠ n := fun k => hne (by rw [k])
      simp only [State.lane, State.updLane, e, lane_updLane_other _ n m f hm]
  rw [e]
  exact ⟨rfl, rfl, rfl⟩

/-- What keeps every lane's PC, depth and entries after a change of one lane. -/
theorem OthersStay.then {s t u : State} {g c n : Nat} (h : OthersStay s t g c n)
    (k : ∀ {α : Type} (q : Lane → α), (∀ l w, q { l with hold := w } = q l) → ∀ a b m, q (u.lane a b m) = q (t.lane a b m)) :
    OthersStay s u g c n := by
  intro a b m hne
  obtain ⟨h1, h2, h3⟩ := h a b m hne
  exact ⟨(k Lane.pc (fun _ _ => rfl) a b m).trans h1, (k Lane.depth (fun _ _ => rfl) a b m).trans h2,
    (k Lane.entries (fun _ _ => rfl) a b m).trans h3⟩

theorem lane_countFills {α : Type} (s : State) (g c token : Nat) (q : Lane → α) (hq : ∀ l w, q { l with hold := w } = q l)
    (h d n : Nat) : q ((countFills s g c token).lane h d n) = q (s.lane h d n) := by
  refine lane_mapLanes_keep s g c h d n q fun l => ?_
  split
  · split <;> exact hq _ _
  · rfl

theorem goesTo_frame (s : State) (x : View) (n token : Nat) (a : Word) :
    OnlyControl s (goesTo s x n token a) ∧ OthersStay s (goesTo s x n token a) x.sel.grp x.sel.course n := by
  have h1 : OnlyControl s (s.updLane x.sel.grp x.sel.course n fun l => { l with pc := a }) := .updLane _ _ _ _ fun l => rfl
  have h2 := h1.trans ((OnlyControl.bumpIf _ x.sel.grp x.sel.course (decide (a ≤ x.sel.pc))).trans (.deselect _))
  have hu := OthersStay.updLane s x.sel.grp x.sel.course n fun l => { l with pc := a }
  unfold goesTo
  dsimp only
  split
  · refine ⟨h2.trans (.countFills ..), hu.then fun q hq b d m => ?_⟩
    exact (lane_countFills _ _ _ _ q hq b d m).trans (congrArg q (lane_bumpIf ..))
  · exact ⟨h2, hu.then fun q hq b d m => congrArg q (lane_bumpIf ..)⟩

/-- Settles O7: each effect is a row of updates within its frame. -/
theorem issueFrames : Obligations.IssueFrames := by
  unfold Obligations.IssueFrames
  refine ⟨fun x s => ?_, OnlyEngines.startLong, fun s x f i => ⟨.bindWindow s x f, .dropWindow s x i⟩,
    fun s x hf => ⟨fun hm hm' i lane => ⟨.startFill hf hm' i lane, .startFlush hf hm i lane⟩, fun k op f ok => .matJoin hf k op f ok,
      fun i => by rw [arriveAt, drainCourse_empty hf]⟩,
    fun s x g i f phase m token => ⟨.updBarrier s g i f, .updBarrier s g i _, .barrierTest s g i, .waitLanes s x i phase m token⟩,
    fun s x n d token a hn t ht => ?_⟩
  · refine ⟨(OnlyControl.advance s x.sel x.sel.mask).trans (.deselect _), rfl, fun g c n => ⟨?_, ?_⟩, fun g c n hne => ?_⟩
    · exact lane_mapLanes_keep s x.sel.grp x.sel.course g c n Lane.depth fun l => by split <;> rfl
    · exact lane_mapLanes_keep s x.sel.grp x.sel.course g c n Lane.hold fun l => by split <;> rfl
    · show ((advance s x.sel x.sel.mask).lane g c n).pc = _
      obtain e | ⟨rfl, rfl, e⟩ := courseAt_updCourse s x.sel.grp x.sel.course g c fun y => y.mapLanes fun n l =>
        if inMask x.sel.mask n then { l with pc := pcNext x.sel.pc } else l
      · simp only [State.lane, advance, e]
      · refine lane_mapLanes_keep s _ _ _ _ n Lane.pc fun l => ?_
        rw [if_neg fun h => hne ⟨rfl, rfl, h⟩]
  · simp only [List.mem_cons, List.not_mem_nil, or_false] at ht
    obtain rfl | rfl | rfl := ht
    · exact goesTo_frame s x n token a
    · exact ⟨.updLane _ _ _ _ fun l => rfl, OthersStay.updLane s _ _ _ _⟩
    · exact ⟨.updLane _ _ _ _ fun l => rfl, OthersStay.updLane s _ _ _ _⟩

end Sys2Proof.Machine
end

section
/-!
PROOFS. Registers after the writes of a result.
-/

namespace Sys2Proof.Machine

/-! ### What writing registers leaves unchanged -/

/-- From s to t nothing has changed but V registers, predicates, PCs, the S registers of the issuing course with the results that
land before them, and the handler reserve of the issuing core. -/
structure OnlyRegs (x : Sel) (s t : State) : Prop where
  groups : ∀ g, (t.group g).map (fun y => { y with courses := [] }) = (s.group g).map (fun y => { y with courses := [] })
  others : ∀ g c, (g, c) ≠ (x.grp, x.course) → t.courseAt g c = s.courseAt g c
  cores : ∀ c, c ≠ x.core → t.core c = s.core c
  core : { t.core x.core with reserve := (s.core x.core).reserve, reserveP := (s.core x.core).reserveP } = s.core x.core
  lanes : ∀ n, { t.lane x.grp x.course n with
      v := (s.lane x.grp x.course n).v, vP := (s.lane x.grp x.course n).vP,
      p := (s.lane x.grp x.course n).p, pP := (s.lane x.grp x.course n).pP,
      pc := (s.lane x.grp x.course n).pc } = s.lane x.grp x.course n
  course : { t.courseAt x.grp x.course with
      lanes := (s.courseAt x.grp x.course).lanes, s := (s.courseAt x.grp x.course).s,
      sP := (s.courseAt x.grp x.course).sP, inflight := (s.courseAt x.grp x.course).inflight,
      txends := (s.courseAt x.grp x.course).txends } = s.courseAt x.grp x.course
  same : SameMem s t
  rest : { t with sel := s.sel, cores := s.cores, groups := s.groups } = s

theorem OnlyRegs.refl (x : Sel) (s : State) : OnlyRegs x s s :=
  ⟨fun _ => rfl, fun _ _ _ => rfl, fun _ _ => rfl, rfl, fun _ => rfl, rfl, .refl s, rfl⟩

theorem OnlyRegs.trans {x : Sel} {s t u : State} (h : OnlyRegs x s t) (k : OnlyRegs x t u) : OnlyRegs x s u := by
  refine ⟨fun g => (k.groups g).trans (h.groups g), fun g c hn => (k.others g c hn).trans (h.others g c hn),
    fun c hc => (k.cores c hc).trans (h.cores c hc), ?_, fun n => ?_, ?_, h.same.trans k.same, ?_⟩
  · have a := h.core
    rw [← k.core] at a
    exact a
  · have a := h.lanes n
    rw [← k.lanes n] at a
    exact a
  · have a := h.course
    rw [← k.course] at a
    exact a
  · have a := h.rest
    rw [← k.rest] at a
    exact a

theorem OnlyRegs.updCourse (x : Sel) (s : State) {f : Course → Course}
    (hc : ∀ y : Course, { f y with lanes := y.lanes, s := y.s, sP := y.sP, inflight := y.inflight, txends := y.txends } = y)
    (hl : ∀ (y : Course) n, { (f y).lane n with
      v := (y.lane n).v, vP := (y.lane n).vP, p := (y.lane n).p, pP := (y.lane n).pP, pc := (y.lane n).pc } = y.lane n) :
    OnlyRegs x s (s.updCourse x.grp x.course f) := by
  refine ⟨fun g => map_updGroup s x.grp g _ _ fun y => rfl, fun g c hn => ?_, fun c _ => core_updCourse .., by rw [core_updCourse],
    fun n => ?_, ?_, .updCourse .., ?_⟩
  · obtain e | ⟨rfl, rfl, -⟩ := courseAt_updCourse s x.grp x.course g c f
    · exact e
    · exact absurd rfl hn
  · obtain e | ⟨-, -, e⟩ := courseAt_updCourse s x.grp x.course x.grp x.course f
    · simp only [State.lane, e]
    · simp only [State.lane, e]; exact hl _ n
  · obtain e | ⟨-, -, e⟩ := courseAt_updCourse s x.grp x.course x.grp x.course f
    · rw [e]
    · rw [e]; exact hc _
  · unfold State.updCourse State.updGroup; split <;> rfl

theorem OnlyRegs.updLane (x : Sel) (s : State) (n : Nat) {f : Lane → Lane}
    (hf : ∀ l, { f l with v := l.v, vP := l.vP, p := l.p, pP := l.pP, pc := l.pc } = l) :
    OnlyRegs x s (s.updLane x.grp x.course n f) := by
  refine .updCourse x s (fun y => ?_) fun y m => ?_
  · unfold Course.updLane; split <;> rfl
  · by_cases hm : m = n
    · subst hm
      by_cases hn : m < 32
      · rw [lane_updLane_same y m f hn, hf]
      · simp [Course.lane, hn]
    · rw [lane_updLane_other y n m f hm]

theorem OnlyRegs.setReserve (x : Sel) (s : State) (n i : Nat) (v : PWord) :
    OnlyRegs x s (s.setCore x.core ((s.core x.core).setReserve n i v)) := by
  refine ⟨fun _ => rfl, fun _ _ _ => rfl, fun c hc => core_setCore_other _ _ _ _ hc, ?_, fun _ => rfl, rfl, .setCore _ _ _ ?_, rfl⟩
  · rw [core_setCore_same]; unfold Core.setReserve; split <;> rfl
  · unfold Core.setReserve; split <;> rfl

theorem OnlyRegs.setV (x : Sel) (s : State) (n r : Nat) (v : PWord) : OnlyRegs x s (s.updLane x.grp x.course n fun l => l.setV r v) :=
  .updLane x s n fun l => by unfold Lane.setV; split <;> rfl

theorem OnlyRegs.applyReg (x : Sel) (s : State) (w : RegWrite) : OnlyRegs x s (applyReg s x.core x.grp x.course w) := by
  unfold Machine.applyReg
  cases w with
  | v n r v => exact .setV x s n r v
  | p n r v p => exact .updLane x s n fun l => by unfold Lane.setPred; split <;> rfl
  | s r v =>
    refine .updCourse x s (fun y => ?_) fun y n => ?_
    · unfold Course.setS; split <;> rfl
    · unfold Course.setS; split <;> rfl
  | reserve n r v => exact .setReserve x s n r v
  | far n r v res ts =>
    cases res
    · exact .setV x s n r v
    · exact .setReserve x s n r v
  | late n r v res idx ps guard =>
    cases res
    · exact .setV x s n r v
    · exact .setReserve x s n r v

theorem OnlyRegs.applyRegs (x : Sel) (ws : List RegWrite) (s : State) : OnlyRegs x s (applyRegs s x.core x.grp x.course ws) := by
  unfold Machine.applyRegs
  induction ws generalizing s with
  | nil => exact .refl x s
  | cons w ws ih => exact (OnlyRegs.applyReg x s w).trans (ih _)

theorem OnlyRegs.afterIssue (x : View) (s : State) : OnlyRegs x.sel s (afterIssue x s) := by
  have h : OnlyRegs x.sel s (advance s x.sel x.sel.mask) := by
    refine .updCourse x.sel s (fun y => by simp only [Course.mapLanes]) fun y n => ?_
    by_cases hn : n < 32
    · rw [lane_mapLanes y _ n hn]; split <;> rfl
    · simp [Course.lane, hn]
  exact h.trans ⟨fun _ => rfl, fun _ _ _ => rfl, fun _ _ => rfl, rfl, fun _ => rfl, rfl, .deselect _, rfl⟩

theorem OnlyRegs.written (s : State) (x : View) (k : Ctl) (d : Dst) (val : Nat → PWord) : OnlyRegs x.sel s (written s x k d val) :=
  (OnlyRegs.applyRegs x.sel _ s).trans (.afterIssue x _)


/-! ### Registers after one write -/

section
variable {s : State} {x : View} (hc : s.hasCourse x.sel.grp x.sel.course)

theorem hasCourse_applyReg {g c : Nat} (h : s.hasCourse g c) (core : Nat) (w : RegWrite) : (applyReg s core g c w).hasCourse g c := by
  unfold applyReg
  cases w with
  | v => exact hasCourse_updLane h ..
  | p => exact hasCourse_updLane h ..
  | s => exact hasCourse_updCourse h ..
  | reserve => exact hasCourse_setCore h ..
  | far n r v res ts =>
    cases res
    · exact hasCourse_updLane h ..
    · exact hasCourse_setCore h ..
  | late n r v res idx ps guard =>
    cases res
    · exact hasCourse_updLane h ..
    · exact hasCourse_setCore h ..

include hc in
/-- A V register after a write of one. -/
theorem vregAt_putV {n m i j : Nat} (hn : n < 32) (hj : j < 256) (v : PWord) :
    (applyReg s x.sel.core x.sel.grp x.sel.course (x.putV n i v)).vregAt x m j = if j = i ∧ m = n then v else s.vregAt x m j := by
  by_cases hr : x.reserved n i = true
  · have hi : 224 ≤ i ∧ i < 256 := by
      rw [View.reserved, Bool.and_eq_true, decide_eq_true_eq] at hr
      exact hr.2
    have hu : applyReg s x.sel.core x.sel.grp x.sel.course (x.putV n i v)
        = s.setCore x.sel.core ((s.core x.sel.core).setReserve n (i - 224) v) := by
      rw [View.putV, if_pos hr]; rfl
    rw [hu]
    unfold State.vregAt
    by_cases hm : x.reserved m j = true
    · have hj' : 224 ≤ j := by
        rw [View.reserved, Bool.and_eq_true, decide_eq_true_eq] at hm
        exact hm.2.1
      rw [if_pos hm, if_pos hm, core_setCore_same]
      by_cases e : j = i ∧ m = n
      · obtain ⟨rfl, rfl⟩ := e
        rw [if_pos ⟨rfl, rfl⟩, getReserve_setReserve_same _ _ _ _ hn (by omega)]
      · rw [if_neg e, getReserve_setReserve_other _ _ _ _ _ _ (by omega)]
    · rw [if_neg hm, if_neg hm, lane_setCore, if_neg]
      rintro ⟨rfl, rfl⟩
      exact hm hr
  · have hu : applyReg s x.sel.core x.sel.grp x.sel.course (x.putV n i v)
        = s.updLane x.sel.grp x.sel.course n (fun l => l.setV i v) := by
      rw [View.putV, if_neg hr]; rfl
    rw [hu]
    unfold State.vregAt
    by_cases hm : x.reserved m j = true
    · rw [if_pos hm, if_pos hm, core_updLane, if_neg]
      rintro ⟨rfl, rfl⟩
      exact hr hm
    · rw [if_neg hm, if_neg hm]
      by_cases e : j = i ∧ m = n
      · obtain ⟨rfl, rfl⟩ := e
        rw [if_pos ⟨rfl, rfl⟩, getV_written hc hn hj]
      · rw [if_neg e, getV_unwritten]
        rintro ⟨rfl, rfl⟩
        exact e ⟨rfl, rfl⟩

include hc in
/-- A predicate after a write of one. -/
theorem pred_putP {n m i j : Nat} (hn : n < 32) (hj : j < 15) (a b : Bool) :
    (((s.updLane x.sel.grp x.sel.course n fun l => l.setPred i a b).lane x.sel.grp x.sel.course m).pred j
        = if j = i ∧ m = n then a else (s.lane x.sel.grp x.sel.course m).pred j)
      ∧ (((s.updLane x.sel.grp x.sel.course n fun l => l.setPred i a b).lane x.sel.grp x.sel.course m).predP j
        = if j = i ∧ m = n then b else (s.lane x.sel.grp x.sel.course m).predP j) := by
  by_cases hm : m = n
  · subst hm
    rw [lane_updLane_here hc hn]
    by_cases e : j = i
    · subst e
      rw [if_pos ⟨rfl, rfl⟩, if_pos ⟨rfl, rfl⟩]
      exact pred_setPred_same _ j a b hj
    · rw [if_neg fun h => e h.1, if_neg fun h => e h.1]
      exact pred_setPred_other _ i j a b e
  · rw [lane_updLane_else _ _ _ _ _ _ hm, if_neg fun h => hm h.2, if_neg fun h => hm h.2]
    exact ⟨rfl, rfl⟩

end

/-! ### What a row of writes keeps -/

theorem applyRegs_keep {α : Type} (r : State → α) {core g c : Nat} {ws : List RegWrite}
    (h : ∀ w ∈ ws, ∀ s, r (applyReg s core g c w) = r s) (s : State) : r (applyRegs s core g c ws) = r s := by
  unfold applyRegs
  induction ws generalizing s with
  | nil => rfl
  | cons w ws ih => exact (ih (fun v hv => h v (List.mem_cons_of_mem _ hv)) _).trans (h w List.mem_cons_self s)

/-- The V writes of lanes keep what a V register of no lane and no reserve shows. -/
theorem putV_keep {α : Type} (x : View) (r : State → α) (core g c : Nat)
    (hl : ∀ s n i v, r (s.updLane g c n fun l => l.setV i v) = r s) (hk : ∀ s k, r (s.setCore core k) = r s) (n i : Nat) (v : PWord)
    (s : State) : r (applyReg s core g c (x.putV n i v)) = r s := by
  unfold View.putV
  split
  · exact hk ..
  · exact hl ..

theorem courseAt_updLane_keep {α : Type} (s : State) (g c n h d : Nat) {f : Lane → Lane} (q : Course → α)
    (hq : ∀ y : Course, q (y.updLane n f) = q y) : q ((s.updLane g c n f).courseAt h d) = q (s.courseAt h d) :=
  courseAt_updCourse_keep s g c h d q hq

theorem getS_updLane (y : Course) (n : Nat) (f : Lane → Lane) (i : Nat) : (y.updLane n f).getS i = y.getS i := by
  unfold Course.updLane; split <;> rfl

theorem landing_updLane (y : Course) (n : Nat) (f : Lane → Lane) :
    (y.updLane n f).inflight = y.inflight ∧ (y.updLane n f).txends = y.txends := by
  unfold Course.updLane; split <;> exact ⟨rfl, rfl⟩

theorem predP_setV (l : Lane) (i j : Nat) (v : PWord) : (l.setV i v).pred j = l.pred j ∧ (l.setV i v).predP j = l.predP j := by
  unfold Lane.setV; split <;> exact ⟨rfl, rfl⟩

theorem pc_setPred (l : Lane) (i : Nat) (a b : Bool) : (l.setPred i a b).pc = l.pc := by unfold Lane.setPred; split <;> rfl

theorem getV_setPred (l : Lane) (i j : Nat) (a b : Bool) : (l.setPred i a b).getV j = l.getV j := by
  unfold Lane.setPred; split <;> rfl

theorem lane_setS (y : Course) (i n : Nat) (v : PWord) : (y.setS i v).lane n = y.lane n := by
  unfold Course.setS; split <;> rfl

/-! ### The rows of writes of a result -/

section
variable {x : View} {i : Nat} {v : Nat → PWord}

theorem vregAt_putAll {m j : Nat} (hj : j < 256) (l : List Nat) : ∀ {s : State}, s.hasCourse x.sel.grp x.sel.course →
    (∀ n ∈ l, n < 32) → (applyRegs s x.sel.core x.sel.grp x.sel.course (l.map fun n => x.putV n i (v n))).vregAt x m j
      = if j = i ∧ m ∈ l then v m else s.vregAt x m j := by
  induction l with
  | nil => exact fun _ _ => (if_neg fun h => nomatch h.2).symm
  | cons n l ih =>
    intro s hc hl
    refine (ih (hasCourse_applyReg hc ..) fun k hk => hl k (List.mem_cons_of_mem _ hk)).trans ?_
    rw [vregAt_putV hc (hl n List.mem_cons_self) hj]
    by_cases hji : j = i
    · by_cases hm : m ∈ l
      · rw [if_pos ⟨hji, hm⟩, if_pos ⟨hji, List.mem_cons_of_mem _ hm⟩]
      · by_cases hmn : m = n
        · subst hmn
          rw [if_neg fun h => hm h.2, if_pos ⟨hji, rfl⟩, if_pos ⟨hji, List.mem_cons_self⟩]
        · rw [if_neg fun h => hm h.2, if_neg fun h => hmn h.2, if_neg fun h => (List.mem_cons.1 h.2).elim hmn hm]
    · rw [if_neg fun h => hji h.1, if_neg fun h => hji h.1, if_neg fun h => hji h.1]

theorem pred_putAll {m j : Nat} (hj : j < 15) (a b : Nat → Bool) (l : List Nat) : ∀ {s : State},
    s.hasCourse x.sel.grp x.sel.course → (∀ n ∈ l, n < 32) →
    let t := applyRegs s x.sel.core x.sel.grp x.sel.course (l.map fun n => .p n i (a n) (b n))
    ((t.lane x.sel.grp x.sel.course m).pred j = if j = i ∧ m ∈ l then a m else (s.lane x.sel.grp x.sel.course m).pred j)
      ∧ ((t.lane x.sel.grp x.sel.course m).predP j = if j = i ∧ m ∈ l then b m else (s.lane x.sel.grp x.sel.course m).predP j) := by
  induction l with
  | nil => exact fun _ _ => ⟨(if_neg fun h => nomatch h.2).symm, (if_neg fun h => nomatch h.2).symm⟩
  | cons n l ih =>
    intro s hc hl
    obtain ⟨h1, h2⟩ := ih (hasCourse_applyReg hc x.sel.core (.p n i (a n) (b n))) fun k hk => hl k (List.mem_cons_of_mem _ hk)
    obtain ⟨g1, g2⟩ := pred_putP (i := i) (j := j) (m := m) hc (hl n List.mem_cons_self) hj (a n) (b n)
    refine ⟨h1.trans ?_, h2.trans ?_⟩
    · refine (congrArg (fun z => if j = i ∧ m ∈ l then a m else z) g1).trans ?_
      by_cases hmn : m = n
      · subst hmn; simp only [List.mem_cons, true_or, and_true]; split <;> simp_all
      · simp only [List.mem_cons, hmn, false_or, and_false, if_false]
    · refine (congrArg (fun z => if j = i ∧ m ∈ l then b m else z) g2).trans ?_
      by_cases hmn : m = n
      · subst hmn; simp only [List.mem_cons, true_or, and_true]; split <;> simp_all
      · simp only [List.mem_cons, hmn, false_or, and_false, if_false]

end


/-! ### The writes of a result -/

/-- The value of a result in a lane, with the poison of its guard. -/
def View.guarded (x : View) (k : Ctl) (val : Nat → PWord) (n : Nat) : PWord :=
  ⟨(val n).val, (val n).poison || (x.crs.lane n).guardP k⟩

section
variable {s : State} {x : View} (hc : s.hasCourse x.sel.grp x.sel.course) (k : Ctl) (d : Dst) (val : Nat → PWord)

theorem putRegs_v (i : Nat) : putRegs x s (x.result k (x.active k) (.v i) val) = applyRegs s x.sel.core x.sel.grp x.sel.course
    ((laneList (x.active k)).map fun n => x.putV n i (x.guarded k val n)) := rfl

theorem putRegs_p (i : Nat) : putRegs x s (x.result k (x.active k) (.p i) val) = applyRegs s x.sel.core x.sel.grp x.sel.course
    ((laneList (x.active k)).map fun n => .p n i ((x.guarded k val n).val != 0) (x.guarded k val n).poison) := rfl

theorem putRegs_s (i : Nat) : putRegs x s (x.result k (x.active k) (.s i) val) = (lowLane (x.active k)).elim s
    fun n => s.updCourse x.sel.grp x.sel.course fun c => c.setS i (x.guarded k val n) := by
  simp only [putRegs, View.result]
  cases lowLane (x.active k) <;> rfl

/-- What none of the writes of a result changes. -/
theorem putRegs_keep {α : Type} (r : State → α)
    (hv : ∀ s n i v, r (s.updLane x.sel.grp x.sel.course n fun l => l.setV i v) = r s) (hk : ∀ s y, r (s.setCore x.sel.core y) = r s)
    (hp : ∀ s n i a b, r (s.updLane x.sel.grp x.sel.course n fun l => l.setPred i a b) = r s)
    (hs : ∀ s i v, r (s.updCourse x.sel.grp x.sel.course fun c => c.setS i v) = r s) :
    r (putRegs x s (x.result k (x.active k) d val)) = r s := by
  cases d with
  | v i =>
    rw [putRegs_v]
    refine applyRegs_keep r (fun w hw t => ?_) s
    obtain ⟨n, -, rfl⟩ := List.mem_map.1 hw
    exact putV_keep x r _ _ _ hv hk n i _ t
  | p i =>
    rw [putRegs_p]
    refine applyRegs_keep r (fun w hw t => ?_) s
    obtain ⟨n, -, rfl⟩ := List.mem_map.1 hw
    exact hp ..
  | s i =>
    rw [putRegs_s]
    cases lowLane (x.active k) with
    | none => rfl
    | some n => exact hs ..

theorem hasCourse_putRegs (ws : List RegWrite) (hc : s.hasCourse x.sel.grp x.sel.course) :
    (putRegs x s ws).hasCourse x.sel.grp x.sel.course := by
  unfold putRegs applyRegs
  induction ws generalizing s with
  | nil => exact hc
  | cons w ws ih => exact ih (hasCourse_applyReg hc ..)

include hc in
theorem vregAt_putRegs {m j : Nat} (hj : j < 256) : (putRegs x s (x.result k (x.active k) d val)).vregAt x m j
    = if d = .v j ∧ inMask (x.active k) m = true then x.guarded k val m else s.vregAt x m j := by
  cases d with
  | v i =>
    rw [putRegs_v, vregAt_putAll hj _ hc fun n hn => inMask_lt ((mem_laneList _ _).1 hn)]
    simp only [mem_laneList, Dst.v.injEq, eq_comm (a := j)]
  | p i =>
    rw [if_neg (by simp), putRegs_p]
    refine applyRegs_keep (fun t => t.vregAt x m j) (fun w hw t => ?_) s
    obtain ⟨n, -, rfl⟩ := List.mem_map.1 hw
    unfold State.vregAt
    split
    · exact congrArg (Core.getReserve · m (j - 224)) (core_updLane ..)
    · exact lane_updLane_keep t _ _ n _ _ m (Lane.getV · j) fun l => getV_setPred l i j _ _
  | s i =>
    rw [if_neg (by simp), putRegs_s]
    cases lowLane (x.active k) with
    | none => rfl
    | some n =>
      simp only [Option.elim, State.vregAt, core_updCourse, lane_updCourse_keep _ _ _ _ _ _ fun y => lane_setS y i _ _]

include hc in
theorem pred_putRegs {m j : Nat} (hj : j < 15) :
    ((putRegs x s (x.result k (x.active k) d val)).lane x.sel.grp x.sel.course m).pred j
      = (if d = .p j ∧ inMask (x.active k) m = true then (x.guarded k val m).val != 0 else (s.lane x.sel.grp x.sel.course m).pred j)
    ∧ ((putRegs x s (x.result k (x.active k) d val)).lane x.sel.grp x.sel.course m).predP j
      = (if d = .p j ∧ inMask (x.active k) m = true then (x.guarded k val m).poison else (s.lane x.sel.grp x.sel.course m).predP j) := by
  cases d with
  | p i =>
    rw [putRegs_p]
    have h := pred_putAll (i := i) (m := m) hj (fun n => (x.guarded k val n).val != 0) (fun n => (x.guarded k val n).poison)
      (laneList (x.active k)) hc fun n hn => inMask_lt ((mem_laneList _ _).1 hn)
    simpa only [mem_laneList, Dst.p.injEq, eq_comm (a := j)] using h
  | v i =>
    rw [if_neg (by simp), if_neg (by simp), putRegs_v]
    have h {α : Type} (q : Lane → α) (hq : ∀ l i v, q (Lane.setV l i v) = q l) :
        q ((applyRegs s x.sel.core x.sel.grp x.sel.course
          ((laneList (x.active k)).map fun n => x.putV n i (x.guarded k val n))).lane x.sel.grp x.sel.course m)
          = q (s.lane x.sel.grp x.sel.course m) := by
      refine applyRegs_keep (fun t => q (t.lane x.sel.grp x.sel.course m)) (fun w hw t => ?_) s
      obtain ⟨n, -, rfl⟩ := List.mem_map.1 hw
      exact putV_keep x (fun t => q (t.lane x.sel.grp x.sel.course m)) _ _ _
        (fun t n i v => lane_updLane_keep t _ _ n _ _ m q fun l => hq l i v) (fun _ _ => rfl) n i _ t
    exact ⟨h (Lane.pred · j) fun l i v => (predP_setV l i j v).1, h (Lane.predP · j) fun l i v => (predP_setV l i j v).2⟩
  | s i =>
    rw [if_neg (by simp), if_neg (by simp), putRegs_s]
    cases lowLane (x.active k) with
    | none => exact ⟨rfl, rfl⟩
    | some n =>
      simp only [Option.elim, lane_updCourse_keep _ _ _ _ _ _ fun y => lane_setS y i _ _, and_self]

theorem pc_putRegs (m : Nat) : ((putRegs x s (x.result k (x.active k) d val)).lane x.sel.grp x.sel.course m).pc
    = (s.lane x.sel.grp x.sel.course m).pc :=
  putRegs_keep k d val (fun t => (t.lane x.sel.grp x.sel.course m).pc)
    (fun t n i v => lane_updLane_keep t _ _ n _ _ m Lane.pc fun l => pc_setV l i v) (fun _ _ => rfl)
    (fun t n i a b => lane_updLane_keep t _ _ n _ _ m Lane.pc fun l => pc_setPred l i a b)
    fun t _ _ => congrArg Lane.pc (lane_updCourse_keep t _ _ _ _ m fun y => lane_setS y ..)

include hc in
theorem getS_putRegs {j : Nat} (hj : j < 64) : ((putRegs x s (x.result k (x.active k) d val)).courseAt x.sel.grp x.sel.course).getS j
    = if d = .s j then (match lowLane (x.active k) with
        | some n => x.guarded k val n
        | none => (s.courseAt x.sel.grp x.sel.course).getS j)
      else (s.courseAt x.sel.grp x.sel.course).getS j := by
  cases d with
  | s i =>
    rw [putRegs_s]
    cases lowLane (x.active k) with
    | none => exact (ite_self _).symm
    | some n =>
      rw [Option.elim, courseAt_updCourse_same hc]
      by_cases e : i = j
      · subst e; rw [if_pos rfl, getS_setS_same _ _ _ hj]
      · rw [if_neg fun h => e (Dst.s.inj h), getS_setS_other _ _ _ _ fun h => e h.symm]
  | v i =>
    rw [if_neg (by simp), putRegs_v]
    refine applyRegs_keep (fun t => (t.courseAt x.sel.grp x.sel.course).getS j) (fun w hw t => ?_) s
    obtain ⟨n, -, rfl⟩ := List.mem_map.1 hw
    exact putV_keep x (fun t => (t.courseAt x.sel.grp x.sel.course).getS j) _ _ _
      (fun t n i v => courseAt_updLane_keep t _ _ n _ _ (Course.getS · j) fun y => getS_updLane y n _ j) (fun _ _ => rfl) n i _ t
  | p i =>
    rw [if_neg (by simp), putRegs_p]
    refine applyRegs_keep (fun t => (t.courseAt x.sel.grp x.sel.course).getS j) (fun w hw t => ?_) s
    obtain ⟨n, -, rfl⟩ := List.mem_map.1 hw
    exact courseAt_updLane_keep t _ _ n _ _ (Course.getS · j) fun y => getS_updLane y n _ j

/-- No result lands early but those that an S write lands before it. -/
theorem landing_putRegs {α : Type} (q : Course → α) (hq : ∀ y n f, q (Course.updLane y n f) = q y)
    (h : ¬ ((∃ i, i < 64 ∧ d = .s i) ∧ x.active k ≠ 0)) :
    q ((putRegs x s (x.result k (x.active k) d val)).courseAt x.sel.grp x.sel.course) = q (s.courseAt x.sel.grp x.sel.course) := by
  cases d with
  | s i =>
    rw [putRegs_s]
    cases hn : lowLane (x.active k) with
    | none => rfl
    | some n =>
      have ha : x.active k ≠ 0 := by
        intro e
        rw [e] at hn
        exact nomatch hn
      have hi : ¬ i < 64 := fun hi => h ⟨⟨i, hi, rfl⟩, ha⟩
      exact courseAt_updCourse_keep s _ _ _ _ q fun y => by rw [Course.setS, dif_neg hi]
  | v i =>
    rw [putRegs_v]
    refine applyRegs_keep (fun t => q (t.courseAt x.sel.grp x.sel.course)) (fun w hw t => ?_) s
    obtain ⟨n, -, rfl⟩ := List.mem_map.1 hw
    exact putV_keep x (fun t => q (t.courseAt x.sel.grp x.sel.course)) _ _ _
      (fun t n i v => courseAt_updLane_keep t _ _ n _ _ q fun y => hq y n _) (fun _ _ => rfl) n i _ t
  | p i =>
    rw [putRegs_p]
    refine applyRegs_keep (fun t => q (t.courseAt x.sel.grp x.sel.course)) (fun w hw t => ?_) s
    obtain ⟨n, -, rfl⟩ := List.mem_map.1 hw
    exact courseAt_updLane_keep t _ _ n _ _ q fun y => hq y n _

end

/-! ### The end of an issue with written results -/

theorem lowLane_some {m : LaneMask} (h : m ≠ 0) : ∃ n, lowLane m = some n := by
  cases hl : laneList m with
  | cons n l => exact ⟨n, by rw [lowLane, hl]; rfl⟩
  | nil =>
    refine absurd (mask_ext fun n hn => ?_) h
    have : inMask m n = false := by
      rw [← Bool.not_eq_true, ← mem_laneList, hl]; exact List.not_mem_nil
    rw [this]; exact (BitVec.getLsbD_zero).symm

theorem lane_afterIssue {s : State} {x : View} (hc : s.hasCourse x.sel.grp x.sel.course) {n : Nat} (hn : n < 32) :
    (afterIssue x s).lane x.sel.grp x.sel.course n = if inMask x.sel.mask n = true then
      { s.lane x.sel.grp x.sel.course n with pc := pcNext x.sel.pc } else s.lane x.sel.grp x.sel.course n := by
  rw [afterIssue, lane_deselect, lane_advance hc _ hn]

theorem lane_afterIssue_keep {α : Type} (s : State) (x : View) (q : Lane → α) (hq : ∀ l w, q { l with pc := w } = q l) (g c n : Nat) :
    q ((afterIssue x s).lane g c n) = q (s.lane g c n) := by
  rw [afterIssue, lane_deselect]
  refine lane_mapLanes_keep s _ _ g c n q fun l => ?_
  split
  · exact hq ..
  · rfl

theorem courseAt_afterIssue_keep {α : Type} (s : State) (x : View) (q : Course → α) (hq : ∀ y f, q (Course.mapLanes y f) = q y)
    (g c : Nat) : q ((afterIssue x s).courseAt g c) = q (s.courseAt g c) := by
  rw [afterIssue, courseAt_deselect]
  exact courseAt_updCourse_keep s _ _ g c q fun y => hq y _

theorem getS_mapLanes (y : Course) (f : Nat → Lane → Lane) (i : Nat) : (y.mapLanes f).getS i = y.getS i := by
  simp only [Course.mapLanes, Course.getS]
theorem inflight_mapLanes (y : Course) (f : Nat → Lane → Lane) : (y.mapLanes f).inflight = y.inflight := by
  simp only [Course.mapLanes]
theorem txends_mapLanes (y : Course) (f : Nat → Lane → Lane) : (y.mapLanes f).txends = y.txends := by
  simp only [Course.mapLanes]

theorem core_afterIssue (s : State) (x : View) (c : Nat) : (afterIssue x s).core c = s.core c := core_updCourse ..

/-- Settles O6: the rows of writes of a result, then the advance. -/
theorem writtenRegistersRead : Obligations.WrittenRegistersRead := by
  unfold Obligations.WrittenRegistersRead
  refine ⟨fun s x k d val hv hcl => ?_, fun s x k d val hv => ?_⟩
  · obtain ⟨-, hg, -, -⟩ := view_eq hv
    have hc : s.hasCourse x.sel.grp x.sel.course := ⟨_, hg, hcl⟩
    have hu := hasCourse_putRegs (x.result k (x.active k) d val) hc
    intro t v
    refine ⟨fun n hn => ⟨fun i hi => ?_, fun i hi => ?_, fun i hi => ?_, rfl, ?_⟩, fun i hi => ?_⟩
    · refine Eq.trans ?_ (vregAt_putRegs hc k d val hi)
      show (afterIssue x _).vregAt x n i = _
      unfold State.vregAt
      split
      · rw [core_afterIssue]
      · exact lane_afterIssue_keep _ x (Lane.getV · i) (fun _ _ => rfl) ..
    · exact (lane_afterIssue_keep _ x (Lane.pred · i) (fun _ _ => rfl) ..).trans (pred_putRegs hc k d val hi).1
    · exact (lane_afterIssue_keep _ x (Lane.predP · i) (fun _ _ => rfl) ..).trans (pred_putRegs hc k d val hi).2
    · refine (congrArg Lane.pc (lane_afterIssue hu hn)).trans ?_
      split
      · rfl
      · exact pc_putRegs k d val n
    · exact (courseAt_afterIssue_keep _ x (Course.getS · i) (fun y f => getS_mapLanes y f i) ..).trans (getS_putRegs hc k d val hi)
  · obtain ⟨-, hg, -, hcore⟩ := view_eq hv
    have h := OnlyRegs.written s x k d val
    intro t
    have hland {α : Type} (q : Course → α) (hq : ∀ y f, q (Course.mapLanes y f) = q y) :
        q (t.courseAt x.sel.grp x.sel.course)
          = q ((putRegs x s (x.result k (x.active k) d val)).courseAt x.sel.grp x.sel.course) :=
      courseAt_afterIssue_keep _ x q hq ..
    refine ⟨h.groups, h.others, h.cores, hcore ▸ h.core, h.lanes, h.course, ?_, fun i hi hd ha hcl => ?_, fun a y => ?_, rfl, h.rest⟩
    · by_cases hd : (∃ i, i < 64 ∧ d = .s i) ∧ x.active k ≠ 0
      · exact .inl hd
      · exact .inr ⟨(hland Course.inflight inflight_mapLanes).trans (landing_putRegs k d val _ (fun y n f => (landing_updLane y n f).1) hd),
          (hland Course.txends txends_mapLanes).trans (landing_putRegs k d val _ (fun y n f => (landing_updLane y n f).2) hd)⟩
    · obtain ⟨n, hn⟩ := lowLane_some ha
      have hp : (putRegs x s (x.result k (x.active k) d val)).courseAt x.sel.grp x.sel.course
          = (s.courseAt x.sel.grp x.sel.course).setS i (x.guarded k val n) := by
        rw [hd, putRegs_s, hn]
        exact courseAt_updCourse_same ⟨_, hg, hcl⟩ _
      refine ⟨(hland Course.inflight inflight_mapLanes).trans ?_, (hland Course.txends txends_mapLanes).trans ?_⟩
      · rw [hp, Course.setS, dif_pos hi]; rfl
      · rw [hp, Course.setS, dif_pos hi]; rfl
    · rw [h.same.mem]

end Sys2Proof.Machine
end

section
/-!
PROOFS. The halt of a resident group (R401): what is left of its lanes, its requests and its core.
-/

namespace Sys2Proof.Machine

/-! ### The halt of a resident group -/

/-- A group that halts: its lanes stand at their instructions, but for the waits that go on. -/
def Group.halted (g : Group) : Group :=
  { g with
    halting := true, regq := g.regq.map (fun _ => [])
    courses := g.courses.map (fun c => c.mapLanes (fun _ l => haltLane l)), savedMat := [] }

theorem haltLane_eq (l : Lane) :
    (haltLane l).hold = (match l.hold with
      | .barrier b t => .barrier b t
      | .txend => .txend
      | .rresGranted a r => .rresGranted a r
      | _ => .none)
    ∧ { haltLane l with hold := .none } = { l with hold := .none } := by
  cases h : l.hold <;> simp only [haltLane, h, and_self]

/-- With no ACTIVE lane nothing aborts. -/
theorem haltAborts_none {s : State} {h c : Nat} {crs : Course} (hn : ∀ n, n < 32 → (crs.lane n).tx.state ≠ .active) :
    haltAborts s h c crs = s := by
  have hf : (List.range 32).filter (fun n => (crs.lane n).live && (crs.lane n).tx.state == .active) = [] := by
    refine List.filter_eq_nil_iff.2 fun n hm => ?_
    have := hn n (List.mem_range.1 hm)
    simp [this]
  simp only [haltAborts, hf]
  rfl

theorem foldl_haltAborts {h : Nat} {g : Group} (hn : ∀ c, c < g.courses.length → ∀ n, n < 32 → ((g.course c).lane n).tx.state ≠ .active)
    (s : State) : (g.courses.zipIdx).foldl (fun s e => haltAborts s h e.2 e.1) s = s := by
  have ha : ∀ e ∈ g.courses.zipIdx, ∀ n, n < 32 → (e.1.lane n).tx.state ≠ .active := by
    intro e he
    have hi := List.mem_zipIdx he
    have hlt : e.2 < g.courses.length := by omega
    have hg : g.course e.2 = e.1 := by
      rw [Group.course, List.getD_eq_getElem?_getD, List.getElem?_eq_getElem hlt, Option.getD_some, hi.2.2]
      simp
    exact hg ▸ hn e.2 hlt
  generalize g.courses.zipIdx = l at ha
  induction l with
  | nil => rfl
  | cons e l ih =>
    rw [List.foldl_cons, haltAborts_none (ha e List.mem_cons_self)]
    exact ih fun f hf => ha f (List.mem_cons_of_mem _ hf)

/-- The matrix queue of a core with nothing in it, at a halt. -/
theorem haltMatrix_empty {s : State} {k : Nat} (hq : (s.core k).matQ = []) (h : Nat) :
    haltMatrix s h k = (((s.setCore k (s.core k)).updGroup h (fun g => { g with savedMat := [] })).post
      (.matrixEntryStart k)).post (.matrixEntryStart (Nat.xor k 1)) := by
  have hh : haltHead s h k = s := by
    unfold haltHead
    rw [hq]
  have hk : { s.core k with matQ := [] } = s.core k := by rw [← hq]
  simp only [haltMatrix, hh, hq, List.filter_nil, List.map_nil, rehead, hk]


/-- The groups and launches at the halt of a group: its lanes halted, its requests gone. -/
def haltedGroup (s : State) (h : Nat) (g : Group) : State :=
  (((s.updGroup h (fun g => { g with halting := true, regq := g.regq.map (fun _ => []) })).updGroup h
    (fun g => { g with courses := g.courses.map (fun c => c.mapLanes (fun _ l => haltLane l)) })).updLaunch g.launch
      (fun l => { l with fifo := l.fifo.filter (fun q => q.grp != h) })).postOnce (.rresGrant g.launch)

/-- The group's matrix entries leave the core's queue, which is looked at again. -/
def haltedQueue (s : State) (h k : Nat) (g : Group) : State :=
  ((((haltedGroup s h g).setCore k ((haltedGroup s h g).core k)).updGroup h (fun g => { g with savedMat := [] })).post
    (.matrixEntryStart k)).post (.matrixEntryStart (Nat.xor k 1))

/-- The state that the halt of a resident group leaves, before its save is due. -/
def haltedAt (s : State) (h k : Nat) (g : Group) : State :=
  (haltedQueue s h k g).setCore k { (haltedQueue s h k g).core k with
    handlerQ := ((haltedQueue s h k g).core k).handlerQ.filter (fun e => e.1 != h) }

section
variable {s : State} {h k : Nat} {g : Group}

theorem haltGroup_resident (hg : s.group h = some g) (hr : g.state = .resident) (hh : g.halting = false) (hk : g.core = some k)
    (hq : (s.core k).matQ = []) (hret : retireNow s h = none)
    (hn : ∀ c, c < g.courses.length → ∀ n, n < 32 → ((g.course c).lane n).tx.state ≠ .active) :
    haltGroup s h = (haltedAt s h k g).post (.saveComplete h) := by
  simp only [haltGroup, hg, hr, hh, hret, Bool.false_eq_true, if_false, haltResident, hk, foldl_haltAborts hn]
  rw [haltMatrix_empty]
  · rfl
  · simpa using hq

theorem group_haltedAt (hg : s.group h = some g) : (haltedAt s h k g).group h = some g.halted := by
  simp only [haltedAt, haltedQueue, haltedGroup, group_setCore, group_post, group_updGroup_same, group_postOnce, group_updLaunch, hg,
    Option.map_some]
  rfl

theorem agenda_haltedAt : (haltedAt s h k g).agenda = (s.postOnce (.rresGrant g.launch)).agenda
    ++ [.matrixEntryStart k, .matrixEntryStart (Nat.xor k 1)] := by
  have h1 : ∀ t : State, t.agenda = s.agenda → (t.postOnce (.rresGrant g.launch)).agenda = (s.postOnce (.rresGrant g.launch)).agenda := by
    intro t ht
    simp only [State.postOnce, ht]
    split
    · exact ht
    · exact congrArg (· ++ [_]) ht
  simp only [haltedAt, haltedQueue, haltedGroup, State.post, setCore_agenda, updGroup_agenda, List.append_assoc]
  rw [h1 _ (by simp)]
  rfl

theorem SameMem.haltedAt : SameMem s (haltedAt s h k g) := by
  have hs : SameMem s (haltedGroup s h g) :=
    ((SameMem.updGroup ..).trans (.updGroup ..)).trans ((SameMem.updLaunch ..).trans (.postOnce ..))
  have hq : SameMem s (haltedQueue s h k g) :=
    (hs.trans (.setCore _ _ _ rfl)).trans ((SameMem.updGroup ..).trans ((SameMem.post ..).trans (.post ..)))
  exact hq.trans (.setCore _ _ _ rfl)

end

theorem course_halted (g : Group) {c : Nat} (hc : c < g.courses.length) :
    g.halted.course c = (g.course c).mapLanes fun _ l => haltLane l := by
  simp [Group.halted, Group.course, List.getD_eq_getElem?_getD, List.getElem?_eq_getElem hc]

/-- Settles O42: a halt, save and pre-emption as the steps they are, and what the halt of a resident group leaves. -/
theorem haltSteps : Obligations.HaltSteps := by
  unfold Obligations.HaltSteps
  refine ⟨⟨fun s hs => rfl, fun s h g hg hr hh hs => ?_, fun s p h hs ho hc => ?_⟩, fun s h k g hg hr hh hk hq hret hn => ?_⟩
  · simp only [exec_saveComplete, execSaveComplete, hg, hr, hh, hs, and_self, if_true]
  · simp only [exec_preemptRequest, execPreemptRequest, ho, hc, Bool.false_eq_true, if_false]
  · rw [haltGroup_resident hg hr hh hk hq hret hn]
    refine ⟨g.halted, group_haltedAt hg, rfl, fun c n hc hn => ?_, ?_, fun a y => ?_⟩
    · rw [course_halted g hc, lane_mapLanes _ _ _ hn]
      exact haltLane_eq _
    · show (haltedAt s h k g).agenda ++ [_] = _
      rw [agenda_haltedAt, List.append_assoc]
      rfl
    · rw [(SameMem.haltedAt.trans (.post ..)).mem]

end Sys2Proof.Machine
end

section
/-!
PROOFS. Page requests and their replies, ATS, and invalidations (spec/21_pages.md): what each step is under its own guard.
-/

namespace Sys2Proof.Machine

/-! ### Rings and replies (R388, R389) -/

/-- A ring reads as it was written. -/
theorem ring_setRing (f : Fn) (stage : Nat) (r : PrqRing) : (f.setRing stage r).ring stage = r := by
  simp only [Fn.ring, Fn.setRing]
  split <;> rfl

theorem ring_updRing {s : State} {fn : Nat} (hf : fn < 16) (stage : Nat) (u : PrqRing → PrqRing) :
    ((updRing s fn stage u).fn fn).ring stage = u ((s.fn fn).ring stage) := by
  rw [updRing, fn_updFn_same _ _ _ hf, ring_setRing]

theorem freeTag_spec {s : State} {fn stage free tag : Nat} (h : freeTag s fn stage free = some tag) :
    tag < 4096 ∧ ∀ r ∈ ringReqs s fn stage, ∀ t, r.tag = some t → t.toNat ≠ tag := by
  have hu := List.find?_some h
  have hm := List.mem_of_find?_eq_some h
  obtain ⟨i, -, hi⟩ := List.mem_map.1 hm
  refine ⟨hi ▸ Nat.mod_lt _ (by decide), fun r hr t ht he => ?_⟩
  have hc : tag ∈ (ringReqs s fn stage).filterMap fun r => r.tag.map BitVec.toNat :=
    List.mem_filterMap.2 ⟨r, hr, by rw [ht, Option.map_some, he]⟩
  simp only [List.contains_iff_mem.2 hc] at hu
  exact absurd hu (by decide)

/-- A waiting request for which the ring has room is written under a free tag. -/
theorem execPrqEntryWrite_writes {s : State} {fn stage tag : Nat} {r : PageReq}
    (hr : (ringReqs s fn stage).find? (fun r => r.tag.isNone) = some r)
    (ht : freeTag { s with free := s.free + 1 } fn stage (Config.freeNat s.free) = some tag) (he : (s.fn fn).tdi ≠ .error)
    (hroom : ((s.fn fn).ring stage).room = true) (hc : linkCarries s .host = true) (hl : linkTrains s .host = false) :
    let ring := (s.fn fn).ring stage
    let u := { s with free := s.free + 1 }
    let v := u.paid r.payer fun u => u.store .host (ring.base.toNat / 4096 * 4096 + 32 * (ring.tail.toNat % ring.size)) 32
      (entryBits u r tag (ring.seq + 1))
    let w := updRing v fn stage
      (fun g => { g with tail := BitVec.ofNat 16 ((g.tail.toNat + 1) % g.size), seq := g.seq + 1 })
    let y := { w with reqs := w.reqs.map (fun (q : PageReq) => if q.id = r.id then { q with tag := some (BitVec.ofNat 12 tag) } else q) }
    execPrqEntryWrite fn stage s = .next ((signalVector y fn 1).post (.prqEntryWrite fn stage)) := by
  intro ring u v w y
  have hc' : linkCarries { s with free := s.free + 1 } .host = true := hc
  have hl' : linkTrains { s with free := s.free + 1 } .host = false := hl
  simp only [execPrqEntryWrite, hr, he, if_false, State.takeFree, ht, hroom, hc', hl', Bool.not_true, Bool.false_eq_true, Bool.or_false]
  rfl

/-- A reply with a known tag and a status of RETRY or FAIL answers its request. -/
theorem execPrqReply_answers {s : State} {fn stage : Nat} {value : Word} {r : PageReq} (hm : takesMmio s fn = true)
    (hr : (ringReqs s fn stage).find? (fun r => r.tag.map BitVec.toNat == some (value.toNat % 4096)) = some r) {b : Nat}
    (hb : value.toNat / 4096 = 256 * b) (hlt : b < 2) :
    execPrqReply fn stage value s = .next ((answer s r (b == 1)).post (.prqEntryWrite fn stage)) := by
  have hrec : s.boot.recovery = false := by
    simp only [takesMmio, Bool.and_eq_true, Bool.not_eq_true'] at hm
    exact hm.2
  have h1 : bitsNat value.toNat 63 24 = 0 := by
    simp only [bitsNat, Nat.shiftRight_eq_div_pow]; omega
  have h2 : bitsNat value.toNat 19 12 = 0 := by
    simp only [bitsNat, Nat.shiftRight_eq_div_pow]; omega
  have h3 : bitsNat value.toNat 23 20 = b := by
    simp only [bitsNat, Nat.shiftRight_eq_div_pow]; omega
  have h4 : ¬ 2 ≤ b := by omega
  simp only [execPrqReply, hm, hrec, hr, h1, h2, h3, h4, Bool.not_true, Bool.and_false, Bool.or_false, Bool.false_eq_true,
    if_false, ne_eq, not_true_eq_false, or_self]

/-- A well-formed base write starts its ring again. -/
theorem execPrqBaseWrite_starts {s : State} {fn stage : Nat} {value : Word} (hm : takesMmio s fn = true)
    (h7 : value.toNat % 8 ≠ 7) (h0 : value.toNat % 4096 / 8 = 0)
    (hl : tdiLocked s fn = false ∨ value = ((s.fn fn).ring stage).base) :
    execPrqBaseWrite fn stage value s
      = .next ((updRing s fn stage (fun r => { r with base := value, seq := 0 })).post (.prqEntryWrite fn stage)) := by
  have hrec : s.boot.recovery = false := by
    simp only [takesMmio, Bool.and_eq_true, Bool.not_eq_true'] at hm
    exact hm.2
  have hz : (tdiLocked s fn && (value != ((s.fn fn).ring stage).base)) = false := by
    rcases hl with hl | hl
    · rw [hl, Bool.false_and]
    · rw [← hl, bne_self_eq_false, Bool.and_false]
  simp only [execPrqBaseWrite, h7, h0, hm, hrec, frozenWrite, hz, ne_eq, not_true_eq_false, or_self, if_false, Bool.not_true,
    Bool.and_false, Bool.or_false, Bool.false_eq_true]

theorem updFn_congr {s : State} {fn : Nat} {f g : Fn → Fn} (h : f (s.fn fn) = g (s.fn fn)) : s.updFn fn f = s.updFn fn g := by
  unfold State.updFn
  split
  next hi =>
    have hs : s.fn fn = s.fns[fn] := by simp [State.fn, hi]
    rw [hs] at h
    rw [h]
  · rfl

/-! ### Invalidations (R392 to R394) -/

/-- With no group nothing is drained, performed or aborted. -/
theorem drained_of_no_groups {s : State} (hg : s.groups = []) (p q : Group → Bool) : fixWhere (drainWhere s p) q = s := by
  have hd : drainWhere s p = s := by rw [drainWhere, hg, List.foldl_nil]
  rw [hd, fixWhere, hg, List.map_nil, ← hg]

theorem abortHeldLogs_of_no_groups {s : State} (hg : s.groups = []) (p : Group → Bool) (pages : List Nat) :
    abortHeldLogs s p pages = s := by
  rw [abortHeldLogs, hg, List.filter_nil, List.foldl_nil]

/-- The cached walks that a command covers are dropped in every partition. -/
def dropCovered (u : State) (fn : Nat) (c : InvCmd) : State :=
  { u with parts := Vector.ofFn (fun i : Fin 16 =>
      let p := u.parts[i.val]'i.isLt
      { p with tlb := p.tlb.filter (fun e => !invCovers u fn c e) }) }

theorem tlb_dropCovered (u : State) (fn : Nat) (c : InvCmd) {p : Nat} (hp : p < 16) :
    ((dropCovered u fn c).part p).tlb = (u.part p).tlb.filter (fun e => !invCovers u fn c e) := by
  simp [dropCovered, State.part, hp]

/-- Settles O48: tags, ring entries, replies, invalidations and ATS, each by its own guard. -/
theorem pageRequests : Obligations.PageRequests := by
  unfold Obligations.PageRequests
  refine ⟨⟨fun s fn stage tag r hr ht he hroom hc hl => ?_, fun s fn stage free tag h => freeTag_spec h,
    fun s fn stage value r hm hr => ⟨fun h => ?_, fun h => ?_⟩, fun s fn stage value hf hm h7 h0 hl => ?_⟩,
    fun s fn id seq pages hm hf => ?_, fun s fn c rest hf hc => ?_, fun s fn addr pasid at_ ha => ?_,
    fun s fn i r hr => ?_, fun s fn n addr hf => ?_⟩
  · exact execPrqEntryWrite_writes hr ht he hroom hc hl
  · exact execPrqReply_answers (b := 0) hm hr h (by decide)
  · exact execPrqReply_answers (b := 1) hm hr h (by decide)
  · refine ⟨_, execPrqBaseWrite_starts hm h7 h0 hl, ring_updRing hf stage _, ?_, fun a => ?_⟩
    · simp [State.post, updRing]
    · exact ((SameMem.updFn ..).trans (.post ..)).mem a
  · intro c joined
    have hj : ∀ k x n, startInv s fn k x n seq = joined (c k x n) := fun k x n => by
      simp only [startInv, hm, Bool.not_true, Bool.false_eq_true, if_false]
      rfl
    refine ⟨congrArg Host.Outcome.next (hj ..), congrArg Host.Outcome.next (hj ..), fun h0 => ⟨?_, ?_⟩, fun h0 => ⟨?_, ?_⟩⟩
    · rw [exec_invStage2All, execInvStage2All, if_pos h0, hj]
    · rw [exec_invStage2Range, execInvStage2Range, if_pos h0, hj]
    · rw [exec_invStage2All, execInvStage2All, if_neg h0, if_pos hm]
    · rw [exec_invStage2Range, execInvStage2Range, if_neg h0, if_pos hm]
  · intro mine r walks u
    refine ⟨fun hw => ?_, fun hw => ?_⟩
    · simp only [exec_invComplete, execInvComplete, hc]
      exact if_pos hw
    · intro v
      have hx : exec (.invComplete fn) s = .next
          (((v.queues.filter (fun e => e.2.state != .destroyed && invMeets v fn c e.2.ctx)).foldl watchAgain v).updFn fn
            (fun f => { f with invs := rest, invDone := c.seq })) := by
        simp only [exec_invComplete, execInvComplete, hc]
        exact if_neg (by rw [Bool.not_eq_true]; exact hw)
      have ht : ∀ p, p < 16 → (v.part p).tlb = (u.part p).tlb.filter (fun e => !invCovers u fn c e) :=
        fun p hp => tlb_dropCovered u fn c hp
      refine ⟨hx, fun p hp e => ?_, fun hq => ⟨_, hx, ?_, ?_, fun p hp => ?_⟩, fun hg => ?_⟩
      · rw [ht p hp, List.mem_filter, Bool.not_eq_true']
      · rw [fn_updFn_same _ _ _ hf]
      · rw [fn_updFn_same _ _ _ hf]
      · rw [part_updFn, hq, List.filter_nil, List.foldl_nil]
      · have hu : u = s := by
          have hr : r = s := drained_of_no_groups hg ..
          exact (abortHeldLogs_of_no_groups (hr ▸ hg) ..).trans hr
        exact ⟨fun a => hu ▸ (rfl : v.mem a = u.mem a), fun p _ => by rw [hu]⟩
  · intro rest u
    have hu : s.updFn fn (fun f => { f with
        atc := AtcEntry.mk (addr.toNat / 4096) pasid (at_.toNat / 4096) true true ::
          f.atc.filter (fun x => !(x.page == addr.toNat / 4096 && x.pasid == pasid)) }) = u := updFn_congr rfl
    have hq : atsReqs u fn (addr.toNat / 4096) pasid = atsReqs s fn (addr.toNat / 4096) pasid := by
      simp only [atsReqs, u, updFn_reqs]
    constructor
    · simp only [exec_atsCompletion, execAtsCompletion, ha, Bool.not_true, Bool.false_eq_true, Bool.and_false,
        Bool.or_false, Bool.true_or, if_true, if_false]
      rw [hu, hq]
    · simp only [exec_atsCompletion, execAtsCompletion, ha, Bool.not_true, Bool.not_false, Bool.false_eq_true, Bool.and_true,
        Bool.or_false, if_false]
      simp only [Bool.or_right_comm]
  · simp only [exec_prgResponse, execPrgResponse, hr]
    exact ⟨rfl, rfl, rfl⟩
  · refine ⟨fun h => ?_, fun hl hp => ?_⟩
    · have hb : (linkTrains s .host || !s.posts.isEmpty) = true := by
        simpa [Bool.or_eq_true] using h
      rw [exec_atsInvalidateRequest, execAtsInvalidateRequest, if_pos hb]
    · have hb : ¬ (linkTrains s .host || !s.posts.isEmpty) = true := by
        rw [hl, hp]
        decide
      have hx := (exec_atsInvalidateRequest fn addr n s).trans (if_neg hb)
      refine ⟨_, hx, fun e he => ?_, fun hg => ⟨fun a => ?_, fun e he hr => ?_⟩⟩
      · rw [fn_updFn_same _ _ _ hf] at he
        simpa using (List.mem_filter.1 he).2
      · rw [drained_of_no_groups hg]
        exact (SameMem.updFn ..).mem a
      · rw [fn_updFn_same _ _ _ hf, drained_of_no_groups hg]
        exact List.mem_filter.2 ⟨he, by simpa using hr⟩

end Sys2Proof.Machine
end

section
/-!
PROOFS. Every memory keeps its canonical form under the operations of the state: one rule for each.
-/

namespace Sys2Proof.Machine

/-! ### Results, folds and projections -/

/-- The state that a step may leave has every memory in its canonical form. -/
def OutOk (o : Out) : Prop := ∀ t, o = .next t → t.MemoryOk

theorem memoryOk_next {s : State} (h : s.MemoryOk) : OutOk (.next s) := fun _ e => Host.Outcome.next.inj e ▸ h
theorem memoryOk_fault {r : Fault} : OutOk (.fault r) := fun _ e => nomatch e

/-- So has a state that a check lets through. -/
def ExOk {α : Type} (r : Except α State) : Prop := ∀ t, r = .ok t → t.MemoryOk

theorem memoryOk_ok {α : Type} {s : State} (h : s.MemoryOk) : ExOk (.ok s : Except α State) := fun _ e => Except.ok.inj e ▸ h
theorem memoryOk_error {α : Type} {a : α} : ExOk (.error a : Except α State) := fun _ e => nomatch e
theorem memoryOk_id {s : State} (h : s.MemoryOk) : (id s).MemoryOk := h

theorem memoryOk_issue {s : State} {f : View → State} (h : s.MemoryOk) (hf : ∀ x, (f x).MemoryOk) : OutOk (s.issue f) := by
  unfold State.issue
  split
  · exact memoryOk_next (hf _)
  · exact memoryOk_next h

theorem of_snd {α : Type} {r : α × State} {a : α} {t : State} (h : r.2.MemoryOk) (e : r = (a, t)) : t.MemoryOk := by
  subst e; exact h

theorem memoryOk_foldl {α : Type} {f : State → α → State} {s : State} {l : List α} (h : s.MemoryOk)
    (hf : ∀ t a, t.MemoryOk → (f t a).MemoryOk) : (l.foldl f s).MemoryOk := by
  induction l generalizing s with
  | nil => exact h
  | cons a l ih => exact ih (hf s a h)

theorem memoryOk_foldl_fst {α β : Type} {f : State × β → α → State × β} {p : State × β} {l : List α} (h : p.1.MemoryOk)
    (hf : ∀ p a, p.1.MemoryOk → (f p a).1.MemoryOk) : (l.foldl f p).1.MemoryOk := by
  induction l generalizing p with
  | nil => exact h
  | cons a l ih => exact ih (hf p a h)

theorem memoryOk_foldl_snd {α β : Type} {f : β × State → α → β × State} {p : β × State} {l : List α} (h : p.2.MemoryOk)
    (hf : ∀ p a, p.2.MemoryOk → (f p a).2.MemoryOk) : (l.foldl f p).2.MemoryOk := by
  induction l generalizing p with
  | nil => exact h
  | cons a l ih => exact ih (hf p a h)

theorem memoryOk_getD {o : Option State} {s : State} (h : s.MemoryOk) (ho : ∀ t, o = some t → t.MemoryOk) :
    (o.getD s).MemoryOk := by
  cases o with
  | none => exact h
  | some t => exact ho t rfl

theorem wf_savedScratch {s : State} {g : Nat} {x : Group} (h : s.MemoryOk) (hx : s.group g = some x) :
    x.savedScratch.wf = true := h.saved _ (mem_of_alGet _ _ _ hx)

/-- A change of fields that hold no memory. -/
theorem memoryOk_withFields {s t : State} (h : s.MemoryOk)
    (e : (t.hbm, t.host, t.peers, t.cores, t.groups) = (s.hbm, s.host, s.peers, s.cores, s.groups)) : t.MemoryOk := by
  injection e with h1 e
  injection e with h2 e
  injection e with h3 e
  injection e with h4 h5
  exact MemoryOk.of_eq h h1 h2 h3 h4 h5

/-! ### The state's operations -/

theorem memoryOk_setCore {s : State} {c : Nat} {k : Core} (h : s.MemoryOk)
    (hk : k.scratch = (s.core c).scratch) : (s.setCore c k).MemoryOk :=
  MemoryOk.setCore h c k (hk ▸ MemoryOk.core h c)

theorem memoryOk_setGroup {s : State} {g : Nat} {x : Group} (h : s.MemoryOk) (hx : x.savedScratch.wf = true) :
    (s.setGroup g x).MemoryOk := MemoryOk.setGroup h g x hx

theorem memoryOk_updGroup {s : State} {g : Nat} {f : Group → Group} (h : s.MemoryOk)
    (hf : ∀ x, (f x).savedScratch = x.savedScratch) : (s.updGroup g f).MemoryOk :=
  MemoryOk.updGroup h g f fun x hx => (hf x).symm ▸ hx

theorem memoryOk_updCourse {s : State} {g c : Nat} {f : Course → Course} (h : s.MemoryOk) : (s.updCourse g c f).MemoryOk :=
  memoryOk_updGroup h fun _ => rfl

theorem memoryOk_updLane {s : State} {g c n : Nat} {f : Lane → Lane} (h : s.MemoryOk) : (s.updLane g c n f).MemoryOk :=
  memoryOk_updCourse h

theorem memoryOk_updPort {s : State} {k : Nat} {f : Port → Port} (h : s.MemoryOk) : (s.updPort k f).MemoryOk :=
  MemoryOk.updPort h k f

theorem memoryOk_setLaunch {s : State} {l : Nat} {x : Launch} (h : s.MemoryOk) : (s.setLaunch l x).MemoryOk :=
  memoryOk_withFields h rfl

theorem memoryOk_updLaunch {s : State} {l : Nat} {f : Launch → Launch} (h : s.MemoryOk) : (s.updLaunch l f).MemoryOk := by
  unfold State.updLaunch
  split
  · exact memoryOk_setLaunch h
  · exact h

theorem memoryOk_updCtx {s : State} {i : Nat} {f : Ctx → Ctx} (h : s.MemoryOk) : (s.updCtx i f).MemoryOk := by
  unfold State.updCtx
  split
  · exact memoryOk_withFields h rfl
  · exact h

theorem memoryOk_updObj {s : State} {i : Nat} {f : Obj → Obj} (h : s.MemoryOk) : (s.updObj i f).MemoryOk := by
  unfold State.updObj
  split
  · exact memoryOk_withFields h rfl
  · exact h

theorem memoryOk_updQueue {s : State} {i : Nat} {f : Queue → Queue} (h : s.MemoryOk) : (s.updQueue i f).MemoryOk := by
  unfold State.updQueue
  split
  · exact memoryOk_withFields h rfl
  · exact h

theorem memoryOk_updFn {s : State} {i : Nat} {f : Fn → Fn} (h : s.MemoryOk) : (s.updFn i f).MemoryOk := by
  unfold State.updFn
  split
  · exact memoryOk_withFields h rfl
  · exact h

theorem memoryOk_updPart {s : State} {i : Nat} {f : Part → Part} (h : s.MemoryOk) : (s.updPart i f).MemoryOk := by
  unfold State.updPart
  split
  · exact memoryOk_withFields h rfl
  · exact h

theorem memoryOk_post {s : State} {i : Instr} (h : s.MemoryOk) : (s.post i).MemoryOk := memoryOk_withFields h rfl

theorem memoryOk_postOnce {s : State} {i : Instr} (h : s.MemoryOk) : (s.postOnce i).MemoryOk := by
  unfold State.postOnce
  split
  · exact h
  · exact memoryOk_post h

theorem memoryOk_postFirst {s : State} {i : Instr} (h : s.MemoryOk) : (s.postFirst i).MemoryOk := memoryOk_withFields h rfl
theorem memoryOk_takeFree {s : State} (h : s.MemoryOk) : s.takeFree.2.MemoryOk := memoryOk_withFields h rfl
theorem memoryOk_setMeter {s : State} {o : Nat} {m : Meter} (h : s.MemoryOk) : (s.setMeter o m).MemoryOk :=
  memoryOk_withFields h rfl

theorem memoryOk_charge {s : State} {o k n : Nat} (h : s.MemoryOk) : (charge s o k n).MemoryOk := memoryOk_setMeter h

theorem memoryOk_paid {s : State} {o : Option Nat} {f : State → State} (h : s.MemoryOk)
    (hf : ∀ t, t.MemoryOk → (f t).MemoryOk) : (s.paid o f).MemoryOk :=
  memoryOk_withFields (hf { s with payer := o } (memoryOk_withFields h rfl)) rfl

/-! ### Reads, walks and writes, and the ends of lanes and groups -/

theorem memoryOk_chargePayer {s : State} {k n} (h : s.MemoryOk) : (s.chargePayer k n).MemoryOk :=
  (Reads.chargePayer ..).memoryOk h
theorem memoryOk_l2Access {s : State} {k u} (h : s.MemoryOk) : (s.l2Access k u).MemoryOk :=
  (Reads.l2Access ..).memoryOk h
theorem memoryOk_readAt {s : State} {t a n} (h : s.MemoryOk) : (s.readAt t a n).MemoryOk :=
  (Reads.readAt ..).memoryOk h
theorem memoryOk_cacheWalk {s : State} {ctx va} (h : s.MemoryOk) : (cacheWalk s ctx va).MemoryOk :=
  (Reads.cacheWalk ..).memoryOk h
theorem memoryOk_walkTraffic {s : State} {p r va} (h : s.MemoryOk) : (walkTraffic s p r va).MemoryOk :=
  (Reads.walkTraffic ..).memoryOk h
theorem memoryOk_translate {s : State} {ctx va need} (h : s.MemoryOk) : (translate s ctx va need).2.MemoryOk :=
  (Reads.translate ..).memoryOk h
theorem memoryOk_translateList {s : State} {i vs} (h : s.MemoryOk) : (translateList s i vs).2.MemoryOk :=
  (Reads.translateList ..).memoryOk h
theorem memoryOk_translateRange {s : State} {i va n} (h : s.MemoryOk) : (translateRange s i va n).2.MemoryOk :=
  (Reads.translateRange ..).memoryOk h
theorem memoryOk_ctxRead {s : State} {i va n} (h : s.MemoryOk) : (ctxRead s i va n).2.MemoryOk :=
  (Reads.ctxRead ..).memoryOk h
theorem memoryOk_resolve {s : State} {g core c n a need source} (h : s.MemoryOk) : (resolve s g core c n a need source).2.MemoryOk :=
  (Reads.resolve ..).memoryOk h
theorem memoryOk_linkEvent {s : State} {k lost} (h : s.MemoryOk) : (linkEvent s k lost).MemoryOk :=
  (Writes.linkEvent ..).ok h
theorem memoryOk_addLost {s : State} {k n} (h : s.MemoryOk) : (addLost s k n).MemoryOk :=
  (Writes.addLost ..).ok h
theorem memoryOk_sendFlit {s : State} {k kind po ws p} (h : s.MemoryOk) : (sendFlit s k kind po ws p).MemoryOk :=
  (Writes.sendFlit ..).ok h
theorem memoryOk_deliverFlit {s : State} {f} (h : s.MemoryOk) : (deliverFlit s f).MemoryOk :=
  (Writes.deliverFlit ..).ok h
theorem memoryOk_sendWrite {s : State} {posted w} (h : s.MemoryOk) : (s.sendWrite posted w).MemoryOk :=
  (Writes.sendWrite ..).ok h
theorem memoryOk_applyWrites {s : State} {ws} (h : s.MemoryOk) : (s.applyWrites ws).MemoryOk :=
  (Writes.applyWrites ..).ok h
theorem memoryOk_store {s : State} {t a n v p} (h : s.MemoryOk) : (s.store t a n v p).MemoryOk :=
  (Writes.store ..).ok h
theorem memoryOk_homeWrite {s : State} {core w} (h : s.MemoryOk) : (homeWrite s core w).MemoryOk :=
  (Writes.homeWrite ..).ok h
theorem memoryOk_ctxWrite {s : State} {i va n v p} (h : s.MemoryOk) : (ctxWrite s i va n v p).2.MemoryOk :=
  (Writes.ctxWrite ..).ok h
theorem memoryOk_writeErr {s : State} {i rec} (h : s.MemoryOk) : (writeErr s i rec).MemoryOk :=
  (Writes.writeErr ..).ok h
theorem memoryOk_endLane {s : State} {g c n} (h : s.MemoryOk) : (endLane s g c n).MemoryOk :=
  (endLane_keeps ..).ok h
theorem memoryOk_chargeCore {s : State} {c} (h : s.MemoryOk) : (chargeCore s c).MemoryOk :=
  (chargeCore_keeps ..).ok h
theorem memoryOk_leaveCore {s : State} {g grp} (h : s.MemoryOk) : (leaveCore s g grp).MemoryOk :=
  (leaveCore_keeps ..).ok h
theorem memoryOk_releaseReserved {s : State} {grp} (h : s.MemoryOk) : (releaseReserved s grp).MemoryOk :=
  (releaseReserved_keeps ..).ok h
theorem memoryOk_noteSave {s : State} {g grp} (h : s.MemoryOk) : (noteSave s g grp).MemoryOk :=
  (noteSave_keeps ..).ok h
theorem memoryOk_launchCheck {s : State} {i} (h : s.MemoryOk) : (launchCheck s i).MemoryOk :=
  (launchCheck_keeps ..).ok h
theorem memoryOk_terminateOne {s : State} {g} (h : s.MemoryOk) : (terminateOne s g).MemoryOk :=
  (terminateOne_keeps ..).ok h
theorem memoryOk_terminateWith {s : State} {g kind cause first pc course lane} (h : s.MemoryOk) : (terminateWith s g kind cause first pc course lane).MemoryOk :=
  (terminateWith_keeps ..).ok h
theorem memoryOk_endTrapped {s : State} {g c n t kind} (h : s.MemoryOk) : (endTrapped s g c n t kind).MemoryOk :=
  (endTrapped_keeps ..).ok h
theorem memoryOk_bumpIf {s : State} {g c m} (h : s.MemoryOk) : (bumpIf s g c m).MemoryOk :=
  (bumpIf_keeps ..).ok h
theorem memoryOk_awaitHandler {s : State} {g c n t} (h : s.MemoryOk) : (awaitHandler s g c n t).MemoryOk :=
  (awaitHandler_keeps ..).ok h
theorem memoryOk_discardGroup {s : State} {g owned} (h : s.MemoryOk) : (discardGroup s g owned).MemoryOk :=
  (discardGroup_keeps ..).ok h
theorem memoryOk_overflowGroup {s : State} {g} (h : s.MemoryOk) : (overflowGroup s g).MemoryOk :=
  (overflowGroup_keeps ..).ok h
theorem memoryOk_holdEntry {s : State} {g held} (h : s.MemoryOk) : (holdEntry s g held).MemoryOk :=
  (holdEntry_keeps ..).ok h
theorem memoryOk_acceptOne {s : State} {g c} (h : s.MemoryOk) : (acceptOne s g c).MemoryOk :=
  (acceptOne_keeps ..).ok h
theorem memoryOk_drainCourse {s : State} {g c} (h : s.MemoryOk) : (drainCourse s g c).MemoryOk :=
  (drainCourse_keeps ..).ok h
theorem memoryOk_drainAll {s : State} {g} (h : s.MemoryOk) : (drainAll s g).MemoryOk :=
  (drainAll_keeps ..).ok h

end Sys2Proof.Machine
end

section
/-!
PROOFS. What issues and the computing instructions do to the memories: nothing.
-/

namespace Sys2Proof.Machine

/-! ### Machine/Meters.lean -/

theorem memoryOk_settleMeters {s} (h : State.MemoryOk s) : (settleMeters s).MemoryOk :=
  memoryOk_foldl h (fun _ _ h1 => memoryOk_chargeCore h1)

/-! ### Machine/Slices.lean -/

theorem memoryOk_l2Evict {s sector} (h : State.MemoryOk s) : (s.l2Evict sector).MemoryOk := memoryOk_withFields h rfl
theorem memoryOk_dropPidLines {s p} (h : State.MemoryOk s) : (dropPidLines s p).MemoryOk := memoryOk_withFields h rfl

/-! ### Machine/Homes.lean -/

theorem memoryOk_setPortState {s k st} (h : State.MemoryOk s) : (setPortState s k st).MemoryOk := by
  unfold setPortState
  split
  · exact h
  · exact memoryOk_linkEvent (memoryOk_updPort h)

theorem memoryOk_linkBytes {s n} (h : State.MemoryOk s) : (linkBytes s n).MemoryOk := memoryOk_chargePayer h
theorem memoryOk_applyWrite {s w} (h : State.MemoryOk s) : (s.applyWrite w).MemoryOk := memoryOk_sendWrite h

/-! ### Machine/Translate.lean -/

theorem memoryOk_speculate {s} (h : State.MemoryOk s) : (speculate s).MemoryOk := memoryOk_cacheWalk (memoryOk_takeFree h)

/-! ### Machine/Ops.lean -/

theorem memoryOk_applyReg {s : State} {core grp crs : Nat} {w : RegWrite} (h : s.MemoryOk) :
    (applyReg s core grp crs w).MemoryOk := by
  have hr : ∀ n r x, (s.setCore core ((s.core core).setReserve n r x)).MemoryOk := fun n r x =>
    memoryOk_setCore h (setReserve_scratch ..)
  cases w with
  | v | p => exact memoryOk_updLane h
  | s => exact memoryOk_updCourse h
  | reserve => exact hr ..
  | far | late =>
    unfold applyReg
    dsimp only
    split
    · exact hr ..
    · exact memoryOk_updLane h

theorem memoryOk_applyRegs {s core grp crs ws} (h : State.MemoryOk s) : (applyRegs s core grp crs ws).MemoryOk :=
  memoryOk_foldl h (fun _ _ h1 => memoryOk_applyReg h1)

theorem memoryOk_retryErrs {s i} (h : State.MemoryOk s) : (retryErrs s i).MemoryOk := by
  unfold retryErrs
  split
  · exact memoryOk_foldl (memoryOk_updCtx h) (fun _ _ h1 => memoryOk_writeErr h1)
  · exact h

theorem memoryOk_dropToken {s p who} (h : State.MemoryOk s) : (dropToken s p who).MemoryOk := memoryOk_updPart h

theorem memoryOk_abortLane {s g c n code user cause pf} (h : State.MemoryOk s) :
    (abortLane s g c n code user cause pf).1.MemoryOk := by
  unfold abortLane
  dsimp only
  split
  · dsimp only
    exact memoryOk_updLane h
  · exact h

theorem memoryOk_abortEach {s g c ns why} (h : State.MemoryOk s) : (abortEach s g c ns why).MemoryOk := by
  unfold abortEach
  dsimp only
  refine memoryOk_bumpIf (memoryOk_foldl_fst h ?_)
  intro _ _ h1
  dsimp only
  exact memoryOk_abortLane h1

theorem memoryOk_takeTrap {s g c n t} (h : State.MemoryOk s) : (takeTrap s g c n t).1.MemoryOk := by
  unfold takeTrap
  dsimp only
  split
  · split
    · exact h
    · split
      · dsimp only
        exact memoryOk_terminateWith h
      · split
        · dsimp only
          exact memoryOk_updLane h
        · split
          · exact memoryOk_abortLane h
          · split
            · dsimp only
              exact memoryOk_terminateWith h
            · split
              · dsimp only
                exact memoryOk_endTrapped h
              · split
                · dsimp only
                  exact memoryOk_endTrapped h
                · dsimp only
                  exact memoryOk_awaitHandler h
  · exact h

theorem memoryOk_enterHandler {s k} (h : State.MemoryOk s) : (enterHandler s k).MemoryOk := by
  unfold enterHandler
  dsimp only
  split
  · split
    · exact memoryOk_updCourse (memoryOk_setCore h rfl)
    · exact memoryOk_setCore h rfl
  · exact h

theorem memoryOk_trapMany {ts counted} {s : State} (h : s.MemoryOk) : (trapMany ts counted s).MemoryOk := by
  induction ts generalizing counted s with
  | nil => exact h
  | cons t ts ih =>
    unfold trapMany
    dsimp only
    split
    · exact ih (memoryOk_bumpIf (memoryOk_takeTrap h))
    · exact ih (memoryOk_takeTrap h)

theorem memoryOk_thaw {s g c} (h : State.MemoryOk s) : (thaw s g c).MemoryOk := by
  unfold thaw
  dsimp only
  split
  · refine memoryOk_trapMany (memoryOk_updCourse ?_)
    split
    · exact h
    · exact memoryOk_updCourse h
  · exact h

theorem memoryOk_leaveHandler {s g c} (h : State.MemoryOk s) : (leaveHandler s g c).MemoryOk := by
  unfold leaveHandler
  dsimp only
  split
  · split
    · exact memoryOk_post (memoryOk_thaw (memoryOk_setCore (memoryOk_updCourse h) rfl))
    · exact h
  · exact h

theorem memoryOk_returnLane {s g c n} (h : State.MemoryOk s) : (returnLane s g c n).MemoryOk := by
  unfold returnLane
  dsimp only
  split
  · split
    · exact memoryOk_endLane (memoryOk_updLane h)
    · exact memoryOk_updLane (memoryOk_updLane h)
  · exact h

/-! ### Machine/Flags.lean -/

theorem memoryOk_startLong {s g c op} (h : State.MemoryOk s) : (startLong s g c op).MemoryOk :=
  memoryOk_post (memoryOk_updCourse (memoryOk_takeFree h))

theorem memoryOk_finishLong {s g c i} (h : State.MemoryOk s) : (finishLong s g c i).MemoryOk := by
  unfold finishLong
  dsimp only
  split
  · exact h
  · split
    · exact h
    · exact memoryOk_updCourse (memoryOk_applyRegs h)

theorem memoryOk_finishAll {s g c} (h : State.MemoryOk s) : (finishAll s g c).MemoryOk := by
  unfold finishAll
  split
  · exact h
  · exact memoryOk_foldl h (fun _ _ h1 => memoryOk_finishLong h1)

theorem memoryOk_newToken {s} (h : State.MemoryOk s) : (s.newToken).2.MemoryOk := memoryOk_withFields h rfl

/-! ### Machine/Issue.lean -/

theorem memoryOk_takeTraps {s x ts} (h : State.MemoryOk s) : (takeTraps s x ts).1.MemoryOk := by
  unfold takeTraps
  dsimp only
  refine memoryOk_foldl_fst h ?_
  intro _ _ h1
  dsimp only
  exact memoryOk_takeTrap h1

theorem memoryOk_raiseTraps {s x ts} (h : State.MemoryOk s) : (raiseTraps s x ts).MemoryOk :=
  memoryOk_bumpIf (memoryOk_takeTraps h)

theorem memoryOk_advance {s x m} (h : State.MemoryOk s) : (advance s x m).MemoryOk := memoryOk_updCourse h
theorem memoryOk_stepSeeds {s x m} (h : State.MemoryOk s) : (stepSeeds s x m).MemoryOk := memoryOk_updCourse h
theorem memoryOk_deselect {s} (h : State.MemoryOk s) : (s.deselect).MemoryOk := memoryOk_withFields h rfl

theorem memoryOk_deliver {s x k long act ok ws slots} (h : State.MemoryOk s) :
    (deliver s x k long act ok ws slots).MemoryOk := by
  unfold deliver
  split
  · split
    · exact h
    · exact memoryOk_startLong h
  · exact memoryOk_applyRegs h

theorem memoryOk_finishEffect {s : State} {x k sh} {eff : LaneMask → State → State} (h : s.MemoryOk)
    (he : ∀ m t, t.MemoryOk → (eff m t).MemoryOk) : (finishEffect s x k sh eff).MemoryOk := by
  unfold finishEffect
  dsimp only
  refine memoryOk_deselect (memoryOk_raiseTraps (memoryOk_advance ?_))
  split
  · exact memoryOk_stepSeeds (he _ s h)
  · exact he _ s h

theorem memoryOk_finishCompute {s x k long sh body} (h : State.MemoryOk s) : (finishCompute s x k long sh body).MemoryOk :=
  memoryOk_finishEffect h (fun _ _ h1 => memoryOk_deliver h1)

theorem memoryOk_compute {k long sh body s} (h : State.MemoryOk s) : OutOk (compute k long sh body s) :=
  memoryOk_issue h (fun _ => memoryOk_finishCompute h)

/-! ### Machine/Integer.lean -/

theorem memoryOk_intRRR {k f arity old val s} (h : State.MemoryOk s) : OutOk (intRRR k f arity old val s) := memoryOk_compute h
theorem memoryOk_intRRI {k f val s} (h : State.MemoryOk s) : OutOk (intRRI k f val s) := memoryOk_compute h
theorem memoryOk_arithRRR {k f arity g s} (h : State.MemoryOk s) : OutOk (arithRRR k f arity g s) := memoryOk_intRRR h
theorem memoryOk_arithRRI {k f g s} (h : State.MemoryOk s) : OutOk (arithRRI k f g s) := memoryOk_intRRI h
theorem memoryOk_execIadd {k f s} (h : State.MemoryOk s) : OutOk (execIadd k f s) := memoryOk_arithRRR h
theorem memoryOk_execIaddImm {k f s} (h : State.MemoryOk s) : OutOk (execIaddImm k f s) := memoryOk_arithRRI h
theorem memoryOk_execIsub {k f s} (h : State.MemoryOk s) : OutOk (execIsub k f s) := memoryOk_arithRRR h
theorem memoryOk_execIsubImm {k f s} (h : State.MemoryOk s) : OutOk (execIsubImm k f s) := memoryOk_arithRRI h
theorem memoryOk_execImul {k f s} (h : State.MemoryOk s) : OutOk (execImul k f s) := memoryOk_arithRRR h
theorem memoryOk_execImulImm {k f s} (h : State.MemoryOk s) : OutOk (execImulImm k f s) := memoryOk_arithRRI h
theorem memoryOk_execImulh {k f s} (h : State.MemoryOk s) : OutOk (execImulh k f s) := memoryOk_arithRRR h
theorem memoryOk_execImad {k f s} (h : State.MemoryOk s) : OutOk (execImad k f s) := memoryOk_arithRRR h
theorem memoryOk_execIneg {k f s} (h : State.MemoryOk s) : OutOk (execIneg k f s) := memoryOk_arithRRR h
theorem memoryOk_execIabs {k f s} (h : State.MemoryOk s) : OutOk (execIabs k f s) := memoryOk_arithRRR h
theorem memoryOk_execImin {k f s} (h : State.MemoryOk s) : OutOk (execImin k f s) := memoryOk_arithRRR h
theorem memoryOk_execIminImm {k f s} (h : State.MemoryOk s) : OutOk (execIminImm k f s) := memoryOk_arithRRI h
theorem memoryOk_execImax {k f s} (h : State.MemoryOk s) : OutOk (execImax k f s) := memoryOk_arithRRR h
theorem memoryOk_execImaxImm {k f s} (h : State.MemoryOk s) : OutOk (execImaxImm k f s) := memoryOk_arithRRI h
theorem memoryOk_shiftRRR {k f op s} (h : State.MemoryOk s) : OutOk (shiftRRR k f op s) := memoryOk_intRRR h
theorem memoryOk_execIshl {k f s} (h : State.MemoryOk s) : OutOk (execIshl k f s) := memoryOk_shiftRRR h
theorem memoryOk_execIshr {k f s} (h : State.MemoryOk s) : OutOk (execIshr k f s) := memoryOk_shiftRRR h
theorem memoryOk_execIrot {k f s} (h : State.MemoryOk s) : OutOk (execIrot k f s) := memoryOk_shiftRRR h
theorem memoryOk_logicRRR {k f g s} (h : State.MemoryOk s) : OutOk (logicRRR k f g s) := memoryOk_intRRR h
theorem memoryOk_execAnd {k f s} (h : State.MemoryOk s) : OutOk (execAnd k f s) := memoryOk_logicRRR h
theorem memoryOk_execAndImm {k f s} (h : State.MemoryOk s) : OutOk (execAndImm k f s) := memoryOk_intRRI h
theorem memoryOk_execOr {k f s} (h : State.MemoryOk s) : OutOk (execOr k f s) := memoryOk_logicRRR h
theorem memoryOk_execOrImm {k f s} (h : State.MemoryOk s) : OutOk (execOrImm k f s) := memoryOk_intRRI h
theorem memoryOk_execXor {k f s} (h : State.MemoryOk s) : OutOk (execXor k f s) := memoryOk_logicRRR h
theorem memoryOk_execXorImm {k f s} (h : State.MemoryOk s) : OutOk (execXorImm k f s) := memoryOk_intRRI h
theorem memoryOk_execAndn {k f s} (h : State.MemoryOk s) : OutOk (execAndn k f s) := memoryOk_logicRRR h
theorem memoryOk_execAndnImm {k f s} (h : State.MemoryOk s) : OutOk (execAndnImm k f s) := memoryOk_intRRI h
theorem memoryOk_execNot {k f s} (h : State.MemoryOk s) : OutOk (execNot k f s) := memoryOk_intRRR h
theorem memoryOk_countRRR {k f g s} (h : State.MemoryOk s) : OutOk (countRRR k f g s) := memoryOk_intRRR h
theorem memoryOk_execBrev {k f s} (h : State.MemoryOk s) : OutOk (execBrev k f s) := memoryOk_countRRR h
theorem memoryOk_execPopc {k f s} (h : State.MemoryOk s) : OutOk (execPopc k f s) := memoryOk_countRRR h
theorem memoryOk_execClz {k f s} (h : State.MemoryOk s) : OutOk (execClz k f s) := memoryOk_countRRR h
theorem memoryOk_execCtz {k f s} (h : State.MemoryOk s) : OutOk (execCtz k f s) := memoryOk_countRRR h
theorem memoryOk_execBfx {k f s} (h : State.MemoryOk s) : OutOk (execBfx k f s) := memoryOk_intRRR h
theorem memoryOk_execBfi {k f s} (h : State.MemoryOk s) : OutOk (execBfi k f s) := memoryOk_intRRR h
theorem memoryOk_execIcmp {k f s} (h : State.MemoryOk s) : OutOk (execIcmp k f s) := memoryOk_intRRR h
theorem memoryOk_execIcmpImm {k f s} (h : State.MemoryOk s) : OutOk (execIcmpImm k f s) := memoryOk_intRRI h
theorem memoryOk_execIsel {k f s} (h : State.MemoryOk s) : OutOk (execIsel k f s) := memoryOk_intRRR h
theorem memoryOk_execLea {k f s} (h : State.MemoryOk s) : OutOk (execLea k f s) := memoryOk_intRRR h
theorem memoryOk_execLeaImm {k f s} (h : State.MemoryOk s) : OutOk (execLeaImm k f s) := memoryOk_intRRI h
theorem memoryOk_execMov {k f s} (h : State.MemoryOk s) : OutOk (execMov k f s) := memoryOk_intRRR h
theorem memoryOk_execMovi {k f s} (h : State.MemoryOk s) : OutOk (execMovi k f s) := memoryOk_compute h
theorem memoryOk_execPset {k f s} (h : State.MemoryOk s) : OutOk (execPset k f s) := memoryOk_intRRR h
theorem memoryOk_execPlop {k f s} (h : State.MemoryOk s) : OutOk (execPlop k f s) := memoryOk_intRRR h

/-! ### Machine/CrossLane.lean -/

theorem memoryOk_crossLane {k f parts s} (h : State.MemoryOk s) : OutOk (crossLane k f parts s) := memoryOk_compute h
theorem memoryOk_execShfl {k f s} (h : State.MemoryOk s) : OutOk (execShfl k f s) := memoryOk_crossLane h
theorem memoryOk_execQxch {k f s} (h : State.MemoryOk s) : OutOk (execQxch k f s) := memoryOk_compute h
theorem memoryOk_execVote {k f s} (h : State.MemoryOk s) : OutOk (execVote k f s) := memoryOk_compute h
theorem memoryOk_execPerm {k f s} (h : State.MemoryOk s) : OutOk (execPerm k f s) := memoryOk_crossLane h
theorem memoryOk_execPack {k f s} (h : State.MemoryOk s) : OutOk (execPack k f s) := memoryOk_crossLane h
theorem memoryOk_execUnpack {k f s} (h : State.MemoryOk s) : OutOk (execUnpack k f s) := memoryOk_crossLane h

/-! ### Machine/Special.lean -/

theorem memoryOk_execMovs {k f s} (h : State.MemoryOk s) : OutOk (execMovs k f s) := memoryOk_compute h

theorem memoryOk_execMovss {k f s} (h : State.MemoryOk s) : OutOk (execMovss k f s) := by
  unfold execMovss
  dsimp only
  refine memoryOk_issue h ?_
  intro _
  refine memoryOk_finishEffect h ?_
  intro _ _ h1
  split
  · split
    · exact memoryOk_updCourse h1
    · exact h1
  · exact memoryOk_updCourse h1

theorem memoryOk_execPchk {k f s} (h : State.MemoryOk s) : OutOk (execPchk k f s) := memoryOk_compute h
theorem memoryOk_execPclr {k f s} (h : State.MemoryOk s) : OutOk (execPclr k f s) := memoryOk_compute h

/-! ### Machine/Float.lean -/

theorem memoryOk_floatRRR {k f feat long arity g s} (h : State.MemoryOk s) : OutOk (floatRRR k f feat long arity g s) :=
  memoryOk_compute h

theorem memoryOk_floatArith {k f arity g s} (h : State.MemoryOk s) : OutOk (floatArith k f arity g s) := memoryOk_floatRRR h
theorem memoryOk_execFadd {k f s} (h : State.MemoryOk s) : OutOk (execFadd k f s) := memoryOk_floatArith h
theorem memoryOk_execFsub {k f s} (h : State.MemoryOk s) : OutOk (execFsub k f s) := memoryOk_floatArith h
theorem memoryOk_execFmul {k f s} (h : State.MemoryOk s) : OutOk (execFmul k f s) := memoryOk_floatArith h
theorem memoryOk_execFma {k f s} (h : State.MemoryOk s) : OutOk (execFma k f s) := memoryOk_floatArith h
theorem memoryOk_execFmin {k f s} (h : State.MemoryOk s) : OutOk (execFmin k f s) := memoryOk_floatRRR h
theorem memoryOk_execFmax {k f s} (h : State.MemoryOk s) : OutOk (execFmax k f s) := memoryOk_floatRRR h
theorem memoryOk_floatTest {k f srcs test s} (h : State.MemoryOk s) : OutOk (floatTest k f srcs test s) := memoryOk_compute h
theorem memoryOk_execFcmp {k f s} (h : State.MemoryOk s) : OutOk (execFcmp k f s) := memoryOk_floatTest h
theorem memoryOk_execFclass {k f s} (h : State.MemoryOk s) : OutOk (execFclass k f s) := memoryOk_floatTest h
theorem memoryOk_execFrnd {k f s} (h : State.MemoryOk s) : OutOk (execFrnd k f s) := memoryOk_floatRRR h
theorem memoryOk_execFscale {k f s} (h : State.MemoryOk s) : OutOk (execFscale k f s) := memoryOk_floatRRR h
theorem memoryOk_execFrcp {k f s} (h : State.MemoryOk s) : OutOk (execFrcp k f s) := memoryOk_floatRRR h
theorem memoryOk_floatTrans {k f t s} (h : State.MemoryOk s) : OutOk (floatTrans k f t s) := memoryOk_floatRRR h
theorem memoryOk_execFrsq {k f s} (h : State.MemoryOk s) : OutOk (execFrsq k f s) := memoryOk_floatTrans h
theorem memoryOk_execFsqrt {k f s} (h : State.MemoryOk s) : OutOk (execFsqrt k f s) := memoryOk_floatTrans h
theorem memoryOk_execFexp2 {k f s} (h : State.MemoryOk s) : OutOk (execFexp2 k f s) := memoryOk_floatTrans h
theorem memoryOk_execFlog2 {k f s} (h : State.MemoryOk s) : OutOk (execFlog2 k f s) := memoryOk_floatTrans h
theorem memoryOk_execFsin {k f s} (h : State.MemoryOk s) : OutOk (execFsin k f s) := memoryOk_floatTrans h
theorem memoryOk_execFcos {k f s} (h : State.MemoryOk s) : OutOk (execFcos k f s) := memoryOk_floatTrans h
theorem memoryOk_execFtanh {k f s} (h : State.MemoryOk s) : OutOk (execFtanh k f s) := memoryOk_floatTrans h
theorem memoryOk_execFdiv {k f s} (h : State.MemoryOk s) : OutOk (execFdiv k f s) := memoryOk_floatRRR h

/-! ### Machine/Convert.lean -/

theorem memoryOk_convert {k f more slots need ws wd el s} (h : State.MemoryOk s) :
    OutOk (convert k f more slots need ws wd el s) := memoryOk_compute h

theorem memoryOk_execCvt {k f s} (h : State.MemoryOk s) : OutOk (execCvt k f s) := memoryOk_convert h
theorem memoryOk_execCvti {k f s} (h : State.MemoryOk s) : OutOk (execCvti k f s) := memoryOk_convert h
theorem memoryOk_execCvtf {k f s} (h : State.MemoryOk s) : OutOk (execCvtf k f s) := memoryOk_convert h
theorem memoryOk_execBscale {k f s} (h : State.MemoryOk s) : OutOk (execBscale k f s) := memoryOk_convert h
theorem memoryOk_execFmtq {k f s} (h : State.MemoryOk s) : OutOk (execFmtq k f s) := memoryOk_compute h

end Sys2Proof.Machine
end

section
/-!
PROOFS. Loads, stores, atomics, barriers and fetches keep the canonical form of every memory.
-/

namespace Sys2Proof.Machine

/-! ### Machine/Access.lean -/

theorem memoryOk_l1Insert {s core k d} (h : State.MemoryOk s) : (l1Insert s core k d).MemoryOk := by
  unfold l1Insert
  dsimp only
  split
  · exact memoryOk_setCore h rfl
  · exact memoryOk_setCore (memoryOk_takeFree h) rfl

theorem memoryOk_keepL1 {s core k} (h : State.MemoryOk s) : (keepL1 s core k).MemoryOk := by
  unfold keepL1
  dsimp only
  split
  · exact memoryOk_setCore h rfl
  · exact memoryOk_l1Insert h

theorem memoryOk_fillL1 {s core k} (h : State.MemoryOk s) : (fillL1 s core k).MemoryOk := memoryOk_keepL1 (memoryOk_l2Access h)

theorem memoryOk_loadSector {s x lane weak t k} (h : State.MemoryOk s) : (loadSector s x lane weak t k).2.MemoryOk := by
  unfold loadSector
  dsimp only
  split
  · exact h
  · split
    · split
      · split
        · dsimp only
          exact memoryOk_takeFree h
        · dsimp only
          exact memoryOk_fillL1 (memoryOk_takeFree h)
      · dsimp only
        exact memoryOk_fillL1 h
    · dsimp only
      exact memoryOk_fillL1 h

theorem memoryOk_readFar {s p} (h : State.MemoryOk s) : (readFar s p).MemoryOk := by
  unfold readFar
  split
  · exact h
  · exact memoryOk_readAt h

theorem memoryOk_loadPieces {s : State} {x lane weak ps} (h : s.MemoryOk) : (loadPieces s x lane weak ps).2.MemoryOk := by
  induction ps generalizing s with
  | nil => exact h
  | cons p ps ih => exact ih (memoryOk_loadSector (memoryOk_readFar h))

theorem memoryOk_clearL1 {s core} (h : State.MemoryOk s) : (clearL1 s core).MemoryOk := memoryOk_setCore h rfl

theorem memoryOk_acquireAt {s core scope} (h : State.MemoryOk s) : (acquireAt s core scope).MemoryOk := by
  unfold acquireAt
  split
  · exact memoryOk_clearL1 h
  · exact h

theorem memoryOk_pushStore {s g c n ws} (h : State.MemoryOk s) : (pushStore s g c n ws).MemoryOk :=
  memoryOk_post (memoryOk_updCourse h)

theorem memoryOk_markSectors {s part who ps} (h : State.MemoryOk s) : (markSectors s part who ps).MemoryOk := memoryOk_updPart h

theorem memoryOk_atomAt {s core op ty p x y xp yp returns} (h : State.MemoryOk s) :
    (atomAt s core op ty p x y xp yp returns).2.MemoryOk := by
  unfold atomAt
  dsimp only
  split
  · refine memoryOk_setCore ?_ rfl
    split
    · exact memoryOk_readAt h
    · exact memoryOk_sendWrite (memoryOk_readAt h)
  · split
    · exact memoryOk_readAt h
    · exact memoryOk_sendWrite (memoryOk_readAt h)

/-! ### Machine/Region.lean -/

theorem memoryOk_updWindow {s g i f} (h : State.MemoryOk s) : (s.updWindow g i f).MemoryOk := memoryOk_updGroup h (fun _ => rfl)
theorem memoryOk_setValid {s core k n v} (h : State.MemoryOk s) : (setValid s core k n v).MemoryOk := memoryOk_setCore h rfl

theorem memoryOk_wakeGroup {s g} (h : State.MemoryOk s) : (wakeGroup s g).MemoryOk := by
  unfold wakeGroup
  dsimp only
  split
  · exact h
  · refine memoryOk_foldl h ?_
    intro _ _ h1
    refine memoryOk_foldl h1 ?_
    intro _ _ h2
    split
    · exact memoryOk_post h2
    · exact h2

theorem memoryOk_wakeAll {s} (h : State.MemoryOk s) : (wakeAll s).MemoryOk := by
  unfold wakeAll
  refine memoryOk_foldl h ?_
  intro _ _ h1
  split
  · exact memoryOk_wakeGroup h1
  · exact h1

theorem memoryOk_txFill {s x n ps} (h : State.MemoryOk s) : (txFill s x n ps).MemoryOk :=
  memoryOk_foldl h (fun _ _ h1 => memoryOk_fillL1 h1)

theorem memoryOk_mixRecord {s p} (h : State.MemoryOk s) : (mixRecord s p).MemoryOk := memoryOk_withFields h rfl

theorem memoryOk_mixCheck {s x strong ps} (h : State.MemoryOk s) : (mixCheck s x strong ps).2.MemoryOk := by
  unfold mixCheck
  split
  · split
    · exact h
    · dsimp only
      exact memoryOk_foldl h (fun _ _ h1 => memoryOk_mixRecord h1)
  · exact h

theorem memoryOk_sectorPlaces {s g bit n need} (h : State.MemoryOk s) : (sectorPlaces s g bit n need).2.MemoryOk := by
  unfold sectorPlaces
  dsimp only
  split
  · exact h
  · split <;> exact of_snd (memoryOk_translateList h) (by assumption)

theorem memoryOk_engineRecord {s g p} (h : State.MemoryOk s) : (engineRecord s g p).MemoryOk := by
  unfold engineRecord
  split
  · exact memoryOk_mixRecord h
  · exact h

theorem memoryOk_engineReads {s g es} (h : State.MemoryOk s) : (engineReads s g es).MemoryOk :=
  memoryOk_foldl h (fun _ _ h1 => memoryOk_engineRecord (memoryOk_readAt h1))

theorem memoryOk_readSeen {s g i ps} (h : State.MemoryOk s) : (readSeen s g i ps).MemoryOk := by
  unfold readSeen
  dsimp only
  split
  · exact h
  · exact memoryOk_updWindow (memoryOk_engineReads h)

theorem memoryOk_readAtTouch {s g i} (h : State.MemoryOk s) : (readAtTouch s g i).MemoryOk := by
  unfold readAtTouch
  split
  · exact h
  · split
    · exact h
    · refine memoryOk_foldl h ?_
      intro _ _ h1
      split
      · exact h1
      · split
        · split
          · exact h1
          · exact memoryOk_readSeen (of_snd (memoryOk_sectorPlaces h1) (by assumption))
        · exact h1

theorem memoryOk_startFill {s g i own lane} (h : State.MemoryOk s) : (startFill s g i own lane).MemoryOk := by
  unfold startFill
  dsimp only
  split
  · exact h
  · exact memoryOk_foldl (memoryOk_readAtTouch (memoryOk_updWindow (memoryOk_updCourse (memoryOk_newToken (memoryOk_updCourse
      (memoryOk_drainCourse h)))))) (fun _ _ h1 => memoryOk_post h1)

theorem memoryOk_touchAll {s ws own lane} (h : State.MemoryOk s) : (touchAll s ws own lane).MemoryOk :=
  memoryOk_foldl h (fun _ _ h1 => memoryOk_startFill h1)

theorem memoryOk_runLanes {x ns} {body : State → Nat → LaneOut × State} {a : State × Gathered} (h : a.1.MemoryOk)
    (hb : ∀ t n, t.MemoryOk → (body t n).2.MemoryOk) : (runLanes x body ns a).1.MemoryOk := by
  induction ns generalizing a with
  | nil => exact h
  | cons n ns ih => exact ih (hb a.1 n h)

theorem memoryOk_holdLanes {s x hs} (h : State.MemoryOk s) : (holdLanes s x hs).MemoryOk :=
  memoryOk_foldl h (fun _ _ h1 => memoryOk_updLane h1)

theorem memoryOk_abortLanes {s x as} (h : State.MemoryOk s) : (abortLanes s x as).1.MemoryOk := by
  unfold abortLanes
  dsimp only
  refine memoryOk_foldl_fst h ?_
  intro _ _ h1
  dsimp only
  exact memoryOk_abortLane h1

theorem memoryOk_settleLanes {s x moved as ts} (h : State.MemoryOk s) : (settleLanes s x moved as ts).MemoryOk :=
  memoryOk_deselect (memoryOk_bumpIf (memoryOk_takeTraps (memoryOk_abortLanes h)))

theorem memoryOk_finishLanes {s : State} {x k long sh} {body : State → Nat → LaneOut × State} (h : s.MemoryOk)
    (hb : ∀ t n, t.MemoryOk → (body t n).2.MemoryOk) : (finishLanes s x k long sh body).MemoryOk := by
  have hr := memoryOk_runLanes (x := x) (ns := laneList (x.clear sh (x.active k))) (a := (s, Gathered.empty)) h hb
  unfold finishLanes
  dsimp only
  generalize runLanes x body (laneList (x.clear sh (x.active k))) (s, Gathered.empty) = r at hr ⊢
  refine memoryOk_settleLanes (memoryOk_holdLanes (memoryOk_advance ?_))
  split
  · exact memoryOk_stepSeeds (memoryOk_deliver hr)
  · exact memoryOk_deliver hr

/-! ### Machine/Memory.lean -/

theorem memoryOk_placed {s : State} {x n a need} {act : State → List Piece → LaneOut × State} (h : s.MemoryOk)
    (ha : ∀ t ps, t.MemoryOk → (act t ps).2.MemoryOk) : (placed s x n a need act).2.MemoryOk := by
  unfold placed
  dsimp only
  split
  · exact of_snd (memoryOk_resolve h) (by assumption)
  · exact of_snd (memoryOk_resolve h) (by assumption)
  · exact ha _ _ (of_snd (memoryOk_resolve h) (by assumption))

theorem memoryOk_setTx {s x n t} (h : State.MemoryOk s) : (setTx s x n t).MemoryOk := memoryOk_updLane h

theorem memoryOk_loadAt {k f x n a s ps} (h : State.MemoryOk s) : (loadAt k f x n a s ps).2.MemoryOk := by
  unfold loadAt
  dsimp only
  split
  · exact h
  · split
    · dsimp only
      exact memoryOk_touchAll h
    · split
      · split
        · exact of_snd (memoryOk_mixCheck (memoryOk_touchAll h)) (by assumption)
        · split
          · dsimp only
            exact memoryOk_touchAll h
          · dsimp only
            exact memoryOk_setTx (memoryOk_txFill (of_snd (memoryOk_mixCheck (memoryOk_touchAll h)) (by assumption)))
      · split
        · exact of_snd (memoryOk_mixCheck (memoryOk_touchAll h)) (by assumption)
        · dsimp only
          split
          · exact memoryOk_acquireAt (memoryOk_markSectors (memoryOk_loadPieces (of_snd (memoryOk_mixCheck (memoryOk_touchAll
              h)) (by assumption))))
          · exact memoryOk_markSectors (memoryOk_loadPieces (of_snd (memoryOk_mixCheck (memoryOk_touchAll h)) (by assumption)))

theorem memoryOk_execLd {k f s} (h : State.MemoryOk s) : OutOk (execLd k f s) := by
  unfold execLd
  refine memoryOk_issue h ?_
  intro _
  split
  · exact memoryOk_deselect h
  · exact memoryOk_finishLanes h (fun _ _ h1 => memoryOk_placed h1 (fun _ _ h2 => memoryOk_loadAt h2))

theorem memoryOk_storeAt {k f x n a s ps} (h : State.MemoryOk s) : (storeAt k f x n a s ps).2.MemoryOk := by
  unfold storeAt
  dsimp only
  split
  · exact h
  · split
    · split
      · exact h
      · dsimp only
        exact memoryOk_setTx h
    · split
      · exact h
      · split
        · exact of_snd (memoryOk_mixCheck h) (by assumption)
        · dsimp only
          split
          · exact memoryOk_drainCourse (memoryOk_pushStore (memoryOk_markSectors (of_snd (memoryOk_mixCheck h) (by
              assumption))))
          · exact memoryOk_pushStore (memoryOk_markSectors (of_snd (memoryOk_mixCheck h) (by assumption)))

theorem memoryOk_systemWait {s t : State} {x k f feats} (h : s.MemoryOk) (e : systemWait s x k f feats = some t) :
    t.MemoryOk := by
  unfold systemWait at e
  dsimp only at e
  split at e
  · split at e
    · exact Option.some.inj e ▸ memoryOk_deselect (memoryOk_drainCourse h)
    · cases e
  · cases e

theorem memoryOk_execSt {k f s} (h : State.MemoryOk s) : OutOk (execSt k f s) :=
  memoryOk_issue h (fun _ => memoryOk_getD (memoryOk_finishLanes h (fun _ _ h1 => memoryOk_placed h1 (fun _ _ h2 =>
    memoryOk_storeAt h2))) (fun _ e => memoryOk_systemWait (h) e))

theorem memoryOk_fenceAt {s x ns order scope} (h : State.MemoryOk s) : (fenceAt s x ns order scope).MemoryOk := by
  unfold fenceAt
  dsimp only
  split
  · split
    · split
      · exact memoryOk_withFields (memoryOk_drainCourse h) rfl
      · exact memoryOk_drainCourse h
    · split
      · exact memoryOk_withFields h rfl
      · exact h
  · split
    · split
      · exact memoryOk_withFields (memoryOk_acquireAt (memoryOk_drainCourse h)) rfl
      · exact memoryOk_acquireAt (memoryOk_drainCourse h)
    · split
      · exact memoryOk_withFields (memoryOk_acquireAt h) rfl
      · exact memoryOk_acquireAt h

theorem memoryOk_settleFences {s} (h : State.MemoryOk s) : (settleFences s).MemoryOk := by
  unfold settleFences
  split
  · exact h
  · refine memoryOk_foldl (memoryOk_withFields h rfl) ?_
    intro _ _ h1
    split
    · exact memoryOk_clearL1 h1
    · exact h1

theorem memoryOk_enterRing {s p} (h : State.MemoryOk s) : (enterRing s p).MemoryOk := by
  unfold enterRing
  dsimp only
  split
  · exact h
  · split
    · exact h
    · exact memoryOk_post (memoryOk_updQueue (memoryOk_paid h (fun _ h1 => memoryOk_applyWrites h1)))

theorem memoryOk_flushPosts {s} (h : State.MemoryOk s) : (flushPosts s).MemoryOk := by
  unfold flushPosts
  split
  · exact h
  · exact memoryOk_foldl (memoryOk_withFields h rfl) (fun _ _ h1 => memoryOk_enterRing h1)

theorem memoryOk_execFence {k f s} (h : State.MemoryOk s) : OutOk (execFence k f s) := by
  unfold execFence
  dsimp only
  refine memoryOk_issue h ?_
  intro _
  refine memoryOk_finishEffect h ?_
  intro _ _ h1
  split
  · exact h1
  · exact memoryOk_fenceAt h1

theorem memoryOk_quietPlaces {s x n a need} (h : State.MemoryOk s) : (quietPlaces s x n a need).2.MemoryOk := by
  unfold quietPlaces
  dsimp only
  refine memoryOk_foldl_snd h ?_
  intro _ _ h1
  dsimp only
  exact memoryOk_translate h1

theorem memoryOk_prefLane {f x s n} (h : State.MemoryOk s) : (prefLane f x s n).MemoryOk := by
  unfold prefLane
  dsimp only
  split
  · split
    · refine memoryOk_foldl (memoryOk_quietPlaces h) ?_
      intro _ _ h1
      split
      · exact memoryOk_fillL1 h1
      · exact memoryOk_l2Access h1
    · exact memoryOk_quietPlaces h
  · exact h

theorem memoryOk_execPref {k f s} (h : State.MemoryOk s) : OutOk (execPref k f s) :=
  memoryOk_issue h (fun _ => memoryOk_finishEffect h (fun _ _ h1 => memoryOk_foldl h1 (fun _ _ h2 => memoryOk_prefLane h2)))

theorem memoryOk_cctlLane {f x s n} (h : State.MemoryOk s) : (cctlLane f x s n).MemoryOk := by
  unfold cctlLane
  split
  · exact memoryOk_clearL1 h
  split
  next ps sp e =>
  have hp : sp.MemoryOk := by
    revert e
    split
    · exact of_snd (memoryOk_quietPlaces h)
    · exact of_snd h
  split
  · split <;> [exact hp; exact memoryOk_clearL1 hp]
  · extract_lets sd
    have hd : sd.MemoryOk := by unfold sd; split <;> [exact memoryOk_drainCourse hp; exact hp]
    split <;> [exact memoryOk_l2Evict hd; exact memoryOk_setCore hd rfl]
  · exact hp

theorem memoryOk_execCctl {k f s} (h : State.MemoryOk s) : OutOk (execCctl k f s) :=
  memoryOk_issue h (fun _ => memoryOk_finishEffect h (fun _ _ h1 => memoryOk_foldl h1 (fun _ _ h2 => memoryOk_cctlLane h2)))

theorem memoryOk_probeTraffic {x f s n} (h : State.MemoryOk s) : (probeTraffic x f s n).MemoryOk := by
  unfold probeTraffic
  dsimp only
  split
  · split
    · split
      · exact h
      · exact memoryOk_walkTraffic h
    · split
      · exact h
      · exact memoryOk_walkTraffic h
  · exact h

theorem memoryOk_execProbe {k f s} (h : State.MemoryOk s) : OutOk (execProbe k f s) :=
  memoryOk_issue h (fun _ => memoryOk_finishEffect h (fun _ _ h1 => memoryOk_deliver (memoryOk_foldl h1 (fun _ _ h2 =>
    memoryOk_probeTraffic h2))))

theorem memoryOk_execMapc {k f s} (h : State.MemoryOk s) : OutOk (execMapc k f s) :=
  memoryOk_issue h (fun _ => memoryOk_finishCompute (memoryOk_withFields h rfl))

theorem memoryOk_refill {s core now a} (h : State.MemoryOk s) : (RegWrite.refill s core now a).MemoryOk := by
  unfold RegWrite.refill
  split
  · split
    · exact memoryOk_foldl h (fun _ _ h1 => memoryOk_keepL1 h1)
    · exact h
  · exact h

theorem memoryOk_stepLong {s g c i} (h : State.MemoryOk s) : (stepLong s g c i).MemoryOk := by
  unfold stepLong
  dsimp only
  split
  · exact h
  · split
    · exact h
    · split
      · exact memoryOk_post h
      · split
        · exact memoryOk_finishLong (memoryOk_updCourse (memoryOk_foldl (memoryOk_takeFree (memoryOk_takeFree h)) (fun _ _ h1
            => memoryOk_refill h1)))
        · exact memoryOk_post (memoryOk_updCourse (memoryOk_applyRegs (memoryOk_foldl (memoryOk_takeFree (memoryOk_takeFree h))
            (fun _ _ h1 => memoryOk_refill h1))))

theorem memoryOk_execStoreAcceptedAtHome {grp course s} (h : State.MemoryOk s) : OutOk (execStoreAcceptedAtHome grp course s) :=
  memoryOk_next (memoryOk_acceptOne h)

theorem memoryOk_execLaneReplay {grp course lane s} (h : State.MemoryOk s) : OutOk (execLaneReplay grp course lane s) := by
  unfold execLaneReplay
  split
  · split
    · exact memoryOk_next (memoryOk_updCourse h)
    · exact memoryOk_next h
  · exact memoryOk_next h

/-! ### Machine/Atomics.lean -/

theorem memoryOk_atomLogged {k kind f v n s p} (h : State.MemoryOk s) : (atomLogged k kind f v n s p).2.MemoryOk := by
  unfold atomLogged
  dsimp only
  split
  · exact of_snd (memoryOk_mixCheck h) (by assumption)
  · split
    · exact h
    · dsimp only
      exact memoryOk_setTx (memoryOk_txFill (of_snd (memoryOk_mixCheck h) (by assumption)))

theorem memoryOk_atomDrain {s v n f p} (h : State.MemoryOk s) : (atomDrain s v n f p).MemoryOk := by
  unfold atomDrain
  split
  · exact memoryOk_drainCourse h
  · exact h

theorem memoryOk_atomLane {k kind f v n a s ps} (h : State.MemoryOk s) : (atomLane k kind f v n a s ps).2.MemoryOk := by
  unfold atomLane
  split
  · exact h
  extract_lets g outside
  split
  · exact h
  split
  · exact memoryOk_atomLogged h
  split
  · exact h
  split
  · exact h
  split
  · exact h
  split
  next e => exact of_snd (memoryOk_mixCheck h) e
  next sm e =>
    have hm : sm.MemoryOk := of_snd (memoryOk_mixCheck h) e
    split
    · exact memoryOk_holdEntry (memoryOk_drainCourse hm)
    · extract_lets sd
      have hd : sd.MemoryOk := memoryOk_atomDrain hm
      split
      next old sa ea =>
      extract_lets sk sq
      have hk : sk.MemoryOk := memoryOk_markSectors (of_snd (memoryOk_atomAt hd) ea)
      show sq.MemoryOk
      unfold sq
      split <;> [exact memoryOk_acquireAt hk; exact hk]

theorem memoryOk_atomExec {kind k f s} (h : State.MemoryOk s) : OutOk (atomExec kind k f s) :=
  memoryOk_issue h (fun _ => memoryOk_getD (memoryOk_finishLanes h (fun _ _ h1 => memoryOk_placed h1 (fun _ _ h2 =>
    memoryOk_atomLane h2))) (fun _ e => memoryOk_systemWait (h) e))

theorem memoryOk_execCas {k f s} (h : State.MemoryOk s) : OutOk (execCas k f s) := memoryOk_atomExec h
theorem memoryOk_execAtomAdd {k f s} (h : State.MemoryOk s) : OutOk (execAtomAdd k f s) := memoryOk_atomExec h
theorem memoryOk_execAtomMin {k f s} (h : State.MemoryOk s) : OutOk (execAtomMin k f s) := memoryOk_atomExec h
theorem memoryOk_execAtomMax {k f s} (h : State.MemoryOk s) : OutOk (execAtomMax k f s) := memoryOk_atomExec h
theorem memoryOk_execAtomAnd {k f s} (h : State.MemoryOk s) : OutOk (execAtomAnd k f s) := memoryOk_atomExec h
theorem memoryOk_execAtomOr {k f s} (h : State.MemoryOk s) : OutOk (execAtomOr k f s) := memoryOk_atomExec h
theorem memoryOk_execAtomXor {k f s} (h : State.MemoryOk s) : OutOk (execAtomXor k f s) := memoryOk_atomExec h
theorem memoryOk_execAtomXchg {k f s} (h : State.MemoryOk s) : OutOk (execAtomXchg k f s) := memoryOk_atomExec h
theorem memoryOk_execRedAdd {k f s} (h : State.MemoryOk s) : OutOk (execRedAdd k f s) := memoryOk_atomExec h
theorem memoryOk_execRedMin {k f s} (h : State.MemoryOk s) : OutOk (execRedMin k f s) := memoryOk_atomExec h
theorem memoryOk_execRedMax {k f s} (h : State.MemoryOk s) : OutOk (execRedMax k f s) := memoryOk_atomExec h
theorem memoryOk_execRedAnd {k f s} (h : State.MemoryOk s) : OutOk (execRedAnd k f s) := memoryOk_atomExec h
theorem memoryOk_execRedOr {k f s} (h : State.MemoryOk s) : OutOk (execRedOr k f s) := memoryOk_atomExec h
theorem memoryOk_execRedXor {k f s} (h : State.MemoryOk s) : OutOk (execRedXor k f s) := memoryOk_atomExec h

/-! ### Machine/Barriers.lean -/

theorem memoryOk_updBarrier {s g i f} (h : State.MemoryOk s) : (s.updBarrier g i f).MemoryOk :=
  memoryOk_updGroup h (fun _ => rfl)

theorem memoryOk_barrierTest {s g i} (h : State.MemoryOk s) : (barrierTest s g i).MemoryOk := by
  unfold barrierTest
  dsimp only
  split
  · exact h
  · split
    · exact memoryOk_updGroup (memoryOk_updBarrier h) (fun _ => rfl)
    · exact h

theorem memoryOk_testDue {s g i} (h : State.MemoryOk s) : (testDue s g i).MemoryOk := memoryOk_updBarrier h

theorem memoryOk_settleGroup {s g grp} (h : State.MemoryOk s) : (settleGroup s g grp).MemoryOk := by
  unfold settleGroup
  refine memoryOk_foldl h ?_
  intro _ _ h1
  split
  · exact memoryOk_barrierTest (memoryOk_updBarrier h1)
  · exact h1

theorem memoryOk_settleBarriers {s} (h : State.MemoryOk s) : (settleBarriers s).MemoryOk := by
  unfold settleBarriers
  refine memoryOk_foldl h ?_
  intro _ _ h1
  split
  · exact memoryOk_settleGroup h1
  · exact h1

theorem memoryOk_endCycle {s} (h : State.MemoryOk s) : (endCycle s).MemoryOk :=
  memoryOk_withFields (memoryOk_settleBarriers h) rfl

theorem memoryOk_countSector {s g i} (h : State.MemoryOk s) : (countSector s g i).MemoryOk := by
  unfold countSector
  dsimp only
  refine memoryOk_updBarrier ?_
  split
  · exact memoryOk_endCycle h
  · exact h

theorem memoryOk_execBinit {k f s} (h : State.MemoryOk s) : OutOk (execBinit k f s) := by
  unfold execBinit
  dsimp only
  refine memoryOk_issue h ?_
  intro _
  refine memoryOk_finishEffect h ?_
  intro _ _ h1
  split
  · exact h1
  · exact memoryOk_testDue (memoryOk_updBarrier h1)

theorem memoryOk_arriveAt {s x bar} (h : State.MemoryOk s) : (arriveAt s x bar).MemoryOk :=
  memoryOk_updBarrier (memoryOk_drainCourse h)

theorem memoryOk_execBarr {k f s} (h : State.MemoryOk s) : OutOk (execBarr k f s) := by
  unfold execBarr
  dsimp only
  refine memoryOk_issue h ?_
  intro _
  refine memoryOk_finishEffect h ?_
  intro _ _ h1
  split
  · exact h1
  · refine memoryOk_testDue (memoryOk_arriveAt ?_)
    split
    · exact memoryOk_applyRegs h1
    · exact h1

theorem memoryOk_waitLanes {s x bar phase m token} (h : State.MemoryOk s) : (waitLanes s x bar phase m token).MemoryOk :=
  memoryOk_updCourse h

theorem memoryOk_execBwait {k f s} (h : State.MemoryOk s) : OutOk (execBwait k f s) :=
  memoryOk_issue h (fun _ => memoryOk_finishEffect h (fun _ _ h1 => memoryOk_waitLanes h1))

theorem memoryOk_execBarw {k f s} (h : State.MemoryOk s) : OutOk (execBarw k f s) := by
  unfold execBarw
  dsimp only
  refine memoryOk_issue h ?_
  intro _
  refine memoryOk_finishEffect h ?_
  intro _ _ h1
  split
  · exact h1
  · exact memoryOk_testDue (memoryOk_waitLanes (memoryOk_arriveAt h1))

theorem memoryOk_execBexp {k f s} (h : State.MemoryOk s) : OutOk (execBexp k f s) := by
  unfold execBexp
  dsimp only
  refine memoryOk_issue h ?_
  intro _
  refine memoryOk_finishEffect h ?_
  intro _ _ h1
  split
  · exact h1
  · exact memoryOk_testDue (memoryOk_updBarrier h1)

theorem memoryOk_trapWaiters {s g ws} (h : State.MemoryOk s) : (trapWaiters s g ws).MemoryOk :=
  memoryOk_trapMany (memoryOk_foldl h (fun _ _ h1 => memoryOk_updCourse h1))

theorem memoryOk_execBinv {k f s} (h : State.MemoryOk s) : OutOk (execBinv k f s) := by
  unfold execBinv
  dsimp only
  refine memoryOk_issue h ?_
  intro _
  refine memoryOk_finishEffect h ?_
  intro _ _ h1
  split
  · exact h1
  · exact memoryOk_trapWaiters (memoryOk_testDue (memoryOk_updBarrier h1))

/-! ### Machine/Fetch.lean -/

theorem memoryOk_dropLine {s core base ctx} (h : State.MemoryOk s) : (dropLine s core base ctx).MemoryOk :=
  memoryOk_setCore h rfl

theorem memoryOk_trapLanes {s x bad t} (h : State.MemoryOk s) : (trapLanes s x bad t).MemoryOk :=
  memoryOk_deselect (memoryOk_raiseTraps (memoryOk_advance h))

theorem memoryOk_chargeHostWrite {s i} (h : State.MemoryOk s) : (chargeHostWrite s i).MemoryOk := by
  unfold chargeHostWrite
  split
  · exact memoryOk_paid h (fun _ h1 => memoryOk_linkBytes h1)
  · exact h

theorem memoryOk_joinCycle {s : State} {g c} (h : s.MemoryOk) : (joinCycle s g c).MemoryOk := by
  unfold joinCycle State.takeFree
  dsimp only
  refine memoryOk_withFields (s := if _ then _ else _) ?_ rfl
  split
  · exact memoryOk_endCycle (memoryOk_withFields h rfl)
  · exact memoryOk_withFields h rfl

/-! ### Machine/Code.lean -/

theorem memoryOk_fetchTranslate {s g line} (h : State.MemoryOk s) : (fetchTranslate s g line).2.MemoryOk := by
  unfold fetchTranslate
  split <;> exact of_snd (memoryOk_translateList h) (by assumption)

theorem memoryOk_fetchPlace {s g line} (h : State.MemoryOk s) : (fetchPlace s g line).2.MemoryOk := by
  unfold fetchPlace
  split
  · split
    · dsimp only
      exact memoryOk_post (memoryOk_updObj h)
    · exact h
    · exact h
    · exact memoryOk_fetchTranslate h
  · exact memoryOk_fetchTranslate h

theorem memoryOk_keepLine {s core base ctx l} (h : State.MemoryOk s) : (keepLine s core base ctx l).MemoryOk :=
  memoryOk_setCore (memoryOk_dropLine h) rfl

theorem memoryOk_targetMark {s x t} (h : State.MemoryOk s) : (targetMark s x t).2.MemoryOk := by
  unfold targetMark
  dsimp only
  split
  · exact h
  · split
    · split
      · exact of_snd (memoryOk_fetchPlace h) (by assumption)
      · dsimp only
        split
        · exact memoryOk_readAt (of_snd (memoryOk_fetchPlace h) (by assumption))
        · exact memoryOk_keepLine (memoryOk_readAt (of_snd (memoryOk_fetchPlace h) (by assumption)))
    · exact of_snd (memoryOk_fetchPlace h) (by assumption)
    · exact of_snd (memoryOk_fetchPlace h) (by assumption)

end Sys2Proof.Machine
end

section
/-!
PROOFS. Windows and the matrix queue keep the canonical form of every memory.
-/

namespace Sys2Proof.Machine

/-! ### Machine/Windows.lean -/

theorem memoryOk_settleWindow {s g i} (h : State.MemoryOk s) : (settleWindow s g i).MemoryOk := by
  unfold settleWindow
  dsimp only
  split
  · exact h
  · split
    · split
      · split
        · exact memoryOk_updCourse (memoryOk_updWindow h)
        · exact memoryOk_updWindow h
      · exact memoryOk_updWindow h
    · exact h

theorem memoryOk_arriveSector {s g i k data poison err} (h : State.MemoryOk s) :
    (arriveSector s g i k data poison err).MemoryOk := by
  unfold arriveSector
  dsimp only
  split
  · exact h
  · split
    · exact h
    · refine memoryOk_postFirst (memoryOk_wakeAll ?_)
      split
      · exact memoryOk_countSector (memoryOk_updWindow (memoryOk_setValid (memoryOk_applyWrite h)))
      · exact memoryOk_updWindow (memoryOk_setValid (memoryOk_applyWrite h))

theorem memoryOk_execWindowSectorArrival {grp win sector s} (h : State.MemoryOk s) :
    OutOk (execWindowSectorArrival grp win sector s) := by
  unfold execWindowSectorArrival
  dsimp only
  split
  · exact memoryOk_next h
  · split
    · split
      · exact memoryOk_next (memoryOk_arriveSector h)
      · split
        · split
          · exact memoryOk_next (memoryOk_post (of_snd (memoryOk_sectorPlaces h) (by assumption)))
          · exact memoryOk_next (memoryOk_arriveSector (memoryOk_readSeen (of_snd (memoryOk_sectorPlaces h) (by assumption))))
        · exact memoryOk_next (memoryOk_arriveSector (of_snd (memoryOk_sectorPlaces h) (by assumption)))
        · exact memoryOk_next (memoryOk_postFirst h)
    · exact memoryOk_next (memoryOk_wakeAll (memoryOk_settleWindow h))

theorem memoryOk_execWindowSectorFault {grp win sector s} (h : State.MemoryOk s) :
    OutOk (execWindowSectorFault grp win sector s) := by
  unfold execWindowSectorFault
  dsimp only
  split
  · exact memoryOk_next h
  · split
    · split
      · exact memoryOk_next h
      · split
        · exact memoryOk_next (memoryOk_settleWindow (memoryOk_updWindow (of_snd (memoryOk_sectorPlaces h) (by assumption))))
        · exact memoryOk_next (memoryOk_postFirst h)
    · exact memoryOk_next h

theorem memoryOk_flushPage {s g w v} (h : State.MemoryOk s) : (flushPage s g w v).2.MemoryOk := by
  unfold flushPage
  split
  · exact h
  · split <;> exact of_snd (memoryOk_translateList h) (by assumption)

theorem memoryOk_flushPages {g w vs} {s : State} (h : s.MemoryOk) : (flushPages g w vs s).2.MemoryOk := by
  induction vs generalizing s with
  | nil => exact h
  | cons v vs ih => exact ih (memoryOk_flushPage h)

theorem memoryOk_flushSector {s g w k} (h : State.MemoryOk s) : (flushSector s g w k).2.MemoryOk := by
  unfold flushSector
  dsimp only
  split
  · split
    · dsimp only
      exact memoryOk_flushPages h
    · dsimp only
      exact memoryOk_flushPages h
  · exact h

theorem memoryOk_flushSectors {g w ks} {s : State} (h : s.MemoryOk) : (flushSectors g w ks s).2.MemoryOk := by
  induction ks generalizing s with
  | nil => exact h
  | cons k ks ih => exact ih (memoryOk_flushSector h)

theorem memoryOk_flushWrite {g course lane s f} (h : State.MemoryOk s) : (flushWrite g course lane s f).MemoryOk := by
  unfold flushWrite
  dsimp only
  split
  · exact h
  · split
    · exact memoryOk_holdEntry h
    · exact memoryOk_homeWrite (memoryOk_engineRecord h)

theorem memoryOk_holdFlush {s : State} {g win course lane token ws} (h : s.MemoryOk) :
    (holdFlush s g win course lane token ws).MemoryOk := by
  unfold holdFlush
  dsimp only
  split
  · exact h
  next hx =>
    split
    · exact memoryOk_overflowGroup h
    · exact memoryOk_setGroup h (wf_savedScratch h hx :)

theorem memoryOk_endFlush {s grp win og oc token} (h : State.MemoryOk s) : (endFlush s grp win og oc token).MemoryOk :=
  memoryOk_updCourse (memoryOk_updWindow h)

theorem memoryOk_flushStep {s grp win} (h : State.MemoryOk s) : (flushStep s grp win).MemoryOk := by
  unfold flushStep
  split
  · exact h
  extract_lets w
  split
  · split
    next r sr e =>
    have hr : sr.MemoryOk := of_snd (memoryOk_flushSectors h) e
    extract_lets left ws sw su
    have hw : sw.MemoryOk := by
      unfold sw
      split
      · exact memoryOk_foldl hr (fun _ _ h1 => memoryOk_flushWrite h1)
      · split <;> [exact memoryOk_holdFlush hr; exact hr]
    have hu : su.MemoryOk := memoryOk_updWindow hw
    split <;> [exact memoryOk_endFlush hu; exact hu]
  · exact h

theorem memoryOk_execWflushComplete {grp win s} (h : State.MemoryOk s) : OutOk (execWflushComplete grp win s) :=
  memoryOk_next (memoryOk_flushStep h)

theorem memoryOk_unbind {s x g i} (h : State.MemoryOk s) : (unbind s x g i).MemoryOk := by
  unfold unbind
  dsimp only
  refine memoryOk_updWindow ?_
  split
  · exact memoryOk_setValid h
  · exact h

theorem memoryOk_bindWindow {s x f} (h : State.MemoryOk s) : (bindWindow s x f).MemoryOk :=
  memoryOk_wakeAll (memoryOk_setValid (memoryOk_updWindow (memoryOk_unbind h)))

theorem memoryOk_execWbind {k f s} (h : State.MemoryOk s) : OutOk (execWbind k f s) := by
  refine memoryOk_issue h fun x => ?_
  extract_lets act sd ss st hold
  have hd : sd.MemoryOk := by unfold sd; split <;> [exact h; exact memoryOk_drainCourse h]
  split
  · exact memoryOk_deselect hd
  split
  · exact memoryOk_deselect (memoryOk_updCourse (memoryOk_holdLanes (memoryOk_touchAll hd)))
  · refine memoryOk_finishEffect hd fun _ _ h1 => ?_
    split <;> [exact h1; exact memoryOk_bindWindow h1]

theorem memoryOk_execWtouch {k f s} (h : State.MemoryOk s) : OutOk (execWtouch k f s) := by
  unfold execWtouch
  dsimp only
  refine memoryOk_issue h ?_
  intro _
  split
  · exact memoryOk_deselect h
  · refine memoryOk_finishEffect h ?_
    intro _ _ h1
    split
    · exact memoryOk_startFill h1
    · exact h1

theorem memoryOk_execWstat {k f s} (h : State.MemoryOk s) : OutOk (execWstat k f s) :=
  memoryOk_issue h (fun _ => memoryOk_finishCompute h)

theorem memoryOk_startFlush {s x i lane} (h : State.MemoryOk s) : (startFlush s x i lane).MemoryOk := by
  unfold startFlush
  dsimp only
  split
  · exact memoryOk_flushStep (memoryOk_post (memoryOk_updWindow (memoryOk_updCourse (memoryOk_newToken (memoryOk_drainCourse
      h)))))
  · exact memoryOk_post (memoryOk_updWindow (memoryOk_updCourse (memoryOk_newToken (memoryOk_drainCourse h))))

theorem memoryOk_flushCheck {s x w} (h : State.MemoryOk s) : (flushCheck s x w).2.MemoryOk := by
  unfold flushCheck
  split
  · split <;> exact of_snd (memoryOk_translateList h) (by assumption)
  · exact h

theorem memoryOk_flushStop {s x w} (h : State.MemoryOk s) : (flushStop s x w).2.MemoryOk := by
  unfold flushStop
  dsimp only
  split
  · dsimp only
    exact memoryOk_flushCheck h
  · dsimp only
    exact memoryOk_flushCheck h
  · dsimp only
    exact memoryOk_flushCheck h

theorem memoryOk_execWflush {k f s} (h : State.MemoryOk s) : OutOk (execWflush k f s) := by
  unfold execWflush
  dsimp only
  refine memoryOk_issue h ?_
  intro _
  split
  · exact memoryOk_finishEffect h (fun _ _ h1 => h1)
  · split
    · exact memoryOk_deselect h
    · split
      · exact memoryOk_finishLanes (of_snd (memoryOk_flushStop (memoryOk_drainCourse h)) (by assumption)) (fun _ _ h1 => h1)
      · exact memoryOk_finishLanes (of_snd (memoryOk_flushStop (memoryOk_drainCourse h)) (by assumption)) (fun _ _ h1 => h1)
      · exact memoryOk_finishEffect (of_snd (memoryOk_flushStop (memoryOk_drainCourse h)) (by assumption)) (fun _ _ h1 =>
          memoryOk_startFlush h1)

theorem memoryOk_execCntwait {k f s} (h : State.MemoryOk s) : OutOk (execCntwait k f s) := by
  unfold execCntwait
  refine memoryOk_issue h ?_
  intro _
  split
  · exact memoryOk_deselect h
  · exact memoryOk_finishEffect h (fun _ _ h1 => h1)

/-! ### Machine/Matrix.lean -/

theorem memoryOk_chargeMac {s x e} (h : State.MemoryOk s) : (chargeMac s x e).MemoryOk := by
  unfold chargeMac
  split
  · exact memoryOk_charge h
  · exact memoryOk_charge h
  · exact h

theorem memoryOk_matJoin {s x k op f ok} (h : State.MemoryOk s) : (matJoin s x k op f ok).MemoryOk := by
  unfold matJoin
  dsimp only
  refine memoryOk_post (memoryOk_setCore ?_ rfl)
  refine memoryOk_chargeMac (memoryOk_updCourse ?_)
  refine memoryOk_newToken ?_
  split
  · exact memoryOk_drainCourse h
  · exact h

theorem memoryOk_matExec {op k f s} (h : State.MemoryOk s) : OutOk (matExec op k f s) := by
  unfold matExec
  dsimp only
  refine memoryOk_issue h ?_
  intro _
  split
  · exact memoryOk_deselect h
  · refine memoryOk_finishEffect h ?_
    intro _ _ h1
    split
    · exact h1
    · refine memoryOk_matJoin ?_
      split
      · exact memoryOk_startFill h1
      · exact h1

theorem memoryOk_execMma {k f s} (h : State.MemoryOk s) : OutOk (execMma k f s) := memoryOk_matExec h
theorem memoryOk_execMmaz {k f s} (h : State.MemoryOk s) : OutOk (execMmaz k f s) := memoryOk_matExec h
theorem memoryOk_execZld {k f s} (h : State.MemoryOk s) : OutOk (execZld k f s) := memoryOk_matExec h
theorem memoryOk_execZst {k f s} (h : State.MemoryOk s) : OutOk (execZst k f s) := memoryOk_matExec h
theorem memoryOk_execZmov {k f s} (h : State.MemoryOk s) : OutOk (execZmov k f s) := memoryOk_matExec h
theorem memoryOk_execZrmax {k f s} (h : State.MemoryOk s) : OutOk (execZrmax k f s) := memoryOk_matExec h
theorem memoryOk_execZrscale {k f s} (h : State.MemoryOk s) : OutOk (execZrscale k f s) := memoryOk_matExec h

theorem memoryOk_execMatrixEntryStart {core s} (h : State.MemoryOk s) : OutOk (execMatrixEntryStart core s) := by
  unfold execMatrixEntryStart
  dsimp only
  split
  · exact memoryOk_next h
  · split
    · exact memoryOk_next h
    · split
      · exact memoryOk_next (memoryOk_post h)
      · exact memoryOk_next (memoryOk_post (memoryOk_setCore h rfl))

theorem memoryOk_setTile {s g i t} (h : State.MemoryOk s) : (s.setTile g i t).MemoryOk := memoryOk_updGroup h (fun _ => rfl)

theorem memoryOk_mmaTile {s e a b g col} (h : State.MemoryOk s) : (mmaTile s e a b g col).MemoryOk := by
  unfold mmaTile
  dsimp only
  split
  · exact h
  · split
    · exact memoryOk_setTile (memoryOk_setTile h)
    · exact memoryOk_setTile h

theorem memoryOk_matResult {s core e} (h : State.MemoryOk s) : (matResult s core e).MemoryOk := by
  unfold matResult
  dsimp only
  split
  · exact h
  · split
    · exact memoryOk_setTile h
    · exact memoryOk_applyWrites h
    · exact memoryOk_applyRegs h
    · exact memoryOk_applyRegs h
    · exact memoryOk_setTile h
    · split
      · split
        · exact memoryOk_mmaTile (memoryOk_mmaTile h)
        · exact memoryOk_mmaTile h
      · exact memoryOk_mmaTile h
    · exact h

theorem memoryOk_matRelease {s e} (h : State.MemoryOk s) : (matRelease s e).MemoryOk := memoryOk_updCourse h

theorem memoryOk_execMatrixEntryRetire {core s} (h : State.MemoryOk s) : OutOk (execMatrixEntryRetire core s) := by
  unfold execMatrixEntryRetire
  dsimp only
  split
  · exact memoryOk_next h
  · split
    · exact memoryOk_next (memoryOk_post (memoryOk_post (memoryOk_setCore (memoryOk_matRelease (memoryOk_matResult h)) rfl)))
    · exact memoryOk_next h

theorem memoryOk_readAtDrop {s core g i} (h : State.MemoryOk s) : (readAtDrop s core g i).MemoryOk := by
  unfold readAtDrop
  dsimp only
  split
  · exact h
  · split
    · exact h
    · exact memoryOk_setCore h rfl

theorem memoryOk_dropWindow {s x i} (h : State.MemoryOk s) : (dropWindow s x i).MemoryOk := by
  unfold dropWindow
  dsimp only
  refine memoryOk_wakeAll ?_
  split
  · exact memoryOk_updCourse (memoryOk_unbind (memoryOk_readAtDrop h))
  · exact memoryOk_unbind (memoryOk_readAtDrop h)

theorem memoryOk_execWdrop {k f s} (h : State.MemoryOk s) : OutOk (execWdrop k f s) := by
  unfold execWdrop
  dsimp only
  refine memoryOk_issue h ?_
  intro _
  refine memoryOk_finishEffect h ?_
  intro _ _ h1
  split
  · exact h1
  · exact memoryOk_dropWindow h1

/-! ### Machine/Held.lean -/

theorem memoryOk_commitEntry {core s hdl} (h : State.MemoryOk s) : (commitEntry core s hdl).MemoryOk := by
  unfold commitEntry
  split
  · exact memoryOk_homeWrite h
  · exact memoryOk_atomAt h

theorem memoryOk_commitHeld {s : State} {g} {p : Held → Bool} (h : s.MemoryOk) : (commitHeld s g p).MemoryOk := by
  unfold commitHeld
  dsimp only
  split
  · exact h
  next hx =>
    exact memoryOk_paid (memoryOk_setGroup h (wf_savedScratch h hx :))
      fun t h1 => memoryOk_foldl h1 fun t a h2 => memoryOk_commitEntry h2

end Sys2Proof.Machine
end

section
/-!
PROOFS. The launcher, control flow and transactions keep the canonical form of every memory.
-/

namespace Sys2Proof.Machine

/-! ### Machine/Launcher.lean -/

theorem memoryOk_giveRun {s : State} {li g c n t size} {r : Word × State} (h : s.MemoryOk)
    (e : giveRun s li g c n t size = some r) : r.2.MemoryOk := by
  unfold giveRun at e
  split at e
  · cases e
  · split at e
    · cases e
    · split at e
      · cases e
      · exact Option.some.inj e ▸ memoryOk_updLane (memoryOk_setLaunch h)

theorem memoryOk_grantRequests {li drain rank qs} {s : State} (h : s.MemoryOk) :
    (grantRequests li drain rank qs s).MemoryOk := by
  induction qs generalizing s with
  | nil => exact h
  | cons q qs ih =>
    unfold grantRequests
    split
    · exact h
    · split
      · split
        · split
          next hr => exact ih (memoryOk_updLane (memoryOk_updLaunch (memoryOk_giveRun h hr)))
          · exact h
        · exact h
      · exact h

theorem memoryOk_grantWaiting {s li drain rank} (h : State.MemoryOk s) : (grantWaiting s li drain rank).MemoryOk := by
  unfold grantWaiting
  split
  · exact h
  · split
    · exact h
    · exact memoryOk_grantRequests h

theorem memoryOk_reserveFor {s : State} {g pbase} (h : s.MemoryOk) : (reserveFor s g pbase).MemoryOk := by
  unfold reserveFor State.takeFree
  dsimp only
  split
  · exact h
  next x hx =>
    have hw : x.savedScratch.wf = true := wf_savedScratch h hx
    split
    · exact h
    · split
      · split
        · exact memoryOk_setGroup (memoryOk_updCtx (memoryOk_withFields h rfl)) hw
        · exact memoryOk_withFields h rfl
      · exact h

theorem memoryOk_resetDeficits {s p} (h : State.MemoryOk s) : (resetDeficits s p).MemoryOk := by
  unfold resetDeficits
  dsimp only
  exact memoryOk_updPart h

theorem memoryOk_waitAgain {s hdl} (h : State.MemoryOk s) : (waitAgain s hdl).MemoryOk := by
  unfold waitAgain
  split
  · exact memoryOk_updGroup (memoryOk_resetDeficits h) (fun _ => rfl)
  · exact h

theorem savedScratch_newGroup (s : State) (li : Nat) (l : Launch) (o : Obj) (t : Nat) (nd : Node) (k : Kernel) (recs :
    List Record)
    (m : Mode) (sid : Option Nat) (ssz rank : Nat) (extra : Bool) :
    (newGroup s li l o t nd k recs m sid ssz rank extra).savedScratch.wf = true := wf_empty

theorem memoryOk_createGroup {s : State} {li t recs set extra} (h : s.MemoryOk) :
    (createGroup s li t recs set extra).MemoryOk := by
  unfold createGroup
  split
  · exact h
  next l _ =>
    have hd := memoryOk_resetDeficits (p := l.part) h
    split
    · exact h
    · split
      · exact h
      · split
        · exact h
        · refine memoryOk_postOnce (memoryOk_updLaunch ?_)
          generalize resetDeficits s l.part = u at hd ⊢
          split
          · refine memoryOk_reserveFor (memoryOk_reserveFor ?_)
            refine memoryOk_withFields (s := State.setGroup (State.setGroup u _ _) _ _) ?_ rfl
            exact memoryOk_setGroup (memoryOk_setGroup hd (savedScratch_newGroup ..)) (savedScratch_newGroup ..)
          · refine memoryOk_reserveFor ?_
            refine memoryOk_withFields (s := State.setGroup u _ _) ?_ rfl
            exact memoryOk_setGroup hd (savedScratch_newGroup ..)

theorem memoryOk_triggerNode {li drain rank s t} (h : State.MemoryOk s) : (triggerNode li drain rank s t).MemoryOk := by
  unfold triggerNode
  dsimp only
  split
  · exact h
  · split
    · exact h
    · split
      · exact h
      · split
        · exact memoryOk_createGroup h
        · exact h

theorem memoryOk_startTimers {li s} (h : State.MemoryOk s) : (startTimers li s).MemoryOk := by
  unfold startTimers
  split
  · exact h
  · split
    · exact h
    · refine memoryOk_foldl h ?_
      intro _ _ h1
      split
      · split
        · exact h1
        · refine memoryOk_foldl h1 ?_
          intro _ _ h2
          split
          · exact memoryOk_postOnce h2
          · exact h2
      · exact h1

theorem memoryOk_furtherGroup {s li root avoid} (h : State.MemoryOk s) : (furtherGroup s li root avoid).MemoryOk :=
  memoryOk_updGroup (memoryOk_updGroup (memoryOk_createGroup h) (fun _ => rfl)) (fun _ => rfl)

theorem memoryOk_replacePersistent {li s} (h : State.MemoryOk s) : (replacePersistent li s).MemoryOk := by
  unfold replacePersistent
  split
  · exact h
  · split
    · exact h
    · exact memoryOk_furtherGroup h

theorem memoryOk_resumeDrained {li s} (h : State.MemoryOk s) : (resumeDrained li s).MemoryOk := by
  unfold resumeDrained
  dsimp only
  split
  · exact h
  · split
    · exact h
    · split
      · exact h
      · exact memoryOk_postOnce (memoryOk_foldl h (fun _ _ h1 => memoryOk_waitAgain h1))

theorem memoryOk_launcherTriggers {s li drain rank} (h : State.MemoryOk s) : (launcherTriggers s li drain rank).MemoryOk := by
  unfold launcherTriggers
  dsimp only
  split
  · exact h
  · exact memoryOk_replacePersistent (memoryOk_foldl h (fun _ _ h1 => memoryOk_triggerNode h1))

theorem memoryOk_launcherPass {s li} (h : State.MemoryOk s) : (launcherPass s li).MemoryOk := by
  unfold launcherPass
  dsimp only
  split
  · exact h
  · split
    · exact h
    · split
      · exact memoryOk_postOnce (memoryOk_resumeDrained (memoryOk_startTimers (memoryOk_launcherTriggers (memoryOk_grantWaiting
          h))))
      · exact memoryOk_launchCheck (memoryOk_resumeDrained (memoryOk_startTimers (memoryOk_launcherTriggers
          (memoryOk_grantWaiting h))))

/-! ### Machine/Retire.lean -/

theorem memoryOk_finishGroup {s hdl g} (h : State.MemoryOk s) : (finishGroup s hdl g).MemoryOk :=
  memoryOk_noteSave (memoryOk_updGroup (memoryOk_releaseReserved (memoryOk_leaveCore (memoryOk_dropToken h))) (fun _ => rfl))

theorem memoryOk_reportRetire {s li publish drop} (h : State.MemoryOk s) : (reportRetire s li publish drop).MemoryOk :=
  memoryOk_updLaunch h

theorem memoryOk_lookAgain {s li} (h : State.MemoryOk s) : (lookAgain s li).MemoryOk :=
  memoryOk_postOnce (memoryOk_launcherPass h)

theorem memoryOk_countMismatch {s} (h : State.MemoryOk s) : (countMismatch s).MemoryOk := memoryOk_withFields h rfl
theorem memoryOk_markAvoid {s hdl g o} (h : State.MemoryOk s) : (markAvoid s hdl g o).MemoryOk := memoryOk_updLaunch h

theorem memoryOk_rerunPersistent {s g o} (h : State.MemoryOk s) : (rerunPersistent s g o).MemoryOk := by
  unfold rerunPersistent
  split
  · exact memoryOk_furtherGroup h
  · exact h

theorem memoryOk_retirePair {s first second a b} (h : State.MemoryOk s) : (retirePair s first second a b).MemoryOk := by
  unfold retirePair
  dsimp only
  split
  · exact memoryOk_reportRetire (memoryOk_finishGroup (memoryOk_finishGroup (memoryOk_commitHeld h)))
  · exact memoryOk_discardGroup (memoryOk_discardGroup (memoryOk_rerunPersistent (memoryOk_markAvoid (memoryOk_countMismatch
      h))))

theorem memoryOk_retireRevocable {s hdl g} (h : State.MemoryOk s) : (retireRevocable s hdl g).MemoryOk := by
  unfold retireRevocable
  dsimp only
  split
  · exact memoryOk_postOnce (memoryOk_updGroup (memoryOk_commitHeld h) (fun _ => rfl))
  · exact memoryOk_reportRetire (memoryOk_finishGroup (memoryOk_commitHeld h))

theorem memoryOk_retireNow {s t : State} {g} (h : s.MemoryOk) (e : retireNow s g = some t) : t.MemoryOk := by
  unfold retireNow at e
  dsimp only at e
  have hd := memoryOk_drainAll (g := g) h
  split at e
  · cases e
  · split at e
    · cases e
    · split at e
      · cases e
      · split at e
        · exact Option.some.inj e ▸ hd
        · split at e
          · exact Option.some.inj e ▸ memoryOk_reportRetire (memoryOk_finishGroup hd)
          · exact Option.some.inj e ▸ memoryOk_retireRevocable hd
          next second other _ =>
            have ho := memoryOk_drainAll (g := other) hd
            split at e
            · cases e
            · split at e
              · cases e
              · split at e
                · split at e
                  · exact Option.some.inj e ▸ ho
                  · rw [← Option.some.inj e]
                    split
                    · exact memoryOk_retirePair ho
                    · exact memoryOk_retirePair ho
                · cases e

theorem memoryOk_endLaunch {s li} (h : State.MemoryOk s) : (endLaunch s li).MemoryOk :=
  memoryOk_launchCheck (memoryOk_updLaunch h)

theorem memoryOk_execGroupRetire {grp s} (h : State.MemoryOk s) : OutOk (execGroupRetire grp s) := by
  unfold execGroupRetire
  split
  · exact memoryOk_next h
  · split
    · exact memoryOk_next h
    · split
      · exact memoryOk_next (memoryOk_lookAgain (memoryOk_retireNow (h) (by assumption)))
      · exact memoryOk_next (memoryOk_postOnce h)

/-! ### Machine/Control.lean -/

theorem memoryOk_commitHolder {s g c n} (h : State.MemoryOk s) : (commitHolder s g c n).MemoryOk := by
  unfold commitHolder
  dsimp only
  split
  · exact memoryOk_updLane (memoryOk_dropToken (memoryOk_drainCourse h))
  · exact memoryOk_drainCourse h

theorem memoryOk_add {a : Turns} {x token n} {s : State} {t : Turn} (h : s.MemoryOk) : (a.add x token n s t).1.MemoryOk := by
  cases t with
  | fall | go | hold => exact memoryOk_updLane h
  | wait => exact memoryOk_post (memoryOk_updLane h)
  | trap | abort => exact h

theorem memoryOk_runTurns {x token ns} {body : State → Nat → Turn × State} {a : State × Turns} (h : a.1.MemoryOk)
    (hb : ∀ t n, t.MemoryOk → (body t n).2.MemoryOk) : (runTurns x token body ns a).1.MemoryOk := by
  induction ns generalizing a with
  | nil => exact h
  | cons n ns ih => exact ih (memoryOk_add (hb a.1 n h))

theorem memoryOk_countFills {s g c token} (h : State.MemoryOk s) : (countFills s g c token).MemoryOk := memoryOk_updCourse h

theorem memoryOk_maskedBranch {s x k feats} (h : State.MemoryOk s) : (maskedBranch s x k feats).MemoryOk :=
  memoryOk_deselect (memoryOk_raiseTraps (memoryOk_advance h))

theorem memoryOk_finishBranch {s : State} {x k feats vregs} {body : State → Nat → List Cause → Turn × State} (h : s.MemoryOk)
    (hb : ∀ t n cs, t.MemoryOk → (body t n cs).2.MemoryOk) : (finishBranch s x k feats vregs body).1.MemoryOk := by
  unfold finishBranch State.newToken
  dsimp only
  split
  · exact memoryOk_maskedBranch (memoryOk_withFields h rfl)
  · generalize hr : runTurns x s.nextReq _ (laneList x.sel.mask) _ = r
    have hr : r.1.MemoryOk := by
      rw [← hr]
      refine memoryOk_runTurns (memoryOk_withFields h rfl) fun t n ht => ?_
      split
      · exact ht
      · split
        · exact ht
        · exact hb t n _ ht
    split
    · exact memoryOk_countFills (memoryOk_settleLanes hr)
    · exact memoryOk_settleLanes hr

theorem memoryOk_goOr {s : State} {t causes} {act : State → Word → Turn × State} (h : s.MemoryOk)
    (ha : ∀ u t, u.MemoryOk → (act u t).2.MemoryOk) : (goOr s t causes act).2.MemoryOk := by
  unfold goOr
  split
  · exact h
  · exact ha _ _ h
  · exact h

theorem memoryOk_branchTo {s : State} {x t causes} {act : State → Word → Turn × State} (h : s.MemoryOk)
    (ha : ∀ u t, u.MemoryOk → (act u t).2.MemoryOk) : (branchTo s x t causes act).2.MemoryOk := by
  unfold branchTo
  split
  · exact memoryOk_goOr h ha
  · split
    · exact memoryOk_goOr (of_snd (memoryOk_targetMark h) (by assumption)) ha
    · exact memoryOk_goOr (of_snd (memoryOk_targetMark h) (by assumption)) ha
    · exact of_snd (memoryOk_targetMark h) (by assumption)

theorem memoryOk_fillEntry {s x n i} (h : State.MemoryOk s) : (fillEntry s x n i).2.MemoryOk := by
  unfold fillEntry
  dsimp only
  split
  · exact h
  · split
    · exact of_snd (memoryOk_resolve h) (by assumption)
    · exact of_snd (memoryOk_resolve h) (by assumption)
    · dsimp only
      exact memoryOk_markSectors (memoryOk_loadPieces (of_snd (memoryOk_resolve h) (by assumption)))

theorem memoryOk_spillEntry {s : State} {x n i e} {act : State → Turn × State} (h : s.MemoryOk)
    (ha : ∀ t, t.MemoryOk → (act t).2.MemoryOk) : (spillEntry s x n i e act).2.MemoryOk := by
  unfold spillEntry
  dsimp only
  split
  · exact h
  · split
    · exact of_snd (memoryOk_resolve h) (by assumption)
    · exact of_snd (memoryOk_resolve h) (by assumption)
    · exact ha _ (memoryOk_pushStore (memoryOk_markSectors (of_snd (memoryOk_resolve h) (by assumption))))

theorem memoryOk_pushReturn {s x n ret t} (h : State.MemoryOk s) : (pushReturn s x n ret t).2.MemoryOk := by
  unfold pushReturn
  dsimp only
  split
  · refine memoryOk_spillEntry h ?_
    intro _ h1
    dsimp only
    exact memoryOk_updLane h1
  · dsimp only
    exact memoryOk_updLane h

theorem memoryOk_popReturn {s g c n below} (h : State.MemoryOk s) : (popReturn s g c n below).MemoryOk := memoryOk_updLane h

theorem memoryOk_retTx {s g c n d l} (h : State.MemoryOk s) : (retTx s g c n d l).MemoryOk := by
  unfold retTx
  split
  · exact memoryOk_commitHolder h
  · exact h

theorem memoryOk_retGo {x s n d l causes top made below} (h : State.MemoryOk s) :
    (retGo x s n d l causes top made below).2.MemoryOk := by
  unfold retGo
  split
  · exact h
  · split
    · dsimp only
      exact memoryOk_popReturn (memoryOk_retTx h)
    · exact h

theorem memoryOk_fillBelow {s : State} {x n d l} {r : Filled × State} (h : s.MemoryOk) (e : fillBelow s x n d l = some r) :
    r.2.MemoryOk := by
  unfold fillBelow at e
  split at e
  · exact Option.some.inj e ▸ memoryOk_fillEntry h
  · cases e

theorem memoryOk_retBelow {x} {s : State} {n d l top made} (h : s.MemoryOk) : (retBelow x s n d l top made).2.MemoryOk := by
  unfold retBelow
  dsimp only
  generalize (if made.isNone then entryCauses top else []) = known
  split
  · exact memoryOk_retGo h
  next hf => exact memoryOk_retGo (memoryOk_fillBelow h hf)
  next hf =>
    have ht := memoryOk_fillBelow h hf
    split
    · exact ht
    · exact memoryOk_retGo h
  next hf =>
    have ht := memoryOk_fillBelow h hf
    refine memoryOk_retGo ?_
    split
    · exact ht
    · exact h

theorem memoryOk_retLane {x s n causes} (h : State.MemoryOk s) : (retLane x s n causes).2.MemoryOk := by
  unfold retLane
  dsimp only
  split
  · exact h
  · split
    · exact h
    · split
      · exact memoryOk_retBelow h
      · split
        · exact of_snd (memoryOk_fillEntry h) (by assumption)
        · exact of_snd (memoryOk_fillEntry h) (by assumption)
        · exact memoryOk_retBelow (of_snd (memoryOk_fillEntry h) (by assumption))

theorem memoryOk_setForced {s x b} (h : State.MemoryOk s) : (setForced s x b).MemoryOk := by
  unfold setForced
  split
  · exact memoryOk_updCourse h
  · exact h

theorem memoryOk_execBra {k f s} (h : State.MemoryOk s) : OutOk (execBra k f s) :=
  memoryOk_issue h (fun _ => memoryOk_setForced (memoryOk_finishBranch h (fun _ _ _ h1 => memoryOk_branchTo h1 (fun _ _ h2 =>
    h2))))

theorem memoryOk_execBrx {k f s} (h : State.MemoryOk s) : OutOk (execBrx k f s) :=
  memoryOk_issue h (fun _ => memoryOk_finishBranch h (fun _ _ _ h1 => memoryOk_branchTo h1 (fun _ _ h2 => h2)))

theorem memoryOk_execCall {k f s} (h : State.MemoryOk s) : OutOk (execCall k f s) :=
  memoryOk_issue h (fun _ => memoryOk_finishBranch h (fun _ _ _ h1 => memoryOk_branchTo h1 (fun _ _ h2 => memoryOk_pushReturn
    h2)))

theorem memoryOk_execCallx {k f s} (h : State.MemoryOk s) : OutOk (execCallx k f s) :=
  memoryOk_issue h (fun _ => memoryOk_finishBranch h (fun _ _ _ h1 => memoryOk_branchTo h1 (fun _ _ h2 => memoryOk_pushReturn
    h2)))

theorem memoryOk_execRet {k _f s} (h : State.MemoryOk s) : OutOk (execRet k _f s) :=
  memoryOk_issue h (fun _ => memoryOk_finishBranch h (fun _ _ _ h1 => memoryOk_retLane h1))

theorem memoryOk_exitLane {x s n} (h : State.MemoryOk s) : (exitLane x s n).2.MemoryOk := by
  unfold exitLane
  split
  · exact h
  · dsimp only
    exact memoryOk_endLane (memoryOk_commitHolder h)
  · dsimp only
    exact memoryOk_endLane h

theorem memoryOk_execExit {k _f s} (h : State.MemoryOk s) : OutOk (execExit k _f s) :=
  memoryOk_issue h (fun _ => memoryOk_finishLanes h (fun _ _ h1 => memoryOk_exitLane h1))

theorem memoryOk_execYield {k _f s} (h : State.MemoryOk s) : OutOk (execYield k _f s) :=
  memoryOk_issue h (fun _ => memoryOk_finishEffect h (fun _ _ h1 => memoryOk_setForced h1))

theorem memoryOk_sleepLane {f x s n} (h : State.MemoryOk s) : (sleepLane f x s n).MemoryOk := by
  unfold sleepLane
  split
  · exact h
  · exact memoryOk_post (memoryOk_updLane h)

theorem memoryOk_execSleep {k f s} (h : State.MemoryOk s) : OutOk (execSleep k f s) :=
  memoryOk_issue h (fun _ => memoryOk_finishEffect h (fun _ _ h1 => memoryOk_foldl h1 (fun _ _ h2 => memoryOk_sleepLane h2)))

theorem memoryOk_execNop {k _f s} (h : State.MemoryOk s) : OutOk (execNop k _f s) :=
  memoryOk_issue h (fun _ => memoryOk_finishEffect h (fun _ _ h1 => h1))

theorem memoryOk_enqueueRegq {s x q} (h : State.MemoryOk s) : (enqueueRegq s x q).MemoryOk :=
  memoryOk_deselect (memoryOk_post (memoryOk_updCourse (memoryOk_updGroup h (fun _ => rfl))))

theorem memoryOk_execRegq {k f s} (h : State.MemoryOk s) : OutOk (execRegq k f s) := by
  unfold execRegq
  dsimp only
  refine memoryOk_issue h ?_
  intro _
  split
  · exact memoryOk_deselect h
  · split
    · exact memoryOk_enqueueRegq h
    · refine memoryOk_finishEffect h ?_
      intro _ _ h1
      split
      · exact h1
      · exact memoryOk_post (memoryOk_updCourse h1)

theorem memoryOk_grantRole {s : State} {g role rs} (h : s.MemoryOk) : (grantRole s g role rs).MemoryOk := by
  induction rs generalizing s with
  | nil => exact h
  | cons r rs ih =>
    unfold grantRole
    split
    · split
      · exact ih (memoryOk_updCourse (memoryOk_updGroup h fun _ => rfl))
      · exact h
    · exact h

theorem memoryOk_execRegqGrant {grp role s} (h : State.MemoryOk s) : OutOk (execRegqGrant grp role s) := by
  unfold execRegqGrant
  split
  · exact memoryOk_next (memoryOk_grantRole h)
  · exact memoryOk_next h

theorem memoryOk_fillReturned {s g c n l e below token counted} (h : State.MemoryOk s) :
    (fillReturned s g c n l e below token counted).MemoryOk := by
  unfold fillReturned
  dsimp only
  split
  · exact memoryOk_updLane h
  · split
    · split
      · exact memoryOk_countFills (memoryOk_updCourse (memoryOk_takeTrap (memoryOk_updLane h)))
      · exact memoryOk_takeTrap (memoryOk_updLane h)
    · split
      · exact memoryOk_countFills (memoryOk_updCourse (memoryOk_updLane (memoryOk_popReturn (memoryOk_retTx (memoryOk_updLane
          h)))))
      · exact memoryOk_updLane (memoryOk_popReturn (memoryOk_retTx (memoryOk_updLane h)))

theorem memoryOk_execReturnStackFillReturn {grp course lane s} (h : State.MemoryOk s) :
    OutOk (execReturnStackFillReturn grp course lane s) := by
  unfold execReturnStackFillReturn
  dsimp only
  split
  · split
    · refine memoryOk_next ?_
      split
      · exact memoryOk_post h
      · exact memoryOk_fillReturned h
    · exact memoryOk_next h
  · exact memoryOk_next h

theorem memoryOk_execSleepExpire {grp course lane s} (h : State.MemoryOk s) : OutOk (execSleepExpire grp course lane s) := by
  unfold execSleepExpire
  dsimp only
  split
  · split
    · split
      · exact memoryOk_next (memoryOk_updCourse h)
      · exact memoryOk_next (memoryOk_post h)
    · exact memoryOk_next h
  · exact memoryOk_next h

/-! ### Machine/System.lean -/

theorem memoryOk_postPacket {s x q u p} (h : State.MemoryOk s) :
    (postPacket s x q u p).2.MemoryOk := by
  have hd := memoryOk_drainCourse (g := x.sel.grp) (c := x.sel.course) h
  unfold postPacket
  dsimp only
  split
  · exact of_snd (memoryOk_translateRange hd) (by assumption)
  · exact of_snd (memoryOk_translateRange hd) (by assumption)
  next e =>
    dsimp only
    exact memoryOk_withFields (of_snd (memoryOk_translateRange hd) e) rfl

theorem memoryOk_qpostLane {x k f s n} (h : State.MemoryOk s) : (qpostLane x k f s n).2.MemoryOk := by
  unfold qpostLane
  dsimp only
  split
  · exact h
  · split
    · exact h
    · split
      · exact memoryOk_postPacket h
      · exact h
    · exact h

theorem memoryOk_execQpost {k f s} (h : State.MemoryOk s) : OutOk (execQpost k f s) :=
  memoryOk_issue h (fun _ => memoryOk_flushPosts (memoryOk_finishLanes h (fun _ _ h1 => memoryOk_qpostLane h1)))

theorem memoryOk_requestHalt {s hs why} (h : State.MemoryOk s) : (requestHalt s hs why).MemoryOk :=
  memoryOk_postFirst (memoryOk_foldl h (fun _ _ h1 => memoryOk_updGroup h1 (fun _ => rfl)))

theorem memoryOk_ckptLane {x k f d s n} (h : State.MemoryOk s) : (ckptLane x k f d s n).2.MemoryOk := by
  unfold ckptLane
  split
  · exact h
  · split <;> exact h

theorem memoryOk_execCkpt {k f s} (h : State.MemoryOk s) : OutOk (execCkpt k f s) := by
  unfold execCkpt
  dsimp only
  refine memoryOk_issue h ?_
  intro _
  split
  · exact memoryOk_finishLanes h (fun _ _ h1 => memoryOk_ckptLane h1)
  · split
    · refine memoryOk_requestHalt (memoryOk_updGroup ?_ (fun _ => rfl))
      split
      · exact memoryOk_finishLanes h (fun _ _ h1 => memoryOk_ckptLane h1)
      · exact memoryOk_updCourse (memoryOk_finishLanes h (fun _ _ h1 => memoryOk_ckptLane h1))
    · split
      · exact memoryOk_finishLanes h (fun _ _ h1 => memoryOk_ckptLane h1)
      · exact memoryOk_updCourse (memoryOk_finishLanes h (fun _ _ h1 => memoryOk_ckptLane h1))

/-! ### Machine/Tx.lean -/

theorem memoryOk_beginTx {s x n t} (h : State.MemoryOk s) : (beginTx s x n t).MemoryOk := by
  unfold beginTx
  dsimp only
  split
  · exact memoryOk_setTx (memoryOk_updPart h)
  · split
    · exact memoryOk_setTx (memoryOk_updPart h)
    · exact memoryOk_setTx h

theorem memoryOk_txbeginLane {x f s n causes} (h : State.MemoryOk s) : (txbeginLane x f s n causes).2.MemoryOk := by
  unfold txbeginLane
  dsimp only
  split
  · exact h
  · split
    · exact h
    · refine memoryOk_branchTo h ?_
      intro _ _ h1
      split
      · exact h1
      · split
        · exact h1
        · dsimp only
          exact memoryOk_setTx h1
      · dsimp only
        exact memoryOk_beginTx h1

theorem memoryOk_execTxbegin {k f s} (h : State.MemoryOk s) : OutOk (execTxbegin k f s) :=
  memoryOk_issue h (fun _ => memoryOk_finishBranch h (fun _ _ _ h1 => memoryOk_txbeginLane h1))

theorem memoryOk_holderEnd {s core g c n} (h : State.MemoryOk s) : (holderEnd s core g c n).MemoryOk := by
  unfold holderEnd
  dsimp only
  refine memoryOk_clearL1 ?_
  split
  · exact memoryOk_commitHolder h
  · exact memoryOk_updLane (memoryOk_drainCourse h)

theorem memoryOk_txendLane {x s n} (h : State.MemoryOk s) : (txendLane x s n).2.MemoryOk := by
  unfold txendLane
  split
  · dsimp only
    exact memoryOk_holderEnd h
  · exact h

theorem memoryOk_txendWait {k f x s n} (h : State.MemoryOk s) : (txendWait k f x s n).2.MemoryOk := by
  unfold txendWait
  dsimp only
  split
  · dsimp only
    exact memoryOk_setTx h
  · split
    · exact h
    · dsimp only
      exact memoryOk_holderEnd h
  · exact h

theorem memoryOk_execTxend {k f s} (h : State.MemoryOk s) : OutOk (execTxend k f s) := by
  unfold execTxend
  dsimp only
  refine memoryOk_issue h ?_
  intro _
  split
  · exact memoryOk_applyRegs (memoryOk_finishLanes h (fun _ _ h1 => memoryOk_txendLane h1))
  · exact memoryOk_post (memoryOk_updCourse (memoryOk_finishLanes h (fun _ _ h1 => memoryOk_txendWait h1)))

theorem memoryOk_verdictOf {s g c n mask part t} (h : State.MemoryOk s) : (verdictOf s g c n mask part t).2.MemoryOk := by
  unfold verdictOf
  dsimp only
  split
  · dsimp only
    exact memoryOk_foldl h (fun _ _ h1 => memoryOk_l2Access h1)
  · split
    · dsimp only
      exact memoryOk_foldl h (fun _ _ h1 => memoryOk_l2Access h1)
    · split
      · dsimp only
        exact memoryOk_takeFree (memoryOk_foldl h (fun _ _ h1 => memoryOk_l2Access h1))
      · dsimp only
        exact memoryOk_foldl h (fun _ _ h1 => memoryOk_l2Access h1)

theorem memoryOk_commitTx {s core g c n part t} (h : State.MemoryOk s) : (commitTx s core g c n part t).MemoryOk :=
  memoryOk_updLane (memoryOk_updPart (memoryOk_foldl h (fun _ _ h1 => memoryOk_homeWrite h1)))

theorem memoryOk_txGoesOn {s g c n} (h : State.MemoryOk s) : (txGoesOn s g c n).MemoryOk := memoryOk_updLane h

theorem memoryOk_verdicts {core g c part mask ns} {a : State × LaneMask × List (Nat × AbortInfo)} (h : a.1.MemoryOk) :
    (verdicts core g c part mask ns a).1.MemoryOk := by
  induction ns generalizing a with
  | nil => exact h
  | cons n ns ih =>
    obtain ⟨s, ok, as⟩ := a
    unfold verdicts
    dsimp only
    split
    · split
      · exact ih (of_snd (memoryOk_verdictOf h) (by assumption))
      · exact ih (memoryOk_commitTx (of_snd (memoryOk_verdictOf h) (by assumption)))
    · split
      · split
        · exact ih (memoryOk_txGoesOn (memoryOk_holderEnd h))
        · exact ih (memoryOk_txGoesOn h)
      · exact ih h

theorem memoryOk_verdictWrites {s core g c e} (h : State.MemoryOk s) : (verdictWrites s core g c e).MemoryOk := by
  unfold verdictWrites
  split
  · exact h
  · exact memoryOk_updCourse (memoryOk_applyRegs h)

theorem memoryOk_execTxVerdict {grp course} {s : State} (h : s.MemoryOk) : OutOk (execTxVerdict grp course s) := by
  unfold execTxVerdict
  split
  · exact memoryOk_next h
  next g _ =>
    split
    · exact memoryOk_next h
    next e rest _ =>
      split
      · exact memoryOk_next (memoryOk_post h)
      · have hd := memoryOk_drainCourse (g := grp) (c := course)
          (memoryOk_updCourse (g := grp) (c := course) (f := fun c => { c with txends := rest }) h)
        dsimp only
        generalize drainCourse (s.updCourse grp course fun c => { c with txends := rest }) grp course = u at hd ⊢
        have hv := memoryOk_verdicts (core := g.core.getD 0) (g := grp) (c := course) (part := u.groupPart g) (mask := e.lanes)
          (ns := laneList e.active) (a := (u, 0, [])) hd
        generalize verdicts (g.core.getD 0) grp course (u.groupPart g) e.lanes (laneList e.active) (u, 0, []) = r at hv ⊢
        refine memoryOk_next (memoryOk_bumpIf (memoryOk_foldl_fst (memoryOk_verdictWrites ?_) fun p a hp => memoryOk_abortLane
          hp))
        split
        · exact hv
        · exact memoryOk_clearL1 hv

theorem memoryOk_execTxabort {k f s} (h : State.MemoryOk s) : OutOk (execTxabort k f s) := by
  unfold execTxabort
  dsimp only
  refine memoryOk_issue h ?_
  intro _
  refine memoryOk_finishLanes h ?_
  intro _ _ h1
  split <;> exact h1

theorem memoryOk_execTxstat {k f s} (h : State.MemoryOk s) : OutOk (execTxstat k f s) :=
  memoryOk_issue h (fun _ => memoryOk_finishCompute h)

end Sys2Proof.Machine
end

section
/-!
PROOFS. Halts, saves, placements, format slots and code objects keep the canonical form of every memory.
-/

namespace Sys2Proof.Machine

/-! ### Machine/Halt.lean -/

theorem memoryOk_setCtxState {s i st} (h : State.MemoryOk s) : (setCtxState s i st).MemoryOk := memoryOk_updCtx h

theorem memoryOk_endCtxCommand {s i status} (h : State.MemoryOk s) : (endCtxCommand s i status).MemoryOk := by
  unfold endCtxCommand
  dsimp only
  split
  · exact h
  · exact memoryOk_updFn h

theorem memoryOk_saveCheck {s i} (h : State.MemoryOk s) : (saveCheck s i).MemoryOk := by
  unfold saveCheck
  split
  · split
    · exact memoryOk_endCtxCommand (memoryOk_setCtxState h)
    · exact h
  · exact h

theorem memoryOk_faultGroup {s kind hdl} (h : State.MemoryOk s) : (faultGroup s kind hdl).MemoryOk := by
  unfold faultGroup
  dsimp only
  split
  · exact h
  · split
    · exact h
    · exact memoryOk_writeErr (memoryOk_terminateOne h)

theorem memoryOk_faultContext {s i hdl} (h : State.MemoryOk s) : (faultContext s i hdl).MemoryOk := by
  unfold faultContext
  dsimp only
  split
  · exact memoryOk_foldl (memoryOk_foldl (memoryOk_faultGroup (memoryOk_setCtxState h)) (fun _ _ h1 => memoryOk_faultGroup h1))
      (fun _ _ h1 => memoryOk_endLaunch h1)
  · split
    · exact memoryOk_endCtxCommand (memoryOk_foldl (memoryOk_foldl (memoryOk_faultGroup (memoryOk_setCtxState h)) (fun _ _ h1
        => memoryOk_faultGroup h1)) (fun _ _ h1 => memoryOk_endLaunch h1))
    · exact memoryOk_updCtx (memoryOk_foldl (memoryOk_foldl (memoryOk_faultGroup (memoryOk_setCtxState h)) (fun _ _ h1 =>
        memoryOk_faultGroup h1)) (fun _ _ h1 => memoryOk_endLaunch h1))

theorem memoryOk_saveWalks {s p ipa n} (h : State.MemoryOk s) : (saveWalks s p ipa n).MemoryOk :=
  memoryOk_foldl h (fun _ _ h1 => memoryOk_l2Access h1)

theorem memoryOk_saveWrite {s t : State} {p ipa n v} (h : s.MemoryOk) (e : saveWrite s p ipa n v = some t) : t.MemoryOk := by
  unfold saveWrite at e
  obtain ⟨ps, -, rfl⟩ := Option.map_eq_some_iff.1 e
  exact memoryOk_foldl_fst (memoryOk_saveWalks h) fun p a hp => memoryOk_store hp

theorem memoryOk_saveRead {s p ipa n} (h : State.MemoryOk s) : (saveRead s p ipa n).2.MemoryOk := by
  unfold saveRead
  dsimp only
  split
  · dsimp only
    exact memoryOk_foldl (memoryOk_saveWalks h) (fun _ _ h1 => memoryOk_readAt h1)
  · dsimp only
    exact memoryOk_saveWalks h

theorem memoryOk_writeRecord {s t : State} {g} (h : s.MemoryOk) (e : writeRecord s g = some t) : t.MemoryOk := by
  unfold writeRecord State.takeFree at e
  obtain ⟨u, hu, rfl⟩ := Option.map_eq_some_iff.1 e
  exact memoryOk_withFields (memoryOk_saveWrite (s := { s with free := s.free + 1 }) (memoryOk_withFields h rfl) hu) rfl

theorem memoryOk_checkRecord {s g} (h : State.MemoryOk s) : (checkRecord s g).2.MemoryOk := memoryOk_saveRead h
theorem memoryOk_haltAborts {s hdl c crs} (h : State.MemoryOk s) : (haltAborts s hdl c crs).MemoryOk := memoryOk_abortEach h

theorem memoryOk_haltHead {s hdl core} (h : State.MemoryOk s) : (haltHead s hdl core).MemoryOk := by
  unfold haltHead
  dsimp only
  split
  · exact h
  · split
    · exact memoryOk_setCore (memoryOk_matRelease (memoryOk_matResult h)) rfl
    · exact h

theorem memoryOk_haltMatrix {s hdl core} (h : State.MemoryOk s) : (haltMatrix s hdl core).MemoryOk :=
  memoryOk_post (memoryOk_post (memoryOk_updGroup (memoryOk_setCore (memoryOk_haltHead h) rfl) (fun _ => rfl)))

theorem memoryOk_haltResident {s hdl g} (h : State.MemoryOk s) : (haltResident s hdl g).MemoryOk := by
  unfold haltResident
  dsimp only
  refine memoryOk_post ?_
  split
  · exact memoryOk_setCore (memoryOk_haltMatrix (memoryOk_postOnce (memoryOk_updLaunch (memoryOk_updGroup (memoryOk_foldl
      (memoryOk_updGroup h (fun _ => rfl)) (fun _ _ h1 => memoryOk_haltAborts h1)) (fun _ => rfl))))) rfl
  · exact memoryOk_postOnce (memoryOk_updLaunch (memoryOk_updGroup (memoryOk_foldl (memoryOk_updGroup h (fun _ => rfl)) (fun _
      _ h1 => memoryOk_haltAborts h1)) (fun _ => rfl)))

theorem memoryOk_haltGroup {s hdl} (h : State.MemoryOk s) : (haltGroup s hdl).MemoryOk := by
  unfold haltGroup
  dsimp only
  split
  · exact h
  · split
    · split
      · exact memoryOk_updGroup h (fun _ => rfl)
      · exact h
    · exact memoryOk_postOnce (memoryOk_updGroup (memoryOk_leaveCore h) (fun _ => rfl))
    · split
      · exact h
      · split
        · exact memoryOk_lookAgain (memoryOk_retireNow (h) (by assumption))
        · exact memoryOk_haltResident h
    · exact h

theorem memoryOk_execHaltArrival {grps s} (h : State.MemoryOk s) : OutOk (execHaltArrival grps s) :=
  memoryOk_next (memoryOk_foldl (memoryOk_foldl h (fun _ _ h1 => memoryOk_haltGroup h1)) (fun _ _ h1 => memoryOk_saveCheck h1))

/-- A window of a memory, moved down to 0, is in canonical form. -/
theorem wf_shifted {m : Memory} (h : m.wf = true) (p : Host.Cell → Bool) (q : Nat → Bool) (a b : Nat)
    (hp : ∀ c, p c = true → a ≤ c.1) (hq : ∀ k, q k = true → b ≤ k) :
    Memory.wf ⟨(m.cells.filter p).map (fun c => (c.1 - a, c.2)), (m.poisoned.filter q).map (· - b)⟩ = true := by
  rw [wf_iff] at h ⊢
  obtain ⟨hc, hk⟩ := h
  have hf := hc.filter p
  refine ⟨⟨?_, fun c hm => ?_⟩, ?_⟩
  · rw [List.map_map]
    have := List.pairwise_map.1 hf.1
    refine List.pairwise_map.2 ((List.Pairwise.and_mem.1 this).imp ?_)
    rintro x y ⟨hx, hy, hlt⟩
    have := hp x (List.mem_filter.1 hx).2
    simp only [Function.comp]
    omega
  · obtain ⟨d, hd, rfl⟩ := List.mem_map.1 hm
    exact hf.2 d hd
  · refine List.pairwise_map.2 ((List.Pairwise.and_mem.1 (hk.filter q)).imp ?_)
    rintro x y ⟨hx, hy, hlt⟩
    have := hq x (List.mem_filter.1 hx).2
    omega

theorem memoryOk_takeCoreState {s : State} {g grp} (h : s.MemoryOk) : (takeCoreState s g grp).MemoryOk := by
  unfold takeCoreState
  dsimp only
  split
  · exact h
  · refine MemoryOk.updGroup h _ _ fun x _ => wf_shifted (MemoryOk.core h _) _ _ _ _ (fun c hc => ?_) fun k hk => ?_
    · exact (of_decide_eq_true hc).1
    · exact (of_decide_eq_true hk).1

theorem memoryOk_leaveQueue {s hdl g} (h : State.MemoryOk s) : (leaveQueue s hdl g).MemoryOk := memoryOk_updPart h

theorem memoryOk_completeSave {s hdl} (h : State.MemoryOk s) : (completeSave s hdl).MemoryOk := by
  unfold completeSave
  dsimp only
  split
  · exact h
  · split
    · exact memoryOk_foldl (memoryOk_drainAll h) (fun _ _ h1 => memoryOk_finishAll h1)
    · split
      · exact memoryOk_foldl (memoryOk_drainAll h) (fun _ _ h1 => memoryOk_finishAll h1)
      · split
        · exact memoryOk_faultContext (memoryOk_leaveQueue (memoryOk_takeCoreState (memoryOk_settleGroup (memoryOk_foldl
            (memoryOk_drainAll h) (fun _ _ h1 => memoryOk_finishAll h1)))))
        · exact memoryOk_postOnce (memoryOk_saveCheck (memoryOk_updGroup (memoryOk_leaveCore (memoryOk_writeRecord
            (memoryOk_leaveQueue (memoryOk_takeCoreState (memoryOk_settleGroup (memoryOk_foldl (memoryOk_drainAll h) (fun _ _
            h1 => memoryOk_finishAll h1))))) (by assumption))) (fun _ => rfl)))

theorem memoryOk_execSaveComplete {grp s} (h : State.MemoryOk s) : OutOk (execSaveComplete grp s) := by
  unfold execSaveComplete
  split
  · exact memoryOk_next h
  · split
    · split
      · exact memoryOk_next (memoryOk_completeSave h)
      · exact memoryOk_next (memoryOk_post h)
    · exact memoryOk_next (memoryOk_saveCheck h)

/-! ### Machine/Place.lean -/

theorem memoryOk_placeOn {s pl} (h : State.MemoryOk s) : (placeOn s pl).MemoryOk := by
  unfold placeOn
  dsimp only
  split
  · exact h
  · refine memoryOk_updGroup ?_ (fun _ => rfl)
    split
    · exact memoryOk_setCore h rfl
    · exact h

theorem memoryOk_rankSet {s ps} (h : State.MemoryOk s) : (rankSet s ps).MemoryOk := by
  unfold rankSet
  dsimp only
  split
  · exact h
  · exact memoryOk_foldl h (fun _ _ h1 => memoryOk_updGroup h1 (fun _ => rfl))

theorem memoryOk_rankUnit {s u ps} (h : State.MemoryOk s) : (rankUnit s u ps).MemoryOk :=
  memoryOk_foldl h (fun _ _ h1 => memoryOk_rankSet h1)

theorem memoryOk_performPlaces {s u ps} (h : State.MemoryOk s) : (performPlaces s u ps).MemoryOk := by
  unfold performPlaces
  dsimp only
  refine memoryOk_foldl ?_ (fun _ _ h1 => memoryOk_post h1)
  split
  · exact memoryOk_resetDeficits (memoryOk_foldl (memoryOk_rankUnit h) (fun _ _ h1 => memoryOk_placeOn h1))
  · exact memoryOk_foldl (memoryOk_rankUnit h) (fun _ _ h1 => memoryOk_placeOn h1)

theorem memoryOk_arbitrate_place {s t : State} {p free u ps} (h : s.MemoryOk) (e : arbitrate s p free = .place u ps t) :
    t.MemoryOk := by
  unfold arbitrate at e
  dsimp only at e
  split at e
  · injection e with _ _ e
    exact e ▸ memoryOk_updPart h
  · split at e <;> cases e

theorem memoryOk_arbitrate_visit {s t : State} {p free} (h : s.MemoryOk) (e : arbitrate s p free = .visit t) : t.MemoryOk := by
  unfold arbitrate at e
  dsimp only at e
  split at e
  · cases e
  · split at e
    · injection e with e
      exact e ▸ memoryOk_updPart h
    · cases e

theorem memoryOk_settleWaiting {s p} (h : State.MemoryOk s) : (settleWaiting s p).MemoryOk := by
  unfold settleWaiting
  split
  · split
    · exact h
    · exact memoryOk_updPart h
  · exact h

theorem memoryOk_requeuePreempted {s p} (h : State.MemoryOk s) : (requeuePreempted s p).MemoryOk := by
  unfold requeuePreempted
  split
  · exact h
  · refine memoryOk_foldl h ?_
    intro _ _ h1
    split
    · exact memoryOk_waitAgain h1
    · exact h1

theorem memoryOk_retryReserve {s} (h : State.MemoryOk s) : (retryReserve s).MemoryOk := by
  unfold retryReserve
  refine memoryOk_foldl h ?_
  intro _ _ h1
  split
  · exact memoryOk_reserveFor h1
  · exact h1

theorem memoryOk_lentExtras {s li l} (h : State.MemoryOk s) : (lentExtras s li l).MemoryOk := by
  unfold lentExtras
  dsimp only
  split
  · split
    · split
      · exact memoryOk_createGroup h
      · exact h
    · exact h
  · exact h

theorem memoryOk_execPreemptRequest {part s} (h : State.MemoryOk s) : OutOk (execPreemptRequest part s) := by
  unfold execPreemptRequest
  split
  · exact memoryOk_next h
  · split
    · exact memoryOk_next (memoryOk_requestHalt (memoryOk_updPart h))
    · exact memoryOk_next h

theorem memoryOk_drainSave {s li l} (h : State.MemoryOk s) : (drainSave s li l).MemoryOk := by
  unfold drainSave
  dsimp only
  split
  · exact h
  · split
    · exact h
    · split
      · split
        · exact memoryOk_requestHalt h
        · exact memoryOk_postOnce h
      · exact h

theorem memoryOk_placePass {free} {s : State} {p} (h : s.MemoryOk) : (placePass free s p).MemoryOk := by
  unfold placePass
  dsimp only
  have hs : (resetDeficits (requeuePreempted (settleWaiting s p) p) p).MemoryOk :=
    memoryOk_resetDeficits (memoryOk_requeuePreempted (memoryOk_settleWaiting h))
  generalize resetDeficits (requeuePreempted (settleWaiting s p) p) p = u at hs ⊢
  split
  next e => exact memoryOk_postOnce (memoryOk_performPlaces (memoryOk_arbitrate_place hs e))
  next e => exact memoryOk_postOnce (memoryOk_arbitrate_visit hs e)
  · split
    · exact hs
    · exact memoryOk_postOnce hs

theorem memoryOk_placeAll {s} (h : State.MemoryOk s) : (placeAll s).MemoryOk := by
  unfold placeAll
  dsimp only
  refine memoryOk_foldl (memoryOk_foldl (memoryOk_takeFree (memoryOk_foldl (memoryOk_foldl (memoryOk_retryReserve h) (fun _ _
    h1 => memoryOk_resetDeficits h1)) (fun _ _ h1 => memoryOk_lentExtras h1))) (fun _ _ h1 => memoryOk_placePass h1)) ?_
  intro _ _ h1
  split
  · exact h1
  · exact memoryOk_drainSave h1

theorem memoryOk_execGroupPlace {places} {s : State} (h : s.MemoryOk) : OutOk (execGroupPlace places s) := by
  unfold execGroupPlace
  split
  · exact memoryOk_next (memoryOk_placeAll h)
  · split
    · exact memoryOk_next h
    · split
      next e =>
        split
        · exact memoryOk_next (memoryOk_performPlaces (memoryOk_arbitrate_place h e))
        · exact memoryOk_next (memoryOk_postOnce h)
      next e => exact memoryOk_next (memoryOk_postFirst (memoryOk_arbitrate_visit h e))
      · exact memoryOk_next h

/-! ### Machine/Placed.lean -/

theorem memoryOk_clearAlloc {s : State} {k base n} (h : s.MemoryOk) : (clearAlloc s k base n).MemoryOk :=
  memoryOk_setValid (MemoryOk.setCore h _ _ (wf_clear _ _ _ (MemoryOk.core h k)))

theorem memoryOk_copyUnits {info k us} {s : State} (h : s.MemoryOk) : (copyUnits info k us s).2.MemoryOk := by
  induction us generalizing s with
  | nil => exact h
  | cons u us ih =>
    unfold copyUnits
    split
    · exact ih (memoryOk_store (of_snd (memoryOk_ctxRead h) (by assumption)))
    · exact of_snd (memoryOk_ctxRead h) (by assumption)
    · exact memoryOk_foldl (of_snd (memoryOk_ctxRead h) (by assumption)) fun t a ht => memoryOk_store ht

theorem memoryOk_copyRecords {g k base rsz info va rs} {s : State} (h : s.MemoryOk) :
    (copyRecords g k base rsz info va rs s).2.MemoryOk := by
  induction rs generalizing s with
  | nil => exact h
  | cons r rs ih =>
    unfold copyRecords
    split
    · exact ih (memoryOk_updGroup (of_snd (memoryOk_copyUnits h) (by assumption)) fun _ => rfl)
    · exact of_snd (memoryOk_copyUnits h) (by assumption)

theorem memoryOk_becomeResident {s hdl k} (h : State.MemoryOk s) : (becomeResident s hdl k).MemoryOk := by
  unfold becomeResident
  dsimp only
  split
  · split
    · exact memoryOk_post (memoryOk_updGroup (memoryOk_clearL1 (memoryOk_chargeCore h)) (fun _ => rfl))
    · exact memoryOk_updGroup (memoryOk_clearL1 (memoryOk_chargeCore h)) (fun _ => rfl)
  · exact memoryOk_updGroup (memoryOk_clearL1 (memoryOk_chargeCore h)) (fun _ => rfl)

theorem memoryOk_firstPlacement {s : State} {g k grp} (h : s.MemoryOk) : (firstPlacement s g k grp).MemoryOk := by
  unfold firstPlacement
  dsimp only
  have hs : (if grp.copied = 0 then clearAlloc s k grp.allocBase (1024 * grp.scratchKiB) else s).MemoryOk := by
    split
    · exact memoryOk_clearAlloc h
    · exact h
  generalize (if grp.copied = 0 then clearAlloc s k grp.allocBase (1024 * grp.scratchKiB) else s) = u at hs ⊢
  split
  · exact hs
  · split
    · exact hs
    · split
      · exact memoryOk_post (of_snd (memoryOk_copyRecords hs) (by assumption))
      · exact memoryOk_becomeResident (memoryOk_updLaunch (of_snd (memoryOk_copyRecords hs) (by assumption)))

theorem memoryOk_dropEntry {s e} (h : State.MemoryOk s) : (dropEntry s e).MemoryOk := memoryOk_updCourse (memoryOk_matRelease h)

theorem wf_setBytes {m : Memory} (h : m.wf = true) (a : Nat) (l : List Host.Cell) :
    (l.foldl (fun (m : Memory) c => m.setByte (a + c.1) c.2) m).wf = true := by
  induction l generalizing m with
  | nil => exact h
  | cons c l ih => exact ih (wf_setByte _ _ _ h)

theorem wf_setPoisons {m : Memory} (h : m.wf = true) (a : Nat) (l : List Nat) :
    (l.foldl (fun (m : Memory) p => m.setPoison (a + p) true) m).wf = true := by
  induction l generalizing m with
  | nil => exact h
  | cons c l ih => exact ih (wf_setPoison _ _ _ h)

theorem memoryOk_restoreScratch {s : State} {k g} (h : s.MemoryOk) : (restoreScratch s k g).MemoryOk := by
  have hc := memoryOk_clearAlloc (k := k) (base := g.allocBase) (n := 1024 * g.scratchKiB) h
  exact MemoryOk.setCore hc _ _ (wf_setPoisons (wf_setBytes (MemoryOk.core hc k) ..) ..)

theorem memoryOk_resumeWindow {s hdl i} (h : State.MemoryOk s) : (resumeWindow s hdl i).MemoryOk := by
  unfold resumeWindow
  dsimp only
  split
  · exact h
  · split
    · exact memoryOk_foldl (memoryOk_updWindow h) (fun _ _ h1 => memoryOk_post h1)
    · exact h

theorem memoryOk_requeueWaiting {s hdl k g} (h : State.MemoryOk s) : (requeueWaiting s hdl k g).MemoryOk := by
  unfold requeueWaiting
  dsimp only
  refine memoryOk_foldl h ?_
  intro _ _ h1
  split
  · exact memoryOk_post (memoryOk_setCore h1 rfl)
  · exact h1

theorem memoryOk_enterMatrix {s hdl k keep drop} (h : State.MemoryOk s) : (enterMatrix s hdl k keep drop).MemoryOk := by
  unfold enterMatrix
  dsimp only
  split
  · exact memoryOk_setCore (memoryOk_foldl h (fun _ _ h1 => memoryOk_dropEntry h1)) rfl
  · exact memoryOk_postOnce (memoryOk_postOnce (memoryOk_setCore (memoryOk_foldl h (fun _ _ h1 => memoryOk_dropEntry h1)) rfl))

theorem memoryOk_restoreHandler {s hdl k g} (h : State.MemoryOk s) : (restoreHandler s hdl k g).MemoryOk := by
  unfold restoreHandler
  dsimp only
  split
  · exact memoryOk_setCore h rfl
  · split
    · exact memoryOk_post (memoryOk_setCore h rfl)
    · exact h

theorem memoryOk_restorePlacement {s : State} {g k grp} (h : s.MemoryOk) : (restorePlacement s g k grp).MemoryOk := by
  unfold restorePlacement
  split
  · exact memoryOk_faultContext (of_snd (memoryOk_checkRecord h) (by assumption))
  · have ht := of_snd (memoryOk_checkRecord h) (by assumption)
    dsimp only
    split
    · exact memoryOk_post ht
    · split
      · exact memoryOk_post (memoryOk_setCore ht rfl)
      · refine memoryOk_becomeResident (memoryOk_requeueWaiting (memoryOk_foldl (memoryOk_enterMatrix ?_)
          fun t a h1 => memoryOk_resumeWindow h1))
        exact MemoryOk.updGroup (memoryOk_restoreHandler (memoryOk_restoreScratch ht)) _ _ fun _ _ => wf_empty

theorem memoryOk_execGroupPlacementComplete {grp s} (h : State.MemoryOk s) : OutOk (execGroupPlacementComplete grp s) := by
  unfold execGroupPlacementComplete
  split
  · exact memoryOk_next h
  · split
    · refine memoryOk_next ?_
      split
      · exact memoryOk_restorePlacement h
      · exact memoryOk_firstPlacement h
    · exact memoryOk_next h

/-! ### Machine/Formats.lean -/

theorem memoryOk_setReplica {s p slot k f} (h : State.MemoryOk s) : (setReplica s p slot k f).MemoryOk := by
  unfold setReplica
  dsimp only
  split
  · exact memoryOk_setCore h rfl
  · split
    · exact memoryOk_setCore h rfl
    · exact h

theorem memoryOk_setManagerSlot {s p i t} (h : State.MemoryOk s) : (setManagerSlot s p i t).MemoryOk := memoryOk_updPart h

theorem memoryOk_setSlotAll {s p i st im} (h : State.MemoryOk s) : (setSlotAll s p i st im).MemoryOk :=
  memoryOk_foldl (memoryOk_setManagerSlot h) (fun _ _ h1 => memoryOk_setReplica h1)

theorem memoryOk_checkImage {s ctx va p} (h : State.MemoryOk s) : (checkImage s ctx va p).2.MemoryOk := by
  unfold checkImage
  dsimp only
  split
  · exact of_snd (memoryOk_ctxRead h) (by assumption)
  · exact of_snd (memoryOk_ctxRead h) (by assumption)
  · split
    · exact of_snd (memoryOk_ctxRead h) (by assumption)
    · split
      · exact of_snd (memoryOk_ctxRead h) (by assumption)
      · split
        · exact of_snd (memoryOk_ctxRead (of_snd (memoryOk_ctxRead h) (by assumption))) (by assumption)
        · exact of_snd (memoryOk_ctxRead (of_snd (memoryOk_ctxRead h) (by assumption))) (by assumption)
        · split
          · exact of_snd (memoryOk_ctxRead (of_snd (memoryOk_ctxRead h) (by assumption))) (by assumption)
          · split <;> exact of_snd (memoryOk_ctxRead (of_snd (memoryOk_ctxRead h) (by assumption))) (by assumption)

theorem memoryOk_sameImage {s ctx va} (h : State.MemoryOk s) : (sameImage s ctx va).2.MemoryOk := by
  unfold sameImage
  dsimp only
  split
  · exact of_snd (memoryOk_ctxRead h) (by assumption)
  · exact of_snd (memoryOk_ctxRead h) (by assumption)
  · split
    · exact of_snd (memoryOk_ctxRead h) (by assumption)
    · split <;> exact of_snd (memoryOk_ctxRead (of_snd (memoryOk_ctxRead h) (by assumption))) (by assumption)

theorem memoryOk_endJob {s p code} (h : State.MemoryOk s) : (endJob s p code).MemoryOk := by
  unfold endJob
  split
  · exact h
  · exact memoryOk_post (memoryOk_updPart h)

theorem memoryOk_setJobAcks {s p ks} (h : State.MemoryOk s) : (setJobAcks s p ks).MemoryOk := memoryOk_updPart h

theorem memoryOk_startJobs {p n} {s : State} (h : s.MemoryOk) : (startJobs p n s).MemoryOk := by
  induction n generalizing s with
  | zero => exact h
  | succ n ih =>
    unfold startJobs
    dsimp only
    split
    · exact h
    · split
      · exact ih (memoryOk_endJob h)
      · split
        · split
          · exact memoryOk_post (memoryOk_foldl (memoryOk_setJobAcks (memoryOk_setManagerSlot h)) fun t a h1 => memoryOk_post
              h1)
          · exact ih (memoryOk_endJob h)
        · split
          · exact memoryOk_post (memoryOk_setSlotAll h)
          · split
            · exact memoryOk_post h
            · exact ih (memoryOk_endJob h)

theorem memoryOk_nextJobs {s p} (h : State.MemoryOk s) : (nextJobs s p).MemoryOk := memoryOk_startJobs h

theorem memoryOk_acceptJob {s hdr slot image release} (h : State.MemoryOk s) :
    (acceptJob s hdr slot image release).MemoryOk := by
  unfold acceptJob
  dsimp only
  split
  · exact h
  · split
    · exact memoryOk_nextJobs (memoryOk_updPart h)
    · exact memoryOk_updPart h

theorem memoryOk_execFmtBind {hdr slot image s} (h : State.MemoryOk s) : OutOk (execFmtBind hdr slot image s) :=
  memoryOk_next (memoryOk_acceptJob h)

theorem memoryOk_execFmtRelease {hdr slot s} (h : State.MemoryOk s) : OutOk (execFmtRelease hdr slot s) :=
  memoryOk_next (memoryOk_acceptJob h)

theorem memoryOk_finishBind {s p j} (h : State.MemoryOk s) : (finishBind s p j).MemoryOk :=
  memoryOk_nextJobs (memoryOk_endJob (memoryOk_charge (memoryOk_setManagerSlot h)))

theorem memoryOk_passImage {s p j im} (h : State.MemoryOk s) : (passImage s p j im).MemoryOk := by
  unfold passImage
  dsimp only
  split
  · exact memoryOk_finishBind (memoryOk_setSlotAll h)
  · exact memoryOk_foldl (memoryOk_setJobAcks (memoryOk_setSlotAll h)) (fun _ _ h1 => memoryOk_post h1)

theorem memoryOk_execFmtVerifyComplete {part slot s} (h : State.MemoryOk s) : OutOk (execFmtVerifyComplete part slot s) := by
  unfold execFmtVerifyComplete
  dsimp only
  split
  · exact memoryOk_next h
  · split
    · exact memoryOk_next h
    · split
      · refine memoryOk_next (memoryOk_nextJobs ?_)
        refine memoryOk_endJob ?_
        split
        · exact memoryOk_setSlotAll h
        · exact h
      · split
        · split
          · exact memoryOk_next (memoryOk_post (of_snd (memoryOk_sameImage h) (by assumption)))
          · exact memoryOk_next (memoryOk_nextJobs (memoryOk_endJob (of_snd (memoryOk_sameImage h) (by assumption))))
          · exact memoryOk_next (memoryOk_nextJobs (memoryOk_endJob (of_snd (memoryOk_sameImage h) (by assumption))))
        · split
          · split
            · exact memoryOk_next (memoryOk_post (of_snd (memoryOk_checkImage h) (by assumption)))
            · exact memoryOk_next (memoryOk_post (memoryOk_setSlotAll (of_snd (memoryOk_checkImage h) (by assumption))))
            · exact memoryOk_next (memoryOk_nextJobs (memoryOk_endJob (memoryOk_setSlotAll (of_snd (memoryOk_checkImage h) (by
                assumption)))))
            · exact memoryOk_next (memoryOk_passImage (of_snd (memoryOk_checkImage h) (by assumption)))
          · exact memoryOk_next h

theorem memoryOk_ackCore {s p k} (h : State.MemoryOk s) : (ackCore s p k).MemoryOk := by
  unfold ackCore
  dsimp only
  split
  · exact h
  · split
    · split
      · exact memoryOk_finishBind (memoryOk_setJobAcks h)
      · exact memoryOk_setJobAcks h
    · exact h

theorem memoryOk_execFmtSlotEnable {part slot core s} (h : State.MemoryOk s) : OutOk (execFmtSlotEnable part slot core s) := by
  unfold execFmtSlotEnable
  split
  · exact memoryOk_next h
  · split
    · exact memoryOk_next (memoryOk_ackCore (memoryOk_setReplica h))
    · exact memoryOk_next h

theorem memoryOk_execFmtSlotDisable {part slot core s} (h : State.MemoryOk s) :
    OutOk (execFmtSlotDisable part slot core s) := by
  unfold execFmtSlotDisable
  split
  · exact memoryOk_next h
  · split
    · exact memoryOk_next (memoryOk_ackCore (memoryOk_setReplica h))
    · exact memoryOk_next h

theorem memoryOk_execFmtDrainComplete {part slot s} (h : State.MemoryOk s) : OutOk (execFmtDrainComplete part slot s) := by
  unfold execFmtDrainComplete
  split
  · exact memoryOk_next h
  · split
    · split
      · exact memoryOk_next (memoryOk_post h)
      · exact memoryOk_next (memoryOk_nextJobs (memoryOk_endJob (memoryOk_setSlotAll h)))
    · exact memoryOk_next h

/-! ### Machine/Objects.lean -/

theorem memoryOk_readMany {info base rs} {s : State} (h : s.MemoryOk) : (readMany info base rs s).2.MemoryOk := by
  induction rs generalizing s with
  | nil => exact h
  | cons r rs ih =>
    unfold readMany
    split
    · exact of_snd (memoryOk_ctxRead h) (by assumption)
    · exact of_snd (memoryOk_ctxRead h) (by assumption)
    · have ht := ih (of_snd (memoryOk_ctxRead h) (by assumption))
      split
      · exact of_snd ht (by assumption)
      · exact ht

theorem memoryOk_readElf {s info base} (h : State.MemoryOk s) : (readElf s info base).2.MemoryOk := by
  unfold readElf
  dsimp only
  split
  · split
    · split <;> exact of_snd (memoryOk_readMany (of_snd (memoryOk_readMany (of_snd (memoryOk_readMany h) (by assumption))) (by
        assumption))) (by assumption)
    · exact of_snd (memoryOk_readMany (of_snd (memoryOk_readMany h) (by assumption))) (by assumption)
    · exact of_snd (memoryOk_readMany (of_snd (memoryOk_readMany h) (by assumption))) (by assumption)
  · exact of_snd (memoryOk_readMany h) (by assumption)
  · exact of_snd (memoryOk_readMany h) (by assumption)

theorem memoryOk_loadCheck {s hdl o p} (h : State.MemoryOk s) : (loadCheck s hdl o p).2.MemoryOk := by
  unfold loadCheck
  dsimp only
  split
  · exact of_snd (memoryOk_readElf h) (by assumption)
  · exact of_snd (memoryOk_readElf h) (by assumption)
  · split
    · exact of_snd (memoryOk_readElf h) (by assumption)
    · split
      · exact of_snd (memoryOk_readMany (of_snd (memoryOk_readElf h) (by assumption))) (by assumption)
      · split
        · exact of_snd (memoryOk_readMany (of_snd (memoryOk_readElf h) (by assumption))) (by assumption)
        · split
          · exact of_snd (memoryOk_readMany (of_snd (memoryOk_readMany (of_snd (memoryOk_readElf h) (by assumption))) (by
              assumption))) (by assumption)
          · split <;> exact of_snd (memoryOk_readMany (of_snd (memoryOk_readMany (of_snd (memoryOk_readElf h) (by assumption)))
              (by assumption))) (by assumption)
          · exact of_snd (memoryOk_readMany (of_snd (memoryOk_readMany (of_snd (memoryOk_readElf h) (by assumption))) (by
              assumption))) (by assumption)
      · exact of_snd (memoryOk_readMany (of_snd (memoryOk_readElf h) (by assumption))) (by assumption)

theorem memoryOk_writeMany {info ws} {s : State} (h : s.MemoryOk) : (writeMany info ws s).2.MemoryOk := by
  induction ws generalizing s with
  | nil => exact h
  | cons w ws ih =>
    unfold writeMany
    split
    · exact of_snd (memoryOk_ctxWrite h) (by assumption)
    · exact of_snd (memoryOk_ctxWrite h) (by assumption)
    · exact ih (of_snd (memoryOk_ctxWrite h) (by assumption))

theorem memoryOk_endLoad {s hdl o code} (h : State.MemoryOk s) : (endLoad s hdl o code).MemoryOk :=
  memoryOk_endCtxCommand (memoryOk_updObj h)

theorem memoryOk_execObjectLoadComplete {obj s} (h : State.MemoryOk s) : OutOk (execObjectLoadComplete obj s) := by
  unfold execObjectLoadComplete
  split
  · exact memoryOk_next h
  · split
    · exact memoryOk_next h
    · split
      · exact memoryOk_next (memoryOk_post (of_snd (memoryOk_loadCheck h) (by assumption)))
      · exact memoryOk_next (memoryOk_endLoad (of_snd (memoryOk_loadCheck h) (by assumption)))
      · split
        · exact memoryOk_next (memoryOk_post (of_snd (memoryOk_writeMany (of_snd (memoryOk_loadCheck h) (by assumption))) (by
            assumption)))
        · exact memoryOk_next (memoryOk_endLoad (of_snd (memoryOk_writeMany (of_snd (memoryOk_loadCheck h) (by assumption)))
            (by assumption)))
        · exact memoryOk_next (memoryOk_endLoad (of_snd (memoryOk_writeMany (of_snd (memoryOk_loadCheck h) (by assumption)))
            (by assumption)))

theorem memoryOk_integrityRecord {s hdl pc} (h : State.MemoryOk s) : (integrityRecord s hdl pc).MemoryOk := by
  unfold integrityRecord
  split
  · exact h
  · split
    · exact memoryOk_terminateWith h
    · exact h

theorem memoryOk_revokeLaunch {pc s li} (h : State.MemoryOk s) : (revokeLaunch pc s li).MemoryOk := by
  unfold revokeLaunch
  dsimp only
  split
  · exact h
  · split
    · exact h
    · refine memoryOk_endLaunch ?_
      split
      · refine memoryOk_writeErr (memoryOk_foldl ?_ (fun _ _ h1 => memoryOk_integrityRecord h1))
        refine memoryOk_foldl (memoryOk_updLaunch h) ?_
        intro _ _ h1
        split
        · exact memoryOk_retireNow (h1) (by assumption)
        · exact h1
      · refine memoryOk_foldl ?_ (fun _ _ h1 => memoryOk_integrityRecord h1)
        refine memoryOk_foldl (memoryOk_updLaunch h) ?_
        intro _ _ h1
        split
        · exact memoryOk_retireNow (h1) (by assumption)
        · exact h1

theorem memoryOk_revokeOne {pc s hdl} (h : State.MemoryOk s) : (revokeOne pc s hdl).MemoryOk := by
  unfold revokeOne
  dsimp only
  split
  · exact h
  · exact memoryOk_foldl (memoryOk_updObj h) (fun _ _ h1 => memoryOk_revokeLaunch h1)

theorem memoryOk_revoke {s hdl page} (h : State.MemoryOk s) : (revoke s hdl page).MemoryOk := by
  unfold revoke
  dsimp only
  split
  · exact h
  · exact memoryOk_foldl h (fun _ _ h1 => memoryOk_revokeOne h1)

theorem memoryOk_setPage {s hdl page st} (h : State.MemoryOk s) : (setPage s hdl page st).MemoryOk := memoryOk_updObj h

/-- The agent of a page's check is a number with large constants: the read and the write stand as variables, so that the kernel
never evaluates them. So below, for the agents of packets. -/
theorem memoryOk_checkPage {s : State} {obj page o} (h : s.MemoryOk) : (checkPage s obj page o).2.MemoryOk := by
  obtain ⟨R, hR⟩ : ∃ R, R = @ctxRead := ⟨_, rfl⟩
  obtain ⟨W, hW⟩ : ∃ W, W = @ctxWrite := ⟨_, rfl⟩
  have hr : ∀ {s i va n}, State.MemoryOk s → (R s i va n).2.MemoryOk := hR ▸ memoryOk_ctxRead
  have hw : ∀ {s i va n v p}, State.MemoryOk s → (W s i va n v p).2.MemoryOk := hW ▸ memoryOk_ctxWrite
  obtain ⟨C, hC⟩ : ∃ C, C = @checkPage := ⟨_, rfl⟩
  rw [← hC]
  delta checkPage at hC
  rw [← hR, ← hW] at hC
  rw [hC]
  dsimp only
  split
  · exact of_snd (hr h) (by assumption)
  · exact of_snd (hr h) (by assumption)
  · have ht := of_snd (hr h) (by assumption)
    split
    · exact of_snd (hw ht) (by assumption)
    · exact of_snd (hw ht) (by assumption)
    · exact of_snd (hw ht) (by assumption)

theorem memoryOk_failingPages {obj o ks} {s : State} (h : s.MemoryOk) : (failingPages obj o ks s).2.MemoryOk := by
  induction ks generalizing s with
  | nil => exact h
  | cons k ks ih =>
    obtain ⟨F, hF⟩ : ∃ F, F = @checkPage := ⟨_, rfl⟩
    have hc : (F s obj k o).2.MemoryOk := hF ▸ memoryOk_checkPage h
    rw [failingPages, ← hF]
    have ht := ih hc
    split
    · exact ht
    · exact ht

theorem memoryOk_failPages {s obj page o} (h : State.MemoryOk s) : (failPages s obj page o).MemoryOk := by
  unfold failPages
  dsimp only
  refine memoryOk_wakeAll (memoryOk_revoke ?_)
  refine memoryOk_foldl ?_ (fun _ _ h1 => memoryOk_setPage h1)
  split
  · exact memoryOk_failingPages (memoryOk_takeFree h)
  · dsimp only
    exact memoryOk_takeFree h

theorem memoryOk_execCodePageCheckComplete {obj page s} (h : State.MemoryOk s) :
    OutOk (execCodePageCheckComplete obj page s) := by
  unfold execCodePageCheckComplete
  split
  · exact memoryOk_next h
  · split
    · exact memoryOk_next h
    · split
      · exact memoryOk_next (memoryOk_post (of_snd (memoryOk_checkPage h) (by assumption)))
      · exact memoryOk_next (memoryOk_failPages (of_snd (memoryOk_checkPage h) (by assumption)))
      · exact memoryOk_next (memoryOk_wakeAll (memoryOk_setPage (of_snd (memoryOk_checkPage h) (by assumption))))

theorem memoryOk_dropLines {s : State} {o} (h : s.MemoryOk) : (dropLines s o).MemoryOk := by
  refine ⟨h.hbm, h.host, h.peers, fun e he => ?_, h.saved⟩
  obtain ⟨x, hx, rfl⟩ := List.mem_map.1 he
  exact h.scratch x hx

theorem memoryOk_unloadNow {s hdl} (h : State.MemoryOk s) : (unloadNow s hdl).MemoryOk := by
  unfold unloadNow
  split
  · exact h
  · exact memoryOk_wakeAll (memoryOk_updObj (memoryOk_dropLines h))

theorem memoryOk_execObjectDrainComplete {obj s} (h : State.MemoryOk s) : OutOk (execObjectDrainComplete obj s) := by
  unfold execObjectDrainComplete
  split
  · exact memoryOk_next h
  · split
    · exact memoryOk_next h
    · split
      · exact memoryOk_next (memoryOk_unloadNow h)
      · exact memoryOk_next (memoryOk_post h)

end Sys2Proof.Machine
end

section
/-!
PROOFS. Contexts, queues, packets and page requests keep the canonical form of every memory.
-/

namespace Sys2Proof.Machine

/-! ### Machine/Events.lean -/

theorem memoryOk_signalVector {s fn v} (h : State.MemoryOk s) : (signalVector s fn v).MemoryOk := memoryOk_updFn h

theorem memoryOk_signalEvent {s fn} (h : State.MemoryOk s) : (signalEvent s fn).MemoryOk := by
  unfold signalEvent
  split
  · exact h
  · exact memoryOk_signalVector h

theorem memoryOk_releaseHeld {s fn} (h : State.MemoryOk s) : (releaseHeld s fn).MemoryOk := by
  unfold releaseHeld
  dsimp only
  split
  · refine memoryOk_signalVector ?_
    split
    · exact memoryOk_signalVector (memoryOk_updFn h)
    · exact memoryOk_updFn h
  · split
    · exact memoryOk_signalVector (memoryOk_updFn h)
    · exact memoryOk_updFn h

theorem memoryOk_submitEvent {s p fn kind data tag qid} (h : State.MemoryOk s) :
    (submitEvent s p fn kind data tag qid).MemoryOk := memoryOk_post (memoryOk_updPart h)

theorem memoryOk_partEvent {s p kind data} (h : State.MemoryOk s) : (partEvent s p kind data).MemoryOk := memoryOk_submitEvent h

theorem memoryOk_execEventRecordWrite {part s} (h : State.MemoryOk s) : OutOk (execEventRecordWrite part s) := by
  unfold execEventRecordWrite
  dsimp only
  split
  · exact memoryOk_next h
  · split
    · exact memoryOk_next (memoryOk_updPart h)
    · split
      · exact memoryOk_next (memoryOk_updFn (memoryOk_updPart h))
      · split
        · exact memoryOk_next (memoryOk_post h)
        · split
          · exact memoryOk_next (memoryOk_updFn (memoryOk_updPart h))
          · exact memoryOk_next (memoryOk_signalEvent (memoryOk_updFn (memoryOk_store (memoryOk_updPart h))))

theorem memoryOk_execEvtHeadWrite {fn value s} (h : State.MemoryOk s) : OutOk (execEvtHeadWrite fn value s) := by
  unfold execEvtHeadWrite
  split
  · exact memoryOk_next h
  · exact memoryOk_next (memoryOk_updFn h)

theorem memoryOk_suspendQueue {s hdl} (h : State.MemoryOk s) : (suspendQueue s hdl).MemoryOk := by
  unfold suspendQueue
  dsimp only
  split
  · exact h
  · split
    · exact memoryOk_updQueue h
    · exact h

theorem memoryOk_resumeQueue {s hdl} (h : State.MemoryOk s) : (resumeQueue s hdl).MemoryOk := by
  unfold resumeQueue
  dsimp only
  split
  · exact h
  · split
    · split
      · exact memoryOk_post (memoryOk_post (memoryOk_updQueue h))
      · exact memoryOk_post (memoryOk_post (memoryOk_updQueue h))
      · exact memoryOk_post (memoryOk_updQueue h)
    · exact h

theorem memoryOk_destroyQueue {s hdl} (h : State.MemoryOk s) : (destroyQueue s hdl).MemoryOk := by
  unfold destroyQueue
  split
  · exact h
  · exact memoryOk_post (memoryOk_updQueue h)

theorem memoryOk_queueEvent {s q kind data tag} (h : State.MemoryOk s) : (queueEvent s q kind data tag).MemoryOk := by
  unfold queueEvent
  split
  · exact memoryOk_submitEvent h
  · exact h

theorem memoryOk_failQueue {s hdl data tag} (h : State.MemoryOk s) : (failQueue s hdl data tag).MemoryOk := by
  unfold failQueue
  dsimp only
  split
  · exact h
  · split
    · exact h
    · exact memoryOk_post (memoryOk_queueEvent (memoryOk_updQueue h))

/-! ### Machine/Contexts.lean -/

theorem memoryOk_beginCtx {s fn id op} (h : State.MemoryOk s) : (beginCtx s fn id op).MemoryOk := memoryOk_updFn h
theorem memoryOk_endCtx {s fn status} (h : State.MemoryOk s) : (endCtx s fn status).MemoryOk := memoryOk_updFn h

theorem memoryOk_endCtxOk {s fn i} (h : State.MemoryOk s) : (endCtxOk s fn i).MemoryOk := by
  unfold endCtxOk
  split
  · split
    · exact memoryOk_endCtx (memoryOk_updCtx h)
    · exact memoryOk_endCtx h
  · exact memoryOk_endCtx h

theorem memoryOk_ctxCommand {s : State} {fn id op legal} {effect : State → Nat → Ctx → State} (h : s.MemoryOk)
    (he : ∀ t i c, t.MemoryOk → (effect t i c).MemoryOk) : OutOk (ctxCommand s fn id op legal effect) := by
  have hb := memoryOk_beginCtx (fn := fn) (id := id) (op := op) h
  unfold ctxCommand
  dsimp only
  split
  · exact memoryOk_next h
  · split
    · exact memoryOk_next (memoryOk_endCtx hb)
    · split
      · exact memoryOk_next (memoryOk_endCtx hb)
      · split
        · exact memoryOk_next (he _ _ _ hb)
        · split
          · exact memoryOk_next (memoryOk_endCtx (memoryOk_updCtx hb))
          · exact memoryOk_next (memoryOk_endCtx hb)

theorem memoryOk_execCtxCreate {fn ctxid s} (h : State.MemoryOk s) : OutOk (execCtxCreate fn ctxid s) := by
  unfold execCtxCreate
  dsimp only
  split
  · exact memoryOk_next h
  · split
    · exact memoryOk_next (memoryOk_endCtx (memoryOk_beginCtx h))
    · split
      · exact memoryOk_next (memoryOk_endCtx (memoryOk_beginCtx h))
      · split
        · exact memoryOk_next (memoryOk_endCtx (memoryOk_beginCtx h))
        · split
          · exact memoryOk_next (memoryOk_endCtx (memoryOk_beginCtx h))
          · exact memoryOk_next (memoryOk_endCtx (memoryOk_withFields (memoryOk_beginCtx h) rfl))

theorem memoryOk_destroyCtx {s i} (h : State.MemoryOk s) : (destroyCtx s i).MemoryOk := by
  unfold destroyCtx
  dsimp only
  split
  · exact h
  · exact memoryOk_updCtx (memoryOk_setCtxState (memoryOk_updPart (memoryOk_foldl (memoryOk_foldl (memoryOk_foldl
      (memoryOk_foldl h (fun _ _ h1 => memoryOk_destroyQueue h1)) (fun _ _ h1 => memoryOk_terminateOne h1)) (fun _ _ h1 =>
      memoryOk_endLaunch h1)) (fun _ _ h1 => memoryOk_unloadNow h1))))

theorem memoryOk_enterTdiError {s vf} (h : State.MemoryOk s) : (enterTdiError s vf).MemoryOk :=
  memoryOk_foldl (memoryOk_foldl (memoryOk_updFn h) (fun _ _ h1 => memoryOk_updQueue h1)) (fun _ _ h1 => memoryOk_destroyCtx h1)

theorem memoryOk_frozenWrite {s : State} {vf changes} {effect : State → State} (h : s.MemoryOk)
    (he : ∀ t, t.MemoryOk → (effect t).MemoryOk) : (frozenWrite s vf changes effect).MemoryOk := by
  unfold frozenWrite
  split
  · exact memoryOk_enterTdiError h
  · exact he s h

theorem memoryOk_execCtxDestroy {fn ctxid s} (h : State.MemoryOk s) : OutOk (execCtxDestroy fn ctxid s) :=
  memoryOk_ctxCommand h (fun _ _ _ h1 => memoryOk_endCtxOk (memoryOk_destroyCtx h1))

theorem memoryOk_execLoadObject {fn ctxid s} (h : State.MemoryOk s) : OutOk (execLoadObject fn ctxid s) :=
  memoryOk_ctxCommand h (fun _ _ _ h1 => memoryOk_post (memoryOk_updFn (memoryOk_withFields h1 rfl)))

theorem memoryOk_execUnloadObject {fn ctxid s} (h : State.MemoryOk s) : OutOk (execUnloadObject fn ctxid s) := by
  unfold execUnloadObject
  refine memoryOk_ctxCommand h ?_
  intro _ _ _ h1
  split
  · exact memoryOk_endCtx h1
  · split
    · exact memoryOk_endCtxOk h1
    · exact memoryOk_post (memoryOk_endCtxOk (memoryOk_updObj h1))

theorem memoryOk_execSave {fn ctxid s} (h : State.MemoryOk s) : OutOk (execSave fn ctxid s) := by
  unfold execSave
  dsimp only
  refine memoryOk_ctxCommand h ?_
  intro _ _ _ h1
  refine memoryOk_saveCheck ?_
  split
  · exact memoryOk_foldl (memoryOk_setCtxState h1) (fun _ _ h2 => memoryOk_suspendQueue h2)
  · exact memoryOk_requestHalt (memoryOk_foldl (memoryOk_setCtxState h1) (fun _ _ h2 => memoryOk_suspendQueue h2))

theorem memoryOk_wakeSaved {s i} (h : State.MemoryOk s) : (wakeSaved s i).MemoryOk := by
  unfold wakeSaved
  refine memoryOk_foldl h ?_
  intro _ _ h1
  split
  · exact memoryOk_waitAgain h1
  · exact h1

theorem memoryOk_execRestore {fn ctxid s} (h : State.MemoryOk s) : OutOk (execRestore fn ctxid s) := by
  unfold execRestore
  dsimp only
  refine memoryOk_ctxCommand h ?_
  intro _ _ _ h1
  refine memoryOk_endCtxOk (memoryOk_postOnce ?_)
  refine memoryOk_foldl ?_ (fun _ _ h2 => memoryOk_postOnce h2)
  split
  · exact memoryOk_foldl (memoryOk_setCtxState (memoryOk_setCtxState (memoryOk_wakeSaved (memoryOk_updCtx h1)))) (fun _ _ h2 =>
      memoryOk_resumeQueue h2)
  · exact memoryOk_wakeSaved (memoryOk_updCtx h1)

theorem memoryOk_execCheckpoint {fn ctxid s} (h : State.MemoryOk s) : OutOk (execCheckpoint fn ctxid s) :=
  memoryOk_ctxCommand h (fun _ _ _ h1 => memoryOk_endCtxOk (memoryOk_updCtx h1))

/-! ### Machine/Queues.lean -/

theorem memoryOk_beginQ {s fn qid op} (h : State.MemoryOk s) : (beginQ s fn qid op).MemoryOk := memoryOk_updFn h
theorem memoryOk_endQ {s fn status} (h : State.MemoryOk s) : (endQ s fn status).MemoryOk := memoryOk_updFn h

theorem memoryOk_execQCreate {fn qid s} (h : State.MemoryOk s) : OutOk (execQCreate fn qid s) := by
  unfold execQCreate
  dsimp only
  split
  · exact memoryOk_next h
  · split
    · exact memoryOk_next (memoryOk_endQ (memoryOk_beginQ h))
    · split
      · exact memoryOk_next (memoryOk_endQ (memoryOk_beginQ h))
      · split
        · exact memoryOk_next (memoryOk_endQ (memoryOk_beginQ h))
        · split
          · exact memoryOk_next (memoryOk_endQ (memoryOk_beginQ h))
          · exact memoryOk_next (memoryOk_endQ (memoryOk_suspendQueue (memoryOk_withFields (memoryOk_beginQ h) rfl)))

theorem memoryOk_queueCommand {s : State} {fn qid op legal} {effect : State → Nat → Queue → State} (h : s.MemoryOk)
    (he : ∀ t i q, t.MemoryOk → (effect t i q).MemoryOk) : OutOk (queueCommand s fn qid op legal effect) := by
  have hb := memoryOk_beginQ (fn := fn) (qid := qid) (op := op) h
  unfold queueCommand
  dsimp only
  split
  · exact memoryOk_next h
  · split
    · exact memoryOk_next (memoryOk_endQ hb)
    · split
      · exact memoryOk_next (memoryOk_endQ hb)
      · refine memoryOk_next ?_
        split
        · exact memoryOk_endQ (he _ _ _ hb)
        · exact memoryOk_endQ hb

theorem memoryOk_execQDestroy {fn qid s} (h : State.MemoryOk s) : OutOk (execQDestroy fn qid s) :=
  memoryOk_queueCommand h (fun _ _ _ h1 => memoryOk_destroyQueue h1)

theorem memoryOk_freeThread {s p} (h : State.MemoryOk s) : (freeThread s p).MemoryOk := by
  unfold freeThread
  split
  · exact h
  · split
    · exact memoryOk_updQueue h
    · exact h

theorem memoryOk_mapQueue {s hdl} (h : State.MemoryOk s) : (mapQueue s hdl).MemoryOk := by
  unfold mapQueue
  dsimp only
  split
  · exact h
  · split
    · exact memoryOk_freeThread h
    · refine memoryOk_post (memoryOk_updQueue ?_)
      split
      · dsimp only
        exact memoryOk_freeThread h
      · exact memoryOk_takeFree (memoryOk_freeThread h)

theorem memoryOk_unmapIdle {s p} (h : State.MemoryOk s) : (unmapIdle s p).MemoryOk :=
  memoryOk_foldl h (fun _ _ h1 => memoryOk_updQueue h1)

theorem memoryOk_lookMapped {s p} (h : State.MemoryOk s) : (lookMapped s p).MemoryOk :=
  memoryOk_foldl h (fun _ _ h1 => memoryOk_postOnce h1)

theorem memoryOk_execQueueMap {part s} (h : State.MemoryOk s) : OutOk (execQueueMap part s) :=
  memoryOk_next (memoryOk_foldl (memoryOk_lookMapped (memoryOk_unmapIdle h)) (fun _ _ h1 => memoryOk_mapQueue h1))

theorem memoryOk_execQClear {fn qid s} (h : State.MemoryOk s) : OutOk (execQClear fn qid s) := by
  unfold execQClear
  dsimp only
  refine memoryOk_queueCommand h ?_
  intro _ _ _ h1
  refine memoryOk_suspendQueue ?_
  split
  · exact memoryOk_updQueue h1
  · exact memoryOk_mapQueue (memoryOk_updQueue h1)

theorem memoryOk_execNotifyWrite {fn qid value s} (h : State.MemoryOk s) : OutOk (execNotifyWrite fn qid value s) := by
  unfold execNotifyWrite
  split
  · exact memoryOk_next h
  · split
    · exact memoryOk_next h
    · split
      · refine memoryOk_next ?_
        split
        · exact h
        · exact memoryOk_failQueue h
      · exact memoryOk_next (memoryOk_post (memoryOk_updQueue h))

theorem memoryOk_reportRidx {s hdl of_} (h : State.MemoryOk s) : (reportRidx s hdl of_).MemoryOk := by
  unfold reportRidx
  dsimp only
  split
  · exact h
  · split
    · exact h
    · split
      · exact memoryOk_postOnce (memoryOk_updQueue (memoryOk_ctxWrite h))
      · exact memoryOk_failQueue (memoryOk_updQueue (memoryOk_ctxWrite h))
      · exact memoryOk_updQueue (memoryOk_ctxWrite h)

theorem memoryOk_retryReport {s hdl} (h : State.MemoryOk s) : (retryReport s hdl).MemoryOk := by
  unfold retryReport
  split
  · exact memoryOk_reportRidx h
  · exact h

theorem memoryOk_startPacket {s hdl hdr kind status} (h : State.MemoryOk s) : (startPacket s hdl hdr kind status).MemoryOk := by
  unfold startPacket
  dsimp only
  split
  · exact memoryOk_wakeAll (memoryOk_reportRidx (memoryOk_updQueue h))
  · exact memoryOk_reportRidx (memoryOk_updQueue h)

theorem memoryOk_refusePacket {s hdl hdr kind status} (h : State.MemoryOk s) : (refusePacket s hdl hdr kind status).MemoryOk :=
  memoryOk_postFirst (memoryOk_startPacket h)

theorem memoryOk_takePacket {s hdl q v poison} (h : State.MemoryOk s) : (takePacket s hdl q v poison).MemoryOk := by
  unfold takePacket
  dsimp only
  split
  · exact memoryOk_refusePacket h
  · split
    · exact memoryOk_refusePacket h
    · split
      · exact h
      · split
        · exact memoryOk_post (memoryOk_updQueue h)
        · exact memoryOk_post (memoryOk_post (memoryOk_startPacket h))

theorem memoryOk_execPacketStart {queue s} (h : State.MemoryOk s) : OutOk (execPacketStart queue s) := by
  unfold execPacketStart
  dsimp only
  split
  · exact memoryOk_next (memoryOk_retryReport h)
  · split
    · exact memoryOk_next (memoryOk_retryReport h)
    · split
      · exact memoryOk_next (memoryOk_postOnce (memoryOk_retryReport h))
      · split
        · exact memoryOk_next (memoryOk_postOnce (memoryOk_ctxRead (memoryOk_retryReport h)))
        · exact memoryOk_next (memoryOk_failQueue (memoryOk_ctxRead (memoryOk_retryReport h)))
        · exact memoryOk_next (memoryOk_takePacket (memoryOk_ctxRead (memoryOk_retryReport h)))

theorem memoryOk_finishPacket {s hdl e status fatal} (h : State.MemoryOk s) : (finishPacket s hdl e status fatal).MemoryOk := by
  unfold finishPacket
  extract_lets sq word se sw sf
  have hq : sq.MemoryOk := memoryOk_updQueue h
  have he : se.MemoryOk := by unfold se; split <;> [exact memoryOk_queueEvent hq; exact hq]
  have hw : sw.MemoryOk := by
    unfold sw
    split
    · split <;> [exact memoryOk_queueEvent he; exact he]
    · exact he
  have hf : sf.MemoryOk := by
    unfold sf
    split
    · exact memoryOk_failQueue hw
    · split <;> [exact memoryOk_failQueue hw; exact hw]
  exact memoryOk_postOnce (memoryOk_postOnce hf)

theorem memoryOk_execPacketComplete {queue index status} {s : State} (h : s.MemoryOk) :
    OutOk (execPacketComplete queue index status s) := by
  obtain ⟨W, hW⟩ : ∃ W, W = @ctxWrite := ⟨_, rfl⟩
  have hw : ∀ {s i va n v p}, State.MemoryOk s → (W s i va n v p).2.MemoryOk := hW ▸ memoryOk_ctxWrite
  unfold execPacketComplete
  rw [← hW]
  dsimp only
  split
  · exact memoryOk_next h
  · split
    · exact memoryOk_next h
    · split
      · exact memoryOk_next (memoryOk_finishPacket h)
      · split
        · exact memoryOk_next (memoryOk_post (memoryOk_updQueue h))
        · split
          · exact memoryOk_next (memoryOk_post (memoryOk_updQueue (hw h)))
          · exact memoryOk_next (memoryOk_finishPacket (hw h))
          · exact memoryOk_next (memoryOk_finishPacket (hw h))

/-! ### Machine/Packets.lean -/

theorem memoryOk_copyEntry {info src dst us} {s : State} (h : s.MemoryOk) : (copyEntry info src dst us s).2.MemoryOk := by
  induction us generalizing s with
  | nil => exact h
  | cons u us ih =>
    unfold copyEntry
    split
    · exact of_snd (memoryOk_ctxRead h) (by assumption)
    · exact of_snd (memoryOk_ctxRead h) (by assumption)
    · have ht := of_snd (memoryOk_ctxRead h) (by assumption)
      split
      · exact of_snd (memoryOk_ctxWrite ht) (by assumption)
      · exact of_snd (memoryOk_ctxWrite ht) (by assumption)
      · exact ih (of_snd (memoryOk_ctxWrite ht) (by assumption))

theorem memoryOk_copyEntries {info src rsz ds} {s : State} (h : s.MemoryOk) : (copyEntries info src rsz ds s).2.MemoryOk := by
  induction ds generalizing s src with
  | nil => exact h
  | cons d ds ih =>
    unfold copyEntries
    have ht := memoryOk_copyEntry (info := info) (src := src) (dst := d) (us := List.range (rsz / 16)) h
    split
    · exact ih (of_snd ht (by assumption))
    · exact ht

theorem memoryOk_firstGroups {s li l n} (h : State.MemoryOk s) : (firstGroups s li l n).MemoryOk := by
  unfold firstGroups
  split
  · exact memoryOk_foldl h (fun _ _ h1 => memoryOk_createGroup h1)
  · exact memoryOk_launcherPass h

theorem memoryOk_refuseLaunch {s hdr status} (h : State.MemoryOk s) : (refuseLaunch s hdr status).MemoryOk :=
  memoryOk_refusePacket h

theorem memoryOk_acceptLaunch {s : State} {q hdr b obj o n cohes} (h : s.MemoryOk) :
    (acceptLaunch s q hdr b obj o n cohes).MemoryOk := by
  unfold acceptLaunch State.takeFree
  dsimp only
  have hc {info src rsz ds} : (copyEntries info src rsz ds { s with free := s.free + 1 }).2.MemoryOk :=
    memoryOk_copyEntries (memoryOk_withFields h rfl)
  split
  · exact memoryOk_post (of_snd hc (by assumption))
  · exact memoryOk_refuseLaunch (of_snd hc (by assumption))
  · have ht := of_snd hc (by assumption)
    refine memoryOk_post (memoryOk_firstGroups (memoryOk_withFields (s := if _ then _ else _) ?_ rfl))
    split
    · exact memoryOk_setCtxState (memoryOk_startPacket ht)
    · exact memoryOk_startPacket ht

theorem memoryOk_execLaunchGraph {hdr body s} (h : State.MemoryOk s) : OutOk (execLaunchGraph hdr body s) := by
  unfold execLaunchGraph
  dsimp only
  split
  · exact memoryOk_next h
  · split
    · exact memoryOk_next h
    · split
      · exact memoryOk_next (memoryOk_updQueue h)
      · split
        · exact memoryOk_next (memoryOk_refuseLaunch h)
        · split
          · exact memoryOk_next (memoryOk_refuseLaunch h)
          · split
            · exact memoryOk_next (memoryOk_refuseLaunch h)
            · split
              · exact memoryOk_next (memoryOk_refuseLaunch h)
              · split
                · exact memoryOk_next (memoryOk_refuseLaunch h)
                · exact memoryOk_next (memoryOk_acceptLaunch h)

theorem memoryOk_moveBytes {s : State} {hdr src dst n} (h : s.MemoryOk) : (moveBytes s hdr src dst n).2.MemoryOk := by
  obtain ⟨R, hR⟩ : ∃ R, R = @ctxRead := ⟨_, rfl⟩
  obtain ⟨W, hW⟩ : ∃ W, W = @ctxWrite := ⟨_, rfl⟩
  have hr : ∀ {s i va n}, State.MemoryOk s → (R s i va n).2.MemoryOk := hR ▸ memoryOk_ctxRead
  have hw : ∀ {s i va n v p}, State.MemoryOk s → (W s i va n v p).2.MemoryOk := hW ▸ memoryOk_ctxWrite
  obtain ⟨C, hC⟩ : ∃ C, C = @moveBytes := ⟨_, rfl⟩
  rw [← hC]
  delta moveBytes at hC
  rw [← hR, ← hW] at hC
  rw [hC]
  dsimp only
  split
  · exact of_snd (hr h) (by assumption)
  · exact hw (of_snd (hr h) (by assumption))

theorem memoryOk_updStarted {s hdr u} (h : State.MemoryOk s) : (updStarted s hdr u).MemoryOk := memoryOk_updQueue h
theorem memoryOk_endBulk {s hdr again} (h : State.MemoryOk s) : (endBulk s hdr again).MemoryOk := memoryOk_post h

theorem memoryOk_stopBulk {s hdr again} (h : State.MemoryOk s) : (stopBulk s hdr again).MemoryOk :=
  memoryOk_post (memoryOk_updStarted h)

theorem memoryOk_execCopy {hdr src dst len s} (h : State.MemoryOk s) : OutOk (execCopy hdr src dst len s) := by
  unfold execCopy
  dsimp only
  split
  · exact memoryOk_next h
  · split
    · exact memoryOk_next (memoryOk_endBulk h)
    · split
      · exact memoryOk_next (memoryOk_post h)
      · split
        · refine memoryOk_next (memoryOk_post ?_)
          split <;> exact memoryOk_moveBytes h
        · refine memoryOk_next (memoryOk_stopBulk ?_)
          split <;> exact memoryOk_moveBytes h
        · split <;> exact memoryOk_next (memoryOk_post (memoryOk_moveBytes h))

theorem memoryOk_execFill {hdr dst len pattern s} (h : State.MemoryOk s) : OutOk (execFill hdr dst len pattern s) := by
  unfold execFill
  dsimp only
  split
  · exact memoryOk_next h
  · split
    · exact memoryOk_next (memoryOk_endBulk h)
    · split
      · exact memoryOk_next (memoryOk_post h)
      · split
        · exact memoryOk_next (memoryOk_post (memoryOk_ctxWrite h))
        · exact memoryOk_next (memoryOk_stopBulk (memoryOk_ctxWrite h))
        · exact memoryOk_next (memoryOk_post (memoryOk_ctxWrite h))

theorem memoryOk_readWait {s : State} {q hdr b} (h : s.MemoryOk) : (readWait s q hdr b).2.MemoryOk := by
  obtain ⟨R, hR⟩ : ∃ R, R = @translateRange := ⟨_, rfl⟩
  have hr : ∀ {s i va n}, State.MemoryOk s → (R s i va n).2.MemoryOk := hR ▸ memoryOk_translateRange
  obtain ⟨C, hC⟩ : ∃ C, C = @readWait := ⟨_, rfl⟩
  rw [← hC]
  delta readWait at hC
  rw [← hR] at hC
  rw [hC]
  dsimp only
  split
  · exact of_snd (hr h) (by assumption)
  · exact of_snd (hr h) (by assumption)
  · have ht := of_snd (hr h) (by assumption)
    split
    · split
      · exact ht
      · split
        · exact memoryOk_readAt ht
        · exact memoryOk_readAt ht
    · exact ht

theorem memoryOk_endWait {s hdl status} (h : State.MemoryOk s) : (endWait s hdl status).MemoryOk := by
  unfold endWait
  dsimp only
  split
  · exact h
  · split
    · exact h
    · exact memoryOk_post (memoryOk_postFirst (memoryOk_updQueue h))

theorem memoryOk_blockQueue {s hdl hdr b place} (h : State.MemoryOk s) : (blockQueue s hdl hdr b place).MemoryOk := by
  unfold blockQueue
  dsimp only
  refine memoryOk_post ?_
  split
  · split
    · exact memoryOk_updQueue h
    · exact memoryOk_postOnce (memoryOk_updQueue h)
  · refine memoryOk_postOnce ?_
    split
    · exact memoryOk_updQueue h
    · exact memoryOk_postOnce (memoryOk_updQueue h)

theorem memoryOk_execWaitMem {hdr body} {s : State} (h : s.MemoryOk) : OutOk (execWaitMem hdr body s) := by
  obtain ⟨R, hR⟩ : ∃ R, R = @readWait := ⟨_, rfl⟩
  have hr : ∀ {s q hdr b}, State.MemoryOk s → (R s q hdr b).2.MemoryOk := hR ▸ memoryOk_readWait
  unfold execWaitMem
  rw [← hR]
  split
  · exact memoryOk_next h
  · split
    · exact memoryOk_next h
    · split
      · exact memoryOk_next (memoryOk_post (of_snd (hr h) (by assumption)))
      · exact memoryOk_next (memoryOk_post (of_snd (hr h) (by assumption)))
      · exact memoryOk_next (memoryOk_blockQueue (of_snd (hr h) (by assumption)))

theorem memoryOk_retest {s : State} {q again} (h : s.MemoryOk) : (retest s q again).MemoryOk := by
  obtain ⟨R, hR⟩ : ∃ R, R = @readWait := ⟨_, rfl⟩
  have hr : ∀ {s q hdr b}, State.MemoryOk s → (R s q hdr b).2.MemoryOk := hR ▸ memoryOk_readWait
  unfold retest
  rw [← hR]
  split
  · exact h
  · split
    · exact h
    · split
      · exact memoryOk_endWait h
      · split
        · exact memoryOk_postOnce (of_snd (hr h) (by assumption))
        · exact memoryOk_endWait (of_snd (hr h) (by assumption))
        · have ht := of_snd (hr h) (by assumption)
          dsimp only
          split
          · exact memoryOk_updQueue ht
          · exact memoryOk_postOnce (memoryOk_updQueue ht)

theorem memoryOk_execWaitMemRetest {queue s} (h : State.MemoryOk s) : OutOk (execWaitMemRetest queue s) :=
  memoryOk_next (memoryOk_retest h)

theorem memoryOk_execWaitMemPoll {queue s} (h : State.MemoryOk s) : OutOk (execWaitMemPoll queue s) :=
  memoryOk_next (memoryOk_retest h)

theorem memoryOk_execWaitMemTimeout {queue s} (h : State.MemoryOk s) : OutOk (execWaitMemTimeout queue s) := by
  unfold execWaitMemTimeout
  split
  · exact memoryOk_next h
  · split
    · exact memoryOk_next h
    · split
      · exact memoryOk_next h
      · split
        · exact memoryOk_next (memoryOk_endWait h)
        · exact memoryOk_next (memoryOk_postOnce h)

theorem memoryOk_sendSignal {s hdr again t pa n new} (h : State.MemoryOk s) : (sendSignal s hdr again t pa n new).MemoryOk := by
  unfold sendSignal
  dsimp only
  split
  · exact memoryOk_post (memoryOk_updStarted (memoryOk_foldl (memoryOk_readAt h) (fun _ _ h1 => memoryOk_sendWrite h1)))
  · exact memoryOk_post (memoryOk_foldl (memoryOk_readAt h) (fun _ _ h1 => memoryOk_sendWrite h1))

theorem memoryOk_execSignalMem {hdr addr value add wide} {s : State} (h : s.MemoryOk) :
    OutOk (execSignalMem hdr addr value add wide s) := by
  obtain ⟨R, hR⟩ : ∃ R, R = @translateRange := ⟨_, rfl⟩
  have hr : ∀ {s i va n}, State.MemoryOk s → (R s i va n).2.MemoryOk := hR ▸ memoryOk_translateRange
  unfold execSignalMem
  rw [← hR]
  split
  · exact memoryOk_next h
  · split
    · exact memoryOk_next h
    · exact memoryOk_next (memoryOk_post h)
    · dsimp only
      split
      · exact memoryOk_next (memoryOk_post h)
      · split
        · exact memoryOk_next (memoryOk_post (of_snd (hr h) (by assumption)))
        · exact memoryOk_next (memoryOk_post (of_snd (hr h) (by assumption)))
        · have ht := of_snd (hr h) (by assumption)
          split
          · split
            · exact memoryOk_next (memoryOk_post ht)
            · split
              · exact memoryOk_next (memoryOk_post ht)
              · exact memoryOk_next (memoryOk_sendSignal ht)
          · exact memoryOk_next (memoryOk_post ht)

theorem memoryOk_execEvent {hdr data s} (h : State.MemoryOk s) : OutOk (execEvent hdr data s) := by
  unfold execEvent
  split
  · exact memoryOk_next h
  · split
    · exact memoryOk_next h
    · exact memoryOk_next (memoryOk_post (memoryOk_updStarted h))

theorem memoryOk_execResync {hdr buf len} {s : State} (h : s.MemoryOk) : OutOk (execResync hdr buf len s) := by
  obtain ⟨W, hW⟩ : ∃ W, W = @ctxWrite := ⟨_, rfl⟩
  have hw : ∀ {s i va n v p}, State.MemoryOk s → (W s i va n v p).2.MemoryOk := hW ▸ memoryOk_ctxWrite
  unfold execResync
  rw [← hW]
  dsimp only
  split
  · exact memoryOk_next h
  · split
    · exact memoryOk_next h
    · split
      · exact memoryOk_next (memoryOk_post (of_snd (hw h) (by assumption)))
      · exact memoryOk_next (memoryOk_post (of_snd (hw h) (by assumption)))
      · exact memoryOk_next (memoryOk_post (of_snd (hw h) (by assumption)))

theorem memoryOk_execFnPauseWrite {vf value s} (h : State.MemoryOk s) : OutOk (execFnPauseWrite vf value s) := by
  unfold execFnPauseWrite
  dsimp only
  split
  · exact memoryOk_next h
  · refine memoryOk_next (memoryOk_frozenWrite h ?_)
    intro _ h1
    split
    · exact memoryOk_foldl (memoryOk_updFn h1) (fun _ _ h2 => memoryOk_suspendQueue h2)
    · exact memoryOk_foldl (memoryOk_releaseHeld (memoryOk_updFn h1)) (fun _ _ h2 => memoryOk_resumeQueue h2)

theorem memoryOk_resetFn {s fn} (h : State.MemoryOk s) : (resetFn s fn).MemoryOk := by
  unfold resetFn
  dsimp only
  exact memoryOk_updFn (memoryOk_withFields (memoryOk_foldl (memoryOk_foldl (memoryOk_updFn h) (fun _ _ h1 =>
    memoryOk_destroyQueue h1)) (fun _ _ h1 => memoryOk_destroyCtx h1)) rfl)

theorem memoryOk_execFunctionLevelReset {fn s} (h : State.MemoryOk s) : OutOk (execFunctionLevelReset fn s) :=
  memoryOk_next (memoryOk_resetFn h)

theorem memoryOk_execWeightWrite {part owner value s} (h : State.MemoryOk s) : OutOk (execWeightWrite part owner value s) := by
  unfold execWeightWrite
  dsimp only
  split
  · exact memoryOk_next (memoryOk_updPart h)
  · exact memoryOk_next h

/-! ### Machine/Pages.lean -/

theorem memoryOk_updRing {s fn stage u} (h : State.MemoryOk s) : (updRing s fn stage u).MemoryOk := memoryOk_updFn h

theorem memoryOk_execPrqEntryWrite {fn stage s} (h : State.MemoryOk s) : OutOk (execPrqEntryWrite fn stage s) := by
  unfold execPrqEntryWrite
  dsimp only
  split
  · exact memoryOk_next h
  · split
    · exact memoryOk_next h
    · split
      · exact memoryOk_next (memoryOk_takeFree h)
      · split
        · exact memoryOk_next (memoryOk_takeFree h)
        · split
          · exact memoryOk_next (memoryOk_post (memoryOk_takeFree h))
          · exact memoryOk_next (memoryOk_post (memoryOk_signalVector (memoryOk_withFields (memoryOk_updRing (memoryOk_paid
              (memoryOk_takeFree h) (fun _ h1 => memoryOk_store h1))) rfl)))

theorem memoryOk_execPrqBaseWrite {fn stage value s} (h : State.MemoryOk s) : OutOk (execPrqBaseWrite fn stage value s) := by
  unfold execPrqBaseWrite
  split
  · exact memoryOk_next h
  · split
    · exact memoryOk_next h
    · exact memoryOk_next (memoryOk_frozenWrite h (fun _ h1 => memoryOk_post (memoryOk_updRing h1)))

theorem memoryOk_countPrqErr {s fn stage} (h : State.MemoryOk s) : (countPrqErr s fn stage).MemoryOk := memoryOk_updRing h

theorem memoryOk_retryWindow {id s w} (h : State.MemoryOk s) : (retryWindow id s w).MemoryOk := by
  unfold retryWindow
  dsimp only
  split
  · exact memoryOk_post h
  · exact memoryOk_postFirst (memoryOk_foldl (memoryOk_updWindow h) (fun _ _ h1 => memoryOk_post h1))

theorem memoryOk_failWindow {id s w} (h : State.MemoryOk s) : (failWindow id s w).MemoryOk := by
  unfold failWindow
  dsimp only
  split
  · exact memoryOk_post (memoryOk_updWindow h)
  · exact memoryOk_foldl h (fun _ _ h1 => memoryOk_arriveSector h1)

theorem memoryOk_failLanes {s lanes} (h : State.MemoryOk s) : (failLanes s lanes).MemoryOk := memoryOk_trapMany h

theorem memoryOk_retryAllErrs {s} (h : State.MemoryOk s) : (retryAllErrs s).MemoryOk := by
  unfold retryAllErrs
  refine memoryOk_foldl h ?_
  intro _ _ h1
  split
  · exact h1
  · exact memoryOk_retryErrs h1

theorem memoryOk_answer {s r fail} (h : State.MemoryOk s) : (answer s r fail).MemoryOk := by
  unfold answer
  dsimp only
  refine memoryOk_retryAllErrs (memoryOk_wakeAll ?_)
  split
  · exact memoryOk_foldl (memoryOk_failLanes (memoryOk_withFields h rfl)) (fun _ _ h1 => memoryOk_failWindow h1)
  · exact memoryOk_foldl (memoryOk_withFields h rfl) (fun _ _ h1 => memoryOk_retryWindow h1)

theorem memoryOk_execPrqReply {fn stage value s} (h : State.MemoryOk s) : OutOk (execPrqReply fn stage value s) := by
  unfold execPrqReply
  dsimp only
  split
  · exact memoryOk_next h
  · split
    · exact memoryOk_next (memoryOk_countPrqErr h)
    · split
      · exact memoryOk_next (memoryOk_countPrqErr h)
      · exact memoryOk_next (memoryOk_post (memoryOk_answer h))

theorem memoryOk_sendPri {s r} (h : State.MemoryOk s) : (sendPri s r).MemoryOk := by
  unfold sendPri
  dsimp only
  split
  · exact h
  · exact memoryOk_updFn (memoryOk_withFields h rfl)

theorem memoryOk_sendPris {s fn} (h : State.MemoryOk s) : (sendPris s fn).MemoryOk :=
  memoryOk_foldl h (fun _ _ h1 => memoryOk_sendPri h1)

theorem memoryOk_raisePri {s r} (h : State.MemoryOk s) : (raisePri s r).MemoryOk :=
  memoryOk_sendPris (memoryOk_withFields h rfl)

theorem memoryOk_execAtsCompletion {fn addr pasid read write translated s} (h : State.MemoryOk s) :
    OutOk (execAtsCompletion fn addr pasid read write translated s) := by
  unfold execAtsCompletion
  dsimp only
  split
  · exact memoryOk_next h
  · refine memoryOk_next ?_
    refine memoryOk_foldl ?_ ?_
    · split
      · exact memoryOk_updFn h
      · exact h
    · intro _ _ h1
      split
      · split
        · exact memoryOk_raisePri h1
        · exact h1
      · exact memoryOk_answer h1

theorem memoryOk_execPrgResponse {fn index code s} (h : State.MemoryOk s) : OutOk (execPrgResponse fn index code s) := by
  unfold execPrgResponse
  split
  · exact memoryOk_next h
  · split
    · exact memoryOk_next (memoryOk_sendPris (memoryOk_answer (memoryOk_updFn h)))
    · split
      · exact memoryOk_next (memoryOk_sendPris (memoryOk_answer h))
      · exact memoryOk_next h

theorem memoryOk_drainWhere {s p} (h : State.MemoryOk s) : (drainWhere s p).MemoryOk := by
  unfold drainWhere
  refine memoryOk_foldl h ?_
  intro _ _ h1
  split
  · exact memoryOk_drainAll h1
  · exact h1

theorem memoryOk_fixWhere {s : State} {p : Group → Bool} (h : s.MemoryOk) : (fixWhere s p).MemoryOk := by
  refine ⟨h.hbm, h.host, h.peers, h.scratch, fun e he => ?_⟩
  obtain ⟨x, hx, rfl⟩ := List.mem_map.1 he
  split
  · exact h.saved x hx
  · exact h.saved x hx

theorem memoryOk_execAtsInvalidateRequest {fn addr pages s} (h : State.MemoryOk s) :
    OutOk (execAtsInvalidateRequest fn addr pages s) := by
  unfold execAtsInvalidateRequest
  dsimp only
  split
  · exact memoryOk_next (memoryOk_post h)
  · exact memoryOk_next (memoryOk_updFn (memoryOk_fixWhere (memoryOk_drainWhere h)))

theorem memoryOk_startInv {s fn kind ctxid pages seq} (h : State.MemoryOk s) :
    (startInv s fn kind ctxid pages seq).MemoryOk := by
  unfold startInv
  dsimp only
  split
  · exact h
  · exact memoryOk_post (memoryOk_updFn h)

theorem memoryOk_execInvContextAll {fn ctxid seq s} (h : State.MemoryOk s) : OutOk (execInvContextAll fn ctxid seq s) :=
  memoryOk_next (memoryOk_startInv h)

theorem memoryOk_execInvContextRange {fn ctxid pages seq s} (h : State.MemoryOk s) :
    OutOk (execInvContextRange fn ctxid pages seq s) := memoryOk_next (memoryOk_startInv h)

theorem memoryOk_execInvStage2All {fn seq s} (h : State.MemoryOk s) : OutOk (execInvStage2All fn seq s) := by
  unfold execInvStage2All
  refine memoryOk_next ?_
  split
  · exact memoryOk_startInv h
  · split
    · exact memoryOk_countPrqErr h
    · exact h

theorem memoryOk_execInvStage2Range {fn pages seq s} (h : State.MemoryOk s) : OutOk (execInvStage2Range fn pages seq s) := by
  unfold execInvStage2Range
  refine memoryOk_next ?_
  split
  · exact memoryOk_startInv h
  · split
    · exact memoryOk_countPrqErr h
    · exact h

theorem memoryOk_abortHeldLogs {s mine pages} (h : State.MemoryOk s) : (abortHeldLogs s mine pages).MemoryOk := by
  unfold abortHeldLogs
  dsimp only
  refine memoryOk_foldl h ?_
  intro _ _ h1
  refine memoryOk_foldl h1 ?_
  intro _ _ h2
  split
  · exact h2
  · exact memoryOk_abortEach h2

theorem memoryOk_watchAgain {s e} (h : State.MemoryOk s) : (watchAgain s e).MemoryOk := by
  unfold watchAgain
  dsimp only
  split
  · exact h
  · exact memoryOk_postOnce (memoryOk_updQueue (memoryOk_translate h))

theorem memoryOk_execInvComplete {fn s} (h : State.MemoryOk s) : OutOk (execInvComplete fn s) := by
  unfold execInvComplete
  dsimp only
  split
  · exact memoryOk_next h
  · split
    · exact memoryOk_next (memoryOk_post (memoryOk_abortHeldLogs (memoryOk_fixWhere (memoryOk_drainWhere h))))
    · exact memoryOk_next (memoryOk_updFn (memoryOk_foldl (memoryOk_withFields (memoryOk_abortHeldLogs (memoryOk_fixWhere
        (memoryOk_drainWhere h))) rfl) (fun _ _ h1 => memoryOk_watchAgain h1)))

end Sys2Proof.Machine
end

section
/-!
PROOFS. The security processor, the links, firmware, errors and registers keep the canonical form of every memory.
-/

namespace Sys2Proof.Machine

/-! ### Machine/Security.lean -/

theorem memoryOk_spBegin {s fn b} (h : State.MemoryOk s) : (spBegin s fn b).MemoryOk := memoryOk_updFn h

theorem memoryOk_spEnd {s fn status} (h : State.MemoryOk s) : (spEnd s fn status).MemoryOk :=
  memoryOk_withFields (memoryOk_updFn h) rfl

theorem memoryOk_spCommand {op self fn b} {s : State} {begin_ : State → Nat → Except (BitVec 8) State}
    {further : State → Nat → Bool × State} (h : s.MemoryOk)
    (hb : ∀ t d, t.MemoryOk → ExOk (begin_ t d))
    (hf : ∀ t d, t.MemoryOk → (further t d).2.MemoryOk) : OutOk (spCommand op self fn b s begin_ further) := by
  have hgo : ∀ t : State, t.MemoryOk → OutOk (match further t (spBody op b) with
      | (true, s) => .next (spEnd s fn 0)
      | (false, s) => .next ({ s with spJob := some (fn, b) }.post self)) := fun t ht => by
    have hu := hf t (spBody op b) ht
    split
    next e => exact memoryOk_next (memoryOk_spEnd (of_snd hu e))
    next e => exact memoryOk_next (memoryOk_post (memoryOk_withFields (of_snd hu e) rfl))
  unfold spCommand
  dsimp only
  split
  · split
    · exact hgo s h
    · exact memoryOk_next (memoryOk_post (memoryOk_withFields h rfl))
  · split
    · exact memoryOk_next (memoryOk_withFields h rfl)
    · split
      · exact memoryOk_next (memoryOk_post (memoryOk_withFields h rfl))
      · have hs : (spBegin { s with spWait := s.spWait.drop 1 } fn b).MemoryOk := memoryOk_spBegin (memoryOk_withFields h rfl)
        generalize spBegin { s with spWait := s.spWait.drop 1 } fn b = t at hs ⊢
        split
        · exact memoryOk_next (memoryOk_spEnd hs)
        · split
          · exact memoryOk_next (memoryOk_spEnd (memoryOk_withFields hs rfl))
          next e => exact hgo _ (hb { t with spSeq := t.spSeq + 1 } _ (memoryOk_withFields hs rfl) _ e)

theorem memoryOk_moveAt {s slice a b} (h : State.MemoryOk s) : (moveAt s slice a b).MemoryOk := memoryOk_withFields h rfl

theorem memoryOk_execWayMoveEpoch {slice s} (h : State.MemoryOk s) : OutOk (execWayMoveEpoch slice s) := by
  unfold execWayMoveEpoch
  dsimp only
  split
  · exact memoryOk_next h
  · split
    · exact memoryOk_next h
    · refine memoryOk_next (memoryOk_post ?_)
      split
      · exact memoryOk_moveAt (memoryOk_takeFree h)
      · exact memoryOk_takeFree h

theorem memoryOk_startEpochs {s slices} (h : State.MemoryOk s) : (startEpochs s slices).MemoryOk := by
  unfold startEpochs
  refine memoryOk_foldl h ?_
  intro _ _ h1
  split
  · exact memoryOk_postOnce h1
  · exact h1

theorem memoryOk_setFnPart {s f p} (h : State.MemoryOk s) : (setFnPart s f p).MemoryOk := by
  unfold setFnPart
  dsimp only
  exact memoryOk_updFn (memoryOk_frozenWrite h (fun _ h1 => memoryOk_id h1))

theorem memoryOk_initCore {s home guest lent k} (h : State.MemoryOk s) : (initCore s home guest lent k).MemoryOk :=
  memoryOk_setCore h rfl

theorem memoryOk_grantPartition {s : State} {d x} (h : s.MemoryOk) : (grantPartition s d x).MemoryOk := by
  have hs : ((x.funcs.foldl (fun s f => setFnPart s f (some x.pid)) (s.updPart x.pid (fun _ => { Part.reset with
      state := .creating, hostOwner := x.hostOwner, funcs := x.funcs, engines := x.engines, s2root := x.s2root, seqs := x.seqs
      ports := x.ports, features := x.features, cores := x.cores, slices := x.slices, channels := x.channels, owners := x.owners
      digest := Config.sm3 (bytesOf 256 d), slots := freshSlots })))).MemoryOk :=
    memoryOk_foldl (memoryOk_updPart h) fun t a h1 => memoryOk_setFnPart h1
  unfold grantPartition
  dsimp only
  refine memoryOk_startEpochs ⟨wf_zeroChannels _ _ hs.hbm, hs.host, hs.peers, hs.scratch, hs.saved⟩

theorem memoryOk_execPartCreate {fn block s} (h : State.MemoryOk s) : OutOk (execPartCreate fn block s) := by
  unfold execPartCreate
  dsimp only
  refine memoryOk_spCommand h ?_ ?_
  · intro _ _ h1
    split
    · exact memoryOk_error
    · split
      · exact memoryOk_error
      · split
        · exact memoryOk_error
        · exact memoryOk_ok (memoryOk_grantPartition h1)
  · intro _ _ h1
    dsimp only
    exact memoryOk_updPart (memoryOk_foldl h1 (fun _ _ h2 => memoryOk_initCore h2))

theorem memoryOk_dropReqs {s ids hs} (h : State.MemoryOk s) : (dropReqs s ids hs).MemoryOk := memoryOk_withFields h rfl

theorem memoryOk_recallGroup {s hdl} (h : State.MemoryOk s) : (recallGroup s hdl).MemoryOk := by
  unfold recallGroup
  split
  · exact memoryOk_retireNow (h) (by assumption)
  · exact memoryOk_discardGroup h

theorem memoryOk_recallGroups {s ks} (h : State.MemoryOk s) : (recallGroups s ks).MemoryOk := by
  unfold recallGroups
  dsimp only
  refine memoryOk_foldl ?_ (fun _ _ h1 => memoryOk_lookAgain h1)
  refine memoryOk_dropReqs (memoryOk_foldl ?_ (fun _ _ h1 => memoryOk_recallGroup h1))
  refine memoryOk_foldl h ?_
  intro _ _ h1
  split
  · exact memoryOk_updPart h1
  · exact h1

theorem memoryOk_returnCore {s k} (h : State.MemoryOk s) : (returnCore s k).MemoryOk := by
  unfold returnCore
  dsimp only
  split
  · exact h
  · exact memoryOk_postOnce (memoryOk_ackCore (memoryOk_setCore (memoryOk_updPart h) rfl))

theorem memoryOk_execRecall {fn block s} (h : State.MemoryOk s) : OutOk (execRecall fn block s) := by
  unfold execRecall
  dsimp only
  refine memoryOk_spCommand h ?_ ?_
  · intro _ _ h1
    split
    · exact memoryOk_error
    · split
      · exact memoryOk_error
      · split
        · exact memoryOk_error
        · exact memoryOk_ok (memoryOk_recallGroups h1)
  · intro _ _ h1
    split
    · dsimp only
      exact memoryOk_foldl h1 (fun _ _ h2 => memoryOk_returnCore h2)
    · exact h1

theorem memoryOk_vacate {s p ks} (h : State.MemoryOk s) : (vacate s p ks).MemoryOk := by
  unfold vacate
  dsimp only
  split
  · exact memoryOk_updPart h
  · exact memoryOk_requestHalt (memoryOk_updPart h)

theorem memoryOk_execLend {fn block s} (h : State.MemoryOk s) : OutOk (execLend fn block s) := by
  unfold execLend
  dsimp only
  refine memoryOk_spCommand h ?_ ?_
  · intro _ _ h1
    split
    · exact memoryOk_error
    · split
      · exact memoryOk_error
      · split
        · exact memoryOk_error
        · exact memoryOk_ok (memoryOk_vacate h1)
  · intro _ _ h1
    split
    · exact h1
    · dsimp only
      exact memoryOk_postOnce (memoryOk_updPart (memoryOk_foldl h1 (fun _ _ h2 => memoryOk_initCore h2)))

theorem memoryOk_foldBody {s p d} (h : State.MemoryOk s) : (foldBody s p d).MemoryOk := memoryOk_updPart h

theorem memoryOk_execPartGrow {fn block s} (h : State.MemoryOk s) : OutOk (execPartGrow fn block s) := by
  unfold execPartGrow
  dsimp only
  refine memoryOk_spCommand h ?_ ?_
  · intro _ _ h1
    split
    · exact memoryOk_error
    · split
      · exact memoryOk_error
      · split
        · exact memoryOk_error
        · exact memoryOk_ok h1
  · intro _ _ h1
    split
    · exact h1
    · dsimp only
      exact memoryOk_postOnce (memoryOk_postOnce (memoryOk_foldBody (memoryOk_foldl (memoryOk_updPart (memoryOk_foldl h1 (fun _
        _ h2 => memoryOk_initCore h2))) (fun _ _ h2 => memoryOk_setFnPart h2))))

theorem memoryOk_unmapQueue {s hdl} (h : State.MemoryOk s) : (unmapQueue s hdl).MemoryOk := memoryOk_updQueue h

theorem memoryOk_dropSeqs {s p seqs} (h : State.MemoryOk s) : (dropSeqs s p seqs).MemoryOk := by
  unfold dropSeqs
  dsimp only
  split
  · exact h
  · exact memoryOk_postOnce (memoryOk_foldl (memoryOk_updPart h) (fun _ _ h1 => memoryOk_unmapQueue h1))

theorem memoryOk_removeFn {s f} (h : State.MemoryOk s) : (removeFn s f).MemoryOk :=
  memoryOk_resetFn (memoryOk_frozenWrite h (fun _ h1 => memoryOk_id h1))

theorem memoryOk_dropStarted {s mine} (h : State.MemoryOk s) : (dropStarted s mine).MemoryOk := by
  unfold dropStarted
  refine memoryOk_foldl h ?_
  intro _ _ h1
  split
  · exact memoryOk_updQueue h1
  · exact h1

theorem memoryOk_leaveFn {s f} (h : State.MemoryOk s) : (leaveFn s f).MemoryOk :=
  memoryOk_setFnPart (memoryOk_withFields (memoryOk_dropStarted h) rfl)

theorem memoryOk_releaseCore {p s k} (h : State.MemoryOk s) : (releaseCore p s k).MemoryOk :=
  memoryOk_initCore (memoryOk_ackCore h)

theorem memoryOk_execPartShrink {fn block s} (h : State.MemoryOk s) : OutOk (execPartShrink fn block s) := by
  unfold execPartShrink
  dsimp only
  refine memoryOk_spCommand h ?_ ?_
  · intro _ _ h1
    split
    · exact memoryOk_error
    · split
      · exact memoryOk_error
      · split
        · exact memoryOk_error
        · split
          · exact memoryOk_error
          · exact memoryOk_ok (memoryOk_updPart (memoryOk_foldl (memoryOk_dropSeqs (memoryOk_vacate h1)) (fun _ _ h2 =>
              memoryOk_removeFn h2)))
  · intro _ _ h1
    split
    · exact h1
    · dsimp only
      exact memoryOk_postOnce (memoryOk_foldBody (memoryOk_updPart (memoryOk_foldl (memoryOk_foldl h1 (fun _ _ h2 =>
        memoryOk_releaseCore h2)) (fun _ _ h2 => memoryOk_leaveFn h2))))

theorem memoryOk_endPartition {s p} (h : State.MemoryOk s) : (endPartition s p).MemoryOk :=
  memoryOk_foldl (memoryOk_foldl (memoryOk_foldl (memoryOk_foldl (memoryOk_recallGroups (memoryOk_updPart h)) (fun _ _ h1 =>
    memoryOk_returnCore h1)) (fun _ _ h1 => memoryOk_frozenWrite h1 (fun _ h2 => memoryOk_id h2))) (fun _ _ h1 =>
    memoryOk_destroyQueue h1)) (fun _ _ h1 => memoryOk_destroyCtx h1)

theorem memoryOk_freePartition {s p} (h : State.MemoryOk s) : (freePartition s p).MemoryOk := by
  unfold freePartition
  dsimp only
  exact memoryOk_updPart (memoryOk_dropPidLines (memoryOk_withFields (memoryOk_foldl (memoryOk_dropStarted (memoryOk_foldl h
    (fun _ _ h1 => memoryOk_releaseCore h1))) (fun _ _ h1 => memoryOk_setFnPart h1)) rfl))

theorem memoryOk_execPartDestroy {fn block s} (h : State.MemoryOk s) : OutOk (execPartDestroy fn block s) := by
  unfold execPartDestroy
  dsimp only
  refine memoryOk_spCommand h ?_ ?_
  · intro _ _ h1
    split
    · exact memoryOk_error
    · split
      · exact memoryOk_error
      · exact memoryOk_ok (memoryOk_endPartition h1)
  · intro _ _ h1
    split
    · dsimp only
      exact memoryOk_freePartition (memoryOk_foldl h1 (fun _ _ h2 => memoryOk_returnCore h2))
    · exact h1

theorem memoryOk_execShareSet {fn block s} (h : State.MemoryOk s) : OutOk (execShareSet fn block s) := by
  unfold execShareSet
  refine memoryOk_spCommand h ?_ ?_
  · intro _ _ h1
    split
    · exact memoryOk_error
    · split
      · exact memoryOk_error
      · exact memoryOk_ok h1
  · intro _ _ h1
    dsimp only
    exact memoryOk_withFields h1 rfl

theorem memoryOk_execKeyEnroll {fn block s} (h : State.MemoryOk s) : OutOk (execKeyEnroll fn block s) := by
  unfold execKeyEnroll
  dsimp only
  refine memoryOk_spCommand h ?_ ?_
  · intro _ _ h1
    split
    · exact memoryOk_error
    · split
      · exact memoryOk_error
      · split
        · split
          · exact memoryOk_error
          · exact memoryOk_ok h1
        · split
          · exact memoryOk_error
          · exact memoryOk_ok h1
  · intro _ _ h1
    dsimp only
    exact memoryOk_updPart h1

theorem memoryOk_execMeterReport {fn block} {s : State} (h : s.MemoryOk) : OutOk (execMeterReport fn block s) := by
  unfold execMeterReport
  refine memoryOk_spCommand h (fun t d h1 => ?_) fun t d h1 => ?_
  · dsimp only
    split
    · exact memoryOk_error
    · exact memoryOk_ok h1
  · have hs := memoryOk_settleMeters h1
    dsimp only
    generalize settleMeters t = u at hs ⊢
    split
    · exact hs
    · exact memoryOk_store hs

theorem memoryOk_execMeterSeed {fn block s} (h : State.MemoryOk s) : OutOk (execMeterSeed fn block s) := by
  unfold execMeterSeed
  dsimp only
  refine memoryOk_spCommand h ?_ ?_
  · intro _ _ h1
    split
    · exact memoryOk_error
    · exact memoryOk_ok h1
  · intro _ _ h1
    dsimp only
    exact memoryOk_setMeter (memoryOk_settleMeters h1)

/-! ### Machine/Links.lean -/

theorem memoryOk_reply {s r} (h : State.MemoryOk s) : (reply s r).MemoryOk := memoryOk_withFields h rfl

theorem memoryOk_accAtomic {s op ty acc pa} (h : State.MemoryOk s) : (accAtomic s op ty acc pa).2.MemoryOk := by
  unfold accAtomic
  dsimp only
  split
  · split
    · dsimp only
      exact memoryOk_readAt h
    · dsimp only
      exact memoryOk_store h
  · split
    · dsimp only
      exact memoryOk_readAt h
    · dsimp only
      exact memoryOk_store h

theorem memoryOk_performAccess {s acc pa} (h : State.MemoryOk s) : (performAccess s acc pa).2.MemoryOk := by
  unfold performAccess
  dsimp only
  split
  · dsimp only
    exact memoryOk_readAt (memoryOk_linkBytes h)
  · dsimp only
    exact memoryOk_applyWrites (memoryOk_linkBytes h)
  · dsimp only
    exact memoryOk_accAtomic (memoryOk_linkBytes h)

theorem memoryOk_execHostAccess {part acc s} (h : State.MemoryOk s) : OutOk (execHostAccess part acc s) := by
  unfold execHostAccess
  split
  · exact memoryOk_next (memoryOk_reply h)
  · split
    · exact memoryOk_fault
    · split
      · exact memoryOk_next (memoryOk_reply (of_snd (memoryOk_performAccess h) (by assumption)))
      · exact memoryOk_next (of_snd (memoryOk_performAccess h) (by assumption))

theorem memoryOk_peerWalk {s p acc} (h : State.MemoryOk s) : (peerWalk s p acc).MemoryOk :=
  memoryOk_foldl h (fun _ _ h1 => memoryOk_l2Access h1)

theorem memoryOk_rejectPeer {s port acc} (h : State.MemoryOk s) : (rejectPeer s port acc).MemoryOk := by
  unfold rejectPeer
  dsimp only
  split
  · split
    · exact h
    · exact memoryOk_linkBytes h
  · refine memoryOk_addLost ?_
    split
    · exact h
    · exact memoryOk_linkBytes h

theorem memoryOk_replyPeer {s k r} (h : State.MemoryOk s) : (replyPeer s k r).MemoryOk := memoryOk_sendFlit (memoryOk_reply h)

theorem memoryOk_execPeerRequestReceive {port acc} {s : State} (h : s.MemoryOk) :
    OutOk (execPeerRequestReceive port acc s) := by
  unfold execPeerRequestReceive
  dsimp only
  split
  · exact memoryOk_next h
  · have hw : (((portOwner s port).map (fun i => peerWalk s (s.part i) acc)).getD s).MemoryOk := by
      cases portOwner s port with
      | none => exact h
      | some i => exact memoryOk_peerWalk h
    generalize ((portOwner s port).map (fun i => peerWalk s (s.part i) acc)).getD s = t at hw ⊢
    split
    · exact memoryOk_next (memoryOk_replyPeer (memoryOk_rejectPeer hw))
    · exact memoryOk_next (memoryOk_replyPeer (memoryOk_performAccess hw))

theorem memoryOk_loseLoads {s : State} {t} (h : s.MemoryOk) : (loseLoads s t).MemoryOk := by
  refine ⟨h.hbm, h.host, h.peers, h.scratch, fun e he => ?_⟩
  obtain ⟨x, hx, rfl⟩ := List.mem_map.1 he
  exact h.saved x hx

theorem memoryOk_stopDump {s k} (h : State.MemoryOk s) : (stopDump s k).MemoryOk := by
  unfold stopDump
  dsimp only
  split
  · split
    · exact memoryOk_withFields h rfl
    · exact h
  · split
    · exact memoryOk_withFields h rfl
    · exact h

theorem memoryOk_releasePort {s k} (h : State.MemoryOk s) : (releasePort s k).MemoryOk := by
  unfold releasePort
  dsimp only
  split
  · exact memoryOk_updPort (memoryOk_retryAllErrs h)
  · exact memoryOk_foldl (memoryOk_updPort (memoryOk_retryAllErrs h)) (fun _ _ h1 => memoryOk_deliverFlit h1)

theorem memoryOk_dropPort {s k} (h : State.MemoryOk s) : (dropPort s k).MemoryOk := by
  unfold dropPort
  dsimp only
  split
  · exact memoryOk_updPort h
  · exact memoryOk_addLost (memoryOk_updPort h)

theorem memoryOk_setLink {s k st u} (h : State.MemoryOk s) : (setLink s k st u).MemoryOk := by
  unfold setLink
  extract_lets sd sp
  have hd : sd.MemoryOk := by unfold sd; split <;> [exact h; exact memoryOk_stopDump h]
  have hp : sp.MemoryOk := memoryOk_foldl hd fun _ _ h1 => memoryOk_setPortState (memoryOk_updPort h1)
  split
  · exact hp
  · exact memoryOk_foldl hp fun _ _ h1 => memoryOk_releasePort h1
  · exact memoryOk_foldl hp fun _ _ h1 => memoryOk_releasePort h1
  · exact memoryOk_foldl hp fun _ _ h1 => memoryOk_dropPort h1
  · exact memoryOk_foldl hp fun _ _ h1 => memoryOk_dropPort h1

theorem memoryOk_tdisFail {s} (h : State.MemoryOk s) : (tdisFail s).MemoryOk :=
  memoryOk_foldl h (fun _ _ h1 => memoryOk_enterTdiError h1)

theorem memoryOk_hostGone {s} (h : State.MemoryOk s) : (hostGone s).MemoryOk :=
  memoryOk_foldl (memoryOk_foldl (memoryOk_tdisFail (memoryOk_loseLoads (memoryOk_foldl h (fun _ _ h1 => memoryOk_answer h1))))
    (fun _ _ h1 => memoryOk_updFn h1)) (fun _ _ h1 => memoryOk_suspendQueue h1)

theorem memoryOk_hostBack {s} (h : State.MemoryOk s) : (hostBack s).MemoryOk :=
  memoryOk_foldl (memoryOk_foldl h (fun _ _ h1 => memoryOk_updFn h1)) (fun _ _ h1 => memoryOk_resumeQueue h1)

theorem memoryOk_linkGone {s k} (h : State.MemoryOk s) : (linkGone s k).MemoryOk := by
  unfold linkGone
  split
  · exact memoryOk_hostGone h
  · split
    · exact h
    · exact memoryOk_loseLoads h

theorem memoryOk_linkDown {s k} (h : State.MemoryOk s) : (linkDown s k).MemoryOk := memoryOk_linkGone (memoryOk_setLink h)
theorem memoryOk_linkError {s k} (h : State.MemoryOk s) : (linkError s k).MemoryOk := memoryOk_linkGone (memoryOk_setLink h)
theorem memoryOk_linkRetrain {s k} (h : State.MemoryOk s) : (linkRetrain s k).MemoryOk := memoryOk_setLink h

theorem memoryOk_execLnkReset {fn port s} (h : State.MemoryOk s) : OutOk (execLnkReset fn port s) := by
  unfold execLnkReset
  dsimp only
  split
  · exact memoryOk_next (memoryOk_linkDown h)
  · exact memoryOk_next h

theorem memoryOk_execPartnerDetect {port remote s} (h : State.MemoryOk s) : OutOk (execPartnerDetect port remote s) := by
  unfold execPartnerDetect
  dsimp only
  split
  · exact memoryOk_next (memoryOk_setLink h)
  · exact memoryOk_next h

theorem memoryOk_failAttempt {s k} (h : State.MemoryOk s) : (failAttempt s k).MemoryOk := by
  unfold failAttempt
  dsimp only
  split
  · exact memoryOk_linkError (memoryOk_foldl h (fun _ _ h1 => memoryOk_updPort h1))
  · exact memoryOk_foldl h (fun _ _ h1 => memoryOk_updPort h1)

theorem memoryOk_execTrainingComplete {port goodLanes s} (h : State.MemoryOk s) :
    OutOk (execTrainingComplete port goodLanes s) := by
  unfold execTrainingComplete
  dsimp only
  split
  · exact memoryOk_next h
  · split
    · refine memoryOk_next ?_
      split
      · exact memoryOk_hostBack (memoryOk_setLink h)
      · exact memoryOk_setLink h
    · split
      · exact memoryOk_next (memoryOk_setLink h)
      · exact memoryOk_next (memoryOk_failAttempt h)

theorem memoryOk_execTrainingTimeout {port s} (h : State.MemoryOk s) : OutOk (execTrainingTimeout port s) := by
  unfold execTrainingTimeout
  split
  · exact memoryOk_next (memoryOk_linkError h)
  · exact memoryOk_next h

theorem memoryOk_execLinkFailure {port lossOfSignal s} (h : State.MemoryOk s) :
    OutOk (execLinkFailure port lossOfSignal s) := by
  unfold execLinkFailure
  dsimp only
  split
  · refine memoryOk_next ?_
    split
    · exact memoryOk_linkDown h
    · exact h
  · refine memoryOk_next ?_
    split
    · exact memoryOk_linkRetrain h
    · exact h

theorem memoryOk_execPcieLinkDown {pair s} (h : State.MemoryOk s) : OutOk (execPcieLinkDown pair s) := by
  unfold execPcieLinkDown
  dsimp only
  split
  · exact memoryOk_next (memoryOk_linkDown h)
  · exact memoryOk_next h

theorem memoryOk_ackFlits {s k ack} (h : State.MemoryOk s) : (ackFlits s k ack).MemoryOk := by
  unfold ackFlits
  dsimp only
  split
  · exact memoryOk_updPort (memoryOk_foldl (memoryOk_updPort h) (fun _ _ h1 => memoryOk_deliverFlit h1))
  · exact h

theorem memoryOk_execFlitReceive {port seq ack kind checkOk s} (h : State.MemoryOk s) :
    OutOk (execFlitReceive port seq ack kind checkOk s) := by
  unfold execFlitReceive
  dsimp only
  split
  · exact memoryOk_next h
  · split
    · refine memoryOk_next ?_
      split
      · exact memoryOk_linkRetrain (memoryOk_updPort h)
      · exact memoryOk_updPort h
    · split
      · exact memoryOk_next (memoryOk_ackFlits (memoryOk_updPort h))
      · split
        · exact memoryOk_next (memoryOk_ackFlits h)
        · exact memoryOk_next (memoryOk_linkRetrain h)

theorem memoryOk_dumpEnd {s status} (h : State.MemoryOk s) : (dumpEnd s status).MemoryOk := memoryOk_withFields h rfl

theorem memoryOk_execDump {fn value s} (h : State.MemoryOk s) : OutOk (execDump fn value s) := by
  unfold execDump
  dsimp only
  split
  · exact memoryOk_next h
  · split
    · split
      · exact memoryOk_next (memoryOk_dumpEnd h)
      · split
        · exact memoryOk_next h
        · split
          · exact memoryOk_next (memoryOk_dumpEnd h)
          · split
            · exact memoryOk_next (memoryOk_dumpEnd h)
            · exact memoryOk_next (memoryOk_post (memoryOk_withFields h rfl))
    · exact memoryOk_next (memoryOk_dumpEnd h)

theorem memoryOk_dumpTraffic {s sector n} (h : State.MemoryOk s) : (dumpTraffic s sector n).MemoryOk :=
  memoryOk_linkBytes (memoryOk_foldl h (fun _ _ h1 => memoryOk_l2Access h1))

theorem wf_moved {m : Memory} (h : m.wf = true) (cs : List Host.Cell) (ps : List Nat) (a b n : Nat) (takes : Nat → Bool) :
    Memory.wf ⟨moveCells cs m.cells a b n takes, movePoison ps m.poisoned a b n takes⟩ = true := by
  obtain ⟨hc, hp⟩ := (wf_iff m).1 h
  exact (wf_iff _).2 ⟨moveCells_ok _ _ _ _ _ _ hc, movePoison_rising _ _ _ _ _ _ hp⟩

theorem memoryOk_dumpSome {s : State} {channels i n} (h : s.MemoryOk) : (dumpSome s channels i n).2.MemoryOk := by
  have hd {a m : Nat} : (dumpTraffic s a m).MemoryOk := memoryOk_dumpTraffic h
  unfold dumpSome
  dsimp only
  exact ⟨hd.hbm, wf_moved h.host .., hd.peers, hd.scratch, hd.saved⟩

theorem memoryOk_execDumpComplete {s} (h : State.MemoryOk s) : OutOk (execDumpComplete s) := by
  unfold execDumpComplete
  dsimp only
  split
  · exact memoryOk_next h
  · split
    · exact memoryOk_next (memoryOk_dumpEnd h)
    · exact memoryOk_next (memoryOk_post (memoryOk_dumpSome (memoryOk_takeFree h)))

/-! ### Machine/Tdisp.lean -/

theorem memoryOk_respond {s r} (h : State.MemoryOk s) : (respond s r).MemoryOk := memoryOk_withFields h rfl
theorem memoryOk_refuse {s} (h : State.MemoryOk s) : (refuse s).MemoryOk := memoryOk_respond h

theorem memoryOk_execSecuredSpdmSession {session up s} (h : State.MemoryOk s) :
    OutOk (execSecuredSpdmSession session up s) := by
  unfold execSecuredSpdmSession
  dsimp only
  split
  · exact memoryOk_next h
  · split
    · exact memoryOk_next (memoryOk_withFields h rfl)
    · exact memoryOk_next (memoryOk_foldl (memoryOk_withFields h rfl) (fun _ _ h1 => memoryOk_enterTdiError h1))

theorem memoryOk_execIdeKmKeyProg {fn stream key s} (h : State.MemoryOk s) : OutOk (execIdeKmKeyProg fn stream key s) := by
  unfold execIdeKmKeyProg
  dsimp only
  split
  · exact memoryOk_next h
  · split
    · exact memoryOk_next (memoryOk_refuse h)
    · exact memoryOk_next (memoryOk_respond (memoryOk_withFields h rfl))

theorem memoryOk_execLockInterfaceRequest {vf stream session s} (h : State.MemoryOk s) :
    OutOk (execLockInterfaceRequest vf stream session s) := by
  unfold execLockInterfaceRequest
  split
  · exact memoryOk_next (memoryOk_respond (memoryOk_updFn h))
  · exact memoryOk_next (memoryOk_refuse h)

theorem memoryOk_execStartInterfaceRequest {vf s} (h : State.MemoryOk s) : OutOk (execStartInterfaceRequest vf s) := by
  unfold execStartInterfaceRequest
  split
  · exact memoryOk_next (memoryOk_respond (memoryOk_updFn h))
  · exact memoryOk_next (memoryOk_refuse h)

theorem memoryOk_execStopInterfaceRequest {vf s} (h : State.MemoryOk s) : OutOk (execStopInterfaceRequest vf s) := by
  unfold execStopInterfaceRequest
  dsimp only
  split
  · exact memoryOk_next (memoryOk_respond (memoryOk_updFn (memoryOk_resetFn h)))
  · exact memoryOk_next (memoryOk_refuse h)

theorem memoryOk_execGetDeviceInterfaceReport {vf s} (h : State.MemoryOk s) : OutOk (execGetDeviceInterfaceReport vf s) := by
  unfold execGetDeviceInterfaceReport
  split
  · exact memoryOk_next (memoryOk_respond h)
  · exact memoryOk_next (memoryOk_refuse h)

theorem memoryOk_execTdiError {vf s} (h : State.MemoryOk s) : OutOk (execTdiError vf s) := by
  unfold execTdiError
  split
  · exact memoryOk_next (memoryOk_enterTdiError h)
  · exact memoryOk_next h

theorem memoryOk_execGetCertificate {s} (h : State.MemoryOk s) : OutOk (execGetCertificate s) := by
  unfold execGetCertificate
  split
  · exact memoryOk_next h
  · exact memoryOk_next (memoryOk_respond h)

theorem memoryOk_execGetMeasurements {index s} (h : State.MemoryOk s) : OutOk (execGetMeasurements index s) := by
  unfold execGetMeasurements
  dsimp only
  split
  · exact memoryOk_next h
  · split
    · exact memoryOk_next (memoryOk_refuse h)
    · exact memoryOk_next (memoryOk_respond h)

/-! ### Machine/Firmware.lean -/

theorem memoryOk_execBoot {s} (h : State.MemoryOk s) : OutOk (execBoot s) := by
  unfold execBoot
  split
  · exact memoryOk_next h
  · exact memoryOk_next (memoryOk_withFields h rfl)

theorem memoryOk_fwEnd {s status} (h : State.MemoryOk s) : (fwEnd s status).MemoryOk := memoryOk_withFields h rfl

theorem memoryOk_fwCommand {op slotB self} {effect : State → State} {s : State} (h : s.MemoryOk)
    (he : ∀ t, t.MemoryOk → (effect t).MemoryOk) : OutOk (fwCommand op slotB self effect s) := by
  unfold fwCommand
  split
  · refine memoryOk_next ?_
    split
    · exact h
    · split
      · exact memoryOk_post h
      · exact he s h
  · split
    · exact memoryOk_next (memoryOk_post (memoryOk_withFields h rfl))
    · exact memoryOk_next h

theorem memoryOk_execWriteSlot {slotB s} (h : State.MemoryOk s) : OutOk (execWriteSlot slotB s) := by
  unfold execWriteSlot
  dsimp only
  refine memoryOk_fwCommand h ?_
  intro _ h1
  split
  · exact memoryOk_fwEnd h1
  · exact memoryOk_fwEnd (memoryOk_withFields h1 rfl)

theorem memoryOk_execSetMarker {slotB s} (h : State.MemoryOk s) : OutOk (execSetMarker slotB s) := by
  unfold execSetMarker
  refine memoryOk_fwCommand h ?_
  intro _ h1
  split
  · exact memoryOk_fwEnd h1
  · exact memoryOk_fwEnd (memoryOk_withFields h1 rfl)

theorem memoryOk_execCommitSvn {s} (h : State.MemoryOk s) : OutOk (execCommitSvn s) :=
  memoryOk_fwCommand h (fun _ h1 => memoryOk_fwEnd (memoryOk_withFields h1 rfl))

theorem memoryOk_execOwnerFuse {s} (h : State.MemoryOk s) : OutOk (execOwnerFuse s) := by
  unfold execOwnerFuse
  dsimp only
  refine memoryOk_fwCommand h ?_
  intro _ h1
  split
  · exact memoryOk_fwEnd h1
  · exact memoryOk_fwEnd (memoryOk_withFields h1 rfl)

theorem memoryOk_execWriteConfig {s} (h : State.MemoryOk s) : OutOk (execWriteConfig s) := by
  unfold execWriteConfig
  dsimp only
  refine memoryOk_fwCommand h ?_
  intro _ h1
  split
  · exact memoryOk_fwEnd h1
  · exact memoryOk_fwEnd (memoryOk_withFields h1 rfl)

theorem memoryOk_execPowerLoss {s : State} (h : s.MemoryOk) : OutOk (execPowerLoss s) := by
  have hs := memoryOk_settleMeters h
  have hr : State.reset.MemoryOk := resetState.1
  unfold execPowerLoss State.takeFree
  dsimp only
  generalize List.range 768 = l
  refine memoryOk_next ⟨?_, hs.host, hs.peers, fun e he => ?_, ?_⟩
  · exact hr.hbm
  · obtain ⟨c, -, rfl⟩ := List.mem_map.1 he
    exact wf_empty
  · exact hr.saved

/-! ### Machine/Ras.lean -/

theorem memoryOk_countRas {s k} (h : State.MemoryOk s) : (countRas s k).MemoryOk := by
  unfold countRas
  dsimp only
  split
  · exact h
  · exact memoryOk_withFields h rfl

theorem memoryOk_poisonSpecial {s g c n spr} (h : State.MemoryOk s) : (poisonSpecial s g c n spr).MemoryOk := by
  unfold poisonSpecial
  split
  · exact memoryOk_updLane h
  · exact memoryOk_updCourse h
  · exact memoryOk_updLane h
  · exact memoryOk_updLane h
  · exact h

theorem memoryOk_strike {s : State} {e : ErrSite} (h : s.MemoryOk) : (strike s e).MemoryOk := by
  cases e with
  | corrected => exact h
  | hbm k =>
    unfold strike
    dsimp only
    split
    · exact MemoryOk.setMem h .hbm _ (wf_setPoison _ _ _ h.hbm)
    · exact h
  | scratch c k =>
    unfold strike
    dsimp only
    split
    · exact MemoryOk.setCore h _ _ (wf_setPoison _ _ _ (MemoryOk.core h c))
    · exact h
  | vReg | pReg => exact memoryOk_updLane h
  | sReg => exact memoryOk_updCourse h
  | special => exact memoryOk_poisonSpecial h
  | reserve => exact memoryOk_setCore h (setReserve_scratch ..)
  | tile => exact memoryOk_updGroup h fun _ => rfl
  | l1 => exact memoryOk_clearL1 h
  | icache => exact memoryOk_setCore h rfl
  | flash => exact memoryOk_withFields h rfl

theorem memoryOk_execSoftError {site s} (h : State.MemoryOk s) : OutOk (execSoftError site s) := by
  unfold execSoftError
  refine memoryOk_next ?_
  split
  · exact memoryOk_countRas h
  · exact memoryOk_countRas (memoryOk_strike h)

theorem memoryOk_execPatrolScrub {sector s} (h : State.MemoryOk s) : OutOk (execPatrolScrub sector s) := by
  unfold execPatrolScrub
  dsimp only
  split
  · refine memoryOk_next ?_
    split
    · exact memoryOk_countRas (memoryOk_takeFree h)
    · exact memoryOk_takeFree h
  · exact memoryOk_next h

theorem memoryOk_execKatConfirmed {cluster s} (h : State.MemoryOk s) : OutOk (execKatConfirmed cluster s) := by
  unfold execKatConfirmed
  dsimp only
  split
  · exact memoryOk_next h
  · exact memoryOk_next (memoryOk_foldl (memoryOk_countRas (memoryOk_withFields h rfl)) (fun _ _ h1 => memoryOk_partEvent h1))

/-! ### Machine/Records.lean -/

theorem memoryOk_rresGive {x k f} {s : State} {n t st g} (h : s.MemoryOk) : (rresGive x k f s n t st g).2.MemoryOk := by
  unfold rresGive
  split
  · exact h
  · split
    next e => exact memoryOk_giveRun h e
    · exact h

theorem memoryOk_rresLane {x k f mode s n} (h : State.MemoryOk s) : (rresLane x k f mode s n).2.MemoryOk := by
  unfold rresLane
  dsimp only
  split
  · exact h
  · split
    · dsimp only
      exact memoryOk_updLane h
    · split
      · exact h
      · split
        · exact h
        · split
          · exact h
          · split
            · exact h
            · split
              · exact memoryOk_rresGive h
              · split
                · exact memoryOk_rresGive h
                · split
                  · exact memoryOk_rresGive h
                  · dsimp only
                    exact memoryOk_postOnce (memoryOk_updLaunch h)

theorem memoryOk_execRres {k f s} (h : State.MemoryOk s) : OutOk (execRres k f s) :=
  memoryOk_issue h (fun _ => memoryOk_postOnce (memoryOk_launcherTriggers (memoryOk_finishLanes (memoryOk_grantWaiting h) (fun
    _ _ h1 => memoryOk_rresLane h1))))

theorem memoryOk_closeRun {s x n t} (h : State.MemoryOk s) : (closeRun s x n t).MemoryOk := memoryOk_updLane h

theorem memoryOk_remitLane {x f s n} (h : State.MemoryOk s) : (remitLane x f s n).2.MemoryOk := by
  unfold remitLane
  dsimp only
  split
  · exact h
  · split
    · exact h
    · dsimp only
      exact memoryOk_post (memoryOk_updLaunch (memoryOk_closeRun h))

theorem memoryOk_execRemit {k f s} (h : State.MemoryOk s) : OutOk (execRemit k f s) :=
  memoryOk_issue h (fun _ => memoryOk_finishLanes h (fun _ _ h1 => memoryOk_remitLane h1))

theorem memoryOk_rcancelLane {x f s n} (h : State.MemoryOk s) : (rcancelLane x f s n).2.MemoryOk := by
  unfold rcancelLane
  dsimp only
  split
  · exact h
  · split
    · exact h
    · dsimp only
      exact memoryOk_post (memoryOk_updLaunch (memoryOk_closeRun h))

theorem memoryOk_execRcancel {k f s} (h : State.MemoryOk s) : OutOk (execRcancel k f s) :=
  memoryOk_issue h (fun _ => memoryOk_finishLanes h (fun _ _ h1 => memoryOk_rcancelLane h1))

theorem memoryOk_takeItems {s x c} (h : State.MemoryOk s) : (takeItems s x c).2.MemoryOk := by
  unfold takeItems
  dsimp only
  split
  · exact h
  · dsimp only
    exact memoryOk_setLaunch h

theorem memoryOk_nextItem {s x n item} (h : State.MemoryOk s) : (nextItem s x n item).MemoryOk := by
  unfold nextItem
  dsimp only
  split
  · exact h
  · exact memoryOk_updGroup h (fun _ => rfl)
  · refine memoryOk_updLane ?_
    split
    · exact memoryOk_commitHeld (memoryOk_drainCourse h)
    · exact h

theorem memoryOk_fetchLane {x k f s n} (h : State.MemoryOk s) : (fetchLane x k f s n).2.MemoryOk := by
  unfold fetchLane
  dsimp only
  split
  · exact h
  · dsimp only
    exact memoryOk_nextItem (memoryOk_takeItems h)

theorem memoryOk_fetchShared {x k f lead t s n} (h : State.MemoryOk s) : (fetchShared x k f lead t s n).2.MemoryOk := by
  unfold fetchShared
  dsimp only
  split
  · exact h
  · dsimp only
    exact memoryOk_nextItem h

theorem memoryOk_execFetch {k f s} (h : State.MemoryOk s) : OutOk (execFetch k f s) := by
  unfold execFetch
  dsimp only
  refine memoryOk_issue h ?_
  intro _
  split
  · exact memoryOk_finishLanes h (fun _ _ h1 => memoryOk_fetchLane h1)
  · refine memoryOk_finishLanes ?_ (fun _ _ h1 => memoryOk_fetchShared h1)
    split
    · exact memoryOk_takeItems h
    · exact h

theorem memoryOk_execRecordPublished {launch s} (h : State.MemoryOk s) : OutOk (execRecordPublished launch s) := by
  unfold execRecordPublished
  dsimp only
  split
  · exact memoryOk_next h
  · split
    · exact memoryOk_next h
    · exact memoryOk_next (memoryOk_launcherPass (memoryOk_updLaunch (memoryOk_drainAll h)))

theorem memoryOk_execCoalescingTimerExpire {launch node key s} (h : State.MemoryOk s) :
    OutOk (execCoalescingTimerExpire launch node key s) := by
  unfold execCoalescingTimerExpire
  split
  · exact memoryOk_next h
  · split
    · exact memoryOk_next h
    · split
      · split
        · exact memoryOk_next h
        · split
          · exact memoryOk_next (memoryOk_launcherPass h)
          · exact memoryOk_next (memoryOk_postOnce h)
      · exact memoryOk_next h

theorem memoryOk_execRresGrant {launch s} (h : State.MemoryOk s) : OutOk (execRresGrant launch s) :=
  memoryOk_next (memoryOk_launcherPass h)

/-! ### Machine/Registers.lean -/

theorem memoryOk_writeCtxCmd {fn v s} (h : State.MemoryOk s) : OutOk (writeCtxCmd fn v s) := by
  unfold writeCtxCmd
  dsimp only
  split
  · refine memoryOk_next ?_
    split
    · exact h
    · exact memoryOk_endCtx (memoryOk_beginCtx h)
  · split
    · exact memoryOk_execCtxCreate h
    · exact memoryOk_execCtxDestroy h
    · exact memoryOk_execLoadObject h
    · exact memoryOk_execUnloadObject h
    · exact memoryOk_execSave h
    · exact memoryOk_execRestore h
    · exact memoryOk_execCheckpoint h

theorem memoryOk_writeQCmd {fn v s} (h : State.MemoryOk s) : OutOk (writeQCmd fn v s) := by
  unfold writeQCmd
  dsimp only
  split
  · refine memoryOk_next ?_
    split
    · exact h
    · exact memoryOk_endQ (memoryOk_beginQ h)
  · split
    · exact memoryOk_execQCreate h
    · exact memoryOk_execQDestroy h
    · exact memoryOk_execQClear h

theorem memoryOk_writeInvCmd {fn v s} (h : State.MemoryOk s) : OutOk (writeInvCmd fn v s) := by
  unfold writeInvCmd
  dsimp only
  split
  · exact memoryOk_execInvContextAll h
  · exact memoryOk_execInvContextRange h
  · exact memoryOk_execInvStage2All h
  · exact memoryOk_execInvStage2Range h

theorem memoryOk_writeSpCmd {fn v s} (h : State.MemoryOk s) : OutOk (writeSpCmd fn v s) := by
  unfold writeSpCmd
  dsimp only
  split
  · exact memoryOk_next h
  · exact memoryOk_next (memoryOk_post (memoryOk_spBegin h))

theorem memoryOk_writeFwCmd {v s} (h : State.MemoryOk s) : OutOk (writeFwCmd v s) := by
  unfold writeFwCmd
  dsimp only
  split
  · exact memoryOk_next h
  · split
    · exact memoryOk_next (memoryOk_fwEnd h)
    · split
      · exact memoryOk_execWriteSlot h
      · exact memoryOk_execSetMarker h
      · exact memoryOk_execCommitSvn h
      · exact memoryOk_execOwnerFuse h
      · exact memoryOk_execWriteConfig h

theorem memoryOk_writeRing {fn stage o v s} (h : State.MemoryOk s) : OutOk (writeRing fn stage o v s) := by
  unfold writeRing
  split
  · exact memoryOk_execPrqBaseWrite h
  · exact memoryOk_next (memoryOk_post (memoryOk_updRing h))
  · exact memoryOk_execPrqReply h
  · exact memoryOk_next h

theorem memoryOk_writeMsix {s fn o v} (h : State.MemoryOk s) : (writeMsix s fn o v).MemoryOk :=
  memoryOk_frozenWrite h (fun _ h1 => memoryOk_updFn h1)

theorem memoryOk_writeOwn {fn x v s} (h : State.MemoryOk s) : OutOk (writeOwn fn x v s) := by
  unfold writeOwn
  dsimp only
  split
  · exact memoryOk_next (memoryOk_updFn h)
  · exact memoryOk_writeInvCmd h
  · exact memoryOk_next (memoryOk_updFn h)
  · exact memoryOk_writeCtxCmd h
  · exact memoryOk_next (memoryOk_updFn h)
  · exact memoryOk_writeQCmd h
  · exact memoryOk_next (memoryOk_frozenWrite h (fun _ h1 => memoryOk_updFn h1))
  · exact memoryOk_execEvtHeadWrite h
  · exact memoryOk_next (memoryOk_updFn h)
  · exact memoryOk_writeSpCmd h
  · split
    · exact memoryOk_writeRing h
    · split
      · exact memoryOk_next (memoryOk_writeMsix h)
      · exact memoryOk_next h

theorem memoryOk_writeDump {fn x v s} (h : State.MemoryOk s) : OutOk (writeDump fn x v s) := by
  unfold writeDump
  dsimp only
  split
  · exact memoryOk_next (memoryOk_withFields h rfl)
  · exact memoryOk_execDump h
  · exact memoryOk_next h

theorem memoryOk_writeFw {x v s} (h : State.MemoryOk s) : OutOk (writeFw x v s) := by
  unfold writeFw
  dsimp only
  split
  · exact memoryOk_next (memoryOk_withFields h rfl)
  · exact memoryOk_writeFwCmd h
  · exact memoryOk_next h

theorem memoryOk_writePf {x v s} (h : State.MemoryOk s) : OutOk (writePf x v s) := by
  unfold writePf
  split
  · split
    · exact memoryOk_execLnkReset h
    · exact memoryOk_next h
  · split
    · exact memoryOk_writeDump h
    · split
      · exact memoryOk_writeFw h
      · split
        · exact memoryOk_writeRing h
        · split
          · exact memoryOk_execFnPauseWrite h
          · split
            · exact memoryOk_execWeightWrite h
            · exact memoryOk_next h

theorem memoryOk_writeConfigSpace {fn x v s} (h : State.MemoryOk s) : (writeConfigSpace fn x v s).MemoryOk := by
  unfold writeConfigSpace
  split
  · exact memoryOk_frozenWrite h (fun _ h1 => memoryOk_updFn h1)
  · exact memoryOk_frozenWrite h (fun _ h1 => memoryOk_updFn h1)
  · exact memoryOk_updFn h
  · exact memoryOk_updFn h
  · exact h

theorem memoryOk_execRegisterWrite {fn off value s} (h : State.MemoryOk s) : OutOk (execRegisterWrite fn off value s) := by
  unfold execRegisterWrite
  dsimp only
  split
  · exact memoryOk_next h
  · split
    · split
      · exact memoryOk_writeFw h
      · exact memoryOk_next h
    · split
      · split
        · exact memoryOk_writeDump h
        · exact memoryOk_next h
      · split
        · exact memoryOk_next (memoryOk_writeConfigSpace h)
        · split
          · exact memoryOk_next h
          · split
            · split
              · exact memoryOk_writePf h
              · exact memoryOk_next h
            · exact memoryOk_writeOwn h

/-! ### Machine/Select.lean -/

theorem memoryOk_orderLoads {s} (h : State.MemoryOk s) : (orderLoads s).MemoryOk := by
  unfold orderLoads
  dsimp only
  split
  · exact h
  · split
    · exact h
    · exact memoryOk_updCourse h

theorem memoryOk_markServed {s core grp course} (h : State.MemoryOk s) : (markServed s core grp course).MemoryOk :=
  memoryOk_setCore h rfl

theorem memoryOk_owedTraps {s t : State} {x c} (h : s.MemoryOk) (e : owedTraps s x c = some t) : t.MemoryOk := by
  unfold owedTraps at e
  dsimp only at e
  split at e
  · cases e
  · exact Option.some.inj e ▸ memoryOk_raiseTraps (memoryOk_updCourse h)

theorem memoryOk_fetchMiss {s g x} (h : State.MemoryOk s) : (fetchMiss s g x).MemoryOk := by
  unfold fetchMiss
  split
  · exact memoryOk_postOnce (of_snd (memoryOk_fetchPlace h) (by assumption))
  · exact memoryOk_holdLanes (of_snd (memoryOk_fetchPlace h) (by assumption))
  · exact memoryOk_raiseTraps (of_snd (memoryOk_fetchPlace h) (by assumption))

theorem memoryOk_selectFrom {s g core grp course} (h : State.MemoryOk s) : (selectFrom s g core grp course).MemoryOk := by
  unfold selectFrom
  dsimp only
  split
  · exact h
  · split
    · exact memoryOk_fetchMiss (memoryOk_markServed h)
    · split
      · exact memoryOk_fetchMiss (memoryOk_dropLine (memoryOk_takeFree (memoryOk_markServed h)))
      · exact memoryOk_orderLoads (memoryOk_withFields (memoryOk_updCourse (memoryOk_takeFree (memoryOk_markServed h))) rfl)

theorem memoryOk_execIssueSelection {core grp course s} (h : State.MemoryOk s) :
    OutOk (execIssueSelection core grp course s) := by
  unfold execIssueSelection
  dsimp only
  split
  · exact memoryOk_next h
  · split
    · exact memoryOk_next h
    · split
      · exact memoryOk_next (memoryOk_enterHandler h)
      · split
        · exact memoryOk_next h
        · split
          · exact memoryOk_next (memoryOk_owedTraps (h) (by assumption))
          · exact memoryOk_next (memoryOk_selectFrom h)

theorem memoryOk_execLineFill {core grp line s} (h : State.MemoryOk s) : OutOk (execLineFill core grp line s) := by
  unfold execLineFill
  split
  · exact memoryOk_next h
  · split
    · exact memoryOk_next h
    · split
      · split
        · exact memoryOk_next (memoryOk_postOnce (of_snd (memoryOk_fetchPlace h) (by assumption)))
        · exact memoryOk_next (memoryOk_keepLine (memoryOk_readAt (of_snd (memoryOk_fetchPlace h) (by assumption))))
      · refine memoryOk_next ?_
        split
        · exact memoryOk_keepLine (of_snd (memoryOk_fetchPlace h) (by assumption))
        · exact of_snd (memoryOk_fetchPlace h) (by assumption)
      · exact memoryOk_next (of_snd (memoryOk_fetchPlace h) (by assumption))

theorem memoryOk_execLongLatencyComplete {grp course index s} (h : State.MemoryOk s) :
    OutOk (execLongLatencyComplete grp course index s) := by
  unfold execLongLatencyComplete
  split
  · exact memoryOk_next h
  · exact memoryOk_next (memoryOk_stepLong h)

/-! ### Machine/Traps.lean -/

theorem memoryOk_execTrap {k f s} (h : State.MemoryOk s) : OutOk (execTrap k f s) :=
  memoryOk_issue h (fun _ => memoryOk_trapLanes h)

theorem memoryOk_execBkpt {k f s} (h : State.MemoryOk s) : OutOk (execBkpt k f s) :=
  memoryOk_issue h (fun _ => memoryOk_trapLanes h)

theorem memoryOk_hretLane {x s n} (h : State.MemoryOk s) : (hretLane x s n).MemoryOk := by
  unfold hretLane
  dsimp only
  refine memoryOk_returnLane ?_
  split
  · exact memoryOk_commitHolder h
  · exact h

theorem memoryOk_execHret {k _f s} (h : State.MemoryOk s) : OutOk (execHret k _f s) := by
  unfold execHret
  dsimp only
  refine memoryOk_issue h ?_
  intro _
  split
  · exact memoryOk_trapLanes h
  · split
    · exact memoryOk_deselect (memoryOk_raiseTraps h)
    · exact memoryOk_deselect (memoryOk_leaveHandler (memoryOk_advance (memoryOk_foldl h (fun _ _ h1 => memoryOk_hretLane h1))))

theorem memoryOk_execHandlerEntry {core s} (h : State.MemoryOk s) : OutOk (execHandlerEntry core s) :=
  memoryOk_next (memoryOk_enterHandler h)

end Sys2Proof.Machine
end

section
/-!
PROOFS. The dispatch and the step keep the canonical form of every memory.
-/

namespace Sys2Proof.Machine

/-! ### The dispatch -/

theorem memoryOk_exec {i : Instr} {s : State} (h : s.MemoryOk) : OutOk (exec i s) := by
  cases i with
  | iadd => exact memoryOk_execIadd h
  | iaddImm => exact memoryOk_execIaddImm h
  | isub => exact memoryOk_execIsub h
  | isubImm => exact memoryOk_execIsubImm h
  | imul => exact memoryOk_execImul h
  | imulImm => exact memoryOk_execImulImm h
  | imulh => exact memoryOk_execImulh h
  | imad => exact memoryOk_execImad h
  | ineg => exact memoryOk_execIneg h
  | iabs => exact memoryOk_execIabs h
  | imin => exact memoryOk_execImin h
  | iminImm => exact memoryOk_execIminImm h
  | imax => exact memoryOk_execImax h
  | imaxImm => exact memoryOk_execImaxImm h
  | ishl => exact memoryOk_execIshl h
  | ishr => exact memoryOk_execIshr h
  | irot => exact memoryOk_execIrot h
  | and => exact memoryOk_execAnd h
  | andImm => exact memoryOk_execAndImm h
  | or => exact memoryOk_execOr h
  | orImm => exact memoryOk_execOrImm h
  | xor => exact memoryOk_execXor h
  | xorImm => exact memoryOk_execXorImm h
  | andn => exact memoryOk_execAndn h
  | andnImm => exact memoryOk_execAndnImm h
  | not => exact memoryOk_execNot h
  | bfx => exact memoryOk_execBfx h
  | bfi => exact memoryOk_execBfi h
  | brev => exact memoryOk_execBrev h
  | popc => exact memoryOk_execPopc h
  | clz => exact memoryOk_execClz h
  | ctz => exact memoryOk_execCtz h
  | icmp => exact memoryOk_execIcmp h
  | icmpImm => exact memoryOk_execIcmpImm h
  | isel => exact memoryOk_execIsel h
  | lea => exact memoryOk_execLea h
  | leaImm => exact memoryOk_execLeaImm h
  | mov => exact memoryOk_execMov h
  | movi => exact memoryOk_execMovi h
  | pset => exact memoryOk_execPset h
  | plop => exact memoryOk_execPlop h
  | shfl => exact memoryOk_execShfl h
  | qxch => exact memoryOk_execQxch h
  | vote => exact memoryOk_execVote h
  | perm => exact memoryOk_execPerm h
  | pack => exact memoryOk_execPack h
  | unpack => exact memoryOk_execUnpack h
  | movs => exact memoryOk_execMovs h
  | movss => exact memoryOk_execMovss h
  | pchk => exact memoryOk_execPchk h
  | pclr => exact memoryOk_execPclr h
  | fadd => exact memoryOk_execFadd h
  | fsub => exact memoryOk_execFsub h
  | fmul => exact memoryOk_execFmul h
  | fma => exact memoryOk_execFma h
  | fmin => exact memoryOk_execFmin h
  | fmax => exact memoryOk_execFmax h
  | fcmp => exact memoryOk_execFcmp h
  | fclass => exact memoryOk_execFclass h
  | frnd => exact memoryOk_execFrnd h
  | fscale => exact memoryOk_execFscale h
  | frcp => exact memoryOk_execFrcp h
  | frsq => exact memoryOk_execFrsq h
  | fsqrt => exact memoryOk_execFsqrt h
  | fexp2 => exact memoryOk_execFexp2 h
  | flog2 => exact memoryOk_execFlog2 h
  | fsin => exact memoryOk_execFsin h
  | fcos => exact memoryOk_execFcos h
  | ftanh => exact memoryOk_execFtanh h
  | fdiv => exact memoryOk_execFdiv h
  | cvt => exact memoryOk_execCvt h
  | cvti => exact memoryOk_execCvti h
  | cvtf => exact memoryOk_execCvtf h
  | bscale => exact memoryOk_execBscale h
  | fmtq => exact memoryOk_execFmtq h
  | ld => exact memoryOk_execLd h
  | st => exact memoryOk_execSt h
  | cas => exact memoryOk_execCas h
  | fence => exact memoryOk_execFence h
  | pref => exact memoryOk_execPref h
  | cctl => exact memoryOk_execCctl h
  | probe => exact memoryOk_execProbe h
  | mapc => exact memoryOk_execMapc h
  | atomAdd => exact memoryOk_execAtomAdd h
  | atomMin => exact memoryOk_execAtomMin h
  | atomMax => exact memoryOk_execAtomMax h
  | atomAnd => exact memoryOk_execAtomAnd h
  | atomOr => exact memoryOk_execAtomOr h
  | atomXor => exact memoryOk_execAtomXor h
  | atomXchg => exact memoryOk_execAtomXchg h
  | redAdd => exact memoryOk_execRedAdd h
  | redMin => exact memoryOk_execRedMin h
  | redMax => exact memoryOk_execRedMax h
  | redAnd => exact memoryOk_execRedAnd h
  | redOr => exact memoryOk_execRedOr h
  | redXor => exact memoryOk_execRedXor h
  | wbind => exact memoryOk_execWbind h
  | wtouch => exact memoryOk_execWtouch h
  | wstat => exact memoryOk_execWstat h
  | wdrop => exact memoryOk_execWdrop h
  | wflush => exact memoryOk_execWflush h
  | cntwait => exact memoryOk_execCntwait h
  | binit => exact memoryOk_execBinit h
  | barr => exact memoryOk_execBarr h
  | bwait => exact memoryOk_execBwait h
  | barw => exact memoryOk_execBarw h
  | bexp => exact memoryOk_execBexp h
  | binv => exact memoryOk_execBinv h
  | mma => exact memoryOk_execMma h
  | mmaz => exact memoryOk_execMmaz h
  | zld => exact memoryOk_execZld h
  | zst => exact memoryOk_execZst h
  | zmov => exact memoryOk_execZmov h
  | zrmax => exact memoryOk_execZrmax h
  | zrscale => exact memoryOk_execZrscale h
  | bra => exact memoryOk_execBra h
  | brx => exact memoryOk_execBrx h
  | call => exact memoryOk_execCall h
  | callx => exact memoryOk_execCallx h
  | ret k f => exact memoryOk_execRet (_f := f) h
  | exit k f => exact memoryOk_execExit (_f := f) h
  | yield k f => exact memoryOk_execYield (_f := f) h
  | sleep => exact memoryOk_execSleep h
  | nop k f => exact memoryOk_execNop (_f := f) h
  | regq => exact memoryOk_execRegq h
  | rres => exact memoryOk_execRres h
  | remit => exact memoryOk_execRemit h
  | rcancel => exact memoryOk_execRcancel h
  | fetch => exact memoryOk_execFetch h
  | txbegin => exact memoryOk_execTxbegin h
  | txend => exact memoryOk_execTxend h
  | txabort => exact memoryOk_execTxabort h
  | txstat => exact memoryOk_execTxstat h
  | trap => exact memoryOk_execTrap h
  | bkpt => exact memoryOk_execBkpt h
  | hret k f => exact memoryOk_execHret (_f := f) h
  | qpost => exact memoryOk_execQpost h
  | ckpt => exact memoryOk_execCkpt h
  | issueSelection => exact memoryOk_execIssueSelection h
  | lineFill => exact memoryOk_execLineFill h
  | longLatencyComplete => exact memoryOk_execLongLatencyComplete h
  | laneReplay => exact memoryOk_execLaneReplay h
  | returnStackFillReturn => exact memoryOk_execReturnStackFillReturn h
  | sleepExpire => exact memoryOk_execSleepExpire h
  | handlerEntry => exact memoryOk_execHandlerEntry h
  | regqGrant => exact memoryOk_execRegqGrant h
  | windowSectorArrival => exact memoryOk_execWindowSectorArrival h
  | windowSectorFault => exact memoryOk_execWindowSectorFault h
  | wflushComplete => exact memoryOk_execWflushComplete h
  | storeAcceptedAtHome => exact memoryOk_execStoreAcceptedAtHome h
  | matrixEntryStart => exact memoryOk_execMatrixEntryStart h
  | matrixEntryRetire => exact memoryOk_execMatrixEntryRetire h
  | txVerdict => exact memoryOk_execTxVerdict h
  | recordPublished => exact memoryOk_execRecordPublished h
  | coalescingTimerExpire => exact memoryOk_execCoalescingTimerExpire h
  | rresGrant => exact memoryOk_execRresGrant h
  | groupPlace => exact memoryOk_execGroupPlace h
  | groupPlacementComplete => exact memoryOk_execGroupPlacementComplete h
  | groupRetire => exact memoryOk_execGroupRetire h
  | fmtBind => exact memoryOk_execFmtBind h
  | fmtRelease => exact memoryOk_execFmtRelease h
  | fmtVerifyComplete => exact memoryOk_execFmtVerifyComplete h
  | fmtSlotEnable => exact memoryOk_execFmtSlotEnable h
  | fmtSlotDisable => exact memoryOk_execFmtSlotDisable h
  | fmtDrainComplete => exact memoryOk_execFmtDrainComplete h
  | codePageCheckComplete => exact memoryOk_execCodePageCheckComplete h
  | objectLoadComplete => exact memoryOk_execObjectLoadComplete h
  | objectDrainComplete => exact memoryOk_execObjectDrainComplete h
  | ctxCreate => exact memoryOk_execCtxCreate h
  | ctxDestroy => exact memoryOk_execCtxDestroy h
  | loadObject => exact memoryOk_execLoadObject h
  | unloadObject => exact memoryOk_execUnloadObject h
  | save => exact memoryOk_execSave h
  | restore => exact memoryOk_execRestore h
  | checkpoint => exact memoryOk_execCheckpoint h
  | haltArrival => exact memoryOk_execHaltArrival h
  | saveComplete => exact memoryOk_execSaveComplete h
  | preemptRequest => exact memoryOk_execPreemptRequest h
  | qCreate => exact memoryOk_execQCreate h
  | qDestroy => exact memoryOk_execQDestroy h
  | qClear => exact memoryOk_execQClear h
  | notifyWrite => exact memoryOk_execNotifyWrite h
  | queueMap => exact memoryOk_execQueueMap h
  | packetStart => exact memoryOk_execPacketStart h
  | launchGraph => exact memoryOk_execLaunchGraph h
  | copy => exact memoryOk_execCopy h
  | fill => exact memoryOk_execFill h
  | waitMem => exact memoryOk_execWaitMem h
  | waitMemRetest => exact memoryOk_execWaitMemRetest h
  | waitMemPoll => exact memoryOk_execWaitMemPoll h
  | waitMemTimeout => exact memoryOk_execWaitMemTimeout h
  | signalMem => exact memoryOk_execSignalMem h
  | event => exact memoryOk_execEvent h
  | resync => exact memoryOk_execResync h
  | packetComplete => exact memoryOk_execPacketComplete h
  | eventRecordWrite => exact memoryOk_execEventRecordWrite h
  | evtHeadWrite => exact memoryOk_execEvtHeadWrite h
  | fnPauseWrite => exact memoryOk_execFnPauseWrite h
  | functionLevelReset => exact memoryOk_execFunctionLevelReset h
  | weightWrite => exact memoryOk_execWeightWrite h
  | prqEntryWrite => exact memoryOk_execPrqEntryWrite h
  | prqReply => exact memoryOk_execPrqReply h
  | prqBaseWrite => exact memoryOk_execPrqBaseWrite h
  | invContextAll => exact memoryOk_execInvContextAll h
  | invContextRange => exact memoryOk_execInvContextRange h
  | invStage2All => exact memoryOk_execInvStage2All h
  | invStage2Range => exact memoryOk_execInvStage2Range h
  | invComplete => exact memoryOk_execInvComplete h
  | atsCompletion => exact memoryOk_execAtsCompletion h
  | prgResponse => exact memoryOk_execPrgResponse h
  | atsInvalidateRequest => exact memoryOk_execAtsInvalidateRequest h
  | hostAccess => exact memoryOk_execHostAccess h
  | partCreate => exact memoryOk_execPartCreate h
  | partDestroy => exact memoryOk_execPartDestroy h
  | partGrow => exact memoryOk_execPartGrow h
  | partShrink => exact memoryOk_execPartShrink h
  | shareSet => exact memoryOk_execShareSet h
  | lend => exact memoryOk_execLend h
  | keyEnroll => exact memoryOk_execKeyEnroll h
  | meterReport => exact memoryOk_execMeterReport h
  | meterSeed => exact memoryOk_execMeterSeed h
  | wayMoveEpoch => exact memoryOk_execWayMoveEpoch h
  | lnkReset => exact memoryOk_execLnkReset h
  | partnerDetect => exact memoryOk_execPartnerDetect h
  | trainingComplete => exact memoryOk_execTrainingComplete h
  | trainingTimeout => exact memoryOk_execTrainingTimeout h
  | linkFailure => exact memoryOk_execLinkFailure h
  | flitReceive => exact memoryOk_execFlitReceive h
  | peerRequestReceive => exact memoryOk_execPeerRequestReceive h
  | pcieLinkDown => exact memoryOk_execPcieLinkDown h
  | dump => exact memoryOk_execDump h
  | dumpComplete => exact memoryOk_execDumpComplete h
  | lockInterfaceRequest => exact memoryOk_execLockInterfaceRequest h
  | startInterfaceRequest => exact memoryOk_execStartInterfaceRequest h
  | stopInterfaceRequest => exact memoryOk_execStopInterfaceRequest h
  | getDeviceInterfaceReport => exact memoryOk_execGetDeviceInterfaceReport h
  | tdiError => exact memoryOk_execTdiError h
  | getCertificate => exact memoryOk_execGetCertificate h
  | getMeasurements => exact memoryOk_execGetMeasurements h
  | writeSlot => exact memoryOk_execWriteSlot h
  | setMarker => exact memoryOk_execSetMarker h
  | commitSvn => exact memoryOk_execCommitSvn h
  | ownerFuse => exact memoryOk_execOwnerFuse h
  | writeConfig => exact memoryOk_execWriteConfig h
  | boot => exact memoryOk_execBoot h
  | softError => exact memoryOk_execSoftError h
  | patrolScrub => exact memoryOk_execPatrolScrub h
  | katConfirmed => exact memoryOk_execKatConfirmed h
  | registerWrite => exact memoryOk_execRegisterWrite h
  | powerLoss => exact memoryOk_execPowerLoss h
  | ideKmKeyProg => exact memoryOk_execIdeKmKeyProg h
  | securedSpdmSession => exact memoryOk_execSecuredSpdmSession h
  -- The last instruction is RECALL, whose constructor's name is a keyword of Mathlib.
  | _ => exact memoryOk_execRecall h

/-! ### The step -/

/-- The state in which the next step runs, or that it leaves, has every memory in its canonical form. -/
def Up.Ok : Up → Prop
  | .run _ s => s.MemoryOk
  | .done s => s.MemoryOk

theorem up_fetchUp {s : State} {x : View} (h : s.MemoryOk) : (fetchUp s x).Ok := by
  unfold fetchUp
  split
  · exact memoryOk_postOnce (memoryOk_deselect h)
  · split
    · exact memoryOk_trapLanes (memoryOk_dropLine h)
    · split
      · exact h
      · exact memoryOk_trapLanes h

theorem up_agendaUp {s : State} (h : s.MemoryOk) : (agendaUp s).Ok := by
  unfold agendaUp
  split
  · exact memoryOk_withFields (memoryOk_chargeHostWrite h) rfl
  · exact h

theorem up_selectUp {s : State} (h : s.MemoryOk) : (selectUp s).Ok := by
  have hs := memoryOk_flushPosts (memoryOk_settleFences (memoryOk_speculate h))
  unfold selectUp
  dsimp only
  split
  · exact memoryOk_withFields (memoryOk_joinCycle hs) rfl
  · exact up_agendaUp (memoryOk_endCycle hs)

theorem up_nextUp {s : State} (h : s.MemoryOk) : (nextUp s).Ok := by
  have hs : State.MemoryOk { s with time := s.time + 1 } := memoryOk_withFields h rfl
  unfold nextUp
  dsimp only
  split
  · exact up_fetchUp (memoryOk_withFields hs rfl)
  · split
    · exact up_selectUp (memoryOk_deselect hs)
    · exact up_agendaUp (memoryOk_deselect hs)

/-- Settles O59: what is due next runs in a state whose memories are in canonical form, and every instruction's meaning keeps
them so. -/
theorem stepKeepsMemories : Obligations.StepKeepsMemories := by
  unfold Obligations.StepKeepsMemories
  intro s t h hst
  have hu := up_nextUp h
  unfold step at hst
  split at hst
  next e =>
    rw [e] at hu
    exact memoryOk_exec hu t hst
  next e =>
    rw [e] at hu
    exact Host.Outcome.next.inj hst ▸ hu

end Sys2Proof.Machine
end
